-- ==== Sys2Proof/Word.lean ====
section
/-!
DEFINITION. The word types of the SX9 (R48, R60, R99, R125, R356): bytes, 32-bit lane words, 64-bit scalar
words, 96-bit instruction slots and 512-bit fetch lines.
-/
namespace Sys2Proof

/-- One byte of memory. -/
abbrev Byte := BitVec 8
/-- One 32-bit lane register, or one Scribe scalar register (R99, R356). -/
abbrev Word := BitVec 32
/-- One 64-bit scalar register (R125). -/
abbrev DWord := BitVec 64
/-- One bit per lane of a group: bit l is lane l (R28). -/
abbrev Mask := BitVec 32
/-- One instruction slot (R48). -/
abbrev Slot := BitVec 96
/-- One fetch line (R48). -/
abbrev Line := BitVec 512

end Sys2Proof
end

