-- ==== Sys2Proof/Syntax.lean ====
section
/-!
DEFINITION. The operations of the SX9: one constructor of `Instr` per row of spec/opcode_table.json.
Rows are of four sorts: instructions of the 96-bit formats (R60 to R69), Scribe instructions (R361, R362),
management commands (R421), and events of the device, its engines, its fabric and its host (file 95).
A 96-bit instruction carries the fields of its format, a Scribe instruction the fields of its word, a command
its credential, context and arguments, and an event names its subject and what arrives from outside.
-/
namespace Sys2Proof

/-- Element types of format L (R64). -/
inductive Ty where
  | i32 | u32 | i16 | i8 | u8 | f32 | f16 | bf16 | e4m3 | e5m2 | b32
  deriving DecidableEq, Repr, Inhabited

/-- Types of format S (R69). -/
inductive STy where
  | i64 | u64 | i32 | u32 | b64
  deriving DecidableEq, Repr, Inhabited

/-- Rounding modes (R106). -/
inductive RM where
  | rn | rz | ru | rd | rs
  deriving DecidableEq, Repr, Inhabited

/-- Operand kinds of format L (R63); format S uses `vec` for an s register and `imm` (R69). -/
inductive Kind where
  | vec | sca | imm
  deriving DecidableEq, Repr, Inhabited

/-- Edge fills (R65). -/
inductive Edge where
  | zero | rep | wrap | desc | scal
  deriving DecidableEq, Repr, Inhabited

/-- Reduce operators (R65). -/
inductive Rop where
  | add | max | min | and | or | xor
  deriving DecidableEq, Repr, Inhabited

/-- Access widths (R66). -/
inductive Wid where
  | b8 | b16 | b32 | b64 | b128
  deriving DecidableEq, Repr, Inhabited

/-- Spaces (R66). -/
inductive Spc where
  | tm | sp | far
  deriving DecidableEq, Repr, Inhabited

/-- Order of a format M access (R66). -/
inductive Ord where
  | none | acq | rel | both
  deriving DecidableEq, Repr, Inhabited

/-- Scopes (R66, R318). -/
inductive Scope where
  | group | team | cluster | die | device | domain
  deriving DecidableEq, Repr, Inhabited

/-- Flag choice of formats M and E (R66, R68). -/
inductive FlagSel where
  | none | x | y
  deriving DecidableEq, Repr, Inhabited

/-- Counter classes (R68). -/
inductive OcClass where
  | copy | mat | gath | coll
  deriving DecidableEq, Repr, Inhabited

/-- Guard predicate and its negation (R60, R62). -/
structure Guard where
  p   : BitVec 3
  neg : Bool
  deriving DecidableEq, Repr, Inhabited

/-- The register fields every 96-bit instruction has (R60). -/
structure Regs where
  g   : Guard
  dst : BitVec 8
  a   : BitVec 8
  b   : BitVec 8
  c   : BitVec 8
  deriving DecidableEq, Repr, Inhabited

/-- Format L (R63). -/
structure LFmt where
  r   : Regs
  ty  : Ty
  fn  : BitVec 4
  sat : Bool
  rm  : RM
  ka  : Kind
  kb  : Kind
  kc  : Kind
  imm : Word
  deriving DecidableEq, Repr, Inhabited

/-- Format P (R65). `yAxis` is AX. -/
structure PFmt where
  r     : Regs
  fn    : BitVec 4
  set   : Bool
  yAxis : Bool
  amt   : BitVec 8
  edge  : Edge
  rop   : Rop
  imm   : Word
  deriving DecidableEq, Repr, Inhabited

/-- Format M (R66). `vAddr` is AK. -/
structure MFmt where
  r     : Regs
  wid   : Wid
  spc   : Spc
  ord   : Ord
  scope : Scope
  fs    : FlagSel
  vAddr : Bool
  mfn   : BitVec 6
  ofs   : Word
  deriving DecidableEq, Repr, Inhabited

/-- Format B (R67). -/
structure BFmt where
  r    : Regs
  bk   : BitVec 4
  tsl  : BitVec 3
  toff : BitVec 20
  rsl  : BitVec 3
  roff : BitVec 20
  deriving DecidableEq, Repr, Inhabited

/-- Format E (R68). `pair` is REC. -/
structure EFmt where
  r   : Regs
  pair : BitVec 6
  bv  : Bool
  bar : BitVec 6
  cc  : OcClass
  tv  : Bool
  trg : BitVec 6
  fs  : FlagSel
  efn : BitVec 4
  imm : BitVec 16
  deriving DecidableEq, Repr, Inhabited

/-- Format S (R69). -/
structure SFmt where
  r   : Regs
  ty  : STy
  fn  : BitVec 4
  ka  : Kind
  kb  : Kind
  kc  : Kind
  imm : Word
  deriving DecidableEq, Repr, Inhabited

/-- Where a barrier object or a mortise lies: team memory of a team, or a physical address (R291). -/
inductive ObjLoc where
  | team (team off : Nat)
  | phys (pa : Nat)
  deriving DecidableEq, Repr, Inhabited

/-- What a MEMORY_ACCESS_PERFORMED event performs: one lane of an operand-log entry (R262, R380); one frame
update of a replicated page with PROP 0 (R251, R327); the held reductions of a barrier whose advance waits
(R302); or the held reductions of a group that waits to drain them (R266). -/
inductive AccessRef where
  | lane (gid id lane : Nat)
  | frame (index : Nat)
  | advance (loc : ObjLoc)
  | drain (gid : Nat)
  deriving DecidableEq, Repr, Inhabited

/-- A fabric packet as R345 and R360 describe it. `be` enables the bytes of the 64-byte line at `addr`; `tag`
names the requester's request; `lane` is the lane its fault record names (R255), `aop`, `aty`, `awid` and `cmp` serve atomics (R264, R265), and `credit`
names the barrier object that the receiver credits after a Scribe trap record is written (R373). DEDUCED, log 86. -/
structure Packet where
  cls       : Nat
  job       : Nat
  src       : Nat
  dest      : Nat
  addr      : DWord
  cgid      : Nat
  seqk      : Nat
  member    : Nat
  mcount    : Nat
  chunk     : Nat
  fmtop     : Nat
  mark      : Nat
  port      : Nat
  plen      : Nat
  payload   : Line
  be        : DWord
  tag       : Nat
  lane      : Nat
  aop       : Nat
  aty       : Nat
  awid      : Nat
  cmp       : Line
  returning : Bool
  credit    : Option DWord
  acked     : Bool := false
  deriving DecidableEq, Repr, Inhabited

/-- The header every member sends before the data of a collective moves (R349). -/
structure CollHdr where
  cop   : Nat
  rop   : Nat
  efmt  : Nat
  count : Nat
  axes  : Nat
  gx    : Nat
  gy    : Nat
  gz    : Nat
  origin : Nat
  root  : Nat
  deriving DecidableEq, Repr, Inhabited

/-- What a COLLECTIVE_STEP carries: a header, a 64-byte chunk of a member's contribution, a reduced chunk
(MEMBER 0xFFFF, R374), or the notice that a member killed its part (R351). -/
inductive CollBody where
  | header (h : CollHdr)
  | chunk (index len : Nat) (data : Line)
  | reduced (index len : Nat) (data : Line)
  | killed
  deriving DecidableEq, Repr, Inhabited

/-- A collective step from member `member` (R341, R349, R350), with the other fields of its header (R360) and the tag that
its acknowledgement names (R346). -/
structure CollMsg where
  job    : Nat
  cgid   : Nat
  k      : Nat
  member : Nat
  src    : Nat
  mcount : Nat
  fmtop  : Nat
  mark   : Nat
  tag    : Nat
  body   : CollBody
  deriving DecidableEq, Repr, Inhabited

/-- A 64-bit write to a register of BAR 0 that its writer must have the right to (R35, R394): the value, and the writer's credential. -/
structure RegVal where
  val : DWord
  who : Nat
  deriving DecidableEq, Repr, Inhabited

/-- Where a soft error is found (R392, R371). -/
inductive EccLoc where
  | mem (pa : Nat)
  | team (team off : Nat)
  | reg (gid key : Nat)
  | flow (proc slot : Nat)
  deriving DecidableEq, Repr, Inhabited

/-- What is fitted and attached when power is applied (R1, R244, R420): LPDDR6 on the module, the capacity in
GiB of the expander at each of the eight ports (none where none is attached, 0 for one that fails enumeration), and the
size of the host's mapped memory. -/
structure Fitted where
  lpddr     : Bool
  expanders : List (Option Nat)
  hostBytes : Nat
  deriving DecidableEq, Repr, Inhabited

/-- A management command: the credential of its path, whether that path is MCTP rather than the mailbox, the context
it names and its four arguments (R421). DESIGN CHOICE, log 12. -/
structure MCmd where
  who : Nat
  mctp : Bool
  ctx : Nat
  a0  : DWord
  a1  : DWord
  a2  : DWord
  a3  : DWord
  deriving DecidableEq, Repr, Inhabited

/-- What a Scribe control message between management cores carries (R341, R358): a command, or a job's binding of a CGID to
switch reduction at a rank (R374). DESIGN CHOICE, log 49. -/
inductive ScribeCtl where
  | bind | unbind | snap
  | reduce (cgid rank : Nat)
  deriving DecidableEq, Repr, Inhabited

/-- One constructor per row of spec/opcode_table.json, in the order of its classes: groups' instructions, Scribe words,
events and commands. -/
inductive Instr where
  /-- ADD (R150). Per-lane add of integer or floating elements, wrapping or saturating, rounded once under RM. -/
  | add (f : LFmt)
  /-- SUB (R150). Per-lane subtract of integer or floating elements. -/
  | sub (f : LFmt)
  /-- MUL (R150). Per-lane multiply, keeping the low bits or the clamped product for integers. -/
  | mul (f : LFmt)
  /-- MULHI (R150). Per-lane high half of the exact double-width integer product. -/
  | mulhi (f : LFmt)
  /-- MAD (R150). Per-lane integer A×B+C formed exactly, then wrapped or clamped. -/
  | mad (f : LFmt)
  /-- FMA (R150). Per-lane floating A×B+C rounded once. -/
  | fma (f : LFmt)
  /-- MIN (R151). Per-lane lesser element, with the NaN and signed-zero rules for floats. -/
  | min (f : LFmt)
  /-- MAX (R151). Per-lane greater element, with the NaN and signed-zero rules for floats. -/
  | max (f : LFmt)
  /-- ABS (R150). Per-lane absolute value; on floats the sign bit is cleared. -/
  | abs (f : LFmt)
  /-- NEG (R150). Per-lane negation; on floats the sign bit is inverted. -/
  | neg (f : LFmt)
  /-- CLAMP (R150). Per-lane MIN(MAX(A, B), C). -/
  | clamp (f : LFmt)
  /-- ADDMIN (R153). Per-lane exact sum clamped to the type's range, then the lesser of that and C. -/
  | addmin (f : LFmt)
  /-- DOT2 (R152). Per-lane two-element dot product plus a 32-bit accumulator, rounded once. -/
  | dot2 (f : LFmt)
  /-- FRND (R150). Per-lane rounding of a float to an integral value of its own format. -/
  | frnd (f : LFmt)
  /-- MOV (R154). Per-lane copy of 32 bits unchanged. -/
  | mov (f : LFmt)
  /-- AND (R154). Per-lane bitwise AND. -/
  | and (f : LFmt)
  /-- OR (R154). Per-lane bitwise OR. -/
  | or (f : LFmt)
  /-- XOR (R154). Per-lane bitwise XOR. -/
  | xor (f : LFmt)
  /-- NOT (R154). Per-lane bitwise NOT. -/
  | not (f : LFmt)
  /-- SHL (R154). Per-lane shift left by B mod width, zeros in. -/
  | shl (f : LFmt)
  /-- SHR (R154). Per-lane logical shift right by B mod width. -/
  | shr (f : LFmt)
  /-- SAR (R154). Per-lane arithmetic shift right by B mod width. -/
  | sar (f : LFmt)
  /-- BFX (R155). Per-lane bit-field extract, zero- or sign-extended. -/
  | bfx (f : LFmt)
  /-- BFI (R155). Per-lane bit-field insert into C. -/
  | bfi (f : LFmt)
  /-- POPC (R154). Per-lane count of one bits. -/
  | popc (f : LFmt)
  /-- CLZ (R154). Per-lane count of leading zero bits. -/
  | clz (f : LFmt)
  /-- BREV (R154). Per-lane bit reversal. -/
  | brev (f : LFmt)
  /-- PACK (R156). Per-lane rearrangement of 16-bit halves or bytes in LO, HI or PERM form. -/
  | pack (f : LFmt)
  /-- CMP (R157). Per-lane comparison writing a predicate bit per active lane. -/
  | cmp (f : LFmt)
  /-- SEL (R158). Per-lane choice of A or B by a predicate. -/
  | sel (f : LFmt)
  /-- BALLOT (R159). Gathers the active lanes' predicate bits into a scalar register. -/
  | ballot (f : LFmt)
  /-- LSHF (R161). Moves 32-bit values between lanes of one group in UP, DN, XOR or IDX mode, with fill. -/
  | lshf (f : LFmt)
  /-- PAND (R160). Per-lane AND of predicate bits. -/
  | pand (f : LFmt)
  /-- POR (R160). Per-lane OR of predicate bits. -/
  | por (f : LFmt)
  /-- PXOR (R160). Per-lane XOR of predicate bits. -/
  | pxor (f : LFmt)
  /-- PNOT (R160). Per-lane NOT of predicate bits. -/
  | pnot (f : LFmt)
  /-- RAND (R162). Per-lane stateless hash of A and B into 32 random bits. -/
  | rand (f : LFmt)
  /-- CVT (R164). Per-lane conversion between element types, widening or narrowing by part number. -/
  | cvt (f : LFmt)
  /-- RCP (R167). Per-lane reciprocal rounded once under RN. -/
  | rcp (f : LFmt)
  /-- RSQ (R167). Per-lane reciprocal square root rounded once. -/
  | rsq (f : LFmt)
  /-- EXP2 (R167). Per-lane power of two rounded once. -/
  | exp2 (f : LFmt)
  /-- LOG2 (R167). Per-lane base-2 logarithm rounded once. -/
  | log2 (f : LFmt)
  /-- SIN (R167). Per-lane sine rounded once. -/
  | sin (f : LFmt)
  /-- COS (R167). Per-lane cosine rounded once. -/
  | cos (f : LFmt)
  /-- PDSET (R192). Writes word 0 of a plane descriptor with shape, format, foldings and base register. -/
  | pdset (f : PFmt)
  /-- PDSET_EDGE (R192). Writes the edge fill constant of a descriptor. -/
  | pdsetEdge (f : PFmt)
  /-- PDSET_DIM (R192). Sets the extent and stride of one outer dimension of a descriptor. -/
  | pdsetDim (f : PFmt)
  /-- PDSET_LIKE (R192). Copies a descriptor, replacing its base register and foldings. -/
  | pdsetLike (f : PFmt)
  /-- PDGET (R194). Reads one word of a descriptor into a scalar register. -/
  | pdget (f : PFmt)
  /-- PSHIFT (R195). Shifts a plane along an axis, filling by the edge mode. -/
  | pshift (f : PFmt)
  /-- PROT (R195). Rotates a plane along an axis over its logical extent. -/
  | prot (f : PFmt)
  /-- PSPREAD (R195). Spreads one index of a plane along an axis to every position. -/
  | pspread (f : PFmt)
  /-- PFOLD (R196). Reduces each line of a plane by a fixed tree into its first element. -/
  | pfold (f : PFmt)
  /-- PREFOLD (R197). Moves each plane element to its place under another folding. -/
  | prefold (f : PFmt)
  /-- PTRANS (R198). Transposes a plane, filling positions beyond the source by the edge mode. -/
  | ptrans (f : PFmt)
  /-- PEW2 (R200). Element-wise operation on two planes of equal placement. -/
  | pew2 (f : PFmt)
  /-- PEW3 (R202). Element-wise FMA, MAD, CLAMP or ADDMIN on three planes. -/
  | pew3 (f : PFmt)
  /-- PEWC (R200). Element-wise operation of a plane with a constant. -/
  | pewc (f : PFmt)
  /-- PIOTA (R203). Writes each element's coordinate along an axis plus an offset. -/
  | piota (f : PFmt)
  /-- PSCAN (R196). Inclusive scan of each line by the fold tree. -/
  | pscan (f : PFmt)
  /-- PSEL (R208). Chooses elements of two planes by a mask plane. -/
  | psel (f : PFmt)
  /-- PCMP (R207). Compares two planes into a mask plane. -/
  | pcmp (f : PFmt)
  /-- PPSHIFT (R209). Shifts a mask plane along an axis. -/
  | ppshift (f : PFmt)
  /-- PPROT (R209). Rotates a mask plane along an axis. -/
  | pprot (f : PFmt)
  /-- PPSPREAD (R209). Spreads one index of a mask plane along an axis. -/
  | ppspread (f : PFmt)
  /-- PPFOLD (R210). Folds mask lines with and, or or xor. -/
  | ppfold (f : PFmt)
  /-- PPLOG (R211). Combines two mask planes bit by bit. -/
  | pplog (f : PFmt)
  /-- PFILL (R204). Writes one value into every logical element of a plane. -/
  | pfill (f : PFmt)
  /-- PEXTR (R205). Extracts one plane element into a scalar register. -/
  | pextr (f : PFmt)
  /-- COLLECTIVE_PLANE_COMPLETE (R182). A collective plane operation completes once every member group has arrived or exited and writes each group's destinations. -/
  | collectivePlaneComplete (team seq : Nat)
  /-- MRES (R221). Reserves a range of the operand buffer and writes BASE, ID, GEN and VALID into the record pair. -/
  | mres (f : EFmt)
  /-- MREL (R223). Requests release of a reservation once every request naming it has completed. -/
  | mrel (f : EFmt)
  /-- MREL_RELEASE (R223). The reservation's range and number are freed and its generation advanced after its last request completes. -/
  | mrelRelease (bay req : Nat)
  /-- MMA_Q (R229). Joins a gang of four quarter requests that share one B operand. -/
  | mmaQ (f : EFmt)
  /-- MMA_S (R228). Posts a single matrix pass adding A×B into the rows of the active lanes. -/
  | mmaS (f : EFmt)
  /-- MSPMM (R231). Posts a sparse-A matrix pass over indexed value slots. -/
  | mspmm (f : EFmt)
  /-- MZERO (R233). Zeroes the tile rows of the active lanes. -/
  | mzero (f : EFmt)
  /-- MFILL (R233). Fills tile rows from the lanes' registers, optionally broadcast. -/
  | mfill (f : EFmt)
  /-- MDRAIN (R233). Copies tile rows into the lanes' registers, optionally zeroing them. -/
  | mdrain (f : EFmt)
  /-- MBYPASS (R234). Converts a tile into operand-A elements of a reservation. -/
  | mbypass (f : EFmt)
  /-- ACCALLOC (R235). Zeroes the named tiles and marks them live. -/
  | accalloc (f : EFmt)
  /-- ACCFREE (R235). Discards the named tiles and clears their live bits. -/
  | accfree (f : EFmt)
  /-- MSTAT (R236). Returns the engine's free entries, numbers, runs, live mask, ownership and gang errors. -/
  | mstat (f : EFmt)
  /-- MATRIX_GRANT (R218). The arbiter grants an eligible matrix request its arrays or the tile port. -/
  | matrixGrant (bay : Nat)
  /-- MATRIX_REQUEST_URGENT (R218). A matrix request eligible for 1024 engine clocks becomes urgent. -/
  | matrixRequestUrgent (bay req : Nat)
  /-- MATRIX_REQUEST_COMPLETE (R219). A granted matrix request completes, writing its tile or registers, crediting its barrier and decrementing oc.mat. -/
  | matrixRequestComplete (bay req : Nat)
  /-- SCALAR_ADD (R127). Scalar add of two s operands modulo 2^w. -/
  | scalarAdd (f : SFmt)
  /-- SCALAR_SUB (R127). Scalar subtract. -/
  | scalarSub (f : SFmt)
  /-- SCALAR_MUL (R127). Scalar multiply keeping the low w bits. -/
  | scalarMul (f : SFmt)
  /-- SCALAR_MULHI (R127). Scalar high w bits of the exact product. -/
  | scalarMulhi (f : SFmt)
  /-- DIV (R128). Scalar division rounded toward zero, with defined results for zero divisor and overflow. -/
  | div (f : SFmt)
  /-- REM (R128). Scalar remainder with the sign of A, with defined special cases. -/
  | rem (f : SFmt)
  /-- SCALAR_MIN (R127). Scalar lesser, signed or unsigned by type. -/
  | scalarMin (f : SFmt)
  /-- SCALAR_MAX (R127). Scalar greater, signed or unsigned by type. -/
  | scalarMax (f : SFmt)
  /-- SCALAR_AND (R127). Scalar 64-bit AND. -/
  | scalarAnd (f : SFmt)
  /-- SCALAR_OR (R127). Scalar 64-bit OR. -/
  | scalarOr (f : SFmt)
  /-- SCALAR_XOR (R127). Scalar 64-bit XOR. -/
  | scalarXor (f : SFmt)
  /-- SCALAR_NOT (R127). Scalar 64-bit NOT. -/
  | scalarNot (f : SFmt)
  /-- SCALAR_SHL (R127). Scalar shift left by B mod w. -/
  | scalarShl (f : SFmt)
  /-- SCALAR_SHR (R127). Scalar logical shift right by B mod w. -/
  | scalarShr (f : SFmt)
  /-- SCALAR_SAR (R127). Scalar arithmetic shift right by B mod w. -/
  | scalarSar (f : SFmt)
  /-- SCALAR_CMP (R129). Scalar comparison writing 1 or 0. -/
  | scalarCmp (f : SFmt)
  /-- SCALAR_SEL (R129). Scalar choice of A or B by C. -/
  | scalarSel (f : SFmt)
  /-- SCALAR_MOV (R129). Scalar move, extended under 32-bit types. -/
  | scalarMov (f : SFmt)
  /-- SCALAR_POPC (R127). Scalar count of one bits. -/
  | scalarPopc (f : SFmt)
  /-- SCALAR_CLZ (R127). Scalar count of leading zero bits. -/
  | scalarClz (f : SFmt)
  /-- SCALAR_BFX (R130). Scalar 64-bit bit-field extract. -/
  | scalarBfx (f : SFmt)
  /-- SCALAR_BFI (R130). Scalar 64-bit bit-field insert. -/
  | scalarBfi (f : SFmt)
  /-- MOVP (R129). Copies a predicate's 32 lane bits into an s register. -/
  | movp (f : SFmt)
  /-- MOVPS (R129). Writes predicate bits of the split's guarded lanes from an s register. -/
  | movps (f : SFmt)
  /-- BRA (R132). Transfers the whole split to the target. -/
  | bra (f : BFmt)
  /-- BRC (R133). Diverging branch or region opener creating a join record of branch, loop or break kind. -/
  | brc (f : BFmt)
  /-- BRK (R135). Guarded lanes break out of n enclosing regions. -/
  | brk (f : BFmt)
  /-- CONT (R136). Moves the split to the head of the n-th enclosing loop region. -/
  | cont (f : BFmt)
  /-- LOOP (R137). Decrements a counter register and branches while it is nonzero. -/
  | loop (f : BFmt)
  /-- JMPI (R139). Uniform indirect jump to a code position read from a v register. -/
  | jmpi (f : BFmt)
  /-- CALL (R140). Writes the return position per lane and transfers to the target. -/
  | call (f : BFmt)
  /-- CALLI (R139). Indirect call through a uniform code position, writing the return position. -/
  | calli (f : BFmt)
  /-- RET (R139). Returns to a uniform code position read from a v register. -/
  | ret (f : BFmt)
  /-- EXIT (R141). Ends the guarded lanes of the split; the last lanes begin the group's exit. -/
  | exit (f : BFmt)
  /-- YIELD (R142). Demotes the split and resets the group's age. -/
  | yield (f : BFmt)
  /-- SRD (R143). Reads a system register into an s register. -/
  | srd (f : SFmt)
  /-- SWR (R143). Writes a system register from an s register, with the side effects of that register. -/
  | swr (f : SFmt)
  /-- LAUNCH (R146). Appends a launch record from memory to a device-fed queue and returns a status. -/
  | launch (f : MFmt)
  /-- LD (R262). Loads w bytes per lane from team memory or own-die scratchpad, optionally polling. -/
  | ld (f : MFmt)
  /-- ST (R262). Stores w bytes per lane to team memory or own-die scratchpad. -/
  | st (f : MFmt)
  /-- LDF (R263). Far load through the far-read cache by virtual address. -/
  | ldf (f : MFmt)
  /-- STF (R263). Posted far store by virtual address. -/
  | stf (f : MFmt)
  /-- ATOM (R265). Returning atomic read-modify-write at the home of each lane's address. -/
  | atom (f : MFmt)
  /-- RED (R266). Places non-returning reduction entries in the group's atomic buffer. -/
  | red (f : MFmt)
  /-- FLUSHRED (R267). Drains the group's held RED entries to their homes. -/
  | flushred (f : MFmt)
  /-- THLD (R280). Loads a 64-byte tensor handle and computes its TYPE. -/
  | thld (f : MFmt)
  /-- THST (R280). Stores a tensor handle register's 64 bytes. -/
  | thst (f : MFmt)
  /-- PRESCLR (R268). Clears the presence bit of an own-die scratchpad line. -/
  | presclr (f : MFmt)
  /-- PRESCLR_SET (R268). Sets the presence bit of an own-die scratchpad line. -/
  | presclrSet (f : MFmt)
  /-- PRESTEST (R268). Reads presence bits of lines into a predicate. -/
  | prestest (f : MFmt)
  /-- CPYT (R272). Hands a linear, tile or collective copy to the core's tile-copy engine. -/
  | cpyt (f : EFmt)
  /-- GATH (R278). Gathers indexed rows of a far table into team memory. -/
  | gath (f : EFmt)
  /-- GATH_TH (R282). Gathers window entries of a sparse handle's rows into MSPMM reservation slots. -/
  | gathTh (f : EFmt)
  /-- SCAT (R279). Scatters team-memory rows to indexed rows of a far table, plainly or by addition. -/
  | scat (f : EFmt)
  /-- WAITCNT (R270). Holds the split until a counter class falls to a level. -/
  | waitcnt (f : EFmt)
  /-- COPY_ACCEPT (R246). The copy engine accepts a copy, reading any extended record and clearing presence of destination lines. -/
  | copyAccept (core op : Nat) (data : List Byte)
  /-- COPY_LINE_LANDED (R275). Copied bytes land, setting presence and crediting the barrier object. -/
  | copyLineLanded (core op first count : Nat) (data : List Byte)
  /-- COPY_COMPLETE (R276). A copy, gather or scatter completes and its counter decrements in order. -/
  | copyComplete (core op : Nat)
  /-- BARINIT (R296). Initialises a barrier object and tags its line. -/
  | barinit (f : EFmt)
  /-- BARFREE (R297). Clears VALID of a barrier object and possibly its line's tag. -/
  | barfree (f : EFmt)
  /-- BARARR (R298). Flushes RED entries, publishes, and applies arrivals to a barrier object. -/
  | bararr (f : EFmt)
  /-- BARWAIT (R299). Parks the split until a phase is reached, then refreshes. -/
  | barwait (f : EFmt)
  /-- BARTEST (R300). Returns the phase and whether a phase is reached. -/
  | bartest (f : EFmt)
  /-- MORTINIT (R311). Initialises a mortise line and tags it. -/
  | mortinit (f : MFmt)
  /-- MORTINIT_FREE (R311). Frees an empty mortise, clearing VALID and the tag. -/
  | mortinitFree (f : MFmt)
  /-- MORTACQ (R312). Appends a place to a mortise queue and returns its peg. -/
  | mortacq (f : MFmt)
  /-- PEGWAIT (R313). Parks until the turn reaches a place, or reports it gone. -/
  | pegwait (f : MFmt)
  /-- PEGGIVE (R314). Rebinds a place's holder to another group. -/
  | peggive (f : MFmt)
  /-- PEGSWAP (R315). Exchanges two places' positions in queue order. -/
  | pegswap (f : MFmt)
  /-- PEGDROP (R316). Abandons a place, or releases it if holding. -/
  | pegdrop (f : MFmt)
  /-- MORTREL (R317). Releases the holding place and advances the turn, skipping abandoned places. -/
  | mortrel (f : MFmt)
  /-- MORTISE_SKIP_STEP (R317). One background step of skipping an abandoned place while ADV is set. -/
  | mortiseSkipStep (pa : Nat)
  /-- PUBLISH (R301). Drains RED entries and publishes the group's writes at a scope. -/
  | publish (f : MFmt)
  /-- REFRESH (R301). Makes later accesses see stores published at a scope. -/
  | refresh (f : MFmt)
  /-- IFENCE (R301). Publishes at device scope and discards fetched lines of the context. -/
  | ifence (f : MFmt)
  /-- GRIDARR (R304). Arrives at the scheduler's wide barrier for a scope and parks the group. -/
  | gridarr (f : SFmt)
  /-- MIGRATE (R412). Requests that the group's team move to another core of its quadrant. -/
  | migrate (f : SFmt)
  /-- MIGRATE_MOVE (R412). After the team's outstanding work completes, its state moves to the new core and the status is written. -/
  | migrateMove (team : Nat)
  /-- TRIG (R354). Arms a copy or collective to fire at a global time. -/
  | trig (f : EFmt)
  /-- TRIGCAN (R355). Cancels an armed command and reports whether it had fired. -/
  | trigcan (f : EFmt)
  /-- TRIGGER_FIRE (R354). An armed command whose threshold GTC has reached is handed to the copy engine. -/
  | triggerFire
  /-- GTC_UPDATE (R352). Each network clock the global time counter advances by 0.5 ns plus correction. -/
  | gtcUpdate
  /-- TRAP (R388). Raises SOFT_TRAP detail 0 in each guarded lane. -/
  | trap (f : SFmt)
  /-- SYSCALL (R389). Raises SOFT_TRAP detail 1 for the split with an argument. -/
  | syscall (f : SFmt)
  /-- TRAPRET (R390). Resolves handler lanes' origins by RETRY, RESUME or KILL and exits those lanes. -/
  | trapret (f : SFmt)
  /-- HANDLER_GROUP_START (R383). A handler group starts in a free slot with queued origins when 32 are queued, 64 clocks pass, or all groups stall. -/
  | handlerGroupStart (core slot : Nat)
  /-- FETCH_LINE (R72). A split entering a line fetches it through its translation with execute permission. -/
  | fetchLine (gid pos : Nat) (refill : Bool)
  /-- FLAGGED_COMPLETE (R54). An instruction that chose a flag completes, writing its destinations and lowering the flag's count. -/
  | flaggedComplete (gid id : Nat)
  /-- GROUP_URGENT (R85). A ready group's age reaches 256 clocks and it becomes urgent. -/
  | groupUrgent (gid : Nat)
  /-- THROTTLE_RESELECT (R96). Every 256 clocks each partition chooses the memory-bound groups allowed to issue. -/
  | throttleReselect (core part : Nat)
  /-- CONGESTION_WINDOW (R289). Every 256 network clocks each quadrant computes its congestion level. -/
  | congestionWindow (quad m : Nat)
  /-- MEMORY_ACCESS_PERFORMED (R262). A posted or outstanding memory access is performed at its home, after any presence wait. -/
  | memoryAccessPerformed (ref : AccessRef) (resp : Line)
  /-- GROUP_EXIT_RELEASE (R141). An exited group's outstanding work has completed and its slot, registers and team memory are released. -/
  | groupExitRelease (gid : Nat)
  /-- PLACE_CLUSTER (R45). A queue is served and one cluster is placed atomically on a quadrant, after reading its record and testing dependences. -/
  | placeCluster
  /-- LAUNCH_COMPLETE (R43). Every group of a launch has exited; stores are published and the completion barrier receives an arrival. -/
  | launchComplete (launch : Nat)
  /-- SHOOTDOWN_COMPLETE (R256). No core holds the old translation and its accesses are done; BUSY clears. -/
  | shootdownComplete
  /-- REMOTE_REQUEST_TIMEOUT (R347). A request unanswered for 2 ms gets a port-made fault record with detail 3. -/
  | remoteRequestTimeout (req : Nat)
  /-- REMOTE_ORIGIN_TIMEOUT (R438). A remote request's fault origin unresolved within 1 ms is answered with a NACK. -/
  | remoteOriginTimeout (tag : Nat)
  /-- COLLECTIVE_ACCEPT (R349). The engine accepts a waiting collective on a CGID once the earlier one completes, assigning its sequence number. -/
  | collectiveAccept (core op : Nat)
  /-- SCRIBE_DISPATCH (R359). A Scribe processor starts an invocation on the next accepted packet. -/
  | scribeDispatch (proc : Nat)
  /-- VADD (R363). Scribe vector add by type. -/
  | vadd (d : BitVec 4) (a : BitVec 4) (b : BitVec 4) (m : BitVec 2) (t : BitVec 4)
  /-- VSUB (R363). Scribe vector subtract by type. -/
  | vsub (d : BitVec 4) (a : BitVec 4) (b : BitVec 4) (m : BitVec 2) (t : BitVec 4)
  /-- VMUL (R363). Scribe vector multiply by type. -/
  | vmul (d : BitVec 4) (a : BitVec 4) (b : BitVec 4) (m : BitVec 2) (t : BitVec 4)
  /-- VMIN (R363). Scribe vector minimum by type. -/
  | vmin (d : BitVec 4) (a : BitVec 4) (b : BitVec 4) (m : BitVec 2) (t : BitVec 4)
  /-- VMAX (R363). Scribe vector maximum by type. -/
  | vmax (d : BitVec 4) (a : BitVec 4) (b : BitVec 4) (m : BitVec 2) (t : BitVec 4)
  /-- VAND (R363). Scribe vector bitwise AND. -/
  | vand (d : BitVec 4) (a : BitVec 4) (b : BitVec 4) (m : BitVec 2)
  /-- VOR (R363). Scribe vector bitwise OR. -/
  | vor (d : BitVec 4) (a : BitVec 4) (b : BitVec 4) (m : BitVec 2)
  /-- VXOR (R363). Scribe vector bitwise XOR. -/
  | vxor (d : BitVec 4) (a : BitVec 4) (b : BitVec 4) (m : BitVec 2)
  /-- VSHL (R363). Scribe vector shift left by lane B mod 32. -/
  | vshl (d : BitVec 4) (a : BitVec 4) (b : BitVec 4) (m : BitVec 2)
  /-- VSHR (R363). Scribe vector logical shift right. -/
  | vshr (d : BitVec 4) (a : BitVec 4) (b : BitVec 4) (m : BitVec 2)
  /-- VSAR (R363). Scribe vector arithmetic shift right. -/
  | vsar (d : BitVec 4) (a : BitVec 4) (b : BitVec 4) (m : BitVec 2)
  /-- VSEL (R363). Scribe per-lane choice of A or B by a mask register. -/
  | vsel (d : BitVec 4) (a : BitVec 4) (b : BitVec 4) (m : BitVec 2)
  /-- VCMP (R363). Scribe vector comparison into a mask register. -/
  | vcmp (d : BitVec 2) (a : BitVec 4) (b : BitVec 4) (m : BitVec 2) (r : BitVec 3) (t : BitVec 4)
  /-- VBC (R363). Scribe broadcast of a scalar into guarded lanes. -/
  | vbc (d : BitVec 4) (a : BitVec 4) (m : BitVec 2)
  /-- VEXT (R363). Scribe read of one vector lane into a scalar. -/
  | vext (d : BitVec 4) (a : BitVec 4) (l : BitVec 4)
  /-- VINS (R363). Scribe write of a scalar into one vector lane. -/
  | vins (d : BitVec 4) (a : BitVec 4) (l : BitVec 4)
  /-- SADD (R364). Scribe 32-bit scalar add. -/
  | sadd (d : BitVec 4) (a : BitVec 4) (b : BitVec 4)
  /-- SSUB (R364). Scribe 32-bit scalar subtract. -/
  | ssub (d : BitVec 4) (a : BitVec 4) (b : BitVec 4)
  /-- SAND (R364). Scribe scalar AND. -/
  | sand (d : BitVec 4) (a : BitVec 4) (b : BitVec 4)
  /-- SOR (R364). Scribe scalar OR. -/
  | sor (d : BitVec 4) (a : BitVec 4) (b : BitVec 4)
  /-- SXOR (R364). Scribe scalar XOR. -/
  | sxor (d : BitVec 4) (a : BitVec 4) (b : BitVec 4)
  /-- SSHL (R364). Scribe scalar shift left by an immediate. -/
  | sshl (d : BitVec 4) (a : BitVec 4) (n : BitVec 5)
  /-- SSHR (R364). Scribe scalar shift right by an immediate. -/
  | sshr (d : BitVec 4) (a : BitVec 4) (n : BitVec 5)
  /-- SADDI (R364). Scribe scalar add of a sign-extended immediate. -/
  | saddi (d : BitVec 4) (a : BitVec 4) (i : BitVec 12)
  /-- SMOVI (R364). Scribe scalar move of a sign-extended 22-bit immediate. -/
  | smovi (d : BitVec 4) (i : BitVec 22)
  /-- SMOVH (R364). Scribe replacement of a scalar's bits [31:22]. -/
  | smovh (d : BitVec 4) (i : BitVec 10)
  /-- SCMP (R364). Scribe scalar comparison writing 1 or 0. -/
  | scmp (d : BitVec 4) (a : BitVec 4) (b : BitVec 4) (u : BitVec 1) (r : BitVec 3)
  /-- HRD (R365). Scribe read of a packet header field. -/
  | hrd (d : BitVec 4) (f : BitVec 4)
  /-- HWR (R365). Scribe write of the packet's DEST or MARK field. -/
  | hwr (a : BitVec 4) (f : BitVec 4)
  /-- PLD (R365). Scribe read of the packet payload into a vector. -/
  | pld (d : BitVec 4)
  /-- PST (R365). Scribe write of guarded lanes of the packet payload. -/
  | pst (a : BitVec 4) (m : BitVec 2)
  /-- FLD (R365). Scribe load of a flow slot. -/
  | fld (d : BitVec 4) (a : BitVec 4) (o : BitVec 12)
  /-- FST (R365). Scribe store of guarded lanes into a flow slot. -/
  | fst (a : BitVec 4) (b : BitVec 4) (m : BitVec 2) (o : BitVec 12)
  /-- RACC (R366). Scribe fold of a collective contribution into a reduction region in member order. -/
  | racc (d : BitVec 4) (a : BitVec 4) (o : BitVec 12)
  /-- EMIT (R367). Scribe queue of a new packet to a rank. -/
  | emit (a : BitVec 4) (b : BitVec 4) (r : BitVec 1)
  /-- BNZ (R368). Scribe forward branch when a scalar is nonzero. -/
  | bnz (a : BitVec 4) (o : BitVec 12)
  /-- BZ (R368). Scribe forward branch when a scalar is zero. -/
  | bz (a : BitVec 4) (o : BitVec 12)
  /-- JMP (R368). Scribe unconditional forward branch. -/
  | jmp (o : BitVec 12)
  /-- REPEAT (R368). Scribe bounded repetition of the following body words. -/
  | scribeRepeat (d : BitVec 4) (b : BitVec 8) (n : BitVec 9)
  /-- PASS (R368). Ends the invocation, sending emitted packets and forwarding the packet. -/
  | pass
  /-- DROP (R368). Ends the invocation, sending emitted packets and discarding the packet. -/
  | drop
  /-- TRAPK (R368). Ends the invocation with a KTRAP trap of a given detail. -/
  | trapk (c : BitVec 8)
  /-- CONTEXT_SWITCH_DONE (R395). The bank exchange or spill and fill ends and the incoming context issues. -/
  | contextSwitchDone (core : Nat)
  /-- FREEZE_STEP_END (R400). A FREEZE step's end condition is met and the next step begins. -/
  | freezeStepEnd
  /-- FREEZE_DRAIN_TIMEOUT (R400). Drain markers not returned within 2 ms end step 3. -/
  | freezeDrainTimeout
  /-- DOMAIN_BARRIER_STEP (R341). A peer's device-scope completion of a domain GRIDARR arrives as a message. -/
  | domainBarrierStep (job rank k : Nat)
  /-- PTP_MESSAGE (R352). An IEEE 1588 message on the management port feeds the time discipline. -/
  | ptpMessage (domain : Nat) (rate : Int)
  /-- LQTAIL_WRITE (R39). A host write of LQTAIL makes records of a host-fed queue available. -/
  | lqtailWrite (q : Nat) (val : DWord)
  /-- LQCTL_WRITE (R42). A write of LQCTL enables, disables or configures a launch queue. -/
  | lqctlWrite (q : Nat) (w : RegVal)
  /-- LQSTAT_ERR_CLEAR (R38). Writing 1 to ERR restarts placement at the stopped record. -/
  | lqstatErrClear (q : Nat)
  /-- TLBICTL_GO (R256). Setting GO starts a translation shootdown of a range or context. -/
  | tlbictlGo (val : DWord)
  /-- CTXSAVE_WRITE (R394). A write of CTXSAVE takes effect only before the context first has a team placed. -/
  | ctxsaveWrite (ctx : Nat) (w : RegVal)
  /-- REGISTER_WRITE (R9). A write to a BAR 0 register with no row of its own updates its writable fields. -/
  | registerWrite (off : Nat) (val : DWord) (who : Nat)
  /-- REMOTE_READ (R345). A read request from a peer is translated and performed in the bound context. -/
  | remoteRead (p : Packet)
  /-- REMOTE_WRITE (R345). A write from a peer is performed, or buffered while frozen, and acknowledged. -/
  | remoteWrite (p : Packet)
  /-- REMOTE_ATOMIC (R345). A returning or non-returning atomic from a peer is performed at its home. -/
  | remoteAtomic (p : Packet)
  /-- ACK_RECEIVED (R346). A peer's acknowledgement lowers the group's outstanding acknowledgements. -/
  | ackReceived (req : Nat)
  /-- NACK_RECEIVED (R347). A peer's NACK with a fault record reaches the requester. -/
  | nackReceived (req detail : Nat)
  /-- COLLECTIVE_STEP (R350). A collective header or data chunk from a member arrives and is matched or folded in member order. -/
  | collectiveStep (m : CollMsg)
  /-- DRAIN_MARKER (R375). A relocation drain marker arrives and is offered to KIND 3 hooks and returned. -/
  | drainMarker (p : Packet)
  /-- SCRIBE_CONTROL (R341). A Scribe control message carrying binding or snapshot commands arrives. -/
  | scribeControl (c : MCmd) (kind : ScribeCtl)
  /-- PACKET_ACCEPT (R359). A hooked packet enters a Scribe processor's input queue. -/
  | packetAccept (p : Packet) (dir : Nat)
  /-- SURVEY (R423). Writes the survey record or a quadrant's queue links to a buffer. -/
  | survey (c : MCmd)
  /-- LOAD (R18). Checks, verifies, selects, measures and places a program object into a context. -/
  | load (c : MCmd)
  /-- PARTCFG (R437). Sets a partition's quadrants, register-file mode, cache fraction and accepting cores. -/
  | partcfg (c : MCmd)
  /-- MODESET (R425). Sets the Peak, Sustained or Efficient mode. -/
  | modeset (c : MCmd)
  /-- CTXSW (R395). Switches cores of one die from an outgoing to an incoming context. -/
  | ctxsw (c : MCmd)
  /-- FREEZE (R400). Stops a context and begins writing its Atlas image. -/
  | freeze (c : MCmd)
  /-- THAW (R409). Verifies an Atlas image and resumes its context on a target partition. -/
  | thaw (c : MCmd)
  /-- DIRTYSCAN (R404). Reads and clears DIRTY bits of a range into a bitmap. -/
  | dirtyscan (c : MCmd)
  /-- SCRIBEBIND (R437). Binds a job, its code and hooks to a Scribe processor after the load check. -/
  | scribebind (c : MCmd)
  /-- ROUTESET (R343). Installs the fabric routing table. -/
  | routeset (c : MCmd)
  /-- CTXEND (R417). Ends a context, dropping unretired work and clearing its tiles. -/
  | ctxend (c : MCmd)
  /-- CTXCREATE (R422). Creates a context on a partition bound to a supervisor credential. -/
  | ctxcreate (c : MCmd)
  /-- JOBBIND (R422). Binds a context to a domain job with a rank map and its rank. -/
  | jobbind (c : MCmd)
  /-- KEYENROL (R422). Enrols a tenant key for loads into a context. -/
  | keyenrol (c : MCmd)
  /-- CFGWRITE (R422). Stores a signed configuration record for the next boot. -/
  | cfgwrite (c : MCmd)
  /-- SCRIBEUNBIND (R422). Unbinds a job from a Scribe processor. -/
  | scribeunbind (c : MCmd)
  /-- SCRIBEREAD (R422). Copies a job's flow slots to a buffer between invocations. -/
  | scriberead (c : MCmd)
  /-- SCRIBEWRITE (R422). Copies a buffer into a job's flow slots between invocations. -/
  | scribewrite (c : MCmd)
  /-- SCRIBESNAP (R422). Writes a job's entry, hooks, code and flow slots to a buffer. -/
  | scribesnap (c : MCmd)
  /-- GET_MEASUREMENTS (R419). An SPDM request returns a signed context attestation report. -/
  | getMeasurements (index : Nat)
  /-- HOST_MEM_ACCESS (R420). A host CXL.mem access reads or writes HBM through the HDM range. -/
  | hostMemAccess (wr : Bool) (addr : Nat) (val : Byte)
  /-- ECC_SCRUB (R392). The background scrub corrects single-bit errors and marks uncorrectable words poisoned. -/
  | eccScrub (loc : EccLoc) (uncorrectable : Bool)
  /-- POWER_ON (R424). At power-on the device reads signed configuration and starts at reduced service. -/
  | powerOn (fit : Fitted)
  /-- TRAINING_COMPLETE (R424). HBM and fabric training finish and the device moves to full service. -/
  | trainingComplete
  /-- THERMAL_SAMPLE (R425). Each 1 ms the junction reading is updated and a limit excess forces Efficient mode. -/
  | thermalSample (tj hottest : Nat)
  /-- THERMAL_SHUTDOWN (R425). The limit still exceeded after 100 ms ends every context and shuts down. -/
  | thermalShutdown
  /-- THERMAL_RECOVER (R425). Sensors 10 °C below TJMAX for 1 s return the set mode. -/
  | thermalRecover
  /-- POWER_REMOVED (R425). The device's power is removed, ending all state; this is the only way out of thermal shutdown. -/
  | powerRemoved
  /-- FABRIC_PORT_STATE_CHANGE (R423). A fabric port goes down, trains or comes up after boot, changing its survey state and making its peer reachable or unreachable. -/
  | fabricPortStateChange (port st peer : Nat)
  /-- PACKAGE_POWER_LIMIT (R425). Package power reaching the mode's limit makes the device lower the arithmetic clock to stay at or below that limit. -/
  | packagePowerLimit (reached : Bool)
  deriving DecidableEq, Repr

/-- What the agenda lets move (R84 to R87): a split of a group issues; a partition takes its clock and chooses;
a Scribe processor executes one word; the management core takes the first queued command (R421); or an event of the
table happens. -/
inductive Act where
  | issue (gid pos : Nat)
  | clock (core part : Nat)
  | scribe (proc : Nat)
  | command
  | event (i : Instr)
  deriving DecidableEq, Repr

end Sys2Proof
end

