-- ==== Sys2Proof/WellFormed.lean ====
section
/-!
DEFINITION. Which instructions are well formed: the checks of R70 steps 2 to 5 that concern an instruction's own
fields, with the subcodes of R78. `Instr.check fx fy i` is the subcode of the first failing check, or none;
`fx` and `fy` say whether the line word's FLAGX and FLAGY name a flag (R54). The checks that need the group
(budget, pairing, privilege, system registers) are made at issue.
-/
namespace Sys2Proof

/-- Subcodes of R78 that concern an encoding. -/
def subReserved : Nat := 2
def subUndefined : Nat := 3
def subCombination : Nat := 4
def subFlag : Nat := 5
def subRegister : Nat := 6

/-- The first failure in a list of checks taken in order. -/
def firstFail : List (Bool × Nat) → Option Nat
  | [] => none
  | (ok, c) :: t => if ok then firstFail t else some c

namespace Ty
/-- The code of R64. -/
def code : Ty → Nat
  | i32 => 0 | u32 => 1 | i16 => 2 | i8 => 3 | u8 => 4 | f32 => 5 | f16 => 6 | bf16 => 7 | e4m3 => 8 | e5m2 => 9
  | b32 => 10
/-- The type of a code of R64. -/
def ofCode : Nat → Option Ty
  | 0 => some i32 | 1 => some u32 | 2 => some i16 | 3 => some i8 | 4 => some u8 | 5 => some f32 | 6 => some f16
  | 7 => some bf16 | 8 => some e4m3 | 9 => some e5m2 | 10 => some b32 | _ => none
/-- INT of R149. -/
def isInt : Ty → Bool
  | i32 | u32 | i16 | i8 | u8 => true | _ => false
/-- SINT of R149. -/
def isSint : Ty → Bool
  | i32 | i16 | i8 => true | _ => false
/-- FLT of R149. -/
def isFlt : Ty → Bool
  | f32 | f16 | bf16 => true | _ => false
/-- Every floating type (R101). -/
def isFloat : Ty → Bool
  | f32 | f16 | bf16 | e4m3 | e5m2 => true | _ => false
/-- Width of an element in bits (R99). -/
def bits : Ty → Nat
  | i32 | u32 | f32 | b32 => 32
  | i16 | f16 | bf16 => 16
  | i8 | u8 | e4m3 | e5m2 => 8
/-- Elements of one register (R99). -/
def lanes (t : Ty) : Nat := 32 / t.bits
end Ty

namespace STy
/-- The code of R69. -/
def code : STy → Nat
  | i64 => 0 | u64 => 1 | i32 => 2 | u32 => 3 | b64 => 4
/-- The type of a code of R69. -/
def ofCode : Nat → Option STy
  | 0 => some i64 | 1 => some u64 | 2 => some i32 | 3 => some u32 | 4 => some b64 | _ => none
end STy

/-- Register files an 8-bit field may name (R61). -/
inductive RFile where
  | v | s | p | pdst | d16 | none
  deriving DecidableEq, Repr

/-- R61: the field is valid for its file, for `n` consecutive registers. `pdst` is a predicate destination, which
p0 may not be; `d16` names pd, th or acc; an unused field must be zero. -/
def regOk (r : RFile) (n : Nat) (x : BitVec 8) : Bool :=
  match r with
  | .v => x.toNat + n ≤ 256
  | .s => x.toNat + n ≤ 64
  | .p => x.toNat < 8
  | .pdst => x.toNat < 8 && x.toNat != 0
  | .d16 => x.toNat < 16
  | .none => x == 0

/-- R63: an operand of class 00 that accepts all three kinds. -/
def kindReg : Kind → RFile
  | .vec => .v | .sca => .s | .imm => .none

/-- Uses of an operand of format L: any kind, a p register (kind 00), or unused. -/
inductive LUse where
  | any | pred | none
  deriving DecidableEq, Repr

def lKindOk (u : LUse) (k : Kind) : Bool :=
  match u with
  | .any => true
  | .pred | .none => k == .vec

/-- R61: an operand's field; one that is not used, or is immediate, holds zero. -/
def lRegOk (u : LUse) (k : Kind) (x : BitVec 8) : Bool :=
  match u with
  | .any => regOk (kindReg k) 1 x
  | .pred => regOk .p 1 x
  | .none => regOk .none 1 x

/-- What an operation of class 00 accepts (R149 to R167): types, functions, rounding, saturation, the files of
its operands and destination. -/
structure LSpec where
  tys : Ty → Bool
  fns : Nat → Bool := fun n => n == 0
  fnDef : Nat → Bool := fun _ => true
  rm  : Ty → Bool := fun _ => false
  sat : Ty → Bool := fun _ => false
  a   : LUse := .any
  b   : LUse := .none
  c   : LUse := .none
  dst : RFile := .v

def isB32 (t : Ty) : Bool := t == .b32
def shiftTy (t : Ty) : Bool := t == .b32 || t.isInt
def anyInt (t : Ty) : Bool := t.isInt
def intFlt (t : Ty) : Bool := t.isInt || t.isFlt

/-- The row of class 00 operation `op` (R74, R150 to R167). PACK's third operand is used by PERM alone (R156). -/
def lSpec (op : Nat) (f : LFmt) : LSpec :=
  match op with
  | 0x01 | 0x02 | 0x03 => { tys := intFlt, rm := Ty.isFlt, sat := intFlt, b := .any }
  | 0x04 => { tys := anyInt, b := .any }
  | 0x05 => { tys := anyInt, sat := anyInt, b := .any, c := .any }
  | 0x06 => { tys := Ty.isFlt, rm := Ty.isFlt, sat := Ty.isFlt, b := .any, c := .any }
  | 0x07 | 0x08 => { tys := intFlt, b := .any }
  | 0x09 | 0x0A => { tys := fun t => t.isSint || t.isFlt, sat := Ty.isSint }
  | 0x0B => { tys := intFlt, b := .any, c := .any }
  | 0x0C => { tys := anyInt, b := .any, c := .any }
  | 0x0D => { tys := fun t => t == .f16 || t == .bf16 || t == .i16, rm := Ty.isFlt, sat := fun _ => true,
              b := .any, c := .any }
  | 0x0E => { tys := Ty.isFlt, rm := Ty.isFlt }
  | 0x0F => { tys := fun _ => true }
  | 0x10 | 0x11 | 0x12 => { tys := isB32, b := .any }
  | 0x13 => { tys := isB32 }
  | 0x14 | 0x15 => { tys := shiftTy, b := .any }
  | 0x16 => { tys := Ty.isSint, b := .any }
  | 0x17 => { tys := isB32, fns := fun n => n ≤ 1, b := .any }
  | 0x18 => { tys := isB32, b := .any, c := .any }
  | 0x19 | 0x1A | 0x1B => { tys := isB32 }
  | 0x1C => { tys := isB32, fns := fun n => n ≤ 2, b := .any, c := if f.fn == 2 then .any else .none }
  | 0x1D => { tys := fun t => t == .i32 || t == .u32 || t == .f32, fnDef := fun n => n ≤ 6,
              fns := fun n => n ≤ 5 || (n == 6 && f.ty == .f32), b := .any, dst := .pdst }
  | 0x1E => { tys := isB32, b := .any, c := .pred }
  | 0x1F => { tys := isB32, a := .pred, dst := .s }
  | 0x20 => { tys := isB32, fns := fun n => n ≤ 3, b := .any, c := .any }
  | 0x21 | 0x22 | 0x23 => { tys := isB32, a := .pred, b := .pred, dst := .pdst }
  | 0x24 => { tys := isB32, a := .pred, dst := .pdst }
  | 0x25 => { tys := isB32, b := .any }
  | 0x26 => { tys := fun t => t != .b32, fnDef := fun n => n ≤ 10, fns := fun n => n ≤ 9, rm := fun _ => true,
              sat := fun _ => true, b := .any, c := if f.rm == .rs then .any else .none }
  | _ => { tys := Ty.isFlt }

/-- R163 to R166: what CVT asks beyond its row; without RS operand c is field 0. -/
def cvtOk (f : LFmt) : Bool :=
  match Ty.ofCode f.fn.toNat with
  | none => false
  | some st =>
    let ns := st.lanes
    let nd := f.ty.lanes
    let p := f.imm.toNat
    let conv := if ns > nd then nd else ns
    st != f.ty && f.kb == .imm && (f.rm == .rs || f.r.c == 0) &&
    (if ns > nd then p < ns / nd else if ns < nd then p < nd / ns else p == 0) &&
    (f.rm != .rs || (f.ty.isFloat && conv ≤ 2 && f.kc != .imm))

/-- Number of operands of the immediate kind (R63). -/
def immCount (ka kb kc : Kind) : Nat :=
  (if ka == .imm then 1 else 0) + (if kb == .imm then 1 else 0) + (if kc == .imm then 1 else 0)

/-- R70 steps 3 to 5 for format L. -/
def lCheck (op : Nat) (f : LFmt) : Option Nat :=
  let q := lSpec op f
  let n := f.fn.toNat
  firstFail [
    (q.fnDef n, subUndefined),
    (q.tys f.ty && q.fns n, subCombination),
    (f.rm == .rn || (q.rm f.ty && (f.rm != .rs || op == 0x26)), subCombination),
    (!f.sat || q.sat f.ty, subCombination),
    (lKindOk q.a f.ka && lKindOk q.b f.kb && lKindOk q.c f.kc, subCombination),
    (immCount f.ka f.kb f.kc ≤ 1, subCombination),
    (f.imm == 0 || immCount f.ka f.kb f.kc == 1, subCombination),
    (op != 0x20 || f.fn == 3 || f.kb != .vec, subCombination),
    (op != 0x26 || cvtOk f, subCombination),
    (regOk q.dst 1 f.r.dst, subRegister),
    (lRegOk q.a f.ka f.r.a, subRegister),
    (lRegOk q.b f.kb f.r.b, subRegister),
    (lRegOk q.c f.kc f.r.c, subRegister)]

/-- R70 steps 3 to 5 for format S: classes 10 and 11 (`hi` marks class 11). -/
structure SSpec where
  tys : STy → Bool
  fns : Nat → Bool := fun n => n == 0
  fnDef : Nat → Bool := fun _ => true
  a   : LUse := .any
  b   : LUse := .none
  c   : LUse := .none
  dst : RFile := .s
  more : Bool := true

def sArith (t : STy) : Bool := t != .b64
def sB64 (t : STy) : Bool := t == .b64

/-- The row of a format S operation (R127, R129, R130, R143, R303, R391, R412); class 11 operations are numbered
from 0x40. -/
def sSpec (op : Nat) (f : SFmt) : SSpec :=
  match op with
  | 0x01 | 0x02 | 0x03 | 0x04 | 0x05 | 0x06 | 0x07 | 0x08 => { tys := sArith, b := .any }
  | 0x09 | 0x0A | 0x0B => { tys := sB64, b := .any }
  | 0x0C => { tys := sB64 }
  | 0x0D | 0x0E => { tys := fun t => t == .b64 || t == .u32, b := .any }
  | 0x0F => { tys := fun t => t == .i64 || t == .i32, b := .any }
  | 0x10 => { tys := sArith, fns := fun n => n ≤ 5, fnDef := fun n => n ≤ 6, b := .any }
  | 0x11 => { tys := sB64, b := .any, c := .any }
  | 0x12 => { tys := fun _ => true }
  | 0x13 | 0x14 => { tys := fun t => t == .b64 || t == .u32 }
  | 0x15 => { tys := sB64, fns := fun n => n ≤ 1, b := .any }
  | 0x16 => { tys := sB64, b := .any, c := .any }
  | 0x17 => { tys := sB64, a := .pred }
  | 0x18 => { tys := sB64, dst := .pdst }
  | 0x30 => { tys := sB64, more := f.ka == .imm && f.imm.toNat < 65536 }
  | 0x31 => { tys := sB64, b := .any, dst := .none, more := f.ka == .imm && f.kb == .vec && f.imm.toNat < 65536 }
  | 0x70 => { tys := fun t => t == .i64, fns := fun n => 2 ≤ n && n ≤ 5, a := .none, dst := .none }
  | 0x71 => { tys := sB64, more := f.ka == .vec && f.imm == 0 && f.r.b == 0 && f.r.c == 0 }
  | 0x78 => { tys := fun t => t == .i64, dst := .none,
              more := f.ka == .imm && f.imm.toNat < 256 && f.r.dst == 0 && f.r.a == 0 && f.r.b == 0 && f.r.c == 0 }
  | 0x79 => { tys := sB64, b := .any,
              more := f.ka == .vec && f.kb == .imm && f.imm.toNat < 65536 && f.r.b == 0 && f.r.c == 0 }
  | _ => { tys := fun t => t == .i64, fns := fun n => n ≤ 2, a := .none, dst := .none,
           more := f.r.dst == 0 && f.r.a == 0 && f.r.b == 0 && f.r.c == 0 }

/-- R127: the operations whose row names subcode 0x04 for a nonzero operand c. -/
def sTabled (op : Nat) : Bool := (1 ≤ op && op ≤ 0x0F) || op == 0x13 || op == 0x14

def sRegOk (u : LUse) (k : Kind) (x : BitVec 8) : Bool :=
  match u with
  | .any => regOk (if k == .imm then .none else .s) 1 x
  | .pred => regOk .p 1 x
  | .none => regOk .none 1 x

def sCheck (op : Nat) (f : SFmt) : Option Nat :=
  let q := sSpec op f
  let n := f.fn.toNat
  firstFail [
    (f.ka != .sca && f.kb != .sca && f.kc != .sca, subUndefined),
    (q.fnDef n, subUndefined),
    (q.tys f.ty && q.fns n, subCombination),
    (lKindOk q.a f.ka && lKindOk q.b f.kb && lKindOk q.c f.kc, subCombination),
    (immCount f.ka f.kb f.kc ≤ 1, subCombination),
    (f.imm == 0 || immCount f.ka f.kb f.kc == 1, subCombination),
    (!sTabled op || f.r.c == 0, subCombination),
    (q.more, subCombination),
    (regOk q.dst 1 f.r.dst, subRegister),
    (sRegOk q.a f.ka f.r.a, subRegister),
    (sRegOk q.b f.kb f.r.b, subRegister),
    (sRegOk q.c f.kc f.r.c, subRegister)]

/-- What a format P operation accepts (R189). -/
structure PSpec where
  fns  : Nat → Bool := fun n => n == 0
  dst  : RFile := .d16
  a    : RFile := .d16
  b    : RFile := .none
  c    : RFile := .none
  set  : Bool := true
  ax   : Bool := false
  amt  : Bool := false
  edge : Edge → Bool := fun e => e == .zero
  rop  : Rop → Bool := fun r => r == .add
  imm  : Bool := true

def Edge.konst (e : Edge) : Bool := e == .zero || e == .desc || e == .scal

/-- R150, R154, R199: the class 00 operation whose element rule a PEW function follows. -/
def pewOp (op fn : Nat) : Nat :=
  if op == 0x0A then
    match fn with
    | 0 => 0x06 | 1 => 0x05 | 2 => 0x0B | _ => 0x0C
  else
    match fn with
    | 0 => 0x01 | 1 => 0x02 | 2 => 0x03 | 3 => 0x04 | 4 => 0x07 | 5 => 0x08 | 6 => 0x10 | 7 => 0x11 | 8 => 0x12
    | 9 => 0x14 | 10 => 0x15 | 11 => 0x16 | _ => 0x02

/-- The row of plane operation `op` (R189 to R211). -/
def pSpec (op : Nat) (f : PFmt) : PSpec :=
  let sc : RFile := if f.edge == .scal then .s else .none
  match op with
  | 0x01 =>
    match f.fn.toNat with
    | 0 => { fns := fun _ => true, a := .v, set := false, amt := true }
    | 1 => { fns := fun _ => true, a := .none, c := sc, set := false, edge := fun e => e == .zero || e == .scal,
             imm := f.edge == .zero || f.imm == 0 }
    | 2 => { fns := fun _ => true, a := .none, set := false }
    | _ => { fns := fun n => n == 3, a := .d16, b := .v, set := false, amt := true, imm := f.imm == 0 }
  | 0x02 => { dst := .s, set := false, imm := f.imm.toNat < 4 }
  | 0x03 => { c := sc, ax := true, amt := true, edge := fun _ => true, imm := f.imm == 0 }
  | 0x04 => { ax := true, amt := true, imm := f.imm == 0 }
  | 0x05 => { c := sc, ax := true, edge := fun _ => true }
  | 0x06 => { ax := true, rop := fun _ => true, imm := f.imm == 0 }
  | 0x07 => { imm := f.imm == 0 }
  | 0x08 => { c := sc, edge := fun _ => true, imm := f.imm == 0 }
  | 0x09 => { fns := fun n => n ≤ 11, b := .d16, amt := true, imm := f.imm == 0 }
  | 0x0A => { fns := fun n => n ≤ 3, b := .d16, c := .d16, amt := true, imm := f.imm == 0 }
  | 0x0B => { fns := fun n => n ≤ 12, c := sc, amt := true, edge := Edge.konst,
              imm := f.edge == .zero || f.imm == 0 }
  | 0x0C => { a := .none, ax := true }
  | 0x0D => { ax := true, rop := fun _ => true, imm := f.imm == 0 }
  | 0x0E => { b := .d16, c := .d16, imm := f.imm == 0 }
  | 0x0F => { fns := fun n => n ≤ 6, b := .d16, imm := f.imm == 0 }
  | 0x10 => { c := sc, ax := true, amt := true, edge := fun _ => true, imm := f.imm == 0 }
  | 0x11 => { ax := true, amt := true, imm := f.imm == 0 }
  | 0x12 => { c := sc, ax := true, edge := fun _ => true }
  | 0x13 => { ax := true, rop := fun r => r == .and || r == .or || r == .xor, imm := f.imm == 0 }
  | 0x14 => { fns := fun n => n ≤ 4, b := if f.fn == 4 then .none else .d16, imm := f.imm == 0 }
  | 0x15 => { a := .none, c := sc, edge := Edge.konst, imm := f.edge == .zero || f.imm == 0 }
  | _ => { dst := .s, set := false }

/-- R192: the limits of PDSET's own fields. -/
def pdsetOk (f : PFmt) : Bool :=
  match f.fn.toNat with
  | 0 => f.amt.toNat % 16 ≤ 10 && f.amt.toNat < 64
  | 1 => true
  | 2 => 1 ≤ f.imm.toNat % 512 && f.imm.toNat % 512 ≤ 256 && f.imm.toNat / 512 % 128 == 0 &&
         f.imm.toNat / 2 ^ 26 == 0 && f.amt == 0
  | _ => f.amt.toNat % 16 == 0 && f.amt.toNat < 64

/-- R199: rounding and saturation of PEW2, PEW3 and PEWC lie in AMT; whether the FMT accepts them is known only
when the descriptor is read. -/
def pewAmtOk (op : Nat) (f : PFmt) : Bool :=
  if op == 0x09 || op == 0x0A || op == 0x0B then f.amt.toNat % 8 ≤ 3 && f.amt.toNat < 16 else true

/-- A field that the operation does not use holds zero; one that names a register is left to step 5. -/
def pUnused (r : RFile) (x : BitVec 8) : Bool := r != .none || x == 0

def pCheck (op : Nat) (f : PFmt) : Option Nat :=
  let q := pSpec op f
  firstFail [
    ((op != 0x0F) || f.fn.toNat ≤ 6, subUndefined),
    (q.fns f.fn.toNat, subCombination),
    (q.set || !f.set, subCombination),
    (q.ax || !f.yAxis, subCombination),
    (q.amt || f.amt == 0, subCombination),
    (q.edge f.edge && q.rop f.rop && q.imm, subCombination),
    (op != 0x01 || pdsetOk f, subCombination),
    (pewAmtOk op f, subCombination),
    (pUnused q.dst f.r.dst && pUnused q.a f.r.a && pUnused q.b f.r.b && pUnused q.c f.r.c, subCombination),
    (regOk q.dst 1 f.r.dst, subRegister),
    (regOk q.a 1 f.r.a, subRegister),
    (regOk q.b 1 f.r.b, subRegister),
    (regOk q.c 1 f.r.c, subRegister)]

/-- Registers an access width moves (R66). -/
def Wid.regs : Wid → Nat
  | .b8 | .b16 | .b32 => 1 | .b64 => 2 | .b128 => 4
/-- Bytes an access width moves (R258). -/
def Wid.bytes : Wid → Nat
  | .b8 => 1 | .b16 => 2 | .b32 => 4 | .b64 => 8 | .b128 => 16

/-- What a format M operation accepts (R146, R259, R301, R309). -/
structure MSpec where
  wid : Wid → Bool := fun w => w == .b8
  spc : Spc → Bool := fun x => x == .far
  ak  : Bool := false
  mfn : Nat → Bool := fun n => n == 0
  mfnDef : Nat → Bool := fun _ => true
  dst : RFile := .none
  a   : RFile := .s
  b   : RFile := .none
  c   : RFile := .none
  ord : Ord → Bool := fun o => o == .none
  ofs : Bool := true

/-- The row of a format M operation; LAUNCH of class 10 is numbered 0x72. -/
def mSpec (op : Nat) (f : MFmt) : MSpec :=
  match op with
  | 0x01 => { wid := fun _ => true, spc := fun x => x != .far, ak := true, mfn := fun n => n ≤ 1,
              mfnDef := fun n => n ≤ 1, dst := .v, ord := fun _ => true }
  | 0x02 => { wid := fun _ => true, spc := fun x => x != .far, ak := true, b := .v, ord := fun _ => true }
  | 0x03 => { wid := fun _ => true, ak := true, mfnDef := fun n => n ≤ 1, dst := .v, ord := fun _ => true }
  | 0x04 => { wid := fun _ => true, ak := true, b := .v, ord := fun _ => true }
  | 0x05 => { wid := fun w => w == .b32 || w == .b64, ak := true, mfnDef := fun n => n ≤ 7, mfn := fun n => n ≤ 7,
              dst := .v, b := .v, c := if f.mfn == 7 then .v else .none, ord := fun _ => true }
  | 0x06 => { wid := fun w => w == .b32 || w == .b64, ak := true, mfnDef := fun n => n ≤ 7, mfn := fun n => n ≤ 5,
              b := .v }
  | 0x07 => { spc := fun x => x == .tm, a := .none, ofs := f.ofs == 0 }
  | 0x08 => { dst := .d16, ord := fun _ => true }
  | 0x09 => { b := .d16, ord := fun _ => true }
  | 0x0A => { spc := fun x => x == .sp, mfn := fun n => n ≤ 1 }
  | 0x0B => { spc := fun x => x == .sp, ak := true, dst := .pdst }
  | 0x20 => { mfn := fun n => n ≤ 1, dst := .s }
  | 0x21 => { dst := .s, b := .pdst }
  | 0x22 => { dst := .s, b := .s, ord := fun o => o == .none || o == .acq }
  | 0x23 | 0x24 => { dst := .s, b := .s, c := .s }
  | 0x25 | 0x26 => { dst := .s, b := .s, ord := fun o => o == .none || o == .rel }
  | 0x28 => { spc := fun x => x == .tm, a := .none, ord := fun o => o == .rel, ofs := f.ofs == 0 }
  | 0x29 => { spc := fun x => x == .tm, a := .none, ord := fun o => o == .acq, ofs := f.ofs == 0 }
  | 0x2A => { spc := fun x => x == .tm, a := .none, ofs := f.ofs == 0 }
  | _ => { mfn := fun _ => true, dst := .s, ord := fun _ => true }

/-- R264: the pairings of type, width and operator of ATOM and RED. -/
def atomTyOk (f : MFmt) : Bool :=
  match f.ofs.toNat / 2 ^ 28 with
  | 0 | 1 => true
  | 5 => f.wid == .b32 && (f.mfn.toNat ≤ 2 || f.mfn == 6 || f.mfn == 7) && f.mfn != 3
  | _ => false

/-- Registers a destination or data field names (R61, R66). -/
def mRegs (op : Nat) (f : MFmt) : Nat :=
  if op ≤ 0x06 then f.wid.regs else 1

/-- The number of registers of the address operand under AK = 1 (R258). -/
def mAddrRegs (f : MFmt) : Nat := if f.spc == .tm then 1 else 2

/-- A register-writing operation of format M (R55). -/
def mWrites (op : Nat) (f : MFmt) : Bool := (mSpec op f).dst != .none

/-- R54, R55: the flag choice of formats M and E. -/
def flagOk (fx fy writes : Bool) (fs : FlagSel) : Bool :=
  match fs with
  | .none => !writes
  | .x => fx
  | .y => fy

def mUnused (r : RFile) (x : BitVec 8) : Bool := r != .none || x == 0

/-- R78: whether the instruction's rule names subcode 0x04 for a register field that it leaves unused: R259 and R309 for every one,
R146 and R301 for none, so that R61's 0x06 stands. -/
def mTabled (op : Nat) : Bool := op != 0x28 && op != 0x29 && op != 0x2A && op != 0x72

/-- R70 steps 3 to 5 for format M; of step 4, the flag choice comes last. DESIGN CHOICE, log 105. -/
def mCheck (fx fy : Bool) (op : Nat) (f : MFmt) : Option Nat :=
  let q := mSpec op f
  let addr : RFile := if f.vAddr then .v else q.a
  let n := mRegs op f
  firstFail [
    (q.mfnDef f.mfn.toNat, subUndefined),
    (q.wid f.wid && q.spc f.spc && q.mfn f.mfn.toNat && (q.ak || !f.vAddr) && q.ord f.ord, subCombination),
    (f.ord != .none || f.scope == .group, subCombination),
    ((op != 0x05 && op != 0x06) || atomTyOk f, subCombination),
    (q.ofs && (op != 0x21 || f.r.b != 0), subCombination),
    (!mTabled op || mUnused q.dst f.r.dst && mUnused q.a f.r.a && mUnused q.b f.r.b && mUnused q.c f.r.c,
      subCombination),
    (flagOk fx fy (mWrites op f) f.fs, subFlag),
    (regOk q.dst n f.r.dst, subRegister),
    (regOk addr (if f.vAddr then mAddrRegs f else 1) f.r.a, subRegister),
    (regOk q.b n f.r.b, subRegister),
    (regOk q.c n f.r.c, subRegister)]

/-- What a format B operation uses (R131). -/
structure BSpec where
  bk  : Nat → Bool := fun n => n == 0
  tgt : Bool := false
  rcv : Bool := false
  dst : RFile := .none
  a   : RFile := .none

/-- The row of a format B operation (R131). A BRC of an unlisted BK has a reconvergence address and no target. DESIGN CHOICE, log 105. -/
def bSpec (op : Nat) (f : BFmt) : BSpec :=
  match op with
  | 0x20 => { tgt := true }
  | 0x21 => { bk := fun n => n ≤ 3, tgt := f.bk.toNat ≤ 1, rcv := true }
  | 0x22 => { bk := fun n => 1 ≤ n }
  | 0x23 => { bk := fun n => 1 ≤ n, tgt := true }
  | 0x24 => { tgt := true, dst := .s }
  | 0x25 => { a := .v }
  | 0x26 => { tgt := true, dst := .v }
  | 0x27 => { dst := .v, a := .v }
  | 0x28 => { a := .v }
  | _ => {}

def bCheck (op : Nat) (f : BFmt) : Option Nat :=
  let q := bSpec op f
  firstFail [
    ((q.tgt || (f.tsl == 0 && f.toff == 0)) && (q.rcv || (f.rsl == 0 && f.roff == 0)), subReserved),
    ((q.dst != .none || f.r.dst == 0) && (q.a != .none || f.r.a == 0) && f.r.b == 0 && f.r.c == 0, subReserved),
    (q.bk f.bk.toNat && f.tsl.toNat ≤ 4 && f.rsl.toNat ≤ 4, subUndefined),
    (regOk q.dst 1 f.r.dst, subRegister),
    (regOk q.a 1 f.r.a, subRegister)]

/-- What a format E operation accepts (R225, R271, R295, R353). -/
structure ESpec where
  dst : RFile := .none
  a   : RFile := .none
  b   : RFile := .none
  c   : RFile := .none
  nDst : Nat := 1
  nA  : Nat := 1
  nB  : Nat := 1
  pair : Bool := false
  bv  : Bool → Bool := fun b => !b
  cc  : OcClass → Bool := fun c => c == .copy
  tv  : Bool := false
  efn : Nat → Bool := fun n => n == 0
  efnDef : Nat → Bool := fun _ => true
  imm : Bool := true
  fs  : FlagSel → Bool := fun _ => true

/-- B registers a pass reads (R225, R227): four for MMA.Q, sixteen for MMA.S and MSPMM, none for .B4. -/
def mmaB (op : Nat) (f : EFmt) : RFile × Nat :=
  if f.efn == 6 then (.s, 2) else if op == 0x22 then (.v, 4) else (.v, 16)

/-- The row of a format E operation; class 11 operations are numbered from 0x40. -/
def eSpec (op : Nat) (f : EFmt) : ESpec :=
  let any : Bool → Bool := fun _ => true
  let mat : OcClass → Bool := fun c => c == .mat
  let barScope : Nat → Bool := fun n => n ≤ 4
  match op with
  | 0x20 => { pair := true, cc := mat, imm := f.imm == 0 }
  | 0x21 => { pair := true, cc := mat, imm := f.imm == 0 }
  | 0x22 => { dst := .d16, a := .s, b := (mmaB op f).1, nB := (mmaB op f).2, pair := true, bv := any, cc := mat,
              efn := fun n => n ≤ 6, efnDef := fun n => n ≤ 6 }
  | 0x23 => { dst := .d16, b := (mmaB op f).1, nB := (mmaB op f).2, pair := true, bv := any, cc := mat,
              efn := fun n => n ≤ 6, efnDef := fun n => n ≤ 6 }
  | 0x24 => { dst := .d16, b := .v, nB := 16, pair := true, bv := any, cc := mat,
              efn := fun n => n ≤ 5 && n != 2, efnDef := fun n => n ≤ 6, imm := f.imm.toNat < 256 }
  | 0x25 => { dst := .d16, cc := mat, imm := f.imm == 0 }
  | 0x26 => { dst := .d16, a := .v, nA := if f.efn == 1 then 1 else 32, cc := mat, bv := any, efn := fun n => n ≤ 1,
              imm := f.imm == 0 }
  | 0x27 => { dst := .v, nDst := 32, a := .d16, cc := mat, bv := any, efn := fun n => n ≤ 1, imm := f.imm == 0 }
  | 0x28 => { a := .d16, pair := true, bv := any, cc := mat, efn := fun n => n % 8 ≤ 5 }
  | 0x29 => { cc := mat }
  | 0x2A => { cc := mat }
  | 0x2B => { dst := .s, cc := mat, imm := f.imm == 0 }
  | 0x50 => { pair := true, bv := any, cc := fun c => c == .copy || c == .coll, imm := f.imm == 0 }
  | 0x51 =>
    if f.efn == 1 then
      { dst := .v, a := .v, b := .d16, c := .s, pair := true, bv := any, cc := fun c => c == .gath,
        efn := fun n => n ≤ 1, imm := 1 ≤ f.imm.toNat && f.imm.toNat ≤ 64 }
    else
      { a := .v, pair := true, bv := any, cc := fun c => c == .gath, efn := fun n => n ≤ 1, imm := f.imm == 0 }
  | 0x52 => { a := .v, pair := true, bv := any, cc := fun c => c == .gath, efn := fun n => n ≤ 2, imm := f.imm == 0 }
  | 0x53 => { cc := fun _ => true, imm := f.imm.toNat < 256, fs := fun x => x == .none }
  | 0x54 => { dst := .s, pair := true, bv := any, cc := fun c => c == .copy || c == .coll, tv := true,
              imm := f.imm == 0 }
  | 0x55 => { dst := .s, a := .s, imm := f.imm == 0 }
  | 0x58 =>
    if f.efn.toNat % 4 == 3 then { bv := fun b => b, efn := fun n => n == 3, imm := f.imm == 0 }
    else if f.imm == 0 then { a := .s, bv := fun b => b, efn := fun _ => true }
    else { bv := fun b => b, efn := fun _ => true }
  | 0x59 => { bv := fun b => b, efnDef := fun n => n % 8 ≤ 4, efn := barScope, imm := f.imm != 0 }
  | 0x5A => { a := if f.imm.toNat ≥ 0x8000 then .s else .none, bv := fun b => b, efnDef := fun n => n % 8 ≤ 4,
              efn := barScope, imm := f.imm.toNat ≤ 0x8000 }
  | _ => { dst := .s, a := if f.imm.toNat ≥ 0x8000 then .s else .none, bv := fun b => b,
           efnDef := fun n => n % 8 ≤ 4, efn := barScope, imm := f.imm.toNat ≤ 0x8000 }

/-- R55: format E operations that write a register. MRES writes its pair (R221). -/
def eWrites (op : Nat) (f : EFmt) : Bool := (eSpec op f).dst == .v || (eSpec op f).dst == .s || op == 0x20

/-- R78: whether the instruction's rule names subcode 0x04 for operands b and c that it leaves unused: R225 and R271 do, R295 and
R353 table only DST and operand a. -/
def eTabled (op : Nat) : Bool := !(0x54 ≤ op && op ≤ 0x5B)

/-- R70 steps 3 to 5 for format E; of step 4, the flag choice comes last. DESIGN CHOICE, log 105. -/
def eCheck (fx fy : Bool) (op : Nat) (f : EFmt) : Option Nat :=
  let q := eSpec op f
  let un (r : RFile) (x : BitVec 8) : Bool := r != .none || x == 0
  firstFail [
    (q.efnDef f.efn.toNat, subUndefined),
    (q.efn f.efn.toNat && q.cc f.cc && q.bv f.bv && f.tv == q.tv && q.imm && q.fs f.fs, subCombination),
    ((f.bv || f.bar == 0) && (f.tv || f.trg == 0) && (q.pair || f.pair == 0), subCombination),
    (un q.dst f.r.dst && un q.a f.r.a && (!eTabled op || un q.b f.r.b && un q.c f.r.c), subCombination),
    (flagOk fx fy (eWrites op f) f.fs, subFlag),
    (f.pair.toNat ≤ 62, subRegister),
    (regOk q.dst q.nDst f.r.dst, subRegister),
    (regOk q.a q.nA f.r.a, subRegister),
    (regOk q.b q.nB f.r.b, subRegister),
    (regOk q.c 1 f.r.c, subRegister)]

/-- An instruction's bits by format: class, operation, and the number its `Spec` function uses (class 11 operations
that share a format with another class are numbered from 0x40); the word of a Scribe instruction; or a row that
has no bits. -/
inductive Shape where
  | l (cls op n : Nat) (f : LFmt)
  | p (cls op n : Nat) (f : PFmt)
  | m (cls op n : Nat) (f : MFmt)
  | b (cls op n : Nat) (f : BFmt)
  | e (cls op n : Nat) (f : EFmt)
  | s (cls op n : Nat) (f : SFmt)
  | scribe (w : Nat)
  | row
  deriving DecidableEq, Repr

/-- The format, class and operation of an instruction (R74, R75), or its Scribe word (R361, R362); a command or an
event has no bits. -/
def Instr.shape : Instr → Shape
  | .add f => .l 0 0x01 0x01 f
  | .sub f => .l 0 0x02 0x02 f
  | .mul f => .l 0 0x03 0x03 f
  | .mulhi f => .l 0 0x04 0x04 f
  | .mad f => .l 0 0x05 0x05 f
  | .fma f => .l 0 0x06 0x06 f
  | .min f => .l 0 0x07 0x07 f
  | .max f => .l 0 0x08 0x08 f
  | .abs f => .l 0 0x09 0x09 f
  | .neg f => .l 0 0x0A 0x0A f
  | .clamp f => .l 0 0x0B 0x0B f
  | .addmin f => .l 0 0x0C 0x0C f
  | .dot2 f => .l 0 0x0D 0x0D f
  | .frnd f => .l 0 0x0E 0x0E f
  | .mov f => .l 0 0x0F 0x0F f
  | .and f => .l 0 0x10 0x10 f
  | .or f => .l 0 0x11 0x11 f
  | .xor f => .l 0 0x12 0x12 f
  | .not f => .l 0 0x13 0x13 f
  | .shl f => .l 0 0x14 0x14 f
  | .shr f => .l 0 0x15 0x15 f
  | .sar f => .l 0 0x16 0x16 f
  | .bfx f => .l 0 0x17 0x17 f
  | .bfi f => .l 0 0x18 0x18 f
  | .popc f => .l 0 0x19 0x19 f
  | .clz f => .l 0 0x1A 0x1A f
  | .brev f => .l 0 0x1B 0x1B f
  | .pack f => .l 0 0x1C 0x1C f
  | .cmp f => .l 0 0x1D 0x1D f
  | .sel f => .l 0 0x1E 0x1E f
  | .ballot f => .l 0 0x1F 0x1F f
  | .lshf f => .l 0 0x20 0x20 f
  | .pand f => .l 0 0x21 0x21 f
  | .por f => .l 0 0x22 0x22 f
  | .pxor f => .l 0 0x23 0x23 f
  | .pnot f => .l 0 0x24 0x24 f
  | .rand f => .l 0 0x25 0x25 f
  | .cvt f => .l 0 0x26 0x26 f
  | .rcp f => .l 0 0x27 0x27 f
  | .rsq f => .l 0 0x28 0x28 f
  | .exp2 f => .l 0 0x29 0x29 f
  | .log2 f => .l 0 0x2A 0x2A f
  | .sin f => .l 0 0x2B 0x2B f
  | .cos f => .l 0 0x2C 0x2C f
  | .pdset f => .p 1 0x01 0x01 f
  | .pdsetEdge f => .p 1 0x01 0x01 f
  | .pdsetDim f => .p 1 0x01 0x01 f
  | .pdsetLike f => .p 1 0x01 0x01 f
  | .pdget f => .p 1 0x02 0x02 f
  | .pshift f => .p 1 0x03 0x03 f
  | .prot f => .p 1 0x04 0x04 f
  | .pspread f => .p 1 0x05 0x05 f
  | .pfold f => .p 1 0x06 0x06 f
  | .prefold f => .p 1 0x07 0x07 f
  | .ptrans f => .p 1 0x08 0x08 f
  | .pew2 f => .p 1 0x09 0x09 f
  | .pew3 f => .p 1 0x0A 0x0A f
  | .pewc f => .p 1 0x0B 0x0B f
  | .piota f => .p 1 0x0C 0x0C f
  | .pscan f => .p 1 0x0D 0x0D f
  | .psel f => .p 1 0x0E 0x0E f
  | .pcmp f => .p 1 0x0F 0x0F f
  | .ppshift f => .p 1 0x10 0x10 f
  | .pprot f => .p 1 0x11 0x11 f
  | .ppspread f => .p 1 0x12 0x12 f
  | .ppfold f => .p 1 0x13 0x13 f
  | .pplog f => .p 1 0x14 0x14 f
  | .pfill f => .p 1 0x15 0x15 f
  | .pextr f => .p 1 0x16 0x16 f
  | .collectivePlaneComplete _ _ => .row
  | .mres f => .e 1 0x20 0x20 f
  | .mrel f => .e 1 0x21 0x21 f
  | .mrelRelease _ _ => .row
  | .mmaQ f => .e 1 0x22 0x22 f
  | .mmaS f => .e 1 0x23 0x23 f
  | .mspmm f => .e 1 0x24 0x24 f
  | .mzero f => .e 1 0x25 0x25 f
  | .mfill f => .e 1 0x26 0x26 f
  | .mdrain f => .e 1 0x27 0x27 f
  | .mbypass f => .e 1 0x28 0x28 f
  | .accalloc f => .e 1 0x29 0x29 f
  | .accfree f => .e 1 0x2A 0x2A f
  | .mstat f => .e 1 0x2B 0x2B f
  | .matrixGrant _ => .row
  | .matrixRequestUrgent _ _ => .row
  | .matrixRequestComplete _ _ => .row
  | .scalarAdd f => .s 2 0x01 0x01 f
  | .scalarSub f => .s 2 0x02 0x02 f
  | .scalarMul f => .s 2 0x03 0x03 f
  | .scalarMulhi f => .s 2 0x04 0x04 f
  | .div f => .s 2 0x05 0x05 f
  | .rem f => .s 2 0x06 0x06 f
  | .scalarMin f => .s 2 0x07 0x07 f
  | .scalarMax f => .s 2 0x08 0x08 f
  | .scalarAnd f => .s 2 0x09 0x09 f
  | .scalarOr f => .s 2 0x0A 0x0A f
  | .scalarXor f => .s 2 0x0B 0x0B f
  | .scalarNot f => .s 2 0x0C 0x0C f
  | .scalarShl f => .s 2 0x0D 0x0D f
  | .scalarShr f => .s 2 0x0E 0x0E f
  | .scalarSar f => .s 2 0x0F 0x0F f
  | .scalarCmp f => .s 2 0x10 0x10 f
  | .scalarSel f => .s 2 0x11 0x11 f
  | .scalarMov f => .s 2 0x12 0x12 f
  | .scalarPopc f => .s 2 0x13 0x13 f
  | .scalarClz f => .s 2 0x14 0x14 f
  | .scalarBfx f => .s 2 0x15 0x15 f
  | .scalarBfi f => .s 2 0x16 0x16 f
  | .movp f => .s 2 0x17 0x17 f
  | .movps f => .s 2 0x18 0x18 f
  | .bra f => .b 2 0x20 0x20 f
  | .brc f => .b 2 0x21 0x21 f
  | .brk f => .b 2 0x22 0x22 f
  | .cont f => .b 2 0x23 0x23 f
  | .loop f => .b 2 0x24 0x24 f
  | .jmpi f => .b 2 0x25 0x25 f
  | .call f => .b 2 0x26 0x26 f
  | .calli f => .b 2 0x27 0x27 f
  | .ret f => .b 2 0x28 0x28 f
  | .exit f => .b 2 0x29 0x29 f
  | .yield f => .b 2 0x2A 0x2A f
  | .srd f => .s 2 0x30 0x30 f
  | .swr f => .s 2 0x31 0x31 f
  | .launch f => .m 2 0x32 0x72 f
  | .ld f => .m 3 0x01 0x01 f
  | .st f => .m 3 0x02 0x02 f
  | .ldf f => .m 3 0x03 0x03 f
  | .stf f => .m 3 0x04 0x04 f
  | .atom f => .m 3 0x05 0x05 f
  | .red f => .m 3 0x06 0x06 f
  | .flushred f => .m 3 0x07 0x07 f
  | .thld f => .m 3 0x08 0x08 f
  | .thst f => .m 3 0x09 0x09 f
  | .presclr f => .m 3 0x0A 0x0A f
  | .presclrSet f => .m 3 0x0A 0x0A f
  | .prestest f => .m 3 0x0B 0x0B f
  | .cpyt f => .e 3 0x10 0x50 f
  | .gath f => .e 3 0x11 0x51 f
  | .gathTh f => .e 3 0x11 0x51 f
  | .scat f => .e 3 0x12 0x52 f
  | .waitcnt f => .e 3 0x13 0x53 f
  | .copyAccept _ _ _ => .row
  | .copyLineLanded _ _ _ _ _ => .row
  | .copyComplete _ _ => .row
  | .barinit f => .e 3 0x18 0x58 f
  | .barfree f => .e 3 0x18 0x58 f
  | .bararr f => .e 3 0x19 0x59 f
  | .barwait f => .e 3 0x1A 0x5A f
  | .bartest f => .e 3 0x1B 0x5B f
  | .mortinit f => .m 3 0x20 0x20 f
  | .mortinitFree f => .m 3 0x20 0x20 f
  | .mortacq f => .m 3 0x21 0x21 f
  | .pegwait f => .m 3 0x22 0x22 f
  | .peggive f => .m 3 0x23 0x23 f
  | .pegswap f => .m 3 0x24 0x24 f
  | .pegdrop f => .m 3 0x25 0x25 f
  | .mortrel f => .m 3 0x26 0x26 f
  | .mortiseSkipStep _ => .row
  | .publish f => .m 3 0x28 0x28 f
  | .refresh f => .m 3 0x29 0x29 f
  | .ifence f => .m 3 0x2A 0x2A f
  | .gridarr f => .s 3 0x30 0x70 f
  | .domainBarrierStep _ _ _ => .row
  | .migrate f => .s 3 0x31 0x71 f
  | .migrateMove _ => .row
  | .trig f => .e 3 0x14 0x54 f
  | .trigcan f => .e 3 0x15 0x55 f
  | .triggerFire => .row
  | .gtcUpdate => .row
  | .ptpMessage _ _ => .row
  | .trap f => .s 3 0x38 0x78 f
  | .syscall f => .s 3 0x39 0x79 f
  | .trapret f => .s 3 0x3A 0x7A f
  | .handlerGroupStart _ _ => .row
  | .fetchLine _ _ _ => .row
  | .flaggedComplete _ _ => .row
  | .groupUrgent _ => .row
  | .throttleReselect _ _ => .row
  | .congestionWindow _ _ => .row
  | .memoryAccessPerformed _ _ => .row
  | .groupExitRelease _ => .row
  | .placeCluster => .row
  | .launchComplete _ => .row
  | .lqtailWrite _ _ => .row
  | .lqctlWrite _ _ => .row
  | .lqstatErrClear _ => .row
  | .tlbictlGo _ => .row
  | .shootdownComplete => .row
  | .ctxsaveWrite _ _ => .row
  | .registerWrite _ _ _ => .row
  | .remoteRead _ => .row
  | .remoteWrite _ => .row
  | .remoteAtomic _ => .row
  | .ackReceived _ => .row
  | .nackReceived _ _ => .row
  | .remoteRequestTimeout _ => .row
  | .remoteOriginTimeout _ => .row
  | .collectiveAccept _ _ => .row
  | .collectiveStep _ => .row
  | .drainMarker _ => .row
  | .scribeControl _ _ => .row
  | .packetAccept _ _ => .row
  | .scribeDispatch _ => .row
  | .vadd d a b m t => .scribe (0x04000000 + d.toNat * 2 ^ 22 + a.toNat * 2 ^ 18 + b.toNat * 2 ^ 14 + m.toNat * 2 ^ 12 + t.toNat)
  | .vsub d a b m t => .scribe (0x08000000 + d.toNat * 2 ^ 22 + a.toNat * 2 ^ 18 + b.toNat * 2 ^ 14 + m.toNat * 2 ^ 12 + t.toNat)
  | .vmul d a b m t => .scribe (0x0C000000 + d.toNat * 2 ^ 22 + a.toNat * 2 ^ 18 + b.toNat * 2 ^ 14 + m.toNat * 2 ^ 12 + t.toNat)
  | .vmin d a b m t => .scribe (0x10000000 + d.toNat * 2 ^ 22 + a.toNat * 2 ^ 18 + b.toNat * 2 ^ 14 + m.toNat * 2 ^ 12 + t.toNat)
  | .vmax d a b m t => .scribe (0x14000000 + d.toNat * 2 ^ 22 + a.toNat * 2 ^ 18 + b.toNat * 2 ^ 14 + m.toNat * 2 ^ 12 + t.toNat)
  | .vand d a b m => .scribe (0x18000000 + d.toNat * 2 ^ 22 + a.toNat * 2 ^ 18 + b.toNat * 2 ^ 14 + m.toNat * 2 ^ 12)
  | .vor d a b m => .scribe (0x1C000000 + d.toNat * 2 ^ 22 + a.toNat * 2 ^ 18 + b.toNat * 2 ^ 14 + m.toNat * 2 ^ 12)
  | .vxor d a b m => .scribe (0x20000000 + d.toNat * 2 ^ 22 + a.toNat * 2 ^ 18 + b.toNat * 2 ^ 14 + m.toNat * 2 ^ 12)
  | .vshl d a b m => .scribe (0x24000000 + d.toNat * 2 ^ 22 + a.toNat * 2 ^ 18 + b.toNat * 2 ^ 14 + m.toNat * 2 ^ 12)
  | .vshr d a b m => .scribe (0x28000000 + d.toNat * 2 ^ 22 + a.toNat * 2 ^ 18 + b.toNat * 2 ^ 14 + m.toNat * 2 ^ 12)
  | .vsar d a b m => .scribe (0x2C000000 + d.toNat * 2 ^ 22 + a.toNat * 2 ^ 18 + b.toNat * 2 ^ 14 + m.toNat * 2 ^ 12)
  | .vsel d a b m => .scribe (0x30000000 + d.toNat * 2 ^ 22 + a.toNat * 2 ^ 18 + b.toNat * 2 ^ 14 + m.toNat * 2 ^ 12)
  | .vcmp d a b m r t => .scribe (0x34000000 + d.toNat * 2 ^ 22 + a.toNat * 2 ^ 18 + b.toNat * 2 ^ 14 + m.toNat * 2 ^ 12 + r.toNat * 2 ^ 4 + t.toNat)
  | .vbc d a m => .scribe (0x38000000 + d.toNat * 2 ^ 22 + a.toNat * 2 ^ 18 + m.toNat * 2 ^ 12)
  | .vext d a l => .scribe (0x3C000000 + d.toNat * 2 ^ 22 + a.toNat * 2 ^ 18 + l.toNat)
  | .vins d a l => .scribe (0x40000000 + d.toNat * 2 ^ 22 + a.toNat * 2 ^ 18 + l.toNat)
  | .sadd d a b => .scribe (0x60000000 + d.toNat * 2 ^ 22 + a.toNat * 2 ^ 18 + b.toNat * 2 ^ 14)
  | .ssub d a b => .scribe (0x64000000 + d.toNat * 2 ^ 22 + a.toNat * 2 ^ 18 + b.toNat * 2 ^ 14)
  | .sand d a b => .scribe (0x68000000 + d.toNat * 2 ^ 22 + a.toNat * 2 ^ 18 + b.toNat * 2 ^ 14)
  | .sor d a b => .scribe (0x6C000000 + d.toNat * 2 ^ 22 + a.toNat * 2 ^ 18 + b.toNat * 2 ^ 14)
  | .sxor d a b => .scribe (0x70000000 + d.toNat * 2 ^ 22 + a.toNat * 2 ^ 18 + b.toNat * 2 ^ 14)
  | .sshl d a n => .scribe (0x74000000 + d.toNat * 2 ^ 22 + a.toNat * 2 ^ 18 + n.toNat)
  | .sshr d a n => .scribe (0x78000000 + d.toNat * 2 ^ 22 + a.toNat * 2 ^ 18 + n.toNat)
  | .saddi d a i => .scribe (0x7C000000 + d.toNat * 2 ^ 22 + a.toNat * 2 ^ 18 + i.toNat)
  | .smovi d i => .scribe (0x80000000 + d.toNat * 2 ^ 22 + i.toNat)
  | .smovh d i => .scribe (0x84000000 + d.toNat * 2 ^ 22 + i.toNat)
  | .scmp d a b u r => .scribe (0x88000000 + d.toNat * 2 ^ 22 + a.toNat * 2 ^ 18 + b.toNat * 2 ^ 14 + u.toNat * 2 ^ 3 + r.toNat)
  | .hrd d f => .scribe (0xA0000000 + d.toNat * 2 ^ 22 + f.toNat)
  | .hwr a f => .scribe (0xA4000000 + a.toNat * 2 ^ 18 + f.toNat)
  | .pld d => .scribe (0xA8000000 + d.toNat * 2 ^ 22)
  | .pst a m => .scribe (0xAC000000 + a.toNat * 2 ^ 18 + m.toNat * 2 ^ 12)
  | .fld d a o => .scribe (0xB0000000 + d.toNat * 2 ^ 22 + a.toNat * 2 ^ 18 + o.toNat)
  | .fst a b m o => .scribe (0xB4000000 + a.toNat * 2 ^ 18 + b.toNat * 2 ^ 14 + m.toNat * 2 ^ 12 + o.toNat)
  | .racc d a o => .scribe (0xB8000000 + d.toNat * 2 ^ 22 + a.toNat * 2 ^ 18 + o.toNat)
  | .emit a b r => .scribe (0xBC000000 + a.toNat * 2 ^ 18 + b.toNat * 2 ^ 14 + r.toNat)
  | .bnz a o => .scribe (0xC0000000 + a.toNat * 2 ^ 18 + o.toNat)
  | .bz a o => .scribe (0xC4000000 + a.toNat * 2 ^ 18 + o.toNat)
  | .jmp o => .scribe (0xC8000000 + o.toNat)
  | .scribeRepeat d b n => .scribe (0xCC000000 + d.toNat * 2 ^ 22 + b.toNat * 2 ^ 14 + n.toNat)
  | .pass => .scribe 0xE0000000
  | .drop => .scribe 0xE4000000
  | .trapk c => .scribe (0xE8000000 + c.toNat)
  | .survey _ => .row
  | .load _ => .row
  | .partcfg _ => .row
  | .modeset _ => .row
  | .ctxsw _ => .row
  | .contextSwitchDone _ => .row
  | .freeze _ => .row
  | .freezeStepEnd => .row
  | .freezeDrainTimeout => .row
  | .thaw _ => .row
  | .dirtyscan _ => .row
  | .scribebind _ => .row
  | .routeset _ => .row
  | .ctxend _ => .row
  | .ctxcreate _ => .row
  | .jobbind _ => .row
  | .keyenrol _ => .row
  | .cfgwrite _ => .row
  | .scribeunbind _ => .row
  | .scriberead _ => .row
  | .scribewrite _ => .row
  | .scribesnap _ => .row
  | .getMeasurements _ => .row
  | .hostMemAccess _ _ _ => .row
  | .eccScrub _ _ => .row
  | .powerOn _ => .row
  | .trainingComplete => .row
  | .thermalSample _ _ => .row
  | .thermalShutdown => .row
  | .thermalRecover => .row
  | .powerRemoved => .row
  | .fabricPortStateChange _ _ _ => .row
  | .packagePowerLimit _ => .row

/-- Rows that share an operation are told apart by a function field (R192, R259, R271, R295, R309). -/
def Instr.formOk : Instr → Bool
  | .pdset f => f.fn == 0
  | .gath f => f.efn == 0
  | .barinit f => f.efn.toNat % 4 != 3
  | .barfree f => f.efn.toNat % 4 == 3
  | .presclr f => f.mfn == 0
  | .mortinit f => f.mfn == 0
  | .pdsetEdge f => f.fn == 1
  | .pdsetDim f => f.fn == 2
  | .pdsetLike f => f.fn == 3
  | .gathTh f => f.efn == 1
  | .presclrSet f => f.mfn == 1
  | .mortinitFree f => f.mfn == 1
  | _ => true
/-- R362, R365, R370 (BADWORD): the field values of a Scribe word that the load-time check accepts: TY codes 0, 1,
5, 6 and 7 (VCMP without the packed types), rel codes 0 to 5, mask destinations 1 to 3, header fields. -/
def scribeWordOk : Instr → Bool
  | .vadd _ _ _ _ t | .vsub _ _ _ _ t | .vmul _ _ _ _ t | .vmin _ _ _ _ t | .vmax _ _ _ _ t =>
    t == 0 || t == 1 || t == 5 || t == 6 || t == 7
  | .vcmp d _ _ _ r t => d != 0 && r.toNat ≤ 5 && (t == 0 || t == 1 || t == 5)
  | .scmp _ _ _ _ r => r.toNat ≤ 5
  | .hrd _ f => f != 15
  | .hwr _ f => f == 3 || f == 12
  | _ => true

/-- The first failing check of R70 steps 2 to 5 with its subcode. Rows without bits have none to fail; a Scribe word
fails as an undefined value where its field limits fail. DEDUCED, log 30, 31. -/
def Instr.check (fx fy : Bool) (i : Instr) : Option Nat :=
  if !i.formOk then some subCombination
  else
    match i.shape with
    | .l _ _ n f => lCheck n f
    | .p _ _ n f => pCheck n f
    | .m _ _ n f => mCheck fx fy n f
    | .b _ _ n f => bCheck n f
    | .e _ _ n f => eCheck fx fy n f
    | .s _ _ n f => sCheck n f
    | .scribe _ => if scribeWordOk i then none else some subUndefined
    | .row => none

/-- A well-formed instruction, in a line whose line word names both flags. -/
def Instr.wf (i : Instr) : Bool := i.check true true == none

end Sys2Proof
end

