-- ==== Sys2Proof/Decode.lean ====
section
/-!
DEFINITION. Decoding, total on any bits, and the encoder. A slot decodes as R70 orders its checks and answers the
subcode of R78 where one fails; a Scribe word decodes by R361 and R362.
-/
namespace Sys2Proof

/-- Bits [lo + n - 1 : lo] of a number. -/
def fld (w lo n : Nat) : Nat := w / 2 ^ lo % 2 ^ n

/-- The same field as a bit vector. -/
def bvf (w lo n : Nat) : BitVec n := BitVec.ofNat n (w / 2 ^ lo)

/-- One bit. -/
def bitAt (w k : Nat) : Bool := w / 2 ^ k % 2 == 1

/-- The little-endian number of a list of bytes (R48, R92). -/
def leNat : List Byte → Nat
  | [] => 0
  | b :: t => b.toNat + 256 * leNat t

/-- The `n` little-endian bytes of a number. -/
def leBytes : Nat → Nat → List Byte
  | 0, _ => []
  | n + 1, w => BitVec.ofNat 8 w :: leBytes n (w / 256)

/-- The common fields (R60). -/
def regsOf (w : Nat) : Regs :=
  { g := { p := bvf w 85 3, neg := bitAt w 84 }, dst := bvf w 76 8, a := bvf w 68 8, b := bvf w 60 8,
    c := bvf w 52 8 }

def RM.ofCode : Nat → Option RM
  | 0 => some .rn | 1 => some .rz | 2 => some .ru | 3 => some .rd | 4 => some .rs | _ => none
def RM.code : RM → Nat
  | .rn => 0 | .rz => 1 | .ru => 2 | .rd => 3 | .rs => 4
def Kind.ofCode : Nat → Option Kind
  | 0 => some .vec | 1 => some .sca | 2 => some .imm | _ => none
def Kind.code : Kind → Nat
  | .vec => 0 | .sca => 1 | .imm => 2
def Edge.ofCode : Nat → Option Edge
  | 0 => some .zero | 1 => some .rep | 2 => some .wrap | 3 => some .desc | 4 => some .scal | _ => none
def Edge.code : Edge → Nat
  | .zero => 0 | .rep => 1 | .wrap => 2 | .desc => 3 | .scal => 4
def Rop.ofCode : Nat → Option Rop
  | 0 => some .add | 1 => some .max | 2 => some .min | 3 => some .and | 4 => some .or | 5 => some .xor | _ => none
def Rop.code : Rop → Nat
  | .add => 0 | .max => 1 | .min => 2 | .and => 3 | .or => 4 | .xor => 5
def Wid.ofCode : Nat → Option Wid
  | 0 => some .b8 | 1 => some .b16 | 2 => some .b32 | 3 => some .b64 | 4 => some .b128 | _ => none
def Wid.code : Wid → Nat
  | .b8 => 0 | .b16 => 1 | .b32 => 2 | .b64 => 3 | .b128 => 4
def Spc.ofCode : Nat → Option Spc
  | 0 => some .tm | 1 => some .sp | 2 => some .far | _ => none
def Spc.code : Spc → Nat
  | .tm => 0 | .sp => 1 | .far => 2
def Ord.ofCode : Nat → Option Ord
  | 0 => some .none | 1 => some .acq | 2 => some .rel | 3 => some .both | _ => none
def Ord.code : Ord → Nat
  | .none => 0 | .acq => 1 | .rel => 2 | .both => 3
def Scope.ofCode : Nat → Option Scope
  | 0 => some .group | 1 => some .team | 2 => some .cluster | 3 => some .die | 4 => some .device
  | 5 => some .domain | _ => none
def Scope.code : Scope → Nat
  | .group => 0 | .team => 1 | .cluster => 2 | .die => 3 | .device => 4 | .domain => 5
def FlagSel.ofCode : Nat → Option FlagSel
  | 0 => some .none | 1 => some .x | 2 => some .y | _ => Option.none
def FlagSel.code : FlagSel → Nat
  | .none => 0 | .x => 1 | .y => 2
def OcClass.ofCode : Nat → Option OcClass
  | 0 => some .copy | 1 => some .mat | 2 => some .gath | 3 => some .coll | _ => none
def OcClass.code : OcClass → Nat
  | .copy => 0 | .mat => 1 | .gath => 2 | .coll => 3

/-- R70 step 3 for the raw fields of format L (R63). -/
def lOf (w : Nat) : Option LFmt := do
  let ty ← Ty.ofCode (fld w 48 4)
  let rm ← RM.ofCode (fld w 40 3)
  let ka ← Kind.ofCode (fld w 38 2)
  let kb ← Kind.ofCode (fld w 36 2)
  let kc ← Kind.ofCode (fld w 34 2)
  some { r := regsOf w, ty, fn := bvf w 44 4, sat := bitAt w 43, rm, ka, kb, kc, imm := bvf w 0 32 }

/-- Format P (R65). -/
def pOf (w : Nat) : Option PFmt := do
  let edge ← Edge.ofCode (fld w 35 3)
  let rop ← Rop.ofCode (fld w 32 3)
  some { r := regsOf w, fn := bvf w 48 4, set := bitAt w 47, yAxis := bitAt w 46, amt := bvf w 38 8, edge, rop,
         imm := bvf w 0 32 }

/-- Format M (R66). -/
def mOf (w : Nat) : Option MFmt := do
  let wid ← Wid.ofCode (fld w 49 3)
  let spc ← Spc.ofCode (fld w 46 3)
  let ord ← Ord.ofCode (fld w 44 2)
  let scope ← Scope.ofCode (fld w 41 3)
  let fs ← FlagSel.ofCode (fld w 39 2)
  some { r := regsOf w, wid, spc, ord, scope, fs, vAddr := bitAt w 38, mfn := bvf w 32 6, ofs := bvf w 0 32 }

/-- Format B (R67). -/
def bOf (w : Nat) : BFmt :=
  { r := regsOf w, bk := bvf w 48 4, tsl := bvf w 45 3, toff := bvf w 25 20, rsl := bvf w 22 3, roff := bvf w 2 20 }

/-- Format E (R68). -/
def eOf (w : Nat) : Option EFmt := do
  let cc ← OcClass.ofCode (fld w 37 2)
  let fs ← FlagSel.ofCode (fld w 28 2)
  some { r := regsOf w, pair := bvf w 46 6, bv := bitAt w 45, bar := bvf w 39 6, cc, tv := bitAt w 36,
         trg := bvf w 30 6, fs, efn := bvf w 24 4, imm := bvf w 0 16 }

/-- Format S (R69): kinds 01 and 11 are reserved. -/
def sOf (w : Nat) : Option SFmt := do
  let kind (n : Nat) : Option Kind := if n == 0 then some .vec else if n == 2 then some .imm else none
  let ty ← STy.ofCode (fld w 48 4)
  let ka ← kind (fld w 38 2)
  let kb ← kind (fld w 36 2)
  let kc ← kind (fld w 34 2)
  some { r := regsOf w, ty, fn := bvf w 44 4, ka, kb, kc, imm := bvf w 0 32 }

/-- The instruction of a format L operation (R74), by the number its `Spec` uses. -/
def mkL (op : Nat) (f : LFmt) : Option Instr :=
  match op with
  | 0x01 => some (.add f)
  | 0x02 => some (.sub f)
  | 0x03 => some (.mul f)
  | 0x04 => some (.mulhi f)
  | 0x05 => some (.mad f)
  | 0x06 => some (.fma f)
  | 0x07 => some (.min f)
  | 0x08 => some (.max f)
  | 0x09 => some (.abs f)
  | 0x0A => some (.neg f)
  | 0x0B => some (.clamp f)
  | 0x0C => some (.addmin f)
  | 0x0D => some (.dot2 f)
  | 0x0E => some (.frnd f)
  | 0x0F => some (.mov f)
  | 0x10 => some (.and f)
  | 0x11 => some (.or f)
  | 0x12 => some (.xor f)
  | 0x13 => some (.not f)
  | 0x14 => some (.shl f)
  | 0x15 => some (.shr f)
  | 0x16 => some (.sar f)
  | 0x17 => some (.bfx f)
  | 0x18 => some (.bfi f)
  | 0x19 => some (.popc f)
  | 0x1A => some (.clz f)
  | 0x1B => some (.brev f)
  | 0x1C => some (.pack f)
  | 0x1D => some (.cmp f)
  | 0x1E => some (.sel f)
  | 0x1F => some (.ballot f)
  | 0x20 => some (.lshf f)
  | 0x21 => some (.pand f)
  | 0x22 => some (.por f)
  | 0x23 => some (.pxor f)
  | 0x24 => some (.pnot f)
  | 0x25 => some (.rand f)
  | 0x26 => some (.cvt f)
  | 0x27 => some (.rcp f)
  | 0x28 => some (.rsq f)
  | 0x29 => some (.exp2 f)
  | 0x2A => some (.log2 f)
  | 0x2B => some (.sin f)
  | 0x2C => some (.cos f)
  | _ => none

/-- The instruction of a format P operation (R74), by the number its `Spec` uses. -/
def mkP (op : Nat) (f : PFmt) : Option Instr :=
  match op with
  | 0x01 => some (if f.fn == 1 then .pdsetEdge f else if f.fn == 2 then .pdsetDim f else if f.fn == 3 then .pdsetLike f else .pdset f)
  | 0x02 => some (.pdget f)
  | 0x03 => some (.pshift f)
  | 0x04 => some (.prot f)
  | 0x05 => some (.pspread f)
  | 0x06 => some (.pfold f)
  | 0x07 => some (.prefold f)
  | 0x08 => some (.ptrans f)
  | 0x09 => some (.pew2 f)
  | 0x0A => some (.pew3 f)
  | 0x0B => some (.pewc f)
  | 0x0C => some (.piota f)
  | 0x0D => some (.pscan f)
  | 0x0E => some (.psel f)
  | 0x0F => some (.pcmp f)
  | 0x10 => some (.ppshift f)
  | 0x11 => some (.pprot f)
  | 0x12 => some (.ppspread f)
  | 0x13 => some (.ppfold f)
  | 0x14 => some (.pplog f)
  | 0x15 => some (.pfill f)
  | 0x16 => some (.pextr f)
  | _ => none

/-- The instruction of a format M operation (R74), by the number its `Spec` uses. -/
def mkM (op : Nat) (f : MFmt) : Option Instr :=
  match op with
  | 0x72 => some (.launch f)
  | 0x01 => some (.ld f)
  | 0x02 => some (.st f)
  | 0x03 => some (.ldf f)
  | 0x04 => some (.stf f)
  | 0x05 => some (.atom f)
  | 0x06 => some (.red f)
  | 0x07 => some (.flushred f)
  | 0x08 => some (.thld f)
  | 0x09 => some (.thst f)
  | 0x0A => some (if f.mfn == 1 then .presclrSet f else .presclr f)
  | 0x0B => some (.prestest f)
  | 0x20 => some (if f.mfn == 1 then .mortinitFree f else .mortinit f)
  | 0x21 => some (.mortacq f)
  | 0x22 => some (.pegwait f)
  | 0x23 => some (.peggive f)
  | 0x24 => some (.pegswap f)
  | 0x25 => some (.pegdrop f)
  | 0x26 => some (.mortrel f)
  | 0x28 => some (.publish f)
  | 0x29 => some (.refresh f)
  | 0x2A => some (.ifence f)
  | _ => none

/-- The instruction of a format B operation (R74), by the number its `Spec` uses. -/
def mkB (op : Nat) (f : BFmt) : Option Instr :=
  match op with
  | 0x20 => some (.bra f)
  | 0x21 => some (.brc f)
  | 0x22 => some (.brk f)
  | 0x23 => some (.cont f)
  | 0x24 => some (.loop f)
  | 0x25 => some (.jmpi f)
  | 0x26 => some (.call f)
  | 0x27 => some (.calli f)
  | 0x28 => some (.ret f)
  | 0x29 => some (.exit f)
  | 0x2A => some (.yield f)
  | _ => none

/-- The instruction of a format E operation (R74), by the number its `Spec` uses. -/
def mkE (op : Nat) (f : EFmt) : Option Instr :=
  match op with
  | 0x20 => some (.mres f)
  | 0x21 => some (.mrel f)
  | 0x22 => some (.mmaQ f)
  | 0x23 => some (.mmaS f)
  | 0x24 => some (.mspmm f)
  | 0x25 => some (.mzero f)
  | 0x26 => some (.mfill f)
  | 0x27 => some (.mdrain f)
  | 0x28 => some (.mbypass f)
  | 0x29 => some (.accalloc f)
  | 0x2A => some (.accfree f)
  | 0x2B => some (.mstat f)
  | 0x50 => some (.cpyt f)
  | 0x51 => some (if f.efn == 1 then .gathTh f else .gath f)
  | 0x52 => some (.scat f)
  | 0x53 => some (.waitcnt f)
  | 0x58 => some (if f.efn.toNat % 4 == 3 then .barfree f else .barinit f)
  | 0x59 => some (.bararr f)
  | 0x5A => some (.barwait f)
  | 0x5B => some (.bartest f)
  | 0x54 => some (.trig f)
  | 0x55 => some (.trigcan f)
  | _ => none

/-- The instruction of a format S operation (R74), by the number its `Spec` uses. -/
def mkS (op : Nat) (f : SFmt) : Option Instr :=
  match op with
  | 0x01 => some (.scalarAdd f)
  | 0x02 => some (.scalarSub f)
  | 0x03 => some (.scalarMul f)
  | 0x04 => some (.scalarMulhi f)
  | 0x05 => some (.div f)
  | 0x06 => some (.rem f)
  | 0x07 => some (.scalarMin f)
  | 0x08 => some (.scalarMax f)
  | 0x09 => some (.scalarAnd f)
  | 0x0A => some (.scalarOr f)
  | 0x0B => some (.scalarXor f)
  | 0x0C => some (.scalarNot f)
  | 0x0D => some (.scalarShl f)
  | 0x0E => some (.scalarShr f)
  | 0x0F => some (.scalarSar f)
  | 0x10 => some (.scalarCmp f)
  | 0x11 => some (.scalarSel f)
  | 0x12 => some (.scalarMov f)
  | 0x13 => some (.scalarPopc f)
  | 0x14 => some (.scalarClz f)
  | 0x15 => some (.scalarBfx f)
  | 0x16 => some (.scalarBfi f)
  | 0x17 => some (.movp f)
  | 0x18 => some (.movps f)
  | 0x30 => some (.srd f)
  | 0x31 => some (.swr f)
  | 0x70 => some (.gridarr f)
  | 0x71 => some (.migrate f)
  | 0x78 => some (.trap f)
  | 0x79 => some (.syscall f)
  | 0x7A => some (.trapret f)
  | _ => none

/-- The Scribe instruction of a word (R361, R362): none for an unassigned operation or a nonzero unused field. The
limits on field values that R370 checks at load are `scribeWordOk`. -/
def decodeScribe (w : Nat) : Option Instr :=
  match fld w 26 6 with
  | 0x01 => if fld w 4 8 == 0x0 then some (.vadd (bvf w 22 4) (bvf w 18 4) (bvf w 14 4) (bvf w 12 2) (bvf w 0 4)) else none
  | 0x02 => if fld w 4 8 == 0x0 then some (.vsub (bvf w 22 4) (bvf w 18 4) (bvf w 14 4) (bvf w 12 2) (bvf w 0 4)) else none
  | 0x03 => if fld w 4 8 == 0x0 then some (.vmul (bvf w 22 4) (bvf w 18 4) (bvf w 14 4) (bvf w 12 2) (bvf w 0 4)) else none
  | 0x04 => if fld w 4 8 == 0x0 then some (.vmin (bvf w 22 4) (bvf w 18 4) (bvf w 14 4) (bvf w 12 2) (bvf w 0 4)) else none
  | 0x05 => if fld w 4 8 == 0x0 then some (.vmax (bvf w 22 4) (bvf w 18 4) (bvf w 14 4) (bvf w 12 2) (bvf w 0 4)) else none
  | 0x06 => if fld w 0 12 == 0x0 then some (.vand (bvf w 22 4) (bvf w 18 4) (bvf w 14 4) (bvf w 12 2)) else none
  | 0x07 => if fld w 0 12 == 0x0 then some (.vor (bvf w 22 4) (bvf w 18 4) (bvf w 14 4) (bvf w 12 2)) else none
  | 0x08 => if fld w 0 12 == 0x0 then some (.vxor (bvf w 22 4) (bvf w 18 4) (bvf w 14 4) (bvf w 12 2)) else none
  | 0x09 => if fld w 0 12 == 0x0 then some (.vshl (bvf w 22 4) (bvf w 18 4) (bvf w 14 4) (bvf w 12 2)) else none
  | 0x0A => if fld w 0 12 == 0x0 then some (.vshr (bvf w 22 4) (bvf w 18 4) (bvf w 14 4) (bvf w 12 2)) else none
  | 0x0B => if fld w 0 12 == 0x0 then some (.vsar (bvf w 22 4) (bvf w 18 4) (bvf w 14 4) (bvf w 12 2)) else none
  | 0x0C => if fld w 0 12 == 0x0 then some (.vsel (bvf w 22 4) (bvf w 18 4) (bvf w 14 4) (bvf w 12 2)) else none
  | 0x0D => if fld w 24 2 == 0x0 && fld w 7 5 == 0x0 then some (.vcmp (bvf w 22 2) (bvf w 18 4) (bvf w 14 4) (bvf w 12 2) (bvf w 4 3) (bvf w 0 4)) else none
  | 0x0E => if fld w 14 4 == 0x0 && fld w 0 12 == 0x0 then some (.vbc (bvf w 22 4) (bvf w 18 4) (bvf w 12 2)) else none
  | 0x0F => if fld w 4 14 == 0x0 then some (.vext (bvf w 22 4) (bvf w 18 4) (bvf w 0 4)) else none
  | 0x10 => if fld w 4 14 == 0x0 then some (.vins (bvf w 22 4) (bvf w 18 4) (bvf w 0 4)) else none
  | 0x18 => if fld w 0 14 == 0x0 then some (.sadd (bvf w 22 4) (bvf w 18 4) (bvf w 14 4)) else none
  | 0x19 => if fld w 0 14 == 0x0 then some (.ssub (bvf w 22 4) (bvf w 18 4) (bvf w 14 4)) else none
  | 0x1A => if fld w 0 14 == 0x0 then some (.sand (bvf w 22 4) (bvf w 18 4) (bvf w 14 4)) else none
  | 0x1B => if fld w 0 14 == 0x0 then some (.sor (bvf w 22 4) (bvf w 18 4) (bvf w 14 4)) else none
  | 0x1C => if fld w 0 14 == 0x0 then some (.sxor (bvf w 22 4) (bvf w 18 4) (bvf w 14 4)) else none
  | 0x1D => if fld w 5 13 == 0x0 then some (.sshl (bvf w 22 4) (bvf w 18 4) (bvf w 0 5)) else none
  | 0x1E => if fld w 5 13 == 0x0 then some (.sshr (bvf w 22 4) (bvf w 18 4) (bvf w 0 5)) else none
  | 0x1F => if fld w 12 6 == 0x0 then some (.saddi (bvf w 22 4) (bvf w 18 4) (bvf w 0 12)) else none
  | 0x20 => some (.smovi (bvf w 22 4) (bvf w 0 22))
  | 0x21 => if fld w 10 12 == 0x0 then some (.smovh (bvf w 22 4) (bvf w 0 10)) else none
  | 0x22 => if fld w 4 10 == 0x0 then some (.scmp (bvf w 22 4) (bvf w 18 4) (bvf w 14 4) (bvf w 3 1) (bvf w 0 3)) else none
  | 0x28 => if fld w 4 18 == 0x0 then some (.hrd (bvf w 22 4) (bvf w 0 4)) else none
  | 0x29 => if fld w 22 4 == 0x0 && fld w 4 14 == 0x0 then some (.hwr (bvf w 18 4) (bvf w 0 4)) else none
  | 0x2A => if fld w 0 22 == 0x0 then some (.pld (bvf w 22 4)) else none
  | 0x2B => if fld w 22 4 == 0x0 && fld w 14 4 == 0x0 && fld w 0 12 == 0x0 then some (.pst (bvf w 18 4) (bvf w 12 2)) else none
  | 0x2C => if fld w 12 6 == 0x0 then some (.fld (bvf w 22 4) (bvf w 18 4) (bvf w 0 12)) else none
  | 0x2D => if fld w 22 4 == 0x0 then some (.fst (bvf w 18 4) (bvf w 14 4) (bvf w 12 2) (bvf w 0 12)) else none
  | 0x2E => if fld w 12 6 == 0x0 then some (.racc (bvf w 22 4) (bvf w 18 4) (bvf w 0 12)) else none
  | 0x2F => if fld w 22 4 == 0x0 && fld w 1 13 == 0x0 then some (.emit (bvf w 18 4) (bvf w 14 4) (bvf w 0 1)) else none
  | 0x30 => if fld w 22 4 == 0x0 && fld w 12 6 == 0x0 then some (.bnz (bvf w 18 4) (bvf w 0 12)) else none
  | 0x31 => if fld w 22 4 == 0x0 && fld w 12 6 == 0x0 then some (.bz (bvf w 18 4) (bvf w 0 12)) else none
  | 0x32 => if fld w 12 14 == 0x0 then some (.jmp (bvf w 0 12)) else none
  | 0x33 => if fld w 9 5 == 0x0 then some (.scribeRepeat (bvf w 22 4) (bvf w 14 8) (bvf w 0 9)) else none
  | 0x38 => if fld w 0 26 == 0x0 then some (.pass) else none
  | 0x39 => if fld w 0 26 == 0x0 then some (.drop) else none
  | 0x3A => if fld w 8 18 == 0x0 then some (.trapk (bvf w 0 8)) else none
  | _ => none
/-- Formats by class and operation (R75), with the number the `Spec` functions use. -/
inductive FmtTag where
  | l | p | m | b | e | s
  deriving DecidableEq, Repr

/-- R74, R75: the format of a primary code, none where it is unassigned. -/
def fmtOf (cls op : Nat) : Option (FmtTag × Nat) :=
  match cls with
  | 0 => if 1 ≤ op && op ≤ 0x2C then some (.l, op) else none
  | 1 => if 1 ≤ op && op ≤ 0x16 then some (.p, op) else if 0x20 ≤ op && op ≤ 0x2B then some (.e, op) else none
  | 2 =>
    if 1 ≤ op && op ≤ 0x18 || op == 0x30 || op == 0x31 then some (.s, op)
    else if 0x20 ≤ op && op ≤ 0x2A then some (.b, op)
    else if op == 0x32 then some (.m, 0x72) else none
  | _ =>
    if 1 ≤ op && op ≤ 0x0B || 0x20 ≤ op && op ≤ 0x26 || 0x28 ≤ op && op ≤ 0x2A then some (.m, op)
    else if 0x10 ≤ op && op ≤ 0x15 || 0x18 ≤ op && op ≤ 0x1B then some (.e, op + 0x40)
    else if op == 0x30 || op == 0x31 || 0x38 ≤ op && op ≤ 0x3A then some (.s, op + 0x40)
    else none

/-- R70 step 2: the reserved bits of a format. Format B's unused fields count as reserved (R131). -/
def reservedOk (t : FmtTag) (n w : Nat) : Bool :=
  match t with
  | .l => fld w 32 2 == 0
  | .s => fld w 40 4 == 0 && fld w 32 2 == 0
  | .e => fld w 16 8 == 0
  | .b => fld w 0 2 == 0 && bCheck n (bOf w) != some subReserved
  | .m | .p => true

/-- Fields with the instruction of their operation, where every raw field value is defined. -/
def parse (t : FmtTag) (n w : Nat) : Option Instr :=
  match t with
  | .l => (lOf w).bind (mkL n)
  | .p => (pOf w).bind (mkP n)
  | .m => (mOf w).bind (mkM n)
  | .b => mkB n (bOf w)
  | .e => (eOf w).bind (mkE n)
  | .s => (sOf w).bind (mkS n)

/-- R70 steps 1 to 5 on one slot that is not null: the instruction, or the subcode of the first failing check.
`flagx` and `flagy` are the line word's fields (R50); 12 to 15 name no flag. DEDUCED, log 30, 94. -/
def decodeSlot (flagx flagy : BitVec 4) (slot : Slot) : Except Nat Instr :=
  let w := slot.toNat
  match fmtOf (fld w 94 2) (fld w 88 6) with
  | none => .error 1
  | some (t, n) =>
    if !reservedOk t n w then .error subReserved
    else
      match parse t n w with
      | none => .error subUndefined
      | some i =>
        match i.check (flagx.toNat < 12) (flagy.toNat < 12) with
        | some c => .error c
        | none => .ok i

/-! ### The encoder -/

def b2n (b : Bool) : Nat := if b then 1 else 0

/-- Bits [95:52] (R60). -/
def regsBits (cls op : Nat) (r : Regs) : Nat :=
  cls * 2 ^ 94 + op * 2 ^ 88 + r.g.p.toNat * 2 ^ 85 + b2n r.g.neg * 2 ^ 84 + r.dst.toNat * 2 ^ 76 +
  r.a.toNat * 2 ^ 68 + r.b.toNat * 2 ^ 60 + r.c.toNat * 2 ^ 52

def lBits (f : LFmt) : Nat :=
  f.ty.code * 2 ^ 48 + f.fn.toNat * 2 ^ 44 + b2n f.sat * 2 ^ 43 + f.rm.code * 2 ^ 40 + f.ka.code * 2 ^ 38 +
  f.kb.code * 2 ^ 36 + f.kc.code * 2 ^ 34 + f.imm.toNat

def pBits (f : PFmt) : Nat :=
  f.fn.toNat * 2 ^ 48 + b2n f.set * 2 ^ 47 + b2n f.yAxis * 2 ^ 46 + f.amt.toNat * 2 ^ 38 + f.edge.code * 2 ^ 35 +
  f.rop.code * 2 ^ 32 + f.imm.toNat

def mBits (f : MFmt) : Nat :=
  f.wid.code * 2 ^ 49 + f.spc.code * 2 ^ 46 + f.ord.code * 2 ^ 44 + f.scope.code * 2 ^ 41 + f.fs.code * 2 ^ 39 +
  b2n f.vAddr * 2 ^ 38 + f.mfn.toNat * 2 ^ 32 + f.ofs.toNat

def bBits (f : BFmt) : Nat :=
  f.bk.toNat * 2 ^ 48 + f.tsl.toNat * 2 ^ 45 + f.toff.toNat * 2 ^ 25 + f.rsl.toNat * 2 ^ 22 + f.roff.toNat * 2 ^ 2

def eBits (f : EFmt) : Nat :=
  f.pair.toNat * 2 ^ 46 + b2n f.bv * 2 ^ 45 + f.bar.toNat * 2 ^ 39 + f.cc.code * 2 ^ 37 + b2n f.tv * 2 ^ 36 +
  f.trg.toNat * 2 ^ 30 + f.fs.code * 2 ^ 28 + f.efn.toNat * 2 ^ 24 + f.imm.toNat

def sBits (f : SFmt) : Nat :=
  f.ty.code * 2 ^ 48 + f.fn.toNat * 2 ^ 44 + f.ka.code * 2 ^ 38 + f.kb.code * 2 ^ 36 + f.kc.code * 2 ^ 34 +
  f.imm.toNat

/-- The bits of an instruction, written from the encoding tables of R60 to R69 and R362; 0 for a row without bits. DEDUCED, log 94. -/
def encode (i : Instr) : Nat :=
  match i.shape with
  | .l c o _ f => regsBits c o f.r + lBits f
  | .p c o _ f => regsBits c o f.r + pBits f
  | .m c o _ f => regsBits c o f.r + mBits f
  | .b c o _ f => regsBits c o f.r + bBits f
  | .e c o _ f => regsBits c o f.r + eBits f
  | .s c o _ f => regsBits c o f.r + sBits f
  | .scribe w => w
  | .row => 0

/-- The width of an instruction in bits: 96 in a slot, 32 for a Scribe word, 0 for a row without bits. -/
def Instr.width (i : Instr) : Nat :=
  match i.shape with
  | .scribe _ => 32
  | .row => 0
  | _ => 96

/-- What the decoder reads from an instruction of `nbits` bits. A 32-bit instruction is a Scribe word; a longer one is
a slot, whose bits above `nbits` are zero, in a line that names flags 0 and 0. DESIGN CHOICE, log 5. -/
def decodeTableWord (nbits w : Nat) : Option Instr :=
  if nbits ≤ 32 then decodeScribe (leNat (leBytes 4 w))
  else
    match decodeSlot 0 0 (BitVec.ofNat 96 (leNat (leBytes 12 w))) with
    | .ok i => some i
    | .error _ => none

end Sys2Proof
end

