-- ==== Sys2Proof/Config.lean ====
section
/-!
DEFINITION. What an SX9 fixes outside the manual's own words, and the free values. A constant here with no body
is a free value: nothing can be proved of it, and a claim holds whatever it is.
-/
namespace Sys2Proof.Config

/-- R56: which of the two allowed values a racing register access takes. The first argument is the model's
free counter (State.free), the second the register and lane. UNSTATED by the manual, so free. DESIGN CHOICE, log 4. -/
opaque raceBit : Nat → Nat → Bool

/-- R56: whether a fixed-latency write that raced a pending one survives its completion; free, as `raceBit`. DESIGN CHOICE, log 4. -/
opaque raceKeep : Nat → Nat → Bool

/-- R256: whether an access uses a translation its core still holds, or walks the tables again; free. DESIGN CHOICE, log 4, 16. -/
opaque useOld : Nat → Bool

/-- A value the manual leaves open, drawn afresh by the model's free counter; free. DESIGN CHOICE, log 4. DEDUCED, log 95. -/
opaque freeWord : Nat → Word

/-- R347: the detail of a NACK for a MACHINE_CHECK at the peer, which the manual does not give; free. DEDUCED, log 50. -/
opaque nackMachine : Nat

/-- R8, R24, R418: the SHA-384 digest, an outside standard (FIPS 180-4). 48 bytes are taken of the answer. DESIGN CHOICE, log 14. -/
opaque sha384 : List Byte → List Byte

/-- R8, R24: Ed25519 verification (RFC 8032): key, message, signature. DESIGN CHOICE, log 14. -/
opaque ed25519Ok : List Byte → List Byte → List Byte → Bool

/-- R8, R24: ML-DSA-65 verification (FIPS 204) with an empty context string: key, message, signature. DESIGN CHOICE, log 14. -/
opaque mldsaOk : List Byte → List Byte → List Byte → Bool

/-- R400, R407, R419: the device's identity signatures over a digest; the first is 64 bytes, the second 3,309. DESIGN CHOICE, log 14. -/
opaque identityEd : List Byte → List Byte
/-- The ML-DSA-65 identity signature, as `identityEd`. DESIGN CHOICE, log 14. -/
opaque identityMl : List Byte → List Byte
/-- The 8-byte identifiers of the device's two identity keys, as R24 places them. DESIGN CHOICE, log 14. -/
opaque identityIds : List Byte
/-- R437: the device's own 16-byte identifier in a rank map. DESIGN CHOICE, log 14. -/
opaque identityName : Nat

/-- R437: the manufacturing keys held in boot code, which sign the record that enrols the first owner keys:
key bytes of the Ed25519 key and of the ML-DSA-65 key. DESIGN CHOICE, log 14. -/
opaque manufacturingKeys : List Byte × List Byte

/-- R22: which function's parameters the verifier takes a CALLI to pop, by the bytes left after it, where the functions' parameters
differ; the manual does not say how one pass knows the callee. DESIGN CHOICE, log 101. -/
opaque calliCallee : Nat → Nat

/-- R18: the output of the Nirgus translator for a Versu section and the seven discovered quantities, which the
manual says depends on nothing else: the code bytes and each kernel's entry line. DESIGN CHOICE, log 15. -/
opaque nirgus : List Byte → List Nat → List Byte × List Nat

/-- R425: the arithmetic clock, in tenths of a clock per network clock, to which the device lowers itself to
stay at its power limit, given the mode's own; the manual gives no figure. DESIGN CHOICE, log 58. -/
opaque loweredClock : Nat → Nat

/-- R422: whether the hub's store has room for one more record of this many bytes beside those it holds. DESIGN CHOICE, log 67. -/
opaque storeRoom : Nat → Nat → Bool

/-- R393, R422: the credential of the device owner, as authenticated over SPDM (R421). Credentials are opaque
numbers in this model. DESIGN CHOICE, log 13. -/
opaque ownerCred : Nat

/-- R394, R396, R407, R408: the bytes of a part of a save area or an image whose layout the manual does not give, by the
part's kind and the numbers it holds; the model cuts or zero-fills the answer to the part's stated size. DESIGN CHOICE, log 71. -/
opaque partBytes : Nat → List Nat → List Byte
/-- R394: where in its region of a save area a core puts the register bytes of a group slot (kind 0) or the memory of a
team (kind 1), by kind, core and slot or logical core; the manual gives the region only. DESIGN CHOICE, log 74. -/
opaque savePlace : Nat → Nat → Nat → Nat
/-- R343, R440: whether a routing table keeps R343; the manual gives its rule and not its layout. DESIGN CHOICE, log 64. -/
opaque routesOk : List Byte → Bool
/-- R422, R437: whether the bytes of a public key are one, by algorithm (RFC 8032, FIPS 204). DESIGN CHOICE, log 14. -/
opaque keyOk : Nat → List Byte → Bool
/-- R25: the latest Versu version the firmware knows at first shipment. -/
def versuMax : Nat := 7

end Sys2Proof.Config
end

