-- ==== Sys2Proof/Machine/State.lean ====
section
/-!
DEFINITION. The state of one SX9 device, as plain data. Sparse arrays are lists of (key, value) pairs with rising
keys that leave out the default value (`SMap`). Peers, the host and the wires are outside the device: what they
send arrives in event rows, and what the device sends is kept in the out-lists of the state.
-/
namespace Sys2Proof.Machine

/-- A sparse array: keys strictly rising, no entry equal to the default of its use. -/
abbrev SMap (β : Type) := List (Nat × β)

/-- Byte-addressed memory in the canonical form of `Memory.wf` (Ops); a byte not listed reads 0. DESIGN CHOICE, log 9. -/
abbrev Memory := List Host.Cell

/-- Reasons a step stops without a next state. Every one is raised outside the instructions' own effects. DESIGN CHOICE, log 6. -/
inductive Fault where
  /-- An instruction of a group or of a Scribe processor was handed to `exec` in a state where nothing issues it
  (`State.cur` or `State.curProc` names no live split or invocation). Raised by every such meaning; safe. -/
  | noIssuer
  /-- A step was asked of a device whose power is off and no POWER_ON is next on the agenda (R424, R425). Raised by
  `step`; safe. -/
  | powerOff
  deriving DecidableEq, Repr

/-- Reasons a step is refused. -/
inductive Refusal where
  /-- The instruction has no meaning in this model; raised by `exec` only; safe. -/
  | notModelled (mnemonic : String)
  deriving DecidableEq, Repr

/-- A write of a destination register that an instruction makes at its completion (R55, R381). -/
inductive RegWrite where
  | v (reg lane : Nat) (val : Word)
  | s (reg : Nat) (val : DWord)
  | p (reg lane : Nat) (val : Bool)
  | th (reg : Nat) (val : Line) (ty : Nat)
  deriving DecidableEq, Repr

/-- Who a trap is raised for: a split of a group, or an operation it issued. -/
structure Raiser where
  gid  : Nat
  pos  : Nat
  pc   : Nat
  act  : Mask
  kind : Nat
  ref  : Nat
  deriving DecidableEq, Repr

/-- What holds a split that has issued (R84): a phase wait (R299), WAITCNT (R270), PEGWAIT (R313), GRIDARR
(R304), a collective plane operation (R182), a PUBLISH or IFENCE that is not complete (R301, R321), a REFRESH,
MIGRATE (R412), or a collective that its engine has not accepted yet (R349). A plane wait keeps the destination registers it interlocks (R183). A PEGWAIT names its entry, which holds the status to write; a GRIDARR keeps its scope, the number
its publish covers, and its program counter. DEDUCED, log 19. -/
inductive Wait where
  | none
  | phase (loc : ObjLoc) (ph : Nat) (scope : Scope)
  | count (cc : OcClass) (n : Nat)
  | peg (pa seq entry : Nat) (acq : Option Scope)
  | grid (k : Nat) (scope : Scope) (upTo : Nat) (pc : Nat)
  | plane (seq : Nat) (regs : List Nat)
  | publish (scope : Scope) (upTo : Nat) (fence : Bool)
  | migrate
  | coll (op : Nat)
  deriving DecidableEq, Repr

/-- One live split (R82 to R90, R408). `line` is the fetched line its program counter lies in, `entered` says
that the clause's WAIT test is passed (R53), and `only` is the mask a reissued precise trap keeps (R387). A demoted split is
passed over for the positions `demoted`, which `demNew` says are still to be found, and `passed` counts the issue opportunities
at which it was ready since then (R87, R88). -/
structure Split where
  pc      : Nat
  mask    : Mask
  link    : Option Nat
  demoted : List Nat
  isDem   : Bool
  demNew  : Bool
  passed  : Nat
  line    : Option Line
  entered : Bool
  wait    : Wait
  only    : Option Mask
  deriving DecidableEq, Repr

/-- Where a join record is held (R91, R92): with the split table, about to enter the stack, in the hardware stack, or
spilled, the record spilled first at depth 0. DEDUCED, log 27. -/
inductive Place where
  | table | entering | stack | spilled (depth : Nat)
  deriving DecidableEq, Repr

/-- A join record (R89, R93). -/
structure JoinRec where
  num      : Nat
  kind     : Nat
  rpc      : Nat
  exp      : Mask
  arr      : Mask
  d        : Bool
  dpc      : Nat
  dmask    : Mask
  outer    : Option Nat
  complete : Bool
  place    : Place
  deriving DecidableEq, Repr

/-- Operations that wait for the group's earlier stores before they are applied at their home: a BARARR (R298),
a MORTREL or PEGDROP with release (R309), and a FLUSHRED whose entries are not all applied (R267). DEDUCED, log 20. -/
inductive HomeOp where
  | access
  | result
  | arrive (loc : ObjLoc) (n : Nat)
  | mortise (pa seq : Nat) (drop : Bool)
  | flush
  deriving DecidableEq, Repr

/-- An instruction in flight: an operand-log entry (R380) when `logged`, or another instruction whose destinations
are written at completion (R54). `act` are the active lanes of its split at issue (R379), and `mine` says that the split
that issued it still holds its position (R88). `ref` is the scope of a refresh that the group makes when the access is
performed: its own acquire, or a refresh that came after it issued (R320). `done` holds lanes performed or given up, `sent`
lanes whose request is at a peer, `fault` lanes that wait on an unresolved origin, and `outs` the writes gathered for the
completion. -/
structure Entry where
  id     : Nat
  instr  : Instr
  op     : HomeOp
  pc     : Nat
  pos    : Nat
  mine   : Bool
  act    : Mask
  mask   : Mask
  addr   : SMap DWord
  data   : SMap (BitVec 128)
  cmp    : SMap (BitVec 128)
  flag   : Option Nat
  logged : Bool
  ref    : Option Nat
  done   : Mask
  sent   : Mask
  fault  : Mask
  outs   : List RegWrite
  fpf    : DWord
  fails  : Bool
  ready  : Bool
  deriving DecidableEq, Repr

/-- Who an update of a frame (R251, R327) belongs to beside its writer: nobody, a job that ends when every frame holds it, a copy of
a group that counts as landed already, or the RED entries held for the advance of a barrier object or for a wide barrier (R302). DEDUCED, log 24. -/
inductive FrameOwner where
  | writer
  | job (n : Nat)
  | copy (gid : Nat) (cls : OcClass) (op : Nat)
  | obj (loc : ObjLoc)
  | grid (launch k : Nat)
  deriving DecidableEq, Repr

/-- A RED entry in a group's share of the atomic buffer (R266, R302). `id` is its number, by which an
origin names it. The key orders entries held for a barrier's advance: cluster index, logical core, group index, instruction order, lane.
`owner` and `scope` are that barrier's. -/
structure RedEntry where
  id      : Nat
  gid     : Nat
  key     : List Nat
  addr    : DWord
  fn      : Nat
  ty      : Nat
  wid     : Nat
  data    : DWord
  pc      : Nat
  pos     : Nat
  lane    : Nat
  mask    : Mask
  owner   : FrameOwner
  scope   : Nat
  faulted : Bool
  deriving DecidableEq, Repr

/-- A posted write that a peer refused (R347, R408). `va` is the address it reports. DEDUCED, log 25. -/
structure HeldWrite where
  tag    : Nat
  pkt    : Packet
  va     : DWord
  detail : Nat
  pc     : Nat
  pos    : Nat
  lane   : Nat
  mask   : Mask
  raised : Bool
  seen   : List Nat
  deriving DecidableEq, Repr

/-- An origin of a trap (R379, R383, R384, R438). `ref` names the operand-log entry, engine operation or held
write it belongs to, `dst` the register that RESUME of a SYSCALL writes (R389), and `tick` is the arithmetic clock at which it
was queued. -/
structure Origin where
  id     : Nat
  ctx    : Nat
  core   : Nat
  gid    : Nat
  slot   : Nat
  remote : Option Nat
  kind   : Nat
  cause  : Nat
  detail : Nat
  pc     : Nat
  pos    : Nat
  lane   : Nat
  mask   : Mask
  addr   : DWord
  aux    : Nat
  ref    : Nat
  dst    : Nat
  tick   : Nat
  deriving DecidableEq, Repr

/-- How TRAPRET resolved an origin (R390): mode 0 RETRY, 1 RESUME, 2 KILL, and handler registers v8 to v23. -/
structure Resolution where
  origin : Origin
  mode   : Nat
  regs   : List Word
  deriving DecidableEq, Repr

/-- A placed group (R10, R28 to R36, R397, R408). `saved` says that its state lies in the save area (R396), its register bytes at
that offset of its core's region. `lanes` are the origins of a handler group's lanes, `served` the
lanes that have resolved theirs, and `root` the table root it translates through (R382). Keys: `v` 32 * register + lane, `pd` 4 * descriptor + word,
`th` 8 * register + 8-byte word. -/
structure Group where
  ctx       : Nat
  core      : Nat
  slot      : Nat
  part      : Nat
  team      : Nat
  idx       : Nat
  handler   : Option Nat
  lanes     : List Origin
  served    : Mask
  root      : DWord
  sup       : Bool
  budget    : Nat
  role      : Nat
  prio      : Nat
  v         : SMap Word
  s         : SMap DWord
  p         : SMap Mask
  pd        : SMap DWord
  th        : SMap DWord
  thType    : SMap Nat
  cf        : SMap Nat
  ocCopy    : Nat
  ocMat     : Nat
  ocGath    : Nat
  ocColl    : Nat
  fpf       : DWord
  mxc       : DWord
  gerr      : Nat
  planeSeq  : Nat
  gridCount : Nat
  acks      : Nat
  lastIssue : Nat
  urgent    : Bool
  throttled : Bool
  lastFar   : Nat
  lastSplit : Nat
  exited    : Mask
  splits    : SMap Split
  recs      : List JoinRec
  entries   : List Entry
  red       : List RedEntry
  redUpTo   : Nat
  held      : List HeldWrite
  openOrg   : List Nat
  resolved  : List Resolution
  raced     : SMap Nat
  poison    : List Nat
  stack     : Nat
  stackLow  : Nat
  saved     : Option Nat
  queue     : Nat
  codeBase  : Nat
  codeLines : Nat
  exiting   : Bool
  stopped   : Bool
  deriving DecidableEq, Repr

/-- What a group supplied when it arrived at a collective plane operation (R181 to R185): its index and number, the
issuing split, the lanes that receive results, the lanes that had exited, its scalar fill, and its v registers. -/
structure PlaneArrival where
  idx    : Nat
  gid    : Nat
  pos    : Nat
  act    : Mask
  exited : Mask
  fill   : Word
  v      : SMap Word
  deriving DecidableEq, Repr

/-- A pending collective plane operation of a team, by plane sequence number: the instruction, the descriptor words its
operand fields name (key 4 * field + word), the arrivals, and the group indices that are still to trap (R185). -/
structure PlaneOp where
  instr    : Instr
  pd       : SMap DWord
  arrivals : List PlaneArrival
  bad      : List Nat
  deriving DecidableEq, Repr

/-- A MIGRATE request that waits at its team's core (R412, R413). -/
structure MigrateReq where
  gid  : Nat
  pos  : Nat
  dst  : Nat
  core : Nat
  deriving DecidableEq, Repr

/-- A placed team (R28, R29, R242). `saved` says that its memory lies in the save area (R396), at that offset of its core's place
for team memory. -/
structure Team where
  ctx      : Nat
  launch   : Nat
  cluster  : Nat
  lcore    : Nat
  core     : Nat
  nGroups  : Nat
  gridH    : Nat
  gridW    : Nat
  memSize  : Nat
  mem      : Memory
  saved    : Option Nat
  tags     : List Nat
  poison   : List Nat
  planeOps : SMap PlaneOp
  migrate  : List MigrateReq
  deriving DecidableEq, Repr

/-- A placed cluster: its launch, index, quadrant, the number of teams it was placed with (R33), the teams that have not
exited, and its logical-name table (R34). -/
structure Cluster where
  launch : Nat
  index  : Nat
  quad   : Nat
  size   : Nat
  teams  : List Nat
  names  : List Nat
  deriving DecidableEq, Repr

/-- A launch whose record has been taken (R37, R43, R47). `tree` is its queue's MODE when it was taken, `ranges` are the unplaced cluster ranges: per quadrant in
tree mode, one for the whole launch in least-loaded mode. -/
structure Launch where
  queue  : Nat
  record : Nat
  ctx    : Nat
  handle : Nat
  kernel : Nat
  total  : Nat
  nTeams : Nat
  args   : List DWord
  comp   : Option DWord
  tree   : Bool
  ranges : List (Nat × Nat × Nat)
  done   : Bool
  deriving DecidableEq, Repr

/-- A launch queue (R35, R36). The registers are named as the manual names them; `dep0` and `dep1` say that the head record
has passed a dependence (R40). DESIGN CHOICE, log 96. -/
structure LQueue where
  lqbase  : DWord
  lqctl   : DWord
  lqtail  : DWord
  lqhead  : DWord
  lqdone  : DWord
  lqstat  : DWord
  lqspill : DWord
  lqspcnt : DWord
  current : Option Nat
  dep0    : Bool
  dep1    : Bool
  finished : List Nat
  spilled : List Nat
  deriving DecidableEq, Repr

/-- One kernel of a loaded object (R14, R30). -/
structure Kernel where
  nGroups : Nat
  logW    : Nat
  gridH   : Nat
  memSize : Nat
  roles   : List (Nat × Nat)
  budgets : List Nat
  entry   : Nat
  deriving DecidableEq, Repr

/-- A loaded object (R18, R19, R435). `bytes` are kept for the second evaluation of its selectors, with the code region of its
load map and the quantities its form was chosen on. -/
structure Obj where
  form     : Nat
  codeBase : Nat
  codeLen  : Nat
  kernels  : List Kernel
  bytes    : List Byte
  region   : Nat × Nat
  quants   : List Nat
  deriving DecidableEq, Repr

/-- A domain job's binding of a context (R344, R422): job number, device identifiers by rank, own rank. -/
structure JobBinding where
  job  : Nat
  map  : List Nat
  rank : Nat
  deriving DecidableEq, Repr

/-- An extend of a CAR (R418, R419): digest, kind, status. -/
structure Extend where
  digest : List Byte
  kind   : Nat
  status : Nat
  deriving DecidableEq, Repr

/-- An enrolled key (R24, R437): class 1 owner or 2 tenant, algorithm 1 Ed25519 or 2 ML-DSA-65. -/
structure Key where
  cls : Nat
  alg : Nat
  id  : Nat
  key : List Byte
  deriving DecidableEq, Repr

/-- A context (R394, R422, R436). `ptrootUsed` is the root in use until a whole-context shootdown (R254).
`parked` holds cause, detail and program counter of a park by R382 or R386, `snaps` the Scribe blocks of the FREEZE that froze it (R375,
R400). DEDUCED, log 84. DESIGN CHOICE, log 96. -/
structure Ctx where
  part       : Nat
  cred       : Nat
  ptroot     : DWord
  ptrootUsed : DWord
  tventry    : DWord
  tvroot     : DWord
  tvstack    : DWord
  tvctl      : DWord
  ctxsave    : DWord
  placedOnce : Bool
  car        : List Byte
  log        : List Extend
  keys       : List Key
  nextHandle : Nat
  objs       : SMap Obj
  job        : Option JobBinding
  frozen     : Bool
  parked     : Option (Nat × Nat × Nat)
  cgSeq      : SMap Nat
  lateStart  : Bool
  late       : List Packet
  lateClosed : Bool
  snaps      : List (List Byte)
  deriving DecidableEq, Repr

/-- A partition (R393, R437): quadrants 4 * die + q, register-file mode, cache fraction in per cent. -/
structure Partition where
  quads   : List Nat
  rfmode  : Nat
  spcache : Nat
  deriving DecidableEq, Repr

/-- Where a copy reads or writes: team memory of a team, virtual addresses of the context, or a reservation of the operand
buffer with its generation. -/
inductive CSpace where
  | team (team : Nat) | va | buf (rid gen : Nat)
  deriving DecidableEq, Repr

/-- A collective at its member (R348 to R351, R374, R402). `begun` says that the engine has accepted it, as operation k of
its CGID; `members` are ranks by member index and `me` is this device's. `told` are the members this member's header has gone
to, `headers` those received, `chunks` the
64-byte chunks of contributions that have arrived or been sent (member, index, bytes), `reduced` the rank that reduces. -/
structure Coll where
  cgid    : Nat
  begun   : Bool
  k       : Nat
  hdr     : CollHdr
  me      : Nat
  members : List Nat
  told    : List Nat
  headers : List (Nat × CollHdr)
  chunks  : List (Nat × Nat × Line)
  reduced : Option Nat
  killed  : Bool
  deriving DecidableEq, Repr

/-- An operation of a core's copy engine (R271 to R282, R348). `stamp` is its place among the group's instructions, and
`known` the extended record that a TRIG has read. When it is accepted its rows are resolved: row r moves from the
first to the second address of `rows` r. `landed` are the ranges of destination bytes, counted over all rows, that are
written, and `flight` those whose requests are at a peer, with their tags. `skips` names (destination space, row) pairs
with bytes that were refused, `lines` the bytes still to land in each scratchpad line it holds absent, `got` peer lines
it has read, `far` the far-read lines it wrote, and `post` the traps it takes at completion (cause, detail, address).
`held` says that its split waits with the instruction not issued (R349). -/
structure CopyOp where
  id       : Nat
  gid      : Nat
  ctx      : Nat
  pc       : Nat
  pos      : Nat
  mask     : Mask
  stamp    : Nat
  cls      : OcClass
  instr    : Instr
  word0    : DWord
  word1    : DWord
  idx      : SMap Word
  handle   : Line
  window   : DWord
  bar      : Option DWord
  flag     : Option Nat
  known    : List Byte
  held     : Bool
  accepted : Bool
  srcSp    : CSpace
  dstSps   : List CSpace
  rows     : List (Nat × Nat)
  srcLen   : Nat
  dstLen   : Nat
  conv     : Nat
  cfmt     : Nat
  rm       : Nat
  sat      : Bool
  landed   : List (Nat × Nat)
  flight   : List (Nat × Nat × Nat)
  skips    : List (Nat × Nat)
  lines    : SMap Nat
  got      : SMap Line
  far      : List Nat
  post     : List (Nat × Nat × Nat)
  coll     : Option Coll
  stopped  : Bool
  finished : Bool
  abandon  : Bool
  deriving DecidableEq, Repr

/-- A core: AOWN and ACCLIVE (R215), its tiles (R214; key 1024 * tile + 32 * row + column), its far-read cache
(R248), the lines it has fetched (R72), its banks (R393), copy engine, trap queue (R383) and throttle (R96). -/
structure Core where
  aown     : DWord
  acclive  : BitVec 16
  tiles    : SMap Word
  far      : SMap Line
  farPast  : List (Nat × Nat)
  icache   : SMap Line
  active   : Option Nat
  shadow   : Option Nat
  incoming : Option Nat
  ops      : List CopyOp
  trapq    : List Origin
  allowed  : SMap (List Nat)
  deriving DecidableEq, Repr

/-- A reservation as MRES stored it (R220 to R222). -/
structure Resv where
  ctx  : Nat
  w0   : DWord
  w1   : DWord
  free : Bool
  deriving DecidableEq, Repr

/-- Matrix requests by operation (R216). -/
inductive MOp where
  | mma | gang | spmm | zero | fill | bcast | drain | drainz | bypass | alloc | free | release
  deriving DecidableEq, Repr

/-- A request of a matrix engine (R216 to R219, R228 to R235). -/
structure MReq where
  id       : Nat
  gid      : Nat
  ctx      : Nat
  core     : Nat
  slot     : Nat
  prio     : Nat
  sup      : Bool
  op       : MOp
  fmt      : Nat
  sat      : Bool
  tiles    : BitVec 16
  rows     : Mask
  resvA    : Option Nat
  resvB    : Option Nat
  ofs      : Nat
  e        : Nat
  src      : SMap Word
  dst      : Nat
  bar      : Option DWord
  flag     : Option Nat
  entry    : Nat
  tag      : Option (Nat × Nat × Nat)
  eligible : Option Nat
  urgent   : Bool
  granted  : Bool
  arrays   : List Nat
  pc       : Nat
  pos      : Nat
  mask     : Mask
  deriving DecidableEq, Repr

/-- A bay's matrix engine (R214 to R224): operand buffer, reservation numbers with generations, requests. -/
structure Bay where
  buf   : SMap Byte
  resv  : SMap Resv
  gens  : SMap Nat
  reqs  : List MReq
  gangs : Nat
  deriving DecidableEq, Repr

/-- A quadrant: queue links of its mortises (R308; 8 bytes each), its congestion level and how many windows had ended when it was
last set (R289), and the mask of accepting cores. -/
structure Quad where
  links  : SMap DWord
  level  : Nat
  accept : BitVec 16
  window : Nat
  deriving DecidableEq, Repr

/-- An armed command of the trigger table (R353, R354): the operation it hands over, its core and its threshold;
`due` says that an update of GTC has reached it. -/
structure Trig where
  slot  : Nat
  gen   : Nat
  core  : Nat
  time  : DWord
  order : Nat
  due   : Bool
  op    : CopyOp
  deriving DecidableEq, Repr

/-- A request of this device at a peer (R345 to R347): the packet, who issued it, and when it was sent. `fresh` says that
its line may still enter the core's far-read cache (R248), `seen` are the groups that have read the value a posted write
carries (R319), and `va` is the address it reports. -/
structure FabReq where
  pkt    : Packet
  gid    : Nat
  core   : Nat
  entry  : Nat
  lanes  : Mask
  posted : Bool
  fresh  : Bool
  seen   : List Nat
  va     : DWord
  copy   : Option Nat
  scribe : Option (Nat × Nat)
  pc     : Nat
  pos    : Nat
  mask   : Mask
  sent   : Nat
  deriving DecidableEq, Repr

/-- The fault record of a NACK (R255, R347): the peer's cause and detail, the address, the peer's rank and the lane. -/
structure FaultRec where
  cause  : Nat
  detail : Nat
  addr   : DWord
  rank   : Nat
  lane   : Nat
  deriving DecidableEq, Repr

/-- What the device has sent towards a peer rank: a request, a response, an acknowledgement, a NACK, or one of the
message classes of R341; `held` is a packet that waits at the switch for room in a Scribe input queue (R359). DESIGN CHOICE, log 1. -/
inductive OutMsg where
  | request (p : Packet)
  | response (dest tag : Nat) (data : Line)
  | ack (dest tag : Nat)
  | nack (dest tag detail : Nat) (record : FaultRec)
  | held (p : Packet)
  | coll (dest : Nat) (m : CollMsg)
  | domainBar (job dest k : Nat)
  | marker (p : Packet)
  | control (dest : Nat) (kind : ScribeCtl)
  deriving DecidableEq, Repr

/-- A remote request that waits here: its fault, of a cause and detail, is an origin (R438), or, with origin 0, it is to be
performed again. -/
structure RemoteWait where
  pkt    : Packet
  ctx    : Nat
  origin : Nat
  since  : Nat
  cause  : Nat
  detail : Nat
  deriving DecidableEq, Repr

/-- A member whose barrier k has completed (R305): its cluster, die and scope. -/
structure GridPast where
  gid     : Nat
  cluster : Nat
  die     : Nat
  scope   : Scope
  deriving DecidableEq, Repr

/-- The scheduler's wide barrier k of a launch (R303 to R305): the arrived groups with their scopes, the members whose
barrier has completed, RED entries held for its completion, the groups whose k-th GRIDARR traps, whether its device-scope completion
was sent to the domain, the arrivals that trapped, each with the number of the groups placed later, and which of those have trapped. -/
structure GridBar where
  launch  : Nat
  k       : Nat
  arrived : List (Nat × Scope)
  past    : List GridPast
  red     : List RedEntry
  bad     : List Nat
  sent    : Bool
  spoilt  : List (Nat × GridPast)
  told    : List Nat
  deriving DecidableEq, Repr

/-- Who made an application to a barrier object (R293): a BARARR by its entry, an engine operation with the address its credit
names, or neither. -/
inductive ApplySrc where
  | none
  | arrive (gid entry : Nat)
  | engine (r : Raiser) (va : DWord)
  deriving DecidableEq, Repr

/-- An application whose advance waits while a held RED entry cannot be applied (R302): the object, the
arrivals and units not yet applied, and who made it. -/
structure HeldApply where
  loc   : ObjLoc
  ctx   : Nat
  a     : Nat
  u     : Nat
  src   : ApplySrc
  deriving DecidableEq, Repr

/-- A publish below device scope that covered an update (R321): its group and the group's instances of the scopes (R318),
and the scope. -/
structure PubMark where
  gid     : Nat
  ctx     : Nat
  team    : Nat
  cluster : Nat
  die     : Nat
  scope   : Nat
  deriving DecidableEq, Repr

/-- A write that one frame of a replicated page with PROP 0 does not hold yet (R251, R327): its context, the frame's
address, the bytes, the groups whose published set holds the write (R319), and the publishes that covered it. DEDUCED, log 24. -/
structure FrameUpd where
  ctx   : Nat
  owner : FrameOwner
  pa    : Nat
  bytes : List Byte
  knows : List Nat
  pub   : List PubMark
  deriving DecidableEq, Repr

/-- What is done when every frame of a replicated page holds a write: a peer's request is answered (R346), the credit of a
Scribe trap record is made (R373), or a range of a copy counts as landed (R324). DEDUCED, log 24. -/
inductive FrameJob where
  | reply (p : Packet) (m : OutMsg)
  | record (ctx : Nat) (bar : DWord)
  | piece (core op tag : Nat) (lines : List (Nat × Nat))
  deriving DecidableEq, Repr

/-- A translation that a core holds, for fetch or for accesses (R256, R257): context, table root used, page base and size, and
the leaf entry. -/
structure Tlb where
  core : Nat
  x    : Bool
  root : Nat
  ctx  : Nat
  page : Nat
  size : Nat
  leaf : DWord
  loc  : Nat
  deriving DecidableEq, Repr

/-- A job bound to a Scribe processor (R357, R373). -/
structure ScribeJob where
  job   : Nat
  ctx   : Nat
  entry : List Byte
  q     : Nat
  deriving DecidableEq, Repr

/-- A hook of the switch (R358). -/
structure Hook where
  job   : Nat
  proc  : Nat
  dir   : Nat
  kind  : Nat
  cgid  : Nat
  alo   : Nat
  ahi   : Nat
  entry : Nat
  deriving DecidableEq, Repr

/-- A packet in a processor's input queue, with its direction and hook entry (R359). -/
structure Queued where
  pkt   : Packet
  dir   : Nat
  job   : Nat
  entry : Nat
  deriving DecidableEq, Repr

/-- An open REPEAT of an invocation: its counter register, next pass, passes, first and last body word (R368). -/
structure Rep where
  d    : Nat
  i    : Nat
  n    : Nat
  lo   : Nat
  hi   : Nat
  deriving DecidableEq, Repr

/-- The invocation a processor performs (R356, R359, R369). `arrived` is the packet as it came. -/
structure Invocation where
  job     : Nat
  word    : Nat
  steps   : Nat
  z       : SMap Line
  k       : SMap Word
  m       : SMap (BitVec 16)
  pkt     : Packet
  arrived : Packet
  dir     : Nat
  time    : Word
  emits   : List Packet
  rep     : Option Rep
  deriving DecidableEq, Repr

/-- A Scribe processor (R356): code words, flow slots, poisoned slots, jobs, input queue, invocation. -/
structure Scribe where
  code   : SMap Word
  flow   : SMap Line
  poison : List Nat
  jobs   : List ScribeJob
  queue  : List Queued
  inv    : Option Invocation
  deriving DecidableEq, Repr

/-- A fabric port (R340, R423): 0 down, 1 training, 2 up; the device identifier of its peer; errors. -/
structure Port where
  st   : Nat
  peer : Nat
  errs : Nat
  deriving DecidableEq, Repr

/-- A FREEZE in progress (R400): context, step 1 to 6, buffer, length, tick at which markers were sent, the tags of the markers
outstanding, job snapshots taken, and whether the command came over MCTP. DEDUCED, log 84. -/
structure FreezeJob where
  ctx     : Nat
  step    : Nat
  buf     : Nat
  len     : Nat
  since   : Nat
  markers : List Nat
  snaps   : List (List Byte)
  mctp    : Bool
  deriving DecidableEq, Repr

/-- A job's binding of a CGID to switch reduction at rank H (R374). -/
structure SwitchBind where
  job  : Nat
  cgid : Nat
  rank : Nat
  deriving DecidableEq, Repr

/-- A scratchpad page: its virtual address, its size, the bytes its frames span (R251), and its bytes, absent and tagged lines, by
offset (R403). -/
structure APage where
  va     : Nat
  page   : Nat
  size   : Nat
  bytes  : Memory
  absent : List Nat
  tags   : List Nat
  poison : List Nat
  deriving DecidableEq, Repr

/-- The live tiles of a source core ordinal (section 0x05). -/
structure AAcc where
  core : Nat
  live : BitVec 16
  rows : SMap Word
  deriving DecidableEq, Repr

/-- A reservation of a source bay ordinal with its bytes (section 0x06). -/
structure AResv where
  bay   : Nat
  id    : Nat
  gen   : Nat
  resv  : Resv
  bytes : List Byte
  deriving DecidableEq, Repr

/-- An image's contents. Cores, bays and quadrants are ordinals of the source partition; addresses of scratchpad objects
are virtual; groups, teams and operations keep the numbers below `nextId` that the model gives them. `absentAt` is the line that
a group in a presence wait waits for. -/
structure Atlas where
  job      : Nat
  rank     : Nat
  rfmode   : Nat
  spcache  : Nat
  gtc      : DWord
  nextId   : Nat
  ctx      : Ctx
  queues   : List (Nat × LQueue)
  launches : SMap Launch
  clusters : SMap Cluster
  teams    : SMap Team
  groups   : SMap Group
  accs     : List AAcc
  resvs    : List AResv
  pages    : List APage
  links    : List (Nat × List (Nat × Nat × Option Nat))
  trigs    : List Trig
  fired    : List (Nat × Nat)
  ops      : List (Nat × CopyOp)
  colls    : List CollMsg
  bars     : List GridBar
  arrived  : List (Nat × Nat × Nat)
  barRed   : List (ObjLoc × Nat × List RedEntry)
  absentAt : SMap Nat
  applies  : List HeldApply
  late     : List Packet
  origins  : List (Nat × Origin)
  blocks   : List (List Byte)
  dirty    : List (Nat × Nat)
  deriving DecidableEq, Repr

/-- The SX9. -/
structure State where
  /-- What moves next, in order; when empty, the scheduler of Machine/Issue.lean chooses. -/
  agenda    : List Act
  /-- The issuing group and split position of the instruction being executed. -/
  cur       : Option (Nat × Nat)
  /-- The Scribe processor executing a word. -/
  curProc   : Option Nat
  /-- Network clocks since power-on (R5, R352). -/
  tick      : Nat
  /-- Tenths of arithmetic clocks since power-on (R5). -/
  clk       : Nat
  /-- The model's own counter of free values drawn; no claim rests on it. -/
  free      : Nat
  /-- The model's own rotor of the default scheduler. -/
  rotor     : Nat
  /-- Next number for groups, teams, launches, operations, requests and origins. -/
  nextId    : Nat
  mem       : Memory
  poison    : List Nat
  absent    : List Nat
  tags      : List Nat
  tlb       : List Tlb
  groups    : SMap Group
  teams     : SMap Team
  clusters  : SMap Cluster
  launches  : SMap Launch
  lqs       : SMap LQueue
  lastQueue : Nat
  ctxs      : SMap Ctx
  parts     : SMap Partition
  cores     : SMap Core
  bays      : SMap Bay
  quads     : SMap Quad
  noccfg    : SMap DWord
  mbcmd     : DWord
  mbarg0    : DWord
  mbarg1    : DWord
  mbarg2    : DWord
  mbarg3    : DWord
  mbstat    : DWord
  cmdq      : List (Nat × MCmd)
  tlbiva    : DWord
  tlbictl   : DWord
  tlbibusy  : Bool
  routing   : List Byte
  svclevel  : Nat
  mode      : Nat
  therm     : Nat
  tj        : Nat
  hotSince  : Option Nat
  coolSince : Option Nat
  lowered   : Bool
  tjmax     : Nat
  nativeOk  : Bool
  ptpDomain : Nat
  tier2     : Nat
  ownerKeys : List Key
  cfgStore  : List (List Byte)
  cfgOk     : Bool
  fitted    : Fitted
  gtc       : DWord
  gtcf      : Word
  slew      : Int
  triggers  : List Trig
  trigGens  : SMap Nat
  fired     : List (Nat × Nat × Nat)
  ports     : SMap Port
  eccCorr   : DWord
  eccUnc    : DWord
  fabErrs   : DWord
  machChk   : DWord
  fabReqs   : SMap FabReq
  out       : List OutMsg
  remotes   : List RemoteWait
  gridBars  : List GridBar
  domainArr : List (Nat × Nat × Nat)
  barRed    : List (ObjLoc × Nat × List RedEntry)
  heldApply : List HeldApply
  frameQ    : List FrameUpd
  frameJobs : SMap FrameJob
  /-- For a scratchpad line of a replicated page that an object's name has led to, the page size (R251, R339). -/
  objRep    : SMap Nat
  scribes   : SMap Scribe
  hooks     : List Hook
  /-- Snapshots that wait (R375): processor, job, and packets accepted before the command that are still to start. -/
  snapGate  : List (Nat × Nat × Nat)
  switchRed : List SwitchBind
  freeze    : Option FreezeJob
  collIn    : List CollMsg
  reports   : List (List Byte)
  hostRead  : List (Nat × Byte)
  /-- The model's own record of what the images that this device has written hold (R409); -/
  images    : List Atlas
  powered   : Bool
  deriving DecidableEq, Repr

/-- The reset values of a launch queue (R35): SIZE 4, LOG2SZ 12, zero elsewhere. DESIGN CHOICE, log 8. -/
def LQueue.reset : LQueue :=
  { lqbase := 0, lqctl := 4, lqtail := 0, lqhead := 0, lqdone := 0, lqstat := 0, lqspill := 12, lqspcnt := 0,
    current := none, dep0 := false, dep1 := false, finished := [], spilled := [] }

/-- A core at reset (R97, R215). DESIGN CHOICE, log 7. -/
def Core.reset : Core :=
  { aown := 0, acclive := 0, tiles := [], far := [], farPast := [], icache := [], active := none, shadow := none,
    incoming := none, ops := [], trapq := [], allowed := [] }

/-- A bay at reset: an empty buffer, no reservation, generation 0 of every number. DESIGN CHOICE, log 7. -/
def Bay.reset : Bay := { buf := [], resv := [], gens := [], reqs := [], gangs := 0 }

/-- A quadrant at reset: 16,384 free links, level 0 (R97), no core accepting placement. DESIGN CHOICE, log 7. -/
def Quad.reset : Quad := { links := [], level := 0, accept := 0, window := 0 }

/-- A Scribe processor at reset. DESIGN CHOICE, log 7. -/
def Scribe.reset : Scribe := { code := [], flow := [], poison := [], jobs := [], queue := [], inv := none }

/-- The machine right after power-on (R424): reduced service, every register at its stated reset value, no
partition, no context; nothing fitted beyond the package, and no configuration record stored. DESIGN CHOICE, log 7, 8. -/
def State.reset : State :=
  { agenda := [], cur := none, curProc := none, tick := 0, clk := 0, free := 0, rotor := 0, nextId := 1,
    mem := [], poison := [], absent := [], tags := [], tlb := [],
    groups := [], teams := [], clusters := [], launches := [], lqs := [], lastQueue := 63,
    ctxs := [], parts := [], cores := [], bays := [], quads := [], noccfg := [],
    mbcmd := 0, mbarg0 := 0, mbarg1 := 0, mbarg2 := 0, mbarg3 := 0, mbstat := 0, cmdq := [],
    tlbiva := 0, tlbictl := 0, tlbibusy := false, routing := [],
    svclevel := 0, mode := 0, therm := 0, tj := 0, hotSince := none, coolSince := none, lowered := false,
    tjmax := 95, nativeOk := false, ptpDomain := 0, tier2 := 0, ownerKeys := [], cfgStore := [],
    cfgOk := true, fitted := { lpddr := false, expanders := [], hostBytes := 0 },
    gtc := 0, gtcf := 0, slew := 0, triggers := [], trigGens := [], fired := [], ports := [],
    eccCorr := 0, eccUnc := 0, fabErrs := 0, machChk := 0,
    fabReqs := [], out := [], remotes := [], gridBars := [], domainArr := [], barRed := [], heldApply := [],
    frameQ := [], frameJobs := [], objRep := [], scribes := [], hooks := [], snapGate := [], switchRed := [], freeze := none, collIn := [],
    reports := [], hostRead := [], images := [], powered := true }

end Sys2Proof.Machine
end

