-- ==== Sys2Proof/Machine/Basic.lean ====
section
/-!
DEFINITION. Sparse arrays, bit fields and byte order: the plain data operations the machine is written with.
-/
namespace Sys2Proof.Machine

/-! ### Sparse arrays -/

/-- The value listed for a key. -/
def Map.find {β : Type} : SMap β → Nat → Option β
  | [], _ => none
  | (a, b) :: t, k => if a = k then some b else Map.find t k

/-- Removes a key. -/
def Map.del {β : Type} (m : SMap β) (k : Nat) : SMap β := m.filter (fun x => x.1 != k)

/-- Inserts a key that is not listed, keeping keys rising. -/
def Map.ins {β : Type} : SMap β → Nat → β → SMap β
  | [], k, v => [(k, v)]
  | (a, b) :: t, k, v => if k < a then (k, v) :: (a, b) :: t else (a, b) :: Map.ins t k v

/-- Lists a key with a value. -/
def Map.put {β : Type} (m : SMap β) (k : Nat) (v : β) : SMap β := Map.ins (Map.del m k) k v

/-- The value at a key; `d` where none is listed. -/
def Map.get {β : Type} (d : β) (m : SMap β) (k : Nat) : β := (Map.find m k).getD d

/-- Writes a value; a value equal to the default `d` is not listed. -/
def Map.set {β : Type} [DecidableEq β] (d : β) (m : SMap β) (k : Nat) (v : β) : SMap β :=
  if v = d then Map.del m k else Map.put m k v

/-- The keys listed. -/
def Map.keys {β : Type} (m : SMap β) : List Nat := m.map Prod.fst

/-- Changes the value at a listed key. -/
def Map.modify {β : Type} (m : SMap β) (k : Nat) (f : β → β) : SMap β :=
  match Map.find m k with
  | none => m
  | some v => Map.put m k (f v)

/-- The canonical form: keys strictly rising, no entry equal to the default (a Bool). -/
def Map.wf {β : Type} [DecidableEq β] (d : β) : SMap β → Bool
  | [] => true
  | [(_, v)] => v != d
  | (a, v) :: (b, w) :: t => a < b && v != d && Map.wf d ((b, w) :: t)

/-- The lowest number from `lo` below `lo + fuel` that is not in the list. -/
def lowestFree (used : List Nat) : Nat → Nat → Option Nat
  | 0, _ => none
  | fuel + 1, lo => if used.contains lo then lowestFree used fuel (lo + 1) else some lo

/-! ### Bits -/

/-- Bits [hi:lo] of a word as a number. -/
def bits {n : Nat} (w : BitVec n) (hi lo : Nat) : Nat := w.toNat / 2 ^ lo % 2 ^ (hi + 1 - lo)

/-- Bit k of a word. -/
def bit {n : Nat} (w : BitVec n) (k : Nat) : Bool := w.getLsbD k

/-- The word with bits [hi:lo] replaced by the low bits of `v`. -/
def setBits {n : Nat} (w : BitVec n) (hi lo v : Nat) : BitVec n :=
  BitVec.ofNat n (w.toNat - (bits w hi lo) * 2 ^ lo + (v % 2 ^ (hi + 1 - lo)) * 2 ^ lo)

/-- The lanes of a group, 0 to 31. -/
def lanes32 : List Nat := List.range 32

/-- The lanes of a mask, ascending. -/
def lanesOf (m : Mask) : List Nat := lanes32.filter (fun l => m.getLsbD l)

/-- The mask of the lanes where `f` holds. -/
def maskOf (f : Nat → Bool) : Mask :=
  lanes32.foldl (fun m l => if f l then m ||| (1#32 <<< l) else m) 0

/-- The mask of one lane. -/
def laneBit (l : Nat) : Mask := 1#32 <<< l

/-- The lowest lane of a mask, 0 where there is none. -/
def lowLane (m : Mask) : Nat := (lanesOf m).headD 0

/-- The number of lanes of a mask. -/
def laneCount (m : Mask) : Nat := (lanesOf m).length

/-- The value of a two's complement field of `n` bits. -/
def toSigned (n v : Nat) : Int := if 2 * (v % 2 ^ n) ≥ 2 ^ n then (v % 2 ^ n : Int) - 2 ^ n else (v % 2 ^ n : Int)

/-- A number modulo 2^n as its field. -/
def ofInt (n : Nat) (v : Int) : Nat := (v % 2 ^ n).toNat

/-- The little-endian bytes of a word of `n` bytes. -/
def bytesOf (n v : Nat) : List Byte := leBytes n v

/-- Bytes lo .. lo + n - 1 of a byte string, zero where it has ended. -/
def sliceB (l : List Byte) (lo n : Nat) : List Byte := (List.range n).map (fun i => l.getD (lo + i) 0)

/-- A little-endian field of a byte string. -/
def leAt (l : List Byte) (lo n : Nat) : Nat := leNat (sliceB l lo n)

/-- Whether `n` bytes from `lo` are zero. -/
def zeroAt (l : List Byte) (lo n : Nat) : Bool := (sliceB l lo n).all (· == 0)

/-- Rounds up to a multiple. -/
def ceilDiv (a b : Nat) : Nat := (a + b - 1) / b

/-- The first element of a list that satisfies `f`, with its index. -/
def findIdx {α : Type} (l : List α) (f : α → Bool) : Option Nat := l.findIdx? f

/-- The list with one position replaced. -/
def setAt {α : Type} (l : List α) (i : Nat) (v : α) : List α := l.set i v

/-- The element of least key, first among equals. -/
def minBy {α : Type} (key : α → List Nat) : List α → Option α
  | [] => none
  | a :: t =>
    match minBy key t with
    | none => some a
    | some b => if decide (key b < key a) then some b else some a

/-- Inserts an element before the first of a greater key. -/
def insertBy {α : Type} (key : α → List Nat) (x : α) : List α → List α
  | [] => [x]
  | y :: t => if decide (key x < key y) then x :: y :: t else y :: insertBy key x t

/-- Sorts by key, equals in their order. -/
def sortBy {α : Type} (key : α → List Nat) (l : List α) : List α := l.foldl (fun acc x => insertBy key x acc) []

/-- R5, R424, R425: tenths of an arithmetic clock in a network clock: by the mode in force, lowered at the power limit. DESIGN CHOICE, log 58. -/
def clockTenths (s : State) : Nat :=
  let own := if s.svclevel == 0 then 8 else if s.therm == 1 then 12 else if s.mode == 0 then 20 else if s.mode == 1 then 16 else 12
  if s.lowered then min own (Config.loweredClock own) else own

end Sys2Proof.Machine
end

