-- ==== Sys2Proof/Machine/Float.lean ====
section
/-!
DEFINITION. Number formats and exact arithmetic (R99 to R115): codes, exact values, one rounding.
-/
namespace Sys2Proof.Machine

/-- A floating format by exponent width w, mantissa width p and bias b (R101). E4M3 alone has no infinities. -/
structure FF where
  w : Nat
  p : Nat
  b : Nat
  fn : Bool
  deriving DecidableEq, Repr

/-- The formats of R101. -/
def ffOf : Ty → FF
  | .f16 => { w := 5, p := 10, b := 15, fn := false }
  | .bf16 => { w := 8, p := 7, b := 127, fn := false }
  | .e5m2 => { w := 5, p := 2, b := 15, fn := false }
  | .e4m3 => { w := 4, p := 3, b := 7, fn := true }
  | _ => { w := 8, p := 23, b := 127, fn := false }

/-- An exact value: a finite dyadic (-1)^s * m * 2^e, an infinity, or NaN. -/
inductive Val where
  | fin (s : Bool) (m : Nat) (e : Int)
  | inf (s : Bool)
  | nan
  deriving DecidableEq, Repr

/-- A result and the flags it raises: IV 1, DZ 2, OF 4, UF 8, NX 16 (R121). -/
structure FRes where
  bits  : Nat
  flags : Nat
  deriving DecidableEq, Repr

def flIV : Nat := 1
def flDZ : Nat := 2
def flOF : Nat := 4
def flUF : Nat := 8
def flNX : Nat := 16

/-- The union of two flag sets. -/
def flOr (a b : Nat) : Nat := a ||| b

namespace FF

/-- Width of a code. -/
def width (f : FF) : Nat := f.w + f.p + 1

/-- The sign bit's weight in a code. -/
def signW (f : FF) : Nat := 2 ^ (f.w + f.p)

/-- Code of the largest finite magnitude (R101). -/
def maxCode (f : FF) : Nat := if f.fn then 2 ^ (f.w + f.p) - 2 else (2 ^ f.w - 1) * 2 ^ f.p - 1

/-- Code of infinity; E4M3 has none (R108). -/
def infCode (f : FF) : Nat := (2 ^ f.w - 1) * 2 ^ f.p

/-- The canonical NaN (R111). -/
def canon (f : FF) : Nat :=
  if f.fn then 2 ^ (f.w + f.p) - 1 else (2 ^ f.w - 1) * 2 ^ f.p + 2 ^ (f.p - 1)

/-- The exponent of the least subnormal bit. -/
def minExp (f : FF) : Int := 1 - (f.b : Int) - f.p

/-- R101: whether a code is a NaN. -/
def isNaN (f : FF) (c : Nat) : Bool :=
  let mag := c % f.signW
  if f.fn then mag == f.signW - 1 else mag > f.infCode

/-- R101: the value of a code. -/
def value (f : FF) (c : Nat) : Val :=
  let s := c / f.signW % 2 == 1
  let mag := c % f.signW
  let e := mag / 2 ^ f.p
  let m := mag % 2 ^ f.p
  if f.isNaN c then .nan
  else if !f.fn && e == 2 ^ f.w - 1 then .inf s
  else if e == 0 then .fin s m f.minExp
  else .fin s (m + 2 ^ f.p) (f.minExp + (e - 1))

/-- A code with a sign. -/
def signed (f : FF) (s : Bool) (mag : Nat) : Nat := if s then f.signW + mag else mag

/-- A zero with a sign. -/
def zero (f : FF) (s : Bool) : Nat := f.signed s 0

/-- R108: an infinite result; E4M3 gives NaN, or the largest finite under .SAT. -/
def infinite (f : FF) (sat s : Bool) : Nat :=
  if f.fn then (if sat then f.signed s f.maxCode else f.signed s (f.signW - 1)) else f.signed s f.infCode

end FF

/-- m * 2^e rounded to a multiple of 2^q under a mode, as that multiple (R106, R107); `s` is the sign. -/
def roundAt (rm : RM) (r : Nat) (s : Bool) (m : Nat) (e q : Int) : Nat :=
  if q ≤ e then m * 2 ^ (e - q).toNat
  else
    let sh := (q - e).toNat
    let k := m / 2 ^ sh
    let rest := m % 2 ^ sh
    match rm with
    | .rn => if 2 * rest > 2 ^ sh || (2 * rest == 2 ^ sh && k % 2 == 1) then k + 1 else k
    | .rz => k
    | .ru => if rest != 0 && !s then k + 1 else k
    | .rd => if rest != 0 && s then k + 1 else k
    | .rs =>
      let t := if sh ≤ 16 then m * 2 ^ (16 - sh) else m / 2 ^ (sh - 16)
      (t + r) / 2 ^ 16

/-- Whether k * 2^q is m * 2^e. -/
def sameDyadic (k : Nat) (q : Int) (m : Nat) (e : Int) : Bool :=
  if q ≤ e then k == m * 2 ^ (e - q).toNat else k * 2 ^ (q - e).toNat == m

/-- R108: the code of an overflow. -/
def overflowCode (f : FF) (rm : RM) (sat s : Bool) : Nat :=
  if sat then f.signed s f.maxCode
  else
    match rm with
    | .rn | .rs => f.infinite false s
    | .rz => f.signed s f.maxCode
    | .ru => if s then f.signed s f.maxCode else f.infinite false s
    | .rd => if s then f.infinite false s else f.signed s f.maxCode

/-- R105 to R109: the exact nonzero value (-1)^s * m * 2^e rounded once into a format. -/
def roundTo (f : FF) (rm : RM) (r : Nat) (sat s : Bool) (m : Nat) (e : Int) : FRes :=
  if m == 0 then { bits := f.zero s, flags := 0 }
  else
    let top : Int := (Nat.log2 m : Int) + e
    let qu : Int := top - f.p
    let ku := roundAt rm r s m e qu
    -- the unbounded rounding as a code of magnitude, were the exponent range unbounded
    let scaled : Int := (qu - f.minExp) * 2 ^ f.p + ku
    if scaled > (f.maxCode : Int) then
      { bits := overflowCode f rm sat s, flags := flOr flOF flNX }
    else
      let q := if qu < f.minExp then f.minExp else qu
      let k := roundAt rm r s m e q
      let code := (q - f.minExp).toNat * 2 ^ f.p + k
      let exact := sameDyadic k q m e
      let tiny := scaled < (2 ^ f.p : Int)
      { bits := f.signed s code,
        flags := if exact then 0 else if tiny then flOr flUF flNX else flNX }

/-- The exact sum of finite terms (R109): sign, magnitude and exponent; a zero sum takes the common sign of all its
terms, or else -0 under RD and +0 otherwise. -/
def sumFin (rm : RM) (ts : List (Bool × Nat × Int)) : Bool × Nat × Int :=
  let e : Int := ts.foldl (fun a t => min a t.2.2) ((ts.headD (false, 0, 0)).2.2)
  let v : Int := ts.foldl (fun a t =>
    let x : Int := (t.2.1 : Int) * 2 ^ (t.2.2 - e).toNat
    if t.1 then a - x else a + x) 0
  if v == 0 then
    let allNeg := ts.all (fun t => t.1)
    let allPos := ts.all (fun t => !t.1)
    (if allNeg then true else if allPos then false else rm == .rd, 0, e)
  else (v < 0, v.natAbs, e)

/-- A NaN result without a flag. -/
def nanRes (f : FF) (fl : Nat := 0) : FRes := { bits := f.canon, flags := fl }

/-- The sum of products and addends of R150, R152: infinite terms of opposite sign are invalid even where another
term is NaN. `iv` marks a 0 times infinity among the products. -/
def sumVals (f : FF) (rm : RM) (sat iv : Bool) (ts : List Val) : FRes :=
  let infs := ts.filterMap (fun v => match v with | .inf s => some s | _ => none)
  let opp := infs.contains true && infs.contains false
  let anyNaN := ts.contains .nan
  if iv || opp then nanRes f flIV
  else if anyNaN then nanRes f
  else
    match infs with
    | s :: _ => { bits := f.infinite sat s, flags := 0 }
    | [] =>
      let fins := ts.filterMap (fun v => match v with | .fin s m e => some (s, m, e) | _ => none)
      let (s, m, e) := sumFin rm fins
      roundTo f rm 0 sat s m e

/-- The exact product of two values; NaN where an operand is NaN or it is 0 times infinity. -/
def mulVal (a b : Val) : Val :=
  match a, b with
  | .fin s m e, .fin s' m' e' => .fin (s != s') (m * m') (e + e')
  | .inf s, .inf s' => .inf (s != s')
  | .inf s, .fin s' m _ => if m == 0 then .nan else .inf (s != s')
  | .fin s m _, .inf s' => if m == 0 then .nan else .inf (s != s')
  | _, _ => .nan

/-- Whether a product is 0 times infinity. -/
def zeroInf (a b : Val) : Bool :=
  match a, b with
  | .inf _, .fin _ m _ => m == 0
  | .fin _ m _, .inf _ => m == 0
  | _, _ => false

def negVal : Val → Val
  | .fin s m e => .fin (!s) m e
  | .inf s => .inf (!s)
  | .nan => .nan

/-- R111: codes of a format whose one operand is negated, by value. -/
def fAdd (f : FF) (rm : RM) (sat : Bool) (a b : Nat) : FRes := sumVals f rm sat false [f.value a, f.value b]
def fSub (f : FF) (rm : RM) (sat : Bool) (a b : Nat) : FRes := sumVals f rm sat false [f.value a, negVal (f.value b)]
def fMul (f : FF) (rm : RM) (sat : Bool) (a b : Nat) : FRes :=
  sumVals f rm sat (zeroInf (f.value a) (f.value b)) [mulVal (f.value a) (f.value b)]
def fFma (f : FF) (rm : RM) (sat : Bool) (a b c : Nat) : FRes :=
  sumVals f rm sat (zeroInf (f.value a) (f.value b)) [mulVal (f.value a) (f.value b), f.value c]

/-- R152: the floating DOT2, from format `f` into F32. An infinite product counts toward opposite infinities even where
another element is NaN. -/
def fDot2 (f : FF) (rm : RM) (sat : Bool) (a0 b0 a1 b1 c : Nat) : FRes :=
  let g := ffOf .f32
  sumVals g rm sat (zeroInf (f.value a0) (f.value b0) || zeroInf (f.value a1) (f.value b1))
    [mulVal (f.value a0) (f.value b0), mulVal (f.value a1) (f.value b1), g.value c]

/-- A code's place in the order of values with -0 below +0 (R151); NaN has none. -/
def FF.key (f : FF) (c : Nat) : Int :=
  let mag := c % f.signW
  if c / f.signW % 2 == 1 then -(mag : Int) - 1 else mag

/-- R151: MIN and MAX. -/
def fMin (f : FF) (a b : Nat) : Nat :=
  if f.isNaN a then (if f.isNaN b then f.canon else b)
  else if f.isNaN b then a
  else if f.key b < f.key a then b else a
def fMax (f : FF) (a b : Nat) : Nat :=
  if f.isNaN a then (if f.isNaN b then f.canon else b)
  else if f.isNaN b then a
  else if f.key a < f.key b then b else a

/-- A code's numeric place: -0 equals +0 (R157). -/
def FF.numKey (f : FF) (c : Nat) : Int :=
  let mag := c % f.signW
  if c / f.signW % 2 == 1 then -(mag : Int) else mag

/-- R77 relations on an ordered pair. -/
def relInt (r : Nat) (a b : Int) : Bool :=
  match r with
  | 0 => a == b | 1 => a != b | 2 => a < b | 3 => a ≤ b | 4 => a > b | 5 => a ≥ b | _ => false

/-- R157: a floating comparison with its flag. -/
def fCmp (f : FF) (r a b : Nat) : Bool × Nat :=
  if f.isNaN a || f.isNaN b then (r == 1 || r == 6, if 2 ≤ r && r ≤ 5 then flIV else 0)
  else (if r == 6 then false else relInt r (f.numKey a) (f.numKey b), 0)

/-- R150: FRND. -/
def fRnd (f : FF) (rm : RM) (a : Nat) : Nat :=
  match f.value a with
  | .nan => f.canon
  | .inf _ => a
  | .fin s m e => if m == 0 || 0 ≤ e then a else (roundTo f .rz 0 false s (roundAt rm 0 s m e 0) 0).bits

/-! ### Integers (R100) -/

/-- Whether an element type is signed. -/
def Ty.signedInt : Ty → Bool
  | .i32 | .i16 | .i8 => true
  | _ => false

/-- The integer an element holds. -/
def intVal (t : Ty) (x : Nat) : Int := if Ty.signedInt t then toSigned t.bits x else ((x % 2 ^ t.bits : Nat) : Int)

/-- The range of an integer type. -/
def intMin (t : Ty) : Int := if Ty.signedInt t then -(2 ^ (t.bits - 1)) else 0
def intMax (t : Ty) : Int := if Ty.signedInt t then 2 ^ (t.bits - 1) - 1 else 2 ^ t.bits - 1

def clampInt (t : Ty) (v : Int) : Int := if v < intMin t then intMin t else if intMax t < v then intMax t else v

/-- An exact integer result as an element: wrapped, or clamped under .SAT. -/
def intRes (t : Ty) (sat : Bool) (v : Int) : Nat := ofInt t.bits (if sat then clampInt t v else v)

/-! ### Conversions (R112 to R115, R165) -/

/-- A finite value rounded to an integer under a mode. -/
def valToInt (rm : RM) (s : Bool) (m : Nat) (e : Int) : Int :=
  let k := roundAt rm 0 s m e 0
  if s then -(k : Int) else k

/-- R115: floating to integer. -/
def cvtFI (f : FF) (t : Ty) (rm : RM) (a : Nat) : FRes :=
  match f.value a with
  | .nan => { bits := 0, flags := flIV }
  | .inf s => { bits := ofInt t.bits (if s then intMin t else intMax t), flags := flIV }
  | .fin s m e =>
    let v := valToInt rm s m e
    if v < intMin t then { bits := ofInt t.bits (intMin t), flags := flIV }
    else if intMax t < v then { bits := ofInt t.bits (intMax t), flags := flIV }
    else { bits := ofInt t.bits v, flags := if sameDyadic v.natAbs 0 m e then 0 else flNX }

/-- R165: integer to floating. -/
def cvtIF (f : FF) (rm : RM) (r : Nat) (sat : Bool) (v : Int) : FRes := roundTo f rm r sat (v < 0) v.natAbs 0

/-- R112, R113: the F32 code a NaN of a narrower format becomes. -/
def nanUp (t : Ty) (c : Nat) : Nat :=
  match t with
  | .f16 => c / 2 ^ 15 % 2 * 2 ^ 31 + 0x7F800000 + c % 2 ^ 10 * 2 ^ 13
  | .bf16 => c * 2 ^ 16
  | .e4m3 => c / 2 ^ 7 % 2 * 2 ^ 31 + (0x7FE00000 ||| (8 * 2 ^ 8) ||| c)
  | .e5m2 => c / 2 ^ 7 % 2 * 2 ^ 31 + (0x7FE00000 ||| (9 * 2 ^ 8) ||| c)
  | _ => c

/-- R112, R113: the code of format `t` an F32 NaN becomes. -/
def nanDown (t : Ty) (c : Nat) : Nat :=
  match t with
  | .f16 => if c % 2 ^ 13 == 0 then c / 2 ^ 31 % 2 * 2 ^ 15 + 0x7C00 + c / 2 ^ 13 % 2 ^ 10 else (ffOf .f16).canon
  | .bf16 => if c % 2 ^ 16 == 0 then c / 2 ^ 16 else (ffOf .bf16).canon
  | .e4m3 | .e5m2 =>
    let k := if t == .e4m3 then 8 else 9
    if c / 2 ^ 21 % 2 == 1 && c / 2 ^ 12 % 2 ^ 9 == 0 && c / 2 ^ 8 % 16 == k then c % 2 ^ 8 else (ffOf t).canon
  | _ => (ffOf .f32).canon

/-- R112, R113: the code of format `dt` a NaN of format `st` becomes: kept into and out of F32, else the canonical NaN. -/
def nanTo (st dt : Ty) (a : Nat) : Nat :=
  if dt == .f32 then nanUp st a else if st == .f32 then nanDown dt a else (ffOf dt).canon

/-- R165: floating to floating. -/
def cvtFF (st dt : Ty) (rm : RM) (r : Nat) (sat : Bool) (a : Nat) : FRes :=
  match (ffOf st).value a with
  | .nan => { bits := nanTo st dt a, flags := 0 }
  | .inf s => { bits := (ffOf dt).infinite sat s, flags := 0 }
  | .fin s m e => roundTo (ffOf dt) rm r sat s m e

/-- R165: conv from type `st` to type `dt`; `r` is the random value of R107. -/
def convElem (st dt : Ty) (rm : RM) (r : Nat) (sat : Bool) (a : Nat) : FRes :=
  if st.isFloat then
    if dt.isFloat then cvtFF st dt rm r sat a else cvtFI (ffOf st) dt rm a
  else
    if dt.isFloat then cvtIF (ffOf dt) rm r sat (intVal st a)
    else { bits := intRes dt sat (intVal st a), flags := 0 }

end Sys2Proof.Machine
end

