-- ==== Sys2Proof/Machine/FloatFn.lean ====
section
/-!
DEFINITION. The special functions of R167 and R168: the exact value rounded once under RN. A value that is not a
dyadic is held as a long dyadic with one more bit set below it, so that one rounding of the long value is the
rounding of the exact one.
-/
namespace Sys2Proof.Machine

/-- Fraction bits of the fixed-point series. -/
def fxBits : Nat := 512

/-- The circle's half circumference, times 2^512. -/
def fxPi : Int := 42121870893450636219446821484559388105255997313489254605594685088103805782276098919793885372247726346443771296916333485327292916625599161542353774203832599

/-- The natural logarithm of 2, times 2^512. -/
def fxLn2 : Int := 9293584264128987901384440660653081117630633404975079641076009770578364573633075645167623918067512986930843040596952636663673675798576024949780480621393957

/-- A fixed-point product. -/
def fxMul (a b : Int) : Int := a * b / 2 ^ fxBits

/-- The sum of the terms t, t * x / (k + 1), ...: the exponential series from a term. -/
def fxExpSeries (x : Int) : Nat → Nat → Int → Int
  | 0, _, _ => 0
  | fuel + 1, k, t => t + fxExpSeries x fuel (k + 1) (fxMul t x / ((k : Int) + 1))

/-- e^x for 0 <= x < 1. -/
def fxExp (x : Int) : Int := fxExpSeries x 110 0 (2 ^ fxBits)

/-- The series of alternating terms t, -t * y / ((k + 1)(k + 2)), ... of the sine (k = 1) and cosine (k = 0). -/
def fxTrigSeries (y : Int) : Nat → Nat → Int → Int
  | 0, _, _ => 0
  | fuel + 1, k, t => t + fxTrigSeries y fuel (k + 2) (-(fxMul t y / (((k : Int) + 1) * ((k : Int) + 2))))

def fxSin (x : Int) : Int := fxTrigSeries (fxMul x x) 60 1 x
def fxCos (x : Int) : Int := fxTrigSeries (fxMul x x) 60 0 (2 ^ fxBits)

/-- Terms of the inverse hyperbolic tangent: p + p^3 / 3 + p^5 / 5 + ... -/
def fxAtanhSeries (y : Int) : Nat → Nat → Int → Int
  | 0, _, _ => 0
  | fuel + 1, k, p => p / (k : Int) + fxAtanhSeries y fuel (k + 2) (fxMul p y)

/-- The base-2 logarithm of y in [1, 2), times 2^512: 2 atanh((y - 1) / (y + 1)) / ln 2. -/
def fxLog2 (y : Int) : Int :=
  let one : Int := 2 ^ fxBits
  let u := (y - one) * one / (y + one)
  2 * (fxAtanhSeries (fxMul u u) 170 1 u) * one / fxLn2

/-- The integer square root by Newton steps from above. -/
def isqrtLoop (n : Nat) : Nat → Nat → Nat
  | 0, x => x
  | fuel + 1, x =>
    let y := (x + n / x) / 2
    if y < x then isqrtLoop n fuel y else x

def isqrt (n : Nat) : Nat := if n == 0 then 0 else isqrtLoop n 700 (2 ^ (Nat.log2 n / 2 + 1))

/-- A value known to lie strictly between M and M + 1 units of 2^e is rounded as M + 1/2 units. DEDUCED, log 88. -/
def roundSticky (f : FF) (s : Bool) (m : Nat) (e : Int) : FRes := roundTo f .rn 0 false s (2 * m + 1) (e - 1)

/-- RCP of a finite nonzero value. DEDUCED, log 88. -/
def fnRcp (f : FF) (s : Bool) (m : Nat) (e : Int) : FRes :=
  let q := 2 ^ 128 / m
  if q * m == 2 ^ 128 then roundTo f .rn 0 false s q (-128 - e) else roundSticky f s q (-128 - e)

/-- RSQ of a finite positive value: with an even exponent, 1 / sqrt(m 2^e) = sqrt(2^256 / m) 2^(-128 - e / 2). DEDUCED, log 88. -/
def fnRsq (f : FF) (m : Nat) (e : Int) : FRes :=
  let (m, e) := if e % 2 == 0 then (m, e) else (2 * m, e - 1)
  let y := isqrt (2 ^ 256 / m)
  if y * y * m == 2 ^ 256 then roundTo f .rn 0 false false y (-128 - e / 2) else roundSticky f false y (-128 - e / 2)

/-- EXP2 of a finite value. Beyond 400 in magnitude the result overflows, or underflows to zero. DEDUCED, log 88. -/
def fnExp2 (f : FF) (s : Bool) (m : Nat) (e : Int) : FRes :=
  if m == 0 then roundTo f .rn 0 false false 1 0
  else if 0 ≤ e && (10 < e || 400 < m * 2 ^ e.toNat) then
    if s then roundSticky f false 1 (-600) else roundSticky f false 1 600
  else if e < 0 && 400 < m / 2 ^ (-e).toNat then
    if s then roundSticky f false 1 (-600) else roundSticky f false 1 600
  else
    let one : Int := 2 ^ fxBits
    let x : Int := (if s then -1 else 1) * (if 0 ≤ e then (m : Int) * 2 ^ e.toNat * one
      else (m : Int) * 2 ^ (fxBits - (-e).toNat))
    let n := x / one
    let g := x % one
    if g == 0 then roundTo f .rn 0 false false 1 n
    else roundSticky f false (fxExp (fxMul g fxLn2)).toNat (n - fxBits)

/-- LOG2 of a finite positive value. DEDUCED, log 88. -/
def fnLog2 (f : FF) (m : Nat) (e : Int) : FRes :=
  let k := Nat.log2 m
  let n : Int := (k : Int) + e
  if m == 2 ^ k then roundTo f .rn 0 false (n < 0) n.natAbs 0
  else
    let y : Int := (m : Int) * 2 ^ (fxBits - k)
    let v : Int := n * 2 ^ fxBits + fxLog2 y
    roundSticky f (v < 0) v.natAbs (-(fxBits : Int))

/-- The quadrant of x / (pi / 2) and the remainder in [-pi/4, pi/4], for x = m 2^e with e >= -512. -/
def trigReduce (s : Bool) (m : Nat) (e : Int) : Int × Int :=
  let x : Int := (m : Int) * 2 ^ (e + fxBits).toNat
  let h := fxPi / 2
  let k := (2 * x + h) / (2 * h)
  let wide : Int := x * 2 ^ 256
  -- the remainder is taken with 256 more bits of the reduction constant
  let r := (wide - k * (fxPi2Wide)) / 2 ^ 256
  if s then (-k, -r) else (k, r)
where
  /-- Half of pi times 2^768. -/
  fxPi2Wide : Int := 2438689716668573865392683818391592219053314772308502656058547312351533741960613011169154778251721653430403094451588145871766517736072866574435989443084398296365683011600866296821739367181318693695319038216787674829135785461158199115

/-- SIN (c = 0) or COS (c = 1) of a finite nonzero value. DEDUCED, log 88. -/
def fnTrig (f : FF) (c : Int) (s : Bool) (m : Nat) (e : Int) : FRes :=
  let (k, r) := trigReduce s m e
  let q := (k + c) % 4
  let v := if q % 2 == 0 then fxSin r else fxCos r
  let v := if q ≥ 2 then -v else v
  if v == 0 then roundTo f .rn 0 false s m e
  else roundSticky f (v < 0) v.natAbs (-(fxBits : Int))

/-- R167, R168: special function `op` (0x27 RCP to 0x2C COS) on a code. DEDUCED, log 88. -/
def special (op : Nat) (f : FF) (a : Nat) : FRes :=
  let one := (roundTo f .rn 0 false false 1 0).bits
  let inv := nanRes f flIV
  match f.value a with
  | .nan => nanRes f
  | .inf s =>
    match op with
    | 0x27 => { bits := f.zero s, flags := 0 }
    | 0x28 => if s then inv else { bits := f.zero false, flags := 0 }
    | 0x29 => { bits := if s then f.zero false else f.infCode, flags := 0 }
    | 0x2A => if s then inv else { bits := f.infCode, flags := 0 }
    | _ => inv
  | .fin s m e =>
    if m == 0 then
      match op with
      | 0x27 => { bits := f.infinite false s, flags := flDZ }
      | 0x28 => { bits := f.infinite false s, flags := flDZ }
      | 0x29 => { bits := one, flags := 0 }
      | 0x2A => { bits := f.infinite false true, flags := flDZ }
      | 0x2B => { bits := f.zero s, flags := 0 }
      | _ => { bits := one, flags := 0 }
    else
      match op with
      | 0x27 => fnRcp f s m e
      | 0x28 => if s then inv else fnRsq f m e
      | 0x29 => fnExp2 f s m e
      | 0x2A => if s then inv else fnLog2 f m e
      | 0x2B => fnTrig f 0 s m e
      | _ => fnTrig f 1 s m e

end Sys2Proof.Machine
end

