-- ==== Sys2Proof/Machine/Elem.lean ====
section
/-!
DEFINITION. The element and register arithmetic of class 00 (R150 to R168), used by the lanes, by plane operations
(R200 to R202), by atomics (R264) and by Scribe processors (R363). Operations are named by their class 00 number.
-/
namespace Sys2Proof.Machine

/-- Element k of a register of type t (R99). -/
def elemOf (t : Ty) (w : Word) (k : Nat) : Nat := w.toNat / 2 ^ (k * t.bits) % 2 ^ t.bits

/-- The register of a list of elements, element 0 lowest. -/
def packElems (t : Ty) (l : List Nat) : Word :=
  BitVec.ofNat 32 (l.foldr (fun x a => x % 2 ^ t.bits + a * 2 ^ t.bits) 0)

/-- The register with element k replaced. -/
def putElem (t : Ty) (w : Word) (k v : Nat) : Word :=
  packElems t ((List.range t.lanes).map (fun i => if i == k then v else elemOf t w i))

/-- A plain result without flags. -/
def plain (x : Nat) : FRes := { bits := x, flags := 0 }

/-- A shift of an element of w bits by a count taken modulo w (R154). -/
def shiftElem (op w a b : Nat) : Nat :=
  let k := b % w
  match op with
  | 0x14 => a * 2 ^ k % 2 ^ w
  | 0x15 => a % 2 ^ w / 2 ^ k
  | _ => ofInt w (toSigned w a / 2 ^ k)

/-- Count of one bits. -/
def popcount : Nat → Nat → Nat
  | 0, _ => 0
  | n + 1, x => x % 2 + popcount n (x / 2)

/-- Zero bits above the highest one bit of a w-bit value. -/
def clz (w x : Nat) : Nat := if x % 2 ^ w == 0 then w else w - 1 - Nat.log2 (x % 2 ^ w)

/-- Bit reversal of w bits. -/
def brev : Nat → Nat → Nat
  | 0, _ => 0
  | n + 1, x => x % 2 * 2 ^ n + brev n (x / 2)

/-- R150 to R154: the integer element operations. -/
def intElem (op : Nat) (t : Ty) (sat : Bool) (a b c : Nat) : Nat :=
  let x := intVal t a
  let y := intVal t b
  let z := intVal t c
  match op with
  | 0x01 => intRes t sat (x + y)
  | 0x02 => intRes t sat (x - y)
  | 0x03 => intRes t sat (x * y)
  | 0x04 => ofInt t.bits (x * y / 2 ^ t.bits)
  | 0x05 => intRes t sat (x * y + z)
  | 0x07 => ofInt t.bits (min x y)
  | 0x08 => ofInt t.bits (max x y)
  | 0x09 => intRes t sat (x.natAbs : Int)
  | 0x0A => intRes t sat (-x)
  | 0x0B => ofInt t.bits (min (max x y) z)
  | 0x0C => ofInt t.bits (min (clampInt t (x + y)) z)
  | _ => 0

/-- R150, R151: the floating element operations. DEDUCED, log 95. -/
def floatElem (op : Nat) (t : Ty) (rm : RM) (sat : Bool) (a b c : Nat) : FRes :=
  let f := ffOf t
  match op with
  | 0x01 => fAdd f rm sat a b
  | 0x02 => fSub f rm sat a b
  | 0x03 => fMul f rm sat a b
  | 0x06 => fFma f rm sat a b c
  | 0x07 => plain (fMin f a b)
  | 0x08 => plain (fMax f a b)
  | 0x09 => plain (a % f.signW)
  | 0x0A => plain (if a / f.signW % 2 == 1 then a % f.signW else a % f.signW + f.signW)
  | 0x0B => plain (fMin f (fMax f a b) c)
  | 0x0E => plain (fRnd f rm a)
  | _ => special op f a

/-- One element of a class 00 operation: bits and shifts alike on every type, then by integer or floating type. DEDUCED, log 95. -/
def elemOp (op : Nat) (t : Ty) (rm : RM) (sat : Bool) (a b c : Nat) : FRes :=
  let w := t.bits
  match op with
  | 0x0F => plain a
  | 0x10 => plain (a &&& b)
  | 0x11 => plain (a ||| b)
  | 0x12 => plain (a ^^^ b)
  | 0x13 => plain (2 ^ w - 1 - a % 2 ^ w)
  | 0x14 => plain (shiftElem 0x14 w a b)
  | 0x15 => plain (shiftElem 0x15 w a b)
  | 0x16 => plain (shiftElem 0x16 w a b)
  | 0x19 => plain (popcount w a)
  | 0x1A => plain (clz w a)
  | 0x1B => plain (brev w a)
  | _ => if t.isInt then plain (intElem op t sat a b c) else floatElem op t rm sat a b c

/-- A packed operation element by element, with the union of its flags (R99). -/
def regOp (op : Nat) (t : Ty) (rm : RM) (sat : Bool) (a b c : Word) : Word × Nat :=
  let rs := (List.range t.lanes).map (fun k => elemOp op t rm sat (elemOf t a k) (elemOf t b k) (elemOf t c k))
  (packElems t (rs.map FRes.bits), rs.foldl (fun x r => flOr x r.flags) 0)

/-- R152: DOT2. -/
def dot2Op (t : Ty) (rm : RM) (sat : Bool) (a b c : Word) : Word × Nat :=
  match t with
  | .i16 =>
    let s := intVal .i16 (elemOf .i16 a 0) * intVal .i16 (elemOf .i16 b 0) +
      intVal .i16 (elemOf .i16 a 1) * intVal .i16 (elemOf .i16 b 1) + intVal .i32 c.toNat
    (BitVec.ofNat 32 (intRes .i32 sat s), 0)
  | _ =>
    let r := fDot2 (ffOf t) rm sat (elemOf t a 0) (elemOf t b 0) (elemOf t a 1) (elemOf t b 1) c.toNat
    (BitVec.ofNat 32 r.bits, r.flags)

/-- The bit field operations of R130 and R155 on w bits: position, width and value. -/
def bfxOp (w pos wid a : Nat) (signed : Bool) : Nat :=
  let n := min wid (w - pos)
  let x := a / 2 ^ pos % 2 ^ n
  if n == 0 then 0 else if signed then ofInt w (toSigned n x) else x

def bfiOp (w pos wid a c : Nat) : Nat :=
  let n := min wid (w - pos)
  if n == 0 then c else c - c / 2 ^ pos % 2 ^ n * 2 ^ pos + a % 2 ^ n * 2 ^ pos

/-- R155: position and width of the class 00 forms. -/
def bfx32 (a b : Word) (signed : Bool) : Word :=
  BitVec.ofNat 32 (bfxOp 32 (bits b 4 0) (min (bits b 13 8) 32) a.toNat signed)
def bfi32 (a b c : Word) : Word :=
  BitVec.ofNat 32 (bfiOp 32 (bits b 4 0) (min (bits b 13 8) 32) a.toNat c.toNat)

/-- R156: PACK. -/
def packOp (fn : Nat) (a b c : Word) : Word :=
  match fn with
  | 0 => BitVec.ofNat 32 (a.toNat % 2 ^ 16 + b.toNat % 2 ^ 16 * 2 ^ 16)
  | 1 => BitVec.ofNat 32 (a.toNat / 2 ^ 16 + b.toNat / 2 ^ 16 * 2 ^ 16)
  | _ =>
    let pick (k : Nat) : Nat :=
      let nib := c.toNat / 16 ^ k % 16
      if nib ≥ 8 then 0
      else if nib < 4 then a.toNat / 256 ^ nib % 256 else b.toNat / 256 ^ (nib - 4) % 256
    BitVec.ofNat 32 (pick 0 + pick 1 * 2 ^ 8 + pick 2 * 2 ^ 16 + pick 3 * 2 ^ 24)

/-- R162: RAND. -/
def randOp (a b : Word) : Word :=
  let x := a ^^^ (b * 0x9E3779B9#32)
  let x := (x ^^^ (x >>> 16)) * 0x85EBCA6B#32
  let x := (x ^^^ (x >>> 13)) * 0xC2B2AE35#32
  x ^^^ (x >>> 16)

/-- R157: CMP on one element, by type. -/
def cmpElem (rel : Nat) (t : Ty) (a b : Nat) : Bool × Nat :=
  if t.isInt then (relInt rel (intVal t a) (intVal t b), 0) else fCmp (ffOf t) rel a b

/-- R164, R166: CVT of one register into the old destination. -/
def cvtOp (st dt : Ty) (p : Nat) (rm : RM) (sat : Bool) (a c old : Word) : Word × Nat :=
  let ns := st.lanes
  let nd := dt.lanes
  let n := if ns > nd then nd else ns
  let r (k : Nat) : Nat := c.toNat / 2 ^ (16 * k) % 2 ^ 16
  let src (k : Nat) : Nat := elemOf st a (if ns > nd then p * nd + k else k)
  let rs := (List.range n).map (fun k => convElem st dt rm (r k) sat (src k))
  let base := if ns < nd then p * ns else 0
  let w := (List.range nd).map (fun i =>
    if base ≤ i && i < base + n then (rs.getD (i - base) (plain 0)).bits else elemOf dt old i)
  (packElems dt w, rs.foldl (fun x r => flOr x r.flags) 0)

/-! ### Combining under RN (R177, R264, R350, R363) -/

/-- The class 00 operation of a reduce operator. -/
def ropOp : Rop → Nat
  | .add => 0x01 | .max => 0x08 | .min => 0x07 | .and => 0x10 | .or => 0x11 | .xor => 0x12

/-- R177: the formats an operator accepts. -/
def ropOk (o : Rop) (t : Ty) : Bool :=
  match o with
  | .add | .max | .min => t.isInt || t == .f32 || t == .f16 || t == .bf16
  | _ => true

/-- A combination of two elements under an operator, rounded under RN; its flags. -/
def combine (o : Rop) (t : Ty) (a b : Nat) : FRes := elemOp (ropOp o) t .rn false a b 0

/-- A combination of every element of two registers. -/
def combineReg (o : Rop) (t : Ty) (a b : Word) : Word := (regOp (ropOp o) t .rn false a b 0).1

end Sys2Proof.Machine
end

