-- ==== Sys2Proof/Machine/Ops.lean ====
section
/-!
DEFINITION. The named operations every meaning is written with: memory, translation (R249 to R252), the registers of a
group with the races of R56, the frame of a group instruction, and taking a trap (R378 to R386) with its return (R390).
-/
namespace Sys2Proof.Machine

/-! ### Memory -/

/-- One byte; an unlisted address reads 0. DESIGN CHOICE, log 9. -/
def Memory.byte (m : Memory) (a : Nat) : Byte := Map.get 0 m a

/-- Writes one byte, keeping the canonical form. DESIGN CHOICE, log 9. -/
def Memory.put (m : Memory) (a : Nat) (b : Byte) : Memory := Map.set 0 m a b

/-- `n` bytes from `a`. -/
def Memory.load (m : Memory) (a n : Nat) : List Byte := (List.range n).map (fun k => m.byte (a + k))

/-- Stores bytes from `a` upward. -/
def Memory.store (m : Memory) (a : Nat) : List Byte → Memory
  | [] => m
  | b :: t => Memory.store (m.put a b) (a + 1) t

/-- The canonical form: addresses strictly rising, no entry equal to what an unlisted address reads as. DESIGN CHOICE, log 9. -/
def Memory.wf (m : Memory) : Bool := Map.wf 0 m

/-- Whether a word of `n` bytes at `a` is marked poisoned (R392). DESIGN CHOICE, log 72. -/
def poisoned (p : List Nat) (a n : Nat) : Bool :=
  p.any (fun w => decide (4 * w < a + n) && decide (a < 4 * w + 4))

/-- A full write of a word clears its poison (R392). DESIGN CHOICE, log 72. -/
def clearPoison (p : List Nat) (a n : Nat) : List Nat :=
  p.filter (fun w => !(decide (a ≤ 4 * w) && decide (4 * w + 4 ≤ a + n)))

/-- Bytes of a physical address. -/
def State.rd (s : State) (pa n : Nat) : List Byte := s.mem.load pa n

/-- Stores bytes at a physical address. -/
def State.wr (s : State) (pa : Nat) (bs : List Byte) : State :=
  { s with mem := s.mem.store pa bs, poison := clearPoison s.poison pa bs.length }

/-- A team's bytes (R242). -/
def Team.rd (t : Team) (a n : Nat) : List Byte := t.mem.load a n
def Team.wr (t : Team) (a : Nat) (bs : List Byte) : Team :=
  { t with mem := t.mem.store a bs, poison := clearPoison t.poison a bs.length }

/-! ### Cores, dies and windows (R33, R34, R243, R245) -/

def coreDie (c : Nat) : Nat := c / 64
def coreQuad (c : Nat) : Nat := c / 16
def coreBay (c : Nat) : Nat := c / 4

/-- The window of a physical address: 1 HBM, 2 second tier, 3 + d scratchpad of die d, 8 host, 0 none. -/
def windowOf (pa : Nat) : Nat :=
  if pa ≤ 0x00BFFFFFFFFF then 1
  else if 0x010000000000 ≤ pa && pa ≤ 0x02FFFFFFFFFF then 2
  else if 0x030000000000 ≤ pa && pa < 0x030040000000 then 3 + (pa - 0x030000000000) / 0x10000000
  else if 0x080000000000 ≤ pa && pa ≤ 0x0FFFFFFFFFFF then 8
  else 0

/-- The die whose scratchpad holds an address. -/
def spDie (pa : Nat) : Option Nat := if 3 ≤ windowOf pa && windowOf pa < 7 then some (windowOf pa - 3) else none

/-- R245: the addressable scratchpad of a die in bytes, by the cache fractions of its partitions. DESIGN CHOICE, log 63. -/
def spSize (s : State) (die : Nat) : Nat :=
  s.parts.foldl (fun n p =>
    if p.2.quads.any (fun q => q / 4 == die) then min n (192 * (100 - p.2.spcache) / 100 * 2 ^ 20) else n) (192 * 2 ^ 20)

/-- R243: whether an address is populated. -/
def populated (s : State) (pa : Nat) : Bool :=
  match windowOf pa with
  | 0 => false
  | 1 => true
  | 2 => decide (pa - 0x010000000000 < s.tier2)
  | 8 => decide (pa - 0x080000000000 < s.fitted.hostBytes)
  | _ => decide ((pa - 0x030000000000) % 0x10000000 < spSize s ((pa - 0x030000000000) / 0x10000000))

/-- R243: a range lies wholly within one populated window. DEDUCED, log 32. -/
def spanOk (s : State) (lo n : Nat) : Bool :=
  windowOf lo == windowOf (lo + n - 1) && populated s lo && populated s (lo + n - 1)

/-! ### Translation (R249 to R257) -/

/-- Kinds of access a translation is checked for. -/
inductive Acc where
  | r | w | x
  deriving DecidableEq, Repr

/-- A leaf met on a walk: the entry, its address, the page base and size. -/
structure Leaf where
  word : DWord
  loc  : Nat
  page : Nat
  size : Nat
  deriving DecidableEq, Repr

/-- Trap causes (R378). -/
def cIllegal : Nat := 1
def cBadTarget : Nat := 2
def cFold : Nat := 3
def cIndDiverge : Nat := 4
def cAccNotOwned : Nat := 5
def cBarOverwrite : Nat := 6
def cCollMismatch : Nat := 7
def cRemote : Nat := 8
def cFetchPerm : Nat := 9
def cTrans : Nat := 10
def cPerm : Nat := 11
def cAlign : Nat := 12
def cMachine : Nat := 14
def cSoft : Nat := 15

/-- R250 to R252: a valid leaf is well formed. DEDUCED, log 32. -/
def leafOk (s : State) (e : DWord) (size : Nat) : Bool :=
  let frame := bits e 55 16 * 2 ^ 16
  let home := bits e 9 8
  bits e 15 10 == 0 && bits e 63 56 == 0 && !(bit e 3 && bit e 4) &&
  (if home == 0 then
     frame % size == 0 && spanOk s frame (if bit e 6 then 4 * size else size)
   else home == 2 && frame / 2 ^ 25 == 0)

/-- The walk from a table at `tbl` (a poisoned entry is a machine check, R392) over the levels left: (shift, entries, leaf size or 0). -/
def walkFrom (s : State) (va : Nat) : List (Nat × Nat × Nat) → Nat → Except (Nat × Nat) Leaf
  | [], _ => .error (cTrans, 3)
  | (sh, n, size) :: rest, tbl =>
    let loc := tbl + 8 * (va / 2 ^ sh % n)
    let e : DWord := BitVec.ofNat 64 (leNat (s.rd loc 8))
    if poisoned s.poison loc 8 then .error (cMachine, 2)
    else if !bit e 0 then .error (cTrans, 1)
    else if bit e 1 then
      if size != 0 && leafOk s e size then .ok { word := e, loc := loc, page := va / size * size, size := size }
      else .error (cTrans, 3)
    else if rest.isEmpty || bits e 15 2 != 0 || bits e 63 56 != 0 || !populated s (bits e 55 16 * 2 ^ 16) then
      .error (cTrans, 3)
    else walkFrom s va rest (bits e 55 16 * 2 ^ 16)

/-- R249: the levels. -/
def walkLevels : List (Nat × Nat × Nat) :=
  [(48, 256, 0), (39, 512, 0), (30, 512, 2 ^ 30), (21, 512, 2 ^ 21), (16, 32, 2 ^ 16)]

/-- The whole walk from a root. -/
def walk (s : State) (root : Nat) (va : DWord) : Except (Nat × Nat) Leaf :=
  if bits va 63 56 != 0 then .error (cTrans, 2) else walkFrom s va.toNat walkLevels root

/-- The permission check of a leaf (R251, R252, R255). -/
def leafPerm (l : Leaf) (a : Acc) : Except (Nat × Nat) Unit :=
  match a with
  | .r => if bit l.word 2 then .ok () else .error (cPerm, 1)
  | .w => if bit l.word 3 then .ok () else .error (cPerm, 2)
  | .x => if bit l.word 4 && bits l.word 9 8 == 0 then .ok () else .error (cFetchPerm, 0)

/-- Where a translated access goes: a local address (frame 0 of a replicated page) or a peer. -/
inductive Tgt where
  | loc (pa size : Nat) (repl prop : Bool)
  | peer (rank : Nat)
  deriving DecidableEq, Repr

/-- The target of an address through a leaf. -/
def Leaf.tgt (l : Leaf) (va : DWord) : Tgt :=
  if bits l.word 9 8 == 2 then .peer (bits l.word 24 16)
  else .loc (bits l.word 55 16 * 2 ^ 16 + va.toNat % l.size) l.size (bit l.word 6) (bit l.word 5)

/-- Whether a held translation is one of an address, for fetch or for accesses. -/
def Tlb.covers (t : Tlb) (root : Nat) (va : DWord) (x : Bool) : Bool :=
  t.x == x && t.root == root && decide (t.page ≤ va.toNat) && decide (va.toNat < t.page + t.size)

/-- R256: the range of the shootdown in progress. -/
def shootRange (s : State) (ctx : Nat) (va : Nat) : Bool :=
  let size := match bits s.tlbictl 7 6 with
    | 0 => 2 ^ 16 | 1 => 2 ^ 21 | 2 => 2 ^ 30 | _ => 2 ^ 56
  bits s.tlbictl 5 0 == ctx && va / size == s.tlbiva.toNat / size

/-- R257: fetch of a page in the range of a shootdown in progress keeps to the old translation. -/
def fetchKeeps (s : State) (t : Tlb) (va : DWord) : Bool := t.x && s.tlbibusy && shootRange s t.ctx va.toNat

/-- The translation that may serve an access: one its core holds, or, for a fetch during a shootdown, one that any core's
fetch took before (R257). -/
def tlbFind (s : State) (core root : Nat) (va : DWord) (a : Acc) : Option Tlb :=
  match s.tlb.find? (fun t => t.core == core && t.covers root va (a == .x)) with
  | some t => some t
  | none => s.tlb.find? (fun t => a == .x && t.covers root va true && fetchKeeps s t va)

/-- R256, R257: whether an access uses the translation that is held. DESIGN CHOICE, log 16. -/
def usesHeld (s : State) (t : Tlb) (va : DWord) : Bool :=
  fetchKeeps s t va || Config.useOld (s.free * 2 ^ 64 + va.toNat)

/-- The leaf an access is translated by: the one the core holds, or the one a walk finds now. DESIGN CHOICE, log 16. -/
def leafFor (s : State) (core root : Nat) (va : DWord) (a : Acc) : Except (Nat × Nat) Leaf :=
  match tlbFind s core root va a with
  | some t =>
    if usesHeld s t va then .ok { word := t.leaf, loc := t.loc, page := t.page, size := t.size }
    else walk s root va
  | none => walk s root va

/-- The core holds a leaf from now on; DIRTY is set in the entry before a first write (R251). -/
def holdLeaf (s : State) (core ctx root : Nat) (l : Leaf) (a : Acc) : State :=
  let dirty := a == .w && !bit l.word 7
  let word := if dirty then l.word ||| 0x80 else l.word
  let held : Tlb := { core, x := a == .x, root, ctx, page := l.page, size := l.size, leaf := word, loc := l.loc }
  let s1 := { s with
    tlb := s.tlb.filter (fun t => !(t.core == core && t.x == (a == .x) && t.root == root && t.page == l.page && t.size == l.size)) ++ [held] }
  if dirty then { s1 with mem := s1.mem.put l.loc (s1.mem.byte l.loc ||| 0x80) } else s1

/-- A translation with its checks: where the access goes, and the state after it, or cause and detail. -/
def xlate (s : State) (core ctx root : Nat) (va : DWord) (a : Acc) : Except (Nat × Nat) (Tgt × State) := do
  let l ← leafFor s core root va a
  leafPerm l a
  return (l.tgt va, holdLeaf s core ctx root l a)

/-! ### Frames (R251, R327) -/

/-- The frames of a byte. -/
def framesOf (pa size : Nat) (repl : Bool) : List Nat :=
  if repl then (List.range 4).map (fun d => pa + d * size) else [pa]

/-- A read of `n` bytes served to a reader on a die. -/
def rdTgt (s : State) (die pa size : Nat) (repl : Bool) (n : Nat) : List Byte :=
  s.rd (if repl then pa + die * size else pa) n

/-- Whether a queued update has bytes of a range. -/
def FrameUpd.meets (u : FrameUpd) (pa n : Nat) : Bool := decide (u.pa < pa + n) && decide (pa < u.pa + u.bytes.length)

/-- The coherence-latest bytes: of a replicated page with PROP 0 the latest update still queued, if any. -/
def rdHome (s : State) (die pa size : Nat) (repl prop : Bool) (n : Nat) : List Byte :=
  if repl && !prop then
    (List.range n).map (fun k =>
      (s.frameQ.reverse.findSome? (fun u =>
        (framesOf (pa + k) size true).findSome? (fun a => if u.meets a 1 then u.bytes[a - u.pa]? else none))).getD
        (s.mem.byte (pa + die * size + k)))
  else rdTgt s die pa size repl n

/-- Of a queue, newest first: the updates that a range needs applied before it, oldest first, and the rest, oldest first. -/
def frameNeeds : List FrameUpd → List (Nat × Nat) → List FrameUpd → List FrameUpd → List FrameUpd × List FrameUpd
  | [], _, need, rest => (need, rest)
  | u :: t, rs, need, rest =>
    if rs.any (fun r => u.meets r.1 r.2) then frameNeeds t ((u.pa, u.bytes.length) :: rs) (u :: need) rest
    else frameNeeds t rs need (u :: rest)

/-- The queued updates that meet a range of a frame are applied, in order. -/
def applyFrames (s : State) (pa n : Nat) : State :=
  let (need, rest) := frameNeeds s.frameQ.reverse [(pa, n)] [] []
  { need.foldl (fun s u => s.wr u.pa u.bytes) s with frameQ := rest }

/-- A direct write of one frame comes after the updates of its bytes that are still queued. DEDUCED, log 24. -/
def wrFrame (s : State) (pa : Nat) (bs : List Byte) : State := (applyFrames s pa bs.length).wr pa bs

/-- Who writes: a group (0 for none), its context and die, and what an update of a frame belongs to. -/
structure Writer where
  gid   : Nat
  ctx   : Nat
  die   : Nat
  owner : FrameOwner := .writer
  deriving DecidableEq, Repr

/-- A group's own write. -/
def Group.writer (g : Group) (gid : Nat) : Writer := { gid, ctx := g.ctx, die := coreDie g.core }

/-- A write of `bs`. PROP 1 updates four frames at once; PROP 0 updates the writer's frame and queues the other three, each
as one write (R323). -/
def wrTgt (s : State) (w : Writer) (pa size : Nat) (repl prop : Bool) (bs : List Byte) : State :=
  if !repl then wrFrame s pa bs
  else if prop then (framesOf pa size true).foldl (fun s a => wrFrame s a bs) s
  else
    let s1 := wrFrame s (pa + w.die * size) bs
    let others := (List.range 4).filter (· != w.die)
    { s1 with frameQ := s1.frameQ ++ others.map (fun d =>
        { ctx := w.ctx, owner := w.owner, pa := pa + d * size, bytes := bs, pub := [],
          knows := if w.gid == 0 then [] else [w.gid] }) }

/-- Whether a byte range meets a barrier-tagged line (R247). -/
def taggedIn (tags : List Nat) (a n : Nat) : Bool := tags.any (fun t => decide (t * 64 < a + n) && decide (a < t * 64 + 64))

/-- Whether every line of a byte range is present (R246). -/
def presentIn (s : State) (a n : Nat) : Bool :=
  !(s.absent.any (fun t => decide (t * 64 < a + n) && decide (a < t * 64 + 64)))

/-! ### The registers of a group -/

/-- Register keys of `raced`, `poison` and race choices: v, then s, p, pd and th. -/
def keyV (r l : Nat) : Nat := 32 * r + l
def keyS (r : Nat) : Nat := 8192 + r
def keyP (r l : Nat) : Nat := 16384 + 32 * r + l
def keyPd (r : Nat) : Nat := 20480 + r
def keyTh (r : Nat) : Nat := 24576 + r

/-- The key of a completion's write. -/
def RegWrite.key : RegWrite → Nat
  | .v r l _ => keyV r l
  | .s r _ => keyS r
  | .p r l _ => keyP r l
  | .th r _ _ => keyTh r

/-- The write that an instruction in flight will make to a register, where its value is known. -/
def Group.pending (g : Group) (key : Nat) : Option RegWrite :=
  g.entries.findSome? (fun e => e.outs.find? (fun o => o.key == key))

/-- R56: of the old value and a pending one, which a read returns. DEDUCED, log 17. -/
def raceRead {α : Type} (fc key : Nat) (old : α) (new : Option α) : α :=
  match new with
  | none => old
  | some x => if Config.raceBit fc key then x else old

/-- A v register of a lane as read at issue. -/
def Group.rdV (g : Group) (fc r l : Nat) : Word :=
  raceRead fc (keyV r l) (Map.get 0 g.v (32 * r + l))
    (match g.pending (keyV r l) with | some (.v _ _ x) => some x | _ => none)

/-- An s register as read at issue. -/
def Group.rdS (g : Group) (fc r : Nat) : DWord :=
  raceRead fc (keyS r) (Map.get 0 g.s r) (match g.pending (keyS r) with | some (.s _ x) => some x | _ => none)

/-- A predicate; p0 reads all ones (R10). -/
def Group.rdP (g : Group) (fc r : Nat) : Mask :=
  if r == 0 then BitVec.allOnes 32
  else
    let old : Mask := Map.get 0 g.p r
    if g.entries.isEmpty then old
    else maskOf (fun l => raceRead fc (keyP r l) (old.getLsbD l)
      (match g.pending (keyP r l) with | some (.p _ _ x) => some x | _ => none))

/-- R56: a register written while instructions are in flight is recorded with the youngest of them. DEDUCED, log 17. -/
def Group.race (g : Group) (key : Nat) : Group :=
  if g.entries.isEmpty then g else { g with raced := Map.put g.raced key (g.entries.foldl (fun n e => max n e.id) 0) }

/-- A full write of a register clears its poison (R392). -/
def Group.heal (g : Group) (key : Nat) : Group :=
  if g.poison.isEmpty then g else { g with poison := g.poison.filter (· != key) }

/-- Writes a v register in one lane; the registers of an exited lane are never written again (R141). -/
def Group.wrV (g : Group) (r l : Nat) (x : Word) : Group :=
  if g.exited.getLsbD l then g
  else ({ g with v := Map.set 0 g.v (32 * r + l) x }.race (keyV r l)).heal (keyV r l)

/-- Writes an s register. -/
def Group.wrS (g : Group) (r : Nat) (x : DWord) : Group :=
  ({ g with s := Map.set 0 g.s r x }.race (keyS r)).heal (keyS r)

/-- Writes one lane's bit of a predicate; p0 is never written. -/
def Group.wrP (g : Group) (r l : Nat) (x : Bool) : Group :=
  if r == 0 || g.exited.getLsbD l then g
  else
    let old : Mask := Map.get 0 g.p r
    let new : Mask := if x then old ||| laneBit l else old &&& ~~~(laneBit l)
    ({ g with p := Map.set 0 g.p r new }.race (keyP r l)).heal (keyP r l)

/-- A 64-byte tensor handle (R280) as it stands. -/
def Group.thNow (g : Group) (r : Nat) : Line :=
  (List.range 8).foldl (fun w k => w ||| ((Map.get 0 g.th (8 * r + k)).setWidth 512 <<< (64 * k))) 0

/-- A tensor handle, with its TYPE, as read at issue. -/
def Group.rdTh (g : Group) (fc r : Nat) : Line × Nat :=
  raceRead fc (keyTh r) (g.thNow r, Map.get 0 g.thType r)
    (match g.pending (keyTh r) with | some (.th _ x ty) => some (x, ty) | _ => none)

/-- Writes a tensor handle with its TYPE. -/
def Group.wrTh (g : Group) (r : Nat) (x : Line) (ty : Nat) : Group :=
  let th := (List.range 8).foldl (fun m k => Map.set 0 m (8 * r + k) (BitVec.ofNat 64 (x.toNat / 2 ^ (64 * k)))) g.th
  ({ g with th := th, thType := Map.set 0 g.thType r ty }.race (keyTh r)).heal (keyTh r)

/-- A descriptor word (R192). -/
def Group.rdPd (g : Group) (d w : Nat) : DWord := Map.get 0 g.pd (4 * d + w)
def Group.wrPd (g : Group) (d w : Nat) (x : DWord) : Group := { g with pd := Map.set 0 g.pd (4 * d + w) x }

/-- The lanes of `a` that are not in `b`. -/
def maskMinus (a b : Mask) : Mask := a &&& ~~~b

/-! ### The frame of a group instruction -/

/-- A trap to raise (R378, R379). `lanes` are the origin lanes of a per-lane cause; zero for a per-split one, whose
origin is the lowest active lane. `mask` replaces the MASK that R379 gives, and `dst` is the register a SYSCALL names (R389). -/
structure Trap where
  cause  : Nat
  detail : Nat := 0
  lanes  : Mask := 0
  mask   : Option Mask := none
  addr   : SMap DWord := []
  aux    : Nat := 0
  dst    : Nat := 0
  deriving DecidableEq, Repr

/-- Why an instruction does not take effect now: it traps, or it waits and issues again. -/
inductive Stop where
  | trap (t : Trap)
  | wait
  deriving DecidableEq, Repr

/-- An effect of the issuing instruction, or why it has none. DESIGN CHOICE, log 3. -/
abbrev Res (α : Type) := Except Stop α

def illegal (sub : Nat) : Stop := .trap { cause := cIllegal, detail := sub }

/-- The issuing instruction: its group and split, the active lanes, and the lanes where the guard holds (R62). -/
structure Iss where
  gid : Nat
  pos : Nat
  g   : Group
  sp  : Split
  act : Mask
  on  : Mask
  fc  : Nat
  deriving DecidableEq, Repr

/-- R62: the lanes of a mask where a guard holds. -/
def guardOn (g : Group) (fc : Nat) (gd : Guard) (m : Mask) : Mask :=
  let p := g.rdP fc gd.p.toNat
  m &&& (if gd.neg then ~~~p else p)

/-- The issuer that the state names. DESIGN CHOICE, log 6. -/
def issuer (s : State) (gd : Guard) : Option Iss :=
  match s.cur with
  | none => none
  | some (gid, pos) =>
    match Map.find s.groups gid with
    | none => none
    | some g =>
      match Map.find g.splits pos with
      | none => none
      | some sp =>
        let act := sp.only.getD sp.mask
        some { gid, pos, g, sp, act, on := guardOn g s.free gd act, fc := s.free }

/-- The next slot of a program counter (R49, R52). -/
def nextPc (pc : Nat) : Nat := if pc % 64 == 48 then pc + 16 else pc + 12

/-- A split at another program counter of its own line, or of a line to fetch. -/
def Split.fall (sp : Split) : Split :=
  let pc := nextPc sp.pc
  { sp with pc := pc, only := none,
            line := if pc / 64 == sp.pc / 64 then sp.line else none,
            entered := pc / 64 == sp.pc / 64 && sp.entered }

def Group.setSplit (g : Group) (pos : Nat) (sp : Split) : Group := { g with splits := Map.put g.splits pos sp }

/-- The split passes to the next slot. -/
def Group.advance (g : Group) (pos : Nat) : Group :=
  match Map.find g.splits pos with
  | none => g
  | some sp => g.setSplit pos sp.fall

def State.putG (s : State) (gid : Nat) (g : Group) : State := { s with groups := Map.put s.groups gid g }

/-- The group after its instruction, with the split at the next slot. -/
def Iss.done (c : Iss) (s : State) (g : Group) : State := s.putG c.gid (g.advance c.pos)

/-! ### Taking a trap (R378 to R386) -/

/-- Origins recognised in one clock are queued by group slot, then by lane (R383). -/
def queueOrigin (q : List Origin) (o : Origin) : List Origin :=
  let later (x : Origin) : Bool := x.tick == o.tick && (decide (o.slot < x.slot) || (x.slot == o.slot && decide (o.lane < x.lane)))
  q.takeWhile (fun x => !later x) ++ o :: q.dropWhile (fun x => !later x)

/-- R382, R386: every group of the context parks; the survey record tells cause, detail and program counter. DESIGN CHOICE, log 40. -/
def parkCtx (s : State) (ctx cause detail pc : Nat) : State :=
  { s with ctxs := Map.modify s.ctxs ctx (fun c => { c with parked := some (cause, detail, pc) }) }

/-- Whether a context delivers traps to handler groups (TVCTL.EN, R382). DESIGN CHOICE, log 40. -/
def trapsOn (s : State) (ctx : Nat) : Bool :=
  match Map.find s.ctxs ctx with
  | some c => bit c.tvctl 0
  | none => false

/-- The lanes that are origins, and MASK (R379). ACC_NOT_OWNED supplies one for each lane, those outside the active mask as
fillers of kind 3 (R414). DEDUCED, log 29. -/
def Trap.originLanes (t : Trap) (act : Mask) : List Nat :=
  if t.cause == cAccNotOwned then lanes32 else if t.lanes == 0 then [lowLane act] else lanesOf t.lanes
def Trap.maskOf (t : Trap) (act : Mask) : Mask := t.mask.getD (if t.lanes == 0 then act else t.lanes)

/-- The origin of one lane. -/
def mkOrigin (s : State) (r : Raiser) (g : Group) (t : Trap) (id lane : Nat) : Origin :=
  { id := id, ctx := g.ctx, core := g.core, gid := r.gid, slot := g.slot, remote := none,
    kind := if t.cause == cAccNotOwned && !r.act.getLsbD lane then 3 else r.kind,
    cause := t.cause, detail := t.detail, pc := r.pc, pos := r.pos, lane := lane, mask := t.maskOf r.act,
    addr := Map.get 0 t.addr lane, aux := t.aux, ref := r.ref, dst := t.dst, tick := s.clk / 10 }

/-- TAKING A TRAP. An ordinary group's lanes become origins in its core's trap queue and the group parks until they
are resolved (R383, R387); with TVCTL.EN 0 the whole context parks (R382). A trap in a handler group parks the
context and is not queued (R386). DESIGN CHOICE, log 40. -/
def raiseTrap (s : State) (r : Raiser) (t : Trap) : State :=
  match Map.find s.groups r.gid with
  | none => s
  | some g =>
    if g.handler.isSome then parkCtx s g.ctx t.cause t.detail r.pc
    else
      let os := (t.originLanes r.act).mapIdx (fun i lane => mkOrigin s r g t (s.nextId + i) lane)
      let core := Map.get Core.reset s.cores g.core
      let g1 := { g with openOrg := g.openOrg ++ os.map Origin.id }
      let s1 := { s with
        nextId := s.nextId + os.length,
        machChk := if t.cause == cMachine then s.machChk + 1 else s.machChk,
        groups := Map.put s.groups r.gid g1,
        cores := Map.put s.cores g.core { core with
          trapq := os.foldl queueOrigin core.trapq,
          aown := if t.cause == cAccNotOwned then core.aown ||| 0x80 else core.aown } }
      if trapsOn s g.ctx then s1 else parkCtx s1 g.ctx t.cause t.detail r.pc

/-- Applies an effect of the issuing instruction, or takes its precise trap with no other effect (R71, R379). An instruction that
is held has not issued: nothing changes, and the state names no issuer any more. DESIGN CHOICE, log 3. -/
def finishGroup (s : State) (c : Iss) : Res State → Host.Outcome State Fault Refusal
  | .ok s' => .next s'
  | .error .wait => .next { s with cur := none }
  | .error (.trap t) =>
    .next (raiseTrap s { gid := c.gid, pos := c.pos, pc := c.sp.pc, act := c.act, kind := 0, ref := 0 } t)

/-- An instruction of a group, issued by the split the state names. DESIGN CHOICE, log 3, 6. -/
def asGroup (gd : Guard) (s : State) (f : Iss → Res State) : Host.Outcome State Fault Refusal :=
  match issuer s gd with
  | none => .fault .noIssuer
  | some c => finishGroup s c (f c)

/-- A per-group instruction (R62): it passes on with no effect when its guard holds in no active lane. DEDUCED, log 29. -/
def asOnce (gd : Guard) (s : State) (f : Iss → Res State) : Host.Outcome State Fault Refusal :=
  asGroup gd s (fun c => if c.on == 0 then .ok (c.done s c.g) else f c)

/-! ### Handler groups (R384) and the return from a trap (R390) -/

/-- A split that has just begun at a program counter (R89). -/
def Split.start (pc : Nat) (mask : Mask) : Split :=
  { pc, mask, link := none, demoted := [], isDem := false, demNew := false, passed := 0, line := none, entered := false, wait := .none, only := none }

/-- A group with no lanes' registers set, in one split at `pc` with `mask`. DESIGN CHOICE, log 56. -/
def Group.fresh (ctx core slot part budget pc : Nat) (mask : Mask) : Group :=
  { ctx, core, slot, part, team := 0, idx := 0, handler := none, lanes := [], served := 0, root := 0, sup := false, budget, role := 0, prio := 0,
    v := (List.range 31).map (fun l => (l + 1, BitVec.ofNat 32 (l + 1))), s := [], p := [], pd := [], th := [],
    thType := [], cf := [], ocCopy := 0, ocMat := 0, ocGath := 0, ocColl := 0, fpf := 0, mxc := 0, gerr := 0,
    planeSeq := 0, gridCount := 0, acks := 0, lastIssue := 0, urgent := false, throttled := false, lastFar := 0,
    lastSplit := 3, exited := ~~~mask,
    splits := [(0, Split.start pc mask)],
    recs := [], entries := [], red := [], redUpTo := 0, held := [], openOrg := [], resolved := [], raced := [], poison := [],
    stack := 0, stackLow := 0, saved := none, queue := 0, codeBase := 0, codeLines := 0, exiting := false, stopped := false }

/-- R384: v1 to v7 of a handler lane. -/
def Origin.regs (o : Origin) : List (Nat × Word) :=
  let w (n : Nat) : Word := BitVec.ofNat 32 n
  [(1, w o.pc), (2, w (o.pc / 2 ^ 32 % 2 ^ 24 + o.detail % 256 * 2 ^ 24)),
   (3, w (o.core % 256 + o.slot % 1024 * 2 ^ 8 + o.pos % 4 * 2 ^ 18 + o.lane % 32 * 2 ^ 20 + o.kind % 4 * 2 ^ 25 +
          (if o.remote.isSome then 2 ^ 27 else 0))),
   (4, w o.addr.toNat), (5, w (o.addr.toNat / 2 ^ 32)), (6, o.mask), (7, w (o.aux % 2 ^ 16))]

/-- ENTRY OF A HANDLER GROUP (R384): origin i is handler lane i; lanes beyond the count are exited. -/
def handlerGroup (s : State) (c : Ctx) (ctx core slot : Nat) (os : List Origin) : Group :=
  let mask := maskOf (fun l => decide (l < os.length))
  let g := Group.fresh ctx core (1024 + slot) (4 * slot) 64 (c.tventry.toNat) mask
  let base := c.tvstack.toNat + 2 ^ 14 * (4 * core + slot)
  let v := (os.mapIdx (fun i o => o.regs.map (fun r => (32 * r.1 + i, r.2)))).flatten.foldl
    (fun m r => Map.set 0 m r.1 r.2) g.v
  { g with handler := some slot, lanes := os, root := c.tvroot, sup := true, v := v,
           s := Map.set 0 [] 63 (BitVec.ofNat 64 (base + 2 ^ 14)), stackLow := base, lastIssue := s.clk / 10 }

/-- RETURN FROM A TRAP (R390): one origin is resolved; its group applies the resolution when no origin is left (R387). -/
def resolveOrigin (s : State) (o : Origin) (mode : Nat) (regs : List Word) : State :=
  { s with groups := Map.modify s.groups o.gid (fun g =>
      if g.openOrg.contains o.id then
        { g with openOrg := g.openOrg.filter (· != o.id), resolved := g.resolved ++ [{ origin := o, mode, regs }] }
      else g) }

/-- A group holds an origin that is not resolved, or a resolution that is not applied (R387). -/
def Group.parked (g : Group) : Bool := !g.openOrg.isEmpty || !g.resolved.isEmpty

end Sys2Proof.Machine
end

