-- ==== Sys2Proof/Machine/Flags.lean ====
section
/-!
DEFINITION. The sticky flags FPF (R121, R123) and the matrix exception counters MXC (R122) of a group.
-/
namespace Sys2Proof.Machine

/-- The FPF bits of flags as `Float` numbers them (IV 1, DZ 2, OF 4, UF 8, NX 16). -/
def fpfBits (fl : Nat) : DWord := BitVec.ofNat 64 (fl % 32)

/-- R121: flags are only ever set. -/
def Group.raise (g : Group) (fl : Nat) : Group := { g with fpf := g.fpf ||| fpfBits fl }

/-- One MXC counter after `n` more elements; it stops at 0xFFFF (R122). -/
def capCount (old n : Nat) : Nat := min 0xFFFF (old + n)

/-- R122: the four counters INV, OVF, UNF, IWRAP after a pass that counted so many elements in each. -/
def Group.countMxc (g : Group) (inv ovf unf iwrap : Nat) : Group :=
  let c (k n : Nat) : Nat := capCount (bits g.mxc (16 * k + 15) (16 * k)) n * 2 ^ (16 * k)
  { g with mxc := BitVec.ofNat 64 (c 0 inv + c 1 ovf + c 2 unf + c 3 iwrap) }

/-- R121: SWR writes the whole register; reserved bits read zero (R9). -/
def Group.setFpf (g : Group) (x : DWord) : Group := { g with fpf := x &&& 31 }

end Sys2Proof.Machine
end

