-- ==== Sys2Proof/Machine/Operands.lean ====
section
/-!
DEFINITION. Every operand form: the operands of formats L and S (R63, R69), the lane addresses of format M (R258), the
pairs, barrier names and triggers of format E (R68), and which registers an instruction names (R31, R58, R392).
-/
namespace Sys2Proof.Machine

/-! ### Formats L and S -/

/-- R63: a format L operand in one lane: a v register, the low half of an s register, or the immediate. -/
def Iss.lOperand (c : Iss) (k : Kind) (r : BitVec 8) (imm : Word) (l : Nat) : Word :=
  match k with
  | .vec => c.g.rdV c.fc r.toNat l
  | .sca => (c.g.rdS c.fc r.toNat).setWidth 32
  | .imm => imm

def Iss.lA (c : Iss) (f : LFmt) (l : Nat) : Word := c.lOperand f.ka f.r.a f.imm l
def Iss.lB (c : Iss) (f : LFmt) (l : Nat) : Word := c.lOperand f.kb f.r.b f.imm l
def Iss.lC (c : Iss) (f : LFmt) (l : Nat) : Word := c.lOperand f.kc f.r.c f.imm l

/-- A predicate operand's bit in a lane. -/
def Iss.pBit (c : Iss) (r : BitVec 8) (l : Nat) : Bool := (c.g.rdP c.fc r.toNat).getLsbD l

/-- R69: the immediate of format S, extended by type. -/
def sImm (t : STy) (imm : Word) : DWord :=
  match t with
  | .i64 | .i32 => imm.signExtend 64
  | _ => imm.setWidth 64

/-- R126: a format S operand as 64 bits. -/
def Iss.sOperand (c : Iss) (t : STy) (k : Kind) (r : BitVec 8) (imm : Word) : DWord :=
  if k == .imm then sImm t imm else c.g.rdS c.fc r.toNat

def Iss.sA (c : Iss) (f : SFmt) : DWord := c.sOperand f.ty f.ka f.r.a f.imm
def Iss.sB (c : Iss) (f : SFmt) : DWord := c.sOperand f.ty f.kb f.r.b f.imm
def Iss.sC (c : Iss) (f : SFmt) : DWord := c.sOperand f.ty f.kc f.r.c f.imm

/-- R126: the width a scalar type works on. -/
def sBitsOf : STy → Nat
  | .i32 | .u32 => 32 | _ => 64

def sSignedOf : STy → Bool
  | .i64 | .i32 => true | _ => false

/-- An operand's value under a type. -/
def sVal (t : STy) (x : DWord) : Int :=
  if sSignedOf t then toSigned (sBitsOf t) x.toNat else ((x.toNat % 2 ^ sBitsOf t : Nat) : Int)

/-- R126: a result wrapped modulo 2^w and extended to 64 bits. -/
def sResult (t : STy) (v : Int) : DWord :=
  let x := ofInt (sBitsOf t) v
  if t == .i32 then BitVec.ofNat 64 (ofInt 64 (toSigned 32 x)) else BitVec.ofNat 64 x

/-! ### Format M -/

/-- R66, R258: the offset; ATOM and RED keep the type in its four high bits (R264). -/
def mOffset (f : MFmt) (atomic : Bool) : DWord :=
  if atomic then BitVec.ofNat 64 (ofInt 64 (toSigned 28 f.ofs.toNat)) else f.ofs.signExtend 64

/-- R258: A(l). -/
def Iss.laneAddr (c : Iss) (f : MFmt) (atomic : Bool) (l : Nat) : DWord :=
  let ofs := mOffset f atomic
  if f.vAddr then
    let lo := c.g.rdV c.fc f.r.a.toNat l
    if f.spc == .tm then lo.setWidth 64 + ofs
    else (c.g.rdV c.fc (f.r.a.toNat + 1) l ++ lo) + ofs
  else
    let base := c.g.rdS c.fc f.r.a.toNat
    let idx := BitVec.ofNat 64 (l * f.wid.bytes)
    if f.spc == .tm then (base.setWidth 32).setWidth 64 + ofs + idx else base + ofs + idx

/-- R259: the active lanes whose address is not a multiple of `w`. -/
def misaligned (addr : Nat → DWord) (on : Mask) (w : Nat) : Mask :=
  maskOf (fun l => on.getLsbD l && (addr l).toNat % w != 0)

/-- The addresses of the active lanes, by lane. -/
def laneAddrs (addr : Nat → DWord) (on : Mask) : SMap DWord := (lanesOf on).map (fun l => (l, addr l))

/-- R262: the data of a lane: the registers from `r` upward, `n` bytes of them. -/
def Iss.laneData (c : Iss) (r n l : Nat) : BitVec 128 :=
  let w (k : Nat) : BitVec 128 := (c.g.rdV c.fc (r + k) l).setWidth 128 <<< (32 * k)
  let x := (List.range ((n + 3) / 4)).foldl (fun a k => a ||| w k) 0
  BitVec.ofNat 128 (x.toNat % 2 ^ (8 * n))

/-! ### Format E -/

/-- Words 0 and 1 of the pair named by REC. -/
def Iss.pair0 (c : Iss) (f : EFmt) : DWord := c.g.rdS c.fc f.pair.toNat
def Iss.pair1 (c : Iss) (f : EFmt) : DWord := c.g.rdS c.fc (f.pair.toNat + 1)

/-- The barrier address of BAR, where BV names one. -/
def Iss.barAddr (c : Iss) (f : EFmt) : Option DWord := if f.bv then some (c.g.rdS c.fc f.bar.toNat) else none

/-! ### The registers an instruction names -/

/-- Register files. -/
inductive UFile where
  | v | s | p | pd | th | acc
  deriving DecidableEq, Repr

/-- Consecutive registers an instruction names, written or read; neither where it only names them (R192). -/
structure Use where
  file : UFile
  reg  : Nat
  n    : Nat
  wr   : Bool
  rd   : Bool
  deriving DecidableEq, Repr

/-- The use of a field; `d` is what a 4-bit field names. -/
def useOf (r : RFile) (d : UFile) (x : BitVec 8) (n : Nat) (wr : Bool) : List Use :=
  match r with
  | .v => [⟨.v, x.toNat, n, wr, !wr⟩]
  | .s => [⟨.s, x.toNat, n, wr, !wr⟩]
  | .p | .pdst => [⟨.p, x.toNat, 1, wr, !wr⟩]
  | .d16 => [⟨d, x.toNat, n, wr, !wr⟩]
  | .none => []

/-- The file of a format L operand. -/
def lFile (u : LUse) (k : Kind) : RFile :=
  match u with
  | .any => kindReg k
  | .pred => .p
  | .none => .none

def sFile (u : LUse) (k : Kind) : RFile :=
  match u with
  | .any => if k == .imm then .none else .s
  | .pred => .p
  | .none => .none

/-- The guard of an instruction (R60). -/
def guardOf (i : Instr) : Guard :=
  match i.shape with
  | .l _ _ _ f => f.r.g
  | .p _ _ _ f => f.r.g
  | .m _ _ _ f => f.r.g
  | .b _ _ _ f => f.r.g
  | .e _ _ _ f => f.r.g
  | .s _ _ _ f => f.r.g
  | .scribe _ | .row => { p := 0, neg := false }

/-- The registers an instruction names beside its guard. PDSET names the register it puts into a descriptor, and does not
read it (R192). -/
def operandUses (i : Instr) : List Use :=
  match i.shape with
  | .l _ _ n f =>
    let q := lSpec n f
    useOf q.dst .pd f.r.dst 1 true ++ (if n == 0x26 then useOf .v .pd f.r.dst 1 false else []) ++
    useOf (lFile q.a f.ka) .pd f.r.a 1 false ++ useOf (lFile q.b f.kb) .pd f.r.b 1 false ++
    useOf (lFile q.c f.kc) .pd f.r.c 1 false
  | .p _ _ n f =>
    let q := pSpec n f
    let us := useOf q.dst .pd f.r.dst 1 true ++ useOf q.a .pd f.r.a 1 false ++ useOf q.b .pd f.r.b 1 false ++
      useOf q.c .pd f.r.c 1 false
    if n == 0x01 then us.map (fun u => { u with rd := u.rd && u.file != .v }) else us
  | .m _ _ n f =>
    let q := mSpec n f
    let w := mRegs n f
    useOf q.dst .th f.r.dst w true ++
    (if f.vAddr then useOf .v .th f.r.a (mAddrRegs f) false else useOf q.a .th f.r.a 1 false) ++
    useOf q.b .th f.r.b w (q.b == .pdst) ++ useOf q.c .th f.r.c w false
  | .b _ _ n f =>
    let q := bSpec n f
    useOf q.dst .pd f.r.dst 1 true ++ (if n == 0x24 then useOf .s .pd f.r.dst 1 false else []) ++ useOf q.a .pd f.r.a 1 false
  | .e _ _ n f =>
    let q := eSpec n f
    useOf q.dst .acc f.r.dst q.nDst true ++ useOf q.a .acc f.r.a q.nA false ++
    useOf q.b (if n == 0x51 then .th else .acc) f.r.b q.nB false ++ useOf q.c .acc f.r.c 1 false ++
    (if q.pair then [⟨.s, f.pair.toNat, 2, n == 0x20, n != 0x20⟩] else []) ++
    (if f.bv then [⟨.s, f.bar.toNat, 1, false, true⟩] else []) ++ (if f.tv then [⟨.s, f.trg.toNat, 1, false, true⟩] else [])
  | .s _ _ n f =>
    let q := sSpec n f
    useOf q.dst .pd f.r.dst 1 true ++ useOf (sFile q.a f.ka) .pd f.r.a 1 false ++
    useOf (sFile q.b f.kb) .pd f.r.b 1 false ++ useOf (sFile q.c f.kc) .pd f.r.c 1 false
  | .scribe _ | .row => []

def guardUses (g : Guard) : List Use := if g.p == 0 then [] else [⟨.p, g.p.toNat, 1, false, true⟩]

/-- R31, R58: the registers an instruction names, its guard first. -/
def usesOf (i : Instr) : List Use := guardUses (guardOf i) ++ operandUses i

/-- R31: a v register at or beyond the budget is named. -/
def overBudget (us : List Use) (b : Nat) : Bool := us.any (fun u => u.file == .v && decide (b < u.reg + u.n))

/-- R58: instruction `j` reads or writes a register that `i` writes. DEDUCED, log 18. -/
def pairConflict (i j : List Use) : Bool :=
  i.any (fun u => u.wr && j.any (fun w =>
    (w.wr || w.rd) && u.file == w.file && decide (u.reg < w.reg + w.n) && decide (w.reg < u.reg + u.n)))

/-- R392: a register of a use that is read in the lanes `on` is poisoned. DESIGN CHOICE, log 72. -/
def Use.poisoned (p : List Nat) (on : Mask) (u : Use) : Bool :=
  u.rd && (List.range u.n).any (fun k =>
    match u.file with
    | .v => (lanesOf on).any (fun l => p.contains (keyV (u.reg + k) l))
    | .s => p.contains (keyS (u.reg + k))
    | .p => (lanesOf on).any (fun l => p.contains (keyP (u.reg + k) l))
    | .pd => p.contains (keyPd (u.reg + k))
    | .th => p.contains (keyTh (u.reg + k))
    | .acc => false)

end Sys2Proof.Machine
end

