-- ==== Sys2Proof/Machine/Fetch.lean ====
section
/-!
DEFINITION. Fetch lines and their line words (R48 to R53, R72), and the check of a transfer's target (R57).
-/
namespace Sys2Proof.Machine

/-- The line of 64 bytes, little-endian (R48). -/
def lineOf (bs : List Byte) : Line := BitVec.ofNat 512 (leNat bs)

/-- The line word (R50). -/
def lineWord (l : Line) : Word := BitVec.ofNat 32 (l.toNat / 2 ^ 480)

/-- Slot i (R48). -/
def lineSlot (l : Line) (i : Nat) : Slot := BitVec.ofNat 96 (l.toNat / 2 ^ (96 * i))

/-- The slot number of a program counter (R49). -/
def slotOf (pc : Nat) : Nat := pc % 64 / 12

/-- The fields of R50. -/
def lwWait (w : Word) : Nat := bits w 11 0
def lwFlagX (w : Word) : BitVec 4 := BitVec.ofNat 4 (bits w 15 12)
def lwFlagY (w : Word) : BitVec 4 := BitVec.ofNat 4 (bits w 19 16)
def lwTgt (w : Word) (slot : Nat) : Bool := bit w (20 + slot)
def lwPair (w : Word) (slot : Nat) : Bool := slot < 4 && bit w (25 + slot)

/-- Whether the bits [hi:lo] of a line hold an odd number of ones. -/
def oddOnes (l : Line) (lo n : Nat) : Bool := popcount n (l.toNat / 2 ^ lo % 2 ^ n) % 2 == 1

/-- R50, R51: both parity checks. -/
def parityOk (l : Line) : Bool :=
  bit (lineWord l) 30 == oddOnes l 0 256 && bit (lineWord l) 31 == oddOnes l 256 224

/-- The table root a group translates through (R249): a handler group keeps the one it started with (R382, R384). -/
def rootOf (s : State) (g : Group) : Nat :=
  match Map.find s.ctxs g.ctx with
  | none => 0
  | some c => if g.handler.isSome then g.root.toNat else c.ptrootUsed.toNat

/-- The key of a fetched line in its core's instruction caches: table root, context and line. -/
def lineKey (s : State) (g : Group) (va : Nat) : Nat := (64 * rootOf s g + g.ctx) * 2 ^ 50 + va / 64

/-- The context of a fetched line. -/
def lineCtx (key : Nat) : Nat := key / 2 ^ 50 % 64

/-- R72: the line at an address through the group's translation with execute permission. `refill` reads memory even
where the core's caches hold a copy; a copy that fails parity is fetched once more from memory (R51). DESIGN CHOICE, log 16. -/
def peekLine (s : State) (g : Group) (va : Nat) (refill : Bool) : Except (Nat × Nat) (Line × State) := do
  let (t, s1) ← xlate s g.core g.ctx (rootOf s g) (BitVec.ofNat 64 va) .x
  match t with
  | .peer _ => .error (cFetchPerm, 0)
  | .loc pa size repl _ =>
    let at64 := if repl then pa + coreDie g.core * size else pa
    let fromMem := lineOf (s.rd (at64 / 64 * 64) 64)
    let core := Map.get Core.reset s.cores g.core
    let first := match Map.find core.icache (lineKey s g va) with
      | some l => if refill then fromMem else l
      | none => fromMem
    let line := if parityOk first then first else fromMem
    if !parityOk line then .error (cMachine, 1)
    else if poisoned s.poison (at64 / 64 * 64) 64 then .error (cMachine, 2)
    else
      return (line, { s1 with
        cores := Map.put s1.cores g.core { core with icache := Map.put core.icache (lineKey s g va) line } })

/-- A fetch fault as the trap of the instruction that needs the line. DEDUCED, log 28. -/
def fetchTrap (e : Nat × Nat) (va : Nat) (lane : Nat) : Trap :=
  { cause := e.1, detail := e.2, addr := [(lane, BitVec.ofNat 64 (va / 64 * 64))] }

/-- R57: the target line of a transfer and the state that holds it, or the transfer's precise trap. Which copy of a
line is fetched is free until an IFENCE (R72). -/
def targetLine (s : State) (g : Group) (pc lane : Nat) : Res (Line × State) :=
  match peekLine s g pc (!Config.useOld (s.free * 2 ^ 64 + pc)) with
  | .error e => .error (.trap (fetchTrap e pc lane))
  | .ok (line, s1) =>
    if lwTgt (lineWord line) (slotOf pc) then .ok (line, s1) else .error (.trap { cause := cBadTarget })

/-- A split that enters a fetched line by a transfer: a new clause begins (R52). -/
def Split.enter (sp : Split) (pc : Nat) (line : Line) : Split :=
  { sp with pc := pc, only := none, line := some line, entered := false }

/-- R67: the program counter a format B instruction names. -/
def branchPc (pc : Nat) (off : BitVec 20) (slot : BitVec 3) : Nat :=
  ofInt 64 (((pc / 64 * 64 : Nat) : Int) + 64 * toSigned 20 off.toNat) + 12 * slot.toNat

/-- R138: the code position of a slot, and back. -/
def codePos (g : Group) (pc : Nat) : Word := BitVec.ofNat 32 ((pc / 64 * 64 - g.codeBase) / 64 * 8 + slotOf pc)
def posPc (g : Group) (w : Word) : Option Nat :=
  let slot := w.toNat % 8
  let line := w.toNat / 8
  if slot ≤ 4 && line < g.codeLines then some (g.codeBase + 64 * line + 12 * slot) else none

end Sys2Proof.Machine
end

