-- ==== Sys2Proof/Machine/Diverge.lean ====
section
/-!
DEFINITION. Splits and join records: the events of R90, the reconvergence stack and its spill (R91 to R94).
-/
namespace Sys2Proof.Machine

/-- The lowest free split position. -/
def Group.freePos (g : Group) : Option Nat := lowestFree (Map.keys g.splits) 4 0

def Group.findRec (g : Group) (num : Nat) : Option JoinRec := g.recs.find? (fun r => r.num == num)

/-- Replaces a record by its number. -/
def Group.putRec (g : Group) (r : JoinRec) : Group :=
  { g with recs := g.recs.map (fun q => if q.num == r.num then r else q) }

/-- A new record with the lowest free number, none when 65,535 are live (R93). -/
def Group.newRec (g : Group) (r : JoinRec) : Option (Group × Nat) :=
  (lowestFree (g.recs.map JoinRec.num) 0xFFFF 0).map (fun n => ({ g with recs := g.recs ++ [{ r with num := n }] }, n))

/-- The chain of records from a link outward: at most `n` of them (R90). -/
def Group.chain (g : Group) : Nat → Option Nat → List JoinRec
  | 0, _ => []
  | _ + 1, none => []
  | n + 1, some k =>
    match g.findRec k with
    | none => []
    | some r => r :: Group.chain g n r.outer

/-- A record's fields at creation. -/
def mkRec (kind rpc : Nat) (exp : Mask) (outer : Option Nat) (place : Place) : JoinRec :=
  { num := 0, kind, rpc, exp, arr := 0, d := false, dpc := 0, dmask := 0, outer, complete := false, place }

/-- R88: a new split takes a position: what an earlier split of that position had in flight, and what other splits
waited for there, does not concern it. -/
def Group.newSplit (g : Group) (pos : Nat) (sp : Split) : Group :=
  { g with
    splits := Map.put (g.splits.map (fun p => (p.1, { p.2 with demoted := p.2.demoted.filter (· != pos) }))) pos sp
    entries := g.entries.map (fun e => if e.pos == pos then { e with mine := false } else e) }

/-- R90: lanes exit. They leave their splits and every record; a deferred side left with no lanes ends. -/
def Group.exitLanes (g : Group) (m : Mask) : Group :=
  { g with
    exited := g.exited ||| m,
    splits := (g.splits.map (fun p => (p.1, { p.2 with mask := maskMinus p.2.mask m,
                                                       only := p.2.only.map (fun o => maskMinus o m) }))).filter
                (fun p => p.2.mask != 0),
    recs := g.recs.map (fun r =>
      { r with exp := maskMinus r.exp m, arr := maskMinus r.arr m, dmask := maskMinus r.dmask m,
               d := r.d && maskMinus r.dmask m != 0 }) }

/-- A record that has completed and formed its split, or needed none. -/
def JoinRec.dead (r : JoinRec) : Bool := r.complete && r.arr == 0

/-- A record that has completed and whose lanes wait for a split position (R90). -/
def JoinRec.heldRec (r : JoinRec) : Bool := r.complete && r.arr != 0

/-- What a resumption at a reconvergence address met: the slot, its lanes, the record and the trap (R57). -/
structure FormTrap where
  pc   : Nat
  pos  : Nat
  mask : Mask
  num  : Nat
  trap : Trap
  deriving DecidableEq, Repr

/-- R90, R57: a held record forms its split at a position; the slot it would enter is the origin where its line cannot
be fetched or is no target. DEDUCED, log 28. -/
def formSplit (s : State) (g : Group) (r : JoinRec) (pos : Nat) : Except FormTrap (Group × State) :=
  match targetLine s g r.rpc (lowLane r.arr) with
  | .error (.trap t) => .error { pc := r.rpc, pos, mask := r.arr, num := r.num, trap := t }
  | .error .wait => .error { pc := r.rpc, pos, mask := r.arr, num := r.num, trap := { cause := cBadTarget } }
  | .ok (line, s1) =>
    .ok ((g.putRec { r with arr := 0 }).newSplit pos
      { pc := r.rpc, mask := r.arr, link := r.outer, demoted := [], isDem := false, demNew := false, passed := 0, line := some line, entered := false,
        wait := .none, only := none }, s1)

/-- A split that has finished its instruction: it neither waits nor issues again. -/
def Split.settled (sp : Split) : Bool := sp.wait == .none && sp.only == none

/-- The first live split that has reached its record's RPC. -/
def Group.arrival (g : Group) : Option (Nat × Split × JoinRec) :=
  g.splits.findSome? (fun p =>
    match p.2.link with
    | none => none
    | some n =>
      match g.findRec n with
      | none => none
      | some r => if p.2.settled && p.2.pc == r.rpc then some (p.1, p.2, r) else none)

/-- Two live splits with equal program counter and equal link, the lower position first. -/
def Group.mergePair (g : Group) : Option (Nat × Nat) :=
  g.splits.findSome? (fun p => g.splits.findSome? (fun q =>
    if decide (p.1 < q.1) && p.2.pc == q.2.pc && p.2.link == q.2.link && p.2.settled && q.2.settled then some (p.1, q.1)
    else none))

/-- R90: two splits merge at the lower position, whose demotion and whose copy of the line stay; a CAS in flight of the higher one
demotes nothing any more. Where one of the two is at the entry of its clause, the merged split is too. DEDUCED, log 26. -/
def Group.merge (g : Group) (a b : Nat) : Group :=
  match Map.find g.splits a, Map.find g.splits b with
  | some p, some q =>
    let m := { p with mask := p.mask ||| q.mask, line := p.line.orElse (fun _ => q.line),
                      entered := p.entered && q.entered }
    { g with splits := Map.put (Map.del g.splits b) a m }
  | _, _ => g

/-- The newest element of a list that satisfies `f`. -/
def newest {α : Type} (l : List α) (f : α → Bool) : Option α := (l.filter f).getLast?

/-- R91: a record of the split table that is no longer the link of a live split enters the stack, unless it is about to
complete; a finished record of the split table is discarded at once. -/
def Group.place (g : Group) : Group :=
  let linked (n : Nat) : Bool := g.splits.any (fun p => p.2.link == some n)
  { g with recs := (g.recs.filter (fun r => !(r.dead && r.place == .table))).map (fun r =>
      if r.place == .table && !linked r.num && (r.exp != 0 || r.complete) then { r with place := .entering } else r) }

/-- The next event of R90: arrival, completion innermost first, a split for a completed record, a merge, a deferred
side or a held record served newest first. None when nothing is left. -/
def rejoin1 (s : State) (g : Group) : Option (Except FormTrap (Group × State)) :=
  match g.arrival with
  | some (pos, sp, r) =>
    some (.ok ({ g with splits := Map.del g.splits pos }.putRec
      { r with exp := maskMinus r.exp sp.mask, arr := r.arr ||| sp.mask }, s))
  | none =>
    match newest g.recs (fun r => r.exp == 0 && !r.complete) with
    | some r =>
      let r1 := { r with complete := true, d := false }
      match g.freePos with
      | some pos => if r.arr == 0 then some (.ok (g.putRec r1, s)) else some (formSplit s (g.putRec r1) r1 pos)
      | none => some (.ok (g.putRec r1, s))
    | none =>
      match g.mergePair with
      | some (a, b) => some (.ok (g.merge a b, s))
      | none =>
        match g.freePos, newest g.recs (fun r => r.heldRec || (r.d && !r.complete)) with
        | some pos, some r =>
          if r.complete then some (formSplit s g r pos)
          else
            some (.ok ((g.putRec { r with d := false, dmask := 0 }).newSplit pos
              { pc := r.dpc, mask := r.dmask, link := some r.num, demoted := [], isDem := false, demNew := false, passed := 0, line := none,
                entered := false, wait := .none, only := none }, s))
        | _, _ => none

/-! ### The stack and its spill (R92 to R94) -/

/-- R93: a spilled record. -/
def JoinRec.pack (r : JoinRec) : List Byte :=
  leBytes 8 (r.dpc % 2 ^ 56 + r.kind % 4 * 2 ^ 56 + (if r.d then 2 ^ 63 else 0)) ++
  leBytes 8 (r.rpc % 2 ^ 56 + (if r.complete then 2 ^ 63 else 0)) ++
  leBytes 4 r.exp.toNat ++ leBytes 4 r.arr.toNat ++ leBytes 4 r.dmask.toNat ++ leBytes 2 r.num ++
  leBytes 2 (r.outer.getD 0xFFFF)

/-- R93, R94: the record read back: reserved bits ignored, KIND 11 read as 00, masks kept to lanes not exited. -/
def JoinRec.unpack (r : JoinRec) (b : List Byte) (live : Mask) : JoinRec :=
  let w0 := leAt b 0 8
  let w1 := leAt b 8 8
  let k := w0 / 2 ^ 56 % 4
  let o := leAt b 30 2
  let dm := BitVec.ofNat 32 (leAt b 24 4) &&& live
  { r with kind := if k == 3 then 0 else k, rpc := w1 % 2 ^ 56, exp := BitVec.ofNat 32 (leAt b 16 4) &&& live,
           arr := BitVec.ofNat 32 (leAt b 20 4) &&& live, d := w0 / 2 ^ 63 == 1 && dm != 0, dpc := w0 % 2 ^ 56,
           dmask := dm, num := leAt b 28 2, outer := if o == 0xFFFF then none else some o,
           complete := w1 / 2 ^ 63 == 1 }

def JoinRec.depth (r : JoinRec) : Option Nat :=
  match r.place with
  | .spilled d => some d
  | _ => none

/-- R95: entries of the hardware stack, and records spilled. DEDUCED, log 27. -/
def Group.hwDepth (g : Group) : Nat := (g.recs.filter (fun r => r.place == .stack)).length
def Group.spilledCount (g : Group) : Nat := (g.recs.filter (fun r => r.depth.isSome)).length

/-- A spill access: 32 bytes of the group's own memory (R94), never a peer's. DEDUCED, log 38. -/
def spillRead (s : State) (g : Group) (va : DWord) : Except (Nat × Nat) (List Byte × State) := do
  let (t, s1) ← xlate s g.core g.ctx (rootOf s g) va .r
  match t with
  | .peer _ => .error (cPerm, 1)
  | .loc pa size repl _ =>
    if poisoned s.poison pa 32 then .error (cMachine, 2)
    else return (rdTgt s (coreDie g.core) pa size repl 32, s1)

/-- R94: a record is written to memory. DEDUCED, log 38. -/
def spillWrite (s : State) (gid : Nat) (g : Group) (va : DWord) (bs : List Byte) : Except (Nat × Nat) State := do
  let (t, s1) ← xlate s g.core g.ctx (rootOf s g) va .w
  match t with
  | .peer _ => .error (cPerm, 2)
  | .loc pa size repl prop =>
    if taggedIn s.tags pa 32 then .error (cBarOverwrite, 0)
    else return wrTgt s1 (g.writer gid) pa size repl prop bs

/-- The address of a spilled record: depth d of n lies at s63 + 32 (n - 1 - d) (R92). DEDUCED, log 38. -/
def Group.spillAddr (g : Group) (d : Nat) : DWord :=
  Map.get 0 g.s 63 + BitVec.ofNat 64 (32 * (g.spilledCount - 1 - d))

/-- R94: the records as memory now holds them, where it can be read. -/
def refreshSpilled (s : State) (g : Group) : Group :=
  if g.spilledCount == 0 then g
  else
    { g with recs := g.recs.map (fun r =>
        match r.depth with
        | none => r
        | some d =>
          match spillRead s g (g.spillAddr d) with
          | .ok (b, _) => r.unpack b (~~~g.exited)
          | .error _ => r) }

/-- The cause, detail and address of a spill access that failed. -/
abbrev SpillFault := Nat × Nat × DWord

/-- Whether a spilled record is as it was before an event. -/
def JoinRec.unchanged (old : Group) (r : JoinRec) : Bool :=
  old.recs.any (fun q => q.depth == r.depth && q.pack == r.pack)

/-- R92, R94: a change to a spilled record rewrites it in place; a record the event left alone is not written, also where s63 has
been written since. -/
def rewriteSpilled (s : State) (gid : Nat) (old g : Group) : Except SpillFault State :=
  g.recs.foldl (fun acc r =>
    match acc, r.depth with
    | .ok s, some d =>
      let va := g.spillAddr d
      if r.unchanged old then .ok s
      else
        match spillWrite s gid g va r.pack with
        | .error (c, e) => .error (c, e, va)
        | .ok s2 => .ok s2
    | acc, _ => acc) (.ok s)

/-- Puts a record in the place of one that is listed. -/
def Group.swapRec (g : Group) (old new : JoinRec) : Group :=
  { g with recs := g.recs.map (fun q => if q == old then new else q) }

/-- R92: the oldest entry of the hardware stack goes to memory. -/
def spillOldest (s : State) (gid : Nat) (g : Group) (old : JoinRec) : Except SpillFault (Group × State) :=
  let sp := Map.get 0 g.s 63
  let va := sp - 32
  if decide (va.toNat < g.stackLow) || decide (sp.toNat < 32) then .error (cMachine, 3, va)
  else
    match spillWrite s gid g va old.pack with
    | .error (c, e) => .error (c, e, va)
    | .ok s1 => .ok ({ (g.swapRec old { old with place := .spilled g.spilledCount }) with s := Map.set 0 g.s 63 va }, s1)

/-- R92: the record at s63 becomes the newest entry of an empty hardware stack. -/
def refillStack (s : State) (g : Group) (r : JoinRec) : Except SpillFault (Group × State) :=
  let sp := Map.get 0 g.s 63
  match spillRead s g sp with
  | .error (c, e) => .error (c, e, sp)
  | .ok (b, s1) =>
    .ok ({ (g.swapRec r { r.unpack b (~~~g.exited) with place := .stack }) with s := Map.set 0 g.s 63 (sp + 32) }, s1)

/-- One step of R91 and R92: a record enters the stack, after the oldest of 32 held entries has made room for it; the newest
entry is discarded when it is finished; a record is read back into an empty stack. -/
def stack1 (s : State) (gid : Nat) (g : Group) : Option (Except SpillFault (Group × State)) :=
  let hw := g.recs.filter (fun r => r.place == .stack)
  match g.recs.find? (fun r => r.place == .entering) with
  | some r =>
    match hw with
    | old :: _ => if 32 ≤ hw.length then some (spillOldest s gid g old) else some (.ok (g.swapRec r { r with place := .stack }, s))
    | [] => some (.ok (g.swapRec r { r with place := .stack }, s))
  | none =>
    match hw.getLast? with
    | some r => if r.dead then some (.ok ({ g with recs := g.recs.filter (· != r) }, s)) else none
    | none => (g.recs.find? (fun r => r.depth == some (g.spilledCount - 1))).map (refillStack s g)

/-- R94: records are refilled and dead ones dropped until the stack agrees. DEDUCED, log 26. -/
def stackSync (s : State) (gid : Nat) (g : Group) : Nat → Except SpillFault (Group × State)
  | 0 => .ok (g, s)
  | n + 1 =>
    match stack1 s gid g with
    | none => .ok (g, s)
    | some (.error e) => .error e
    | some (.ok (g1, s1)) => stackSync s1 gid g1 n

/-- What an event does beside R90: records move to the stack (R91), changed spilled records are rewritten, and the stack
spills or fills (R92). `old` is the group before the event. -/
def afterEvent (s : State) (gid : Nat) (old g : Group) : Except SpillFault (Group × State) :=
  let g1 := g.place
  match (if g1.spilledCount == 0 then .ok s else rewriteSpilled s gid old g1) with
  | .error e => .error e
  | .ok s1 => stackSync s1 gid g1 (4 * (g1.recs.length + 2))

/-- A record whose resumption trapped is complete and held. -/
def Group.holdRec (g : Group) (num : Nat) : Group :=
  { g with recs := g.recs.map (fun r => if r.num == num then { r with complete := true, d := false } else r) }

/-- The split whose arrival comes next, where it is one of those a settling began with. -/
def Group.arriver (g : Group) (first : SMap Split) : Option Nat :=
  g.arrival.bind (fun a => if Map.find first a.1 == some a.2.1 then some a.1 else none)

/-- R90 until nothing is left, or a resumption traps; each event is applied whole before the next. A spill fault names the split,
of those the settling began with, whose arrival led to it, where one did. DEDUCED, log 26. -/
def rejoin (gid : Nat) (first : SMap Split) :
    Nat → Option Nat → State → Group → Except (SpillFault × Option Nat) (State × Group × Option FormTrap)
  | 0, _, s, g => .ok (s, g, none)
  | n + 1, who0, s, g =>
    let who := (g.arriver first).orElse (fun _ => who0)
    match rejoin1 s g with
    | none => .ok (s, g, none)
    | some (.error t) =>
      match afterEvent s gid g (g.holdRec t.num) with
      | .error e => .error (e, who)
      | .ok (g1, s1) => .ok (s1, g1, some t)
    | some (.ok (g1, s1)) =>
      match afterEvent s1 gid g g1 with
      | .error e => .error (e, who)
      | .ok (g2, s2) => rejoin gid first n who s2 g2

/-- What settling a group may end in; `who` is the split whose arrival led to a spill fault. -/
inductive Settled where
  | ok (s : State)
  | spill (cause detail : Nat) (va : DWord) (who : Option Nat)
  deriving DecidableEq, Repr

/-- R90 to R94 for a group after an event that left it as `g`, where it was `old` before: its splits and records, and
its stack. A trapped resumption leaves the record held and queues its origin; a spill fault leaves the event undone, for
its caller to say whose it is. DEDUCED, log 26. -/
def settle (s : State) (gid : Nat) (old g : Group) : Settled :=
  match afterEvent s gid old g with
  | .error (c, d, va) => .spill c d va none
  | .ok (g1, s1) =>
    match rejoin gid g1.splits (16 * (g1.recs.length + 8)) none s1 g1 with
    | .error ((c, d, va), who) => .spill c d va who
    | .ok (s2, g2, none) => .ok (s2.putG gid g2)
    | .ok (s2, g2, some f) =>
      .ok (raiseTrap (s2.putG gid g2)
        { gid, pos := f.pos, pc := f.pc, act := f.mask, kind := 0, ref := 2 ^ 60 + f.num } f.trap)

end Sys2Proof.Machine
end

