-- ==== Sys2Proof/Machine/Ready.lean ====
section
/-!
DEFINITION. Completion flags, counters and the operand log (R54, R269, R380), which splits are ready (R84), and demotion
(R87, R88).
-/
namespace Sys2Proof.Machine

/-! ### Flags and counters -/

/-- R54: the flag an instruction chose, of a line word's two. -/
def flagOf (fs : FlagSel) (w : Word) : Option Nat :=
  match fs with
  | .none => Option.none
  | .x => some (lwFlagX w).toNat
  | .y => some (lwFlagY w).toNat

/-- The flag-select field of formats M and E. -/
def flagSelOf (i : Instr) : FlagSel :=
  match i.shape with
  | .m _ _ _ f => f.fs
  | .e _ _ _ f => f.fs
  | _ => .none

/-- R72: a split that has begun no clause in its line gives it up; one within a clause keeps the whole line. -/
def Split.unfetch (sp : Split) : Split := if sp.entered then sp else { sp with line := none }

/-- The line word of the line a split lies in. -/
def Split.word (sp : Split) : Word :=
  match sp.line with
  | some l => lineWord l
  | none => 0

/-- The flag that an instruction issued by this split marks. -/
def Iss.flag (c : Iss) (i : Instr) : Option Nat := flagOf (flagSelOf i) c.sp.word

/-- R54: the pending count goes up, at most to 63. -/
def Group.markFlag (g : Group) (n : Option Nat) : Group :=
  match n with
  | none => g
  | some k => { g with cf := Map.set 0 g.cf k (Map.get 0 g.cf k + 1) }

/-- The pending count goes down at completion. -/
def Group.dropFlag (g : Group) (n : Option Nat) : Group :=
  match n with
  | none => g
  | some k => { g with cf := Map.set 0 g.cf k (Map.get 0 g.cf k - 1) }

/-- A flag whose count is 63 takes no more (R54). -/
def Group.flagFull (g : Group) (n : Option Nat) : Bool :=
  match n with
  | none => false
  | some k => decide (63 ≤ Map.get 0 g.cf k)

/-- R269: the counters. -/
def Group.oc (g : Group) (c : OcClass) : Nat :=
  match c with
  | .copy => g.ocCopy | .mat => g.ocMat | .gath => g.ocGath | .coll => g.ocColl

def Group.setOc (g : Group) (c : OcClass) (n : Nat) : Group :=
  match c with
  | .copy => { g with ocCopy := n } | .mat => { g with ocMat := n }
  | .gath => { g with ocGath := n } | .coll => { g with ocColl := n }

/-- The next number of the device's own count. DESIGN CHOICE, log 97. -/
def State.takeId (s : State) : Nat × State := (s.nextId, { s with nextId := s.nextId + 1 })

/-- R380: entries of the operand log that are held. -/
def Group.logHeld (g : Group) : Nat := (g.entries.filter Entry.logged).length

/-- R380: instructions that take an entry of the operand log. -/
def logs (i : Instr) : Bool :=
  match i with
  | .ld _ | .st _ | .ldf _ | .stf _ | .atom _ | .thld _ | .thst _ | .presclr _ | .presclrSet _ | .prestest _
  | .launch _ => true
  | _ => false

/-- R96: instructions of a memory-bound group that the throttle holds. -/
def throttles (i : Instr) : Bool :=
  match i with
  | .cpyt _ | .gath _ | .gathTh _ | .scat _ | .ldf _ | .stf _ | .atom _ | .red _ => true
  | _ => false

/-- R96, R302, R304: the outstanding RED entries of a group: those in its share, those an advance of a barrier object drains
and those a wide barrier drains. -/
def redHeld (s : State) (gid : Nat) (g : Group) : List RedEntry :=
  g.red ++ (s.barRed.flatMap (fun x => x.2.2) ++ s.gridBars.flatMap GridBar.red).filter (fun r => r.gid == gid)

/-- R96: oc.copy, oc.gath, oc.coll and the outstanding LDF, STF, ATOM and RED instructions of a group exceed 4. -/
def memoryBound (s : State) (x : Nat × Group) : Bool :=
  let far (e : Entry) : Bool := match e.instr with
    | .ldf _ | .stf _ | .atom _ => true
    | _ => false
  decide (4 < x.2.ocCopy + x.2.ocGath + x.2.ocColl + (x.2.entries.filter far).length +
    ((redHeld s x.1 x.2).map RedEntry.id).eraseDups.length)

/-- The counter class an instruction counts in (R216, R269). -/
def countsIn (i : Instr) : Option OcClass :=
  match i with
  | .cpyt f | .trig f => some f.cc
  | .gath _ | .gathTh _ | .scat _ => some .gath
  | .mres _ | .mrel _ | .mmaQ _ | .mmaS _ | .mspmm _ | .mzero _ | .mfill _ | .mdrain _ | .mbypass _ | .accalloc _
  | .accfree _ | .mstat _ => some .mat
  | _ => none

/-! ### Ready splits -/

/-- R53: every flag the line word names is clear. -/
def waitClear (g : Group) (w : Word) : Bool :=
  (List.range 12).all (fun n => !(bit w n) || Map.get 0 g.cf n == 0)

/-- R59: a slot that holds no instruction. One whose PAIR bit is set is none: it breaks R58. -/
def nullSlot (line : Line) (k : Nat) : Bool := lineSlot line k == 0 && !lwPair (lineWord line) k

/-- The instruction of a split's slot in its fetched line, or the subcode it fails with (R70): line word bit 29 at entry to
the line, and the PAIR bit of an empty slot. None where no line is fetched and at a null slot. DEDUCED, log 93. -/
def Split.next (sp : Split) : Option (Except Nat Instr) :=
  match sp.line with
  | none => none
  | some line =>
    let w := lineWord line
    let k := slotOf sp.pc
    if bit w 29 && !sp.entered then some (.error 9)
    else if nullSlot line k then none
    else if lineSlot line k == 0 then some (.error 8)
    else some (decodeSlot (lwFlagX w) (lwFlagY w) (lineSlot line k))

/-- R59: a split that passes a null slot now. -/
def Split.overNull (sp : Split) : Bool :=
  sp.wait == .none && sp.line.isSome && sp.next.isNone

/-- R183: the v registers that pending collective plane operations of the group interlock. -/
def Group.planeRegs (g : Group) : List Nat :=
  g.splits.flatMap (fun p => match p.2.wait with | .plane _ rs => rs | _ => [])

/-- Whether an instruction names one of them. -/
def Group.planeHolds (g : Group) (i : Instr) : Bool :=
  let rs := g.planeRegs
  !rs.isEmpty && (usesOf i).any (fun u => u.file == .v && (u.rd || u.wr) && (List.range u.n).any (fun k => rs.contains (u.reg + k)))

/-- R54, R96, R183, R269, R380: what holds an instruction that marks a flag at issue. -/
def Group.holdsWith (g : Group) (flag : Option Nat) (i : Instr) : Bool :=
  g.planeHolds i || g.flagFull flag || (logs i && decide (8 ≤ g.logHeld)) || (g.throttled && throttles i) ||
  (match countsIn i with
   | some c => decide (255 ≤ g.oc c)
   | none => false)

/-- The same for an instruction in a line with its word. -/
def Group.holds (g : Group) (w : Word) (i : Instr) : Bool := g.holdsWith (flagOf (flagSelOf i) w) i

/-- R84: a live split is ready: its line is fetched, no clause WAIT holds it, it waits for nothing, and its next
instruction is not held. A set line word bit 29 traps at entry, before WAIT is met (R70). Pipes and interlocks take no
part in this model. DEDUCED, log 93. -/
def Split.ready (g : Group) (sp : Split) : Bool :=
  sp.wait == .none &&
  (match sp.next with
   | none => false
   | some (.error 9) => true
   | some (.error _) => sp.entered || waitClear g sp.word
   | some (.ok i) => (sp.entered || waitClear g sp.word) && !g.holds sp.word i)

/-- R88: a split is demoted; which other splits are ready, and so what it is passed over for, is found at the end of the step. -/
def Group.demote (g : Group) (pos : Nat) : Group :=
  { g with splits := Map.modify g.splits pos (fun sp => { sp with isDem := true, demNew := true, passed := 0 }) }

end Sys2Proof.Machine
end

