-- ==== Sys2Proof/Machine/Sys.lean ====
section
/-!
DEFINITION. System registers: SRD and SWR (R143 to R145) of FPF, MXC, DIVSTAT, CONGEST, LCN, CLIDX, GROLE, DEVRANK, GTC,
GTCF, CODEBASE, CAR0 to CAR5, AOWN, ACCLIVE, TRAPORIGIN and TRAPCAUSE.
-/
namespace Sys2Proof.Machine

/-- R144: access to a system register: 0 none, 1 read, 2 read and write. `sup` is supervisor privilege. DESIGN CHOICE, log 90. -/
def sysAccess (n : Nat) (sup : Bool) : Nat :=
  if n ≤ 0x001 then 2
  else if n ≤ 0x00A || (0x010 ≤ n && n ≤ 0x015) then 1
  else if n == 0x020 || n == 0x021 then (if sup then 2 else 0)
  else if n == 0x030 || n == 0x031 then (if sup then 1 else 0)
  else 0

/-- R95: DIVSTAT; SPLITS counts the issuing split. -/
def divstat (g : Group) : Nat := min 32 g.hwDepth + g.splits.length % 8 * 2 ^ 6 + g.spilledCount % 2 ^ 32 * 2 ^ 32

/-- R144: the value of a system register that a group may read. DESIGN CHOICE, log 90. -/
def sysRead (s : State) (g : Group) (n : Nat) : DWord :=
  let w (x : Nat) : DWord := BitVec.ofNat 64 x
  let team := Map.find s.teams g.team
  let core := Map.get Core.reset s.cores g.core
  let ctx := Map.find s.ctxs g.ctx
  match n with
  | 0x000 => g.fpf
  | 0x001 => g.mxc
  | 0x002 => w (divstat g)
  | 0x003 => w (Map.get Quad.reset s.quads (coreQuad g.core)).level
  | 0x004 => w (match team with | some t => t.lcore | none => 0)
  | 0x005 =>
    match team.bind (fun t => Map.find s.clusters t.cluster) with
    | some cl => w (cl.index % 2 ^ 32 + cl.size % 32 * 2 ^ 32)
    | none => 0
  | 0x006 => w (g.role % 16 + g.prio % 8 * 16)
  | 0x007 => w (match ctx.bind Ctx.job with | some j => j.rank % 512 | none => 0)
  | 0x008 => s.gtc
  | 0x009 => s.gtcf.setWidth 64
  | 0x00A => w (g.codeBase % 2 ^ 56)
  | 0x020 => core.aown
  | 0x021 => core.acclive.setWidth 64
  | 0x030 => if g.handler.isSome then w ((match g.lanes with | o :: _ => o.pc | [] => 0) % 2 ^ 56) else 0
  | 0x031 =>
    if g.handler.isSome then
      w ((match g.lanes with | o :: _ => o.cause % 256 + o.ctx % 64 * 2 ^ 8 | [] => 0) + g.lanes.length % 64 * 2 ^ 14)
    else 0
  | _ => w (match ctx with | some c => leAt c.car (8 * (n - 0x010)) 8 | none => 0)

/-- R124: an older instruction of the group that can raise a flag in FPF has not retired: an MBYPASS, or a collective
plane operation that the group has joined. -/
def fpfPending (s : State) (gid : Nat) (g : Group) : Bool :=
  (Map.get Bay.reset s.bays (coreBay g.core)).reqs.any (fun r => r.gid == gid && r.op == .bypass) ||
  g.splits.any (fun p => match p.2.wait with | .plane _ _ => true | _ => false)

/-- R238: an accepted request names a tile of the core. -/
def tilesNamed (s : State) (core : Nat) : Bool :=
  (Map.get Bay.reset s.bays (coreBay core)).reqs.any (fun r => r.core == core && r.tiles != 0)

/-- R79, R143: the check of a system register's name, made whatever the guard holds. DESIGN CHOICE, log 90. -/
def sysCheck (g : Group) (n need : Nat) : Res Unit :=
  if need ≤ sysAccess n g.sup then .ok () else .error (illegal 0x0B)

/-- SRD: the register's value into an s register; FPF once older instructions have retired (R124, R143). -/
def execSrd (f : SFmt) (s : State) : Host.Outcome State Fault Refusal :=
  asGroup f.r.g s (fun c => do
    sysCheck c.g f.imm.toNat 1
    if c.on == 0 then return c.done s c.g
    else if f.imm == 0 && fpfPending s c.gid c.g then .error .wait
    else return c.done s (c.g.wrS f.r.dst.toNat (sysRead s c.g f.imm.toNat)))

/-- R215: an SWR of AOWN writes CTX and VALID and clears PEND. DESIGN CHOICE, log 90. -/
def writeAown (s : State) (core : Nat) (x : DWord) : State :=
  { s with cores := Map.put s.cores core { Map.get Core.reset s.cores core with aown := x &&& 0x7F } }

/-- R215: an SWR of ACCLIVE: a tile whose bit changes is discarded, or becomes live holding +0. DESIGN CHOICE, log 90. -/
def writeAcclive (s : State) (core : Nat) (x : DWord) : State :=
  let c := Map.get Core.reset s.cores core
  let new : BitVec 16 := x.setWidth 16
  let flip := c.acclive ^^^ new
  { s with cores := Map.put s.cores core { c with
      acclive := new, tiles := c.tiles.filter (fun p => !(flip.getLsbD (p.1 / 1024))) } }

/-- SWR: an s register into a system register (R143, R124, R215, R238). -/
def execSwr (f : SFmt) (s : State) : Host.Outcome State Fault Refusal :=
  asGroup f.r.g s (fun c => do
    sysCheck c.g f.imm.toNat 2
    if c.on == 0 then return c.done s c.g
    else
      let x := c.g.rdS c.fc f.r.b.toNat
      match f.imm.toNat with
      | 0x000 => if fpfPending s c.gid c.g then .error .wait else return c.done s (c.g.setFpf x)
      | 0x001 => return c.done s { c.g with mxc := x }
      | 0x020 => if tilesNamed s c.g.core then .error .wait else return c.done (writeAown s c.g.core x) c.g
      | _ => return c.done (writeAcclive s c.g.core x) c.g)

end Sys2Proof.Machine
end

