-- ==== Sys2Proof/Machine/Access.lean ====
section
/-!
DEFINITION. What memory accesses share: publishing and refreshing (R301, R319, R320), atomics (R264, R265), requests to
peers (R345, R346), and local reads and writes at the home of an address (R246 to R248, R262).
-/
namespace Sys2Proof.Machine

/-! ### Publish and refresh -/

/-- Instructions of the operand log that write memory. -/
def isWrite (i : Instr) : Bool :=
  match i with
  | .st _ | .stf _ | .atom _ | .thst _ | .launch _ | .bararr _ => true
  | _ => false

/-- Instructions that a publish waits for (R319): those whose writes it covers, BARARR's among them (R339), and the loads,
since it covers every store whose value the group read before it. DEDUCED, log 25. -/
def isStore (i : Instr) : Bool :=
  isWrite i ||
  (match i with
   | .ld _ | .ldf _ | .thld _ => true
   | _ => false)

/-- Every lane of an entry is performed or given up. -/
def Entry.over (e : Entry) : Bool := maskMinus e.mask e.done == 0

/-- R301, R319, R326, R327: what the group issued before number `upTo` is performed, and its published set is performed at a
scope. DEDUCED, log 25. -/
def storesDone (s : State) (gid : Nat) (g : Group) (upTo scope : Nat) : Bool :=
  g.entries.all (fun e => decide (upTo ≤ e.id) || !isStore e.instr || e.over) &&
  (decide (scope < 4) || s.frameQ.all (fun u => !u.knows.contains gid)) &&
  (decide (scope < 5) || (g.acks == 0 && g.held.isEmpty && s.fabReqs.all (fun r => !(r.2.posted && r.2.seen.contains gid)) &&
    s.groups.all (fun x => x.2.held.all (fun h => !h.seen.contains gid))))

/-- R318: a group with its instances of the scopes, and a scope, as a publish leaves it on the updates it covered. -/
def pubMark (s : State) (gid : Nat) (g : Group) (scope : Nat) : PubMark :=
  { gid, ctx := g.ctx, team := g.team, cluster := (match Map.find s.teams g.team with | some t => t.cluster | none => 0),
    die := coreDie g.core, scope }

/-- R318: the instance of scope `scope` at one group holds the other. -/
def PubMark.reach (a b : PubMark) (scope : Nat) : Bool :=
  match scope with
  | 0 => a.gid == b.gid
  | 1 => a.team == b.team
  | 2 => a.cluster == b.cluster
  | 3 => a.die == b.die
  | 4 => true
  | _ => a.ctx == b.ctx

/-- R321: a publish below device scope by group `gid` has completed: it covered the updates in the group's published set
that are not in every frame yet. At device scope and wider none is left. DEDUCED, log 25. -/
def published (s : State) (gid scope : Nat) : State :=
  match Map.find s.groups gid with
  | none => s
  | some g =>
    if s.frameQ.isEmpty || decide (4 ≤ scope) then s
    else { s with frameQ := s.frameQ.map (fun u =>
      if u.knows.contains gid then { u with pub := u.pub ++ [pubMark s gid g scope] } else u) }

/-- R321: a refresh by group `gid` puts into its published set what a publish it covers, and that covers it, published. DEDUCED, log 25. -/
def learn (s : State) (gid scope : Nat) : State :=
  match Map.find s.groups gid with
  | none => s
  | some g =>
    if s.frameQ.isEmpty then s
    else
      let me := pubMark s gid g scope
      { s with frameQ := s.frameQ.map (fun u =>
        if !u.knows.contains gid && u.pub.any (fun p => p.reach me p.scope && me.reach p scope) then
          { u with knows := u.knows ++ [gid] }
        else u) }

/-- R302: the group's RED entries of a flush point are drained. -/
def redDrained (g : Group) (upTo : Nat) : Bool := g.red.all (fun r => decide (upTo ≤ r.id))

/-- R248, R320: a refresh at cluster scope or wider invalidates the core's far-read cache; a line that was asked for before it
does not enter the cache. DEDUCED, log 25. -/
def refreshAt (s : State) (core scope : Nat) : State :=
  if scope < 2 then s
  else { s with
    cores := Map.modify s.cores core (fun c => { c with far := [], farPast := [] }),
    fabReqs := s.fabReqs.map (fun r => (r.1, if r.2.core == core then { r.2 with fresh := false } else r.2)) }

/-- R320, R321: a refresh of a group. Its loads that are not performed yet read before what it issues from now on: each
refreshes again when it is performed, and later accesses wait for it. DEDUCED, log 25. -/
def refreshGroup (s : State) (gid scope : Nat) : State :=
  match Map.find s.groups gid with
  | none => s
  | some g =>
    let more (e : Entry) : Entry :=
      if e.op == .access && !e.over then { e with ref := some (max scope (e.ref.getD 0)) } else e
    learn (refreshAt (s.putG gid { g with entries := g.entries.map more }) g.core scope) gid scope

def ordAcq (o : Ord) : Bool := o == .acq || o == .both
def ordRel (o : Ord) : Bool := o == .rel || o == .both

/-- R66: a release waits until the group's stores are performed at its scope. DEDUCED, log 25. -/
def releaseOk (c : Iss) (s : State) (f : MFmt) : Res Unit :=
  if ordRel f.ord && !storesDone s c.gid c.g s.nextId f.scope.code then .error .wait else .ok ()

/-! ### Atomics (R264, R265) -/

/-- A signed or unsigned value of n bytes. -/
def intOf (ety n x : Nat) : Int := if ety == 0 then toSigned (8 * n) x else ((x % 2 ^ (8 * n) : Nat) : Int)

/-- The new value of an atomic of n bytes: operator, element type (0 signed, 1 unsigned, 5 F32), old, B and C. -/
def atomNew (op ety n old b c : Nat) : Nat :=
  match op with
  | 0 => if ety == 5 then (combine .add .f32 old b).bits else (old + b) % 2 ^ (8 * n)
  | 1 => if ety == 5 then (combine .min .f32 old b).bits else if intOf ety n b < intOf ety n old then b else old
  | 2 => if ety == 5 then (combine .max .f32 old b).bits else if intOf ety n old < intOf ety n b then b else old
  | 3 => old &&& b
  | 4 => old ||| b
  | 5 => old ^^^ b
  | 6 => b
  | _ => if old == c then b else old

/-! ### The far-read cache -/

/-- The key of a line in the far-read cache: a local line, or a peer's by rank and address. -/
def farKeyLoc (pa : Nat) : Nat := pa / 64
def farKeyPeer (rank va : Nat) : Nat := 2 ^ 60 * (rank + 1) + va / 64

/-- Bytes of a line. -/
def lineBytes (l : Line) (o n : Nat) : List Byte := (List.range n).map (fun k => BitVec.ofNat 8 (l.toNat / 2 ^ (8 * (o + k))))

/-- A line with bytes replaced. -/
def lineSet (l : Line) (o : Nat) (bs : List Byte) : Line :=
  lineOf ((List.range 64).map (fun k => if o ≤ k && k < o + bs.length then bs.getD (k - o) 0 else BitVec.ofNat 8 (l.toNat / 2 ^ (8 * k))))

def State.coreAt (s : State) (c : Nat) : Core := Map.get Core.reset s.cores c
def State.putCore (s : State) (c : Nat) (x : Core) : State := { s with cores := Map.put s.cores c x }

/-- A request of the core for a peer's line that is under way does not fill the cache any more. DEDUCED, log 92. -/
def staleFills (s : State) (core key : Nat) : State :=
  { s with fabReqs := s.fabReqs.map (fun r =>
      (r.1, if r.2.core == core && farKeyPeer r.2.pkt.dest r.2.pkt.addr.toNat == key then { r.2 with fresh := false } else r.2)) }

/-- Bytes of a cached line are replaced. -/
def farPatch (s : State) (core key o : Nat) (bs : List Byte) : State :=
  let c := s.coreAt core
  match Map.find c.far key with
  | none => s
  | some l => s.putCore core { c with far := Map.put c.far key (lineSet l o bs) }

/-- An own store updates a cached line and allocates none. DEDUCED, log 92. -/
def farUpdate (s : State) (core key o : Nat) (bs : List Byte) : State := staleFills (farPatch s core key o bs) core key

/-- An own atomic, and a copy of the core, invalidate the line. DEDUCED, log 92. -/
def farDrop (s : State) (core key : Nat) : State :=
  let c := s.coreAt core
  staleFills (s.putCore core { c with far := Map.del c.far key }) core key

/-- The line in no core's cache. -/
def farDropAll (s : State) (key : Nat) : State := (Map.keys s.cores).foldl (fun s c => farDrop s c key) s

/-- A line fills the cache; every group reads it there. DEDUCED, log 92. -/
def farFill (s : State) (core key : Nat) (line : Line) : State :=
  let c := s.coreAt core
  s.putCore core { c with far := Map.put c.far key line, farPast := c.farPast.filter (fun x => x.1 != key) }

/-- R248, R261, R322: a drained RED leaves the cache unchanged, and a later LDF of its group reads what it wrote: a cached line is
read at its home by that group. DEDUCED, log 92. -/
def farRed (s : State) (gid core key : Nat) : State :=
  let c := s.coreAt core
  staleFills (if (Map.find c.far key).isSome && !c.farPast.contains (key, gid) then
    s.putCore core { c with farPast := c.farPast ++ [(key, gid)] } else s) core key

/-- The line of the cache that a group reads. DEDUCED, log 92. -/
def farLine (s : State) (gid core key : Nat) : Option Line :=
  let c := s.coreAt core
  if c.farPast.contains (key, gid) then none else Map.find c.far key

/-! ### Requests to peers -/

/-- A packet of a request to a peer's line; requests carry their own virtual address (R255, R345). -/
def mkPacket (s : State) (ctx cls rank va tag : Nat) : Packet :=
  let job := (Map.find s.ctxs ctx).bind Ctx.job
  { cls, job := (job.map JobBinding.job).getD 0, src := (job.map JobBinding.rank).getD 0, dest := rank,
    addr := BitVec.ofNat 64 (va / 64 * 64), cgid := 0, seqk := 0, member := 0, mcount := 0, chunk := 0, fmtop := 0,
    mark := 0, port := 18, plen := 0, payload := 0, be := 0, tag, lane := 0, aop := 0, aty := 0, awid := 0, cmp := 0,
    returning := false, credit := none }

/-- R344: whether the context's job maps a rank to a device. -/
def rankMapped (s : State) (ctx rank : Nat) : Bool :=
  match (Map.find s.ctxs ctx).bind Ctx.job with
  | none => false
  | some j => j.map.getD rank 0 != 0

/-- R322, R346: an earlier write to the peer line of the group, or of another group whose value it has read in the cache, is not
acknowledged. DEDUCED, log 25. -/
def lineHeld (s : State) (gid : Nat) (g : Group) (rank va : Nat) : Bool :=
  let same (p : Packet) : Bool := p.dest == rank && p.addr.toNat / 64 == va / 64
  s.fabReqs.any (fun r => r.2.posted && (r.2.gid == gid || r.2.seen.contains gid) && same r.2.pkt) ||
  g.held.any (fun h => same h.pkt) || s.groups.any (fun x => x.2.held.any (fun h => h.seen.contains gid && same h.pkt))

/-- R346, R347: a posted write waits at 4,095 acknowledgements and at 16 held writes. DEDUCED, log 91. -/
def postFull (g : Group) : Bool := decide (4095 ≤ g.acks) || decide (16 ≤ g.held.length)

/-- R358: whether a hook takes a packet of a direction. -/
def Hook.takes (h : Hook) (p : Packet) (dir : Nat) : Bool :=
  let range := decide (h.alo ≤ p.addr.toNat) && decide (p.addr.toNat ≤ h.ahi)
  h.job == p.job && h.dir == dir &&
  (match h.kind with
   | 0 => p.cls == 0x11 && p.cgid == h.cgid
   | 1 => (p.cls == 1 || p.cls == 2) && range
   | 2 => decide (p.cls ≤ 2) && range
   | _ => p.cls == 0x13)

/-- The first hook, in table order, that takes a packet. -/
def hookFor (s : State) (p : Packet) (dir : Nat) : Option Hook := s.hooks.find? (fun h => h.takes p dir)

/-- A Scribe processor. -/
def State.scribeAt (s : State) (n : Nat) : Scribe := Map.get Scribe.reset s.scribes n
def State.putScribe (s : State) (n : Nat) (x : Scribe) : State := { s with scribes := Map.put s.scribes n x }

/-- R359: a packet enters the input queue of a hook's processor; none while the queue holds 64. DESIGN CHOICE, log 80. -/
def enqueue (s : State) (h : Hook) (p : Packet) (dir : Nat) : Option State :=
  let x := s.scribeAt h.proc
  if 64 ≤ x.queue.length then none
  else some (s.putScribe h.proc { x with queue := x.queue ++ [{ pkt := p, dir := dir, job := h.job, entry := h.entry }] })

/-- R424: some fabric port is up. At reduced service every one is down, and nothing passes. DEDUCED, log 109. -/
def linked (s : State) : Bool := s.svclevel != 0 && s.ports.any (fun p => p.2.st == 2)

/-- Sends a message, where a port is up. DEDUCED, log 109. -/
def State.send (s : State) (m : OutMsg) : State := if linked s then { s with out := s.out ++ [m] } else s

/-- Sends a packet of this device's groups: an egress hook takes it first (R358, R359). DESIGN CHOICE, log 1. -/
def sendOut (s : State) (p : Packet) (m : OutMsg) : State :=
  match hookFor s p 1 with
  | none => s.send m
  | some h =>
    match enqueue s h p 1 with
    | some s1 => s1
    | none => { s with out := s.out ++ [.held p] }

/-- Sends a request: a port holds it until it is answered. -/
def sendReq (s : State) (r : FabReq) : State :=
  sendOut { s with fabReqs := Map.put s.fabReqs r.pkt.tag { r with sent := s.tick } } r.pkt (.request r.pkt)

/-! ### Local reads and writes -/

/-- What performing an access comes to: it must wait, its request went to a peer, it faults (at its own address, or at
another), it is performed with the writes of its destinations, or a posted write of several lanes is. -/
inductive Perf where
  | wait
  | sent (s : State)
  | fault (s : State) (cause detail aux : Nat)
  | faultAt (s : State) (va : DWord) (cause detail aux : Nat)
  | done (s : State) (outs : List RegWrite) (fails : Bool)
  | posted (s : State) (lanes : Mask)
  deriving DecidableEq, Repr

/-- The frame a reader on a die reads. -/
def frameFor (die pa size : Nat) (repl : Bool) : Nat := if repl then pa + die * size else pa

/-- The writes of a load's destination registers: `n` bytes from register `r` in a lane (R262). -/
def loadOuts (r l : Nat) (bs : List Byte) : List RegWrite :=
  (List.range ((bs.length + 3) / 4)).map (fun k => .v (r + k) l (BitVec.ofNat 32 (leAt bs (4 * k) 4)))

/-- A local write of bytes at a translated address: refused by a tagged line, waiting for presence. -/
def writeAt (s : State) (w : Writer) (pa size : Nat) (repl prop : Bool) (bs : List Byte) : Perf :=
  let fs := framesOf pa size repl
  if fs.any (fun a => taggedIn s.tags a bs.length) then .fault s cBarOverwrite 0 0
  else if !(fs.all (fun a => presentIn s a bs.length)) then .wait
  else .done (wrTgt s w pa size repl prop bs) [] false

/-- An atomic at a local home (R265): the old value, and the state with the new one. -/
def atomAt (s : State) (w : Writer) (pa size : Nat) (repl prop : Bool) (op ety n b c : Nat) : Except Perf (Nat × State) :=
  let fs := framesOf pa size repl
  if fs.any (fun a => taggedIn s.tags a n) then .error (.fault s cBarOverwrite 0 0)
  else if !(fs.all (fun a => presentIn s a n)) then .error .wait
  else if poisoned s.poison (frameFor w.die pa size repl) n then .error (.fault s cMachine 2 0)
  else
    let old := leNat (rdHome s w.die pa size repl prop n)
    let new := atomNew op ety n old b c
    .ok (old, wrTgt s w pa size repl prop (leBytes n new))

/-! ### The bytes that pending accesses reach (R261) -/

/-- Where a lane's address leads now: none where its translation fails. -/
def peekTgt (s : State) (g : Group) (va : DWord) (a : Acc) : Option Tgt :=
  match xlate s g.core g.ctx (rootOf s g) va a with
  | .ok (t, _) => some t
  | .error _ => none

/-- Where an address leads now, whatever its permissions. -/
def peekAny (s : State) (g : Group) (va : DWord) : Option Tgt :=
  match leafFor s g.core (rootOf s g) va .r with
  | .ok l => some (l.tgt va)
  | .error _ => none

/-- The format M fields of a logged access. -/
def mFields (i : Instr) : Option MFmt :=
  match i.shape with
  | .m _ _ _ f => some f
  | _ => none

/-- The bytes an access moves per lane, and whether it lies in team memory. -/
def accSpan (e : Entry) : Nat × Bool :=
  match e.instr, mFields e.instr with
  | .thld _, _ | .thst _, _ | .presclr _, _ | .presclrSet _, _ => (64, false)
  | .prestest _, _ => (0, false)
  | .launch _, _ => (128, false)
  | _, some f => (f.wid.bytes, f.spc == .tm)
  | _, none => (0, false)

/-- R147: the queue's answer to an append by a group of context `ctx`. -/
def launchStatus (q : LQueue) (ctx : Nat) : Nat :=
  if bits q.lqctl 21 16 != ctx then 4
  else if !bit q.lqctl 10 then 1
  else if !bit q.lqctl 9 || bit q.lqstat 2 then 2
  else if (q.lqtail.toNat + 2 ^ 32 - q.lqhead.toNat) % 2 ^ 32 == 2 ^ bits q.lqctl 4 0 then 3
  else 0

/-- R146: the ring slot at which a queue takes its next record. -/
def LQueue.slot (q : LQueue) : Nat := q.lqbase.toNat + 128 * (q.lqtail.toNat % 2 ^ bits q.lqctl 4 0)

/-- The bytes a pending lane of an entry reaches in team memory (true) or by virtual address: (team memory, address, length). A deferred
arrival reaches its object, and a LAUNCH also every slot of its queue's ring, one of which it may write. -/
def laneSpans (s : State) (e : Entry) (l : Nat) : List (Bool × Nat × Nat) :=
  match e.op with
  | .access =>
    (match Map.find e.addr l with
     | some a => [((accSpan e).2, a.toNat, (accSpan e).1)]
     | none => []) ++
    (match e.instr with
     | .launch f =>
       let q := Map.get LQueue.reset s.lqs f.mfn.toNat
       [(false, q.lqbase.toNat, 128 * 2 ^ bits q.lqctl 4 0)]
     | _ => [])
  | .arrive (.team _ off) _ => [(true, off, 32)]
  | _ => []

def spansMeet (a b : Bool × Nat × Nat) : Bool :=
  a.1 == b.1 && decide (a.2.1 < b.2.1 + b.2.2) && decide (b.2.1 < a.2.1 + a.2.2)

/-- A range cut at the smallest pages. -/
def pageParts (a n : Nat) : List (Nat × Nat) :=
  (List.range ((a % 65536 + n + 65535) / 65536)).map (fun i =>
    let lo := max a ((a / 65536 + i) * 65536)
    (lo, min (a + n) ((a / 65536 + i + 1) * 65536) - lo))

/-- The physical ranges of a pending lane, where they translate; of a replicated page those of frame 0. -/
def laneHomes (s : State) (g : Group) (e : Entry) (l : Nat) : List (Nat × Nat) :=
  match e.op with
  | .access =>
    ((laneSpans s e l).filter (fun x => !x.1)).flatMap (fun x => pageParts x.2.1 x.2.2) |>.filterMap (fun x =>
      match peekAny s g (BitVec.ofNat 64 x.1) with
      | some (.loc pa _ _ _) => some (pa, x.2)
      | _ => none)
  | .arrive (.phys pa) _ => [(pa, 32)]
  | .mortise pa _ _ => [(pa, 64)]
  | _ => []

def homesMeet (a b : Nat × Nat) : Bool := decide (a.1 < b.1 + b.2) && decide (b.1 < a.1 + a.2)

/-! ### Draining RED entries (R266, R302) -/

/-- R347: a posted write to a rank that no device has is refused at once, and reported at a publish at domain scope. -/
def refusePosted (s : State) (gid : Nat) (h : HeldWrite) : State :=
  { s with groups := Map.modify s.groups gid (fun g => { g with acks := g.acks + 1, held := g.held ++ [h] }) }

/-- Posts a write of a group to a peer (R346, R347), at a waiting group's port or refused. -/
def postWrite (s : State) (gid : Nat) (r : FabReq) : State :=
  match Map.find s.groups gid with
  | none => s
  | some g =>
    if rankMapped s g.ctx r.pkt.dest then
      sendReq { s with groups := Map.modify s.groups gid (fun g => { g with acks := g.acks + 1 }) } r
    else
      refusePosted s gid { tag := r.pkt.tag, pkt := r.pkt, va := r.va, detail := 3, pc := r.pc, pos := r.pos,
                           lane := lowLane r.lanes, mask := r.mask, raised := false, seen := [] }

/-- R261, R322: an access that the group issued before a RED reaches bytes of the entry and is not performed: the entry waits for
it. DEDUCED, log 25. -/
def redBehind (s : State) (g : Group) (r : RedEntry) : Bool :=
  let home := match peekAny s g r.addr with
    | some (.loc pa _ _ _) => [(pa, r.wid)]
    | _ => []
  g.entries.any (fun e => decide (e.id < r.id) && e.op == .access && (lanesOf (maskMinus e.mask e.done)).any (fun l =>
    (laneSpans s e l).any (spansMeet (false, r.addr.toNat, r.wid)) || home.any (fun h => (laneHomes s g e l).any (homesMeet h))))

/-- Applies one RED entry at its home; to a peer it goes as a non-returning atomic. -/
def drainOne (s : State) (r : RedEntry) : Perf :=
  match Map.find s.groups r.gid with
  | none => .done s [] false
  | some g =>
    if r.faulted || redBehind s g r then .wait
    else
      match xlate s g.core g.ctx (rootOf s g) r.addr .w with
      | .error (c, d) => .fault s c d 0
      | .ok (.loc pa size repl prop, s1) =>
        match atomAt s1 { g.writer r.gid with owner := r.owner } pa size repl prop r.fn r.ty r.wid r.data.toNat 0 with
        | .error p => p
        | .ok (_, s2) => .done (farRed s2 r.gid g.core (farKeyLoc (frameFor (coreDie g.core) pa size repl))) [] false
      | .ok (.peer rank, s1) =>
        if lineHeld s r.gid g rank r.addr.toNat || postFull g then .wait
        else
          let (tag, s2) := s1.takeId
          let pkt := { mkPacket s2 g.ctx 2 rank r.addr.toNat tag with
            addr := r.addr, plen := r.wid, payload := r.data.setWidth 512, aop := r.fn, aty := r.ty, awid := r.wid,
            lane := r.lane }
          let s3 := postWrite s2 r.gid {
            pkt, gid := r.gid, core := g.core, entry := r.id, lanes := laneBit r.lane, posted := true, fresh := false,
            seen := [], va := r.addr, copy := none, scribe := none, pc := r.pc, pos := r.pos, mask := r.mask, sent := 0 }
          .done (farRed s3 r.gid g.core (farKeyPeer rank r.addr.toNat)) [] false

/-- The origin of a fault at drain is the RED, replayable (R266); a barrier-tagged line refuses the entry at once, as a
completion (R247, R378). -/
def drainFault (s : State) (r : RedEntry) (c d aux : Nat) : State :=
  raiseTrap s { gid := r.gid, pos := r.pos, pc := r.pc, act := if c == cBarOverwrite then r.mask else laneBit r.lane,
                kind := if c == cBarOverwrite then 2 else 1, ref := r.id }
    { cause := c, detail := d, lanes := if c == cBarOverwrite then 0 else laneBit r.lane, aux,
      addr := [(if c == cBarOverwrite then lowLane r.mask else r.lane, r.addr)] }

/-- R253: faulted accesses of the core's groups: the lanes and RED entries that its fault buffer holds. DEDUCED, log 104. -/
def faultsHeld (s : State) (core : Nat) : Nat :=
  let kept := s.barRed.flatMap (fun b => b.2.2) ++ s.gridBars.flatMap GridBar.red
  (s.groups.filter (fun g => g.2.core == core)).foldl (fun n g =>
    n + (g.2.entries.map (fun e => laneCount e.fault)).sum +
      ((g.2.red ++ kept.filter (fun r => r.gid == g.1)).filter RedEntry.faulted).length) 0

/-- R253: the fault buffer of a group's core, of 64 entries, is full: an access that faults waits. -/
def faultsFull (s : State) (gid : Nat) : Bool :=
  match Map.find s.groups gid with
  | some g => decide (64 ≤ faultsHeld s g.core)
  | none => false

/-- Drains a list in order until an entry waits or faults: what is left, and the state. -/
def drainList (s : State) : List RedEntry → List RedEntry × State
  | [] => ([], s)
  | r :: t =>
    match drainOne s r with
    | .done s1 _ _ => drainList s1 t
    | .wait | .faultAt _ _ _ _ _ => (r :: t, s)
    | .sent s1 | .posted s1 _ => (r :: t, s1)
    | .fault s1 c d aux =>
      if c == cBarOverwrite then drainList (drainFault s1 r c d aux) t
      else if faultsFull s r.gid then (r :: t, s)
      else ({ r with faulted := true } :: t, drainFault s1 r c d aux)

/-- Drains the group's own entries of its flush points, in instruction order and then lane order. -/
def drainGroup (s : State) (gid : Nat) : State :=
  match Map.find s.groups gid with
  | none => s
  | some g =>
    let now := g.red.filter (fun r => decide (r.id < g.redUpTo))
    let rest := g.red.filter (fun r => !decide (r.id < g.redUpTo))
    let (left, s1) := drainList s now
    { s1 with groups := Map.modify s1.groups gid (fun g => { g with red := left ++ rest }) }

/-- A flush point of the group: every entry held now is to be drained (R266). -/
def flushPoint (s : State) (gid : Nat) : State :=
  drainGroup { s with groups := Map.modify s.groups gid (fun g => { g with redUpTo := s.nextId }) } gid

end Sys2Proof.Machine
end

