-- ==== Sys2Proof/Machine/Mem.lean ====
section
/-!
DEFINITION. Memory instructions of class 11 and LAUNCH: their issue into the operand log, and each lane's performance at
its home (R258 to R268, R280, R146, R380, R381).
-/
namespace Sys2Proof.Machine

/-! ### Issue -/

/-- What an access carries into the operand log. -/
structure AccReq where
  on   : Mask
  addr : SMap DWord
  data : SMap (BitVec 128)
  cmp  : SMap (BitVec 128)
  deriving DecidableEq, Repr

/-- R242: the lanes whose first or last byte lies at or beyond the team's memory. -/
def beyondTeam (s : State) (g : Group) (a : SMap DWord) (w : Nat) : Mask :=
  let size := match Map.find s.teams g.team with | some t => t.memSize | none => 0
  maskOf (fun l => match Map.find a l with
    | some x => decide (size < x.toNat + w)
    | none => false)

/-- R242: the lanes of a .SP access whose page is not the scratchpad of the issuer's die. -/
def notOwnDie (s : State) (g : Group) (a : SMap DWord) (acc : Acc) : Mask :=
  maskOf (fun l => match Map.find a l with
    | none => false
    | some va =>
      match peekTgt s g va acc with
      | none => false
      | some (.peer _) => true
      | some (.loc pa size repl _) => spDie (frameFor (coreDie g.core) pa size repl) != some (coreDie g.core))

/-- R247: the lanes whose bytes meet a barrier-tagged line. -/
def onTagged (s : State) (g : Group) (tm : Bool) (a : SMap DWord) (w : Nat) : Mask :=
  maskOf (fun l => match Map.find a l with
    | none => false
    | some va =>
      if tm then
        match Map.find s.teams g.team with
        | some t => taggedIn t.tags va.toNat w
        | none => false
      else
        match peekTgt s g va .w with
        | some (.loc pa size repl _) => (framesOf pa size repl).any (fun x => taggedIn s.tags x w)
        | _ => false)

/-- A per-lane precise trap of the lanes that meet the cause. DESIGN CHOICE, log 36. -/
def laneTrap (cause detail : Nat) (m : Mask) (a : SMap DWord) : Stop := .trap { cause, detail, lanes := m, addr := a }

/-- The checks of an access in order: alignment (R259), team memory and own die (R242), barrier tags (R247). -/
def accessChecks (s : State) (g : Group) (spc : Spc) (acc : Acc) (tags : Bool) (a : SMap DWord) (w al : Nat) : Res Unit := do
  let mis := maskOf (fun l => match Map.find a l with | some x => x.toNat % al != 0 | none => false)
  if mis != 0 then throw (laneTrap cAlign 0 mis a)
  if spc == .tm then
    let m := beyondTeam s g a w
    if m != 0 then throw (laneTrap cPerm 4 m a)
  if spc == .sp then
    let m := notOwnDie s g a acc
    if m != 0 then throw (laneTrap cPerm 5 m a)
  if tags then
    let m := onTagged s g (spc == .tm) a w
    if m != 0 then throw (laneTrap cBarOverwrite 0 m a)

/-- R320: the scope at which an access with acquire order refreshes. -/
def acqScope (i : Instr) (op : HomeOp) : Option Nat :=
  match mFields i with
  | some f => if ordAcq f.ord && op == .access then some f.scope.code else none
  | none => none

/-- An entry for the operand log. -/
def mkEntry (id : Nat) (i : Instr) (c : Iss) (op : HomeOp) (r : AccReq) : Entry :=
  { id, instr := i, op, pc := c.sp.pc, pos := c.pos, mine := true, act := c.act, mask := r.on, addr := r.addr,
    data := r.data, cmp := r.cmp,
    flag := c.flag i, logged := logs i, ref := acqScope i op, done := 0, sent := 0, fault := 0, outs := [], fpf := 0, fails := false,
    ready := false }

/-- R319: a release has published before its access. -/
def released (s : State) (gid : Nat) (i : Instr) : State :=
  match mFields i with
  | some f => if ordRel f.ord then published s gid f.scope.code else s
  | none => s

/-- R54, R380: the instruction takes its entry, marks its flag and leaves the issue stage; the split goes on. -/
def post (s : State) (c : Iss) (i : Instr) (op : HomeOp) (r : AccReq) : State :=
  let (id, s1) := s.takeId
  let g := { (c.g.advance c.pos) with entries := c.g.entries ++ [mkEntry id i c op r] }
  s1.putG c.gid (g.markFlag (c.flag i))

/-- What holds the instruction at issue (R54, R96, R269, R380). -/
def holdAtIssue (c : Iss) (i : Instr) : Res Unit := if c.g.holds c.sp.word i then .error .wait else .ok ()

/-- R346, R347: a posted write to a peer waits at issue while the group can post no more. DEDUCED, log 25, 91. -/
def postHold (s : State) (g : Group) (a : SMap DWord) : Res Unit :=
  if postFull g && a.any (fun p => match peekTgt s g p.2 .w with | some (.peer _) => true | _ => false) then .error .wait
  else .ok ()

/-- The issue of a per-lane access (R258, R259, R380). -/
def issueLanes (i : Instr) (f : MFmt) (acc : Acc) (tags atomic : Bool) (s : State) : Host.Outcome State Fault Refusal :=
  asGroup f.r.g s (fun c => do
    if c.on == 0 then return c.done s c.g
    let w := f.wid.bytes
    let a := laneAddrs (c.laneAddr f atomic) c.on
    accessChecks s c.g f.spc acc tags a w w
    holdAtIssue c i
    releaseOk c s f
    if tags then postHold s c.g a
    let dat (r : BitVec 8) : SMap (BitVec 128) := (lanesOf c.on).map (fun l => (l, c.laneData r.toNat w l))
    return post (released s c.gid i) c i .access { on := c.on, addr := a, data := if tags then dat f.r.b else [],
                                                   cmp := if atomic then dat f.r.c else [] })

/-- The issue of a per-group access at A(0), by the split's lowest lane; its per-lane causes name every active lane (R379). DEDUCED, log 29. -/
def issueOnce (i : Instr) (f : MFmt) (acc : Acc) (tags : Bool) (w : Nat) (data : Iss → SMap (BitVec 128)) (s : State) :
    Host.Outcome State Fault Refusal :=
  asOnce f.r.g s (fun c => do
    let l := lowLane c.act
    let va := c.laneAddr f false 0
    accessChecks s c.g f.spc acc tags ((lanesOf c.act).map (fun k => (k, va))) w w
    holdAtIssue c i
    releaseOk c s f
    if tags then postHold s c.g [(l, va)]
    return post (released s c.gid i) c i .access { on := laneBit l, addr := [(l, va)], data := data c, cmp := [] })

/-- LD: w bytes per lane of team memory or own-die scratchpad; with POLL the split that issues it is demoted, also where no
lane loads (R262, R88). -/
def execLd (f : MFmt) (s : State) : Host.Outcome State Fault Refusal :=
  match issueLanes (.ld f) f .r false false s with
  | .next s1 =>
    match f.mfn == 1, issuer s f.r.g with
    | true, some c =>
      if c.on != 0 && s1.nextId == s.nextId then .next s1
      else .next { s1 with groups := Map.modify s1.groups c.gid (fun g => g.demote c.pos) }
    | _, _ => .next s1
  | o => o

/-- ST: w bytes per lane into team memory or own-die scratchpad (R262). -/
def execSt (f : MFmt) (s : State) : Host.Outcome State Fault Refusal := issueLanes (.st f) f .w true false s

/-- LDF: a far load through the far-read cache (R263). -/
def execLdf (f : MFmt) (s : State) : Host.Outcome State Fault Refusal := issueLanes (.ldf f) f .r false false s

/-- STF: a posted far store (R263). -/
def execStf (f : MFmt) (s : State) : Host.Outcome State Fault Refusal := issueLanes (.stf f) f .w true false s

/-- ATOM: a returning read-modify-write at the home (R265). -/
def execAtom (f : MFmt) (s : State) : Host.Outcome State Fault Refusal := issueLanes (.atom f) f .w true true s

/-- THLD: a 64-byte handle into a th register (R280). -/
def execThld (f : MFmt) (s : State) : Host.Outcome State Fault Refusal :=
  issueOnce (.thld f) f .r false 64 (fun _ => []) s

/-- The 16-byte parts of a tensor handle. -/
def thParts (x : Line) : SMap (BitVec 128) := (List.range 4).map (fun k => (k, BitVec.ofNat 128 (x.toNat / 2 ^ (128 * k))))

/-- THST: a th register's 64 bytes to memory (R280). -/
def execThst (f : MFmt) (s : State) : Host.Outcome State Fault Refusal :=
  issueOnce (.thst f) f .w true 64 (fun c => thParts (c.g.rdTh c.fc f.r.b.toNat).1) s

/-- PRESCLR: clears the presence bit of the line at A(0) (R268). -/
def execPresclr (f : MFmt) (s : State) : Host.Outcome State Fault Refusal :=
  issueOnce (.presclr f) f .r false 64 (fun _ => []) s

/-- PRESCLR.SET: sets it (R268). -/
def execPresclrSet (f : MFmt) (s : State) : Host.Outcome State Fault Refusal :=
  issueOnce (.presclrSet f) f .r false 64 (fun _ => []) s

/-- PRESTEST: presence bits of the lanes' lines into a predicate (R268). -/
def execPrestest (f : MFmt) (s : State) : Host.Outcome State Fault Refusal := issueLanes (.prestest f) f .r false false s

/-- LAUNCH: reads a record and appends it to a device-fed queue (R146); the work is done from the operand log. -/
def execLaunch (f : MFmt) (s : State) : Host.Outcome State Fault Refusal :=
  asOnce f.r.g s (fun c => do
    let va := c.g.rdS c.fc f.r.a.toNat + mOffset f false
    if va.toNat % 128 != 0 then throw (laneTrap cAlign 0 c.act ((lanesOf c.act).map (fun k => (k, va))))
    holdAtIssue c (.launch f)
    releaseOk c s f
    return post (released s c.gid (.launch f)) c (.launch f) .access { on := laneBit (lowLane c.act), addr := [(lowLane c.act, va)], data := [], cmp := [] })

/-- The RED entries of one instruction. -/
def redEntries (c : Iss) (f : MFmt) (id : Nat) : List RedEntry :=
  (lanesOf c.on).map (fun l =>
    { id, gid := c.gid, key := [], addr := c.laneAddr f true l, fn := f.mfn.toNat, ty := f.ofs.toNat / 2 ^ 28,
      wid := f.wid.bytes, data := (c.laneData f.r.b.toNat f.wid.bytes l).setWidth 64, pc := c.sp.pc, pos := c.pos,
      lane := l, mask := c.act, owner := .writer, scope := 0, faulted := false })

/-- R266: `n` more entries would overflow the group's share. -/
def Group.redOver (g : Group) (n : Nat) : Bool := decide (64 < g.red.length + n)

/-- RED: one entry per active lane in the group's share; where they would overflow it, the instruction is held until those
that are there are drained (R266). -/
def execRed (f : MFmt) (s : State) : Host.Outcome State Fault Refusal :=
  asGroup f.r.g s (fun c => do
    if c.on == 0 then return c.done s c.g
    let mis := misaligned (c.laneAddr f true) c.on f.wid.bytes
    if mis != 0 then throw (laneTrap cAlign 0 mis (laneAddrs (c.laneAddr f true) c.on))
    holdAtIssue c (.red f)
    if c.g.redOver (laneCount c.on) then throw .wait
    let (id, s1) := s.takeId
    return c.done s1 { c.g with red := c.g.red ++ redEntries c f id })

/-- FLUSHRED: drains the group's held entries; it completes when every one is applied (R267). -/
def execFlushred (f : MFmt) (s : State) : Host.Outcome State Fault Refusal :=
  asOnce f.r.g s (fun c => do
    holdAtIssue c (.flushred f)
    if c.g.red.isEmpty then return c.done s c.g
    return flushPoint (post s c (.flushred f) .flush { on := laneBit (lowLane c.act), addr := [], data := [], cmp := [] }) c.gid)

/-! ### Performance at the home -/

/-- R281: the TYPE of a handle. -/
def handleType (x : Line) : Nat :=
  let f (o n : Nat) : Nat := x.toNat / 2 ^ (8 * o) % 2 ^ (8 * n)
  let v := f 2 1
  let n0 := f 8 4
  let n1 := f 12 4
  let base := f 0 1 == 1 && (v == 3 || v == 6 || v == 7 || v == 8 || v == 9) && f 3 5 == 0 && 1 ≤ n0 && n0 ≤ 2 ^ 31 &&
    1 ≤ n1 && n1 ≤ 2 ^ 31 && f 0x30 16 == 0
  if base && f 1 1 == 1 && f 0x18 8 == 0 && f 0x20 8 == 0 && n1 ≤ f 0x28 8 then 1
  else if base && f 1 1 == 2 && f 0x28 8 == 0 then 2
  else 0

/-- R44: a LAUNCH, of those of one group in program order. -/
def isLaunch (i : Instr) : Bool := match i with | .launch _ => true | _ => false

/-- R261, R268: PRESCLR.SET reaches no bytes, and the accesses that wait for it do not hold it: only an earlier presence operation does. -/
def behindAccess (i j : Instr) : Bool :=
  match i, j with
  | .presclrSet _, .presclr _ | .presclrSet _, .presclrSet _ => true
  | .presclrSet _, _ => false
  | _, _ => true

/-- R44, R260, R261: an earlier access of the group, or a lower lane of this one outside `mates`, reaches the same bytes and is not
performed; an earlier access has not refreshed (R66, R320); or an earlier LAUNCH is not done. DESIGN CHOICE, log 23. -/
def behindOthers (s : State) (g : Group) (e : Entry) (l : Nat) (mates : Mask) : Bool :=
  let mine := laneSpans s e l
  let home := laneHomes s g e l
  let meets (e2 : Entry) (k : Nat) : Bool :=
    mine.any (fun x => (laneSpans s e2 k).any (spansMeet x)) || home.any (fun x => (laneHomes s g e2 k).any (homesMeet x))
  g.entries.any (fun e2 =>
    (decide (e2.id < e.id) && !e2.over && behindAccess e.instr e2.instr &&
      (e2.ref.isSome || (isLaunch e.instr && isLaunch e2.instr) || (lanesOf (maskMinus e2.mask e2.done)).any (fun k => meets e2 k))) ||
    (e2.id == e.id && (lanesOf (maskMinus e.mask (e.done ||| mates))).any (fun k => decide (k < l) && meets e k)))

def earlierPending (s : State) (g : Group) (e : Entry) (l : Nat) : Bool := behindOthers s g e l 0

/-- Stores an access of a team's own memory may read or write. -/
def teamPerf (s : State) (g : Group) (fn : Team → Except (Nat × Nat) (Team × List RegWrite)) : Perf :=
  match Map.find s.teams g.team with
  | none => .fault s cPerm 4 0
  | some t =>
    match fn t with
    | .error (c, d) => .fault s c d 0
    | .ok (t1, outs) => .done { s with teams := Map.put s.teams g.team t1 } outs false

/-- R345: the lanes of an entry that the request of lane `l` for its line covers: pending lanes of the line that nothing holds. -/
def lineLanes (s : State) (g : Group) (e : Entry) (l va : Nat) : Mask :=
  let free (k : Nat) : Bool := e.mask.getLsbD k && !e.done.getLsbD k && !e.sent.getLsbD k && !e.fault.getLsbD k &&
    (match Map.find e.addr k with | some a => a.toNat / 64 == va / 64 | none => false)
  lanes32.foldl (fun m k => if k == l || (free k && !behindOthers s g e k m) then m ||| laneBit k else m) 0

/-- Changes an entry of a group. -/
def modEntry (s : State) (gid id : Nat) (fn : Entry → Entry) : State :=
  { s with groups := Map.modify s.groups gid (fun g => { g with entries := g.entries.map (fun e => if e.id == id then fn e else e) }) }

/-- A request of an entry to a peer. Its line may fill the cache unless a posted write of the core to it is under way. -/
def entryReq (s : State) (e : Entry) (g : Group) (gid : Nat) (pkt : Packet) (lanes : Mask) (posted : Bool) : FabReq :=
  let key := farKeyPeer pkt.dest pkt.addr.toNat
  { pkt := { pkt with lane := lowLane lanes }, gid, core := g.core, entry := e.id, lanes, posted,
    fresh := !(s.fabReqs.any (fun r => r.2.core == g.core && (r.2.posted || r.2.pkt.cls == 1) && farKeyPeer r.2.pkt.dest r.2.pkt.addr.toNat == key)),
    seen := [], va := Map.get pkt.addr e.addr (lowLane lanes), copy := none, scribe := none, pc := e.pc, pos := e.pos,
    mask := e.act, sent := 0 }

/-- Sends a read, or an atomic of one lane, to a peer (R345). A rank that no device has is unreachable (R347). -/
def askPeer (s : State) (gid : Nat) (g : Group) (e : Entry) (rank va : Nat) (lanes : Mask) (mk : Packet → Packet) : Perf :=
  if !rankMapped s g.ctx rank then .fault s cRemote 3 rank
  else if lineHeld s gid g rank va then .wait
  else
    let (tag, s1) := s.takeId
    let s2 := sendReq s1 (entryReq s1 e g gid (mk (mkPacket s1 g.ctx 0 rank va tag)) lanes false)
    .sent (modEntry s2 gid e.id (fun e => { e with sent := e.sent ||| lanes }))

/-- Posts a write of bytes of one line to a peer: complete when a port accepts it (R263). -/
def postPeer (s : State) (gid : Nat) (g : Group) (e : Entry) (rank : Nat) (lanes : Mask) (bytes : List (Nat × Byte)) : Perf :=
  match bytes with
  | [] => .posted s lanes
  | (va, _) :: _ =>
    if lineHeld s gid g rank va || postFull g then .wait
    else
      let (tag, s1) := s.takeId
      let line := bytes.foldl (fun l b => lineSet l (b.1 % 64) [b.2]) (0 : Line)
      let be : DWord := bytes.foldl (fun m b => m ||| (1 <<< (b.1 % 64))) 0
      let pkt := { mkPacket s1 g.ctx 1 rank va tag with plen := 64, payload := line, be := be }
      .posted (postWrite s1 gid (entryReq s1 e g gid pkt lanes true)) lanes

/-- The data bytes of a store's lane. -/
def storeBytes (e : Entry) (l w : Nat) : List Byte := leBytes w (Map.get 0 e.data l).toNat

/-- The data of a 64-byte store. -/
def storeLine (e : Entry) : List Byte := (List.range 4).flatMap (fun k => leBytes 16 (Map.get 0 e.data k).toNat)

/-- A far read of `n` bytes of a local line through the core's cache; own-die scratchpad is read directly (R248). DEDUCED, log 92. -/
def farRead (s : State) (gid : Nat) (g : Group) (pa size : Nat) (repl : Bool) (n : Nat) : Except Perf (List Byte × State) :=
  let at_ := frameFor (coreDie g.core) pa size repl
  if spDie at_ == some (coreDie g.core) then
    if !presentIn s at_ n then .error .wait
    else if poisoned s.poison at_ n then .error (.fault s cMachine 2 0)
    else .ok (s.rd at_ n, s)
  else
    match farLine s gid g.core (farKeyLoc at_) with
    | some line => .ok (lineBytes line (at_ % 64) n, s)
    | none =>
      if !presentIn s at_ n then .error .wait
      else if poisoned s.poison at_ n then .error (.fault s cMachine 2 0)
      else
        .ok (s.rd at_ n, farFill s g.core (farKeyLoc at_) (lineOf (s.rd (at_ / 64 * 64) 64)))

/-- R319: a group reads a peer's line from its core's cache, which holds what posted writes of the core that are not
acknowledged, or that the peer has refused, put there. DEDUCED, log 25. -/
def seeLine (s : State) (gid core rank va : Nat) : State :=
  let line (p : Packet) (seen : List Nat) : Bool := p.dest == rank && p.addr.toNat / 64 == va / 64 && !seen.contains gid
  let of (r : FabReq) : Bool := r.posted && r.core == core && r.gid != gid && line r.pkt r.seen
  let kept (x : Nat × Group) (h : HeldWrite) : Bool := x.1 != gid && x.2.core == core && line h.pkt h.seen
  if !s.fabReqs.any (fun r => of r.2) && !s.groups.any (fun x => x.2.held.any (kept x)) then s
  else { s with
    fabReqs := s.fabReqs.map (fun r => (r.1, if of r.2 then { r.2 with seen := r.2.seen ++ [gid] } else r.2)),
    groups := s.groups.map (fun x => (x.1, { x.2 with
      held := x.2.held.map (fun h => if kept x h then { h with seen := h.seen ++ [gid] } else h) })) }

/-- A read of `n` bytes (within one line) at a virtual address by lane `l`. -/
def vaRead (s : State) (gid : Nat) (g : Group) (e : Entry) (l : Nat) (va : DWord) (n : Nat) (own : Bool)
    (outs : List Byte → List RegWrite) : Perf :=
  match xlate s g.core g.ctx (rootOf s g) va .r with
  | .error (c, d) => .fault s c d 0
  | .ok (.peer rank, s1) =>
    if own then .fault s cPerm 5 0
    else
      match farLine s1 gid g.core (farKeyPeer rank va.toNat) with
      | some line => .done (seeLine s1 gid g.core rank va.toNat) (outs (lineBytes line (va.toNat % 64) n)) false
      | none => askPeer s1 gid g e rank va.toNat (lineLanes s g e l va.toNat) id
  | .ok (.loc pa size repl _, s1) =>
    if own && spDie (frameFor (coreDie g.core) pa size repl) != some (coreDie g.core) then .fault s cPerm 5 0
    else
      match farRead s1 gid g pa size repl n with
      | .error p => p
      | .ok (bs, s2) => .done s2 (outs bs) false

/-- A write of bytes at a virtual address by lane `l`; `own` for a .SP access. `mates` are writes of other lanes in the same
line, which a peer's request covers too: lane, address and bytes (R345). -/
def vaWrite (s : State) (gid : Nat) (g : Group) (e : Entry) (l : Nat) (va : DWord) (own : Bool) (bs : List Byte)
    (mates : List (Nat × DWord × List Byte)) : Perf :=
  match xlate s g.core g.ctx (rootOf s g) va .w with
  | .error (c, d) => .fault s c d 0
  | .ok (.peer rank, s1) =>
    if own then .fault s cPerm 5 0
    else
      let ws := sortBy (fun w => [w.1]) ((l, va, bs) :: mates)
      match postPeer s1 gid g e rank (maskOf (fun k => ws.any (fun w => w.1 == k)))
          (ws.flatMap (fun w => w.2.2.mapIdx (fun k b => (w.2.1.toNat + k, b)))) with
      | .posted s2 m =>
        .posted (ws.foldl (fun s w => farUpdate s g.core (farKeyPeer rank va.toNat) (w.2.1.toNat % 64) w.2.2) s2) m
      | p => p
  | .ok (.loc pa size repl prop, s1) =>
    let at_ := frameFor (coreDie g.core) pa size repl
    if own && spDie at_ != some (coreDie g.core) then .fault s cPerm 5 0
    else
      match writeAt s1 (g.writer gid) pa size repl prop bs with
      | .done s2 o f => .done (farUpdate s2 g.core (farKeyLoc at_) (at_ % 64) bs) o f
      | p => p

/-- One lane of an ATOM (R265). -/
def atomLane (s : State) (gid : Nat) (g : Group) (e : Entry) (f : MFmt) (l : Nat) (va : DWord) : Perf :=
  let n := f.wid.bytes
  let b := (Map.get 0 e.data l).toNat % 2 ^ (8 * n)
  let c := (Map.get 0 e.cmp l).toNat % 2 ^ (8 * n)
  let ety := f.ofs.toNat / 2 ^ 28
  match xlate s g.core g.ctx (rootOf s g) va .w with
  | .error (k, d) => .fault s k d 0
  | .ok (.peer rank, s1) =>
    askPeer s1 gid g e rank va.toNat (laneBit l) (fun p => { p with
      cls := 2, addr := va, plen := n, payload := BitVec.ofNat 512 b, cmp := BitVec.ofNat 512 c, aop := f.mfn.toNat, aty := ety,
      awid := n, returning := true })
  | .ok (.loc pa size repl prop, s1) =>
    match atomAt s1 (g.writer gid) pa size repl prop f.mfn.toNat ety n b c with
    | .error p => p
    | .ok (old, s2) =>
      .done (farDrop s2 g.core (farKeyLoc (frameFor (coreDie g.core) pa size repl)))
        (loadOuts f.r.dst.toNat l (leBytes n old)) (f.mfn == 7 && old != c)

/-! ### LAUNCH -/

/-- The 64 bytes of a record's line that an entry has read from a peer: parts 4k to 4k + 3 of its data. -/
def peerHalf (e : Entry) (k : Nat) : Option (List Byte) :=
  if (List.range 4).all (fun i => (Map.find e.data (4 * k + i)).isSome) then
    some ((List.range 4).flatMap (fun i => leBytes 16 (Map.get 0 e.data (4 * k + i)).toNat))
  else none

/-- One line of a LAUNCH record at a peer: read before, in the core's cache, or asked for. -/
def launchPeer (s : State) (gid : Nat) (g : Group) (e : Entry) (rank va k : Nat) : Except Perf (List Byte × State) :=
  match peerHalf e k with
  | some bs => .ok (bs, s)
  | none =>
    match farLine s gid g.core (farKeyPeer rank (va + 64 * k)) with
    | some line => .ok (lineBytes line 0 64, seeLine s gid g.core rank (va + 64 * k))
    | none => .error (askPeer s gid g e rank (va + 64 * k) e.mask (fun p => { p with cls := 0 }))

/-- The 128 bytes of a LAUNCH record, read as an LDF of the group reads them: from their home through the core's cache (R146, R248,
R322). -/
def launchRecord (s : State) (gid : Nat) (g : Group) (e : Entry) (va : DWord) : Except Perf (List Byte × State) := do
  match xlate s g.core g.ctx (rootOf s g) va .r with
  | .error (c, d) => .error (.fault s c d 0)
  | .ok (.loc pa size repl _, s1) =>
    let (a, s2) ← farRead s1 gid g pa size repl 64
    let (b, s3) ← farRead s2 gid g (pa + 64) size repl 64
    return (a ++ b, s3)
  | .ok (.peer rank, s1) =>
    let (a, s2) ← launchPeer s1 gid g e rank va.toNat 0
    let (b, s3) ← launchPeer s2 gid g e rank va.toNat 1
    return (a ++ b, s3)

/-- The part of a LAUNCH's data that says it is writing a peer's ring slot: the slot's address, with the lines acknowledged. DEDUCED, log 107. -/
def ringPart : Nat := 8

/-- R146: a LAUNCH that writes its record into a ring slot of a peer: the slot, and how many of its lines are acknowledged. DEDUCED, log 107. -/
def Entry.ring (e : Entry) : Option (Nat × Nat) :=
  (Map.find e.data ringPart).map (fun x => (x.toNat / 2 ^ 64, x.toNat % 2 ^ 64))

/-- R146, R147: another LAUNCH to the queue is between its check and its append. DEDUCED, log 107. -/
def ringBusy (s : State) (gid id : Nat) (queue : BitVec 6) : Bool :=
  s.groups.any (fun x => x.2.entries.any (fun e => !(x.1 == gid && e.id == id) && e.ring.isSome &&
    (match e.instr with | .launch f => f.mfn == queue | _ => false)))

/-- The record's line `k` goes to a peer's ring slot; the append waits for its acknowledgement. DEDUCED, log 107. -/
def askRing (s : State) (gid : Nat) (g : Group) (e : Entry) (rank slot k : Nat) (rec128 : List Byte) : Perf :=
  let at_ := slot + 64 * k
  if !rankMapped s g.ctx rank then .faultAt s (BitVec.ofNat 64 at_) cRemote 3 rank
  else if lineHeld s gid g rank at_ then .wait
  else
    let (tag, s1) := s.takeId
    let pkt := { mkPacket s1 g.ctx 1 rank at_ tag with
      plen := 64, payload := lineOf (sliceB rec128 (64 * k) 64), be := BitVec.allOnes 64 }
    let s2 := sendReq s1 { entryReq s1 e g gid pkt e.mask false with va := BitVec.ofNat 64 at_ }
    .sent (modEntry s2 gid e.id (fun e => { e with
      sent := e.sent ||| e.mask, data := Map.put e.data ringPart (BitVec.ofNat 128 (slot * 2 ^ 64 + k)) }))

/-- A peer has taken a line of the record: the core's cached line has it, and the LAUNCH goes on. DEDUCED, log 107. -/
def ringAcked (s : State) (tag : Nat) (r : FabReq) : State :=
  let s1 := farUpdate { s with fabReqs := Map.del s.fabReqs tag } r.core (farKeyPeer r.pkt.dest r.pkt.addr.toNat) 0
    (lineBytes r.pkt.payload 0 64)
  modEntry s1 r.gid r.entry (fun e =>
    match e.ring with
    | some (slot, k) => { e with sent := 0, data := Map.put e.data ringPart (BitVec.ofNat 128 (slot * 2 ^ 64 + k + 1)) }
    | none => e)

/-- R146: the append: the record into the ring slot as the group's own store, then LQTAIL goes up by one. A fault of the store
names the slot. A slot of a peer is written first, and LQTAIL follows the acknowledgements. DEDUCED, log 107. -/
def launchLane (s : State) (gid : Nat) (g : Group) (e : Entry) (f : MFmt) (va : DWord) : Perf :=
  match launchRecord s gid g e va with
  | .error p => p
  | .ok (rec128, s1) =>
    let n := f.mfn.toNat
    let q := Map.get LQueue.reset s1.lqs n
    let st := launchStatus q g.ctx
    let outs : List RegWrite := [.s f.r.dst.toNat (BitVec.ofNat 64 st)]
    let next : State := { s1 with lqs := Map.put s1.lqs n { q with lqtail := BitVec.ofNat 64 ((q.lqtail.toNat + 1) % 2 ^ 32) } }
    if ringBusy s1 gid e.id f.mfn then .wait
    else if st != 0 then .done s1 outs false
    else if e.ring == some (q.slot, 2) then .done next outs false
    else
      match xlate s1 g.core g.ctx (rootOf s1 g) (BitVec.ofNat 64 q.slot) .w with
      | .error (c, d) => .faultAt s (BitVec.ofNat 64 q.slot) c d 0
      | .ok (.peer rank, s2) =>
        askRing s2 gid g e rank q.slot (match e.ring with | some (a, k) => if a == q.slot then k else 0 | none => 0) rec128
      | .ok (.loc _ _ _ _, _) =>
        let half (s : State) (k : Nat) : Perf :=
          let at_ : DWord := BitVec.ofNat 64 (q.slot + 64 * k)
          match vaWrite s gid g e (lowLane e.mask) at_ false (sliceB rec128 (64 * k) 64) [] with
          | .done s2 _ _ => .done s2 outs false
          | .fault _ c d a => .faultAt s at_ c d a
          | _ => .wait
        match half next 0 with
        | .done s2 _ _ =>
          (match half s2 1 with
           | .faultAt _ at_ c d a => .faultAt s at_ c d a
           | p => p)
        | .faultAt _ at_ c d a => .faultAt s at_ c d a
        | p => p

/-- The presence bit of an own-die line (R268). -/
def presenceLane (s : State) (g : Group) (va : DWord) (fn : State → Nat → Perf) : Perf :=
  match xlate s g.core g.ctx (rootOf s g) va .r with
  | .error (c, d) => .fault s c d 0
  | .ok (.peer _, _) => .fault s cPerm 5 0
  | .ok (.loc pa size repl _, s1) =>
    let at_ := frameFor (coreDie g.core) pa size repl
    if spDie at_ != some (coreDie g.core) then .fault s cPerm 5 0 else fn s1 (at_ / 64)

/-- Lists a number once, in rising order. -/
def insNat (l : List Nat) (n : Nat) : List Nat := l.filter (· < n) ++ n :: l.filter (fun x => decide (n < x))

/-- One lane of an access at its home. DESIGN CHOICE, log 23, 36. -/
def performLane (s : State) (gid : Nat) (g : Group) (e : Entry) (l : Nat) (va : DWord) : Perf :=
  match e.instr with
  | .ld f =>
    let n := f.wid.bytes
    if f.spc == .tm then
      teamPerf s g (fun t =>
        if poisoned t.poison va.toNat n then .error (cMachine, 2)
        else .ok (t, loadOuts f.r.dst.toNat l (t.rd va.toNat n)))
    else vaRead s gid g e l va n true (loadOuts f.r.dst.toNat l)
  | .st f =>
    let bs := storeBytes e l f.wid.bytes
    if f.spc == .tm then
      teamPerf s g (fun t =>
        if taggedIn t.tags va.toNat f.wid.bytes then .error (cBarOverwrite, 0) else .ok (t.wr va.toNat bs, []))
    else vaWrite s gid g e l va true bs []
  | .ldf f => vaRead s gid g e l va f.wid.bytes false (loadOuts f.r.dst.toNat l)
  | .stf f =>
    let n := f.wid.bytes
    vaWrite s gid g e l va false (storeBytes e l n) (((lanesOf (lineLanes s g e l va.toNat)).filter (· != l)).map (fun k =>
      (k, Map.get 0 e.addr k, storeBytes e k n)))
  | .atom f => atomLane s gid g e f l va
  | .thld f => vaRead s gid g e l va 64 false (fun bs => [.th f.r.dst.toNat (lineOf bs) (handleType (lineOf bs))])
  | .thst _ => vaWrite s gid g e l va false (storeLine e) []
  | .presclr _ => presenceLane s g va (fun s n => .done { s with absent := insNat s.absent n } [] false)
  | .presclrSet _ => presenceLane s g va (fun s n => .done { s with absent := s.absent.filter (· != n) } [] false)
  | .prestest f => presenceLane s g va (fun s n => .done s [.p f.r.dst.toNat l (!s.absent.contains n)] false)
  | .launch f => launchLane s gid g e f va
  | _ => .done s [] false

/-- What a peer's answer gives one lane (R345): the line for a read, the old value for an atomic. -/
def answerLane (e : Entry) (l : Nat) (resp : Line) : List RegWrite × Bool :=
  let a := (Map.get 0 e.addr l).toNat
  match e.instr with
  | .ldf f => (loadOuts f.r.dst.toNat l (lineBytes resp (a % 64) f.wid.bytes), false)
  | .thld f => ([.th f.r.dst.toNat resp (handleType resp)], false)
  | .atom f =>
    let n := f.wid.bytes
    (loadOuts f.r.dst.toNat l (lineBytes resp 0 n),
     f.mfn == 7 && resp.toNat % 2 ^ (8 * n) != (Map.get 0 e.cmp l).toNat % 2 ^ (8 * n))
  | _ => ([], false)

/-- The group after a lane of an entry is performed. -/
def laneDone (s : State) (gid : Nat) (e : Entry) (m : Mask) (outs : List RegWrite) (fails : Bool) : State :=
  modEntry s gid e.id (fun e => { e with
    done := e.done ||| m, sent := maskMinus e.sent m, fault := maskMinus e.fault m, outs := e.outs ++ outs, fails := e.fails || fails })

/-- R55: when an entry's last lane is performed: its refresh is made (R320), destinations known, and an entry with no flag
is freed. -/
def entryOver (s : State) (gid id : Nat) : State :=
  match Map.find s.groups gid with
  | none => s
  | some g =>
    match g.entries.find? (fun e => e.id == id) with
    | none => s
    | some e =>
      if !e.over then s
      else
        let s1 := match e.ref with
          | some scope => learn (refreshAt s g.core scope) gid scope
          | none => s
        if e.flag.isSome then modEntry s1 gid id (fun e => { e with ready := true })
        else { s1 with groups := Map.modify s1.groups gid (fun g => { g with entries := g.entries.filter (fun e => e.id != id) }) }

/-- R378: the faults met at the home that are precise: PERM_FAULT 4 to 6 and BAR_OVERWRITE. -/
def preciseCause (cause detail : Nat) : Bool := cause == cBarOverwrite || (cause == cPerm && decide (4 ≤ detail))

/-- Lanes of an entry take a fault at the home: the entry stays, and its flag stays pending (R379, R380). DEDUCED, log 104. -/
def entryFault (s : State) (gid : Nat) (e : Entry) (kind : Nat) (m : Mask) (addr : SMap DWord) (cause detail aux : Nat) (mask : Mask) : State :=
  raiseTrap (modEntry s gid e.id (fun e => { e with fault := e.fault ||| m, sent := maskMinus e.sent m }))
    { gid, pos := e.pos, pc := e.pc, act := e.mask, kind, ref := e.id } { cause, detail, lanes := m, aux, addr, mask := some mask }

/-- R253: a fault of one lane that replays takes an entry of the core's fault buffer, and waits while it is full. -/
def laneFault (s : State) (gid : Nat) (e : Entry) (l : Nat) (va : DWord) (cause detail aux : Nat) : State :=
  if faultsFull s gid then s
  else entryFault s gid e 1 (laneBit l) [(l, va)] cause detail aux (Config.freeWord (s.free * 2 ^ 64 + l))

/-- The line that a read of a peer comes to: the cached one where the line is in the cache by now, else the peer's, which fills
the cache (R248) unless a write of the core, a refresh or another fill of the line came since it was asked for: it could be older. DEDUCED,
log 92. DEDUCED, log 92. -/
def answerLine (s : State) (gid core : Nat) (r : FabReq) (resp : Line) : Line × State :=
  let key := farKeyPeer r.pkt.dest r.pkt.addr.toNat
  match farLine s gid core key with
  | some line => (line, seeLine s gid core r.pkt.dest r.pkt.addr.toNat)
  | none => (resp, if r.fresh then farFill s core key resp else s)

/-- The answer of a peer to a request of an entry, for every lane the request covers. -/
def answerEntry (s : State) (gid : Nat) (g : Group) (e : Entry) (tag : Nat) (r : FabReq) (resp : Line) : State :=
  let s1 := { s with fabReqs := Map.del s.fabReqs tag }
  match e.instr with
  | .launch _ =>
    let base := if (peerHalf e 0).isSome || r.pkt.addr.toNat / 64 != (Map.get 0 e.addr (lowLane e.mask)).toNat / 64 then 4 else 0
    let (line, s2) := answerLine s1 gid g.core r resp
    modEntry s2 gid e.id (fun e => { e with
      sent := 0, data := (thParts line).foldl (fun m p => Map.put m (base + p.1) p.2) e.data })
  | .atom _ =>
    let (outs, fails) := answerLane e (lowLane r.lanes) resp
    entryOver (farDrop (laneDone s1 gid e r.lanes outs fails) g.core (farKeyPeer r.pkt.dest r.pkt.addr.toNat)) gid e.id
  | _ =>
    let (line, s2) := answerLine s1 gid g.core r resp
    entryOver (laneDone s2 gid e r.lanes ((lanesOf r.lanes).flatMap (fun l => (answerLane e l line).1)) false) gid e.id

/-- The pending lanes of an entry that meet one precise cause at their home now. DEDUCED, log 104. -/
def preciseLanes (s : State) (gid : Nat) (g : Group) (e : Entry) (cause detail : Nat) : Mask :=
  maskOf (fun l => (maskMinus e.mask (e.done ||| e.fault ||| e.sent)).getLsbD l && !earlierPending s g e l &&
    (match performLane s gid g e l (Map.get 0 e.addr l) with
     | .fault _ c d _ => c == cause && d == detail
     | _ => false))

/-- R378, R379: what the checks at issue would have refused is a precise cause still: every lane that meets it now is an origin, and
MASK holds those lanes. The lanes are resolved through the entry. DEDUCED, log 104. -/
def preciseFault (s : State) (gid : Nat) (g : Group) (e : Entry) (cause detail : Nat) : State :=
  let m := preciseLanes s gid g e cause detail
  entryFault s gid e 0 m ((lanesOf m).map (fun l => (l, Map.get 0 e.addr l))) cause detail 0 m

/-- R379: an origin of a precise cause met at the home is not resolved: the entry's other lanes wait, as the instruction has no
effect. DEDUCED, log 104. -/
def preciseOpen (s : State) (g : Group) (id : Nat) : Bool :=
  let mine (o : Origin) : Bool := o.kind == 0 && o.ref == id
  g.resolved.any (fun r => mine r.origin) ||
  s.cores.any (fun c => c.2.trapq.any (fun o => g.openOrg.contains o.id && mine o)) ||
  s.groups.any (fun h => h.2.lanes.any (fun o => g.openOrg.contains o.id && mine o))

/-- One lane of a logged access is performed, or its request goes to a peer, or the answer `resp` of its request arrives. DESIGN CHOICE, log 23. -/
def performEntry (s : State) (gid : Nat) (g : Group) (e : Entry) (l : Nat) (resp : Line) : State :=
  if !e.mask.getLsbD l || e.done.getLsbD l || e.fault.getLsbD l then s
  else if e.sent.getLsbD l then
    if !linked s then s else
    match s.fabReqs.find? (fun r => r.2.gid == gid && r.2.entry == e.id && r.2.lanes.getLsbD l) with
    | some (tag, r) => if r.pkt.cls == 1 then s else answerEntry s gid g e tag r resp
    | none => s
  else if earlierPending s g e l || (e.fault != 0 && preciseOpen s g e.id) then s
  else
    match performLane s gid g e l (Map.get 0 e.addr l) with
    | .wait => s
    | .sent s1 => s1
    | .fault s1 c d aux =>
      if preciseCause c d then preciseFault s gid g e c d else laneFault s1 gid e l (Map.get 0 e.addr l) c d aux
    | .faultAt s1 va c d aux => laneFault s1 gid e l va c d aux
    | .posted s1 m => entryOver (laneDone s1 gid e m [] false) gid e.id
    | .done s1 outs fails => entryOver (laneDone s1 gid e (laneBit l) outs fails) gid e.id

/-! ### Completion -/

/-- One write of a destination register. -/
def Group.put (g : Group) (o : RegWrite) : Group :=
  match o with
  | .v r l x => g.wrV r l x
  | .s r x => g.wrS r x
  | .p r l x => g.wrP r l x
  | .th r x ty => g.wrTh r x ty

/-- R56: a register was written after an instruction in flight had issued. DEDUCED, log 17. -/
def Group.racedBy (g : Group) (id key : Nat) : Bool :=
  match Map.find g.raced key with
  | some n => decide (id ≤ n)
  | none => false

/-- R56: the writes of the completion of an instruction; where a later write raced a register, either value stays. -/
def applyOuts (g : Group) (fc id : Nat) (outs : List RegWrite) : Group :=
  let g1 := outs.foldl (fun g o =>
    if g.racedBy id o.key && Config.raceKeep fc o.key then g else { (g.put o) with raced := g.raced }) g
  if g1.entries.isEmpty then { g1 with raced := [] } else g1

/-- R54, R55: an instruction that chose a flag completes: every destination register is written, the flag's count goes
down, its entry is freed; a CAS that failed in a lane demotes the split that issued it, while that split lives (R88); MRES and MSTAT leave oc.mat (R216). DEDUCED, log 17. DESIGN CHOICE, log 23. -/
def execFlaggedComplete (gid id : Nat) (s : State) : Host.Outcome State Fault Refusal :=
  match Map.find s.groups gid with
  | none => .next s
  | some g =>
    match g.entries.find? (fun e => e.id == id) with
    | none => .next s
    | some e =>
      if !e.ready || e.fault != 0 then .next s
      else
        let g1 := applyOuts { g with entries := g.entries.filter (fun x => x.id != id) } s.free id e.outs
        let mat := match e.instr with | .mres _ | .mstat _ => 1 | _ => 0
        let g2 := ({ g1 with fpf := g1.fpf ||| e.fpf, ocMat := g1.ocMat - mat }).dropFlag e.flag
        .next (s.putG gid (if e.fails && e.mine then g2.demote e.pos else g2))

end Sys2Proof.Machine
end

