-- ==== Sys2Proof/Machine/Object.lean ====
section
/-!
DEFINITION. Barrier objects and mortises as objects at their homes: names (R291, R434), layouts (R292, R306, R308), the
application of arrivals and credits (R293, R302), and the wake of the splits that wait on them (R294, R299).
-/
namespace Sys2Proof.Machine

/-! ### Waits -/

/-- The instructions that hold their split until they complete and may choose a flag, but PEGWAIT, whose wake names its entry. -/
def endsByWait (i : Instr) : Bool :=
  match i with
  | .barwait _ | .publish _ | .ifence _ => true
  | _ => false

/-- A split's wait is over, and the entry of the instruction it waited at, where it chose a flag, is complete. DEDUCED, log 19. -/
def Group.endWait (g : Group) (pos : Nat) : Group :=
  let waits (e : Entry) : Bool := e.pos == pos && e.mine && endsByWait e.instr
  { g with
    splits := Map.modify g.splits pos (fun sp => { sp with wait := .none }),
    entries := g.entries.map (fun e => if waits e then { e with ready := true } else e) }

/-- An instruction complete at issue, with the flag it marks: its writes go to its flag's completion, or at once where it chose none. -/
def postDoneAs (s : State) (c : Iss) (i : Instr) (flag : Option Nat) (outs : List RegWrite) : State :=
  match flag with
  | none => c.done s (outs.foldl Group.put c.g)
  | some _ =>
    let (id, s1) := s.takeId
    let e := mkEntry id i c .result { on := c.act, addr := [], data := [], cmp := [] }
    let g := { (c.g.advance c.pos) with entries := c.g.entries ++ [{ e with flag := flag, done := c.act, outs := outs, ready := true }] }
    s1.putG c.gid (g.markFlag flag)

/-- An instruction complete at issue. -/
def postDone (s : State) (c : Iss) (i : Instr) (outs : List RegWrite) : State := postDoneAs s c i (c.flag i) outs

/-- An instruction that holds its split until it completes (R299, R301, R304, R313): its entry, where it chose a flag, is
completed by the wake. -/
def postWait (s : State) (c : Iss) (i : Instr) (w : Nat → Wait) : State :=
  let (id, s1) := s.takeId
  let e := mkEntry id i c .result { on := c.act, addr := [], data := [], cmp := [] }
  let g := { (c.g.advance c.pos) with
    entries := c.g.entries ++ (if (c.flag i).isSome then [{ e with done := c.act }] else []) }
  s1.putG c.gid ({ g with splits := Map.modify g.splits c.pos (fun sp => { sp with wait := w id }) }.markFlag (c.flag i))

/-! ### Objects -/

/-- The bytes of an object's place. DESIGN CHOICE, log 21. -/
def objRd (s : State) (loc : ObjLoc) (o n : Nat) : List Byte :=
  match loc with
  | .team t off => match Map.find s.teams t with | some x => x.rd (off + o) n | none => []
  | .phys pa => s.rd (pa + o) n

/-- The frames of an object's place: four of a replicated page that its name has led to (R251, R339). DESIGN CHOICE, log 21. -/
def objFrames (s : State) (pa : Nat) : List Nat :=
  match Map.find s.objRep (pa / 64) with
  | some size => framesOf pa size true
  | none => [pa]

/-- A replicated page's object has a line as a further frame. -/
def furtherFrame (r : Nat × Nat) (line : Nat) : Bool := (framesOf (64 * r.1) r.2 true).tail.contains (64 * line)

/-- A tagged line that is its object's own: no further frame of a replicated page's object. -/
def ownTag (s : State) (t : Nat) : Bool := !s.objRep.any (fun r => furtherFrame r t)

/-- A write of an object's bytes, in every frame at once. DESIGN CHOICE, log 21. -/
def objWr (s : State) (loc : ObjLoc) (o : Nat) (bs : List Byte) : State :=
  match loc with
  | .team t off => { s with teams := Map.modify s.teams t (fun x => x.wr (off + o) bs) }
  | .phys pa => (objFrames s pa).foldl (fun s a => wrFrame s (a + o) bs) s

/-- R248, R322, R339: the core whose group wrote the first `n` bytes of an object sees them in its far-read cache. DEDUCED, log 92. -/
def objSeen (s : State) (core : Nat) (loc : ObjLoc) (n : Nat) : State :=
  match loc with
  | .team _ _ => s
  | .phys pa => (objFrames s pa).foldl (fun t a => farPatch t core (farKeyLoc a) (a % 64) (s.rd pa n)) s

/-- The line an object lies in, and the object's place in it. -/
def objBase (loc : ObjLoc) : ObjLoc × Nat :=
  match loc with
  | .team t off => (.team t (off / 64 * 64), off % 64)
  | .phys pa => (.phys (pa / 64 * 64), pa % 64)

/-- The barrier tag of an object's line (R247). -/
def objTagged (s : State) (loc : ObjLoc) : Bool :=
  match loc with
  | .team t off => match Map.find s.teams t with | some x => x.tags.contains (off / 64) | none => false
  | .phys pa => s.tags.contains (pa / 64)

def setTag (tags : List Nat) (n : Nat) (on : Bool) : List Nat := if on then insNat tags n else tags.filter (· != n)

def objTag (s : State) (loc : ObjLoc) (on : Bool) : State :=
  match loc with
  | .team t off => { s with teams := Map.modify s.teams t (fun x => { x with tags := setTag x.tags (off / 64) on }) }
  | .phys pa => { s with tags := (objFrames s pa).foldl (fun ts a => setTag ts (a / 64) on) s.tags }

/-- R292: a valid barrier object: its line tagged and its VALID bit set. -/
def barValid (s : State) (loc : ObjLoc) : Bool := objTagged s loc && bit (BitVec.ofNat 8 (leNat (objRd s loc 0x10 1))) 7

/-- Whether the line holds a barrier object in either half. -/
def lineHasBar (s : State) (loc : ObjLoc) : Bool :=
  let b := (objBase loc).1
  objTagged s b && (bit (BitVec.ofNat 8 (leNat (objRd s b 0x10 1))) 7 || bit (BitVec.ofNat 8 (leNat (objRd s b 0x30 1))) 7)

/-- R306: a valid mortise: its line tagged, STATE.VALID set, and no barrier object in it. -/
def mortValid (s : State) (loc : ObjLoc) : Bool :=
  let b := (objBase loc).1
  objTagged s b && !lineHasBar s b && bit (BitVec.ofNat 8 (leNat (objRd s b 2 1))) 0

/-- A barrier object's fields (R292). -/
structure BarObj where
  phase : Nat
  expa  : Nat
  rcva  : Nat
  expu  : Nat
  rcvu  : Nat
  kind  : Nat
  deriving DecidableEq, Repr

def barRd (s : State) (loc : ObjLoc) : BarObj :=
  let b := objRd s loc 0 17
  { phase := leAt b 0 4, expa := leAt b 4 2, rcva := leAt b 6 2, expu := leAt b 8 4, rcvu := leAt b 12 4, kind := leAt b 16 1 }

def BarObj.bytes (o : BarObj) : List Byte :=
  leBytes 4 o.phase ++ leBytes 2 o.expa ++ leBytes 2 o.rcva ++ leBytes 4 o.expu ++ leBytes 4 o.rcvu ++ leBytes 1 o.kind

/-- R294. -/
def phaseReached (phase ph : Nat) : Bool := decide ((phase + 2 ^ 32 - ph % 2 ^ 32) % 2 ^ 32 < 2 ^ 31)

/-- R293: counts after an application. -/
def BarObj.add (o : BarObj) (a u : Nat) : BarObj :=
  { o with rcva := if o.expa == 0 then o.rcva else min (o.rcva + a) 0xFFFF,
           rcvu := if o.kind % 4 == 0 then o.rcvu else min (o.rcvu + u) 0xFFFFFFFF }

/-- R293: how many phases the counts complete. -/
def BarObj.turns (o : BarObj) : Nat :=
  if o.expa == 0 && o.expu == 0 then 0
  else if o.expu == 0 then o.rcva / o.expa
  else if o.expa == 0 then o.rcvu / o.expu
  else min (o.rcva / o.expa) (o.rcvu / o.expu)

/-- R293: the advances of an application: the excess carries into the next phase. -/
def BarObj.advance (o : BarObj) : BarObj :=
  let k := o.turns
  { o with phase := (o.phase + k) % 2 ^ 32, rcva := o.rcva - k * o.expa, rcvu := o.rcvu - k * o.expu }

/-- R299: the splits of a group whose phase is reached wake, and the group refreshes. -/
def wakeGroup (s : State) (gid : Nat) (loc : ObjLoc) (phase : Nat) : State :=
  match Map.find s.groups gid with
  | none => s
  | some g =>
    g.splits.foldl (fun s p =>
      match p.2.wait with
      | .phase l ph scope =>
        if l == loc && phaseReached phase ph then
          refreshGroup { s with groups := Map.modify s.groups gid (fun g => g.endWait p.1) } gid scope.code
        else s
      | _ => s) s

/-- Every waiter on an object whose phase is reached wakes. -/
def wakeObj (s : State) (loc : ObjLoc) : State :=
  let phase := (barRd s loc).phase
  (Map.keys s.groups).foldl (fun s gid => wakeGroup s gid loc phase) s

/-- RED entries held for an object's advance, whose arrivals are applied, in the order of R302. -/
def heldRed (s : State) (loc : ObjLoc) : List RedEntry :=
  let es := (s.barRed.filter (fun b => b.1 == loc && b.2.1 == 0)).flatMap (fun b => b.2.2)
  sortBy RedEntry.key es

/-- R302: drains what is held for an object; what cannot be applied yet stays. -/
def drainHeld (s : State) (loc : ObjLoc) : State :=
  let (left, s1) := drainList s (heldRed s loc)
  let rest := s1.barRed.filter (fun b => !(b.1 == loc && b.2.1 == 0))
  { s1 with barRed := if left.isEmpty then rest else rest ++ [(loc, 0, left)] }

/-- R302, R327: every RED entry drained for an object's advance is in every frame. -/
def redPlaced (s : State) (owner : FrameOwner) : Bool := s.frameQ.all (fun u => u.owner != owner)

/-- The entry an application names. -/
def arriveEntry (s : State) (gid id : Nat) : Option Entry :=
  (Map.find s.groups gid).bind (fun g => g.entries.find? (fun e => e.id == id))

/-- R298: a BARARR completes when its application is made. -/
def applied (s : State) (src : ApplySrc) : State :=
  match src with
  | .arrive gid id =>
    match arriveEntry s gid id with
    | some e => entryOver (laneDone s gid e e.mask [] false) gid id
    | none => s
  | _ => s

/-- The core of the group whose arrival an application is. -/
def ApplySrc.core (s : State) (src : ApplySrc) : Option Nat :=
  match src with
  | .arrive gid _ => (Map.find s.groups gid).map Group.core
  | _ => .none

/-- R293, R339: an object's counts and phase are written, and the arriving group's core sees them. -/
def barWr (s : State) (loc : ObjLoc) (o : BarObj) (src : ApplySrc) : State :=
  let s1 := objWr s loc 0 o.bytes
  match src.core s with
  | some core => objSeen s1 core loc 17
  | none => s1

/-- The address a name's trap reports. -/
def nameVa (name : DWord) : DWord := BitVec.ofNat 64 (if bit name 63 then bits name 55 0 else bits name 31 0)

/-- R379, R434: a BARARR's object is refused after its issue. One origin speaks for the split, and the entry stays. DEDUCED, log 104. -/
def arriveFault (s : State) (gid : Nat) (e : Entry) (cause detail : Nat) : State :=
  raiseTrap (modEntry s gid e.id (fun e => { e with fault := e.mask, sent := 0 }))
    { gid, pos := e.pos, pc := e.pc, act := e.act, kind := 0, ref := e.id }
    { cause, detail, addr := [(lowLane e.act, nameVa (Map.get 0 e.addr (lowLane e.act)))] }

/-- R291, R297: an application to an object that holds no valid barrier any more: the arrival's instruction, or the engine
operation that made the credit, takes PERM_FAULT 6. DEDUCED, log 20. -/
def applyLost (s : State) (src : ApplySrc) : State :=
  match src with
  | .arrive gid id =>
    match arriveEntry s gid id with
    | some e => arriveFault s gid e cPerm 6
    | none => s
  | .engine r va => raiseTrap s r { cause := cPerm, detail := 6, addr := [(lowLane r.act, va)] }
  | .none => s

/-- R302: an arrival that is applied brings its group's RED entries to the object. -/
def bringRed (s : State) (src : ApplySrc) : State :=
  match src with
  | .arrive _ id => { s with barRed := s.barRed.map (fun b => if b.2.1 == id then (b.1, 0, b.2.2) else b) }
  | _ => s

/-- R293, R302: one application at the object's home, or its wait for RED entries that cannot be applied yet. -/
def applyNow (s : State) (loc : ObjLoc) (ctx a u : Nat) (src : ApplySrc) : State :=
  if !barValid s loc then applyLost s src
  else
    let o := (barRd s loc).add a u
    let s0 := bringRed s src
    if o.turns == 0 then applied (barWr s0 loc o src) src
    else
      let s1 := drainHeld s0 loc
      if (heldRed s1 loc).isEmpty && redPlaced s1 (.obj loc) then
        wakeObj (applied (barWr s1 loc o.advance src) src) loc
      else { s1 with heldApply := s1.heldApply ++ [{ loc := loc, ctx := ctx, a := a, u := u, src := src }] }

/-- R293: applications reach an object one at a time, in order. DEDUCED, log 20. -/
def applyObj (s : State) (loc : ObjLoc) (ctx a u : Nat) (src : ApplySrc) : State :=
  if s.heldApply.any (fun h => h.loc == loc) then
    { s with heldApply := s.heldApply ++ [{ loc := loc, ctx := ctx, a := a, u := u, src := src }] }
  else applyNow s loc ctx a u src

/-- The applications of an object that wait are tried again, oldest first. -/
def retryHeld (s : State) (loc : ObjLoc) : State :=
  let mine := s.heldApply.filter (fun h => h.loc == loc)
  let s0 := { s with heldApply := s.heldApply.filter (fun h => h.loc != loc) }
  mine.foldl (fun s h => applyObj s loc h.ctx h.a h.u h.src) s0

/-! ### Names (R291, R434) -/

/-- A trap about an object name, with its address. -/
def nameTrap (c : Iss) (cause detail : Nat) (va : DWord) : Stop :=
  .trap { cause := cause, detail := detail, addr := (lanesOf c.act).map (fun l => (l, va)),
          lanes := if cause == cAlign || cause == cBarOverwrite then c.act else 0 }

/-- R251, R339: whether a line that a name leads to has four frames. -/
def noteRep (s : State) (pa size : Nat) (repl : Bool) : State :=
  let rest := s.objRep.filter (fun r => !furtherFrame r (pa / 64))
  { s with objRep := if repl then Map.put rest (pa / 64) size else Map.del rest (pa / 64) }

/-- R291: a virtual address in a scratchpad window of this device, read or written there (R251). -/
def scratchAt (s : State) (a : Acc) (core ctx root : Nat) (va : DWord) : Except (Nat × Nat) (Nat × State) := do
  let (t, s1) ← xlate s core ctx root va a
  match t with
  | .peer _ => .error (cPerm, 6)
  | .loc pa size repl _ => if (spDie pa).isSome then return (pa, noteRep s1 pa size repl) else .error (cPerm, 6)

/-- R291: where a barrier name leads, in an address space and from a team; cause and detail where it names no object's
place. DEDUCED, log 32. -/
def placeAt (s : State) (a : Acc) (core ctx root team : Nat) (name : DWord) : Except (Nat × Nat) (ObjLoc × State) :=
  if name.toNat % 32 != 0 then .error (cAlign, 0)
  else if bit name 63 then
    if bits name 62 56 != 0 then .error (cPerm, 6)
    else
      match scratchAt s a core ctx root (BitVec.ofNat 64 (bits name 55 0)) with
      | .error e => .error e
      | .ok (pa, s1) => .ok (.phys pa, s1)
  else if bits name 62 32 != 0 then .error (cPerm, 6)
  else
    match Map.find s.teams team with
    | none => .error (cPerm, 6)
    | some t => if t.memSize < bits name 31 0 + 32 then .error (cPerm, 6) else .ok (.team team (bits name 31 0), s)

/-- A group's barrier name, for a read of the object or for a write. DESIGN CHOICE, log 21. DEDUCED, log 32. -/
def nameAt (s : State) (a : Acc) (g : Group) (name : DWord) : Except (Nat × Nat) (ObjLoc × State) :=
  placeAt s a g.core g.ctx (rootOf s g) g.team name

/-- An earlier access of the group, or a deferred operation of it, reaches the object's line and is not performed (R261,
R295, R310). -/
def objBusy (s : State) (g : Group) (loc : ObjLoc) : Bool :=
  let base := (objBase loc).1
  g.entries.any (fun e => !e.over && (lanesOf (maskMinus e.mask e.done)).any (fun l =>
    match base with
    | .team _ off => (laneSpans s e l).any (fun x => spansMeet x (true, off, 64))
    | .phys pa => (laneHomes s g e l).any (fun x => homesMeet x (pa, 64))))

/-- R392: an object's bytes are marked poisoned. -/
def objPoisoned (s : State) (loc : ObjLoc) : Bool :=
  match loc with
  | .phys pa => poisoned s.poison pa 32
  | .team t off => (match Map.find s.teams t with | some x => poisoned x.poison off 32 | none => false)

/-- The object of a barrier instruction: its place, once the group's earlier operations on it are done, with the check that
a valid barrier object lies there (R291). -/
def Iss.barObject (c : Iss) (s : State) (a : Acc) (name : DWord) (valid : Bool) : Res (ObjLoc × State) :=
  match nameAt s a c.g name with
  | .error (k, d) => .error (nameTrap c k d (nameVa name))
  | .ok (loc, s1) =>
    if objBusy s c.g loc then .error .wait
    else if valid && !barValid s loc then .error (nameTrap c cPerm 6 (nameVa name))
    else if objPoisoned s loc then .error (nameTrap c cMachine 2 (nameVa name)) else .ok (loc, s1)

/-- R295: the scope of a barrier instruction; 0 is the natural one. -/
def barScope (n : Nat) (loc : ObjLoc) : Scope :=
  match n % 8 with
  | 1 => .team
  | 2 => .cluster
  | 3 => .die
  | 4 => .device
  | _ => match loc with | .team _ _ => .team | .phys _ => .device

/-- R232, R275, R291: an engine's credit of bytes or rows by the object's unit kind; a credit to a name that names no
valid object, or one whose bytes are poisoned (R392), is dropped and its fault returned. `src` is who made it. DEDUCED, log 32. -/
def credit (s : State) (core ctx root team : Nat) (name : DWord) (bytes rows : Nat) (src : ApplySrc) : State × Option (Nat × Nat) :=
  match placeAt s .r core ctx root team name with
  | .error (k, d) => (s, some (if k == cAlign then (cPerm, 6) else (k, d)))
  | .ok (loc, s1) =>
    if !barValid s loc then (s, some (cPerm, 6))
    else if objPoisoned s loc then (s, some (cMachine, 2))
    else
      match (barRd s loc).kind % 4 with
      | 1 => (applyObj s1 loc ctx 0 bytes src, none)
      | 2 => (applyObj s1 loc ctx 0 rows src, none)
      | _ => (applyObj s1 loc ctx 0 0 src, none)

end Sys2Proof.Machine
end

