-- ==== Sys2Proof/Machine/Matrix.lean ====
section
/-!
DEFINITION. The matrix engine of a bay (R214 to R239): tiles, the operand buffer and its reservations, requests with their
order, arbitration and completion, passes (R116 to R119, R228 to R231), and tile moves.
-/
namespace Sys2Proof.Machine

def State.bayAt (s : State) (b : Nat) : Bay := Map.get Bay.reset s.bays b
def State.putBay (s : State) (b : Nat) (x : Bay) : State := { s with bays := Map.put s.bays b x }

/-! ### Reservation records (R220 to R224) -/

/-- The fields of a record. -/
structure MRec where
  base : Nat
  len  : Nat
  fmt  : Nat
  blk  : Nat
  rstr : Nat
  sofs : Nat
  id   : Nat
  gen  : Nat
  deriving DecidableEq, Repr

def mrecOf (w0 w1 : DWord) : MRec :=
  { base := bits w0 14 0, len := bits w0 31 16, fmt := bits w0 35 32, blk := bits w0 37 36, rstr := bits w0 55 40,
    sofs := bits w1 20 0, id := bits w1 37 32, gen := bits w1 55 40 }

/-- R220: the block length; 0 for none. -/
def MRec.bl (r : MRec) : Nat := if r.blk == 1 then 16 else if r.blk == 2 then 32 else 0

/-- R221: the software fields of a request are well formed. -/
def mresOk (w0 w1 : DWord) : Bool :=
  let r := mrecOf w0 w1
  bits w0 15 15 == 0 && bits w0 39 38 == 0 && bits w0 62 56 == 0 && bits w1 31 21 == 0 && bits w1 39 38 == 0 &&
  bits w1 63 56 == 0 && decide (1 ≤ r.len) && decide (r.len ≤ 32768) && [3, 5, 6, 7, 8, 9, 12].contains r.fmt &&
  ((r.blk != 0) == (r.fmt == 12)) && r.blk != 3 && r.rstr != 0 && r.rstr % 16 == 0 && decide (32 * r.rstr ≤ 64 * r.len) &&
  (if r.blk == 0 then r.sofs == 0
   else 2 * r.rstr % r.bl == 0 && decide (r.sofs + 32 * (2 * r.rstr / r.bl) ≤ 64 * r.len))

/-- The lowest-addressed run of `len` units between the ranges held, sorted by start; `at0` is where it may begin. -/
def firstRun (len : Nat) : Nat → List (Nat × Nat) → Option Nat
  | at0, [] => if at0 + len ≤ 32768 then some at0 else none
  | at0, (b, n) :: t => if at0 + len ≤ b then some at0 else firstRun len (max at0 (b + n)) t

/-- The longest free run. -/
def longestRun : Nat → List (Nat × Nat) → Nat
  | at0, [] => 32768 - at0
  | at0, (b, n) :: t => max (b - at0) (longestRun (max at0 (b + n)) t)

/-- The ranges a bay's reservations hold, by start. -/
def Bay.ranges (b : Bay) : List (Nat × Nat) :=
  sortBy (fun x => [x.1]) (b.resv.map (fun r => ((mrecOf r.2.w0 r.2.w1).base, (mrecOf r.2.w0 r.2.w1).len)))

/-- R221: the buffer unit reserves a range, or nothing; the pair as written back. -/
def Bay.reserve (b : Bay) (ctx : Nat) (w0 w1 : DWord) : Bay × DWord × DWord :=
  let r := mrecOf w0 w1
  let put (base id gen : Nat) (valid : Bool) : DWord × DWord :=
    (setBits (setBits w0 14 0 base) 63 63 (if valid then 1 else 0), setBits (setBits w1 37 32 id) 55 40 gen)
  match lowestFree (Map.keys b.resv) 64 0, firstRun r.len 0 b.ranges with
  | some id, some base =>
    let (x0, x1) := put base id (Map.get 0 b.gens id) true
    ({ b with resv := Map.put b.resv id { ctx := ctx, w0 := x0, w1 := x1, free := false },
              buf := b.buf.filter (fun x => !(decide (64 * base ≤ x.1) && decide (x.1 < 64 * (base + r.len)))) }, x0, x1)
  | _, _ =>
    let (x0, x1) := put 0 0 0 false
    (b, x0, x1)

/-- R222: the reservation a record is current for. -/
def Bay.current (b : Bay) (ctx : Nat) (w0 w1 : DWord) : Option MRec :=
  let r := mrecOf w0 w1
  match Map.find b.resv r.id with
  | none => none
  | some x => if bit w0 63 && x.ctx == ctx && !x.free && mrecOf x.w0 x.w1 == r then some r else none

/-- Bytes of the operand buffer. -/
def Bay.rd (b : Bay) (a n : Nat) : List Byte := (List.range n).map (fun k => Map.get 0 b.buf (a + k))
def Bay.wr (b : Bay) (a : Nat) (bs : List Byte) : Bay :=
  { b with buf := (bs.mapIdx (fun k x => (a + k, x))).foldl (fun m x => Map.set 0 m x.1 x.2) b.buf }

/-! ### Formats (R227) -/

/-- Element type, record FMT, Kp and element bytes of a pass format; 4-bit codes have no type or size. -/
def passTy (efn : Nat) : Ty :=
  match efn with
  | 0 => .bf16 | 1 => .f16 | 2 => .f32 | 3 => .e4m3 | 4 => .e5m2 | _ => .i8
def passFmt (efn : Nat) : Nat := [7, 6, 5, 8, 9, 3, 12].getD efn 12
def passKp (efn : Nat) : Nat := [32, 32, 16, 64, 64, 64, 128].getD efn 128
def passSize (efn : Nat) : Nat := (passTy efn).bits / 8
/-- R116: the chunk length. -/
def passChunk (efn : Nat) : Nat := [32, 32, 8, 64, 64, 64, 128].getD efn 128

/-- R222, R424: the formats in service: FMTS bits 0 to 4 at full service, 0x03 at reduced service. DEDUCED, log 45. -/
def passInService (s : State) (efn : Nat) : Bool := s.svclevel == 1 || decide (efn ≤ 2)

/-- Elements of a row: ⌊RSTR / z⌋, or 2 RSTR codes. -/
def MRec.count (r : MRec) (efn : Nat) : Nat := if efn == 6 then 2 * r.rstr else r.rstr / passSize efn

/-- R102, R103: the value of a 4-bit code under a scale byte. -/
def codeVal (scale code : Nat) : Val :=
  let tt := scale / 64
  let e := scale % 64
  let mag (k : Nat) : Nat := if tt == 2 then [0, 1, 2, 4, 8, 16, 32, 64].getD k 0 else [0, 1, 2, 3, 4, 6, 8, 12].getD k 0
  let ex : Int := (if tt == 1 then -1 else if tt == 2 then -3 else 0) + (e : Int) - 31
  if e == 63 then .nan
  else if tt == 0 then .fin (decide (8 ≤ code)) (if 8 ≤ code then 16 - code else code) ex
  else if tt == 3 && code == 8 then .nan
  else .fin (decide (8 ≤ code)) (mag (code % 8)) ex

/-- An element code of A, or of B in format .B4, and its value (R224). -/
def Bay.codeAt (b : Bay) (r : MRec) (m c : Nat) : Nat :=
  (Map.get 0 b.buf (64 * r.base + m * r.rstr + c / 2)).toNat / 16 ^ (c % 2) % 16
def Bay.scaleAt (b : Bay) (r : MRec) (m c : Nat) : Nat :=
  (Map.get 0 b.buf (64 * r.base + r.sofs + m * (2 * r.rstr / r.bl) + c / r.bl)).toNat

def elemVal (efn bits : Nat) : Val :=
  if efn == 5 then
    let v := toSigned 8 bits
    .fin (decide (v < 0)) v.natAbs 0
  else (ffOf (passTy efn)).value bits

/-- R224, R228: A element (m, c). -/
def Bay.elemAt (b : Bay) (r : MRec) (efn m c : Nat) : Val :=
  if efn == 6 then codeVal (b.scaleAt r m c) (b.codeAt r m c)
  else elemVal efn (leNat (b.rd (64 * r.base + m * r.rstr + c * passSize efn) (passSize efn)))

/-- R227: B(k, n) of the registers supplied. -/
def regElem (efn : Nat) (src : SMap Word) (k n : Nat) : Val :=
  let t := passTy efn
  elemVal efn (elemOf t (Map.get 0 src (32 * (k / t.lanes) + n)) (k % t.lanes))

/-! ### One output element (R116 to R119, R122) -/

/-- A new accumulator word and what MXC counts. -/
structure PassRes where
  word : Nat
  inv  : Bool
  ovf  : Bool
  unf  : Bool
  wrap : Bool
  deriving DecidableEq, Repr

/-- A list cut into chunks. -/
def chunksOf {α : Type} (n : Nat) : Nat → List α → List (List α)
  | 0, _ => []
  | k + 1, l => if l.isEmpty then [] else l.take n :: chunksOf n k (l.drop n)

/-- R116: the sum of a chunk of finite products: bits below 2^(emax - 60) are discarded; sign, magnitude, exponent. DEDUCED, log 89. -/
def chunkSum (ps : List Val) : Bool × Nat × Int :=
  let fins := ps.filterMap (fun v => match v with | .fin s m e => if m == 0 then none else some (s, m, e) | _ => none)
  match fins with
  | [] => (false, 0, 0)
  | (_, m0, e0) :: _ =>
    let top (m : Nat) (e : Int) : Int := (Nat.log2 m : Int) + e
    let emax := fins.foldl (fun a t => max a (top t.2.1 t.2.2)) (top m0 e0)
    let cut := emax - 60
    let v : Int := fins.foldl (fun a t =>
      let m : Nat := if t.2.2 < cut then t.2.1 / 2 ^ (cut - t.2.2).toNat else t.2.1 * 2 ^ (t.2.2 - cut).toNat
      if t.1 then a - (m : Int) else a + (m : Int)) 0
    (decide (v < 0), v.natAbs, cut)

/-- R116: one rounding per chunk. DEDUCED, log 89. -/
def chunkStep (acc : FRes) (ps : List Val) : FRes :=
  let (s, m, e) := chunkSum ps
  let r := sumVals (ffOf .f32) .rn false false [(ffOf .f32).value acc.bits, .fin s m e]
  { bits := r.bits, flags := flOr acc.flags r.flags }

/-- R116, R117: a floating output element from its pairs; where there are none no chunk is formed (R119). DEDUCED, log 89. -/
def passFloat (efn old : Nat) (ps : List (Val × Val)) : PassRes :=
  let f := ffOf .f32
  let prods := ps.map (fun p => mulVal p.1 p.2)
  let acc := f.value old
  let infs := (acc :: prods).filterMap (fun v => match v with | .inf s => some s | _ => none)
  let nan := (acc :: prods).contains .nan || (infs.contains true && infs.contains false)
  let given := acc == .nan || ps.any (fun p => p.1 == .nan || p.2 == .nan)
  if nan then { word := f.canon, inv := !given, ovf := false, unf := false, wrap := false }
  else
    match infs with
    | s :: _ => { word := f.infinite false s, inv := false, ovf := false, unf := false, wrap := false }
    | [] =>
      let chunks := chunksOf (passChunk efn) prods.length prods
      let r := chunks.foldl chunkStep { bits := old, flags := 0 }
      { word := r.bits, inv := false, ovf := r.flags / flOF % 2 == 1, unf := r.flags / flUF % 2 == 1, wrap := false }

/-- R118: an INT8 output element. -/
def passInt (old : Nat) (ps : List (Val × Val)) : PassRes :=
  let num (v : Val) : Int := match v with | .fin s m _ => if s then -(m : Int) else m | _ => 0
  let v := ps.foldl (fun a p => a + num p.1 * num p.2) (toSigned 32 old)
  { word := ofInt 32 v, inv := false, ovf := false, unf := false, wrap := decide (v < -(2 ^ 31)) || decide (2 ^ 31 ≤ v) }

/-- R116, R118: an output element of a pass by its format. DEDUCED, log 89. -/
def passElem (efn old : Nat) (ps : List (Val × Val)) : PassRes := if efn == 5 then passInt old ps else passFloat efn old ps

/-! ### Tiles (R214) -/

def tileKey (t r n : Nat) : Nat := 1024 * t + 32 * r + n

/-- A word of a tile; a tile that is not live holds nothing. -/
def Core.tile (c : Core) (t r n : Nat) : Word := Map.get 0 c.tiles (tileKey t r n)

/-- A completed write makes the tile live. -/
def Core.tileWrite (c : Core) (t : Nat) (ws : List (Nat × Nat × Word)) : Core :=
  { c with tiles := ws.foldl (fun m x => Map.set 0 m (tileKey t x.1 x.2.1) x.2.2) c.tiles,
           acclive := c.acclive ||| (1#16 <<< t) }

/-- Tiles discarded or zeroed. -/
def Core.tilesDrop (c : Core) (mask : BitVec 16) : Core :=
  { c with tiles := c.tiles.filter (fun x => !mask.getLsbD (x.1 / 1024)), acclive := c.acclive &&& ~~~mask }
def Core.tilesZero (c : Core) (mask : BitVec 16) : Core :=
  let c1 := c.tilesDrop mask
  { c1 with acclive := c1.acclive ||| mask }

/-- The number of the tile a request names. -/
def MReq.tile (r : MReq) : Nat := ((List.range 16).find? (fun t => r.tiles.getLsbD t)).getD 0

/-! ### Passes (R228, R229, R231) -/

/-- The stored record of a reservation. -/
def Bay.recOf (b : Bay) (id : Option Nat) : MRec :=
  match id.bind (Map.find b.resv) with
  | some x => mrecOf x.w0 x.w1
  | none => mrecOf 0 0

/-- B(k, n) as one request supplies it: row k of its own part. -/
def Bay.bPart (b : Bay) (r : MReq) (k n : Nat) : Val :=
  if r.fmt == 6 then b.elemAt (b.recOf r.resvB) 6 n (r.ofs + k) else regElem r.fmt r.src k n

/-- R229: B of a gang, from its members. -/
def Bay.gangB (b : Bay) (ms : List MReq) (efn k n : Nat) : Val :=
  let kq := passKp efn / 4
  match ms.find? (fun m => (match m.tag with | some (_, q, _) => q == k / kq | none => false)) with
  | some m => b.bPart m (k % kq) n
  | none => .fin false 0 0

/-- R231: the slots of a sparse row, by index then slot, those at or beyond Kp left out. -/
def Bay.slots (b : Bay) (r : MReq) (m : Nat) : List (Nat × Nat) :=
  let rec0 := b.recOf r.resvA
  let row := 64 * rec0.base + m * rec0.rstr
  let all := (List.range r.e).map (fun k => (leNat (b.rd (row + r.e * passSize r.fmt + 2 * k) 2), k))
  sortBy (fun x => [x.1, x.2]) (all.filter (fun x => decide (x.1 < passKp r.fmt)))

/-- The pairs of output element (m, n): A elements with B elements, in the order of R116 or R119. -/
def Bay.pairs (b : Bay) (r : MReq) (bk : Nat → Nat → Val) (m n : Nat) : List (Val × Val) :=
  let rec0 := b.recOf r.resvA
  if r.op == .spmm then (b.slots r m).map (fun x => (b.elemAt rec0 r.fmt m x.2, bk x.1 n))
  else (List.range (passKp r.fmt)).map (fun k => (b.elemAt rec0 r.fmt m (r.ofs + k), bk k n))

/-- A pass: the words of the rows of its row set. -/
def Bay.pass (b : Bay) (c : Core) (r : MReq) (bk : Nat → Nat → Val) : List (Nat × Nat × PassRes) :=
  (lanesOf r.rows).flatMap (fun m => lanes32.map (fun n => (m, n, passElem r.fmt (c.tile r.tile m n).toNat (b.pairs r bk m n))))

/-! ### Effects of requests -/

/-- What a request's performance leaves: the state, its register writes, its rows written (R232). -/
structure MEff where
  st   : State
  outs : List RegWrite
  rows : Nat

/-- R228, R122: the pass of a request. -/
def passEff (s : State) (bay : Nat) (r : MReq) (bk : Nat → Nat → Val) : MEff :=
  if r.rows == 0 then { st := s, outs := [], rows := 0 }
  else
    let ws := (s.bayAt bay).pass (s.coreAt r.core) r bk
    let cnt (p : PassRes → Bool) : Nat := (ws.filter (fun x => p x.2.2)).length
    let s1 := s.putCore r.core ((s.coreAt r.core).tileWrite r.tile (ws.map (fun x => (x.1, x.2.1, BitVec.ofNat 32 x.2.2.word))))
    { st := { s1 with groups := Map.modify s1.groups r.gid (fun g =>
        g.countMxc (cnt PassRes.inv) (cnt PassRes.ovf) (cnt PassRes.unf) (cnt PassRes.wrap)) },
      outs := [], rows := laneCount r.rows }

/-- R234: the conversion of a tile element, with its flags. -/
def bypassElem (efn : Nat) (sat : Bool) (x : Word) : FRes :=
  match efn with
  | 2 => plain x.toNat
  | 5 => convElem .i32 .i8 .rn 0 sat x.toNat
  | _ => convElem .f32 (passTy efn) .rn 0 sat x.toNat

/-- R234: MBYPASS. -/
def bypassEff (s : State) (bay : Nat) (r : MReq) : MEff :=
  let b := s.bayAt bay
  let rec0 := b.recOf r.resvA
  let z := passSize r.fmt
  let rowEls (m : Nat) : List FRes := lanes32.map (fun n => bypassElem r.fmt r.sat ((s.coreAt r.core).tile r.tile m n))
  let b1 := lanes32.foldl (fun b m =>
    b.wr (64 * rec0.base + m * rec0.rstr + r.ofs * z) ((rowEls m).flatMap (fun x => leBytes z x.bits))) b
  let fl := lanes32.foldl (fun a m => (rowEls m).foldl (fun a x => flOr a x.flags) a) 0
  let s1 := s.putBay bay b1
  { st := { s1 with groups := Map.modify s1.groups r.gid (fun g => g.raise fl) }, outs := [], rows := 32 }

/-- R233, R235: the effect of a tile move. -/
def moveEff (s : State) (r : MReq) : MEff :=
  let c := s.coreAt r.core
  let t := r.tile
  let rows := lanesOf r.rows
  let n := laneCount r.rows
  let put (c : Core) : State := s.putCore r.core c
  let zeros : List (Nat × Nat × Word) := rows.flatMap (fun m => lanes32.map (fun k => (m, k, (0 : Word))))
  let drained : List RegWrite := rows.flatMap (fun m => lanes32.map (fun k => .v (r.dst + k) m (c.tile t m k)))
  match r.op with
  | .zero => { st := put (c.tileWrite t zeros), outs := [], rows := n }
  | .fill => { st := put (c.tileWrite t (rows.flatMap (fun m => lanes32.map (fun k => (m, k, Map.get 0 r.src (32 * k + m)))))),
               outs := [], rows := n }
  | .bcast => { st := put (c.tileWrite t (rows.flatMap (fun m => lanes32.map (fun k => (m, k, Map.get 0 r.src m))))),
                outs := [], rows := n }
  | .drain => { st := s, outs := drained, rows := n }
  | .drainz => { st := put (c.tileWrite t zeros), outs := drained, rows := n }
  | .alloc => { st := put (c.tilesZero r.tiles), outs := [], rows := 0 }
  | .free => { st := put (c.tilesDrop r.tiles), outs := [], rows := 0 }
  | _ => { st := s, outs := [], rows := 0 }

/-- The request's entry and flag are done with and oc.mat goes down (R54, R216). -/
def matDone (s : State) (r : MReq) (outs : List RegWrite) : State :=
  { s with groups := Map.modify s.groups r.gid (fun g =>
      let g1 := applyOuts { g with entries := g.entries.filter (fun e => e.id != r.entry) } s.free r.entry outs
      { g1.dropFlag r.flag with ocMat := g1.ocMat - 1 }) }

/-- R232: the engine's credit, after the result is held; a name that leads nowhere is a completion origin (R291). DEDUCED, log 37. -/
def matCredit (s : State) (r : MReq) (rows : Nat) : State :=
  match r.bar, Map.find s.groups r.gid with
  | some name, some g =>
    if rows == 0 then s
    else
      let me : Raiser := { gid := r.gid, pos := r.pos, pc := r.pc, act := r.mask, kind := 2, ref := r.id }
      match credit s r.core r.ctx (rootOf s g) g.team name (128 * rows) rows (.engine me (nameVa name)) with
      | (s1, none) => s1
      | (s1, some (c, d)) =>
        raiseTrap s1 me { cause := c, detail := d, addr := [(lowLane r.mask, nameVa name)] }
  | _, _ => s

/-- What an MDRAIN read when it was granted. -/
def drained (s : State) (r : MReq) : List RegWrite :=
  match (Map.find s.groups r.gid).bind (fun g => g.entries.find? (fun e => e.id == r.entry)) with
  | some e => e.outs
  | none => []

/-- A request's effect at its completion. -/
def reqEff (s : State) (bay : Nat) (gang : List MReq) (r : MReq) : MEff :=
  match r.op with
  | .mma | .spmm => passEff s bay r ((s.bayAt bay).bPart r)
  | .gang => passEff s bay r ((s.bayAt bay).gangB gang r.fmt)
  | .bypass => bypassEff s bay r
  | .drain | .drainz => { st := s, outs := drained s r, rows := laneCount r.rows }
  | _ => moveEff s r

/-- A request completes: its effect, its registers and counter, then its credit (R219, R232). -/
def finishReq (s : State) (bay : Nat) (gang : List MReq) (r : MReq) : State :=
  let e := reqEff s bay gang r
  matCredit (matDone e.st r e.outs) r e.rows

/-! ### Order and arbitration (R217, R218, R238) -/

/-- The buffer bytes of columns `c0` to `c0 + n` of some rows of a record, for 4-bit codes with their scale bytes (R224): start and
length of each row's. -/
def MRec.cols (x : MRec) (efn c0 n : Nat) (rows : Mask) : List (Nat × Nat) :=
  (lanesOf rows).flatMap (fun m =>
    let row := 64 * x.base + m * x.rstr
    if efn == 6 then
      [(row + c0 / 2, (c0 + n + 1) / 2 - c0 / 2),
       (64 * x.base + x.sofs + m * (2 * x.rstr / x.bl) + c0 / x.bl, ceilDiv (c0 + n) x.bl - c0 / x.bl)]
    else [(row + c0 * passSize efn, n * passSize efn)])

/-- Buffer bytes a request touches. -/
def MReq.spans (b : Bay) (r : MReq) : List (Nat × Nat) :=
  let kb := if r.op == .gang then passKp r.fmt / 4 else passKp r.fmt
  let all : Mask := BitVec.allOnes 32
  match r.op, r.resvA with
  | .mma, some a | .gang, some a =>
    (b.recOf (some a)).cols r.fmt r.ofs (passKp r.fmt) r.rows ++
    (match r.resvB with | some x => (b.recOf (some x)).cols r.fmt r.ofs kb all | none => [])
  | .spmm, some a =>
    let x := b.recOf (some a)
    (lanesOf r.rows).map (fun m => (64 * x.base + m * x.rstr, r.e * (passSize r.fmt + 2)))
  | .bypass, some a => (b.recOf (some a)).cols r.fmt r.ofs 32 all
  | _, _ => []

def shareBytes (b : Bay) (r q : MReq) : Bool :=
  (r.spans b).any (fun x => (q.spans b).any (fun y => decide (x.1 < y.1 + y.2) && decide (y.1 < x.1 + x.2)))

/-- R217, R238: request `r` is performed after the earlier `q`. -/
def orderedBehind (b : Bay) (r q : MReq) : Bool :=
  decide (q.id < r.id) && q.op != .release &&
  ((q.gid == r.gid && ((q.core == r.core && q.tiles &&& r.tiles != 0) || shareBytes b r q)) ||
   (r.sup && q.core == r.core && q.tiles &&& r.tiles != 0))

/-- The gang of a request: itself where it is none. -/
def Bay.gangOf (b : Bay) (r : MReq) : List MReq :=
  match r.tag with
  | some (_, _, k) => b.reqs.filter (fun m => (match m.tag with | some (_, _, j) => j == k | none => false))
  | none => [r]

/-- R218: eligible: its gang complete, and nothing it is ordered behind outstanding. -/
def Bay.mayRun (b : Bay) (r : MReq) : Bool :=
  let ms := b.gangOf r
  r.op != .release && (r.tag.isNone || ms.length == 4) &&
  ms.all (fun m => b.reqs.all (fun q => ms.any (fun x => x.id == q.id) || !orderedBehind b m q))

/-- Requests that have become eligible are stamped. -/
def Bay.stamp (b : Bay) (clk : Nat) : Bay :=
  { b with reqs := b.reqs.map (fun r => if r.eligible.isNone && b.mayRun r then { r with eligible := some clk } else r) }

/-- R218: the arbiter's order at an engine clock; a request eligible for 1,024 clocks or more is urgent. -/
def MReq.key (clk : Nat) (r : MReq) : List Nat :=
  let e := r.eligible.getD 0
  if r.urgent || decide (e + 1024 ≤ clk) then [0, e, 8 - r.prio, r.core, r.slot] else [1, 8 - r.prio, e, r.core, r.slot]

/-- R219: the arrays a request takes: none for a tile move. DEDUCED, log 43. -/
def MReq.needs (r : MReq) : Nat :=
  match r.op with
  | .mma | .spmm => 1 | .gang => 4 | _ => 0

/-- The arrays taken for a grant: the lowest-numbered free ones; where too few are free, the occupancy of the holders
granted before has ended (R218, R219). DEDUCED, log 43. -/
def takeArrays (b : Bay) (n : Nat) : Bay × List Nat :=
  let held := b.reqs.flatMap (fun r => r.arrays)
  let free := (List.range 4).filter (fun a => !held.contains a)
  if n ≤ free.length then (b, free.take n)
  else ({ b with reqs := b.reqs.map (fun r => { r with arrays := [] }) }, (List.range 4).take n)

/-- The request first in the arbiter's order among those eligible and not granted. -/
def Bay.first (b : Bay) (clk : Nat) : Option MReq := minBy (MReq.key clk) (b.reqs.filter (fun r => r.eligible.isSome && !r.granted))

/-- MDRAIN reads its tile, and with .Z zeroes the rows, when it is granted the tile port; what it will write to its registers
stands in its entry until it completes, so that a racing read may return it (R56, R233). DEDUCED, log 43. -/
def grantDrain (s : State) (r : MReq) : State :=
  if r.op == .drain || r.op == .drainz then
    let e := moveEff s r
    modEntry e.st r.gid r.entry (fun x => { x with outs := e.outs })
  else s

/-- MATRIX_GRANT: the first request of the order, with its gang, is granted its arrays or the tile port (R218). DEDUCED, log 43. -/
def execMatrixGrant (bay : Nat) (s : State) : Host.Outcome State Fault Refusal :=
  let b := s.bayAt bay
  match b.first (s.clk / 10) with
  | none => .next s
  | some r =>
    let ms := (b.gangOf r).map MReq.id
    let (b1, arr) := takeArrays b r.needs
    .next (grantDrain (s.putBay bay { b1 with reqs := b1.reqs.map (fun q =>
      if ms.contains q.id then { q with granted := true, arrays := if q.id == r.id then arr else [] } else q) }) r)

/-- MATRIX_REQUEST_URGENT: eligible for 1,024 engine clocks or more (R218). -/
def execMatrixRequestUrgent (bay req : Nat) (s : State) : Host.Outcome State Fault Refusal :=
  let b := s.bayAt bay
  .next (s.putBay bay { b with reqs := b.reqs.map (fun r =>
    match r.eligible with
    | some t => if r.id == req && decide (t + 1024 ≤ s.clk / 10) then { r with urgent := true } else r
    | none => r) })

/-- Requests leave the table; those behind them may become eligible. -/
def dropReqs (s : State) (bay : Nat) (ids : List Nat) : State :=
  let b := s.bayAt bay
  s.putBay bay ({ b with reqs := b.reqs.filter (fun r => !ids.contains r.id) }.stamp (s.clk / 10))

/-- MATRIX_REQUEST_COMPLETE: a granted request, with its gang, completes (R219, R229). -/
def execMatrixRequestComplete (bay req : Nat) (s : State) : Host.Outcome State Fault Refusal :=
  let b := s.bayAt bay
  match b.reqs.find? (fun r => r.id == req && r.granted) with
  | none => .next s
  | some r =>
    let ms := b.gangOf r
    let s1 := ms.foldl (fun s m => finishReq s bay ms m) s
    .next (dropReqs s1 bay (ms.map MReq.id))

/-- MREL_RELEASE: once no accepted request names the reservation, its range and number are free and the generation
advances (R223). -/
def execMrelRelease (bay req : Nat) (s : State) : Host.Outcome State Fault Refusal :=
  let b := s.bayAt bay
  match b.reqs.find? (fun r => r.id == req && r.op == .release) with
  | none => .next s
  | some r =>
    let id := r.resvA.getD 0
    if b.reqs.any (fun q => q.op != .release && (q.resvA == some id || q.resvB == some id)) then .next s
    else
      let b1 := { b with resv := Map.del b.resv id, gens := Map.set 0 b.gens id ((Map.get 0 b.gens id + 1) % 2 ^ 16) }
      .next (dropReqs (matDone (s.putBay bay b1) r []) bay [r.id])

/-! ### Issue (R216, R225, R226, R237) -/

/-- R237: ownership, for a group at user privilege. -/
def ownCheck (s : State) (g : Group) : Res Unit :=
  let a := (s.coreAt g.core).aown
  if g.sup then .ok ()
  else if bit a 7 then .error .wait
  else if !bit a 6 || bits a 5 0 != g.ctx then .error (.trap { cause := cAccNotOwned })
  else .ok ()

/-- R222: the current record of a pair. -/
def Iss.record (c : Iss) (s : State) (r : Nat) : Res MRec :=
  match (s.bayAt (coreBay c.g.core)).current c.g.ctx (c.g.rdS c.fc r) (c.g.rdS c.fc (r + 1)) with
  | some x => .ok x
  | none => .error (illegal 0x04)

/-- R226 step 4. -/
def barAlign (c : Iss) (f : EFmt) : Res Unit :=
  match c.barAddr f with
  | some name => if name.toNat % 32 != 0 then .error (nameTrap c cAlign 0 (nameVa name)) else .ok ()
  | none => .ok ()

/-- Entries of the reservation table in use (R216). -/
def Bay.used (b : Bay) : Nat := (b.reqs.filter (fun r => r.op != .release)).length

/-- A request of the issuing group, before its own fields. -/
def Iss.request (c : Iss) (f : EFmt) (i : Instr) (op : MOp) : MReq :=
  { id := 0, gid := c.gid, ctx := c.g.ctx, core := c.g.core, slot := c.g.slot, prio := c.g.prio, sup := c.g.sup, op := op,
    fmt := f.efn.toNat % 8, sat := false, tiles := 0, rows := c.on, resvA := none, resvB := none, ofs := f.imm.toNat, e := 0,
    src := [], dst := 0, bar := c.barAddr f, flag := c.flag i, entry := 0, tag := none, eligible := none, urgent := false,
    granted := false, arrays := [], pc := c.sp.pc, pos := c.pos, mask := c.act }

/-- Acceptance: oc.mat goes up, the flag is marked, the request takes its entry (R54, R216). -/
def accept (s : State) (c : Iss) (i : Instr) (r : MReq) : State :=
  let (id, s1) := s.takeId
  let e := { mkEntry id i c .result { on := c.act, addr := [], data := [], cmp := [] } with done := c.act }
  let g := (c.g.advance c.pos).markFlag r.flag
  let g1 := { g with ocMat := g.ocMat + 1, entries := g.entries ++ (if r.flag.isSome then [e] else []) }
  let bay := coreBay c.g.core
  let b := s1.bayAt bay
  (s1.putG c.gid g1).putBay bay ({ b with reqs := b.reqs ++ [{ r with id := id, entry := id }] }.stamp (s.clk / 10))

/-- R226 step 5, R54, R269: what holds a request at issue. DEDUCED, log 44. -/
def matHold (s : State) (c : Iss) (i : Instr) : Res Unit :=
  if c.g.holds c.sp.word i || decide (64 ≤ (s.bayAt (coreBay c.g.core)).used) then .error .wait else .ok ()

/-- The registers of a request as read at issue: `n` of them, in every lane that has not exited (R227, R233). -/
def Iss.srcRegs (c : Iss) (r n : Nat) : SMap Word :=
  (List.range n).foldl (fun m k => (lanesOf (~~~c.g.exited)).foldl (fun m l =>
    Map.set 0 m (32 * k + l) (c.g.rdV c.fc (r + k) l)) m) []

/-- The one tile a field names. -/
def tileBit (x : BitVec 8) : BitVec 16 := 1#16 <<< (x.toNat % 16)

/-- The operand B of a pass: registers, or a second reservation whose FMT and BLK equal A's (R227). -/
def Iss.operandB (c : Iss) (s : State) (f : EFmt) (a : MRec) (n : Nat) : Res (SMap Word × Option Nat) := do
  if f.efn == 6 then
    let b ← c.record s f.r.b.toNat
    if b.fmt != a.fmt || b.blk != a.blk then throw (illegal 0x04)
    return ([], some b.id)
  else return (c.srcRegs f.r.b.toNat n, none)

/-- The checks that passes share, and the A record (R226 step 3, R424). -/
def Iss.passRecord (c : Iss) (s : State) (f : EFmt) : Res MRec := do
  if !passInService s f.efn.toNat then throw (illegal 0x04)
  let a ← c.record s f.pair.toNat
  if a.fmt != passFmt f.efn.toNat then throw (illegal 0x04)
  return a

/-- R228: the columns a pass reads lie in the row, and on a block boundary. -/
def passRange (a : MRec) (efn ofs : Nat) : Bool :=
  decide (ofs + passKp efn ≤ a.count efn) && (efn != 6 || ofs % a.bl == 0)

/-- MMA.S: one product into the rows of the active lanes (R228). DEDUCED, log 45. -/
def execMmaS (f : EFmt) (s : State) : Host.Outcome State Fault Refusal :=
  asGroup f.r.g s (fun c => do
    ownCheck s c.g
    let a ← c.passRecord s f
    if !passRange a f.efn.toNat f.imm.toNat then throw (illegal 0x04)
    let (src, rb) ← c.operandB s f a 16
    barAlign c f
    if c.on == 0 then return c.done s c.g
    else
      matHold s c (.mmaS f)
      return accept s c (.mmaS f) { c.request f (.mmaS f) .mma with
        tiles := tileBit f.r.dst, resvA := some a.id, resvB := rb, src := src })

/-- MSPMM: a sparse A of e slots a row by a dense B (R231). -/
def execMspmm (f : EFmt) (s : State) : Host.Outcome State Fault Refusal :=
  asGroup f.r.g s (fun c => do
    ownCheck s c.g
    let a ← c.passRecord s f
    let e := f.imm.toNat % 256
    if e == 0 || decide (64 < e) || decide (a.rstr < e * (passSize f.efn.toNat + 2)) then throw (illegal 0x04)
    barAlign c f
    if c.on == 0 then return c.done s c.g
    else
      matHold s c (.mspmm f)
      return accept s c (.mspmm f) { c.request f (.mspmm f) .spmm with
        tiles := tileBit f.r.dst, resvA := some a.id, src := c.srcRegs f.r.b.toNat 16, ofs := 0, e := e })

/-- R229: the gang a quarter joins: the oldest forming gang of its tag and context that lacks it, or a new one. -/
def Bay.joinGang (b : Bay) (ctx tag q : Nat) : Nat :=
  let mine := b.reqs.filterMap (fun r => match r.tag with
    | some (t, x, k) => if t == tag && r.ctx == ctx then some (x, k) else none
    | none => none)
  let size (k : Nat) : Nat := (mine.filter (fun x => x.2 == k)).length
  let open_ := (mine.map Prod.snd).filter (fun k => decide (size k < 4) && !mine.contains (q, k))
  (minBy (fun k => [k]) open_).getD b.gangs

/-- R230: members that differ in EFN, or under .B4 in BLK. -/
def gangBad (b : Bay) (ms : List MReq) : Bool :=
  ms.any (fun m => ms.any (fun x => m.fmt != x.fmt || (m.fmt == 6 && (b.recOf m.resvA).blk != (b.recOf x.resvA).blk)))

/-- R230: a mismatched gang completes with no pass, and each member group counts it. DEDUCED, log 44. -/
def gangFail (s : State) (bay : Nat) (ms : List MReq) : State :=
  let s1 := ms.foldl (fun s m => matDone s m []) s
  let gids := ms.foldl (fun l m => if l.contains m.gid then l else l ++ [m.gid]) ([] : List Nat)
  let s2 := gids.foldl (fun s gid =>
    { s with groups := Map.modify s.groups gid (fun g => { g with gerr := min 255 (g.gerr + 1) }) }) s1
  dropReqs s2 bay (ms.map MReq.id)

/-- MMA.Q: a quarter of a gang, joined whatever the guard and mask (R229, R230). DEDUCED, log 45. -/
def execMmaQ (f : EFmt) (s : State) : Host.Outcome State Fault Refusal :=
  asGroup f.r.g s (fun c => do
    ownCheck s c.g
    let w := c.g.rdS c.fc f.r.a.toNat
    if bits w 63 18 != 0 then throw (illegal 0x04)
    let a ← c.passRecord s f
    if !passRange a f.efn.toNat f.imm.toNat then throw (illegal 0x04)
    let (src, rb) ← c.operandB s f a 4
    barAlign c f
    matHold s c (.mmaQ f)
    let bay := coreBay c.g.core
    let b := s.bayAt bay
    let q := bits w 17 16
    let k := b.joinGang c.g.ctx (bits w 15 0) q
    let s1 := accept (s.putBay bay { b with gangs := if k == b.gangs then k + 1 else b.gangs }) c (.mmaQ f)
      { c.request f (.mmaQ f) .gang with
        tiles := tileBit f.r.dst, resvA := some a.id, resvB := rb, src := src, tag := some (bits w 15 0, q, k) }
    let ms := (s1.bayAt bay).reqs.filter (fun m => (match m.tag with | some (_, _, j) => j == k | none => false))
    if ms.length == 4 && gangBad (s1.bayAt bay) ms then return gangFail s1 bay ms else return s1)

/-- A tile move over the row set (R233). -/
def tileMove (f : EFmt) (i : Instr) (s : State) (r : Iss → MReq) : Host.Outcome State Fault Refusal :=
  asGroup f.r.g s (fun c => do
    ownCheck s c.g
    barAlign c f
    if c.on == 0 then return c.done s c.g
    else
      matHold s c i
      return accept s c i (r c))

/-- MZERO (R233). -/
def execMzero (f : EFmt) (s : State) : Host.Outcome State Fault Refusal :=
  tileMove f (.mzero f) s (fun c => { c.request f (.mzero f) .zero with tiles := tileBit f.r.dst })

/-- MFILL, from 32 registers or one (R233). -/
def execMfill (f : EFmt) (s : State) : Host.Outcome State Fault Refusal :=
  tileMove f (.mfill f) s (fun c =>
    { c.request f (.mfill f) (if f.efn == 1 then .bcast else .fill) with
      tiles := tileBit f.r.dst, src := c.srcRegs f.r.a.toNat (if f.efn == 1 then 1 else 32) })

/-- MDRAIN, with .Z zeroing the rows (R233). -/
def execMdrain (f : EFmt) (s : State) : Host.Outcome State Fault Refusal :=
  tileMove f (.mdrain f) s (fun c =>
    { c.request f (.mdrain f) (if f.efn == 1 then .drainz else .drain) with tiles := tileBit f.r.a, dst := f.r.dst.toNat })

/-- MBYPASS: a tile into operand A of a reservation; per group (R234). -/
def execMbypass (f : EFmt) (s : State) : Host.Outcome State Fault Refusal :=
  asGroup f.r.g s (fun c => do
    ownCheck s c.g
    let efn := f.efn.toNat % 8
    let a ← c.record s f.pair.toNat
    if a.fmt != passFmt efn || decide (a.count efn < f.imm.toNat + 32) then throw (illegal 0x04)
    barAlign c f
    if c.on == 0 then return c.done s c.g
    else
      matHold s c (.mbypass f)
      return accept s c (.mbypass f) { c.request f (.mbypass f) .bypass with
        tiles := tileBit f.r.a, resvA := some a.id, sat := decide (8 ≤ f.efn.toNat), rows := BitVec.allOnes 32 })

/-- ACCALLOC and ACCFREE name tiles by a mask; a mask of zero has no effect (R235). -/
def tileMask (f : EFmt) (i : Instr) (op : MOp) (s : State) : Host.Outcome State Fault Refusal :=
  asGroup f.r.g s (fun c => do
    ownCheck s c.g
    if c.on == 0 || f.imm == 0 then return c.done s c.g
    else
      matHold s c i
      return accept s c i { c.request f i op with tiles := f.imm })

/-- ACCALLOC: the named tiles zero and live (R235). -/
def execAccalloc (f : EFmt) (s : State) : Host.Outcome State Fault Refusal := tileMask f (.accalloc f) .alloc s

/-- ACCFREE: the named tiles discarded (R235). -/
def execAccfree (f : EFmt) (s : State) : Host.Outcome State Fault Refusal := tileMask f (.accfree f) .free s

/-- An answer of the buffer unit: oc.mat counts it until its registers are written (R216). -/
def bufferDone (s : State) (c : Iss) (i : Instr) (outs : List RegWrite) : State :=
  let s1 := postDone s c i outs
  { s1 with groups := Map.modify s1.groups c.gid (fun g => { g with ocMat := g.ocMat + 1 }) }

/-- MRES: a reservation of the operand buffer into the pair (R221). DEDUCED, log 44. -/
def execMres (f : EFmt) (s : State) : Host.Outcome State Fault Refusal :=
  asGroup f.r.g s (fun c => do
    let w0 := c.pair0 f
    let w1 := c.pair1 f
    if !mresOk w0 w1 then throw (illegal 0x04)
    if c.on == 0 then return c.done s c.g
    else
      holdAtIssue c (.mres f)
      let bay := coreBay c.g.core
      let (b, x0, x1) := (s.bayAt bay).reserve c.g.ctx w0 w1
      return bufferDone (s.putBay bay b) c (.mres f) [.s f.pair.toNat x0, .s (f.pair.toNat + 1) x1])

/-- MREL: the reservation is to be released; its record is current no longer (R223). DEDUCED, log 44. -/
def execMrel (f : EFmt) (s : State) : Host.Outcome State Fault Refusal :=
  asGroup f.r.g s (fun c => do
    let a ← c.record s f.pair.toNat
    if c.on == 0 then return c.done s c.g
    else
      holdAtIssue c (.mrel f)
      let bay := coreBay c.g.core
      let b := s.bayAt bay
      let s1 := s.putBay bay { b with resv := Map.modify b.resv a.id (fun x => { x with free := true }) }
      return accept s1 c (.mrel f) { c.request f (.mrel f) .release with resvA := some a.id })

/-- R236: the engine's state as a group sees it. -/
def mstatWord (s : State) (g : Group) : DWord :=
  let b := s.bayAt (coreBay g.core)
  let c := s.coreAt g.core
  let own := bit c.aown 6 && bits c.aown 5 0 == g.ctx
  BitVec.ofNat 64 ((64 - b.used) + (64 - b.resv.length) * 2 ^ 7 + longestRun 0 b.ranges * 2 ^ 14 +
    (if own then c.acclive.toNat * 2 ^ 32 + 2 ^ 48 else 0) + min 255 g.gerr * 2 ^ 56)

/-- MSTAT (R236). DEDUCED, log 44. -/
def execMstat (f : EFmt) (s : State) : Host.Outcome State Fault Refusal :=
  asOnce f.r.g s (fun c => do
    holdAtIssue c (.mstat f)
    return bufferDone s c (.mstat f) [.s f.r.dst.toNat (mstatWord s c.g)])

end Sys2Proof.Machine
end

