-- ==== Sys2Proof/Machine/Remote.lean ====
section
/-!
DEFINITION. Requests that arrive from peers (R255, R345 to R347, R401, R438): their translation in the context bound to
the request's job, their performance at the home, and the answer.
-/
namespace Sys2Proof.Machine

/-- The number under which the fabric switch holds its own translations: one past the cores. DEDUCED, log 50. -/
def hubCore : Nat := 256

/-- R344: the context bound to a job. -/
def ctxOfJob (s : State) (job : Nat) : Option Nat :=
  (s.ctxs.find? (fun c => match c.2.job with | some j => j.job == job | none => false)).map Prod.fst

/-- R340: the sender is a device of the context's domain job. -/
def Ctx.mapsRank (c : Ctx) (rank : Nat) : Bool :=
  match c.job with
  | some j => j.map.getD rank 0 != 0
  | none => false

/-- R340: a request of a job held here whose sender is no device of the job: it is refused, and no hook sees it. DEDUCED, log 103. -/
def foreign (s : State) (job src : Nat) : Bool :=
  match (ctxOfJob s job).bind (Map.find s.ctxs) with
  | some c => !c.mapsRank src
  | none => false

/-- Refuses a request with a detail of R347 and the fault record of R255; one that has had its answer gets no other (R401). -/
def State.nack (s : State) (p : Packet) (detail cause sub : Nat) : State :=
  if p.acked then s
  else s.send (.nack p.src p.tag detail { cause, detail := sub, addr := p.addr, rank := p.dest, lane := p.lane })

/-- R347, R438: the NACK detail of a fault. DEDUCED, log 50. -/
def nackDetail (cause : Nat) : Nat :=
  if cause == cPerm then 2 else if cause == cBarOverwrite then 5 else if cause == cMachine then Config.nackMachine else 1

/-- The bytes of a write request that its enables name. -/
def beBytes (p : Packet) : List (Nat × Byte) :=
  (List.range 64).filterMap (fun k =>
    if p.be.getLsbD k then some (p.addr.toNat / 64 * 64 + k, BitVec.ofNat 8 (p.payload.toNat / 2 ^ (8 * k))) else none)

/-- A translation for a request: a leaf with HOME 10 is a translation fault here (R255). DEDUCED, log 50. -/
def remoteXlate (s : State) (ctx : Nat) (va : DWord) (a : Acc) : Except (Nat × Nat) (Nat × Nat × Bool × Bool × State) := do
  let root := match Map.find s.ctxs ctx with | some c => c.ptrootUsed.toNat | none => 0
  let (t, s1) ← xlate s hubCore ctx root va a
  match t with
  | .peer _ => .error (cTrans, 3)
  | .loc pa size repl prop => return (pa, size, repl, prop, s1)

/-- What performing a request comes to. -/
inductive Served where
  | done (s : State)
  | wait
  | fault (cause detail : Nat)
  deriving DecidableEq, Repr

/-- A read of the line (R345); a replicated page is read at frame 0 (R251). -/
def serveRead (s : State) (ctx : Nat) (p : Packet) : Served :=
  let va : DWord := BitVec.ofNat 64 (p.addr.toNat / 64 * 64)
  match remoteXlate s ctx va .r with
  | .error (c, d) => .fault c d
  | .ok (pa, _, _, _, s1) =>
    if !presentIn s1 pa 64 then .wait
    else if poisoned s1.poison pa 64 then .fault cMachine 2
    else .done (s1.send (.response p.src p.tag (lineOf (s1.rd pa 64))))

/-- The bytes of a line between a write's enables, as runs of offsets. -/
def runsOf : List (Nat × Byte) → List (Nat × List Byte)
  | [] => []
  | (a, b) :: t =>
    match runsOf t with
    | (a2, bs) :: r => if a2 == a + 1 then (a, b :: bs) :: r else (a, [b]) :: (a2, bs) :: r
    | [] => [(a, [b])]

/-- The table root of a context in use. DEDUCED, log 53. -/
def ctxRoot (s : State) (ctx : Nat) : Nat := match Map.find s.ctxs ctx with | some c => c.ptrootUsed.toNat | none => 0

/-- Something that follows a write once every frame holds it (R346, R373): now, or when the updates of job `n` are applied.
DEDUCED, log 24. DEDUCED, log 24. -/
def afterFrames (s : State) (n : Nat) (j : FrameJob) (now : State → State) : State :=
  if s.frameQ.any (fun u => u.owner == .job n) then { s with frameJobs := Map.put s.frameJobs n j } else now s

/-- The credit of a Scribe trap record, 32 units (R373). -/
def creditRecord (s : State) (ctx : Nat) (bar : DWord) : State :=
  (credit s hubCore ctx (ctxRoot s ctx) 0 (bar ||| 0x8000000000000000) 32 1 .none).1

/-- A peer's request is answered, once (R401). DEDUCED, log 86. -/
def replyTo (s : State) (ctx : Nat) (p : Packet) (m : OutMsg) : State :=
  let s1 := match p.credit with
    | some bar => creditRecord s ctx bar
    | none => s
  if p.acked then s1 else s1.send m

/-- A write of the enabled bytes, acknowledged once it is performed (R346), of a replicated page in every frame; a Scribe trap
record's credit follows it (R373). -/
def serveWrite (s : State) (ctx : Nat) (p : Packet) : Served :=
  let base : DWord := BitVec.ofNat 64 (p.addr.toNat / 64 * 64)
  match remoteXlate s ctx base .w with
  | .error (c, d) => .fault c d
  | .ok (pa, size, repl, prop, s1) =>
    let fs := framesOf pa size repl
    if fs.any (fun a => taggedIn s1.tags a 64) then .fault cBarOverwrite 0
    else if !(fs.all (fun a => presentIn s1 a 64)) then .wait
    else
      let (n, s2) := s1.takeId
      let s3 := (runsOf (beBytes p)).foldl (fun s b =>
        wrTgt s { gid := 0, ctx, die := 0, owner := .job n } (pa + b.1 % 64) size repl prop b.2) s2
      let m : OutMsg := .ack p.src p.tag
      .done (afterFrames s3 n (.reply p m) (fun s => replyTo s ctx p m))

/-- R264, R340: an atomic that the fabric supports: 4 or 8 bytes, aligned, an operator that its type accepts. -/
def atomicOk (p : Packet) : Bool :=
  (p.awid == 4 || p.awid == 8) && p.addr.toNat % p.awid == 0 && decide (p.aop ≤ 7) && (p.returning || decide (p.aop < 6)) &&
  (decide (p.aty ≤ 1) || (p.aty == 5 && p.awid == 4 && !(decide (3 ≤ p.aop) && decide (p.aop ≤ 5))))

/-- An atomic of 4 or 8 bytes at its home (R264, R345); one that is not supported is refused with a completion error (R340). DEDUCED, log 50. -/
def serveAtomic (s : State) (ctx : Nat) (p : Packet) : Served :=
  if !atomicOk p then .done (s.nack p 2 0 0)
  else match remoteXlate s ctx p.addr .w with
  | .error (c, d) => .fault c d
  | .ok (pa, size, repl, prop, s1) =>
    let n := p.awid
    let (k, s2) := s1.takeId
    match atomAt s2 { gid := 0, ctx, die := 0, owner := .job k } pa size repl prop p.aop p.aty n
        (p.payload.toNat % 2 ^ (8 * n)) (p.cmp.toNat % 2 ^ (8 * n)) with
    | .error (.fault _ c d _) => .fault c d
    | .error _ => .wait
    | .ok (old, s3) =>
      let m : OutMsg := if p.returning then .response p.src p.tag (BitVec.ofNat 512 old) else .ack p.src p.tag
      .done (afterFrames s3 k (.reply p m) (fun s => replyTo s ctx p m))

/-- Requests by class: 0 read, 1 write, 2 atomic. -/
def serve (s : State) (ctx : Nat) (p : Packet) : Served :=
  match p.cls with
  | 0 => serveRead s ctx p
  | 1 => serveWrite s ctx p
  | _ => serveAtomic s ctx p

/-- R438: the lowest-numbered core that holds a team of a context. DEDUCED, log 50. -/
def lowestTeamCore (s : State) (ctx : Nat) : Option Nat :=
  (s.teams.filter (fun t => t.2.ctx == ctx)).foldl (fun m t =>
    match m with
    | none => some t.2.core
    | some c => some (min c t.2.core)) none

/-- R392, R438: the fault of a request becomes an origin of the context, or is answered at once. DESIGN CHOICE, log 36. -/
def remoteFault (s0 : State) (ctx : Nat) (p : Packet) (cause detail : Nat) : State :=
  let s := if cause == cMachine then { s0 with machChk := s0.machChk + 1 } else s0
  match lowestTeamCore s ctx with
  | some core =>
    if trapsOn s ctx && (cause == cTrans || cause == cPerm || cause == cFetchPerm || cause == cMachine) then
      let (id, s1) := s.takeId
      let o : Origin := {
        id := id, ctx := ctx, core := core, gid := 0, slot := 0x3FF, remote := some p.src, kind := 1,
        cause := cause, detail := detail, pc := 0, pos := 0, lane := 0, mask := Config.freeWord (s.free * 2 ^ 64), addr := p.addr,
        aux := p.src, ref := 0, dst := 0, tick := s.clk / 10 }
      let c := s1.coreAt core
      { (s1.putCore core { c with trapq := queueOrigin c.trapq o }) with
        remotes := s1.remotes ++ [{ pkt := p, ctx := ctx, origin := id, since := s.tick, cause := cause, detail := detail }] }
    else s.nack p (nackDetail cause) cause detail
  | none => s.nack p (nackDetail cause) cause detail

/-- Performs a request, or keeps it waiting here. -/
def serveOrFault (s : State) (ctx : Nat) (p : Packet) : State :=
  match serve s ctx p with
  | .done s1 => s1
  | .fault c d => remoteFault s ctx p c d
  | .wait => { s with remotes := s.remotes ++ [{ pkt := p, ctx := ctx, origin := 0, since := s.tick, cause := 0, detail := 0 }] }

/-- The waiting request a packet repeats. -/
def RemoteWait.is (r : RemoteWait) (p : Packet) : Bool := r.pkt.src == p.src && r.pkt.tag == p.tag

/-- A request that is performed and whose answer waits for frames. -/
def FrameJob.answers (j : FrameJob) (p : Packet) : Bool :=
  match j with
  | .reply q _ => q.src == p.src && q.tag == p.tag
  | _ => false

/-- A request of a peer arrives: buffered or refused while its context is frozen from step 3 on (R401), refused without a
context (R344), else performed. A request whose fault waits as an origin is not performed again by its repetition. DEDUCED, log 50. -/
def remoteRequest (s : State) (p : Packet) : State :=
  if s.remotes.any (fun r => r.is p && r.origin != 0) || s.frameJobs.any (fun j => j.2.answers p) then s
  else
    let s0 := { s with remotes := s.remotes.filter (fun r => !r.is p) }
    match ctxOfJob s0 p.job with
    | none => s0.nack p 4 0 0
    | some ctx =>
      match Map.find s0.ctxs ctx with
      | none => s0.nack p 4 0 0
      | some c =>
        if !c.mapsRank p.src then s0.nack p 4 0 0
        else if c.lateClosed then s0.nack p 3 0 0
        else if c.lateStart then
          if p.cls == 0 || p.returning then s0.nack p 3 0 0
          else { s0 with ctxs := Map.put s0.ctxs ctx { c with late := c.late ++ [p] } }.send (.ack p.src p.tag)
        else serveOrFault s0 ctx p

/-- R438: the handler's answer for a remote request: performed again, or refused. -/
def resolveRemote (s : State) (id mode : Nat) : State :=
  match s.remotes.find? (fun r => r.origin == id) with
  | none => s
  | some r =>
    let s1 := { s with remotes := s.remotes.filter (fun q => q.origin != id) }
    if mode == 0 then serveOrFault s1 r.ctx r.pkt else s1.nack r.pkt (nackDetail r.cause) r.cause r.detail

/-- R358, R359: a request that arrives is offered to the ingress hooks first; while the queue of its hook's processor is
full it is held on its port and nothing happens. One that waits here has passed them. DEDUCED, log 50, 109. -/
def arrive (s : State) (p : Packet) : State :=
  match s.remotes.find? (fun r => r.is p) with
  | some r => remoteRequest s { p with acked := r.pkt.acked }
  | none =>
    let q := { p with acked := false }
    if !linked s then s
    else if foreign s p.job p.src then s.nack q 4 0 0
    else match hookFor s q 0 with
    | none => remoteRequest s q
    | some h =>
      match enqueue s h q 0 with
      | some s1 => s1
      | none => s

/-- REMOTE_READ (R345). -/
def execRemoteRead (p : Packet) (s : State) : Host.Outcome State Fault Refusal := .next (arrive s { p with cls := 0 })

/-- R341: the message window. -/
def inWindow (va : DWord) : Bool := bits va 63 57 == 127

/-- R341: a message write that names an unknown class, or a job that the device does not hold, is dropped and counted. A
message of a known class is an event of its own (COLLECTIVE_STEP, DOMAIN_BARRIER_STEP, DRAIN_MARKER, SCRIBE_CONTROL). DEDUCED, log 50. -/
def windowWrite (s : State) (p : Packet) : State :=
  let cls := bits p.addr 15 12
  if cls == 0 || 4 < cls || (ctxOfJob s p.job).isNone then { s with fabErrs := s.fabErrs + 1 } else s

/-- REMOTE_WRITE (R345). -/
def execRemoteWrite (p : Packet) (s : State) : Host.Outcome State Fault Refusal :=
  .next (if inWindow p.addr then (if linked s then windowWrite s p else s) else arrive s { p with cls := 1 })

/-- REMOTE_ATOMIC (R345). -/
def execRemoteAtomic (p : Packet) (s : State) : Host.Outcome State Fault Refusal := .next (arrive s { p with cls := 2 })

/-- REMOTE_ORIGIN_TIMEOUT: an origin named by its number, unresolved for 1 ms (2,000,000 network clocks), is answered
(R438). DEDUCED, log 61. -/
def execRemoteOriginTimeout (tag : Nat) (s : State) : Host.Outcome State Fault Refusal :=
  match s.remotes.find? (fun r => r.origin == tag && tag != 0) with
  | none => .next s
  | some r => if s.tick < r.since + 2000000 then .next s else .next (resolveRemote s tag 2)

end Sys2Proof.Machine
end

