-- ==== Sys2Proof/Machine/Copy.lean ====
section
/-!
DEFINITION. The tile-copy engine of a core (R269 to R279, R282): the issue of CPYT, GATH, GATH.TH, SCAT and WAITCNT, the
records an operation names, where each row lies, and how bytes are read, converted and written.
-/
namespace Sys2Proof.Machine

/-! ### Operations -/

def Core.findOp (c : Core) (id : Nat) : Option CopyOp := c.ops.find? (fun o => o.id == id)

/-- Changes an operation of a core's engine. -/
def modOp (s : State) (core id : Nat) (f : CopyOp → CopyOp) : State :=
  let c := s.coreAt core
  s.putCore core { c with ops := c.ops.map (fun o => if o.id == id then f o else o) }

/-- An operation of the issuing group before its own fields. -/
def Iss.copyOp (c : Iss) (f : EFmt) (i : Instr) (cls : OcClass) : CopyOp :=
  { id := 0, gid := c.gid, ctx := c.g.ctx, pc := c.sp.pc, pos := c.pos, mask := c.act, stamp := 0, cls := cls, instr := i,
    word0 := c.pair0 f, word1 := c.pair1 f, idx := [], handle := 0, window := 0, bar := c.barAddr f, flag := c.flag i,
    known := [], held := false, accepted := false, srcSp := .va, dstSps := [], rows := [], srcLen := 0, dstLen := 1,
    conv := 0, cfmt := 0, rm := 0, sat := false, landed := [], flight := [], skips := [], lines := [], got := [], far := [],
    post := [], coll := none, stopped := false, finished := false, abandon := false }

/-- The entry of the operand log's table that an instruction with a flag keeps until it completes (R54). -/
def Iss.flagEntry (c : Iss) (i : Instr) (id : Nat) : List Entry :=
  if (c.flag i).isSome then
    [{ mkEntry id i c .result { on := c.act, addr := [], data := [], cmp := [] } with done := c.act }]
  else []

/-- Issue: the counter goes up, the flag is marked, the engine has the operation (R54, R269). DEDUCED, log 37. -/
def postCopy (s : State) (c : Iss) (i : Instr) (op : CopyOp) : State :=
  let (id, s1) := s.takeId
  let g := (c.g.advance c.pos).markFlag op.flag
  let g1 := { (g.setOc op.cls (g.oc op.cls + 1)) with entries := g.entries ++ c.flagEntry i id }
  let s2 := s1.putG c.gid g1
  let k := s2.coreAt c.g.core
  s2.putCore c.g.core { k with ops := k.ops ++ [{ op with id := id, stamp := id }] }

/-- R242: the size of a group's team memory. -/
def teamSize (s : State) (g : Group) : Nat := match Map.find s.teams g.team with | some t => t.memSize | none => 0

/-- R272: a pair of KIND 1 or 2 is well formed; KIND 1 requires the copy class. -/
def shapeOk (w0 w1 : DWord) (cls : OcClass) : Bool :=
  match bits w0 63 60 with
  | 1 => bits w0 59 57 == 0 && cls == .copy && decide (1 ≤ bits w1 63 32) && decide (bits w1 63 32 ≤ 2 ^ 31)
  | 2 => bits w0 59 56 == 0 && w1 == 0 && bits w0 5 0 == 0
  | _ => false

/-- R242: a linear record's team-memory range lies in the team's memory. -/
def linearFits (s : State) (g : Group) (w0 w1 : DWord) : Bool :=
  bits w0 63 60 != 1 || decide (bits w1 31 0 + bits w1 63 32 ≤ teamSize s g)

/-- An earlier store or atomic of the group reaches bytes of a span or a home range and is not performed (R277). DEDUCED, log 48. -/
def storesMeet (s : State) (g : Group) (stamp : Nat) (span : Bool × Nat × Nat) (home : Option (Nat × Nat)) : Bool :=
  g.entries.any (fun e => decide (e.id < stamp) && isWrite e.instr && (lanesOf (maskMinus e.mask e.done)).any (fun l =>
    (laneSpans s e l).any (spansMeet span) ||
    (match home with
     | some h => (laneHomes s g e l).any (homesMeet h)
     | none => false)))

/-- The 64 bytes of a local record, read without an engine, where they can be read now (R349). -/
def peekRecord (s : State) (g : Group) (va : DWord) : Option (List Byte) :=
  match peekTgt s g va .r with
  | some (.loc pa size repl _) =>
    let at_ := frameFor (coreDie g.core) pa size repl
    if presentIn s at_ 64 && !storesMeet s g s.nextId (false, va.toNat, 64) (some (pa, 64)) then some (s.rd at_ 64) else none
  | _ => none

/-- A collective has begun. -/
def CopyOp.begun (o : CopyOp) : Bool := match o.coll with | some c => c.begun | none => false

/-- R349: a collective that has reached the engine (a TRIG that still reads its record has not): it is in flight, or waits. -/
def CopyOp.inColl (o : CopyOp) : Bool :=
  o.cls == .coll && !o.finished && !(o.held && (match o.instr with | .trig _ => true | _ => false)) &&
  (o.begun || (!o.stopped && !o.abandon))

/-- Whether it is on a CGID: while its record is not read, it may be. DEDUCED, log 19. -/
def CopyOp.onCgid (o : CopyOp) (cgid : Nat) : Bool :=
  o.inColl &&
  (match o.coll with
   | some x => x.cgid == cgid
   | none => o.known.isEmpty || leAt o.known 0x1C 2 == cgid)

/-- R349: a collective of a context is in flight or waits on any core, on a CGID if one is known. -/
def cgidBusy (s : State) (ctx : Nat) (cgid : Option Nat) : Bool :=
  s.cores.any (fun c => c.2.ops.any (fun o => o.ctx == ctx && (match cgid with | some n => o.onCgid n | none => o.inColl)))

/-- A collective that has read no record yet: what is known of it is its CGID. -/
def waitingColl (cgid : Nat) : Coll :=
  { cgid := cgid, begun := false, k := 0,
    hdr := { cop := 0, rop := 0, efmt := 0, count := 0, axes := 0, gx := 0, gy := 0, gz := 0, origin := 0, root := 0 },
    me := 0, members := [], told := [], headers := [], chunks := [], reduced := none, killed := false }

/-- R349: a collective on a busy CGID waits with its instruction not issued: not counted, its split held. So does one whose
record cannot be read at once while another collective of the context is not over. DEDUCED, log 19. -/
def holdColl (s : State) (c : Iss) (op : CopyOp) (cgid : Option Nat) : State :=
  let (id, s1) := s.takeId
  let g := { c.g with splits := Map.modify c.g.splits c.pos (fun sp => { sp with wait := .coll id }) }
  let k := (s1.putG c.gid g).coreAt c.g.core
  (s1.putG c.gid g).putCore c.g.core { k with
    ops := k.ops ++ [{ op with id := id, stamp := id, held := true, coll := cgid.map waitingColl }] }

/-- CPYT: a linear, tile or collective copy (R271, R272). DEDUCED, log 47. -/
def execCpyt (f : EFmt) (s : State) : Host.Outcome State Fault Refusal :=
  asOnce f.r.g s (fun c => do
    let op := c.copyOp f (.cpyt f) f.cc
    if !shapeOk op.word0 op.word1 f.cc then throw (illegal 0x04)
    if !linearFits s c.g op.word0 op.word1 then
      throw (.trap { cause := cPerm, detail := 4, lanes := c.act,
                     addr := (lanesOf c.act).map (fun l => (l, BitVec.ofNat 64 (bits op.word1 31 0))) })
    barAlign c f
    holdAtIssue c (.cpyt f)
    if f.cc == .coll then
      let cgid := (peekRecord s c.g (BitVec.ofNat 64 (bits op.word0 55 0))).map (fun r => leAt r 0x1C 2)
      if cgidBusy s c.g.ctx cgid then return holdColl s c op cgid
      else return postCopy s c (.cpyt f) { op with coll := cgid.map waitingColl }
    else return postCopy s c (.cpyt f) op)

/-- R278: a gather or scatter shape is well formed. -/
def rowShapeOk (w0 w1 : DWord) : Bool :=
  let rb := bits w1 15 0
  bits w0 63 56 == 0 && bits w1 63 48 == 0 && rb % 4 == 0 && decide (4 ≤ rb) && decide (rb ≤ 4096) && bits w1 47 16 % 4 == 0

/-- The issue of a gather or scatter of fixed-size rows, one for each lane of the active mask: the split's lanes where the guard
holds (R148, R242, R271, R278). DEDUCED, log 47. -/
def issueRows (f : EFmt) (i : Instr) (s : State) : Host.Outcome State Fault Refusal :=
  asGroup f.r.g s (fun c => do
    if c.on == 0 then return c.done s c.g
    let op := c.copyOp f i .gath
    if !rowShapeOk op.word0 op.word1 then throw (illegal 0x04)
    let rb := bits op.word1 15 0
    let t := bits op.word1 47 16
    let out := maskOf (fun l => c.on.getLsbD l && decide (teamSize s c.g < t + l * rb + rb))
    if out != 0 then
      throw (.trap { cause := cPerm, detail := 4, lanes := out,
                     addr := (lanesOf out).map (fun l => (l, BitVec.ofNat 64 (t + l * rb))) })
    barAlign c f
    holdAtIssue c i
    return postCopy s c i { op with mask := c.act, idx := (lanesOf c.on).map (fun l => (l, c.g.rdV c.fc f.r.a.toNat l)) })

/-- GATH: rows of a far table into team memory (R278). -/
def execGath (f : EFmt) (s : State) : Host.Outcome State Fault Refusal := issueRows f (.gath f) s

/-- SCAT and SCAT.ADD: rows of team memory into a far table (R278, R279). -/
def execScat (f : EFmt) (s : State) : Host.Outcome State Fault Refusal := issueRows f (.scat f) s

/-- The size of a value by VFMT (R281), and the pass length of a record by its format (R227). -/
def vfmtSize (v : Nat) : Nat := if v == 6 || v == 7 then 2 else 1
def fmtKp (v : Nat) : Nat := if v == 6 || v == 7 then 32 else 64

/-- GATH.TH: window entries of a handle's rows into slots of a reservation (R282). -/
def execGathTh (f : EFmt) (s : State) : Host.Outcome State Fault Refusal :=
  asGroup f.r.g s (fun c => do
    if c.on == 0 then return c.done s c.g
    let op := c.copyOp f (.gathTh f) .gath
    let (th, ty) := c.g.rdTh c.fc f.r.b.toNat
    let v := th.toNat / 2 ^ 16 % 2 ^ 8
    let w := c.g.rdS c.fc f.r.c.toNat
    let a ← c.record s f.pair.toNat
    let n := f.imm.toNat * (vfmtSize v + 2)
    if ty == 0 || a.fmt != v || a.blk != 0 || decide (a.rstr < n) || bits w 63 48 != 0 then
      throw (illegal 0x04)
    barAlign c f
    holdAtIssue c (.gathTh f)
    return postCopy s c (.gathTh f) { op with
      idx := (lanesOf c.on).map (fun l => (l, c.g.rdV c.fc f.r.a.toNat l)), handle := th, window := w,
      dstSps := [.buf a.id a.gen], dstLen := n, rows := (lanesOf c.on).map (fun l => (l, l * a.rstr)) })

/-- R324: the writes of the copies that a WAITCNT has found complete are the group's own from now on. -/
def ownCopies (s : State) (gid : Nat) (cls : OcClass) : State :=
  if s.frameQ.isEmpty then s
  else
    let landed (u : FrameUpd) : Bool := match u.owner with
      | .copy g k op => g == gid && k == cls && s.cores.all (fun c => (c.2.findOp op).isNone)
      | _ => false
    { s with frameQ := s.frameQ.map (fun u => if landed u then { u with owner := .writer, knows := insNat u.knows gid } else u) }

/-- WAITCNT: the split is held while the counter stands above the level (R270). -/
def execWaitcnt (f : EFmt) (s : State) : Host.Outcome State Fault Refusal :=
  asOnce f.r.g s (fun c => do
    let n := f.imm.toNat % 256
    let g := c.g.advance c.pos
    if c.g.oc f.cc ≤ n then return c.done (ownCopies s c.gid f.cc) c.g
    else return s.putG c.gid { g with splits := Map.modify g.splits c.pos (fun sp => { sp with wait := .count f.cc n }) })

/-! ### Faults and traps at completion -/

/-- A trap the issuing group takes at completion, once for each cause and detail (R273, R275, R247). -/
def CopyOp.later (o : CopyOp) (cause detail va : Nat) : CopyOp :=
  if o.post.any (fun p => p.1 == cause && p.2.1 == detail) then o else { o with post := o.post ++ [(cause, detail, va)] }

/-- A completion origin of the operation (R379). -/
def copyTrap (s : State) (o : CopyOp) (cause detail aux : Nat) (va : DWord) : State :=
  raiseTrap s { gid := o.gid, pos := o.pos, pc := o.pc, act := o.mask, kind := 2, ref := o.id }
    { cause := cause, detail := detail, aux := aux, addr := [(lowLane o.mask, va)] }

/-- The operation stops at a faulting access until the fault is resolved (R276). -/
def stopCopy (s : State) (core : Nat) (o : CopyOp) (cause detail aux : Nat) (va : DWord) : State :=
  copyTrap (modOp s core o.id (fun o => { o with stopped := true })) o cause detail aux va

/-! ### Reading -/

/-- Why an engine's access is not made now: it waits, its request has gone to a peer, or it faults. -/
inductive CStop where
  | wait
  | ask (s : State)
  | fault (s : State) (cause detail aux : Nat) (va : DWord)
  deriving DecidableEq, Repr

abbrev CRes (α : Type) := Except CStop α

/-- A byte range cut at 64-byte lines. -/
def lineParts (a n : Nat) : List (Nat × Nat) :=
  (List.range ((a % 64 + n + 63) / 64)).map (fun i =>
    let lo := max a ((a / 64 + i) * 64)
    (lo, min (a + n) ((a / 64 + i + 1) * 64) - lo))

/-- A request of an operation to a peer. -/
def copyReq (o : CopyOp) (core : Nat) (pkt : Packet) (posted : Bool) : FabReq :=
  { pkt := pkt, gid := o.gid, core := core, entry := 0, lanes := 0, posted := posted, fresh := false, seen := [],
    va := pkt.addr, copy := some o.id, scribe := none, pc := o.pc,
    pos := o.pos, mask := o.mask, sent := 0 }

/-- A read of bytes within one line of the context's addresses, as a copy read (R246, R345). A peer's line is asked for whole, once
the group's earlier stores to it are performed (R277). -/
def copyLine (s : State) (g : Group) (core : Nat) (o : CopyOp) (va n : Nat) : CRes (List Byte × State) :=
  let x : DWord := BitVec.ofNat 64 va
  match xlate s g.core g.ctx (rootOf s g) x .r with
  | .error (c, d) => .error (.fault s c d 0 x)
  | .ok (.loc pa size repl _, s1) =>
    let at_ := frameFor (coreDie g.core) pa size repl
    if storesMeet s g o.stamp (false, va, n) (some (pa, n)) then .error .wait
    else if !presentIn s at_ n && (Map.find o.lines (at_ / 64)).isNone then .error .wait
    else if poisoned s.poison at_ n then .error (.fault s cMachine 2 0 x)
    else .ok (s.rd at_ n, s1)
  | .ok (.peer rank, s1) =>
    match Map.find o.got (farKeyPeer rank va) with
    | some line => .ok (lineBytes line (va % 64) n, s1)
    | none =>
      if !rankMapped s g.ctx rank then .error (.fault s cRemote 3 rank x)
      else if lineHeld s o.gid g rank va || storesMeet s g o.stamp (false, va / 64 * 64, 64) none then .error .wait
      else if s.fabReqs.any (fun r => r.2.copy == some o.id && r.2.pkt.cls == 0) then .error .wait
      else
        let (tag, s2) := s1.takeId
        .error (.ask (sendReq s2 (copyReq o core (mkPacket s2 g.ctx 0 rank va tag) false)))

/-- A read of any byte range. -/
def copyParts (g : Group) (core : Nat) (o : CopyOp) : List (Nat × Nat) → State → CRes (List Byte × State)
  | [], s => .ok ([], s)
  | (a, n) :: t, s =>
    match copyLine s g core o a n with
    | .error e => .error e
    | .ok (bs, s1) =>
      match copyParts g core o t s1 with
      | .error e => .error e
      | .ok (cs, s2) => .ok (bs ++ cs, s2)

def copyRead (s : State) (g : Group) (core : Nat) (o : CopyOp) (va n : Nat) : CRes (List Byte × State) :=
  copyParts g core o (lineParts va n) s

/-- A read of the issuing team's memory. -/
def teamRead (s : State) (g : Group) (o : CopyOp) (a n : Nat) : CRes (List Byte × State) :=
  if storesMeet s g o.stamp (true, a, n) none then .error .wait
  else
    match Map.find s.teams g.team with
    | none => .error (.fault s cPerm 4 0 (BitVec.ofNat 64 a))
    | some t => if poisoned t.poison a n then .error (.fault s cMachine 2 0 (BitVec.ofNat 64 a)) else .ok (t.rd a n, s)

/-- The engine's read of a source range. -/
def sourceRead (s : State) (g : Group) (core : Nat) (o : CopyOp) (a n : Nat) : CRes (List Byte × State) :=
  match o.srcSp with
  | .team _ => teamRead s g o a n
  | _ => copyRead s g core o (a % 2 ^ 64) n

/-! ### Conversion (R104, R274) -/

/-- The magnitudes of a block type's codes, in index order, with the power of two they count in; M (R103, R104). -/
def codeMags (tt : Nat) (neg : Bool) : List Nat × Int :=
  match tt with
  | 0 => (List.range (if neg then 9 else 8), 0)
  | 1 => ([0, 1, 2, 3, 4, 6, 8, 12], -1)
  | 2 => ([0, 1, 2, 4, 8, 16, 32, 64], -3)
  | _ => ([0, 1, 2, 3, 4, 6, 8, 12], 0)
def codeMax (tt : Nat) : Nat := [7, 6, 8, 12].getD tt 12

/-- Whether m * 2^e is greater than, or at least, n. -/
def gtPow (m : Nat) (e : Int) (n : Nat) : Bool := if 0 ≤ e then decide (n < m * 2 ^ e.toNat) else decide (n * 2 ^ (-e).toNat < m)
def gePow (m : Nat) (e : Int) (n : Nat) : Bool := if 0 ≤ e then decide (n ≤ m * 2 ^ e.toNat) else decide (n * 2 ^ (-e).toNat ≤ m)

/-- R104: the code of one value under exponent field E: the nearest magnitude, ties to the even code. -/
def encodeCode (tt e : Nat) (x : Val) : Nat :=
  let neg := match x with | .fin s _ _ => s | .inf s => s | .nan => false
  let (mags, w) := codeMags tt neg
  let idx := match x with
    | .fin _ m ex =>
      ((List.range mags.length).filter (fun k =>
        k != 0 &&
        (let mid := mags.getD k 0 + mags.getD (k - 1) 0
         let p := ex - ((e : Int) - 31) - w + 1
         if k % 2 == 0 then gePow m p mid else gtPow m p mid))).length
    | _ => mags.length - 1
  if !neg then idx
  else if tt == 0 then (16 - idx) % 16
  else if idx == 0 && tt == 3 then 0
  else 8 + idx

/-- R104: a block's codes and scale byte. -/
def encodeBlock (tt : Nat) (xs : List Val) : List Nat × Nat :=
  if xs.contains .nan then (xs.map (fun _ => 0), 63 + 64 * tt)
  else
    let fits (e : Nat) : Bool := xs.all (fun x => match x with
      | .fin _ m ex => !gtPow m (ex - ((e : Int) - 31)) (codeMax tt)
      | _ => false)
    let e := ((List.range 63).find? fits).getD 62
    (xs.map (encodeCode tt e), e + 64 * tt)

/-- Bytes of a block as the copy lands them: the codes two to a byte, then the scale byte (R102). DEDUCED, log 48. -/
def blockBytes (tt : Nat) (bs : List Byte) : List Byte :=
  let n := bs.length / 4
  let (codes, scale) := encodeBlock tt ((List.range n).map (fun k => (ffOf .f32).value (leAt bs (4 * k) 4)))
  (List.range (n / 2)).map (fun k => BitVec.ofNat 8 (codes.getD (2 * k) 0 + 16 * codes.getD (2 * k + 1) 0)) ++ [BitVec.ofNat 8 scale]

/-- Element types of CONV 1, source and destination. -/
def CopyOp.srcTy (o : CopyOp) : Ty := (Ty.ofCode (o.cfmt % 16)).getD .i32
def CopyOp.dstTy (o : CopyOp) : Ty := (Ty.ofCode (o.cfmt / 16)).getD .i32
def CopyOp.zs (o : CopyOp) : Nat := o.srcTy.bits / 8
def CopyOp.zd (o : CopyOp) : Nat := o.dstTy.bits / 8

/-- Conversion of whole elements. -/
def CopyOp.convert (o : CopyOp) (bs : List Byte) : List Byte :=
  match o.conv with
  | 0 => bs
  | 1 => (List.range (bs.length / o.zs)).flatMap (fun k =>
      leBytes o.zd (convElem o.srcTy o.dstTy ((RM.ofCode o.rm).getD .rn) 0 o.sat (leAt bs (k * o.zs) o.zs)).bits)
  | _ => blockBytes (o.cfmt / 16) bs

/-- The source range of destination bytes `off` to `off + n` of a row, and how many converted bytes precede them. -/
def CopyOp.srcOf (o : CopyOp) (blk off n : Nat) : Nat × Nat × Nat :=
  match o.conv with
  | 0 => (off, n, 0)
  | 1 =>
    let e0 := off / o.zd
    (e0 * o.zs, (ceilDiv (off + n) o.zd - e0) * o.zs, off - e0 * o.zd)
  | _ => (off / (blk / 2 + 1) * (4 * blk), 4 * blk, 0)

/-! ### Rows of GATH.TH (R281, R282) -/

/-- Entry positions p0 to p1 whose column lies in the window: value addresses and columns. -/
def thEntries (g : Group) (core : Nat) (o : CopyOp) (crd vals z k0 kp : Nat) : List Nat → State → CRes (List (Nat × Nat) × State)
  | [], s => .ok ([], s)
  | p :: t, s =>
    match copyRead s g core o ((crd + 4 * p) % 2 ^ 64) 4 with
    | .error e => .error e
    | .ok (bs, s1) =>
      let c := leNat bs
      match thEntries g core o crd vals z k0 kp t s1 with
      | .error e => .error e
      | .ok (es, s2) => .ok (if k0 ≤ c && c < k0 + kp then (vals + z * p, c) :: es else es, s2)

/-- The values of the slots taken. -/
def thValues (g : Group) (core : Nat) (o : CopyOp) (z : Nat) : List (Nat × Nat) → State → CRes (List (List Byte) × State)
  | [], s => .ok ([], s)
  | (a, _) :: t, s =>
    match copyRead s g core o (a % 2 ^ 64) z with
    | .error e => .error e
    | .ok (bs, s1) =>
      match thValues g core o z t s1 with
      | .error e => .error e
      | .ok (vs, s2) => .ok (bs :: vs, s2)

/-- Row m: its slots' bytes and the count C(m). -/
def thRow (s : State) (g : Group) (core : Nat) (o : CopyOp) (lane : Nat) : CRes (List Byte × List RegWrite × State) :=
  let h (ofs n : Nat) : Nat := o.handle.toNat / 2 ^ (8 * ofs) % 2 ^ (8 * n)
  let z := vfmtSize (h 2 1)
  let kp := fmtKp (h 2 1)
  let k0 := bits o.window 31 0
  let sk := bits o.window 47 32
  let e := o.dstLen / (z + 2)
  let r := (Map.get 0 o.idx lane : Word).toNat
  let found : CRes (List (Nat × Nat) × State) :=
    if h 8 4 ≤ r then .ok ([], s)
    else if h 1 1 == 1 then
      .ok (((List.range kp).filter (fun j => decide (k0 + j < h 0x0C 4))).map (fun j => (h 0x10 8 + z * (r * h 0x28 8 + k0 + j), k0 + j)), s)
    else
      match copyRead s g core o ((h 0x18 8 + 4 * r) % 2 ^ 64) 8 with
      | .error x => .error x
      | .ok (bs, s1) =>
        let p0 := leAt bs 0 4
        thEntries g core o (h 0x20 8) (h 0x10 8) z k0 kp ((List.range (leAt bs 4 4 - p0)).map (fun k => p0 + k)) s1
  match found with
  | .error x => .error x
  | .ok (es, s1) =>
    let taken := (es.drop sk).take e
    match thValues g core o z taken s1 with
    | .error x => .error x
    | .ok (vs, s2) =>
      let vals := (List.range e).flatMap (fun k => vs.getD k (List.replicate z 0))
      let inds := (List.range e).flatMap (fun k => leBytes 2 (match taken[k]? with | some x => x.2 - k0 | none => 0xFFFF))
      let dst := match o.instr with | .gathTh f => f.r.dst.toNat | _ => 0
      .ok (vals ++ inds, [.v dst lane (BitVec.ofNat 32 es.length)], s2)

/-! ### Acceptance (R246, R273) -/

/-- The team of a cluster at a logical core (R34). -/
def teamOfCore (s : State) (cluster lcore : Nat) : Option Nat :=
  (s.teams.find? (fun t => t.2.cluster == cluster && t.2.lcore == lcore)).map Prod.fst

/-- Teams that the cluster of a group was placed with (R33). -/
def clusterTeams (s : State) (g : Group) : Nat :=
  match (Map.find s.teams g.team).bind (fun t => Map.find s.clusters t.cluster) with
  | some c => c.size
  | none => 1

/-- The operation takes a trap at its completion and moves nothing. DEDUCED, log 46. -/
def CopyOp.refuse (o : CopyOp) (cause detail va : Nat) : CopyOp := { o.later cause detail va with accepted := true, rows := [] }

/-- R273, R274: the limits of a tile record that its own bytes and the cluster decide. DEDUCED, log 47. -/
def tileRecordOk (s : State) (g : Group) (cls : OcClass) (r : List Byte) : Bool :=
  let f (o n : Nat) : Nat := leAt r o n
  let mc := f 4 2
  let conv := f 6 1
  let st := f 7 1 % 16
  let dt := f 7 1 / 16
  f 0 2 == 2 && cls == .copy && (f 2 1 == 0 || f 2 1 == 2) && (f 3 1 == 0 || f 3 1 == 2 || f 3 1 == 3) &&
  (mc == 0 || f 3 1 == 0) && decide (mc < 2 ^ clusterTeams s g) && conv ≤ 2 &&
  decide (1 ≤ f 0x18 4) && f 0x18 4 ≤ 2 ^ 20 && decide (1 ≤ f 0x1C 4) && f 0x1C 4 ≤ 2 ^ 20 &&
  f 0x28 1 ≤ 3 && f 0x29 1 ≤ 1 && f 0x2B 1 == 0 && zeroAt r 0x2E 18 &&
  (conv != 1 || (st ≤ 9 && dt ≤ 9 && st != dt && f 0x1C 4 % (((Ty.ofCode st).getD .i32).bits / 8) == 0)) &&
  (conv != 2 || (f 3 1 == 3 && st == 5 && dt ≤ 3 && f 0x1C 4 % 4 == 0 && f 0x24 4 == 0))

/-- The reservation that a record of DSPC 3 names, held for the context (R273). DEDUCED, log 46. -/
def heldResv (s : State) (core ctx rid gen : Nat) : Option MRec :=
  match Map.find (s.bayAt (coreBay core)).resv rid with
  | some x => if x.ctx == ctx && (mrecOf x.w0 x.w1).gen == gen then some (mrecOf x.w0 x.w1) else none
  | none => none

/-- R273, R274: the bytes written lie in the reservation. -/
def resvFits (r : MRec) (conv dst rows dstr dlen n : Nat) : Bool :=
  if conv == 2 then
    r.bl != 0 && n % r.bl == 0 && dst % r.bl == 0 &&
    decide ((rows - 1) * r.rstr + (dst + n) / 2 ≤ 64 * r.len) &&
    decide (r.sofs + (rows - 1) * (2 * r.rstr / r.bl) + (dst + n) / r.bl ≤ 64 * r.len)
  else decide (dst + (rows - 1) * dstr + dlen ≤ 64 * r.len)

/-- The fields of an accepted tile record; `dlen` is destination bytes of a row. -/
def tileFields (o : CopyOp) (r : List Byte) (src : CSpace) (dsts : List CSpace) (dlen : Nat) : CopyOp :=
  let f (x n : Nat) : Nat := leAt r x n
  { o with
    srcSp := src, dstSps := dsts, srcLen := f 0x1C 4, dstLen := dlen, conv := f 6 1, cfmt := f 7 1, rm := f 0x28 1,
    sat := f 0x29 1 == 1,
    rows := (List.range (f 0x18 4)).map (fun k => (f 8 8 + k * f 0x20 4, f 0x10 8 + k * f 0x24 4)) }

/-- R242, R275: team-memory destinations that hold the whole range. -/
def fitTeams (s : State) (ts : List Nat) (last : Nat) : List Nat :=
  ts.filter (fun t => match Map.find s.teams t with | some x => decide (last ≤ x.memSize) | none => false)

/-- R273: a tile record resolved to rows, or the operation refused. -/
def resolveTile (s : State) (core : Nat) (g : Group) (o : CopyOp) (r : List Byte) : CopyOp :=
  let f (x n : Nat) : Nat := leAt r x n
  let rows := f 0x18 4
  let n := f 0x1C 4
  let conv := f 6 1
  let dsz := ((Ty.ofCode (f 7 1 / 16)).getD .i32).bits / 8
  let ssz := ((Ty.ofCode (f 7 1 % 16)).getD .i32).bits / 8
  if !tileRecordOk s g o.cls r then o.refuse cIllegal 4 0
  else
    let src : CSpace := if f 2 1 == 0 then .team g.team else .va
    let dlen := if conv == 1 then n / ssz * dsz else n
    if f 2 1 == 0 && decide (teamSize s g < f 8 8 + (rows - 1) * f 0x20 4 + n) then o.refuse cPerm 4 (f 8 8)
    else if f 3 1 == 2 then tileFields o r src [.va] dlen
    else if f 3 1 == 3 then
      match heldResv s core o.ctx (f 0x2A 1) (f 0x2C 2) with
      | none => o.refuse cIllegal 4 0
      | some x =>
        if resvFits x conv (f 0x10 8) rows (f 0x24 4) dlen (n / 4) then
          tileFields o r src [.buf (f 0x2A 1) (f 0x2C 2)] (if conv == 2 then n / 4 / x.bl * (x.bl / 2 + 1) else dlen)
        else o.refuse cIllegal 4 0
    else
      let mc := f 4 2
      if mc != 0 && (match o.bar with | some b => bit b 63 | none => false) then o.refuse cIllegal 4 0
      else
        let cluster := match Map.find s.teams g.team with | some t => t.cluster | none => 0
        let ts := if mc == 0 then [g.team] else (List.range 16).filterMap (fun k =>
          if mc / 2 ^ k % 2 == 1 then teamOfCore s cluster k else none)
        let fit := fitTeams s ts (f 0x10 8 + (rows - 1) * f 0x24 4 + dlen)
        let o1 := if fit.length < ts.length then o.later cPerm 4 (f 0x10 8) else o
        if fit.isEmpty then { o1 with accepted := true, rows := [] }
        else tileFields o1 r src (fit.map (fun t => CSpace.team t)) dlen

/-- R272, R278: rows of an operation with no extended record. -/
def resolvePlain (g : Group) (o : CopyOp) : CopyOp :=
  match o.instr with
  | .gath _ =>
    let rb := bits o.word1 15 0
    { o with srcSp := .va, dstSps := [.team g.team], srcLen := rb, dstLen := rb,
             rows := o.idx.map (fun x => ((bits o.word0 55 0 + x.2.toNat * rb) % 2 ^ 64, bits o.word1 47 16 + x.1 * rb)) }
  | .scat _ =>
    let rb := bits o.word1 15 0
    { o with srcSp := .team g.team, dstSps := [.va], srcLen := rb, dstLen := rb,
             rows := o.idx.map (fun x => (bits o.word1 47 16 + x.1 * rb, (bits o.word0 55 0 + x.2.toNat * rb) % 2 ^ 64)) }
  | .gathTh _ => o
  | _ =>
    let n := bits o.word1 63 32
    if bit o.word0 56 then
      { o with srcSp := .team g.team, dstSps := [.va], srcLen := n, dstLen := n, rows := [(bits o.word1 31 0, bits o.word0 55 0)] }
    else
      { o with srcSp := .va, dstSps := [.team g.team], srcLen := n, dstLen := n, rows := [(bits o.word0 55 0, bits o.word1 31 0)] }

/-- Scratchpad lines that an operation writes, with the bytes it writes in each (R246), as far as its pages translate now. -/
def destLines (s : State) (g : Group) (o : CopyOp) : SMap Nat :=
  if !o.dstSps.contains .va then []
  else
    (o.rows.flatMap (fun r => lineParts r.2 o.dstLen)).foldl (fun m (p : Nat × Nat) =>
      match peekTgt s g (BitVec.ofNat 64 p.1) .w with
      | some (.loc pa size repl _) =>
        if (spDie pa).isSome then
          (framesOf pa size repl).foldl (fun m a => Map.put m (a / 64) (Map.get 0 m (a / 64) + p.2)) m
        else m
      | _ => m) []

/-- R246: acceptance waits until every scratchpad line the operation writes is present, and makes them absent. -/
def acceptLines (s : State) (core : Nat) (g : Group) (o : CopyOp) : State :=
  let m := destLines s g o
  if m.any (fun x => s.absent.contains x.1) then s
  else
    modOp { s with absent := m.foldl (fun l x => insNat l x.1) s.absent } core o.id (fun _ => { o with accepted := true, lines := m })

/-! ### Landing (R247, R248, R275, R279) -/

/-- The bytes of a destination row that are landed. -/
def CopyOp.rowLanded (o : CopyOp) (row : Nat) : Nat :=
  (o.landed.filter (fun x => x.1 / o.dstLen == row)).foldl (fun n x => n + x.2) 0

def CopyOp.allLanded (o : CopyOp) : Bool := o.landed.foldl (fun n x => n + x.2) 0 == o.rows.length * o.dstLen

/-- SCAT.ADD: the atomic's element type. -/
def CopyOp.addTy (o : CopyOp) : Option Nat :=
  match o.instr with
  | .scat f => if f.efn == 1 then some 0 else if f.efn == 2 then some 5 else none
  | _ => none

/-- The block length of a CONV 2 copy, by the reservation it writes. -/
def CopyOp.blk (s : State) (core : Nat) (o : CopyOp) : Nat :=
  match o.dstSps with
  | .buf rid _ :: _ => ((s.bayAt (coreBay core)).recOf (some rid)).bl
  | _ => 16

/-- A piece that the engine may land at once: bytes of one row not landed or in flight, within one line of the destination; a
whole row of slots for GATH.TH, one block for CONV 2, one word for SCAT.ADD. DESIGN CHOICE, log 22. -/
def CopyOp.pieceOk (s : State) (core : Nat) (o : CopyOp) (first n : Nat) : Bool :=
  let off := first % o.dstLen
  let meets (a b : Nat) : Bool := decide (a < first + n) && decide (first < a + b)
  decide (0 < n) && decide (off + n ≤ o.dstLen) &&
  !(o.landed.any (fun x => meets x.1 x.2)) && !(o.flight.any (fun x => meets x.2.1 x.2.2)) &&
  (match o.rows[first / o.dstLen]? with
   | none => false
   | some r =>
     match o.instr with
     | .gathTh _ => off == 0 && n == o.dstLen
     | _ =>
       if o.conv == 2 then off % (CopyOp.blk s core o / 2 + 1) == 0 && n == CopyOp.blk s core o / 2 + 1
       else if o.addTy.isSome then off % 4 == 0 && n == 4
       else
         match o.dstSps with
         | .buf _ _ :: _ => true
         | _ => decide ((r.2 + off) % 64 + n ≤ 64))

/-- R279: a scattered row waits until every lower lane's row of the same place has landed. -/
def CopyOp.rowHeld (o : CopyOp) (row : Nat) : Bool :=
  match o.instr, o.rows[row]? with
  | .scat _, some r =>
    (List.range row).any (fun k => (match o.rows[k]? with
      | some q => q.2 == r.2 && o.rowLanded k != o.dstLen
      | none => false))
  | _, _ => false

/-- The bytes of a piece, with the writes of its destination registers. -/
def pieceData (s : State) (g : Group) (core : Nat) (o : CopyOp) (row off n : Nat) : CRes (List Byte × List RegWrite × State) :=
  let r := o.rows.getD row (0, 0)
  match o.instr with
  | .gathTh _ => thRow s g core o r.1
  | _ =>
    let (a, len, skip) := o.srcOf (CopyOp.blk s core o) off n
    match sourceRead s g core o (r.1 + a) len with
    | .error e => .error e
    | .ok (bs, s1) => .ok (((o.convert bs).drop skip).take n, [], s1)

/-- A team receives bytes; a tagged line refuses them (R247). -/
def landTeam (s : State) (t a : Nat) (bs : List Byte) : Option State :=
  match Map.find s.teams t with
  | none => none
  | some x => if taggedIn x.tags a bs.length then none else some { s with teams := Map.put s.teams t (x.wr a bs) }

/-- The operand buffer receives bytes, while the reservation is held (R224, R273). DEDUCED, log 46. -/
def landBuf (s : State) (core : Nat) (o : CopyOp) (rid gen row off : Nat) (bs : List Byte) : Option State :=
  match heldResv s core o.ctx rid gen with
  | none => none
  | some x =>
    let b := s.bayAt (coreBay core)
    let dst := (o.rows.getD row (0, 0)).2
    let base := 64 * x.base
    if o.conv == 2 then
      let blk := off / (x.bl / 2 + 1)
      let b1 := b.wr (base + row * x.rstr + (dst + blk * x.bl) / 2) (bs.take (x.bl / 2))
      some (s.putBay (coreBay core) (b1.wr (base + x.sofs + row * (2 * x.rstr / x.bl) + dst / x.bl + blk) (bs.drop (x.bl / 2))))
    else some (s.putBay (coreBay core) (b.wr (base + dst + off) bs))

/-- The bytes still to land in lines go down; a line with none left is present again (R246). -/
def linesLand (s : State) (core id : Nat) (ls : List (Nat × Nat)) : State :=
  ls.foldl (fun s l =>
    match ((s.coreAt core).findOp id).bind (fun o => Map.find o.lines l.1) with
    | none => s
    | some n =>
      if n ≤ l.2 then
        { (modOp s core id (fun o => { o with lines := Map.del o.lines l.1 })) with absent := s.absent.filter (· != l.1) }
      else modOp s core id (fun o => { o with lines := Map.put o.lines l.1 (n - l.2) })) s

/-- The engine's credit to a barrier object as seen from a team; a name that leads nowhere is taken at completion. DEDUCED, log 37. -/
def creditOp (s : State) (core : Nat) (g : Group) (o : CopyOp) (team bytes rows : Nat) : State :=
  match o.bar with
  | none => s
  | some name =>
    if bytes == 0 && rows == 0 then s
    else
      match credit s core o.ctx (rootOf s g) team name bytes rows
          (.engine { gid := o.gid, pos := o.pos, pc := o.pc, act := o.mask, kind := 2, ref := o.id } (nameVa name)) with
      | (s1, none) => s1
      | (s1, some (c, d)) => modOp s1 core o.id (fun o => o.later c d (nameVa name).toNat)

/-- Rows that a landed destination row counts as (R275, R351). DEDUCED, log 48. -/
def CopyOp.rowUnits (o : CopyOp) : Nat :=
  match o.coll with
  | some c => if c.hdr.cop ≤ 2 then c.members.length else 1
  | none => 1

/-- A piece has landed: `skip` are the destination spaces that refused it, `outs` the register writes it adds to its entry (R56). DESIGN CHOICE, log 22. -/
def pieceLanded (s : State) (core : Nat) (g : Group) (o : CopyOp) (first n : Nat) (skip : List Nat) (outs : List RegWrite) : State :=
  let row := first / o.dstLen
  let s1 := modOp (modEntry s o.gid o.id (fun e => { e with outs := e.outs ++ outs })) core o.id (fun o => { o with
    landed := o.landed ++ [(first, n)], skips := o.skips ++ skip.map (fun i => (i, row)) })
  match (s1.coreAt core).findOp o.id with
  | none => s1
  | some o1 =>
    let whole := o1.rowLanded row == o1.dstLen
    (o1.dstSps.mapIdx (fun i x => (i, x))).foldl (fun s x =>
      if skip.contains x.1 then s
      else
        let team := match x.2 with | .team t => t | _ => g.team
        creditOp s core g o1 team n (if whole && !o1.skips.contains (x.1, row) then o1.rowUnits else 0)) s1

/-- R324: a waiter that a credit wakes reads the bytes that the credit counts: no core has cached older ones. -/
def CopyOp.uncache (o : CopyOp) (s : State) (keys : List Nat) : State := if o.bar.isSome then keys.foldl farDropAll s else s

/-- Where the parts of a write within the context's addresses lie. -/
def destParts (g : Group) : List (Nat × Nat) → State → CRes (List (Tgt × Nat × Nat) × State)
  | [], s => .ok ([], s)
  | (a, n) :: t, s =>
    match xlate s g.core g.ctx (rootOf s g) (BitVec.ofNat 64 a) .w with
    | .error (c, d) => .error (.fault s c d 0 (BitVec.ofNat 64 a))
    | .ok (x, s1) =>
      match destParts g t s1 with
      | .error e => .error e
      | .ok (xs, s2) => .ok ((x, a, n) :: xs, s2)

/-- The local places of parts: first address of each frame with its length. -/
def partFrames (ps : List (Tgt × Nat × Nat)) : List (Nat × Nat) :=
  ps.flatMap (fun p => match p.1 with | .loc pa size repl _ => (framesOf pa size repl).map (fun a => (a, p.2.2)) | .peer _ => [])

/-- Writes local parts. -/
def writeParts (s : State) (w : Writer) : List (Tgt × Nat × Nat) → List Byte → State
  | [], _ => s
  | (x, _, n) :: t, bs =>
    let s1 := match x with
      | .loc pa size repl prop => wrTgt s w pa size repl prop (bs.take n)
      | .peer _ => s
    writeParts s1 w t (bs.drop n)

/-- R246: a scratchpad line whose page did not translate at acceptance is claimed when the first piece lands in it: it is made
absent, and waits while another copy holds it. Nothing where it must wait. DEDUCED, log 100. -/
def claimLines (s : State) (core : Nat) (g : Group) (o : CopyOp) (lines : List Nat) : Option State :=
  let new := lines.filter (fun l => (spDie (64 * l)).isSome && (Map.find o.lines l).isNone)
  if new.isEmpty then some s
  else if new.any s.absent.contains then none
  else
    let m := destLines s g o
    some (modOp { s with absent := new.foldl insNat s.absent } core o.id (fun o => { o with
      lines := new.foldl (fun ls l => Map.put ls l (Map.get 0 m l)) o.lines }))

/-- The bytes that local parts hold now. -/
def readParts (s : State) (die : Nat) (ps : List (Tgt × Nat × Nat)) : List Byte :=
  ps.flatMap (fun p => match p.1 with | .loc pa size repl prop => rdHome s die pa size repl prop p.2.2 | .peer _ => [])

/-- A write or addition of a piece at a peer (R345, R346). -/
def landPeer (s : State) (core : Nat) (g : Group) (o : CopyOp) (rank va first : Nat) (bs : List Byte) : CRes State :=
  if !rankMapped s g.ctx rank then .error (.fault s cRemote 3 rank (BitVec.ofNat 64 va))
  else if lineHeld s o.gid g rank va then .error .wait
  else
    let (tag, s1) := s.takeId
    let pkt := match o.addTy with
      | some t => { mkPacket s1 g.ctx 2 rank va tag with
          addr := BitVec.ofNat 64 va, plen := 4, payload := BitVec.ofNat 512 (leNat bs), aop := 0, aty := t, awid := 4 }
      | none => { mkPacket s1 g.ctx 1 rank va tag with
          plen := 64, payload := lineSet 0 (va % 64) bs,
          be := bs.mapIdx (fun k _ => k) |>.foldl (fun (m : DWord) k => m ||| (1 <<< (va % 64 + k))) 0 }
    let s2 := sendReq s1 (copyReq o core pkt true)
    .ok (modOp s2 core o.id (fun o => { o with
      flight := o.flight ++ [(tag, first, bs.length)], far := insNat o.far (farKeyPeer rank va) }))

/-- A piece lands in the context's address space. -/
def landVa (s : State) (core : Nat) (g : Group) (o : CopyOp) (first : Nat) (bs : List Byte) : State :=
  let va := ((o.rows.getD (first / o.dstLen) (0, 0)).2 + first % o.dstLen) % 2 ^ 64
  let die := coreDie core
  match destParts g (lineParts va bs.length) s with
  | .error (.fault _ c d x a) => stopCopy s core o c d x a
  | .error _ => s
  | .ok (ps, s1) =>
    match ps.findSome? (fun p => match p.1 with | .peer r => some r | _ => none) with
    | some rank =>
      match landPeer s1 core g o rank va first bs with
      | .ok s2 => s2
      | .error (.fault _ c d x a) => stopCopy s core o c d x a
      | .error _ => s
    | none =>
      let fs := partFrames ps
      let lines := fs.map (fun f => (f.1 / 64, f.2))
      if fs.any (fun f => taggedIn s.tags f.1 f.2) then
        pieceLanded (linesLand (modOp s1 core o.id (fun o => o.later cBarOverwrite 0 va)) core o.id lines) core g o first bs.length [0] []
      else if !(fs.all (fun f => presentIn s f.1 f.2 || (Map.find o.lines (f.1 / 64)).isSome)) then s
      else match claimLines s1 core g o (lines.map Prod.fst) with
      | none => s
      | some sc =>
      if o.addTy.isSome && fs.any (fun f => poisoned s.poison f.1 f.2) then stopCopy s core o cMachine 2 0 (BitVec.ofNat 64 va)
      else
        let new := match o.addTy with
          | some t => leBytes 4 (atomNew 0 t 4 (leNat (readParts s die ps)) (leNat bs) 0)
          | none => bs
        let (tag, sd) := sc.takeId
        let s2 := writeParts sd { gid := 0, ctx := o.ctx, die, owner := .job tag } ps new
        let s3 := modOp s2 core o.id (fun o => { o with far := lines.foldl (fun l x => insNat l (farKeyLoc (x.1 * 64))) o.far })
        let late := s3.frameQ.any (fun u => u.owner == .job tag) && (o.bar.isSome || fs.any (fun f => (spDie f.1).isSome))
        if late then
          { (modOp s3 core o.id (fun o => { o with flight := o.flight ++ [(tag, first, bs.length)] })) with
            frameJobs := Map.put s3.frameJobs tag (.piece core o.id tag lines) }
        else
          let s4 := { s3 with frameQ := s3.frameQ.map (fun u =>
            if u.owner == .job tag then { u with owner := .copy o.gid o.cls o.id } else u) }
          pieceLanded (linesLand (o.uncache s4 (lines.map (fun x => farKeyLoc (x.1 * 64)))) core o.id lines) core g o first bs.length [] []

/-- R324: every frame of a replicated page holds a piece: it has landed, and its credit is made. -/
def pieceInFrames (s : State) (core op tag : Nat) (lines : List (Nat × Nat)) : State :=
  match (s.coreAt core).findOp op with
  | none => s
  | some o =>
    match Map.find s.groups o.gid, o.flight.find? (fun x => x.1 == tag) with
    | some g, some x =>
      let o1 := { o with flight := o.flight.filter (fun y => y.1 != tag) }
      let s1 := modOp s core op (fun o => { o with flight := o.flight.filter (fun y => y.1 != tag) })
      pieceLanded (linesLand (o.uncache s1 (lines.map (fun x => farKeyLoc (x.1 * 64)))) core op lines)
        core g o1 x.2.1 x.2.2 [] []
    | _, _ => s

/-- A piece lands in teams or the operand buffer; each space that refuses it is noted. -/
def landHere (s : State) (core : Nat) (g : Group) (o : CopyOp) (first : Nat) (bs : List Byte) (outs : List RegWrite) : State :=
  let row := first / o.dstLen
  let off := first % o.dstLen
  let a := (o.rows.getD row (0, 0)).2 + off
  let (s1, skip) := (o.dstSps.mapIdx (fun i x => (i, x))).foldl (fun (acc : State × List Nat) x =>
    match x.2 with
    | .team t =>
      (match landTeam acc.1 t a bs with
       | some s2 => (s2, acc.2)
       | none => (modOp acc.1 core o.id (fun o => o.later cBarOverwrite 0 a), acc.2 ++ [x.1]))
    | .buf rid gen =>
      (match landBuf acc.1 core o rid gen row off bs with
       | some s2 => (s2, acc.2)
       | none => (modOp acc.1 core o.id (fun o => o.later cIllegal 4 0), acc.2 ++ [x.1]))
    | .va => acc) (s, [])
  pieceLanded s1 core g o first bs.length skip outs

/-- A piece with its bytes lands. -/
def landBytes (s : State) (core : Nat) (g : Group) (o : CopyOp) (first : Nat) (bs : List Byte) (outs : List RegWrite) : State :=
  if o.dstSps.contains .va then landVa s core g o first bs else landHere s core g o first bs outs

/-! ### Completion (R269, R276) -/

/-- R269: the group's finished operations of a class leave their counter, oldest first; a command still armed holds those
issued after it. -/
def retire (s : State) (core gid : Nat) (cls : OcClass) : State :=
  let c := s.coreAt core
  let mine := sortBy (fun (o : CopyOp) => [o.stamp]) (c.ops.filter (fun o => o.gid == gid && o.cls == cls && !o.held))
  let armed (o : CopyOp) : Bool := s.triggers.any (fun t => t.op.gid == gid && t.op.cls == cls && decide (t.op.stamp < o.stamp))
  let done := (mine.takeWhile (fun o => o.finished && !armed o)).map CopyOp.id
  let s1 := s.putCore core { c with ops := c.ops.filter (fun o => !done.contains o.id) }
  { s1 with groups := Map.modify s1.groups gid (fun g => g.setOc cls (g.oc cls - done.length)) }

/-- R246, R248, R276: an operation has completed. DEDUCED, log 37. -/
def finishCopy (s : State) (core : Nat) (o : CopyOp) : State :=
  let c := s.coreAt core
  let s1 := { s with absent := s.absent.filter (fun l => (Map.find o.lines l).isNone) }
  let s2 := s1.putCore core { c with
    ops := c.ops.map (fun x => if x.id == o.id then { x with finished := true, lines := [], coll := none } else x) }
  let sf := o.far.foldl (fun s k => farDrop s core k) s2
  let s3 := { sf with groups := Map.modify s2.groups o.gid (fun g =>
    (applyOuts { g with entries := g.entries.filter (fun e => e.id != o.id) } s.free o.id
      ((g.entries.filter (fun e => e.id == o.id)).flatMap Entry.outs)).dropFlag o.flag) }
  let s4 := o.post.foldl (fun s p => copyTrap s o p.1 p.2.1 0 (BitVec.ofNat 64 p.2.2)) s3
  retire s4 core o.gid o.cls

end Sys2Proof.Machine
end

