-- ==== Sys2Proof/Machine/Lane.lean ====
section
/-!
DEFINITION. Class 00: per-lane arithmetic, bits, predicates, lane moves and conversion (R148 to R168).
-/
namespace Sys2Proof.Machine

/-- R148: writes the destination and raises the flags in each active lane; operands are read before. -/
def writeLanes (g : Group) (dst : Nat) (fn : Nat → Word × Nat) (ls : List Nat) : Group :=
  ls.foldl (fun g l => (g.wrV dst l (fn l).1).raise (fn l).2) g

/-- A class 00 instruction that writes a v register in its active lanes. -/
def laneOp (f : LFmt) (s : State) (fn : Iss → Nat → Word × Nat) : Host.Outcome State Fault Refusal :=
  asGroup f.r.g s (fun c => .ok (c.done s (writeLanes c.g f.r.dst.toNat (fn c) (lanesOf c.on))))

/-- One that works element by element, by its class 00 number (R99). -/
def elemLanes (op : Nat) (f : LFmt) (s : State) : Host.Outcome State Fault Refusal :=
  laneOp f s (fun c l => regOp op f.ty f.rm f.sat (c.lA f l) (c.lB f l) (c.lC f l))

/-- Writes a predicate in each active lane, raising flags (R157, R160). -/
def writePreds (g : Group) (dst : Nat) (fn : Nat → Bool × Nat) (ls : List Nat) : Group :=
  ls.foldl (fun g l => (g.wrP dst l (fn l).1).raise (fn l).2) g

/-- A class 00 instruction that writes a predicate in its active lanes. -/
def predOp (f : LFmt) (s : State) (fn : Iss → Nat → Bool × Nat) : Host.Outcome State Fault Refusal :=
  asGroup f.r.g s (fun c => .ok (c.done s (writePreds c.g f.r.dst.toNat (fn c) (lanesOf c.on))))

/-- ADD: A + B, wrapping, clamping or rounded once (R150). -/
def execAdd (f : LFmt) (s : State) : Host.Outcome State Fault Refusal := elemLanes 0x01 f s

/-- SUB: A − B (R150). -/
def execSub (f : LFmt) (s : State) : Host.Outcome State Fault Refusal := elemLanes 0x02 f s

/-- MUL: A × B, its low bits, its clamped product or rounded once (R150). -/
def execMul (f : LFmt) (s : State) : Host.Outcome State Fault Refusal := elemLanes 0x03 f s

/-- MULHI: the high half of the exact product (R150). -/
def execMulhi (f : LFmt) (s : State) : Host.Outcome State Fault Refusal := elemLanes 0x04 f s

/-- MAD: A × B + C formed exactly, then wrapped or clamped (R150). -/
def execMad (f : LFmt) (s : State) : Host.Outcome State Fault Refusal := elemLanes 0x05 f s

/-- FMA: A × B + C rounded once (R150). -/
def execFma (f : LFmt) (s : State) : Host.Outcome State Fault Refusal := elemLanes 0x06 f s

/-- MIN: the lesser (R150, R151). -/
def execMin (f : LFmt) (s : State) : Host.Outcome State Fault Refusal := elemLanes 0x07 f s

/-- MAX: the greater (R150, R151). -/
def execMax (f : LFmt) (s : State) : Host.Outcome State Fault Refusal := elemLanes 0x08 f s

/-- ABS: |A| (R150). -/
def execAbs (f : LFmt) (s : State) : Host.Outcome State Fault Refusal := elemLanes 0x09 f s

/-- NEG: −A (R150). -/
def execNeg (f : LFmt) (s : State) : Host.Outcome State Fault Refusal := elemLanes 0x0A f s

/-- CLAMP: MIN(MAX(A, B), C) (R150). -/
def execClamp (f : LFmt) (s : State) : Host.Outcome State Fault Refusal := elemLanes 0x0B f s

/-- ADDMIN: the clamped sum or C, whichever is less (R153). -/
def execAddmin (f : LFmt) (s : State) : Host.Outcome State Fault Refusal := elemLanes 0x0C f s

/-- FRND: A rounded to an integral value (R150). -/
def execFrnd (f : LFmt) (s : State) : Host.Outcome State Fault Refusal := elemLanes 0x0E f s

/-- MOV: the 32 bits of A (R154). -/
def execMov (f : LFmt) (s : State) : Host.Outcome State Fault Refusal :=
  laneOp f s (fun c l => (c.lA f l, 0))

/-- AND: A AND B (R154). -/
def execAnd (f : LFmt) (s : State) : Host.Outcome State Fault Refusal := elemLanes 0x10 f s

/-- OR: A OR B (R154). -/
def execOr (f : LFmt) (s : State) : Host.Outcome State Fault Refusal := elemLanes 0x11 f s

/-- XOR: A XOR B (R154). -/
def execXor (f : LFmt) (s : State) : Host.Outcome State Fault Refusal := elemLanes 0x12 f s

/-- NOT: NOT A (R154). -/
def execNot (f : LFmt) (s : State) : Host.Outcome State Fault Refusal := elemLanes 0x13 f s

/-- SHL: A shifted left (R154). -/
def execShl (f : LFmt) (s : State) : Host.Outcome State Fault Refusal := elemLanes 0x14 f s

/-- SHR: A shifted right, zeros in (R154). -/
def execShr (f : LFmt) (s : State) : Host.Outcome State Fault Refusal := elemLanes 0x15 f s

/-- SAR: A shifted right, sign in (R154). -/
def execSar (f : LFmt) (s : State) : Host.Outcome State Fault Refusal := elemLanes 0x16 f s

/-- POPC: count of one bits (R154). -/
def execPopc (f : LFmt) (s : State) : Host.Outcome State Fault Refusal := elemLanes 0x19 f s

/-- CLZ: zero bits above the highest one bit (R154). -/
def execClz (f : LFmt) (s : State) : Host.Outcome State Fault Refusal := elemLanes 0x1A f s

/-- BREV: the bits reversed (R154). -/
def execBrev (f : LFmt) (s : State) : Host.Outcome State Fault Refusal := elemLanes 0x1B f s

/-- RCP: 1 / A (R167, R168). -/
def execRcp (f : LFmt) (s : State) : Host.Outcome State Fault Refusal := elemLanes 0x27 f s

/-- RSQ: 1 / √A (R167, R168). -/
def execRsq (f : LFmt) (s : State) : Host.Outcome State Fault Refusal := elemLanes 0x28 f s

/-- EXP2: 2^A (R167, R168). -/
def execExp2 (f : LFmt) (s : State) : Host.Outcome State Fault Refusal := elemLanes 0x29 f s

/-- LOG2: log2 A (R167, R168). -/
def execLog2 (f : LFmt) (s : State) : Host.Outcome State Fault Refusal := elemLanes 0x2A f s

/-- SIN: sin A (R167, R168). -/
def execSin (f : LFmt) (s : State) : Host.Outcome State Fault Refusal := elemLanes 0x2B f s

/-- COS: cos A (R167, R168). -/
def execCos (f : LFmt) (s : State) : Host.Outcome State Fault Refusal := elemLanes 0x2C f s

/-- DOT2: two products and C, rounded or clamped once (R152). -/
def execDot2 (f : LFmt) (s : State) : Host.Outcome State Fault Refusal :=
  laneOp f s (fun c l => dot2Op f.ty f.rm f.sat (c.lA f l) (c.lB f l) (c.lC f l))

/-- BFX: a bit field, zero- or sign-extended (R155). -/
def execBfx (f : LFmt) (s : State) : Host.Outcome State Fault Refusal :=
  laneOp f s (fun c l => (bfx32 (c.lA f l) (c.lB f l) (f.fn == 1), 0))

/-- BFI: a bit field inserted into C (R155). -/
def execBfi (f : LFmt) (s : State) : Host.Outcome State Fault Refusal :=
  laneOp f s (fun c l => (bfi32 (c.lA f l) (c.lB f l) (c.lC f l), 0))

/-- PACK: halves or bytes rearranged (R156). -/
def execPack (f : LFmt) (s : State) : Host.Outcome State Fault Refusal :=
  laneOp f s (fun c l => (packOp f.fn.toNat (c.lA f l) (c.lB f l) (c.lC f l), 0))

/-- CMP: a relation into a predicate (R157). -/
def execCmp (f : LFmt) (s : State) : Host.Outcome State Fault Refusal :=
  predOp f s (fun c l => cmpElem f.fn.toNat f.ty (c.lA f l).toNat (c.lB f l).toNat)

/-- SEL: A or B by a predicate (R158). -/
def execSel (f : LFmt) (s : State) : Host.Outcome State Fault Refusal :=
  laneOp f s (fun c l => (if c.pBit f.r.c l then c.lA f l else c.lB f l, 0))

/-- BALLOT: the active lanes' predicate bits into an s register; nothing when no lane is active (R159). -/
def execBallot (f : LFmt) (s : State) : Host.Outcome State Fault Refusal :=
  asGroup f.r.g s (fun c =>
    if c.on == 0 then .ok (c.done s c.g)
    else .ok (c.done s (c.g.wrS f.r.dst.toNat ((c.on &&& c.g.rdP c.fc f.r.a.toNat).setWidth 64))))

/-- R161: the source lane of LSHF, none beyond the group. -/
def lshfLane (mode l b : Nat) : Option Nat :=
  match mode with
  | 0 => if b ≤ l then some (l - b) else none
  | 1 => if l + b < 32 then some (l + b) else none
  | 2 => some (l ^^^ (b % 32))
  | _ => some (b % 32)

/-- LSHF: a value of another lane, whatever that lane's state, or the fill (R161). -/
def execLshf (f : LFmt) (s : State) : Host.Outcome State Fault Refusal :=
  laneOp f s (fun c l =>
    match lshfLane f.fn.toNat l (c.lB f l).toNat with
    | some j => (c.lA f j, 0)
    | none => (c.lC f l, 0))

/-- PAND (R160). -/
def execPand (f : LFmt) (s : State) : Host.Outcome State Fault Refusal :=
  predOp f s (fun c l => (c.pBit f.r.a l && c.pBit f.r.b l, 0))

/-- POR (R160). -/
def execPor (f : LFmt) (s : State) : Host.Outcome State Fault Refusal :=
  predOp f s (fun c l => (c.pBit f.r.a l || c.pBit f.r.b l, 0))

/-- PXOR (R160). -/
def execPxor (f : LFmt) (s : State) : Host.Outcome State Fault Refusal :=
  predOp f s (fun c l => (c.pBit f.r.a l ^^ c.pBit f.r.b l, 0))

/-- PNOT (R160). -/
def execPnot (f : LFmt) (s : State) : Host.Outcome State Fault Refusal :=
  predOp f s (fun c l => (!c.pBit f.r.a l, 0))

/-- RAND: a hash of A and B (R162). -/
def execRand (f : LFmt) (s : State) : Host.Outcome State Fault Refusal :=
  laneOp f s (fun c l => (randOp (c.lA f l) (c.lB f l), 0))

/-- CVT: elements of one type to another, keeping the rest of a narrower destination (R163 to R166). -/
def execCvt (f : LFmt) (s : State) : Host.Outcome State Fault Refusal :=
  laneOp f s (fun c l =>
    cvtOp ((Ty.ofCode f.fn.toNat).getD .i32) f.ty f.imm.toNat f.rm f.sat (c.lA f l) (c.lC f l)
      (c.g.rdV c.fc f.r.dst.toNat l))

end Sys2Proof.Machine
end

