-- ==== Sys2Proof/Machine/Trap.lean ====
section
/-!
DEFINITION. Class 11 TRAP, SYSCALL and TRAPRET (R388 to R391), the start of a handler group (R383), and the resolutions a
parked group applies (R387, R390).
-/
namespace Sys2Proof.Machine

/-- TRAP: every lane where the guard holds becomes an origin (R388). -/
def execTrap (f : SFmt) (s : State) : Host.Outcome State Fault Refusal :=
  asGroup f.r.g s (fun c =>
    if c.on == 0 then .ok (c.done s c.g)
    else .error (.trap { cause := cSoft, detail := 0, lanes := c.on, aux := f.imm.toNat % 256 }))

/-- SYSCALL: one origin for the split, with a number and an argument (R389). -/
def execSyscall (f : SFmt) (s : State) : Host.Outcome State Fault Refusal :=
  asOnce f.r.g s (fun c =>
    .error (.trap { cause := cSoft, detail := 1, addr := [(lowLane c.act, c.g.rdS c.fc f.r.a.toNat)],
                    aux := f.imm.toNat % 65536, dst := f.r.dst.toNat }))

/-! ### Resolving -/

/-- v8 to v23 of a handler lane (R390). -/
def handlerRegs (g : Group) (lane : Nat) : List Word :=
  (List.range 16).map (fun k => Map.get 0 g.v (32 * (8 + k) + lane))

/-- R237: resolving an ACC_NOT_OWNED origin of a trapping lane clears AOWN.PEND; a filler's has no effect (R414). -/
def clearPend (s : State) (o : Origin) : State :=
  if o.cause == cAccNotOwned && o.kind != 3 then
    let c := s.coreAt o.core
    s.putCore o.core { c with aown := c.aown &&& 0x7F }
  else s

/-- One handler lane resolves its origin. -/
def resolveLane (s : State) (g : Group) (mode lane : Nat) : State :=
  match g.lanes[lane]? with
  | none => s
  | some o =>
    let s1 := clearPend s o
    if o.remote.isSome then resolveRemote s1 o.id mode else resolveOrigin s1 o mode (handlerRegs g lane)

/-- Handler lanes resolve their origins, in lane order. -/
def resolveLanes (s : State) (gid : Nat) (mode : Nat) (m : Mask) : State :=
  match Map.find s.groups gid with
  | none => s
  | some g =>
    let new := maskMinus m g.served
    let s1 := (lanesOf new).foldl (fun s l => resolveLane s g mode l) s
    { s1 with groups := Map.modify s1.groups gid (fun g => { g with served := g.served ||| new }) }

/-- TRAPRET: the active handler lanes where the guard holds resolve their origins and exit (R390, R391). DEDUCED, log 39. -/
def execTrapret (f : SFmt) (s : State) : Host.Outcome State Fault Refusal :=
  asGroup f.r.g s (fun c =>
    if !c.g.sup then .error (illegal 0x0A)
    else if c.g.handler.isNone then .error (illegal 0x04)
    else
      let s1 := resolveLanes s c.gid f.fn.toNat c.on
      .ok { s1 with groups := Map.modify s1.groups c.gid (fun g => (g.advance c.pos).exitLanes c.on) })

/-! ### Applying the resolutions (R387) -/

/-- R379: precise causes whose origins are lanes; the other precise causes are the whole split's. -/
def perLaneCause (o : Origin) : Bool :=
  o.cause == cAlign || o.cause == cBarOverwrite || (o.cause == cPerm && (o.detail == 4 || o.detail == 5)) ||
  (o.cause == cSoft && o.detail == 0) || o.cause == cAccNotOwned

/-- An origin of the instruction its split stands at: a precise trap, or a fault of its spill access (R94). -/
def Origin.atPc (o : Origin) : Bool := decide (o.kind ≤ 1) && o.ref == 0

/-- An origin of a resumption at a reconvergence address (R57, R90). -/
def Origin.formation (o : Origin) : Bool := decide (2 ^ 60 ≤ o.ref)

/-- The lanes an origin at a split's instruction speaks for. -/
def Group.originMask (g : Group) (o : Origin) : Mask :=
  if perLaneCause o then laneBit o.lane
  else
    match Map.find g.splits o.pos with
    | some sp => sp.only.getD sp.mask
    | none => 0

/-- R390: the lanes that a KILL ends. DEDUCED, log 104. -/
def Group.killMask (g : Group) (r : Resolution) : Mask :=
  if r.mode != 2 || r.origin.kind == 3 then 0
  else if r.origin.formation then r.origin.mask
  else if r.origin.atPc then g.originMask r.origin
  else if r.origin.kind == 0 && !perLaneCause r.origin then r.origin.mask
  else laneBit r.origin.lane

/-- R390: what RESUME writes for a replayed access, from the handler lane's registers. -/
def resumeOuts (i : Instr) (lane : Nat) (regs : List Word) : List RegWrite :=
  let w (k : Nat) : Word := regs.getD k 0
  let vs (r n : Nat) : List RegWrite := (List.range n).map (fun k => .v (r + k) lane (w k))
  match i with
  | .ld f | .ldf f | .atom f => vs f.r.dst.toNat ((f.wid.bytes + 3) / 4)
  | .thld f =>
    let x := lineOf (((List.range 16).map w).flatMap (fun x => leBytes 4 x.toNat))
    [.th f.r.dst.toNat x (handleType x)]
  | .prestest f => [.p f.r.dst.toNat lane (bit (w 0) 0)]
  | .launch f => [.s f.r.dst.toNat (w 1 ++ w 0)]
  | _ => []

/-- A resolution of one lane of a logged access; RESUME of a precise cause writes no data. -/
def Entry.resolve (e : Entry) (r : Resolution) : Entry :=
  let b := laneBit r.origin.lane
  if e.id != r.origin.ref || !e.fault.getLsbD r.origin.lane then e
  else if r.mode == 0 then { e with fault := maskMinus e.fault b }
  else { e with fault := maskMinus e.fault b, done := e.done ||| b,
                outs := e.outs ++ (if r.mode == 1 && r.origin.kind == 1 then resumeOuts e.instr r.origin.lane r.regs else []) }

/-- A resolution of a RED entry that faulted at its drain. -/
def resolveRed (r : Resolution) (l : List RedEntry) : List RedEntry :=
  let is (e : RedEntry) : Bool := e.id == r.origin.ref && e.lane == r.origin.lane && e.faulted
  if r.mode == 0 then l.map (fun e => if is e then { e with faulted := false } else e) else l.filter (fun e => !is e)

/-- An origin of a lane of the operand log or of a RED entry (R380). -/
def Origin.logged (o : Origin) : Bool := decide (o.kind ≤ 1) && decide (0 < o.ref) && decide (o.ref < 2 ^ 60)

/-- The RED entries of a BARARR that is not applied any more are drained at once (R302). -/
def releaseRed (s : State) (gid id : Nat) : State :=
  let mine := (s.barRed.filter (fun b => b.2.1 == id)).flatMap (fun b => b.2.2)
  if mine.isEmpty then s
  else
    flushPoint { s with
      barRed := s.barRed.filter (fun b => b.2.1 != id),
      groups := Map.modify s.groups gid (fun g => { g with
        red := mine.map (fun r => { r with owner := .writer, scope := 0 }) ++ g.red }) } gid

/-- R434: after RETRY a BARARR whose object was refused resolves its name afresh, and its RED entries follow it. DEDUCED, log 104. -/
def renameArrive (s : State) (gid id : Nat) : State :=
  match Map.find s.groups gid, arriveEntry s gid id with
  | some g, some e =>
    match e.op with
    | .arrive loc n =>
      match nameAt s .w g (Map.get 0 e.addr (lowLane e.mask)) with
      | .error (c, d) => arriveFault s gid e c d
      | .ok (new, s1) =>
        { modEntry s1 gid id (fun e => { e with op := .arrive new n }) with
          barRed := s1.barRed.map (fun b => if b.2.1 == id then
            (new, id, b.2.2.map (fun r => { r with owner := if r.owner == .obj loc then .obj new else r.owner })) else b) }
    | _ => s
  | _, _ => s

/-- The resolution of an origin of the operand log (R387 step 2). -/
def applyReplayed (s : State) (gid : Nat) (r : Resolution) : State :=
  let s1 := { s with
    groups := Map.modify s.groups gid (fun g => { g with
      entries := g.entries.map (fun e => e.resolve r), red := resolveRed r g.red }),
    barRed := s.barRed.map (fun b => (b.1, b.2.1, resolveRed r b.2.2)),
    gridBars := s.gridBars.map (fun b => { b with red := resolveRed r b.red }) }
  let s2 := entryOver s1 gid r.origin.ref
  if r.mode == 0 then renameArrive s2 gid r.origin.ref else releaseRed s2 gid r.origin.ref

/-- A completion origin's resolution: the copy resumes or is abandoned (R276); a held write is resent or dropped (R326,
R347). An operation that has already completed is unaffected. -/
def applyCompletion (s : State) (gid : Nat) (r : Resolution) : State :=
  match Map.find s.groups gid with
  | none => s
  | some g =>
    match g.held.find? (fun h => h.tag == r.origin.ref) with
    | some h =>
      let g1 := { g with held := g.held.filter (fun x => x.tag != h.tag) }
      if r.mode != 0 then s.putG gid { g1 with acks := g1.acks - 1 }
      else if rankMapped s g.ctx h.pkt.dest then
        sendReq (s.putG gid g1)
          { pkt := h.pkt, gid := gid, core := g.core, entry := 0, lanes := laneBit h.lane, posted := true, fresh := false,
            seen := h.seen, va := h.va, copy := none, scribe := none, pc := h.pc, pos := h.pos, mask := h.mask, sent := 0 }
      else s.putG gid { g1 with held := g1.held ++ [{ h with detail := 3, raised := false }] }
    | none =>
      { s with cores := s.cores.map (fun c => (c.1, { c.2 with ops := c.2.ops.map (fun o =>
          if o.id == r.origin.ref then { o with stopped := false, abandon := o.abandon || r.mode != 0 } else o) })) }

/-- SYSCALL's RESUME writes sD from v8 and v9 (R389). DEDUCED, log 39. -/
def syscallResume (g : Group) (r : Resolution) : Group :=
  if r.mode == 1 && r.origin.cause == cSoft && r.origin.detail == 1 then
    g.wrS r.origin.dst (r.regs.getD 1 0 ++ r.regs.getD 0 0)
  else g

/-- R387 step 3 for one split: the instruction is reissued with its original active mask less the lanes resolved RESUME or
KILL or exited; with none left the split goes on after it. DEDUCED, log 39. -/
def finishPrecise (g : Group) (rs : List Resolution) (pos : Nat) : Group :=
  match Map.find g.splits pos with
  | none => g
  | some sp =>
    let mine := rs.filter (fun r => r.origin.pos == pos && r.origin.atPc && r.origin.pc == sp.pc)
    if mine.isEmpty then g
    else
      let act := sp.only.getD sp.mask
      let off := mine.foldl (fun m r => if r.mode == 0 then m else m ||| g.originMask r.origin) (0 : Mask)
      let left := maskMinus act off
      let g1 := mine.foldl (fun g r => syscallResume g r) g
      if left == 0 then (g1.setSplit pos { sp with entered := true }).advance pos else g1.setSplit pos { sp with only := some left }

/-- A resumption that trapped: RESUME counts the slot at RPC as done (R57, R390). -/
def resumeFormation (g : Group) (r : Resolution) : Group :=
  if r.origin.formation && r.mode == 1 then
    { g with recs := g.recs.map (fun q => if q.num + 2 ^ 60 == r.origin.ref then { q with rpc := nextPc q.rpc } else q) }
  else g

/-- APPLYING THE RESOLUTIONS of a group with no origin left (R387): lanes killed exit, then replayed accesses and
completed operations go on, then precise traps are finished. DEDUCED, log 39. -/
def applyResolutions (s : State) (gid : Nat) : State :=
  match Map.find s.groups gid with
  | none => s
  | some g =>
    if !g.openOrg.isEmpty || g.resolved.isEmpty then s
    else
      let rs := g.resolved
      let killed := rs.foldl (fun m r => m ||| g.killMask r) (0 : Mask)
      let g1 := { g.exitLanes killed with resolved := [] }
      let s1 := rs.foldl (fun s r =>
        if r.origin.logged then applyReplayed s gid r
        else if r.origin.kind == 2 then applyCompletion s gid r
        else s) (s.putG gid g1)
      { s1 with groups := Map.modify s1.groups gid (fun g =>
          rs.foldl resumeFormation ((List.range 4).foldl (fun g p => finishPrecise g rs p) g)) }

/-- R390: a handler lane that exits without TRAPRET resolves its origin as KILL. -/
def resolveExited (s : State) (gid : Nat) : State :=
  match Map.find s.groups gid with
  | none => s
  | some g =>
    let m := maskOf (fun l => decide (l < g.lanes.length) && g.exited.getLsbD l)
    if g.handler.isSome && maskMinus m g.served != 0 then resolveLanes s gid 2 m else s

/-! ### Starting a handler group (R383) -/

/-- The frames that an access of own-die scratchpad reaches (R246, R251). -/
def spFrames (s : State) (g : Group) (va : DWord) (a : Acc) : List Nat :=
  match peekTgt s g va a with
  | some (.loc pa size repl _) => if a == .w then framesOf pa size repl else [frameFor (coreDie g.core) pa size repl]
  | _ => []

/-- R246: a presence wait: an LD or ST of own-die scratchpad has a lane whose line is absent in a frame it reaches. -/
def presenceHeld (s : State) (g : Group) : Bool :=
  g.entries.any (fun e =>
    let waits (a : Acc) : Bool :=
      !(accSpan e).2 && (lanesOf (maskMinus e.mask (e.done ||| e.fault))).any (fun l =>
        (spFrames s g (Map.get 0 e.addr l) a).any (fun x => !presentIn s x (accSpan e).1))
    match e.instr with
    | .ld _ => waits .r
    | .st _ => waits .w
    | _ => false)

/-- R383: a group is stalled when it is parked by a trap or every live split it has is held in a wait. -/
def Group.stalled (s : State) (g : Group) : Bool :=
  g.parked || presenceHeld s g || g.splits.all (fun p =>
    match p.2.wait with
    | .phase _ _ _ | .count _ _ | .peg _ _ _ _ | .grid _ _ _ _ => true
    | _ => false)

/-- The handler slots free on a core. -/
def handlerFree (s : State) (core slot : Nat) : Bool :=
  decide (slot < 4) && !(s.groups.any (fun g => g.2.core == core && g.2.handler == some slot))

/-- The oldest origin of each queue of a core: a queue holds one context's origins of one cause. -/
def queueHeads (q : List Origin) : List Origin :=
  q.foldl (fun hs o => if hs.any (fun h => h.ctx == o.ctx && h.cause == o.cause) then hs else hs ++ [o]) []

/-- R383: the moments at which a queue may start a handler group; its context must be active on the core, running
and not parked (R382, R386, R398, R400). -/
def queueDue (s : State) (core : Nat) (q : List Origin) (h : Origin) : Bool :=
  let c := s.coreAt core
  (match Map.find s.ctxs h.ctx with
   | some x => bit x.tvctl 0 && x.parked.isNone && !x.frozen
   | none => false) &&
  (match c.active with | some a => a == h.ctx | none => true) &&
  (decide (32 ≤ (q.filter (fun o => o.ctx == h.ctx && o.cause == h.cause)).length) ||
   decide (h.tick + 64 ≤ s.clk / 10) ||
   s.groups.all (fun g => g.2.core != core || g.2.ctx != h.ctx || g.2.handler.isSome || g.2.stalled s))

/-- HANDLER_GROUP_START: a handler group starts in a free slot with up to 32 origins of the queue whose oldest origin is
oldest (R383, R384); its start refreshes at device scope (R320). -/
def execHandlerGroupStart (core slot : Nat) (s : State) : Host.Outcome State Fault Refusal :=
  if !handlerFree s core slot then .next s
  else
    let c := s.coreAt core
    match (queueHeads c.trapq).find? (fun h => queueDue s core c.trapq h) with
    | none => .next s
    | some h =>
      match Map.find s.ctxs h.ctx with
      | none => .next s
      | some x =>
        let os := (c.trapq.filter (fun o => o.ctx == h.ctx && o.cause == h.cause)).take 32
        let (gid, s1) := (s.putCore core { c with
          trapq := c.trapq.filter (fun o => !(os.any (fun p => p.id == o.id))) }).takeId
        .next (learn (refreshAt (s1.putG gid (handlerGroup s x h.ctx core slot os)) core 4) gid 4)

end Sys2Proof.Machine
end

