-- ==== Sys2Proof/Machine/Sync.lean ====
section
/-!
DEFINITION. Class 11 synchronisation: barrier objects (R295 to R300), publish, refresh and fetch (R301), the scheduler's
wide barriers (R303 to R305), and the steps that apply deferred operations.
-/
namespace Sys2Proof.Machine

/-! ### Barrier instructions -/

/-- R296: expected arrivals and units of a BARINIT. -/
def Iss.barCounts (c : Iss) (f : EFmt) : Res (Nat × Nat) :=
  if f.imm == 0 then
    let x := c.g.rdS c.fc f.r.a.toNat
    if bits x 63 48 != 0 then .error (illegal 4) else .ok (bits x 47 32, bits x 31 0)
  else .ok (f.imm.toNat % 256, f.imm.toNat / 256 * 2 ^ (8 * (f.efn.toNat / 4)))

/-- BARINIT: a new object, its line tagged (R296). Waiters test the new phase. -/
def execBarinit (f : EFmt) (s : State) : Host.Outcome State Fault Refusal :=
  asOnce f.r.g s (fun c => do
    holdAtIssue c (.barinit f)
    let name := c.g.rdS c.fc f.bar.toNat
    let kind := f.efn.toNat % 4
    let (ea, eu) ← c.barCounts f
    if (kind == 0 && eu != 0) || (ea == 0 && eu == 0) then throw (illegal 4)
    let (loc, s1) ← c.barObject s .w name false
    if mortValid s1 loc then throw (nameTrap c cBarOverwrite 0 (nameVa name))
    let o : BarObj := { phase := 0, expa := ea, rcva := 0, expu := eu, rcvu := 0, kind := kind + 128 }
    let s2 := objSeen (objTag (objWr s1 loc 0 (o.bytes ++ List.replicate 15 0)) loc true) c.g.core loc 32
    return wakeObj (postDone s2 c (.barinit f) []) loc)

/-- BARFREE: VALID is cleared, and the tag where the other half holds no valid object (R297). -/
def execBarfree (f : EFmt) (s : State) : Host.Outcome State Fault Refusal :=
  asOnce f.r.g s (fun c => do
    holdAtIssue c (.barfree f)
    let (loc, s1) ← c.barObject s .w (c.g.rdS c.fc f.bar.toNat) true
    let s2 := objSeen (objWr s1 loc 0x10 [BitVec.ofNat 8 ((barRd s1 loc).kind % 128)]) c.g.core loc 17
    let s3 := if lineHasBar s2 loc then s2 else objTag s2 loc false
    return postDone s3 c (.barfree f) [])

/-- The key of a group's RED entries held for an advance (R302). -/
def redKey (s : State) (g : Group) (r : RedEntry) : List Nat :=
  match Map.find s.teams g.team with
  | none => [0, 0, g.idx, r.id, r.lane]
  | some t =>
    let cl := match Map.find s.clusters t.cluster with | some x => x.index | none => 0
    [cl, t.lcore, g.idx, r.id, r.lane]

/-- R302: a group's RED entries whose flush point is a barrier arrival, with their keys and that barrier: those that no
earlier flush point drains already. -/
def takeRed (s : State) (g : Group) (owner : FrameOwner) (scope : Nat) : List RedEntry :=
  (g.red.filter (fun r => decide (g.redUpTo ≤ r.id))).map (fun r =>
    { r with key := redKey s g r, owner := if scope < 4 then .writer else owner, scope := scope })

/-- The entries of its share that stay there. -/
def Group.keepRed (g : Group) : Group := { g with red := g.red.filter (fun r => decide (r.id < g.redUpTo)) }

/-- BARARR: the group's RED entries are held for the advance, its stores publish, and n arrivals are applied (R298). The
split does not wait. DEDUCED, log 20. -/
def execBararr (f : EFmt) (s : State) : Host.Outcome State Fault Refusal :=
  asOnce f.r.g s (fun c => do
    holdAtIssue c (.bararr f)
    let name := c.g.rdS c.fc f.bar.toNat
    let (loc, s1) ← c.barObject s .w name true
    let id := s1.nextId
    let red := takeRed s c.g (.obj loc) (barScope f.efn.toNat loc).code
    let s2 := post s1 { c with g := c.g.keepRed } (.bararr f) (.arrive loc f.imm.toNat)
      { on := laneBit (lowLane c.act), addr := [(lowLane c.act, name)], data := [], cmp := [] }
    return { s2 with barRed := if red.isEmpty then s2.barRed else s2.barRed ++ [(loc, id, red)] })

/-- R299, R300: the phase an instruction names. -/
def Iss.phaseArg (c : Iss) (f : EFmt) : Nat :=
  if f.imm.toNat ≥ 2 ^ 15 then (c.g.rdS c.fc f.r.a.toNat).toNat % 2 ^ 32 else f.imm.toNat

/-- BARWAIT: holds the split until the phase is reached, then refreshes (R299). -/
def execBarwait (f : EFmt) (s : State) : Host.Outcome State Fault Refusal :=
  asOnce f.r.g s (fun c => do
    holdAtIssue c (.barwait f)
    let (loc, s1) ← c.barObject s .r (c.g.rdS c.fc f.bar.toNat) true
    let scope := barScope f.efn.toNat loc
    if phaseReached (barRd s1 loc).phase (c.phaseArg f) then
      return refreshGroup (postDone s1 c (.barwait f) []) c.gid scope.code
    else return postWait s1 c (.barwait f) (fun _ => .phase loc (c.phaseArg f) scope))

/-- BARTEST: the phase, and whether a phase is reached (R300). -/
def execBartest (f : EFmt) (s : State) : Host.Outcome State Fault Refusal :=
  asOnce f.r.g s (fun c => do
    holdAtIssue c (.bartest f)
    let (loc, s1) ← c.barObject s .r (c.g.rdS c.fc f.bar.toNat) true
    let phase := (barRd s1 loc).phase
    let ok := phaseReached phase (c.phaseArg f)
    let s2 := postDone s1 c (.bartest f) [.s f.r.dst.toNat (BitVec.ofNat 64 (phase + (if ok then 2 ^ 32 else 0)))]
    return if ok then refreshGroup s2 c.gid (barScope f.efn.toNat loc).code
           else { s2 with groups := Map.modify s2.groups c.gid (fun g => g.demote c.pos) })

/-- The scope of a BARARR entry. -/
def arriveScope (e : Entry) (loc : ObjLoc) : Nat :=
  match e.instr with
  | .bararr f => (barScope f.efn.toNat loc).code
  | _ => 0

/-- An arrival whose group's earlier stores are performed at its scope, and whose RED entries of earlier flush points are drained, is applied (R298, R302), or joins the applications that
wait at its object. Its entry is over when it is applied. -/
def applyArrive (s : State) (gid : Nat) (g : Group) (e : Entry) (loc : ObjLoc) (n : Nat) : State :=
  if !storesDone s gid g e.id (arriveScope e loc) || !redDrained g e.id || g.entries.any (fun x => decide (x.id < e.id) && x.op != .result &&
      (match x.op with | .arrive l _ => l == loc && !x.over | _ => false)) then s
  else
    applyObj (modEntry (published s gid (arriveScope e loc)) gid e.id (fun e => { e with sent := e.mask })) loc g.ctx n 0 (.arrive gid e.id)

/-! ### Publish, refresh, fetch (R301) -/

/-- R301: IFENCE discards every line the core has fetched for a context; a split within a clause goes on in the line it is in, whole (R72). -/
def discardLines (s : State) (core ctx : Nat) : State :=
  { s with
    cores := Map.modify s.cores core (fun c => { c with icache := c.icache.filter (fun l => lineCtx l.1 != ctx) }),
    groups := s.groups.map (fun g =>
      if g.2.core == core && g.2.ctx == ctx then
        (g.1, { g.2 with splits := g.2.splits.map (fun p => (p.1, p.2.unfetch)) })
      else g) }

/-- A PUBLISH or IFENCE of a split is complete. -/
def publishOk (s : State) (gid : Nat) (g : Group) (scope : Scope) (upTo : Nat) : Bool :=
  redDrained g upTo && storesDone s gid g upTo scope.code

/-- What a PUBLISH or IFENCE does when it completes. -/
def endPublish (s0 : State) (gid pos : Nat) (g : Group) (scope : Scope) (fence : Bool) : State :=
  let s := published s0 gid scope.code
  let s1 := { s with groups := Map.modify s.groups gid (fun g => g.endWait pos) }
  if fence then discardLines s1 g.core g.ctx else s1

/-- The publishes of a group that are complete end. -/
def stepPublish (s : State) (gid : Nat) : State :=
  match Map.find s.groups gid with
  | none => s
  | some g =>
    g.splits.foldl (fun s p =>
      match p.2.wait with
      | .publish scope upTo fence => if publishOk s gid g scope upTo then endPublish s gid p.1 g scope fence else s
      | _ => s) s

/-- A publish: RED entries drain, and the split is held until the group's stores are performed at the scope. -/
def publish (i : Instr) (gd : Guard) (scope : Scope) (fence : Bool) (s : State) : Host.Outcome State Fault Refusal :=
  asOnce gd s (fun c => do
    holdAtIssue c i
    let s1 := postWait s c i (fun _ => .publish scope s.nextId fence)
    return stepPublish (flushPoint s1 c.gid) c.gid)

/-- PUBLISH (R301). -/
def execPublish (f : MFmt) (s : State) : Host.Outcome State Fault Refusal := publish (.publish f) f.r.g f.scope false s

/-- REFRESH (R301). -/
def execRefresh (f : MFmt) (s : State) : Host.Outcome State Fault Refusal :=
  asOnce f.r.g s (fun c => do
    holdAtIssue c (.refresh f)
    return refreshGroup (postDone s c (.refresh f) []) c.gid f.scope.code)

/-- IFENCE: acts as PUBLISH.DEV, then discards the context's fetched lines (R301). -/
def execIfence (f : MFmt) (s : State) : Host.Outcome State Fault Refusal := publish (.ifence f) f.r.g .device true s

/-- R309: an operation of the group's log publishes at domain scope before it is applied. -/
def Entry.wantsDomain (e : Entry) : Bool :=
  match e.op, mFields e.instr with
  | .mortise _ _ _, some f => !e.over && f.scope == .domain
  | _, _ => false

/-- R347: a group waits for a publish at domain scope: by PUBLISH, by GRIDARR, by an operation in its log, or by a release it
issues next. -/
def wantsDomain (g : Group) : Bool :=
  g.entries.any Entry.wantsDomain || g.splits.any (fun p =>
    match p.2.wait with
    | .publish .domain _ _ | .grid _ .domain _ _ => true
    | .none =>
      (match p.2.next with
       | some (.ok i) => (match mFields i with | some f => ordRel f.ord && f.scope == .domain | none => false)
       | _ => false)
    | _ => false)

/-- R347: one trap for each faulted write that has not been reported, in the order the refusals arrived. -/
def reportHeld (s : State) (gid : Nat) : State :=
  match Map.find s.groups gid with
  | none => s
  | some g =>
    if g.held.all HeldWrite.raised || !wantsDomain g then s
    else
      let s0 := s.putG gid { g with held := g.held.map (fun h => { h with raised := true }) }
      (g.held.filter (fun h => !h.raised)).foldl (fun s h =>
        raiseTrap s { gid := gid, pos := h.pos, pc := h.pc, act := h.mask, kind := 2, ref := h.tag }
          { cause := cRemote, detail := h.detail, aux := h.pkt.dest, addr := [(lowLane h.mask, h.va)] }) s0

/-! ### Wide barriers (R303 to R305) -/

/-- Groups of a launch that have lanes left, with their teams. -/
def launchGroups (s : State) (launch : Nat) : List (Nat × Group × Team) :=
  s.groups.filterMap (fun g =>
    match Map.find s.teams g.2.team with
    | some t => if t.launch == launch && g.2.handler.isNone && g.2.exited != BitVec.allOnes 32 then some (g.1, g.2, t) else none
    | none => none)

/-- R304: the members of a group's barrier at a scope. -/
def gridMembers (s : State) (launch : Nat) (g : Group) (t : Team) (scope : Scope) : List Nat :=
  ((launchGroups s launch).filter (fun x =>
    match scope with
    | .cluster => x.2.2.cluster == t.cluster
    | .die => coreDie x.2.1.core == coreDie g.core
    | _ => true)).map (fun x => x.1)

/-- A launch has a cluster that is not placed. -/
def unplaced (s : State) (launch : Nat) : Bool :=
  match Map.find s.launches launch with
  | none => false
  | some l => l.ranges.any (fun r => decide (r.2.1 < r.2.2))

def membersOf (s : State) (launch gid : Nat) (scope : Scope) : List Nat :=
  match Map.find s.groups gid with
  | none => []
  | some g => match Map.find s.teams g.team with | some t => gridMembers s launch g t scope | none => []

def modBar (s : State) (launch k : Nat) (fn : GridBar → GridBar) : State :=
  { s with gridBars := s.gridBars.map (fun b => if b.launch == launch && b.k == k then fn b else b) }

def findBar (s : State) (launch k : Nat) : Option GridBar := s.gridBars.find? (fun b => b.launch == launch && b.k == k)

def ensureBar (s : State) (launch k : Nat) : State :=
  if (findBar s launch k).isSome then s
  else { s with gridBars := s.gridBars ++ [{ launch := launch, k := k, arrived := [], past := [], red := [], bad := [], sent := false, spoilt := [], told := [] }] }

/-- The slot before a program counter (R49). -/
def prevPc (pc : Nat) : Nat := if pc % 64 == 0 then pc - 16 else pc - 12

/-- A member as it passes its barrier. -/
def gridPast (s : State) (a : Nat × Scope) : Option GridPast :=
  (Map.find s.groups a.1).bind (fun g => (Map.find s.teams g.team).map (fun t =>
    { gid := a.1, cluster := t.cluster, die := coreDie g.core, scope := a.2 }))

/-- R305: an arrived member whose scopes differ traps on its k-th GRIDARR: the split stands at it again, its RED entries
return to it, and its count stays at k. -/
def gridTrap (s : State) (launch k gid : Nat) : State :=
  match Map.find s.groups gid with
  | none => s
  | some g =>
    match g.splits.find? (fun p => match p.2.wait with | .grid j _ _ _ => j == k | _ => false) with
    | none => s
    | some (pos, sp) =>
      let pc := match sp.wait with | .grid _ _ _ pc => pc | _ => sp.pc
      let mine := match findBar s launch k with | some b => b.red.filter (fun r => r.gid == gid) | none => []
      let same := pc / 64 == sp.pc / 64
      let back := { sp with pc := pc, wait := .none, line := if same then sp.line else none, entered := same }
      let g1 := { (g.setSplit pos back) with
        gridCount := k, red := mine ++ g.red }
      let s1 := modBar (s.putG gid g1) launch k (fun b => { b with
        arrived := b.arrived.filter (fun a => a.1 != gid), red := b.red.filter (fun r => r.gid != gid),
        bad := b.bad.filter (· != gid),
        spoilt := b.spoilt ++ ((b.arrived.filter (fun a => a.1 == gid)).filterMap (gridPast s)).map (fun p => (s.nextId, p)) })
      raiseTrap s1 { gid := gid, pos := pos, pc := pc, act := sp.mask, kind := 0, ref := 0 }
        { cause := cCollMismatch, detail := 2 }

/-- R304: one barrier of scope `scope` holds a group of a cluster and die and a member that has passed it. -/
def GridPast.near (p : GridPast) (cluster die : Nat) (scope : Scope) : Bool :=
  match scope with
  | .cluster => p.cluster == cluster
  | .die => p.die == die
  | _ => true

/-- R305: a member placed after a mismatch traps at its k-th GRIDARR too, once. DEDUCED, log 35. -/
def GridBar.spoils (b : GridBar) (me : GridPast) : Bool :=
  !b.told.contains me.gid && b.spoilt.any (fun p => decide (p.1 ≤ me.gid) &&
    (p.2.near me.cluster me.die me.scope || p.2.near me.cluster me.die p.2.scope))

/-- R305: an arrival whose scope differs from another member's, also one whose own barrier k has completed, spoils the barrier
for the members of both that have not passed it. DEDUCED, log 35. -/
def gridMismatch (s : State) (launch k gid : Nat) (scope : Scope) : State :=
  match findBar s launch k with
  | none => s
  | some b =>
    let mine := membersOf s launch gid scope
    let bad := b.arrived.flatMap (fun a =>
      let theirs := membersOf s launch a.1 a.2
      if a.2 != scope && (mine.contains a.1 || theirs.contains gid) then mine ++ theirs else [])
    let late := match gridPast s (gid, scope) with
      | some me => b.past.any (fun p => p.scope != scope && (p.near me.cluster me.die scope || p.near me.cluster me.die p.scope))
      | none => false
    let after := match gridPast s (gid, scope) with | some me => if b.spoils me then [gid] else [] | none => []
    modBar s launch k (fun b => { b with
      told := b.told ++ after, bad := ((b.bad ++ bad ++ (if late then mine else []) ++ after).filter (fun m => !(b.past.any (fun p => p.gid == m)))).eraseDups })

/-- Every arrived group that the barrier is spoilt for traps. DEDUCED, log 35. -/
def gridTraps (s : State) (launch k : Nat) : State :=
  match findBar s launch k with
  | none => s
  | some b => (b.arrived.filter (fun a => b.bad.contains a.1)).foldl (fun s a => gridTrap s launch k a.1) s

/-- The launch of a group. -/
def launchOf (s : State) (g : Group) : Nat := match Map.find s.teams g.team with | some t => t.launch | none => 0

/-- R304 step 2: a group whose stores are performed at its scope arrives. -/
def gridArrive (s : State) (gid : Nat) : State :=
  match Map.find s.groups gid with
  | none => s
  | some g =>
    match g.splits.findSome? (fun p => match p.2.wait with | .grid k sc up _ => some (k, sc, up) | _ => none) with
    | none => s
    | some (k, scope, upTo) =>
      let launch := launchOf s g
      let here := match findBar s launch k with | some b => b.arrived.any (fun a => a.1 == gid) | none => false
      if here || !storesDone s gid g upTo scope.code || !redDrained g upTo then s
      else
        let s1 := gridMismatch (ensureBar (published s gid scope.code) launch k) launch k gid scope
        gridTraps (modBar s1 launch k (fun b => { b with arrived := b.arrived ++ [(gid, scope)] })) launch k

/-- R304: the other ranks of a context's domain job. -/
def otherRanks (s : State) (ctx : Nat) : List Nat :=
  match (Map.find s.ctxs ctx).bind Ctx.job with
  | none => []
  | some j => (List.range 512).filter (fun r => j.map.getD r 0 != 0 && r != j.rank)

/-- A member of a launch's barrier k, as an arrival, whose members have all arrived alike. -/
def gridFull (s : State) (b : GridBar) (a : Nat × Scope) : Bool :=
  let ms := membersOf s b.launch a.1 a.2
  (a.2 == .cluster || !unplaced s b.launch) && ms.all (fun m => b.arrived.contains (m, a.2))

/-- R304: device-scope completion is told to the other ranks once, and the domain's is complete when all have told. DEDUCED, log 35. -/
def domainOk (s : State) (b : GridBar) (gid : Nat) : Bool × State :=
  match Map.find s.groups gid with
  | none => (false, s)
  | some g =>
    match (Map.find s.ctxs g.ctx).bind Ctx.job with
    | none => (true, s)
    | some j =>
      let others := otherRanks s g.ctx
      let s1 := if b.sent then s
        else others.foldl (fun s r => s.send (.domainBar j.job r b.k)) (modBar s b.launch b.k (fun b => { b with sent := true }))
      (others.all (fun r => s1.domainArr.contains (j.job, r, b.k)), s1)

/-- R304: completion: RED entries of the members are applied in order, then every member wakes, refreshed. Whether it completed,
and the state. -/
def gridComplete (s : State) (b : GridBar) (members : List Nat) (scope : Scope) : Bool × State :=
  let (left, s1) := drainList s (sortBy RedEntry.key (b.red.filter (fun r => members.contains r.gid)))
  let s2 := modBar s1 b.launch b.k (fun x => { x with red := x.red.filter (fun r => !members.contains r.gid) ++ left })
  if !left.isEmpty || !redPlaced s2 (.grid b.launch b.k) then (false, s2)
  else
    let s3 := members.foldl (fun s m =>
      match Map.find s.groups m with
      | none => s
      | some g =>
        let g1 := { g with splits := g.splits.map (fun p =>
          (p.1, match p.2.wait with | .grid _ _ _ _ => { p.2 with wait := .none } | _ => p.2)) }
        refreshGroup (s.putG m g1) m scope.code) (members.foldl (fun s m => published s m scope.code) s2)
    (true, modBar s3 b.launch b.k (fun x => { x with
      arrived := x.arrived.filter (fun a => !members.contains a.1),
      past := x.past ++ (x.arrived.filter (fun a => members.contains a.1)).filterMap (gridPast s) }))

/-- The barrier of one arrival completes where it can: of the clusters or dies of a launch each has its own (R304). -/
def gridTryOne (s : State) (launch k : Nat) (a : Nat × Scope) : State :=
  match (findBar s launch k).bind (fun b => if b.arrived.contains a && !b.bad.contains a.1 && gridFull s b a then some b else none) with
  | none => s
  | some b =>
    let members := membersOf s b.launch a.1 a.2
    if a.2 == .domain then
      let (ok, s1) := domainOk s b a.1
      if ok then
        let job := ((Map.find s.groups a.1).bind (fun g => Map.find s.ctxs g.ctx)).bind Ctx.job
        let (ended, s2) := gridComplete s1 b members a.2
        match if ended then job else none with
        | some j => { s2 with domainArr := s2.domainArr.filter (fun d => !(d.1 == j.job && d.2.2 == b.k)) }
        | none => s2
      else s1
    else (gridComplete s b members a.2).2

/-- The barriers k of a launch complete where they can. -/
def gridTry (s : State) (b : GridBar) : State := b.arrived.foldl (fun s a => gridTryOne s b.launch b.k a) s

/-- A barrier that a member may still reach: a group of its launch whose count is not past it, or one not placed yet. -/
def GridBar.open (s : State) (b : GridBar) : Bool :=
  unplaced s b.launch || (launchGroups s b.launch).any (fun x => decide (x.2.1.gridCount ≤ b.k))

/-- The wide barriers after an event: arrivals, completions, and barriers with nothing left forgotten. -/
def stepGrid (s : State) : State :=
  let s1 := (Map.keys s.groups).foldl gridArrive s
  if s1.gridBars.isEmpty then s1
  else
    let s2 := s1.gridBars.foldl gridTry s1
    { s2 with gridBars := s2.gridBars.filter (fun b => !(b.arrived.isEmpty && b.red.isEmpty && b.bad.isEmpty) || b.open s2) }

/-- GRIDARR: flushes RED entries, publishes, arrives and parks the group (R303, R304). -/
def execGridarr (f : SFmt) (s : State) : Host.Outcome State Fault Refusal :=
  asOnce f.r.g s (fun c =>
    if decide (1 < c.g.splits.length) || c.g.recs.any JoinRec.d then .error (illegal 4)
    else
      let scope := (Scope.ofCode f.fn.toNat).getD .cluster
      let k := c.g.gridCount
      let launch := launchOf s c.g
      let red := takeRed s c.g (.grid launch k) scope.code
      let g := { (c.g.advance c.pos).keepRed with gridCount := k + 1 }
      let g1 := { g with splits := Map.modify g.splits c.pos (fun sp => { sp with wait := .grid k scope s.nextId c.sp.pc }) }
      .ok (modBar (ensureBar (s.putG c.gid g1) launch k) launch k (fun b => { b with red := b.red ++ red })))

/-- DOMAIN_BARRIER_STEP: a peer's device-scope completion (R304, R341); of a job not held here it is dropped and counted. DEDUCED, log 35. -/
def execDomainBarrierStep (job rank k : Nat) (s : State) : Host.Outcome State Fault Refusal :=
  if !linked s then .next s
  else match ctxOfJob s job with
  | none => .next { s with fabErrs := s.fabErrs + 1 }
  | some _ => .next (if s.domainArr.contains (job, rank, k) then s else { s with domainArr := s.domainArr ++ [(job, rank, k)] })

end Sys2Proof.Machine
end

