-- ==== Sys2Proof/Machine/Mortise.lean ====
section
/-!
DEFINITION. Mortises and pegs (R306 to R317), applied one at a time at the mortise's home.
-/
namespace Sys2Proof.Machine

/-! ### Layout -/

/-- A mortise's fields (R306). -/
structure Mort where
  id    : Nat
  state : Nat
  turn  : Nat
  tail  : Nat
  count : Nat
  aband : Nat
  head  : Nat
  last  : Nat
  deriving DecidableEq, Repr

def mortRd (s : State) (pa : Nat) : Mort :=
  let b := s.rd pa 16
  { id := leAt b 0 2, state := leAt b 2 1, turn := leAt b 4 2, tail := leAt b 6 2, count := leAt b 8 2, aband := leAt b 10 2,
    head := leAt b 12 2, last := leAt b 14 2 }

def Mort.bytes (m : Mort) : List Byte :=
  leBytes 2 m.id ++ leBytes 2 m.state ++ leBytes 2 m.turn ++ leBytes 2 m.tail ++ leBytes 2 m.count ++ leBytes 2 m.aband ++
  leBytes 2 m.head ++ leBytes 2 m.last

def Mort.held (m : Mort) : Bool := m.state / 2 % 2 == 1
def Mort.adv (m : Mort) : Bool := m.state / 4 % 2 == 1
/-- STATE with HELD and ADV replaced; VALID stays. -/
def Mort.setState (m : Mort) (held adv : Bool) : Mort :=
  { m with state := 1 + (if held then 2 else 0) + (if adv then 4 else 0) }

/-- R245, R308: the quadrant of a scratchpad line's home slice. -/
def homeQuad (pa : Nat) : Nat := 4 * ((pa - 0x030000000000) / 0x10000000) + pa / 64 % 16 / 4

/-- Fields of a link (R308). -/
def lkSeq (w : DWord) : Nat := bits w 15 0
def lkSt (w : DWord) : Nat := bits w 17 16
def lkNext (w : DWord) : Nat := bits w 31 18
def lkSetSt (w : DWord) (n : Nat) : DWord := setBits w 17 16 n
def lkSetNext (w : DWord) (n : Nat) : DWord := setBits w 31 18 n
def mkLink (seq st next core slot ctx : Nat) : DWord :=
  BitVec.ofNat 64 (seq % 2 ^ 16 + st % 4 * 2 ^ 16 + next % 2 ^ 14 * 2 ^ 18 + core % 256 * 2 ^ 32 + slot % 1024 * 2 ^ 40 +
    ctx % 64 * 2 ^ 50)

/-- The group is the link's holder. -/
def heldBy (g : Group) (w : DWord) : Bool :=
  bits w 39 32 == g.core && bits w 49 40 == g.slot && bits w 55 50 == g.ctx

/-- A mortise with its queue: link indices in queue order, first place first. -/
structure MQ where
  pa    : Nat
  m     : Mort
  links : SMap DWord
  order : List Nat
  deriving DecidableEq, Repr

def MQ.link (q : MQ) (i : Nat) : DWord := Map.get 0 q.links i

/-- The queue from a link onward. -/
def queueFrom (links : SMap DWord) : Nat → Nat → List Nat
  | 0, _ => []
  | n + 1, i =>
    let w := Map.get 0 links i
    if lkSt w == 0 then [] else i :: (if lkNext w == i then [] else queueFrom links n (lkNext w))

def quadAt (s : State) (q : Nat) : Quad := Map.get Quad.reset s.quads q

def loadMq (s : State) (pa : Nat) : MQ :=
  let m := mortRd s pa
  let links := (quadAt s (homeQuad pa)).links
  { pa := pa, m := m, links := links, order := if m.head == 0xFFFF then [] else queueFrom links 16384 m.head }

/-- Writes NEXT of every link of the queue from its order; the last names itself. -/
def relink (links : SMap DWord) : List Nat → SMap DWord
  | [] => links
  | [i] => Map.set 0 links i (lkSetNext (Map.get 0 links i) i)
  | i :: j :: t => relink (Map.set 0 links i (lkSetNext (Map.get 0 links i) j)) (j :: t)

/-- The mortise with HEAD, LAST and the links of its order. -/
def MQ.reorder (q : MQ) (order : List Nat) : MQ :=
  { q with order := order, links := relink q.links order,
           m := { q.m with head := order.headD 0xFFFF, last := order.getLastD 0xFFFF } }

def storeMq (s : State) (q : MQ) : State :=
  let s1 := objWr s (.phys q.pa) 0 q.m.bytes
  let n := homeQuad q.pa
  { s1 with quads := Map.put s1.quads n { quadAt s1 n with links := q.links } }

/-- Retires a place: its link is freed (R308). -/
def MQ.retire (q : MQ) (i : Nat) : MQ :=
  let q1 := q.reorder (q.order.filter (· != i))
  { q1 with links := Map.set 0 q1.links i 0 }

def MQ.setSt (q : MQ) (i n : Nat) : MQ := { q with links := Map.set 0 q.links i (lkSetSt (q.link i) n) }

/-- R309: the waiting or holding place that a peg names. -/
def MQ.find (q : MQ) (peg : Nat) : Option Nat :=
  if peg / 2 ^ 16 != q.m.id then none
  else q.order.find? (fun i => lkSeq (q.link i) == peg % 2 ^ 16 && (lkSt (q.link i) == 1 || lkSt (q.link i) == 2))

/-! ### Waking PEGWAITs -/

/-- The PEGWAITs on a place end with a status. -/
def wakePegs (s : State) (pa seq status : Nat) : State :=
  (Map.keys s.groups).foldl (fun s gid =>
    match Map.find s.groups gid with
    | none => s
    | some g =>
      g.splits.foldl (fun s p =>
        match p.2.wait with
        | .peg a n id acq =>
          if a == pa && n == seq then
            let done (e : Entry) : Entry :=
              match e.instr with
              | .pegwait f => if e.id == id then { e with ready := true, outs := [.s f.r.dst.toNat (BitVec.ofNat 64 status)] } else e
              | _ => e
            let s1 := { s with groups := Map.modify s.groups gid (fun g => { g with
              entries := g.entries.map done,
              splits := Map.modify g.splits p.1 (fun sp => { sp with wait := .none }) }) }
            match acq with
            | some sc => refreshGroup s1 gid sc.code
            | none => s1
          else s
        | _ => s) s) s

/-! ### The turn (R317) -/

/-- The end of a skip: the first place takes the turn, or none does. -/
def MQ.turn (q : MQ) : MQ :=
  match q.order with
  | [] => { q with m := { (q.m.setState false false) with turn := q.m.tail } }
  | i :: _ =>
    let q1 := q.setSt i 2
    { q1 with m := { (q1.m.setState true false) with turn := lkSeq (q.link i) } }

/-- Skips abandoned places at the head, at most `n` of them. -/
def MQ.skip (q : MQ) : Nat → MQ
  | 0 => q
  | n + 1 =>
    match q.order with
    | [] => q
    | i :: _ =>
      if lkSt (q.link i) == 3 then
        let q1 := q.retire i
        MQ.skip { q1 with m := { q1.m with aband := q1.m.aband - 1 } } n
      else q

/-- The head of the queue is abandoned. -/
def MQ.headAbandoned (q : MQ) : Bool :=
  match q.order with
  | [] => false
  | i :: _ => lkSt (q.link i) == 3

/-- R317: the holding place is retired and the turn advances; more than 64 abandoned places leave ADV set. -/
def MQ.release (q : MQ) (i : Nat) : MQ :=
  let q1 := q.retire i
  let q2 := MQ.skip { q1 with m := { (q1.m.setState false q1.m.adv) with count := q1.m.count - 1 } } 64
  if q2.headAbandoned then { q2 with m := q2.m.setState false true } else q2.turn

/-- Stores a queue and wakes the PEGWAITs on a place that has taken the turn. -/
def storeTurn (s : State) (q : MQ) : State :=
  let s1 := storeMq s q
  if q.m.held then
    match q.order with
    | i :: _ => wakePegs s1 q.pa (lkSeq (q.link i)) 0
    | [] => s1
  else s1

/-- R316: a place is abandoned, or released where it holds. -/
def dropPlace (s : State) (q : MQ) (i : Nat) : State :=
  if lkSt (q.link i) == 1 then
    let q1 := q.setSt i 3
    wakePegs (storeMq s { q1 with m := { q1.m with count := q1.m.count - 1, aband := q1.m.aband + 1 } }) q.pa (lkSeq (q.link i)) 3
  else storeTurn s (q.release i)

/-- MORTISE_SKIP_STEP: one step of the background skip (R317). -/
def execMortiseSkipStep (pa : Nat) (s : State) : Host.Outcome State Fault Refusal :=
  if (spDie pa).isNone || !mortValid s (.phys (pa / 64 * 64)) then .next s
  else
    let q := loadMq s (pa / 64 * 64)
    if !q.m.adv then .next s
    else if q.headAbandoned then .next (storeMq s (MQ.skip q 1))
    else .next (storeTurn s q.turn)

/-- R141, R316: an exiting group abandons every place it holds, in ascending link order. -/
def abandonPegs (s : State) (g : Group) : State :=
  let ms := s.tags.filter (fun t => ownTag s t && mortValid s (.phys (64 * t)))
  (List.range 16).foldl (fun s qd =>
    let mine := ((quadAt s qd).links.filter (fun l => heldBy g l.2 && (lkSt l.2 == 1 || lkSt l.2 == 2))).map Prod.fst
    mine.foldl (fun s i =>
      match ms.find? (fun t => homeQuad (64 * t) == qd && (loadMq s (64 * t)).order.contains i) with
      | none => s
      | some t => dropPlace s (loadMq s (64 * t)) i) s) s

/-! ### Instructions (R309 to R317) -/

/-- R291, R309, R434: the mortise at [sa + ofs], for a read of it or for a write. -/
def Iss.mortise (c : Iss) (s : State) (a : Acc) (f : MFmt) (valid : Bool) : Res (Nat × State) :=
  let va := c.g.rdS c.fc f.r.a.toNat + mOffset f false
  if va.toNat % 64 != 0 then .error (nameTrap c cAlign 0 va)
  else
    match scratchAt s a c.g.core c.g.ctx (rootOf s c.g) va with
    | .error (k, d) => .error (nameTrap c k d va)
    | .ok (pa, s1) =>
      if objBusy s c.g (.phys pa) then .error .wait
      else if valid && !mortValid s (.phys pa) then .error (nameTrap c cPerm 6 va)
      else if poisoned s.poison pa 64 then .error (nameTrap c cMachine 2 va)
      else .ok (pa, s1)

/-- The write of an s destination. -/
def outS (f : MFmt) (n : Nat) : List RegWrite := [.s f.r.dst.toNat (BitVec.ofNat 64 n)]

/-- The issuing group's core sees what its operation left of a mortise. -/
def Iss.mortSeen (c : Iss) (s : State) (pa : Nat) : State := objSeen s c.g.core (.phys pa) 16

/-- MORTINIT (R311). -/
def execMortinit (f : MFmt) (s : State) : Host.Outcome State Fault Refusal :=
  asOnce f.r.g s (fun c => do
    holdAtIssue c (.mortinit f)
    let (pa, s1) ← c.mortise s .w f false
    let va := c.g.rdS c.fc f.r.a.toNat + mOffset f false
    if lineHasBar s1 (.phys pa) then throw (nameTrap c cBarOverwrite 0 va)
    if mortValid s1 (.phys pa) then return postDone s1 c (.mortinit f) (outS f 7)
    let m : Mort := { id := bits va 21 6, state := 1, turn := 0, tail := 0, count := 0, aband := 0, head := 0xFFFF, last := 0xFFFF }
    let s2 := objSeen (objTag (objWr s1 (.phys pa) 0 (m.bytes ++ List.replicate 48 0)) (.phys pa) true) c.g.core (.phys pa) 64
    return postDone s2 c (.mortinit f) (outS f 0))

/-- MORTINIT.FREE (R311). -/
def execMortinitFree (f : MFmt) (s : State) : Host.Outcome State Fault Refusal :=
  asOnce f.r.g s (fun c => do
    holdAtIssue c (.mortinitFree f)
    let (pa, s1) ← c.mortise s .w f true
    let m := mortRd s1 pa
    if m.count != 0 || m.aband != 0 || m.adv then return postDone s1 c (.mortinitFree f) (outS f 7)
    let s2 := objSeen (objTag (objWr s1 (.phys pa) 2 [BitVec.ofNat 8 (m.state / 2 * 2)]) (.phys pa) false) c.g.core (.phys pa) 16
    return postDone s2 c (.mortinitFree f) (outS f 0))

/-- The link that MORTACQ takes: any free one (R312), so the index is free. DESIGN CHOICE, log 41. -/
def freeLink (s : State) (q : MQ) : Option Nat :=
  let used := Map.keys q.links
  let start := (Config.freeWord (s.free * 2 ^ 64)).toNat % 16384
  match lowestFree used (16384 - start) start with
  | some i => some i
  | none => lowestFree used start 0

/-- MORTACQ: appends a place (R312). DESIGN CHOICE, log 41. -/
def execMortacq (f : MFmt) (s : State) : Host.Outcome State Fault Refusal :=
  asOnce f.r.g s (fun c => do
    holdAtIssue c (.mortacq f)
    let (pa, s1) ← c.mortise s .w f true
    let q := loadMq s1 pa
    let setP (b : Bool) : List RegWrite := (lanesOf c.act).map (fun l => .p f.r.b.toNat l b)
    match freeLink s1 q with
    | none => return postDone s1 c (.mortacq f) (outS f 0xFFFFFFFF ++ setP false)
    | some i =>
      let seq := q.m.tail
      let only := !q.m.held && !q.m.adv && q.order.isEmpty
      let q1 := { q with links := Map.set 0 q.links i (mkLink seq (if only then 2 else 1) i c.g.core c.g.slot c.g.ctx) }
      let q2 := q1.reorder (q.order ++ [i])
      let m := { q2.m with tail := (seq + 1) % 0xFFFF, count := q2.m.count + 1 }
      let q3 := { q2 with m := if only then { (m.setState true false) with turn := seq } else m }
      return postDone (c.mortSeen (storeMq s1 q3) pa) c (.mortacq f) (outS f (q.m.id * 2 ^ 16 + seq) ++ setP true))

/-- The low 32 bits of an s operand: a peg. -/
def Iss.peg (c : Iss) (r : BitVec 8) : Nat := bits (c.g.rdS c.fc r.toNat) 31 0

/-- PEGWAIT: at once on a holding place or none, else until the turn reaches the place (R313). -/
def execPegwait (f : MFmt) (s : State) : Host.Outcome State Fault Refusal :=
  asOnce f.r.g s (fun c => do
    holdAtIssue c (.pegwait f)
    let (pa, s1) ← c.mortise s .r f true
    let q := loadMq s1 pa
    let now (n : Nat) : State :=
      let s2 := postDone s1 c (.pegwait f) (outS f n)
      if f.ord == .acq then refreshGroup s2 c.gid f.scope.code else s2
    match q.find (c.peg f.r.b) with
    | none => return now 3
    | some i =>
      if lkSt (q.link i) == 2 then return now 0
      else
        let acq := if f.ord == .acq then some f.scope else none
        return postWait s1 c (.pegwait f) (fun id => .peg pa (lkSeq (q.link i)) id acq))

/-- R314: the group that sG names in the issuer's cluster. -/
def groupNamed (s : State) (g : Group) (x : DWord) : Option Group :=
  if x.toNat % 2 ^ 16 / 16 != 0 || x.toNat / 2 ^ 26 != 0 then none
  else
    match Map.find s.teams g.team with
    | none => none
    | some t =>
      (s.groups.find? (fun p =>
        match Map.find s.teams p.2.team with
        | some u => u.cluster == t.cluster && u.lcore == bits x 3 0 && p.2.idx == bits x 25 16 && p.2.handler.isNone &&
            p.2.exited != BitVec.allOnes 32
        | none => false)).map Prod.snd

/-- PEGGIVE: another group becomes the holder (R314). -/
def execPeggive (f : MFmt) (s : State) : Host.Outcome State Fault Refusal :=
  asOnce f.r.g s (fun c => do
    holdAtIssue c (.peggive f)
    let (pa, s1) ← c.mortise s .w f true
    let q := loadMq s1 pa
    let answer (n : Nat) (s : State) : State := postDone s c (.peggive f) (outS f n)
    match q.find (c.peg f.r.b) with
    | none => return answer 3 s1
    | some i =>
      if !heldBy c.g (q.link i) then return answer 4 s1
      else
        match groupNamed s1 c.g (c.g.rdS c.fc f.r.c.toNat) with
        | none => return answer 5 s1
        | some h =>
          let w := q.link i
          let w1 := mkLink (lkSeq w) (lkSt w) (lkNext w) h.core h.slot h.ctx
          return answer 0 (c.mortSeen (storeMq s1 { q with links := Map.set 0 q.links i w1 }) pa))

/-- The list with two elements exchanged. -/
def swapIn (l : List Nat) (a b : Nat) : List Nat := l.map (fun x => if x == a then b else if x == b then a else x)

/-- PEGSWAP: two places exchange positions (R315). -/
def execPegswap (f : MFmt) (s : State) : Host.Outcome State Fault Refusal :=
  asOnce f.r.g s (fun c => do
    holdAtIssue c (.pegswap f)
    let (pa, s1) ← c.mortise s .w f true
    let q := loadMq s1 pa
    let answer (n : Nat) (s : State) : State := postDone s c (.pegswap f) (outS f n)
    match q.find (c.peg f.r.b), q.find (c.peg f.r.c) with
    | some a, some b =>
      if !heldBy c.g (q.link a) then return answer 4 s1
      else if lkSt (q.link a) == 2 || lkSt (q.link b) == 2 then return answer 1 s1
      else if !((q.order.dropWhile (· != a)).drop 1).contains b then return answer 2 s1
      else return answer 0 (c.mortSeen (storeMq s1 (q.reorder (swapIn q.order a b))) pa)
    | _, _ => return answer 3 s1)

/-- PEGDROP and MORTREL at the home: the status, and the state it leaves (R316, R317). -/
def leavePlace (s : State) (g : Group) (pa peg : Nat) (drop : Bool) : Nat × State :=
  let q := loadMq s pa
  match q.find peg with
  | none => (3, s)
  | some i =>
    if !heldBy g (q.link i) then (4, s)
    else if !drop && lkSt (q.link i) != 2 then (6, s)
    else (0, objSeen (dropPlace s q i) g.core (.phys pa) 16)

/-- PEGDROP and MORTREL: with release, the operation waits in the group's log until its stores are performed (R309). -/
def leave (i : Instr) (f : MFmt) (drop : Bool) (s : State) : Host.Outcome State Fault Refusal :=
  asOnce f.r.g s (fun c => do
    holdAtIssue c i
    let (pa, s1) ← c.mortise s .w f true
    if f.ord == .rel && !storesDone s1 c.gid c.g s1.nextId f.scope.code then
      return post s1 c i (.mortise pa (c.peg f.r.b) drop) { on := laneBit (lowLane c.act), addr := [], data := [], cmp := [] }
    let (n, s2) := leavePlace (released s1 c.gid i) c.g pa (c.peg f.r.b) drop
    match Map.find s2.groups c.gid with
    | none => return s2
    | some g => return postDone s2 { c with g := g } i (outS f n))

/-- PEGDROP (R316). -/
def execPegdrop (f : MFmt) (s : State) : Host.Outcome State Fault Refusal := leave (.pegdrop f) f true s

/-- MORTREL (R317). DEDUCED, log 20. -/
def execMortrel (f : MFmt) (s : State) : Host.Outcome State Fault Refusal := leave (.mortrel f) f false s

/-- A deferred PEGDROP or MORTREL is applied once the group's earlier stores are performed at its scope. A mortise freed
meanwhile holds no place (status 3). -/
def applyLeave (s : State) (gid : Nat) (g : Group) (e : Entry) (pa peg : Nat) (drop : Bool) : State :=
  match mFields e.instr with
  | none => s
  | some f =>
    if !storesDone s gid g e.id f.scope.code then s
    else
      let (n, s1) := if mortValid s (.phys pa) then leavePlace (released s gid e.instr) g pa peg drop else (3, s)
      entryOver (laneDone s1 gid e e.mask (outS f n) false) gid e.id

/-! ### Memory accesses performed -/

/-- R267: the group's RED entries of a flush are applied at their homes; one that a peer has refused is over (R347). DEDUCED, log 91. -/
def redApplied (s : State) (gid : Nat) (g : Group) (upTo : Nat) : Bool :=
  redDrained g upTo &&
  s.fabReqs.all (fun r => !(r.2.gid == gid && r.2.posted && r.2.copy.isNone && r.2.pkt.cls == 2 && decide (r.2.entry < upTo)))

/-- One lane of an entry of the operand log, or a deferred operation, is performed at its home. -/
def performRef (s : State) (gid id lane : Nat) (resp : Line) : State :=
  match Map.find s.groups gid with
  | none => s
  | some g =>
    match g.entries.find? (fun e => e.id == id) with
    | none => s
    | some e =>
      match e.op with
      | .access => performEntry s gid g e lane resp
      | .arrive loc n => if e.over || e.sent != 0 || e.fault != 0 then s else applyArrive s gid g e loc n
      | .mortise pa peg drop => if e.over then s else applyLeave s gid g e pa peg drop
      | .flush => if !e.over && redApplied s gid g e.id then entryOver (laneDone s gid e e.mask [] false) gid e.id else s
      | .result => s

/-- One queued update of a frame is applied as one write (R323); updates of one byte of a frame keep their order (R251, R327). DEDUCED, log 24. -/
def performFrame (s : State) (i : Nat) : State :=
  match s.frameQ[i]? with
  | none => s
  | some u =>
    if (s.frameQ.take i).any (fun v => v.meets u.pa u.bytes.length) then s
    else
      let s1 := s.wr u.pa u.bytes
      { s1 with frameQ := s1.frameQ.take i ++ s1.frameQ.drop (i + 1) }

/-- MEMORY_ACCESS_PERFORMED (R262, R302, R327, R266). -/
def execMemoryAccessPerformed (ref : AccessRef) (resp : Line) (s : State) : Host.Outcome State Fault Refusal :=
  .next (match ref with
    | .lane gid id lane => performRef s gid id lane resp
    | .frame i => performFrame s i
    | .advance loc => retryHeld s loc
    | .drain gid => drainGroup s gid)

end Sys2Proof.Machine
end

