-- ==== Sys2Proof/Machine/Issue.lean ====
section
/-!
DEFINITION. The issue stage: which splits may issue (R84 to R88, R383, R386, R395), the checks of an instruction at issue
(R31, R58, R70, R392), fetch (R72), urgency and throttling (R85, R96), and congestion (R289).
-/
namespace Sys2Proof.Machine

/-! ### Who may issue -/

/-- The context lets a group issue: it is not parked, the core runs it, and it is not frozen or being switched out; a
handler group runs to its end through a switch and a FREEZE (R382, R386, R395, R400). -/
def ctxRuns (s : State) (g : Group) : Bool :=
  (match Map.find s.ctxs g.ctx with
   | some c => c.parked.isNone && (!c.frozen || g.handler.isSome)
   | none => true) &&
  (match Map.find s.cores g.core with
   | some c => (match c.active with | some a => a == g.ctx | none => true) && (c.incoming.isNone || g.handler.isSome)
   | none => true)

/-- The group may issue. -/
def groupRuns (s : State) (g : Group) : Bool :=
  !g.parked && !g.exiting && !g.stopped && ctxRuns s g && !presenceHeld s g

/-- A split may issue now. DESIGN CHOICE, log 10. -/
def mayIssue (s : State) (g : Group) (sp : Split) : Bool := groupRuns s g && sp.ready g

/-- Positions of the splits of a group that may issue. -/
def issuable (s : State) (g : Group) : List Nat :=
  if groupRuns s g then (g.splits.filter (fun p => p.2.ready g)).map Prod.fst else []

/-- R85: clocks since the group last issued. DESIGN CHOICE, log 10. DEDUCED, log 75. -/
def Group.age (s : State) (g : Group) : Nat := s.clk / 10 - g.lastIssue

/-- R85: the order in which a partition takes its ready groups. -/
def groupKey (s : State) (g : Group) : List Nat :=
  let age := g.age s
  if g.urgent || decide (256 ≤ age) then [0, 2 ^ 80 - age, 0, 0, g.slot]
  else [1, if g.handler.isSome then 0 else 1, 8 - g.prio, 2 ^ 80 - age, g.slot]

/-- R87: a demoted split is passed over while a split it waits for is live and has not issued since. -/
def passedOver (g : Group) (sp : Split) : Bool := sp.isDem && sp.demoted.any (fun p => (Map.find g.splits p).isSome)

/-! ### The checks at issue -/

/-- R58: whether a slot whose PAIR bit is set may not pair. DEDUCED, log 18. -/
def pairBad (line : Line) (k : Nat) (i : Instr) : Bool :=
  let w := lineWord line
  lwPair w k &&
  (lwPair w (k + 1) ||
   !(match i.shape with | .s _ _ _ _ => true | _ => false) ||
   (if lineSlot line (k + 1) == 0 then false
    else
      match decodeSlot (lwFlagX w) (lwFlagY w) (lineSlot line (k + 1)) with
      | .ok j => pairConflict (usesOf i) (usesOf j)
      | .error _ => false))

/-- The lanes in which an instruction reads a register of a use: the lanes its guard leaves; of LSHF's operand a the lanes
it takes values from (R161); every lane that has not exited of what a matrix engine takes (R227, R233). -/
def readLanes (c : Iss) (i : Instr) (u : Use) : Mask :=
  match i with
  | .lshf f =>
    let froms := maskOf (fun j => (lanesOf c.on).any (fun l => lshfLane f.fn.toNat l (c.lB f l).toNat == some j))
    if u.file == .v && f.ka == .vec && u.reg == f.r.a.toNat then
      if (f.kb == .vec && f.r.b == f.r.a) || (f.kc == .vec && f.r.c == f.r.a) then froms ||| c.on else froms
    else c.on
  | .mmaQ _ | .mmaS _ | .mspmm _ | .mfill _ => ~~~c.g.exited
  | _ => c.on

/-- R392: an instruction reads a poisoned register: its guard, or an operand where the guard holds in a lane. DESIGN CHOICE, log 72. -/
def readsPoison (g : Group) (fc : Nat) (i : Instr) (act : Mask) : Bool :=
  !g.poison.isEmpty &&
  ((guardUses (guardOf i)).any (Use.poisoned g.poison act) ||
   (let on := guardOn g fc (guardOf i) act
    let c : Iss := { gid := 0, pos := 0, g := g, sp := Map.get (Split.start 0 act) g.splits g.lastSplit, act := act, on := on, fc := fc }
    on != 0 && (operandUses i).any (fun u => u.poisoned g.poison (readLanes c i u))))

/-- The instruction at a slot with the checks of R70 in order, then R31, R58 and R392; the stop is the trap it takes. DEDUCED, log 18. -/
def checkSlot (g : Group) (fc : Nat) (act : Mask) (line : Line) (entered : Bool) (k : Nat) : Except Trap Instr :=
  let w := lineWord line
  if bit w 29 && !entered then .error { cause := cIllegal, detail := 9 }
  else if lineSlot line k == 0 then .error { cause := cIllegal, detail := 8 }
  else
    match decodeSlot (lwFlagX w) (lwFlagY w) (lineSlot line k) with
    | .error n => .error { cause := cIllegal, detail := n }
    | .ok i =>
      if overBudget (usesOf i) g.budget then .error { cause := cIllegal, detail := 7 }
      else if pairBad line k i then .error { cause := cIllegal, detail := 8 }
      else if readsPoison g fc i act then .error { cause := cMachine, detail := 2 }
      else .ok i

/-- The group once a split issues: its age is 0, other splits' demotions have seen it (R85, R87). -/
def Group.issued (g : Group) (clk pos : Nat) : Group :=
  { g with
    lastIssue := clk, urgent := false, lastSplit := pos,
    splits := g.splits.map (fun p =>
      if p.1 == pos then (p.1, { p.2 with isDem := false, demNew := false, demoted := [], passed := 0 })
      else (p.1, { p.2 with demoted := p.2.demoted.filter (· != pos) })) }

/-- What comes of asking a split to issue: nothing, a state without an instruction (its line's rest is null, or it
traps), or an instruction to execute. -/
inductive Prep where
  | no
  | done (s : State)
  | go (i : Instr) (s : State)
  deriving DecidableEq, Repr

/-- A split that passes a null slot: it issues nothing, and a clause it would begin is still to begin (R59). -/
def Group.passNull (g : Group) (pos : Nat) (sp : Split) : Group := g.setSplit pos sp.fall

/-- The group and the state once a split's instruction is chosen: `first` says that this is an issue opportunity of its own,
and not the second of a pair (R58, R85). -/
def State.issuing (s : State) (gid pos : Nat) (g : Group) (sp : Split) (first : Bool) : State :=
  let g1 := g.setSplit pos { sp with entered := true }
  { (s.putG gid (if first then g1.issued (s.clk / 10) pos else g1)) with cur := some (gid, pos) }

/-- R53, R58, R59, R70: a split's next instruction, checked, where the split is ready. DESIGN CHOICE, log 98. -/
def prepareAt (first : Bool) (s : State) (gid pos : Nat) : Prep :=
  match Map.find s.groups gid with
  | none => .no
  | some g0 =>
    let g := refreshSpilled s g0
    match Map.find g.splits pos with
    | none => .no
    | some sp =>
      if !groupRuns s g then .no
      else if sp.overNull then .done (s.putG gid (g.passNull pos sp))
      else if !sp.ready g then .no
      else
        match sp.line with
        | none => .no
        | some line =>
          let act := sp.only.getD sp.mask
          let s1 := s.issuing gid pos g sp first
          match checkSlot g s.free act line sp.entered (slotOf sp.pc) with
          | .ok i =>
            .go i (if throttles i then
              { s1 with groups := Map.modify s1.groups gid (fun g => { g with lastFar := s.clk / 10 }) } else s1)
          | .error t =>
            let s2 := if t.detail == 9 && t.cause == cIllegal then
              { s1 with groups := Map.modify s1.groups gid (fun g => g.setSplit pos { sp with entered := false }) } else s1
            .done (raiseTrap s2 { gid := gid, pos := pos, pc := sp.pc, act := act, kind := 0, ref := 0 } t)

/-- The next instruction of a split that takes an issue opportunity. -/
def prepare (s : State) (gid pos : Nat) : Prep := prepareAt true s gid pos

/-! ### Fetch, urgency, throttling, congestion -/

/-- FETCH_LINE: a split that has entered a line without a copy of it fetches it (R72). DESIGN CHOICE, log 16. DEDUCED, log 28. -/
def execFetchLine (gid pos : Nat) (refill : Bool) (s : State) : Host.Outcome State Fault Refusal :=
  match Map.find s.groups gid with
  | none => .next s
  | some g =>
    match Map.find g.splits pos with
    | none => .next s
    | some sp =>
      if sp.line.isSome || g.parked || g.exiting then .next s
      else
        match peekLine s g sp.pc refill with
        | .ok (line, s1) => .next (s1.putG gid (g.setSplit pos { sp with line := some line }))
        | .error e =>
          let act := sp.only.getD sp.mask
          .next (raiseTrap s { gid := gid, pos := pos, pc := sp.pc, act := act, kind := 0, ref := 0 }
            (fetchTrap e sp.pc (lowLane act)))

/-- GROUP_URGENT: a ready group of age 256 or more becomes urgent (R85). DESIGN CHOICE, log 57. -/
def execGroupUrgent (gid : Nat) (s : State) : Host.Outcome State Fault Refusal :=
  match Map.find s.groups gid with
  | none => .next s
  | some g =>
    if (issuable s g).isEmpty || g.age s < 256 then .next s else .next (s.putG gid { g with urgent := true })

/-- R96: memory-bound groups a partition allows, by congestion level. DESIGN CHOICE, log 57. -/
def allowedCount (level : Nat) : Nat := [64, 48, 32, 24, 16, 8, 4, 2].getD level 2

/-- R96: how many a core's partitions allow now. -/
def allowedOn (s : State) (core : Nat) : Nat := allowedCount (Map.get Quad.reset s.quads (coreQuad core)).level

/-- R96: the order in which memory-bound groups are chosen: by priority, then the longest since the group last issued one
of the instructions that are throttled, then by slot. -/
def farKey (g : Group) : List Nat := [8 - g.prio, g.lastFar, g.slot]

/-- THROTTLE_RESELECT: the partition chooses its allowed groups again (R96). DESIGN CHOICE, log 57. -/
def execThrottleReselect (core part : Nat) (s : State) : Host.Outcome State Fault Refusal :=
  let here := s.groups.filter (fun g => g.2.core == core && g.2.part == part && memoryBound s g)
  let chosen := ((sortBy (fun g => farKey g.2) here).take (allowedOn s core)).map Prod.fst
  let c := s.coreAt core
  .next (s.putCore core { c with allowed := Map.put c.allowed part chosen })

/-- R96: the memory-bound groups that a core's partition allows at this clock: those it chose last, then others in the
order of choice, as many as the level allows now. DESIGN CHOICE, log 57. -/
def allowedNow (s : State) (core part : Nat) : List Nat :=
  let chosen := Map.get [] (s.coreAt core).allowed part
  let here := s.groups.filter (fun g => g.2.core == core && g.2.part == part && memoryBound s g)
  let key (g : Nat × Group) : List Nat := (if chosen.contains g.1 then 0 else 1) :: farKey g.2
  ((sortBy key here).take (allowedOn s core)).map Prod.fst

/-- R96: every group is throttled exactly while it is memory-bound and not allowed. -/
def throttleAll (s : State) : State :=
  if s.groups.all (fun g => !memoryBound s g && !g.2.throttled) then s
  else
    { s with groups := s.groups.map (fun g =>
        (g.1, { g.2 with throttled := memoryBound s g && !(allowedNow s g.2.core g.2.part).contains g.1 })) }

/-- R289: the level of a mean occupancy. DESIGN CHOICE, log 11. -/
def levelOf (m : Nat) : Nat :=
  if m ≤ 3 then 0 else if m ≤ 7 then 1 else if m ≤ 15 then 2 else if m ≤ 23 then 3
  else if m ≤ 31 then 4 else if m ≤ 39 then 5 else if m ≤ 51 then 6 else 7

/-- R289: a window of 256 network clocks has ended whose level the quadrant has not taken, and at most 8 arithmetic clocks ago. DESIGN CHOICE, log 57. -/
def windowEnds (s : State) (quad : Nat) : Bool :=
  decide ((quadAt s quad).window < s.tick / 256) && decide (s.tick % 256 * clockTenths s ≤ 80)

/-- CONGESTION_WINDOW: at the end of a window a quadrant's level is set from its mean occupancy M (R289). DESIGN CHOICE, log 11, 57. -/
def execCongestionWindow (quad m : Nat) (s : State) : Host.Outcome State Fault Refusal :=
  if 16 ≤ quad || !windowEnds s quad then .next s
  else .next { s with quads := Map.put s.quads quad { quadAt s quad with level := levelOf m, window := s.tick / 256 } }

end Sys2Proof.Machine
end

