-- ==== Sys2Proof/Machine/Save.lean ====
section
/-!
DEFINITION. The group section of a save area or an image (R408), and the save area: what a spill writes, what a fill reads
back, and what goes on while a context is switched out (R394, R396 to R398).
-/
namespace Sys2Proof.Machine

/-! ### The group section (R408) -/

/-- A part without a stated layout, at its stated size. DESIGN CHOICE, log 71. -/
def partOfSize (kind : Nat) (xs : List Nat) (n : Nat) : List Byte := sliceB (Config.partBytes kind xs) 0 n

/-- The place of an object in the numbers of a part. -/
def locNums (l : ObjLoc) : List Nat := match l with | .team t o => [0, t, o] | .phys a => [1, a]

/-- What a split's wait holds, by the kinds of R408. -/
def Wait.nums (w : Wait) : List Nat :=
  match w with
  | .phase l ph _ => 1 :: locNums l ++ [ph]
  | .peg pa seq _ _ => [3, pa, seq]
  | .grid k _ _ _ => [4, k]
  | .plane seq _ => [5, seq]
  | _ => [0]

/-- R246: the line, by its virtual address, that a group in a presence wait waits for. -/
def presenceLine (s : State) (g : Group) : Option Nat :=
  g.entries.findSome? (fun e =>
    let on (a : Acc) : Option Nat :=
      ((lanesOf (maskMinus e.mask (e.done ||| e.fault))).map (fun l => Map.get 0 e.addr l)).findSome? (fun va =>
        if !(accSpan e).2 && (spFrames s g va a).any (fun x => !presentIn s x (accSpan e).1) then some (va.toNat / 64 * 64) else none)
    match e.instr with
    | .ld _ => on .r
    | .st _ => on .w
    | _ => none)

/-- The 16 bytes of a group's wait: its kind, then what it waits for. DESIGN CHOICE, log 71. -/
def Group.waitPart (line : Option Nat) (g : Group) : List Byte :=
  let ws := (g.splits.map (fun p => p.2.wait.nums)).filter (fun w => w != [0])
  let w := (ws.head?).getD (match line with | some a => [2, a] | none => [0])
  leBytes 1 (w.headD 0) ++ partOfSize 1 w.tail 15

/-- The teams of a context in order of their record numbers. -/
def ctxTeams (s : State) (ctx : Nat) : List (Nat × Team) := s.teams.filter (fun t => t.2.ctx == ctx)

/-- A team's record number. -/
def recordNo (s : State) (ctx tid : Nat) : Nat := ((ctxTeams s ctx).findIdx? (fun t => t.1 == tid)).getD 0

/-- The six source words of a lane: the address, and the data, or operands B and C of an atomic. -/
def Entry.words (e : Entry) (l : Nat) : List Byte :=
  leBytes 8 (Map.get 0 e.addr l).toNat ++
  (if e.cmp.isEmpty then leBytes 16 (Map.get 0 e.data l).toNat
   else leBytes 8 (Map.get 0 e.data l).toNat ++ leBytes 8 (Map.get 0 e.cmp l).toNat)

/-- An operand-log entry, 800 bytes: encoding, active and faulting masks, and per lane the six source words; the rest is free. DESIGN CHOICE, log 71. -/
def Entry.part (e : Entry) : List Byte :=
  leBytes 12 (encode e.instr) ++ leBytes 4 e.mask.toNat ++ leBytes 4 e.fault.toNat ++ lanes32.flatMap e.words ++
  partOfSize 2 [e.pc, e.pos, e.done.toNat] 12
/-- A RED entry, 16 bytes. DESIGN CHOICE, log 71. -/
def RedEntry.part (r : RedEntry) : List Byte := partOfSize 3 [r.addr.toNat, r.data.toNat, r.fn, r.ty, r.wid, r.pc, r.lane] 16
/-- A held faulted write, 80 bytes. DESIGN CHOICE, log 71. -/
def HeldWrite.part (h : HeldWrite) : List Byte :=
  partOfSize 4 [h.va.toNat, h.pkt.payload.toNat, h.pkt.be.toNat, h.detail, h.pc, h.lane] 80

/-- Join records held in hardware, and the group's three other parts. -/
def JoinRec.inHw (r : JoinRec) : Bool := match r.place with | .spilled _ => false | _ => true
def Group.hwRecs (g : Group) : List JoinRec := g.recs.filter JoinRec.inHw
def Group.logged (g : Group) : List Entry := g.entries.filter Entry.logged
def Group.partSizes (g : Group) : List Nat :=
  [32 * g.hwRecs.length, 800 * g.logged.length, 16 * g.red.length, 80 * g.held.length]

/-- Bytes 0x000 to 0x007: team record, index, budget, GROLE. -/
def Group.head8 (g : Group) (rec : Nat) : List Byte :=
  leBytes 4 rec ++ leBytes 2 g.idx ++ leBytes 1 (g.budget / 8) ++ leBytes 1 (g.role % 16 + g.prio % 8 * 16)

/-- Four 16-byte split entries. -/
def Group.splitPart (g : Group) : List Byte :=
  (List.range 4).flatMap (fun p =>
    match Map.find g.splits p with
    | none => List.replicate 16 0
    | some sp =>
      leBytes 8 (sp.pc % 2 ^ 56 + 2 ^ 63) ++ leBytes 4 sp.mask.toNat ++ leBytes 2 (sp.link.getD 0xFFFF) ++
      leBytes 2 (if sp.isDem then 1 else 0))

/-- The group section without its register bytes; `line` is what a presence wait waits for. -/
def Group.record (rec : Nat) (line : Option Nat) (g : Group) : List Byte :=
  let r16 := List.range 16
  g.head8 rec ++
  (List.range 64).flatMap (fun r => leBytes 8 (Map.get 0 g.s r).toNat) ++
  leBytes 4 0xFFFFFFFF ++ (List.range 7).flatMap (fun r => leBytes 4 (Map.get 0 g.p (r + 1)).toNat) ++
  r16.flatMap (fun d => (List.range 4).flatMap (fun w => leBytes 8 (g.rdPd d w).toNat)) ++
  r16.flatMap (fun t => leBytes 64 (g.thNow t).toNat) ++ r16.flatMap (fun t => leBytes 1 (Map.get 0 g.thType t)) ++
  (List.range 12).flatMap (fun c => leBytes 1 (Map.get 0 g.cf c)) ++
  leBytes 1 g.ocCopy ++ leBytes 1 g.ocMat ++ leBytes 1 g.ocGath ++ leBytes 1 g.ocColl ++
  leBytes 8 g.fpf.toNat ++ leBytes 8 g.mxc.toNat ++ leBytes 4 g.planeSeq ++ leBytes 4 g.gridCount ++ leBytes 2 g.acks ++
  leBytes 1 g.gerr ++ leBytes 1 (min 255 g.lastIssue) ++ leBytes 4 g.stack ++ g.splitPart ++
  leBytes 2 g.hwRecs.length ++ leBytes 2 g.logged.length ++ leBytes 2 g.red.length ++ leBytes 2 g.held.length ++
  g.waitPart line ++
  g.hwRecs.flatMap JoinRec.pack ++ g.logged.flatMap Entry.part ++ g.red.flatMap RedEntry.part ++ g.held.flatMap HeldWrite.part

/-- The 128·b register bytes: register by register, four bytes a lane. -/
def Group.regBytes (g : Group) : List Byte :=
  (List.range g.budget).flatMap (fun r => lanes32.flatMap (fun l => leBytes 4 (Map.get 0 g.v (32 * r + l)).toNat))

/-! ### Reading a section back -/

/-- The v registers of register bytes. -/
def Group.withRegs (g : Group) (b : List Byte) : Group :=
  { g with v := (List.range (32 * g.budget)).foldl (fun (m : SMap Word) k => Map.set 0 m k (BitVec.ofNat 32 (leAt b (4 * k) 4))) g.v }

/-- A live split as its entry tells. -/
def Split.withEntry (sp : Split) (b : List Byte) (p : Nat) : Split :=
  let o := 0x868 + 16 * p
  if leAt b o 8 / 2 ^ 63 == 0 then sp
  else
    let k := leAt b (o + 12) 2
    { sp with pc := leAt b o 8 % 2 ^ 56, mask := BitVec.ofNat 32 (leAt b (o + 8) 4),
              link := if k == 0xFFFF then none else some k, isDem := leAt b (o + 14) 2 % 2 == 1 }

/-- The join records held in hardware, in their order, as the section tells. -/
def fillRecs (b : List Byte) (live : Mask) : Nat → List JoinRec → List JoinRec
  | _, [] => []
  | o, r :: t => if r.inHw then r.unpack (sliceB b o 32) live :: fillRecs b live (o + 32) t else r :: fillRecs b live o t

/-- The parts of a section with a stated layout. -/
def Group.withRecord (g : Group) (b : List Byte) : Group :=
  let words (n o : Nat) : SMap DWord :=
    (List.range n).foldl (fun (m : SMap DWord) k => Map.set 0 m k (BitVec.ofNat 64 (leAt b (o + 8 * k) 8))) []
  let bytes (n o : Nat) : SMap Nat := (List.range n).foldl (fun (m : SMap Nat) k => Map.set 0 m k (leAt b (o + k) 1)) []
  { g with
    s := words 64 0x8,
    p := (List.range 7).foldl (fun (m : SMap Mask) k => Map.set 0 m (k + 1) (BitVec.ofNat 32 (leAt b (0x20C + 4 * k) 4))) [],
    pd := words 64 0x228, th := words 128 0x428, thType := bytes 16 0x828, cf := bytes 12 0x838,
    ocCopy := leAt b 0x844 1, ocMat := leAt b 0x845 1, ocGath := leAt b 0x846 1, ocColl := leAt b 0x847 1,
    fpf := BitVec.ofNat 64 (leAt b 0x848 8), mxc := BitVec.ofNat 64 (leAt b 0x850 8), planeSeq := leAt b 0x858 4,
    gridCount := leAt b 0x85C 4, acks := leAt b 0x860 2, gerr := leAt b 0x862 1,
    splits := g.splits.map (fun p => (p.1, p.2.withEntry b p.1)),
    recs := fillRecs b (~~~g.exited) 0x8C0 g.recs }

/-! ### The save area (R394, R396) -/

/-- The base of a context's save area. -/
def saveBase (s : State) (ctx : Nat) : Nat := match Map.find s.ctxs ctx with | some c => c.ctxsave.toNat | none => 0

/-- Where a core's region, its team memory, the header of a group slot and its record lie. -/
def saveRegion (s : State) (ctx core : Nat) : Nat := saveBase s ctx + core * 0x500000
def saveTeams (s : State) (ctx core : Nat) : Nat := saveRegion s ctx core + 0x400000
def saveHead (s : State) (ctx core slot : Nat) : Nat := saveRegion s ctx core + 0x480000 + 256 * slot
def saveRecord (s : State) (ctx core slot : Nat) : Nat := saveBase s ctx + 0x50000000 + core * 0xC00000 + 0x3000 * slot

/-- A group's record as its save area holds it, and its 256-byte header. -/
def Group.saveRec (s : State) (g : Group) : List Byte := g.record (recordNo s g.ctx g.team) (presenceLine s g)
def Group.saveHead (s : State) (g : Group) : List Byte :=
  sliceB (g.head8 (recordNo s g.ctx g.team) ++ g.partSizes.flatMap (leBytes 4) ++ leBytes 4 (g.saveRec s).length) 0 256

/-- Where things of the given sizes are put in a region: one after the other, in a free order of theirs from a free start. DESIGN CHOICE, log 74. -/
def packPlaces (kind core size : Nat) (xs : List (Nat × Nat)) : List (Nat × Nat) :=
  let total := (xs.map Prod.snd).sum
  let order := sortBy (fun x => [Config.savePlace kind core x.1, x.1]) xs
  let start := Config.savePlace kind core 1024 % (size - total + 1)
  order.mapIdx (fun i x => (x.1, start + ((order.take i).map Prod.snd).sum))

/-- A group's register bytes, header and record are moved to the save area. -/
def spillGroup (s : State) (gid : Nat) (g : Group) (at0 : Nat) : State :=
  ((s.wr (saveRegion s g.ctx g.core + at0) g.regBytes).wr (saveHead s g.ctx g.core g.slot) (g.saveHead s)).wr
    (saveRecord s g.ctx g.core g.slot) (g.saveRec s) |>.putG gid { g with saved := some at0 }

/-- A team's memory is moved to the save area. -/
def spillTeam (s : State) (tid : Nat) (t : Team) (at0 : Nat) : State :=
  { (s.wr (saveTeams s t.ctx t.core + at0) (t.rd 0 t.memSize)) with teams := Map.put s.teams tid { t with saved := some at0 } }

/-- The groups and teams of a context on a core. -/
def groupsOn (s : State) (core ctx : Nat) : List (Nat × Group) :=
  s.groups.filter (fun g => g.2.core == core && g.2.ctx == ctx && g.2.handler.isNone)
def teamsOn (s : State) (core ctx : Nat) : List (Nat × Team) := (ctxTeams s ctx).filter (fun t => t.2.core == core)

/-- A spill of a context's state on a core (R396): its groups and the team memory in use, and nothing more. DESIGN CHOICE, log 74. -/
def spillCore (s : State) (core ctx : Nat) : State :=
  let gs := groupsOn s core ctx
  let ts := teamsOn s core ctx
  let gp := packPlaces 0 core 0x400000 (gs.map (fun g => (g.1, 128 * g.2.budget)))
  let tp := packPlaces 1 core 0x80000 (ts.map (fun t => (t.1, t.2.memSize)))
  let at0 (ps : List (Nat × Nat)) (n : Nat) : Nat := match ps.find? (fun p => p.1 == n) with | some p => p.2 | none => 0
  ts.foldl (fun s t => spillTeam s t.1 t.2 (at0 tp t.1)) (gs.foldl (fun s g => spillGroup s g.1 g.2 (at0 gp g.1)) s)

/-- R397: a group's state as the save area holds it: where nothing but the device has written there, as it was. -/
def fillGroup (s : State) (gid : Nat) (g : Group) (at0 : Nat) : State :=
  let regs := s.rd (saveRegion s g.ctx g.core + at0) (128 * g.budget)
  let own := g.saveRec s
  let rec0 := s.rd (saveRecord s g.ctx g.core g.slot) own.length
  let g1 := if regs == g.regBytes then g else g.withRegs regs
  s.putG gid { (if rec0 == own then g1 else g1.withRecord rec0) with saved := none }

/-- A team's memory as the save area holds it. -/
def fillTeam (s : State) (tid : Nat) (t : Team) (at0 : Nat) : State :=
  let bs := s.rd (saveTeams s t.ctx t.core + at0) t.memSize
  { s with teams := Map.put s.teams tid { (if bs == t.rd 0 t.memSize then t else { t with mem := t.mem.store 0 bs }) with saved := none } }

/-- A fill of a context's state on a core (R396). DESIGN CHOICE, log 74. -/
def fillCore (s : State) (core ctx : Nat) : State :=
  let s1 := (teamsOn s core ctx).foldl (fun s t => match t.2.saved with | some a => fillTeam s t.1 t.2 a | none => s) s
  (groupsOn s core ctx).foldl (fun s g => match g.2.saved with | some a => fillGroup s g.1 g.2 a | none => s) s1

/-- R32, R396: teams placed on a core whose banks do not hold their context have their state in the save area. DESIGN CHOICE, log 74. -/
def saveNew (s : State) (core ctx : Nat) : State :=
  let c := s.coreAt core
  if c.active == some ctx || c.shadow == some ctx then s else spillCore (fillCore s core ctx) core ctx

/-! ### While a context is switched out (R398) -/

/-- The bytes that a change makes are written where they lie. -/
def writeDiff (s : State) (a : Nat) (old new : List Byte) : State :=
  if old == new then s
  else if old.length != new.length then s.wr a new
  else ((old.zip new).mapIdx (fun i x => (i, x))).foldl (fun s x => if x.2.1 == x.2.2 then s else s.wr (a + x.1) [x.2.2]) s

/-- R398: completions reach a group's state wherever it lies: what changed between two states is changed in the save area. DESIGN CHOICE, log 74. -/
def followGroup (before : State) (s : State) (gid : Nat) (g : Group) : State :=
  match Map.find before.groups gid, g.saved with
  | some h, some a =>
    if h == g || h.saved != some a || h.core != g.core then s
    else
      writeDiff (writeDiff (writeDiff s (saveRegion s g.ctx g.core + a) h.regBytes g.regBytes)
        (saveHead s g.ctx g.core g.slot) (h.saveHead before) (g.saveHead s))
        (saveRecord s g.ctx g.core g.slot) (h.saveRec before) (g.saveRec s)
  | _, _ => s

/-- The same of a team's memory. DESIGN CHOICE, log 74. -/
def followTeam (before : State) (s : State) (tid : Nat) (t : Team) : State :=
  match Map.find before.teams tid, t.saved with
  | some u, some a =>
    if u.mem == t.mem || u.saved != some a || u.core != t.core then s
    else writeDiff s (saveTeams s t.ctx t.core + a) (u.rd 0 u.memSize) (t.rd 0 t.memSize)
  | _, _ => s

/-- Everything whose state lies in a save area. -/
def followSaved (before s : State) : State :=
  s.teams.foldl (fun s t => followTeam before s t.1 t.2) (s.groups.foldl (fun s g => followGroup before s g.1 g.2) s)

end Sys2Proof.Machine
end

