-- ==== Sys2Proof/Machine/Finish.lean ====
section
/-!
DEFINITION. What follows every step: resolutions are applied (R387), waits that are over end (R270, R301, R304), splits and
join records settle (R90 to R94), and a group whose last lanes have exited begins its exit (R141).
-/
namespace Sys2Proof.Machine

/-- R270: the WAITCNTs of a group whose counter is low enough end. -/
def stepCount (s : State) (gid : Nat) : State :=
  match Map.find s.groups gid with
  | none => s
  | some g =>
    g.splits.foldl (fun s p =>
      match p.2.wait with
      | .count cc n =>
        if g.oc cc ≤ n then
          { ownCopies s gid cc with groups := Map.modify s.groups gid (fun g => g.endWait p.1) }
        else s
      | _ => s) s

/-- R141, R266: the last lanes of a group have exited: its RED entries drain, a handler group's too, and its pegs are
abandoned. DESIGN CHOICE, log 55. -/
def beginExit (s : State) (gid : Nat) : State :=
  match Map.find s.groups gid with
  | none => s
  | some g =>
    if g.exiting || g.exited != BitVec.allOnes 32 then s
    else
      let s1 := s.putG gid { g with exiting := true, splits := [], recs := [] }
      if g.handler.isSome then flushPoint s1 gid else abandonPegs (flushPoint s1 gid) g

/-- Everything of one group that may change without an instruction of its own. -/
def tidyGroup (s : State) (gid : Nat) : State :=
  stepCount (stepPublish (reportHeld (applyResolutions (resolveExited s gid) gid) gid) gid) gid

/-- Settles one group after an event with no instruction that issues. A spill fault is of the slot or the wait that a split has passed
when it arrives (R94), and else, as after a KILL, of the lowest split. DESIGN CHOICE, log 4. -/
def settleFree (s : State) (gid : Nat) : State :=
  match Map.find s.groups gid with
  | none => s
  | some g =>
    if g.parked then s
    else
      let g1 := refreshSpilled s g
      match settle s gid g1 g1 with
      | .ok s1 => s1
      | .spill c d va who =>
        match who.bind (fun p => (Map.find g.splits p).map (fun sp => (p, prevPc sp.pc, sp))),
            g.splits.head?.map (fun x => (x.1, x.2.pc, x.2)) with
        | some (pos, pc, sp), _ | none, some (pos, pc, sp) =>
          raiseTrap s { gid := gid, pos := pos, pc := pc, act := sp.mask, kind := 1, ref := 0 }
            { cause := c, detail := d, addr := [(lowLane sp.mask, va)] }
        | none, none => s

/-- R94: the fault of a spill access that an instruction's event caused leaves the instruction undone. DEDUCED, log 26. -/
def blameSpill (before : State) (gid pos : Nat) (c d : Nat) (va : DWord) : State :=
  match (Map.find before.groups gid).bind (fun g => Map.find g.splits pos) with
  | none => before
  | some sp =>
    let act := sp.only.getD sp.mask
    raiseTrap before { gid := gid, pos := pos, pc := sp.pc, act := act, kind := 1, ref := 0 }
      { cause := c, detail := d, addr := [(lowLane act, va)] }

/-- The issuing group settles after its instruction; `before` is the state in which the instruction issued. One that wrote s63 leaves
the spilled records to be read where s63 now says (R94). DEDUCED, log 26. -/
def settleIssuer (before s : State) (gid pos : Nat) : State :=
  match Map.find s.groups gid with
  | none => s
  | some g =>
    if g.parked then s
    else
      let old := Map.get g before.groups gid
      let moved := Map.get 0 g.s 63 != Map.get 0 old.s 63
      let g1 := if moved then refreshSpilled s g else g
      match settle s gid (if moved then g1 else old) g1 with
      | .ok s1 => s1
      | .spill c d va _ => blameSpill before gid pos c d va

/-- R59: every split that stands at a null slot passes it. DEDUCED, log 93. -/
def passNulls (s : State) (gid : Nat) : State :=
  match Map.find s.groups gid with
  | none => s
  | some g =>
    if groupRuns s g && g.splits.any (fun p => p.2.overNull) then
      s.putG gid (g.splits.foldl (fun g p => if p.2.overNull then g.passNull p.1 p.2 else g) g)
    else s

/-- R59, R90: null slots are passed one after the other, and what R90 asks at each slot is done before the next. DEDUCED, log 93. -/
def slideNulls : Nat → State → State
  | 0, s => s
  | n + 1, s =>
    if s.groups.any (fun g => groupRuns s g.2 && g.2.splits.any (fun p => p.2.overNull)) then
      slideNulls n ((Map.keys s.groups).foldl settleFree ((Map.keys s.groups).foldl passNulls s))
    else s

/-- What waited until every frame holds a write is done (R324, R346, R373). DEDUCED, log 24. -/
def endJob (s : State) (n : Nat) (j : FrameJob) : State :=
  if s.frameQ.any (fun u => u.owner == .job n) then s
  else
    let s1 := { s with frameJobs := Map.del s.frameJobs n }
    match j with
    | .reply p m => (match ctxOfJob s1 p.job with | some ctx => replyTo s1 ctx p m | none => s1.send m)
    | .record ctx bar => creditRecord s1 ctx bar
    | .piece core op tag lines => pieceInFrames s1 core op tag lines

/-- Every such job. -/
def endJobs (s : State) : State := s.frameJobs.foldl (fun s j => endJob s j.1 j.2) s

/-- The end of a step: `before` is the state in which its instruction issued, if one did. DESIGN CHOICE, log 4, 98. -/
def finish (before s : State) : State :=
  let s1 := endJobs (match before.cur with
    | some (gid, pos) => settleIssuer before s gid pos
    | none => s)
  let s2 := (Map.keys s1.groups).foldl tidyGroup s1
  let s3 := slideNulls 8 ((Map.keys s2.groups).foldl settleFree s2)
  let s4 := (Map.keys s3.groups).foldl beginExit s3
  { followSaved before (throttleAll (stepGrid s4)) with cur := none, curProc := none, free := s.free + 1 }

end Sys2Proof.Machine
end

