-- ==== Sys2Proof/Machine/Launch.lean ====
section
/-!
DEFINITION. Launch queues and placement (R28 to R47): a queue's record is taken, a cluster is placed whole, a group is
released after its exit (R141), and a launch completes (R43).
-/
namespace Sys2Proof.Machine

/-! ### Queues (R35 to R42) -/

def State.lqAt (s : State) (n : Nat) : LQueue := Map.get LQueue.reset s.lqs n
def State.putLq (s : State) (n : Nat) (q : LQueue) : State := { s with lqs := Map.put s.lqs n q }

def LQueue.size (q : LQueue) : Nat := bits q.lqctl 4 0
def LQueue.prio (q : LQueue) : Nat := bits q.lqctl 7 5
def LQueue.tree (q : LQueue) : Bool := bit q.lqctl 8
def LQueue.en (q : LQueue) : Bool := bit q.lqctl 9
def LQueue.feed (q : LQueue) : Bool := bit q.lqctl 10
def LQueue.ctx (q : LQueue) : Nat := bits q.lqctl 21 16
def LQueue.err (q : LQueue) : Bool := bit q.lqstat 2
def LQueue.head (q : LQueue) : Nat := q.lqhead.toNat
/-- Records written and not yet placed. -/
def LQueue.waiting (q : LQueue) : Nat := (q.lqtail.toNat + 2 ^ 32 - q.lqhead.toNat) % 2 ^ 32
/-- The byte size of a spill stack, the pool's base and its count (R36). -/
def LQueue.stackSize (q : LQueue) : Nat := 2 ^ bits q.lqspill 4 0
def LQueue.stackBase (q : LQueue) : Nat := bits q.lqspill 55 12 * 2 ^ 12
def LQueue.stackCount (q : LQueue) : Nat := bits q.lqspcnt 18 0

/-- LQSTAT with ACT and DEPWAIT. -/
def LQueue.stat (q : LQueue) (act dep : Bool) : LQueue :=
  { q with lqstat := setBits q.lqstat 1 0 ((if act then 1 else 0) + (if dep then 2 else 0)) }

/-- R38: the queue stops with a code; the dependences of the record it then reads are tested anew. DEDUCED, log 54. -/
def LQueue.fail (q : LQueue) (code : Nat) : LQueue :=
  { q with lqstat := BitVec.ofNat 64 (4 + code % 16 * 16), current := none, dep0 := false, dep1 := false }

/-- R35: LQDONE counts records completed with all earlier ones. -/
def countDone (fin : List Nat) : Nat → Nat → Nat
  | 0, n => n
  | k + 1, n => if fin.contains n then countDone fin k ((n + 1) % 2 ^ 32) else n

/-- A record of a queue is complete. -/
def LQueue.complete (q : LQueue) (rec : Nat) : LQueue :=
  let fin := q.finished ++ [rec]
  let d := countDone fin (fin.length + 1) q.lqdone.toNat
  { q with lqdone := BitVec.ofNat 64 d, finished := fin.filter (fun r => decide (d ≤ r) || decide (r + 2 ^ 31 < d)) }

/-- The head record is placed: LQHEAD goes up (R35, R40). -/
def LQueue.advanceHead (q : LQueue) : LQueue :=
  { (q.stat false false) with lqhead := BitVec.ofNat 64 ((q.head + 1) % 2 ^ 32), current := none, dep0 := false, dep1 := false }

/-! ### Partitions and cores -/

/-- The partition of a context. -/
def partOf (s : State) (ctx : Nat) : Partition :=
  match Map.find s.ctxs ctx with
  | some c => Map.get { quads := [], rfmode := 0, spcache := 0 } s.parts c.part
  | none => { quads := [], rfmode := 0, spcache := 0 }

/-- The cores of a quadrant that accept placement, ascending; at reduced service only quadrant 0 of each die does
(R38, R424). -/
def acceptingCores (s : State) (qd : Nat) : List Nat :=
  if s.svclevel == 0 && qd % 4 != 0 then []
  else ((List.range 16).filter (fun c => (quadAt s qd).accept.getLsbD c)).map (fun c => 16 * qd + c)

/-- R32: slots, register bytes and team memory of a core in a mode. -/
def capacity (swap : Bool) : Nat × Nat × Nat := if swap then (512, 2097152, 262144) else (1024, 4194304, 524288)

/-- R17: GRIDLANES. -/
def gridLanes (swap : Bool) : Nat := if swap then 16384 else 32768

/-- R30: the role entry of group i, with its kind and budget in registers. -/
def Kernel.role (k : Kernel) (i : Nat) : Nat × Nat × Nat :=
  let n0 := match k.roles with | r :: _ => r.2 | [] => 0
  let n1 := match k.roles with | _ :: r :: _ => r.2 | _ => 0
  let e := if k.roles.isEmpty then 0 else if i < n0 then 0 else if i < n0 + n1 then 1 else 2
  (e, (k.roles.getD e (0, 0)).1, k.budgets.getD e 8)

/-- R32: register-file bytes and team-memory bytes a team takes. -/
def Kernel.regBytes (k : Kernel) : Nat := ((List.range k.nGroups).map (fun i => 128 * (k.role i).2.2)).foldl (· + ·) 0
def roundMem (n : Nat) : Nat := ceilDiv n 4096 * 4096

/-- What a context's teams take of a core: slots, register bytes, memory. -/
def coreUsed (s : State) (ctx core : Nat) : Nat × Nat × Nat :=
  let gs := s.groups.filter (fun g => g.2.core == core && g.2.ctx == ctx && g.2.handler.isNone)
  let ts := s.teams.filter (fun t => t.2.core == core && t.2.ctx == ctx)
  (gs.length, (gs.map (fun g => 128 * g.2.budget)).foldl (· + ·) 0, (ts.map (fun t => roundMem t.2.memSize)).foldl (· + ·) 0)

/-- R32: the partition with the fewest resident groups, ties to the lowest. -/
def emptiestPart (s : State) (core : Nat) : Nat :=
  (minBy (fun p => [(s.groups.filter (fun g => g.2.core == core && g.2.part == p && g.2.handler.isNone)).length, p])
    (List.range 16)).getD 0

/-- R32, R82: every partition has a slot for those of a team's groups, named by their numbers in it, that go to it: group g to
partition (q + g) mod 16. DEDUCED, log 54. -/
def partsFit (s : State) (ctx core : Nat) (idxs : List Nat) (swap : Bool) : Bool :=
  let q := emptiestPart s core
  (List.range 16).all (fun j =>
    decide ((s.groups.filter (fun g => g.2.core == core && g.2.ctx == ctx && g.2.part == j && g.2.handler.isNone)).length +
      (idxs.filter (fun i => (q + i) % 16 == j)).length ≤ (if swap then 32 else 64)))

/-- R32: a team of the groups `idxs` fits on a core beside what the context has there. -/
def fitsOn (s : State) (ctx core : Nat) (idxs : List Nat) (regBytes mem : Nat) (swap : Bool) : Bool :=
  let (a, b, c) := coreUsed s ctx core
  let (x, y, z) := capacity swap
  decide (a + idxs.length ≤ x) && decide (b + regBytes ≤ y) && decide (c + roundMem mem ≤ z) && partsFit s ctx core idxs swap

def residentOn (s : State) (core : Nat) : Nat := (s.groups.filter (fun g => g.2.core == core && g.2.handler.isNone)).length
def residentIn (s : State) (qd : Nat) : Nat := (s.groups.filter (fun g => g.2.core / 16 == qd && g.2.handler.isNone)).length

/-! ### Records (R37, R38) -/

/-- The context translation of the hub. -/
def hubRoot (s : State) (ctx : Nat) : Nat := match Map.find s.ctxs ctx with | some c => c.ptrootUsed.toNat | none => 0

/-- The head record's bytes, read through the owning context's translation; none is a ring fault. DEDUCED, log 54. -/
def readRecord (s : State) (q : LQueue) : Option (List Byte × State) :=
  let va := q.lqbase.toNat + 128 * (q.head % 2 ^ q.size)
  match xlate s hubCore q.ctx (hubRoot s q.ctx) (BitVec.ofNat 64 va) .r with
  | .ok (.loc pa _ _ _, s1) => some (s.rd pa 128, s1)
  | _ => none

/-- The kernel a record names. -/
def recordKernel (s : State) (ctx : Nat) (b : List Byte) : Option (Obj × Kernel) :=
  match (Map.find s.ctxs ctx).bind (fun c => Map.find c.objs (leAt b 4 4)) with
  | none => none
  | some o => (o.kernels[leAt b 2 2]?).map (fun k => (o, k))

/-- A barrier address of a record, as the hub reads or writes its object: a tagged, aligned scratchpad line of the context. -/
def recordBarAt (s : State) (a : Acc) (ctx va : Nat) : Option (ObjLoc × State) :=
  if va % 32 != 0 then none
  else
    match scratchAt s a hubCore ctx (hubRoot s ctx) (BitVec.ofNat 64 va) with
    | .ok (pa, s1) => if objTagged s (.phys pa) then some (.phys pa, s1) else none
    | .error _ => none

/-- The object's place. -/
def recordBar (s : State) (ctx va : Nat) : Option ObjLoc := (recordBarAt s .r ctx va).map Prod.fst

/-- R43, R251: the completion barrier at the arrival: DIRTY is set where its page may be written. -/
def completionBar (s : State) (ctx va : Nat) : Option (ObjLoc × State) :=
  match recordBarAt s .w ctx va with
  | some x => some x
  | none => recordBarAt s .r ctx va

/-- R38: the code a record stops its queue with, the lowest that applies; 0 for none. A dependence that has passed its test is
not looked at again (R40). DEDUCED, log 54. -/
def recordCode (s : State) (q : LQueue) (b : List Byte) : Nat :=
  let kind := leAt b 0 2
  let teams := leAt b 0x0C 1
  let flags := leAt b 0x0D 1
  if kind == 2 then 0
  else if kind != 1 || flags / 2 != 0 || leAt b 0x0E 2 != 0 || leAt b 0x5C 4 != 0 || leAt b 0x6C 4 != 0 || leAt b 0x78 8 != 0 then 1
  else
    match recordKernel s q.ctx b with
    | none => 2
    | some (_, k) =>
      let p := partOf s q.ctx
      let swap := p.rfmode == 1
      let (x, y, z) := capacity swap
      if teams == 0 || 16 < teams then 3
      else if x < k.nGroups || y < k.regBytes || z < roundMem k.memSize || gridLanes swap < k.gridH * 2 ^ k.logW ||
          p.quads.all (fun qd => decide ((acceptingCores s qd).length < teams)) || q.stackCount < k.nGroups * teams then 4
      else
        let bad (passed : Bool) (va : Nat) : Bool := !passed && va != 0 && (recordBar s q.ctx va).isNone
        if bad q.dep0 (leAt b 0x50 8) || bad q.dep1 (leAt b 0x60 8) || (flags % 2 == 1 && (recordBar s q.ctx (leAt b 0x70 8)).isNone) then 5
        else 0

/-- R40: a dependence has reached its phase; the phase bytes of a tagged line are compared whatever the line holds. DEDUCED, log 54. -/
def depOk (s : State) (ctx : Nat) (b : List Byte) (o : Nat) : Bool :=
  let va := leAt b o 8
  va == 0 ||
  (match recordBar s ctx va with
   | some loc => phaseReached (barRd s loc).phase (leAt b (o + 8) 4)
   | none => false)

/-- Splits [lo, hi) in contiguous ranges among n parts: the first take one more (R47). DEDUCED, log 54. -/
def splitRange (lo hi n : Nat) : List (Nat × Nat) :=
  let t := hi - lo
  let start (i : Nat) : Nat := lo + i * (t / n) + min i (t % n)
  (List.range n).map (fun i => (start i, start (i + 1)))

/-- R47: the dies of a partition, and each quadrant's range. -/
def treeRanges (p : Partition) (n : Nat) : List (Nat × Nat × Nat) :=
  let dies := (List.range 4).filter (fun d => p.quads.any (fun q => q / 4 == d))
  ((splitRange 0 n dies.length).zip dies).flatMap (fun x =>
    let qs := (List.range 4).filterMap (fun q => if p.quads.contains (4 * x.2 + q) then some (4 * x.2 + q) else none)
    ((splitRange x.1.1 x.1.2 qs.length).zip qs).map (fun y => (y.2, y.1.1, y.1.2)))

/-- The head record of a queue is taken: a no-op completes at once, a launch begins once each of its dependences has been
reached, a record that cannot be used stops the queue (R38 to R40). -/
def prepQueue (s : State) (n : Nat) : State :=
  let q := s.lqAt n
  if !q.en || q.err || q.current.isSome || q.waiting == 0 then s
  else if 2 ^ q.size < q.waiting then s.putLq n (q.fail 6)
  else
    match Map.find s.ctxs q.ctx with
    | none => s.putLq n (q.fail 7)
    | some c =>
      if c.frozen then s
      else
        match readRecord s q with
        | none => s.putLq n (q.fail 7)
        | some (b, s1) =>
          let code := recordCode s1 q b
          let d0 := q.dep0 || depOk s1 q.ctx b 0x50
          let d1 := q.dep1 || depOk s1 q.ctx b 0x60
          if code != 0 then s1.putLq n (q.fail code)
          else if leAt b 0 2 == 2 then s1.putLq n (q.advanceHead.complete q.head)
          else if !(d0 && d1) then s1.putLq n { (q.stat false true) with dep0 := d0, dep1 := d1 }
          else
            let (id, s2) := s1.takeId
            let total := leAt b 8 4 + 1
            let l : Launch :=
              { queue := n, record := q.head, ctx := q.ctx, handle := leAt b 4 4, kernel := leAt b 2 2, total := total,
                nTeams := leAt b 0x0C 1,
                args := (List.range 8).map (fun k => BitVec.ofNat 64 (leAt b (0x10 + 8 * k) 8)),
                comp := if leAt b 0x0D 1 % 2 == 1 then some (BitVec.ofNat 64 (leAt b 0x70 8)) else none,
                tree := q.tree, ranges := if q.tree then treeRanges (partOf s q.ctx) total else [(0, 0, total)],
                done := false }
            { (s2.putLq n { (q.stat true false) with current := some id, dep0 := true, dep1 := true }) with
              launches := Map.put s2.launches id l }

/-! ### Choosing cores (R45 to R47) -/

/-- R46: the cores of a quadrant for a cluster's teams, in order; none where too few fit. -/
def clusterCores (s : State) (ctx teams : Nat) (k : Kernel) (swap : Bool) (qd : Nat) : Option (List Nat) :=
  let fit := (acceptingCores s qd).filter (fun c => fitsOn s ctx c (List.range k.nGroups) k.regBytes k.memSize swap)
  if fit.length < teams then none
  else some ((sortBy (fun c => [residentOn s c, c]) fit).take teams)

/-- R36: the lowest free stacks of a queue's pool, at most n. -/
def freeStacks (q : LQueue) (n : Nat) : List Nat :=
  ((List.range (min q.stackCount (q.spilled.length + n))).filter (fun x => !q.spilled.contains x)).take n

/-- R36: n spill stacks of the pool are free. -/
def stacksFree (q : LQueue) (n : Nat) : Bool := (freeStacks q n).length == n

/-- A launch's unplaced clusters: per range its quadrant, its first cluster and its end (R47). -/
abbrev Spans := List (Nat × Nat × Nat)

/-- R47: the quadrant's own range with the lowest unplaced cluster. -/
def ownSpan (rs : Spans) (qd : Nat) : Option (Nat × Nat × Nat) :=
  minBy (fun r => [r.2.1]) (rs.filter (fun r => r.1 == qd && decide (r.2.1 < r.2.2)))

/-- R47: the range a quadrant steals from: of its own die first, then the longest, the lowest quadrant and the lowest die. -/
def victim (rs : Spans) (qd : Nat) : Option (Nat × Nat × Nat) :=
  minBy (fun x => [if x.1 / 4 == qd / 4 then 0 else 1, 2 ^ 40 - (x.2.2 - x.2.1), x.1 % 4, x.1 / 4])
    (rs.filter (fun x => decide (x.2.1 < x.2.2)))

/-- R47: of the quadrants with room, the lowest with a range of its own places its next cluster; where there is none, the lowest
steals the upper half of another range, rounded up. The cluster, its quadrant and the ranges left. DEDUCED, log 54. -/
def nextSpan (rs : Spans) (room : List Nat) : Option (Nat × Nat × Spans) :=
  match room.findSome? (fun qd => (ownSpan rs qd).map (fun r => (qd, r))) with
  | some (qd, r) => some (qd, r.2.1, rs.map (fun x => if x == r then (x.1, x.2.1 + 1, x.2.2) else x))
  | none =>
    room.findSome? (fun qd => (victim rs qd).map (fun v =>
      let mid := v.2.2 - (v.2.2 - v.2.1 + 1) / 2
      (qd, mid, rs.map (fun x => if x == v then (x.1, x.2.1, mid) else x) ++ [(qd, mid + 1, v.2.2)])))

/-- Where the next cluster of a launch goes, in the mode its queue had when the record was taken: quadrant, its cores, cluster
index, and the ranges left. DEDUCED, log 54. -/
def nextPlace (s : State) (q : LQueue) (l : Launch) (k : Kernel) : Option (Nat × List Nat × Nat × Spans) :=
  let p := partOf s l.ctx
  let swap := p.rfmode == 1
  let cores (qd : Nat) : Option (List Nat) := clusterCores s l.ctx l.nTeams k swap qd
  if !stacksFree q (k.nGroups * l.nTeams) then none
  else if !l.tree then
    match l.ranges with
    | (_, lo, hi) :: rest =>
      if hi ≤ lo then none
      else
        (sortBy (fun qd => [residentIn s qd, qd]) p.quads).findSome? (fun qd =>
          (cores qd).map (fun cs => (qd, cs, lo, (0, lo + 1, hi) :: rest)))
    | [] => none
  else
    let room := (sortBy (fun qd => [qd]) p.quads).filter (fun qd => (cores qd).isSome)
    (nextSpan l.ranges room).bind (fun x =>
      (cores x.1).map (fun cs => (x.1, cs, x.2.1, x.2.2.filter (fun r => decide (r.2.1 < r.2.2)))))

/-! ### Placing -/

/-- The lowest free group slots of a context on a core. -/
def freeSlots (s : State) (ctx core n : Nat) : List Nat :=
  let used := (s.groups.filter (fun g => g.2.core == core && g.2.ctx == ctx && g.2.handler.isNone)).map (fun g => g.2.slot)
  ((List.range 1024).filter (fun x => !used.contains x)).take n

/-- R10, R33, R36: a group at entry; `on` says that its context is active on the core (its age counts from now). DESIGN CHOICE, log 56. -/
def entryGroup (s : State) (l : Launch) (o : Obj) (k : Kernel) (q : LQueue) (on : Bool) (team core slot part i stack : Nat) : Group :=
  let (entry, kind, budget) := k.role i
  let g := Group.fresh l.ctx core slot part budget (o.codeBase + 64 * k.entry) (BitVec.allOnes 32)
  let low := q.stackBase + stack * q.stackSize
  let args := l.args.mapIdx (fun n x => (n, x))
  let sregs := (args ++ [(8, BitVec.ofNat 64 i), (63, BitVec.ofNat 64 (low + q.stackSize))]).foldl
    (fun (m : SMap DWord) (r : Nat × DWord) => Map.set 0 m r.1 r.2) ([] : SMap DWord)
  { g with team := team, idx := i, role := entry + 4 * kind, prio := q.prio, s := sregs, stack := stack, stackLow := low,
           queue := l.queue, codeBase := o.codeBase, codeLines := o.codeLen / 64, lastIssue := if on then s.clk / 10 else 0 }

/-- The core's bank for a context: active where no context is, else shadow in swap mode where none is (R393). -/
def holdBank (c : Core) (ctx : Nat) (swap : Bool) : Core :=
  match c.active with
  | none => { c with active := some ctx }
  | some a => if a != ctx && swap && c.shadow.isNone then { c with shadow := some ctx } else c

/-- One team and its groups on a core, refreshed at device scope (R28, R32, R43). -/
def placeTeam (s : State) (lid cl : Nat) (l : Launch) (o : Obj) (k : Kernel) (lcore core : Nat) : State :=
  let swap := (partOf s l.ctx).rfmode == 1
  let q := s.lqAt l.queue
  let (tid, s1) := s.takeId
  let t : Team :=
    { ctx := l.ctx, launch := lid, cluster := cl, lcore := lcore, core := core, nGroups := k.nGroups, gridH := k.gridH,
      gridW := 2 ^ k.logW, memSize := k.memSize, mem := [], saved := none, tags := [], poison := [], planeOps := [], migrate := [] }
  let bank := holdBank (s1.coreAt core) l.ctx swap
  let on := bank.active == some l.ctx
  let p := emptiestPart s core
  let stackNos := freeStacks q k.nGroups
  let gs := ((freeSlots s l.ctx core k.nGroups).zip stackNos).mapIdx (fun i x =>
    (s1.nextId + i, entryGroup s l o k q on tid core x.1 ((p + i) % 16) i x.2))
  let s2 := { s1 with
    nextId := s1.nextId + k.nGroups, teams := Map.put s1.teams tid t,
    groups := gs.foldl (fun (m : SMap Group) (g : Nat × Group) => Map.put m g.1 g.2) s1.groups,
    clusters := Map.modify s1.clusters cl (fun c => { c with teams := c.teams ++ [tid], names := c.names ++ [core] }) }
  let s3 := saveNew (gs.foldl (fun s g => learn s g.1 4) ((s2.putLq l.queue { q with spilled := q.spilled ++ stackNos }).putCore core bank)) core l.ctx
  refreshAt { s3 with ctxs := Map.modify s3.ctxs l.ctx (fun c => { c with placedOnce := true }) } core 4

/-- One cluster is placed whole (R45). -/
def placeOne (s : State) (n lid : Nat) (l : Launch) (o : Obj) (k : Kernel) (qd : Nat) (cores : List Nat) (idx : Nat)
    (ranges : List (Nat × Nat × Nat)) : State :=
  let (cl, s1) := s.takeId
  let s2 := { s1 with clusters := Map.put s1.clusters cl { launch := lid, index := idx, quad := qd, size := cores.length, teams := [], names := [] } }
  let s3 := (cores.mapIdx (fun t c => (t, c))).foldl (fun s x => placeTeam s lid cl l o k x.1 x.2) s2
  let s4 := { s3 with launches := Map.put s3.launches lid { l with ranges := ranges }, lastQueue := n }
  if ranges.all (fun r => decide (r.2.2 ≤ r.2.1)) then s4.putLq n (s4.lqAt n).advanceHead else s4

/-- A queue's next placement, where its next cluster fits; a launch keeps the context its record was taken in. DEDUCED, log 54. -/
def queuePlace (s : State) (n : Nat) : Option (Nat × Launch × Obj × Kernel × Nat × List Nat × Nat × List (Nat × Nat × Nat)) :=
  let q := s.lqAt n
  match q.current with
  | none => none
  | some lid =>
    match (Map.find s.launches lid).bind (fun l => (Map.find s.ctxs l.ctx).map (fun c => (l, c))) with
    | some (l, c) =>
      if !q.en || q.err || c.frozen || c.parked.isSome then none
      else
        match (Map.find c.objs l.handle).bind (fun o => (o.kernels[l.kernel]?).map (fun k => (o, k))) with
        | none => none
        | some (o, k) => (nextPlace s q l k).map (fun p => (lid, l, o, k, p))
    | none => none

/-- PLACE_CLUSTER: head records are taken; then of the queues whose next cluster fits, the highest priority, round-robin
among equals, has one cluster placed (R40, R41, R45). DEDUCED, log 54. -/
def execPlaceCluster (s : State) : Host.Outcome State Fault Refusal :=
  let s1 := (Map.keys s.lqs).foldl prepQueue s
  let ready := (Map.keys s1.lqs).filter (fun n => (queuePlace s1 n).isSome)
  match minBy (fun n => [8 - (s1.lqAt n).prio, (n + 63 - s1.lastQueue) % 64]) ready with
  | none => .next s1
  | some n =>
    match queuePlace s1 n with
    | none => .next s1
    | some (lid, l, o, k, qd, cores, idx, ranges) => .next (placeOne s1 n lid l o k qd cores idx ranges)

/-! ### Exit and completion (R43, R141) -/

/-- R141 step 3: nothing that the group's flags and counters count is left, no access of its log, no RED entry held, no
origin unresolved. DESIGN CHOICE, log 55. -/
def releasable (s : State) (gid : Nat) (g : Group) : Bool :=
  g.exiting && g.entries.isEmpty && g.red.isEmpty && g.cf.all (fun c => c.2 == 0) && g.ocCopy == 0 && g.ocMat == 0 &&
  g.ocGath == 0 && g.ocColl == 0 && g.openOrg.isEmpty && g.resolved.isEmpty &&
  s.barRed.all (fun b => b.2.2.all (fun r => r.gid != gid)) && s.gridBars.all (fun b => b.red.all (fun r => r.gid != gid))

/-- R398: while its context is not active on its core, a group's age stands still, and `lastIssue` holds it. DEDUCED, log 75. -/
def sleepGroups (s : State) (core ctx : Nat) : State :=
  { s with groups := s.groups.map (fun g =>
      if g.2.core == core && g.2.ctx == ctx then (g.1, { g.2 with lastIssue := g.2.age s }) else g) }

/-- R396, R398: a context becomes active on a core: what lies in its save area is filled in, and ages go on. DEDUCED, log 75. -/
def wakeGroups (s0 : State) (core ctx : Nat) : State :=
  let s := fillCore s0 core ctx
  { s with groups := s.groups.map (fun g =>
      if g.2.core == core && g.2.ctx == ctx then (g.1, { g.2 with lastIssue := s.clk / 10 - g.2.lastIssue }) else g) }

/-- The core's banks when a context may have left them: its active context is its shadow, or another that is placed there.
A switch in progress settles them itself. -/
def nextActive (s : State) (core : Nat) : State :=
  let c := s.coreAt core
  let has (ctx : Nat) : Bool := s.groups.any (fun g => g.2.core == core && g.2.ctx == ctx)
  if c.incoming.isSome then s
  else
    match c.active.filter has with
    | some _ => s.putCore core { c with shadow := c.shadow.filter has }
    | none =>
      match (c.shadow.filter has).orElse (fun _ => (s.groups.find? (fun g => g.2.core == core)).map (fun g => g.2.ctx)) with
      | none => s.putCore core { c with active := none, shadow := none }
      | some b => wakeGroups (s.putCore core { c with active := some b, shadow := none }) core b

/-- R141 step 4: a group's resources are released, and its team's with its last group. DESIGN CHOICE, log 55. -/
def releaseGroup (s : State) (gid : Nat) (g : Group) : State :=
  let s1 := { s with groups := Map.del s.groups gid }
  if g.handler.isSome then s1
  else
    let q := s1.lqAt g.queue
    let s2 := s1.putLq g.queue { q with spilled := q.spilled.filter (· != g.stack) }
    let last := !s2.groups.any (fun x => x.2.team == g.team)
    let s3 := if !last then s2
      else
        let cl := match Map.find s2.teams g.team with | some t => t.cluster | none => 0
        let cs := Map.modify s2.clusters cl (fun c => { c with teams := c.teams.filter (· != g.team) })
        { s2 with teams := Map.del s2.teams g.team, clusters := cs.filter (fun c => !c.2.teams.isEmpty) }
    nextActive s3 g.core

/-- GROUP_EXIT_RELEASE (R141). -/
def execGroupExitRelease (gid : Nat) (s : State) : Host.Outcome State Fault Refusal :=
  match Map.find s.groups gid with
  | none => .next s
  | some g => if releasable s gid g then .next (releaseGroup s gid g) else .next s

/-- R43: a queued update that a group which has exited wrote or has seen, or that its copy wrote. DEDUCED, log 25. -/
def FrameUpd.leftBehind (u : FrameUpd) (s : State) : Bool :=
  let gone (gid : Nat) : Bool := (Map.find s.groups gid).isNone
  u.knows.any gone || (match u.owner with | .copy gid _ _ => gone gid | _ => false)

/-- LAUNCH_COMPLETE: every group has exited; the launch's stores are performed at device scope, and the completion barrier
receives one arrival (R43), which changes nothing where there is no such object any more. DEDUCED, log 54. -/
def execLaunchComplete (launch : Nat) (s : State) : Host.Outcome State Fault Refusal :=
  match Map.find s.launches launch with
  | none => .next s
  | some l =>
    if l.ranges.any (fun r => decide (r.2.1 < r.2.2)) || s.teams.any (fun t => t.2.launch == launch) ||
        s.frameQ.any (fun u => u.leftBehind s) then .next s
    else
      let q := s.lqAt l.queue
      let s1 := { (s.putLq l.queue (q.complete l.record)) with
        launches := Map.del s.launches launch, gridBars := s.gridBars.filter (fun b => b.launch != launch) }
      match l.comp with
      | none => .next s1
      | some va =>
        match completionBar s1 l.ctx va.toNat with
        | some (loc, s2) => if barValid s2 loc then .next (applyObj s2 loc l.ctx 1 0 .none) else .next s1
        | none => .next s1

/-! ### Queue registers (R35, R38, R42) -/

/-- LQTAIL_WRITE: of a host-fed queue; ignored on a device-fed one (R39, R44). -/
def execLqtailWrite (q : Nat) (val : DWord) (s : State) : Host.Outcome State Fault Refusal :=
  let x := s.lqAt q
  if 64 ≤ q || x.feed then .next s else .next (s.putLq q { x with lqtail := val &&& 0xFFFFFFFF })

/-- R35: LQCTL after a write: SIZE and FEED only while EN was 0, SIZE only from 4 to 16. -/
def lqctlNew (old val : DWord) : DWord :=
  let v := val &&& 0x3F07FF
  let size := if bit old 9 || bits val 4 0 < 4 || 16 < bits val 4 0 then bits old 4 0 else bits val 4 0
  let feed := if bit old 9 then bits old 10 10 else bits val 10 10
  setBits (setBits v 4 0 size) 10 10 feed

/-- LQSTAT_ERR_CLEAR: placement resumes at the same record (R38). DEDUCED, log 52. -/
def execLqstatErrClear (q : Nat) (s : State) : Host.Outcome State Fault Refusal :=
  let x := s.lqAt q
  if 64 ≤ q then .next s else .next (s.putLq q { x with lqstat := setBits x.lqstat 2 2 0 })

end Sys2Proof.Machine
end

