-- ==== Sys2Proof/Machine/Scribe.lean ====
section
/-!
DEFINITION. Scribe processors (R356 to R376): the 42 Scribe instructions, the start of an invocation, traps and their
records, and the packets that enter and leave.
-/
namespace Sys2Proof.Machine

/-! ### The invocation -/

/-- A running invocation: its processor and job. -/
structure Kn where
  proc : Nat
  x    : Scribe
  inv  : Invocation
  job  : ScribeJob
  deriving DecidableEq, Repr

/-- A field of a job entry (R357). -/
def ScribeJob.at (j : ScribeJob) (o n : Nat) : Nat := leAt j.entry o n
def ScribeJob.cbase (j : ScribeJob) : Nat := j.at 2 2
def ScribeJob.clen (j : ScribeJob) : Nat := j.at 4 2
def ScribeJob.slim (j : ScribeJob) : Nat := j.at 6 2
def ScribeJob.fbase (j : ScribeJob) : Nat := j.at 8 2
def ScribeJob.fcnt (j : ScribeJob) : Nat := j.at 0x0A 2
def ScribeJob.tfate (j : ScribeJob) : Bool := j.at 0x0C 1 % 2 == 1

/-- The invocation that the state lets execute. -/
def kernelOf (s : State) : Option Kn :=
  match s.curProc with
  | none => none
  | some p =>
    match Map.find s.scribes p with
    | none => none
    | some x =>
      match x.inv with
      | none => none
      | some inv =>
        match x.jobs.find? (fun j => j.job == inv.job) with
        | none => none
        | some j => some { proc := p, x := x, inv := inv, job := j }

/-- Lane l of a vector. -/
def zLane (z : Line) (l : Nat) : Word := BitVec.ofNat 32 (z.toNat / 2 ^ (32 * l))

/-- A vector from its lanes. -/
def zOf (f : Nat → Word) : Line :=
  (List.range 16).foldl (fun a l => a ||| ((f l).setWidth 512 <<< (32 * l))) 0

def Kn.z (c : Kn) (r : BitVec 4) : Line := Map.get 0 c.inv.z r.toNat
def Kn.k (c : Kn) (r : BitVec 4) : Word := Map.get 0 c.inv.k r.toNat

/-- m0 reads all ones (R356). -/
def Kn.m (c : Kn) (r : BitVec 2) : BitVec 16 := if r == 0 then BitVec.allOnes 16 else Map.get 0 c.inv.m r.toNat

def Invocation.setZ (i : Invocation) (r : BitVec 4) (v : Line) : Invocation := { i with z := Map.set 0 i.z r.toNat v }
def Invocation.setK (i : Invocation) (r : BitVec 4) (v : Word) : Invocation := { i with k := Map.set 0 i.k r.toNat v }

/-- A guarded write of a vector (R361). -/
def guardZ (m : BitVec 16) (old new : Line) : Line := zOf (fun l => if m.getLsbD l then zLane new l else zLane old l)

def Kn.writeZ (c : Kn) (d : BitVec 4) (m : BitVec 2) (v : Line) : Invocation :=
  c.inv.setZ d (guardZ (c.m m) (c.z d) v)

/-- The next word: past the last word of a REPEAT body the next pass begins, or the words after it (R368). -/
def Invocation.next (i : Invocation) : Invocation :=
  match i.rep with
  | none => { i with word := i.word + 1 }
  | some r =>
    if i.word == r.hi then
      if r.i + 1 < r.n then
        { i with word := r.lo, rep := some { r with i := r.i + 1 }, k := Map.set 0 i.k r.d (BitVec.ofNat 32 (r.i + 1)) }
      else { i with word := i.word + 1, rep := none }
    else { i with word := i.word + 1 }

/-! ### Packets that leave -/

/-- This device's rank in a job, and whether the job's rank map holds a rank (R344). -/
def jobRank (s : State) (job : Nat) : Nat :=
  match (ctxOfJob s job).bind (fun c => (Map.find s.ctxs c).bind Ctx.job) with
  | some j => j.rank
  | none => 0
def inRankMap (s : State) (job rank : Nat) : Bool :=
  match (ctxOfJob s job).bind (fun c => (Map.find s.ctxs c).bind Ctx.job) with
  | some j => decide (rank < 512) && j.map.getD rank 0 != 0
  | none => false

/-- The payload of a header's packet, 32 bytes: R349 gives the header's fields and not their places. DEDUCED, log 103. -/
def hdrLine (h : CollHdr) : Line :=
  lineOf (leBytes 1 h.cop ++ leBytes 1 h.rop ++ leBytes 1 h.efmt ++ leBytes 1 h.axes ++ leBytes 4 h.count ++ leBytes 2 h.gx ++
    leBytes 2 h.gy ++ leBytes 2 h.gz ++ leBytes 2 h.origin ++ leBytes 2 h.root)
def hdrLen : Nat := 32

/-- The header in a packet. -/
def lineHdr (x : Line) : CollHdr :=
  let b := leBytes 32 x.toNat
  { cop := leAt b 0 1, rop := leAt b 1 1, efmt := leAt b 2 1, axes := leAt b 3 1, count := leAt b 4 4, gx := leAt b 8 2,
    gy := leAt b 10 2, gz := leAt b 12 2, origin := leAt b 14 2, root := leAt b 16 2 }

/-- A collective step as the engines exchange it, from its packet: a header's payload is not 64 bytes (R371). -/
def pktStep (p : Packet) : CollMsg :=
  { job := p.job, cgid := p.cgid, k := p.seqk, member := p.member, src := p.src, mcount := p.mcount, fmtop := p.fmtop,
    mark := p.mark, tag := p.tag,
    body := if p.plen == hdrLen then .header (lineHdr p.payload)
      else if p.member == 0xFFFF then .reduced p.chunk p.plen p.payload else .chunk p.chunk p.plen p.payload }

/-- A message belongs to a collective in flight; operation numbers travel modulo 2^16 (R360). -/
def CollMsg.isFor (m : CollMsg) (job : Nat) (c : Coll) : Bool :=
  m.job == job && m.cgid == c.cgid && m.k % 2 ^ 16 == c.k % 2 ^ 16

/-- A step of an operation that this device has passed. DEDUCED, log 86. -/
def stepStale (s : State) (m : CollMsg) : Bool :=
  match (ctxOfJob s m.job).bind (Map.find s.ctxs) with
  | none => true
  | some c =>
    decide (2 ^ 15 ≤ (m.k % 2 ^ 16 + 2 ^ 16 - Map.get 0 c.cgSeq m.cgid % 2 ^ 16) % 2 ^ 16) &&
    !(s.cores.any (fun x => x.2.ops.any (fun o => match o.coll with | some y => y.begun && CollMsg.isFor m m.job y | none => false)))

/-- R401: the job's context here is frozen and its image written: its requests are refused. DEDUCED, log 86. -/
def jobClosed (s : State) (job : Nat) : Bool :=
  match (ctxOfJob s job).bind (Map.find s.ctxs) with
  | some c => c.lateClosed
  | none => false

/-- A collective step ends here: kept for its operation and acknowledged; of a job not held here it is counted and dropped
(R341), of a sender that is no device of the job, or for a context that is frozen and written, it is refused (R340, R401). DEDUCED, log 103. -/
def takeStep (s : State) (m : CollMsg) : State :=
  if (ctxOfJob s m.job).isNone then { s with fabErrs := s.fabErrs + 1 }
  else if foreign s m.job m.src then
    s.send (.nack m.src m.tag 4 { cause := 0, detail := 0, addr := 0, rank := jobRank s m.job, lane := 0 })
  else if jobClosed s m.job then
    s.send (.nack m.src m.tag 3 { cause := 0, detail := 0, addr := 0, rank := jobRank s m.job, lane := 0 })
  else
    ({ s with collIn := if stepStale s m then s.collIn else s.collIn ++ [m] }).send (.ack m.src m.tag)

/-- A drain marker ends here: one of this device's own, known by its tag, has returned, or a peer's is returned to its sender (R375, R400). -/
def returnMarker (s : State) (p : Packet) : State :=
  if p.returning then { s with freeze := s.freeze.map (fun f => { f with markers := f.markers.filter (· != p.tag) }) }
  else s.send (.marker { p with dest := p.src, src := p.dest, returning := true })

/-- A packet goes towards its DEST: out of the device, or, where it came in and DEST is this device, to its end here. -/
def forward (s : State) (p : Packet) (dir : Nat) : State :=
  if dir == 0 && p.dest == jobRank s p.job then
    if p.cls == 0x11 then takeStep s (pktStep p)
    else if p.cls == 0x13 then returnMarker s p
    else remoteRequest s p
  else if p.cls == 0x11 then s.send (.coll p.dest (pktStep p))
  else if p.cls == 0x13 then s.send (.marker p)
  else s.send (.request p)

/-- R368: a packet is discarded: an ordinary request is refused with detail 2; a drain marker is forwarded; a collective step is
absorbed, and its sender's write acknowledged. DEDUCED, log 103. -/
def discard (s : State) (p : Packet) (dir : Nat) : State :=
  if p.cls ≤ 2 then s.nack p 2 0 0
  else if p.cls == 0x13 then forward s p dir
  else s.send (.ack p.src p.tag)

/-- A packet with payload (R360). -/
def pktPayload (p : Packet) : Bool := p.cls != 0 && p.cls != 0x13

/-- A request that a kernel (`what` 0) or the writer of its trap records (1) sends. -/
def scribeReq (p : Packet) (proc what now : Nat) : FabReq :=
  { pkt := p, gid := 0, core := 0, entry := 0, lanes := 0, posted := true, fresh := false, seen := [], va := p.addr, copy := none,
    scribe := some (proc, what), pc := 0, pos := 0, mask := 0, sent := now }

/-- The emitted packets leave in order, to no hook of this switch (R358); the switch counts their acknowledgements (R367). -/
def sendEmits (s : State) (proc : Nat) (ps : List Packet) : State :=
  ps.foldl (fun s p =>
    let (tag, s1) := s.takeId
    let p1 := { p with tag := tag }
    forward { s1 with fabReqs := Map.put s1.fabReqs tag (scribeReq p1 proc 0 s.tick) } p1 (if p.dest == jobRank s p.job then 0 else 1)) s

/-! ### Traps (R371 to R373) -/

/-- The 32-byte trap record (R373). DEDUCED, log 79. -/
def trapRecord (q cause detail proc word steps : Nat) (job : Nat) (p : Packet) : List Byte :=
  leBytes 4 q ++ leBytes 1 cause ++ leBytes 1 detail ++ leBytes 1 proc ++ leBytes 1 p.port ++ leBytes 2 word ++
  leBytes 2 steps ++ leBytes 2 job ++ leBytes 2 p.src ++ leBytes 8 p.addr.toNat ++ leBytes 2 p.cgid ++ leBytes 2 p.member ++
  leBytes 2 p.seqk ++ leBytes 2 0

/-- Writes a record here, then, once every frame holds it, credits the barrier: counted as a fabric error where it cannot be
written (R373). -/
def recordHere (s : State) (ctx : Nat) (va bar : DWord) (bs : List Byte) : State :=
  match remoteXlate s ctx va .w with
  | .error _ => { s with fabErrs := s.fabErrs + 1 }
  | .ok (pa, size, repl, prop, s1) =>
    if (framesOf pa size repl).any (fun a => taggedIn s1.tags a 32) then { s with fabErrs := s.fabErrs + 1 }
    else
      let (n, s2) := s1.takeId
      let s3 := wrTgt s2 { gid := 0, ctx, die := 0, owner := .job n } pa size repl prop bs
      afterFrames s3 n (.record ctx bar) (fun s => creditRecord s ctx bar)

/-- A job's trap record is written at TRANK (R373). DEDUCED, log 79. -/
def sendRecord (s : State) (proc : Nat) (j : ScribeJob) (cause detail word steps : Nat) (p : Packet) : State :=
  let bs := trapRecord j.q cause detail proc word steps j.job p
  let va : DWord := BitVec.ofNat 64 (j.at 0x18 8 + 32 * (j.q % j.at 0x20 2))
  let bar : DWord := BitVec.ofNat 64 (j.at 0x10 8)
  let x := s.scribeAt proc
  let s1 := s.putScribe proc { x with jobs := x.jobs.map (fun y => if y.job == j.job then { y with q := y.q + 1 } else y) }
  let rank := j.at 0x0E 2
  if rank == jobRank s j.job then recordHere s1 j.ctx va bar bs
  else
    let (tag, s2) := s1.takeId
    let o := va.toNat % 64
    let p1 := { mkPacket s2 j.ctx 1 rank va.toNat tag with
      plen := 64, payload := lineSet 0 o bs, be := BitVec.ofNat 64 ((2 ^ 32 - 1) * 2 ^ o), credit := some bar }
    ({ s2 with fabReqs := Map.put s2.fabReqs tag (scribeReq p1 proc 1 s.tick) } : State).send (.request p1)

/-- R371, R392: an uncorrectable error in a flow slot is also a MACHINE_CHECK of the job's context, detail 2: an origin that no
group holds, on the lowest-numbered core that holds a team of the context, as R438 places one; without such a core, or without
handlers (R382), the context parks. DESIGN CHOICE, log 102. -/
def scribeCheck (s : State) (ctx : Nat) : State :=
  let s0 := { s with machChk := s.machChk + 1 }
  match lowestTeamCore s ctx with
  | none => parkCtx s0 ctx cMachine 2 0
  | some core =>
    let (id, s1) := s0.takeId
    let o : Origin := {
      id := id, ctx := ctx, core := core, gid := 0, slot := 0x3FF, remote := none, kind := 2, cause := cMachine, detail := 2,
      pc := 0, pos := 0, lane := 0, mask := 0, addr := 0, aux := 0, ref := 0, dst := 0, tick := s.clk / 10 }
    let c := s1.coreAt core
    let s2 := s1.putCore core { c with trapq := queueOrigin c.trapq o }
    if trapsOn s ctx then s2 else parkCtx s2 ctx cMachine 2 0

/-- A TRAP ends the invocation: flow writes stay, EMITs are discarded, the packet goes on as it arrived or is discarded
(R372). A packet of this device for itself whose egress invocation did not end in PASS is not offered again (R358). DEDUCED, log 79. -/
def scribeTrap (s : State) (c : Kn) (cause detail : Nat) : State :=
  let p := c.inv.arrived
  let s1 := s.putScribe c.proc { c.x with inv := none }
  let s2 := sendRecord (if cause == 9 then scribeCheck s1 c.job.ctx else s1) c.proc c.job cause detail c.inv.word c.inv.steps p
  if c.job.tfate && p.cls != 0x13 then discard s2 p c.inv.dir
  else forward s2 p (if p.dest == jobRank s p.job then 0 else c.inv.dir)

/-- Causes (R371). -/
def kStep : Nat := 1
def kBadFlow : Nat := 2
def kMalformed : Nat := 3
def kBadRank : Nat := 4
def kEmitLim : Nat := 5
def kRaccBad : Nat := 6
def kKtrap : Nat := 7
def kNacked : Nat := 8
def kEcc : Nat := 9

/-! ### The frame of a word -/

/-- One word of a kernel: its effect on the processor and the invocation, or its trap. DESIGN CHOICE, log 3, 6. -/
def asScribe (s : State) (f : Kn → Except (Nat × Nat) (Scribe × Invocation)) : Host.Outcome State Fault Refusal :=
  match kernelOf s with
  | none => .fault .noIssuer
  | some c =>
    match f c with
    | .ok (x, i) => .next (s.putScribe c.proc { x with inv := some i })
    | .error (k, d) => .next (scribeTrap s c k d)

/-- A word that writes the invocation's registers only. -/
def scribeReg (s : State) (f : Kn → Invocation) : Host.Outcome State Fault Refusal :=
  asScribe s (fun c => .ok (c.x, (f c).next))

/-- The element type of a vector word (R362). -/
def scribeTy (t : BitVec 4) : Ty := (Ty.ofCode t.toNat).getD .i32

/-- A guarded vector operation on lanes. -/
def vecLanes (d a b : BitVec 4) (m : BitVec 2) (s : State) (f : Word → Word → Word) : Host.Outcome State Fault Refusal :=
  scribeReg s (fun c => c.writeZ d m (zOf (fun l => f (zLane (c.z a) l) (zLane (c.z b) l))))

/-- A guarded element operation of class 00 under RN (R363). -/
def vecElem (op : Nat) (d a b : BitVec 4) (m : BitVec 2) (t : BitVec 4) (s : State) : Host.Outcome State Fault Refusal :=
  vecLanes d a b m s (fun x y => (regOp op (scribeTy t) .rn false x y 0).1)

/-- VADD (R363). -/
def execVadd (d a b : BitVec 4) (m : BitVec 2) (t : BitVec 4) (s : State) : Host.Outcome State Fault Refusal :=
  vecElem 0x01 d a b m t s
/-- VSUB (R363). -/
def execVsub (d a b : BitVec 4) (m : BitVec 2) (t : BitVec 4) (s : State) : Host.Outcome State Fault Refusal :=
  vecElem 0x02 d a b m t s
/-- VMUL (R363). -/
def execVmul (d a b : BitVec 4) (m : BitVec 2) (t : BitVec 4) (s : State) : Host.Outcome State Fault Refusal :=
  vecElem 0x03 d a b m t s
/-- VMIN (R363). -/
def execVmin (d a b : BitVec 4) (m : BitVec 2) (t : BitVec 4) (s : State) : Host.Outcome State Fault Refusal :=
  vecElem 0x07 d a b m t s
/-- VMAX (R363). -/
def execVmax (d a b : BitVec 4) (m : BitVec 2) (t : BitVec 4) (s : State) : Host.Outcome State Fault Refusal :=
  vecElem 0x08 d a b m t s
/-- VAND (R363). -/
def execVand (d a b : BitVec 4) (m : BitVec 2) (s : State) : Host.Outcome State Fault Refusal :=
  vecLanes d a b m s (fun x y => x &&& y)
/-- VOR (R363). -/
def execVor (d a b : BitVec 4) (m : BitVec 2) (s : State) : Host.Outcome State Fault Refusal :=
  vecLanes d a b m s (fun x y => x ||| y)
/-- VXOR (R363). -/
def execVxor (d a b : BitVec 4) (m : BitVec 2) (s : State) : Host.Outcome State Fault Refusal :=
  vecLanes d a b m s (fun x y => x ^^^ y)
/-- VSHL (R363). -/
def execVshl (d a b : BitVec 4) (m : BitVec 2) (s : State) : Host.Outcome State Fault Refusal :=
  vecLanes d a b m s (fun x y => x <<< (y.toNat % 32))
/-- VSHR (R363). -/
def execVshr (d a b : BitVec 4) (m : BitVec 2) (s : State) : Host.Outcome State Fault Refusal :=
  vecLanes d a b m s (fun x y => x >>> (y.toNat % 32))
/-- VSAR (R363). -/
def execVsar (d a b : BitVec 4) (m : BitVec 2) (s : State) : Host.Outcome State Fault Refusal :=
  vecLanes d a b m s (fun x y => x.sshiftRight (y.toNat % 32))

/-- VSEL: A where the lane's bit of m(M) is 1, else B (R363). -/
def execVsel (d a b : BitVec 4) (m : BitVec 2) (s : State) : Host.Outcome State Fault Refusal :=
  scribeReg s (fun c => c.inv.setZ d (zOf (fun l => if (c.m m).getLsbD l then zLane (c.z a) l else zLane (c.z b) l)))

/-- VCMP: each guarded lane's bit of mD (R363); m0 is never written. -/
def execVcmp (d : BitVec 2) (a b : BitVec 4) (m : BitVec 2) (r : BitVec 3) (t : BitVec 4) (s : State) :
    Host.Outcome State Fault Refusal :=
  scribeReg s (fun c =>
    let ok (l : Nat) : Bool := (cmpElem r.toNat (scribeTy t) (zLane (c.z a) l).toNat (zLane (c.z b) l).toNat).1
    let new : BitVec 16 := (List.range 16).foldl (fun x l => if ok l then x ||| (1#16 <<< l) else x) 0
    if d == 0 then c.inv
    else { c.inv with m := Map.set 0 c.inv.m d.toNat ((new &&& c.m m) ||| (c.m d &&& ~~~(c.m m))) })

/-- VBC: kA into every guarded lane (R363). -/
def execVbc (d a : BitVec 4) (m : BitVec 2) (s : State) : Host.Outcome State Fault Refusal :=
  scribeReg s (fun c => c.writeZ d m (zOf (fun _ => c.k a)))

/-- VEXT: one lane into kD (R363). -/
def execVext (d a l : BitVec 4) (s : State) : Host.Outcome State Fault Refusal :=
  scribeReg s (fun c => c.inv.setK d (zLane (c.z a) l.toNat))

/-- VINS: kA into one lane (R363). -/
def execVins (d a l : BitVec 4) (s : State) : Host.Outcome State Fault Refusal :=
  scribeReg s (fun c => c.inv.setZ d (zOf (fun i => if i == l.toNat then c.k a else zLane (c.z d) i)))

/-- A scalar operation (R364). -/
def scalarK (d a b : BitVec 4) (s : State) (f : Word → Word → Word) : Host.Outcome State Fault Refusal :=
  scribeReg s (fun c => c.inv.setK d (f (c.k a) (c.k b)))

/-- SADD (R364). -/
def execSadd (d a b : BitVec 4) (s : State) : Host.Outcome State Fault Refusal := scalarK d a b s (fun x y => x + y)
/-- SSUB (R364). -/
def execSsub (d a b : BitVec 4) (s : State) : Host.Outcome State Fault Refusal := scalarK d a b s (fun x y => x - y)
/-- SAND (R364). -/
def execSand (d a b : BitVec 4) (s : State) : Host.Outcome State Fault Refusal := scalarK d a b s (fun x y => x &&& y)
/-- SOR (R364). -/
def execSor (d a b : BitVec 4) (s : State) : Host.Outcome State Fault Refusal := scalarK d a b s (fun x y => x ||| y)
/-- SXOR (R364). -/
def execSxor (d a b : BitVec 4) (s : State) : Host.Outcome State Fault Refusal := scalarK d a b s (fun x y => x ^^^ y)
/-- SSHL (R364). -/
def execSshl (d a : BitVec 4) (n : BitVec 5) (s : State) : Host.Outcome State Fault Refusal :=
  scribeReg s (fun c => c.inv.setK d (c.k a <<< n.toNat))
/-- SSHR (R364). -/
def execSshr (d a : BitVec 4) (n : BitVec 5) (s : State) : Host.Outcome State Fault Refusal :=
  scribeReg s (fun c => c.inv.setK d (c.k a >>> n.toNat))
/-- SADDI (R364). -/
def execSaddi (d a : BitVec 4) (i : BitVec 12) (s : State) : Host.Outcome State Fault Refusal :=
  scribeReg s (fun c => c.inv.setK d (c.k a + i.signExtend 32))
/-- SMOVI (R364). -/
def execSmovi (d : BitVec 4) (i : BitVec 22) (s : State) : Host.Outcome State Fault Refusal :=
  scribeReg s (fun c => c.inv.setK d (i.signExtend 32))
/-- SMOVH: bits [31:22] replaced (R364). -/
def execSmovh (d : BitVec 4) (i : BitVec 10) (s : State) : Host.Outcome State Fault Refusal :=
  scribeReg s (fun c => c.inv.setK d (i ++ (c.k d).setWidth 22))

/-- SCMP: 1 when the relation holds, 0 otherwise (R364). -/
def execScmp (d a b : BitVec 4) (u : BitVec 1) (r : BitVec 3) (s : State) : Host.Outcome State Fault Refusal :=
  scribeReg s (fun c =>
    let v (x : Word) : Int := if u == 1 then (x.toNat : Int) else x.toInt
    c.inv.setK d (if relInt r.toNat (v (c.k a)) (v (c.k b)) then 1 else 0))

/-! ### Packets and flow slots -/

/-- R360: a header field; one without meaning for the class reads zero. -/
def pktField (p : Packet) (time : Word) (n : Nat) : Nat :=
  let coll := p.cls == 0x11
  match n with
  | 0 => p.cls
  | 1 => p.job
  | 2 => p.src
  | 3 => p.dest
  | 4 => if p.cls ≤ 2 then p.addr.toNat % 2 ^ 32 else 0
  | 5 => if p.cls ≤ 2 then p.addr.toNat / 2 ^ 32 else 0
  | 6 => if coll then p.cgid else 0
  | 7 => if coll then p.seqk % 2 ^ 16 else 0
  | 8 => if coll then p.member else 0
  | 9 => if coll then p.mcount else 0
  | 10 => if coll then p.chunk else 0
  | 11 => if coll then p.fmtop else 0
  | 12 => p.mark
  | 13 => p.port
  | 14 => time.toNat
  | _ => 0

/-- HRD (R365). -/
def execHrd (d f : BitVec 4) (s : State) : Host.Outcome State Fault Refusal :=
  scribeReg s (fun c => c.inv.setK d (BitVec.ofNat 32 (pktField c.inv.pkt c.inv.time f.toNat)))

/-- HWR: DEST, checked against the rank map, or MARK (R365). -/
def execHwr (a f : BitVec 4) (s : State) : Host.Outcome State Fault Refusal :=
  asScribe s (fun c =>
    if f == 3 then
      if inRankMap s c.job.job (c.k a).toNat then
        .ok (c.x, { c.inv with pkt := { c.inv.pkt with dest := (c.k a).toNat } }.next)
      else .error (kBadRank, 0)
    else .ok (c.x, { c.inv with pkt := { c.inv.pkt with mark := (c.k a).toNat % 2 ^ 16 } }.next))

/-- PLD: the payload; a packet without payload reads as zero (R360, R365). -/
def execPld (d : BitVec 4) (s : State) : Host.Outcome State Fault Refusal :=
  scribeReg s (fun c => c.inv.setZ d (if pktPayload c.inv.pkt then c.inv.pkt.payload else 0))

/-- PST: the guarded lanes of the payload; no effect without payload (R360, R365). -/
def execPst (a : BitVec 4) (m : BitVec 2) (s : State) : Host.Outcome State Fault Refusal :=
  scribeReg s (fun c =>
    if pktPayload c.inv.pkt then
      { c.inv with pkt := { c.inv.pkt with payload := guardZ (c.m m) c.inv.pkt.payload (c.z a) } }
    else c.inv)

/-- A flow slot of a job (R357). -/
def Kn.slot (c : Kn) (i : Nat) : Line := Map.get 0 c.x.flow (c.job.fbase + i)

/-- Writes a flow slot; a full write clears its poison. -/
def Kn.setSlot (c : Kn) (x : Scribe) (i : Nat) (v : Line) (full : Bool) : Scribe :=
  { x with flow := Map.set 0 x.flow (c.job.fbase + i) v,
           poison := if full then x.poison.filter (· != c.job.fbase + i) else x.poison }

def Kn.slotBad (c : Kn) (i : Nat) : Bool := c.x.poison.contains (c.job.fbase + i)

/-- R365: kA + IMM as an unsigned 32-bit value. -/
def Kn.slotIndex (c : Kn) (a : BitVec 4) (o : BitVec 12) : Nat := (c.k a + o.setWidth 32).toNat

/-- FLD (R365, R371). -/
def execFld (d a : BitVec 4) (o : BitVec 12) (s : State) : Host.Outcome State Fault Refusal :=
  asScribe s (fun c =>
    let i := c.slotIndex a o
    if c.job.fcnt ≤ i then .error (kBadFlow, 0)
    else if c.slotBad i then .error (kEcc, 0)
    else .ok (c.x, (c.inv.setZ d (c.slot i)).next))

/-- FST: the guarded lanes of a slot (R365). -/
def execFst (a b : BitVec 4) (m : BitVec 2) (o : BitVec 12) (s : State) : Host.Outcome State Fault Refusal :=
  asScribe s (fun c =>
    let i := c.slotIndex a o
    if c.job.fcnt ≤ i then .error (kBadFlow, 0)
    else .ok (c.setSlot c.x i (guardZ (c.m m) (c.slot i) (c.z b)) (c.m m == BitVec.allOnes 16), c.inv.next))

/-- The control slot of a reduction region (R366). -/
structure RCtl where
  next : Nat
  seqk : Nat
  mm   : Nat
  fmt  : Nat
  rop  : Nat
  act  : Bool
  pend : Nat
  deriving DecidableEq, Repr

def RCtl.ofSlot (z : Line) : RCtl :=
  let w0 := (zLane z 0).toNat
  let w1 := (zLane z 1).toNat
  { next := w0 % 2 ^ 16, seqk := w0 / 2 ^ 16, mm := w1 % 2 ^ 16, fmt := w1 / 2 ^ 16 % 16, rop := w1 / 2 ^ 20 % 8,
    act := w1 / 2 ^ 31 == 1, pend := z.toNat / 2 ^ 256 }

/-- The slot with the tabled fields replaced; its other bits stay. -/
def RCtl.toSlot (c : RCtl) (old : Line) : Line :=
  let w1 := (zLane old 1).toNat
  let keep := w1 / 2 ^ 23 % 2 ^ 8 * 2 ^ 23
  zOf (fun l =>
    if l == 0 then BitVec.ofNat 32 (c.next % 2 ^ 16 + c.seqk % 2 ^ 16 * 2 ^ 16)
    else if l == 1 then
      BitVec.ofNat 32 (c.mm % 2 ^ 16 + c.fmt % 16 * 2 ^ 16 + c.rop % 8 * 2 ^ 20 + keep + (if c.act then 2 ^ 31 else 0))
    else if l < 8 then zLane old l
    else BitVec.ofNat 32 (c.pend / 2 ^ (32 * (l - 8))))

/-- A member is held. -/
def RCtl.held (c : RCtl) (m : Nat) : Bool := c.pend / 2 ^ m % 2 == 1

/-- combine lane by lane (R366). -/
def combineZ (o : Rop) (t : Ty) (a b : Line) : Line := zOf (fun l => combineReg o t (zLane a l) (zLane b l))

/-- The held contributions that are next are folded. -/
def raccFold (slot : Nat → Line) (o : Rop) (t : Ty) : Nat → RCtl → Line → RCtl × Line
  | 0, c, acc => (c, acc)
  | n + 1, c, acc =>
    if c.next < c.mm && c.held c.next then
      raccFold slot o t n { c with next := c.next + 1, pend := c.pend - 2 ^ c.next } (combineZ o t acc (slot (1 + c.next)))
    else (c, acc)

/-- RACC (R366): slots are named from the region's start; the result is NEXT and the slots written. -/
def raccStep (p : Packet) (slot : Nat → Line) : Except (Nat × Nat) (Nat × List (Nat × Line)) :=
  let m := p.member
  let f := p.fmtop % 16
  let r := p.fmtop / 16 % 8
  match Ty.ofCode f, Rop.ofCode r with
  | some t, some o =>
    if p.mcount < 2 || 256 < p.mcount || !ropOk o t then .error (kRaccBad, 3)
    else
      let old := RCtl.ofSlot (slot 0)
      let c : RCtl := if old.act then old
        else { next := 0, seqk := p.seqk % 2 ^ 16, mm := p.mcount, fmt := f, rop := r, act := true, pend := 0 }
      if c.seqk != p.seqk % 2 ^ 16 || c.mm != p.mcount || c.fmt != f || c.rop != r then .error (kRaccBad, 1)
      else if m < c.next || c.held m then .error (kRaccBad, 2)
      else if c.next < m then
        .ok (c.next, [(0, { c with pend := c.pend + 2 ^ m }.toSlot (slot 0)), (1 + m, p.payload)])
      else
        let acc := if m == 0 then p.payload else combineZ o t (slot 1) p.payload
        let (c1, acc1) := raccFold slot o t 256 { c with next := c.next + 1 } acc
        .ok (c1.next, [(0, { c1 with act := c1.next != c1.mm }.toSlot (slot 0)), (1, acc1)])
  | _, _ => .error (kRaccBad, 3)

/-- The members held next to each other from one on. -/
def RCtl.run (c : RCtl) : Nat → Nat → List Nat
  | 0, _ => []
  | n + 1, k => if k < c.mm && c.held k then k :: c.run n (k + 1) else []

/-- The slots after the control slot that RACC reads: the accumulator, and those it folds. -/
def raccReads (p : Packet) (slot : Nat → Line) : List Nat :=
  let c := RCtl.ofSlot (slot 0)
  let m := p.member
  if m != (if c.act then c.next else 0) then []
  else (if m == 0 then [] else [1]) ++ (if c.act then (c.run 256 (m + 1)).map (1 + ·) else [])

/-- RACC: folds the payload into a region of flow slots (R366). A member index beyond the region is malformed at dispatch. -/
def execRacc (d a : BitVec 4) (o : BitVec 12) (s : State) : Host.Outcome State Fault Refusal :=
  asScribe s (fun c =>
    let b := c.slotIndex a o
    let p := c.inv.pkt
    match raccStep p (fun i => c.slot (b + i)) with
    | .error (6, 3) => .error (kRaccBad, 3)
    | r =>
      if c.job.fcnt ≤ b + p.mcount then .error (kBadFlow, 0)
      else if c.slotBad b then .error (kEcc, 0)
      else
        match r with
        | .error e => .error e
        | .ok (n, ws) =>
          if (raccReads p (fun i => c.slot (b + i))).any (fun i => c.slotBad (b + i)) then .error (kEcc, 0)
          else .ok (ws.foldl (fun x w => c.setSlot x (b + w.1) w.2 true) c.x, (c.inv.setK d (BitVec.ofNat 32 n)).next))

/-- EMIT: queues a new packet (R367). -/
def execEmit (a b : BitVec 4) (r : BitVec 1) (s : State) : Host.Outcome State Fault Refusal :=
  asScribe s (fun c =>
    if !pktPayload c.inv.pkt then .error (kMalformed, 2)
    else if 16 ≤ c.inv.emits.length then .error (kEmitLim, 0)
    else if !inRankMap s c.job.job (c.k b).toNat then .error (kBadRank, 0)
    else
      let p := { c.inv.pkt with dest := (c.k b).toNat, src := jobRank s c.job.job, payload := c.z a,
                                member := if r == 1 then 0xFFFF else c.inv.pkt.member }
      .ok (c.x, { c.inv with emits := c.inv.emits ++ [p] }.next))

/-! ### Control (R368) -/

/-- A branch: the target is the word's own index plus the offset. -/
def branchK (o : BitVec 12) (s : State) (f : Kn → Bool) : Host.Outcome State Fault Refusal :=
  asScribe s (fun c =>
    .ok (c.x, if f c then { c.inv with word := c.inv.word + o.toNat } else c.inv.next))

/-- BNZ (R368). -/
def execBnz (a : BitVec 4) (o : BitVec 12) (s : State) : Host.Outcome State Fault Refusal := branchK o s (fun c => c.k a != 0)
/-- BZ (R368). -/
def execBz (a : BitVec 4) (o : BitVec 12) (s : State) : Host.Outcome State Fault Refusal := branchK o s (fun c => c.k a == 0)
/-- JMP (R368). -/
def execJmp (o : BitVec 12) (s : State) : Host.Outcome State Fault Refusal := branchK o s (fun _ => true)

/-- REPEAT: the b words that follow run n times (R368). -/
def execScribeRepeat (d : BitVec 4) (b : BitVec 8) (n : BitVec 9) (s : State) : Host.Outcome State Fault Refusal :=
  asScribe s (fun c =>
    let w := c.inv.word
    .ok (c.x, { (c.inv.setK d 0) with
      word := w + 1, rep := some { d := d.toNat, i := 0, n := n.toNat, lo := w + 1, hi := w + b.toNat } }))

/-- An invocation ends: its emitted packets leave in order, then the packet's own fate. -/
def endKernel (s : State) (f : State → Kn → State) : Host.Outcome State Fault Refusal :=
  match kernelOf s with
  | none => .fault .noIssuer
  | some c =>
    let s1 := s.putScribe c.proc { c.x with inv := none }
    .next (f (sendEmits s1 c.proc c.inv.emits) c)

/-- PASS: the packet goes on towards DEST; a drain marker goes on unchanged (R368). -/
def execPass (s : State) : Host.Outcome State Fault Refusal :=
  endKernel s (fun s c => forward s (if c.inv.pkt.cls == 0x13 then c.inv.arrived else c.inv.pkt) c.inv.dir)

/-- DROP: the packet is discarded (R368). -/
def execDrop (s : State) : Host.Outcome State Fault Refusal :=
  endKernel s (fun s c => discard s (if c.inv.pkt.cls == 0x13 then c.inv.arrived else c.inv.pkt) c.inv.dir)

/-- TRAPK: ends with cause KTRAP (R368). -/
def execTrapk (k : BitVec 8) (s : State) : Host.Outcome State Fault Refusal :=
  asScribe s (fun _ => .error (kKtrap, k.toNat))

/-! ### Dispatch -/

/-- An invocation at its start: every register zero (R356, R359). -/
def Invocation.start (s : State) (q : Queued) : Invocation :=
  { job := q.job, word := q.entry, steps := 0, z := [], k := [], m := [], pkt := q.pkt, arrived := q.pkt, dir := q.dir,
    time := s.gtc.setWidth 32, emits := [], rep := none }

/-- R371: a malformed collective step. -/
def pktMalformed (p : Packet) : Bool :=
  p.cls == 0x11 && ((decide (p.mcount ≤ p.member) && p.member != 0xFFFF) || p.plen != 64)

/-- R375: a waiting snapshot of a job: the packets that its processor accepted before it come first, whatever their job. -/
def gateShut (s : State) (proc job : Nat) : Bool := s.snapGate.any (fun g => g.1 == proc && g.2.1 == job && g.2.2 == 0)
def gateStep (s : State) (proc : Nat) : State :=
  { s with snapGate := s.snapGate.map (fun g => if g.1 == proc then (g.1, g.2.1, g.2.2 - 1) else g) }

/-- SCRIBE_DISPATCH: the processor starts on the oldest accepted packet (R359); a malformed one traps at once (R371). A
packet whose job is no longer bound passes on unchanged. DESIGN CHOICE, log 80. -/
def execScribeDispatch (proc : Nat) (s : State) : Host.Outcome State Fault Refusal :=
  let x := s.scribeAt proc
  match x.inv, x.queue with
  | none, q :: rest =>
    if gateShut s proc q.job then .next s
    else
      let s1 := gateStep s proc
      let i := Invocation.start s1 q
      match x.jobs.find? (fun j => j.job == q.job) with
      | none => .next (forward (s1.putScribe proc { x with queue := rest }) q.pkt q.dir)
      | some j =>
        let x1 := { x with queue := rest, inv := some i }
        if pktMalformed q.pkt then .next (scribeTrap s1 { proc := proc, x := x1, inv := i, job := j } kMalformed 1)
        else .next (s1.putScribe proc x1)
  | _, _ => .next s

/-- A word about to execute: the invocation with one step more, or none with the trap STEP taken (R369). DESIGN CHOICE, log 98. -/
def scribeWord (s : State) (proc : Nat) : Option (Except State (Option Instr × State)) :=
  match kernelOf { s with curProc := some proc } with
  | none => none
  | some c =>
    if c.job.slim ≤ c.inv.steps then some (.error (scribeTrap s c kStep 0))
    else
      let w := Map.get 0 c.x.code (16 * c.job.cbase + c.inv.word)
      some (.ok (decodeScribe w.toNat,
        { (s.putScribe proc { c.x with inv := some { c.inv with steps := c.inv.steps + 1 } }) with curProc := some proc }))

/-- PACKET_ACCEPT: a hooked packet enters its processor's queue: one that arrives, or one of this device that waits at the
switch for room (R359). A packet no hook takes is delivered. -/
def execPacketAccept (p : Packet) (dir : Nat) (s : State) : Host.Outcome State Fault Refusal :=
  if dir == 0 then
    let q := { p with acked := false }
    if !linked s then .next s
    else if foreign s p.job p.src then .next (s.nack q 4 0 0)
    else match hookFor s q 0 with
    | none => .next (forward s { q with dest := jobRank s p.job } 0)
    | some h => .next ((enqueue s h q 0).getD s)
  else if s.out.contains (.held p) then
    let s1 := { s with out := s.out.erase (.held p) }
    match hookFor s p 1 with
    | none => .next (forward s1 p 1)
    | some h => .next ((enqueue s1 h p 1).getD s)
  else .next s

end Sys2Proof.Machine
end

