-- ==== Sys2Proof/Machine/Collect.lean ====
section
/-!
DEFINITION. Collectives (R348 to R351, R374): the record, the members, headers, chunks and their fold, and the acceptance
of collectives that wait on one CGID.
-/
namespace Sys2Proof.Machine

/-! ### The record (R348) -/

/-- The header of a record (R349). -/
def hdrOf (r : List Byte) : CollHdr :=
  { cop := leAt r 4 1, rop := leAt r 5 1, efmt := leAt r 6 1, count := leAt r 0x18 4, axes := leAt r 7 1, gx := leAt r 0x20 2,
    gy := leAt r 0x22 2, gz := leAt r 0x24 2, origin := leAt r 0x26 2, root := leAt r 0x1E 2 }

def CollHdr.ty (h : CollHdr) : Ty := (Ty.ofCode h.efmt).getD .b32

/-- Element bytes. -/
def hdrZ (h : CollHdr) : Nat := (CollHdr.ty h).bits / 8

/-- The ranks of the members by member index, for the device of a logical rank (R348). -/
def collMembers (h : CollHdr) (rank : Nat) : List Nat :=
  let p := rank - h.origin
  let x := p % h.gx
  let y := p / h.gx % h.gy
  let z := p / h.gx / h.gy
  let axis (k n own : Nat) : List Nat := if h.axes / 2 ^ k % 2 == 1 then List.range n else [own]
  (axis 2 h.gz z).flatMap (fun c => (axis 1 h.gy y).flatMap (fun b => (axis 0 h.gx x).map (fun a =>
    h.origin + a + h.gx * (b + h.gy * c))))

/-- R348: destination rows and their bytes: one row, or one for each member's contribution. -/
def collRows (h : CollHdr) (members : Nat) : Nat × Nat :=
  let n := h.count * hdrZ h
  match h.cop with
  | 2 => (1, n / members)
  | 3 => (members, n)
  | _ => (1, n)

/-- R348: the limits of a record on a device of a rank, in a team of a size. DEDUCED, log 47. -/
def collRecordOk (r : List Byte) (rank size : Nat) : Bool :=
  let h := hdrOf r
  let ms := collMembers h rank
  let (rows, len) := collRows h ms.length
  let reduces := h.cop == 1 || h.cop == 2
  leAt r 0 2 == 3 && (leAt r 2 1 == 0 || leAt r 2 1 == 2) && (leAt r 3 1 == 0 || leAt r 3 1 == 2) &&
  decide (1 ≤ h.cop) && h.cop ≤ 4 && [0, 1, 5, 6, 7, 10].contains h.efmt && decide (1 ≤ h.axes) && h.axes ≤ 7 &&
  decide (1 ≤ h.count) && h.count ≤ 2 ^ 26 && (h.cop == 4 || h.root == 0) && decide (1 ≤ h.gx) && decide (1 ≤ h.gy) &&
  decide (1 ≤ h.gz) && h.gx * h.gy * h.gz ≤ 512 && zeroAt r 0x28 24 &&
  decide (h.origin ≤ rank) && decide (rank < h.origin + h.gx * h.gy * h.gz) && ms.all (fun m => decide (m < 512)) &&
  (h.cop != 2 || h.count % ms.length == 0) && (h.cop != 4 || decide (h.root < ms.length)) &&
  (if reduces then
     (match Rop.ofCode h.rop with
      | some o => ropOk o (CollHdr.ty h) && (h.efmt != 10 || decide (3 ≤ h.rop))
      | none => false)
   else h.rop == 0) &&
  (leAt r 2 1 != 0 || decide (leAt r 8 8 + h.count * hdrZ h ≤ size)) &&
  (leAt r 3 1 != 0 || decide (leAt r 0x10 8 + rows * len ≤ size))

/-! ### Messages -/

/-- The job of a context, and its rank. -/
def ctxJob (s : State) (ctx : Nat) : Nat × Nat :=
  match (Map.find s.ctxs ctx).bind Ctx.job with | some j => (j.job, j.rank % 512) | none => (0, 0)

/-- R374: the rank that reduces a collective on a CGID of a job, if it is bound. -/
def reducerOf (s : State) (job cgid : Nat) (h : CollHdr) : Option Nat :=
  if h.cop ≤ 2 then (s.switchRed.find? (fun b => b.job == job && b.cgid == cgid)).map SwitchBind.rank else none

/-- The members of a collective but this one, with their ranks. -/
def Coll.others (c : Coll) : List (Nat × Nat) := (c.members.mapIdx (fun i r => (i, r))).filter (fun x => x.1 != c.me)

/-- The packet of a step of this member: of a chunk, its 64 bytes filled up with zeros (R360), or of a header. DESIGN CHOICE, log 49. -/
def stepPacket (s : State) (o : CopyOp) (c : Coll) (dest tag idx len : Nat) (data : Line) : Packet :=
  { mkPacket s o.ctx 0x11 dest 0 tag with
    cgid := c.cgid, seqk := c.k % 2 ^ 16, member := c.me, mcount := c.members.length, chunk := idx,
    fmtop := c.hdr.efmt + 16 * c.hdr.rop, plen := len, payload := data }

/-- A step is a request like any other: it is answered, refused or unanswered (R341, R347, R351). Its address is in the
message window. DEDUCED, log 103. -/
def stepReq (s : State) (core : Nat) (o : CopyOp) (p : Packet) : State :=
  { s with fabReqs := Map.put s.fabReqs p.tag { copyReq o core p true with va := 0xFE00000000001000, sent := s.tick } }

/-- This member's header to another member (R349, R358). DEDUCED, log 103. -/
def sendHeader (s : State) (core : Nat) (o : CopyOp) (c : Coll) (dest : Nat) : State :=
  let (tag, s1) := s.takeId
  let p := stepPacket s1 o c dest tag 0 hdrLen (hdrLine c.hdr)
  sendOut (stepReq s1 core o p) p (.coll dest { pktStep p with k := c.k, body := .header c.hdr })

/-- The notice that this member killed its part, to every other member (R351). -/
def sendKilled (s : State) (o : CopyOp) (c : Coll) : State :=
  c.others.foldl (fun s x => s.send (.coll x.2 { pktStep (stepPacket s o c x.2 0 0 64 0) with k := c.k, body := .killed })) s

/-- Sends a chunk to a rank; one for this device itself comes back to it by its own switch (R358). -/
def sendChunk (s : State) (core : Nat) (o : CopyOp) (c : Coll) (dest idx : Nat) (data : Line) : State :=
  let (tag, s1) := s.takeId
  let p := stepPacket s1 o c dest tag idx 64 data
  sendOut (stepReq s1 core o p) p (.coll dest (pktStep p))

/-- R347: a step that was refused is sent again after a RETRY: a header to its member, a chunk to all that receive it. DEDUCED, log 103. -/
def Coll.unsend (c : Coll) (p : Packet) : Coll :=
  if p.plen == hdrLen then { c with told := c.told.filter (fun i => c.members.getD i 0 != p.dest) }
  else { c with chunks := c.chunks.filter (fun x => !(x.1 == c.me && x.2.1 == p.chunk)) }

/-- What a message adds: a header by its sender's rank, whatever its sender's grid makes of it; a chunk that is there already is discarded (R402), and a reduced chunk comes from H alone (R374). -/
def Coll.take (c : Coll) (m : CollMsg) : Coll :=
  let chunk (mem i : Nat) (d : Line) : Coll :=
    if c.chunks.any (fun x => x.1 == mem && x.2.1 == i) then c else { c with chunks := c.chunks ++ [(mem, i, d)] }
  match m.body with
  | .header h => if c.headers.any (fun x => x.1 == m.src) then c else { c with headers := c.headers ++ [(m.src, h)] }
  | .chunk i _ d => chunk m.member i d
  | .reduced i _ d => if c.reduced == some m.src then chunk 0xFFFF i d else c
  | .killed => { c with killed := true }

/-- The messages held for a collective are taken. -/
def absorb (s : State) (core : Nat) (o : CopyOp) : State :=
  match o.coll with
  | none => s
  | some c =>
    if !c.begun then s
    else
      let job := (ctxJob s o.ctx).1
      let mine := s.collIn.filter (fun m => CollMsg.isFor m job c)
      let c1 := mine.foldl Coll.take c
      modOp { s with collIn := s.collIn.filter (fun m => !CollMsg.isFor m job c) } core o.id (fun o => { o with coll := some c1 })

/-- R349: a header of operation k differs from this member's. DEDUCED, log 47. -/
def Coll.bad (c : Coll) : Bool := c.headers.any (fun x => x.2 != c.hdr)

/-- R349: every other member's header has arrived and is the same. -/
def Coll.matched (c : Coll) : Bool :=
  !c.bad && (List.range c.members.length).all (fun i => i == c.me || c.headers.any (fun x => x.1 == c.members.getD i 0))

/-! ### Acceptance (R349) -/

/-- A collective of the context on the CGID is in flight, or one that reached the engine earlier waits. -/
def cgidBehind (s : State) (o : CopyOp) (cgid : Nat) : Bool :=
  s.cores.any (fun c => c.2.ops.any (fun q => q.ctx == o.ctx && q.id != o.id && q.onCgid cgid && (q.begun || decide (q.id < o.id))))

/-- The operation begins: it takes its sequence number and sends its header. -/
def beginColl (s : State) (core : Nat) (g : Group) (o : CopyOp) (r : List Byte) : State :=
  let h := hdrOf r
  let rank := (ctxJob s o.ctx).2
  let ms := collMembers h rank
  let cgid := leAt r 0x1C 2
  let (rows, len) := collRows h ms.length
  let k := match Map.find s.ctxs o.ctx with | some c => Map.get 0 c.cgSeq cgid | none => 0
  let c : Coll :=
    { cgid := cgid, begun := true, k := k, hdr := h, me := (findIdx ms (fun m => m == rank)).getD 0, members := ms,
      told := List.range ms.length, headers := [],
      chunks := [], reduced := reducerOf s (ctxJob s o.ctx).1 cgid h, killed := false }
  let o1 := { o with
    srcSp := if leAt r 2 1 == 0 then .team g.team else .va, dstSps := [if leAt r 3 1 == 0 then .team g.team else .va],
    rows := (List.range rows).map (fun i => (leAt r 8 8, leAt r 0x10 8 + i * len)), srcLen := len, dstLen := len, coll := some c }
  if (destLines s g o1).any (fun x => s.absent.contains x.1) then s
  else
    let s1 := acceptLines s core g o1
    let s2 := { s1 with ctxs := Map.modify s1.ctxs o.ctx (fun c => { c with cgSeq := Map.set 0 c.cgSeq cgid (k + 1) }) }
    c.others.foldl (fun s x => sendHeader s core o1 c x.2) s2

/-- A collective with its record: refused, waiting on its CGID, or begun. -/
def acceptColl (s : State) (core : Nat) (g : Group) (o : CopyOp) (r : List Byte) : State :=
  if leAt r 0 2 != 3 || !collRecordOk r (ctxJob s o.ctx).2 (teamSize s g) then
    modOp s core o.id (fun o => { (o.refuse cIllegal 4 0) with coll := none })
  else if cgidBehind s o (leAt r 0x1C 2) then modOp s core o.id (fun o => { o with coll := some (waitingColl (leAt r 0x1C 2)) })
  else beginColl s core g o r

/-- The engine reads an operation's extended record: what TRIG read, or 64 bytes by the group's translation. -/
def recordOf (s : State) (core : Nat) (g : Group) (o : CopyOp) : CRes (List Byte × State) :=
  if o.known.isEmpty then copyRead s g core o (bits o.word0 55 0) 64 else .ok (o.known, s)

/-- R246, R273, R348: the engine accepts an operation. -/
def acceptOp (s : State) (core : Nat) (g : Group) (o : CopyOp) : State :=
  let ext := match o.instr with | .cpyt _ | .trig _ => bits o.word0 63 60 == 2 | _ => false
  if !ext then acceptLines s core g (resolvePlain g o)
  else
    match recordOf s core g o with
    | .error .wait => s
    | .error (.ask s1) => s1
    | .error (.fault _ c d x a) => stopCopy s core o c d x a
    | .ok (r, s1) =>
      if o.cls == .coll then acceptColl s1 core g o r
      else acceptLines s1 core g (resolveTile s1 core g o r)

/-- A response to an operation's read has come: the line it asked for is kept, and its request is over. -/
def deliver (s : State) (core : Nat) (o : CopyOp) (data : List Byte) : State :=
  if data.isEmpty || !linked s then s
  else
    match s.fabReqs.find? (fun r => r.2.copy == some o.id && r.2.pkt.cls == 0) with
    | none => s
    | some (tag, r) =>
      modOp { s with fabReqs := Map.del s.fabReqs tag } core o.id (fun o => { o with
        got := Map.put o.got (farKeyPeer r.pkt.dest r.pkt.addr.toNat) (lineOf data) })

/-- A held collective issues: its counter goes up, its flag is marked, its split goes on (R349). -/
def unholdColl (s : State) (core : Nat) (g : Group) (o : CopyOp) : State :=
  if g.holdsWith o.flag o.instr then s
  else
    let g1 := ({ g with splits := Map.modify g.splits o.pos (fun sp => { sp with wait := .none }) }.advance o.pos).markFlag o.flag
    let e : Entry :=
      { id := o.id, instr := o.instr, op := .result, pc := o.pc, pos := o.pos, mine := true, act := o.mask, mask := o.mask, addr := [],
        data := [], cmp := [],
        flag := o.flag, logged := false, ref := none, done := o.mask, sent := 0, fault := 0, outs := [], fpf := 0, fails := false, ready := false }
    let g2 := { (g1.setOc .coll (g1.oc .coll + 1)) with entries := g1.entries ++ (if o.flag.isSome then [e] else []) }
    modOp (s.putG o.gid g2) core o.id (fun o => { o with held := false, coll := none })

/-- A held collective whose split is no longer there is forgotten. -/
def forgetOp (s : State) (core op : Nat) : State :=
  let k := s.coreAt core
  s.putCore core { k with ops := k.ops.filter (fun q => q.id != op) }

/-- A held collective whose record faults issues, and its engine stops (R347, R348). -/
def faultHeld (s : State) (core : Nat) (g : Group) (o : CopyOp) (cause detail aux : Nat) (va : DWord) : State :=
  let s1 := unholdColl s core g o
  match (s1.coreAt core).findOp o.id with
  | some o1 => if o1.held then s1 else stopCopy s1 core o1 cause detail aux va
  | none => s1

/-- A held collective reads its record, to know its CGID (R348). DEDUCED, log 19. -/
def readHeld (s : State) (core : Nat) (g : Group) (o : CopyOp) : State :=
  if o.coll.isSome then s
  else if !(g.splits.any (fun p => p.2.wait == .coll o.id)) then forgetOp s core o.id
  else
    match recordOf s core g o with
    | .error .wait => s
    | .error (.ask s1) => s1
    | .ok (r, s1) => modOp s1 core o.id (fun o => { o with coll := some (waitingColl (leAt r 0x1C 2)) })
    | .error (.fault s1 k d x a) => faultHeld s1 core g o k d x a

/-- COLLECTIVE_ACCEPT: a collective that waits on its CGID is accepted once the earlier ones complete (R349); one whose split
is no longer there is forgotten. -/
def execCollectiveAccept (core op : Nat) (s : State) : Host.Outcome State Fault Refusal :=
  match (s.coreAt core).findOp op with
  | none => .next s
  | some o =>
    match Map.find s.groups o.gid, o.coll with
    | some g, some c =>
      if o.begun || o.accepted || o.stopped || o.abandon || cgidBehind s o c.cgid then .next s
      else if !o.held then .next (acceptOp s core g o)
      else if !(g.splits.any (fun p => p.2.wait == .coll o.id)) then .next (forgetOp s core o.id)
      else if g.parked || g.stopped then .next s
      else
        let s1 := unholdColl s core g o
        match (s1.coreAt core).findOp op, Map.find s1.groups o.gid with
        | some o1, some g1 => if o1.held then .next s1 else .next (acceptOp s1 core g1 o1)
        | _, _ => .next s1
    | _, _ => .next s

/-! ### Data (R350, R374) -/

/-- 64-byte chunks of a contribution. -/
def Coll.chunkCount (c : Coll) : Nat := ceilDiv (c.hdr.count * hdrZ c.hdr) 64

def Coll.chunk (c : Coll) (m i : Nat) : Option Line := (c.chunks.find? (fun x => x.1 == m && x.2.1 == i)).map (fun x => x.2.2)

/-- This member sends data: every member, but for a broadcast the root alone. -/
def Coll.sends (c : Coll) : Bool := c.hdr.cop != 4 || c.me == c.hdr.root

/-- A chunk of this member's contribution is read and sent to the members, or to the reducer once (R374). -/
def streamChunk (s : State) (core : Nat) (g : Group) (o : CopyOp) (c : Coll) (i : Nat) : State :=
  if !c.matched || !c.sends || c.chunkCount ≤ i || (c.chunk c.me i).isSome then s
  else
    let len := min 64 (c.hdr.count * hdrZ c.hdr - 64 * i)
    match sourceRead s g core o ((o.rows.getD 0 (0, 0)).1 + 64 * i) len with
    | .error .wait => s
    | .error (.ask s1) => s1
    | .error (.fault _ e d x a) => stopCopy s core o e d x a
    | .ok (bs, s1) =>
      let line := lineOf (bs ++ List.replicate (64 - len) 0)
      let s2 := modOp s1 core o.id (fun o => { o with
        got := [], coll := o.coll.map (fun c => { c with chunks := c.chunks ++ [(c.me, i, line)] }) })
      match c.reduced with
      | some h => sendChunk s2 core o c h i line
      | none => c.others.foldl (fun s x => sendChunk s core o c x.2 i line) s2

/-- Bytes of a member's contribution, once their chunks are here. -/
def Coll.bytes (c : Coll) (m a n : Nat) : Option (List Byte) :=
  let ps := (lineParts a n).map (fun p => (c.chunk m (p.1 / 64)).map (fun l => lineBytes l (p.1 % 64) p.2))
  if ps.all Option.isSome then some (ps.flatMap (fun p => p.getD [])) else none

/-- R350: the fold of one element in ascending member order. -/
def foldElem (o : Rop) (t : Ty) : List Nat → Nat
  | [] => 0
  | x :: xs => xs.foldl (fun a b => (combine o t a b).bits) x

/-- The reduction of bytes `a` to `a + n` of the contributions, `a` and `n` being whole elements. -/
def Coll.reduce (c : Coll) (a n : Nat) : Option (List Byte) :=
  let z := hdrZ c.hdr
  if c.reduced.isSome then c.bytes 0xFFFF a n
  else
    let xs := (List.range c.members.length).map (fun m => c.bytes m a n)
    if xs.all Option.isSome then
      some ((List.range (n / z)).flatMap (fun e => leBytes z
        (foldElem ((Rop.ofCode c.hdr.rop).getD .add) (CollHdr.ty c.hdr) (xs.map (fun x => leAt (x.getD []) (e * z) z)))))
    else none

/-- The bytes of a destination piece (R350). -/
def collBytes (c : Coll) (row off n : Nat) : Option (List Byte) :=
  let z := hdrZ c.hdr
  match c.hdr.cop with
  | 3 => c.bytes row off n
  | 4 => c.bytes c.hdr.root off n
  | k =>
    let base := if k == 2 then c.me * (c.hdr.count / c.members.length) * z else 0
    let a := (base + off) / z * z
    let b := ceilDiv (base + off + n) z * z
    (c.reduce a (b - a)).map (fun bs => (bs.drop (base + off - a)).take n)

/-- A header that was refused is sent again. -/
def retell (s : State) (core : Nat) (o : CopyOp) (c : Coll) : State :=
  match c.others.find? (fun x => !c.told.contains x.1) with
  | none => s
  | some x =>
    modOp (sendHeader s core o c x.2) core o.id (fun o => { o with coll := o.coll.map (fun c => { c with told := c.told ++ [x.1] }) })

/-- A step of a collective's engine: with `n` 0 a header goes again, or chunk `first` of the contribution is sent, else a
piece of the destination lands. -/
def collLand (s0 : State) (core : Nat) (o0 : CopyOp) (first n : Nat) : State :=
  let s := absorb s0 core o0
  match (s.coreAt core).findOp o0.id with
  | none => s
  | some o =>
    match Map.find s.groups o.gid, o.coll with
    | some g, some c =>
      if c.killed || c.bad then s
      else if n == 0 && c.told.length < c.members.length then retell s core o c
      else if !c.matched then s
      else if n == 0 then streamChunk s core g o c first
      else if !o.pieceOk s core first n then s
      else
        match collBytes c (first / o.dstLen) (first % o.dstLen) n with
        | none => s
        | some bs => landBytes s core g o first bs []
    | _, _ => s

/-- A piece of a copy, gather or scatter lands. -/
def copyLand (s : State) (core : Nat) (o : CopyOp) (first n : Nat) : State :=
  match Map.find s.groups o.gid with
  | none => s
  | some g =>
    let row := first / o.dstLen
    if !o.pieceOk s core first n || o.rowHeld row then s
    else
      match pieceData s g core o row (first % o.dstLen) n with
      | .error .wait => s
      | .error (.ask s1) => s1
      | .error (.fault _ c d x a) => stopCopy s core o c d x a
      | .ok (bs, outs, s1) => landBytes (modOp s1 core o.id (fun o => { o with got := [] })) core g o first bs outs

/-- COPY_LINE_LANDED: destination bytes `first` to `first + count`, counted over all rows, land (R246, R275); a source at a
peer is asked for first, and `data` is its answer. DESIGN CHOICE, log 22. -/
def execCopyLineLanded (core op first count : Nat) (data : List Byte) (s : State) : Host.Outcome State Fault Refusal :=
  match (s.coreAt core).findOp op with
  | none => .next s
  | some o0 =>
    let s1 := deliver s core o0 data
    match (s1.coreAt core).findOp op with
    | none => .next s1
    | some o =>
      if !o.accepted || o.stopped || o.abandon || o.finished then .next s1
      else if o.coll.isSome then .next (collLand s1 core o first count)
      else .next (copyLand s1 core o first count)

/-- Whether a collective has nothing left to do at this member. -/
def collOver (o : CopyOp) (c : Coll) : Bool :=
  o.allLanded && o.flight.isEmpty &&
  (List.range c.chunkCount).all (fun i => (!c.sends || (c.chunk c.me i).isSome) && (c.reduced.isNone || (c.chunk 0xFFFF i).isSome))

/-- R349, R351: a collective completes. -/
def completeColl (s : State) (core : Nat) (o : CopyOp) (c : Coll) : State :=
  if c.killed then finishCopy s core (o.later cCollMismatch 3 0)
  else if c.bad then finishCopy s core (o.later cCollMismatch 1 0)
  else if o.abandon then finishCopy (sendKilled s o c) core (o.later cCollMismatch 3 0)
  else if collOver o c && !o.stopped then finishCopy s core o
  else s

/-- COPY_COMPLETE: every byte is landed and acknowledged, or the operation is abandoned (R276). -/
def execCopyComplete (core op : Nat) (s : State) : Host.Outcome State Fault Refusal :=
  match (s.coreAt core).findOp op with
  | none => .next s
  | some o0 =>
    let s1 := absorb s core o0
    match (s1.coreAt core).findOp op with
    | none => .next s1
    | some o =>
      if o.finished || o.held || !o.flight.isEmpty then .next s1
      else
        match o.coll with
        | some c => if c.begun then .next (completeColl s1 core o c)
                    else if o.abandon then .next (finishCopy s1 core o) else .next s1
        | none =>
          if o.abandon || (o.accepted && !o.stopped && o.allLanded) then .next (finishCopy s1 core o) else .next s1

end Sys2Proof.Machine
end

