-- ==== Sys2Proof/Machine/Trigger.lean ====
section
/-!
DEFINITION. Triggered commands (R353 to R355), the global time counter (R352), and what comes back from peers: responses,
acknowledgements, NACKs and time-outs (R346, R347), and collective steps (R341, R349).
-/
namespace Sys2Proof.Machine

/-! ### Arming and firing -/

/-- R353: the checks of an extended record when a command is armed. DEDUCED, log 47. -/
def trigRecordOk (s : State) (core : Nat) (g : Group) (o : CopyOp) (r : List Byte) : Bool :=
  if o.cls == .coll then leAt r 0 2 == 3 && collRecordOk r (ctxJob s o.ctx).2 (teamSize s g)
  else
    tileRecordOk s g o.cls r &&
    (leAt r 3 1 != 3 ||
     (match heldResv s core o.ctx (leAt r 0x2A 1) (leAt r 0x2C 2) with
      | some x =>
        let n := leAt r 0x1C 4
        let dsz := ((Ty.ofCode (leAt r 7 1 / 16)).getD .i32).bits / 8
        let ssz := ((Ty.ofCode (leAt r 7 1 % 16)).getD .i32).bits / 8
        resvFits x (leAt r 6 1) (leAt r 0x10 8) (leAt r 0x18 4) (leAt r 0x24 4) (if leAt r 6 1 == 1 then n / ssz * dsz else n) (n / 4)
      | none => false))

/-- R354: the trigger table takes the command, or is full; the handle it answers. DEDUCED, log 60. -/
def arm (s : State) (core : Nat) (o : CopyOp) : Nat × State :=
  let mine := (s.triggers.filter (fun t => t.op.ctx == o.ctx)).length
  match lowestFree (s.triggers.map Trig.slot) 1024 0 with
  | none => (0xFFFFFFFF, s)
  | some i =>
    if 64 ≤ mine then (0xFFFFFFFF, s)
    else
      let gen := (Map.get 0 s.trigGens i + 1) % 2 ^ 16
      let (id, s1) := s.takeId
      (gen * 2 ^ 16 + i,
       { s1 with
         trigGens := Map.set 0 s.trigGens i gen,
         triggers := s1.triggers ++ [{ slot := i, gen := gen, core := core, time := o.window, order := id, due := false,
                                       op := { o with id := id, stamp := id, flag := none } }],
         groups := Map.modify s1.groups o.gid (fun g => g.setOc o.cls (g.oc o.cls + 1)) })

/-- The hub hands a command to its core's engine (R354). DEDUCED, log 60. -/
def fireOne (s : State) (t : Trig) : State :=
  let (id, s1) := s.takeId
  let c := s1.coreAt t.core
  { (s1.putCore t.core { c with ops := c.ops ++ [{ t.op with id := id }] }) with
    triggers := s.triggers.filter (fun x => x.order != t.order), fired := s.fired ++ [(t.slot, t.gen, t.op.ctx)] }

/-- A context's triggers do not fire while it is frozen (R400). -/
def ctxFrozen (s : State) (ctx : Nat) : Bool := match Map.find s.ctxs ctx with | some x => x.frozen | none => false

/-- Due commands in ascending threshold order, ties in arming order. DEDUCED, log 60. -/
def dueTriggers (s : State) : List Trig :=
  sortBy (fun (t : Trig) => [t.time.toNat, t.order]) (s.triggers.filter (fun t => t.due && !ctxFrozen s t.op.ctx))

/-- Everything that an update has reached is handed over before anything else at the hub. -/
def fireDue (s : State) : State := (dueTriggers s).foldl fireOne s

/-- TRIGGER_FIRE: the first due command is handed to its engine (R354). -/
def execTriggerFire (s : State) : Host.Outcome State Fault Refusal :=
  match dueTriggers s with
  | t :: _ => .next (fireOne s t)
  | [] => .next s

/-- TRIG with its record known: armed, and the handle written (R354). -/
def armNow (s : State) (c : Iss) (i : Instr) (o : CopyOp) : State :=
  let s0 := fireDue s
  let (h, s1) := arm s0 c.g.core o
  let dst := match i with | .trig f => f.r.dst.toNat | _ => 0
  match Map.find s1.groups c.gid with
  | some g => postDoneAs s1 { c with g := g } i o.flag [.s dst (BitVec.ofNat 64 h)]
  | none => s1

/-- The split waits while the engine reads a record it cannot read at once (R354, R434). DEDUCED, log 60. -/
def holdTrig (s : State) (c : Iss) (o : CopyOp) : State :=
  let (id, s1) := s.takeId
  let s2 := s1.putG c.gid { c.g with splits := Map.modify c.g.splits c.pos (fun sp => { sp with wait := .coll id }) }
  let k := s2.coreAt c.g.core
  s2.putCore c.g.core { k with ops := k.ops ++ [{ o with id := id, stamp := id, held := true }] }

/-- TRIG: a copy or collective is armed to fire at a global time (R353, R354). -/
def execTrig (f : EFmt) (s : State) : Host.Outcome State Fault Refusal :=
  asOnce f.r.g s (fun c => do
    let i : Instr := .trig f
    let o := { c.copyOp f i f.cc with window := c.g.rdS c.fc f.trg.toNat }
    if !shapeOk o.word0 o.word1 f.cc then throw (illegal 0x04)
    if !linearFits s c.g o.word0 o.word1 then
      throw (.trap { cause := cPerm, detail := 4, lanes := c.act,
                     addr := (lanesOf c.act).map (fun l => (l, BitVec.ofNat 64 (bits o.word1 31 0))) })
    barAlign c f
    holdAtIssue c i
    if bits o.word0 63 60 == 1 then return armNow s c i o
    else
      match copyRead s c.g c.g.core { o with stamp := s.nextId } (bits o.word0 55 0) 64 with
      | .ok (r, s1) =>
        if trigRecordOk s1 c.g.core c.g o r then return armNow s1 c i { o with known := r } else throw (illegal 0x04)
      | .error (.fault _ k d a va) =>
        throw (.trap { cause := k, detail := d, aux := a, addr := [(lowLane c.act, va)] })
      | .error .wait => throw .wait
      | .error (.ask _) => return holdTrig s c o)

/-- A held TRIG ends its wait: its operation is forgotten, and its split stands at the instruction. -/
def unholdTrig (s : State) (core : Nat) (o : CopyOp) : State :=
  let k := s.coreAt core
  let s1 := s.putCore core { k with ops := k.ops.filter (fun q => q.id != o.id) }
  { s1 with groups := Map.modify s1.groups o.gid (fun g => { g with
      splits := Map.modify g.splits o.pos (fun sp => if sp.wait == .coll o.id then { sp with wait := .none } else sp) }) }

/-- The precise trap of a held TRIG (R434). -/
def trapTrig (s : State) (core : Nat) (o : CopyOp) (cause detail aux : Nat) (va : DWord) : State :=
  raiseTrap (unholdTrig s core o) { gid := o.gid, pos := o.pos, pc := o.pc, act := o.mask, kind := 0, ref := 0 }
    { cause := cause, detail := detail, aux := aux, addr := [(lowLane o.mask, va)] }

/-- A held TRIG goes on reading its record; once it is read and its flag can be marked (R54), the command is armed. -/
def readTrig (s : State) (core : Nat) (o : CopyOp) : State :=
  match Map.find s.groups o.gid with
  | none => unholdTrig s core o
  | some g =>
    match Map.find g.splits o.pos with
    | none => unholdTrig s core o
    | some sp =>
      if sp.wait != .coll o.id then unholdTrig s core o
      else
        match copyRead s g core o (bits o.word0 55 0) 64 with
        | .error .wait => s
        | .error (.ask s1) => s1
        | .error (.fault _ k d a va) => trapTrig s core o k d a va
        | .ok (r, s1) =>
          if !trigRecordOk s1 core g o r then trapTrig s1 core o cIllegal 4 0 0
          else if g.flagFull o.flag then s
          else
            let s2 := unholdTrig s1 core o
            match issuer { s2 with cur := some (o.gid, o.pos) } { p := 0, neg := false } with
            | some c => armNow s2 { c with act := o.mask, on := o.mask } o.instr { o with held := false, known := r, got := [] }
            | none => s2

/-- COPY_ACCEPT: the engine accepts an operation, or goes on reading its record; so for a TRIG or a collective that waits. -/
def execCopyAccept (core op : Nat) (data : List Byte) (s : State) : Host.Outcome State Fault Refusal :=
  match (s.coreAt core).findOp op with
  | none => .next s
  | some o0 =>
    let s1 := deliver s core o0 data
    match (s1.coreAt core).findOp op with
    | none => .next s1
    | some o =>
      match Map.find s1.groups o.gid with
      | none => .next s1
      | some g =>
        if o.held then (match o.instr with | .trig _ => .next (readTrig s1 core o) | _ => .next (readHeld s1 core g o))
        else if o.accepted || o.stopped || o.abandon then .next s1
        else .next (acceptOp s1 core g o)

/-- TRIGCAN: an armed command is cancelled, or was fired, or there is none (R355). DEDUCED, log 60. -/
def execTrigcan (f : EFmt) (s : State) : Host.Outcome State Fault Refusal :=
  asOnce f.r.g s (fun c => do
    holdAtIssue c (.trigcan f)
    let h := (c.g.rdS c.fc f.r.a.toNat).toNat
    let out (n : Nat) : List RegWrite := [.s f.r.dst.toNat (BitVec.ofNat 64 n)]
    let s0 := fireDue s
    match s0.triggers.find? (fun t => t.slot + t.gen * 2 ^ 16 == h && t.op.ctx == c.g.ctx) with
    | some t =>
      let s1 := postDone { s0 with triggers := s0.triggers.filter (fun x => x.order != t.order) } c (.trigcan f) (out 0)
      let k := s1.coreAt t.core
      return retire (s1.putCore t.core { k with ops := k.ops ++ [{ t.op with finished := true }] }) t.core t.op.gid t.op.cls
    | none =>
      return postDone s0 c (.trigcan f)
        (out (if s0.fired.any (fun x => x.1 + x.2.1 * 2 ^ 16 == h && x.2.2 == c.g.ctx) then 1 else 2)))

/-! ### Time (R5, R352, R425) -/

/-- An update of GTC: 0.5 ns and the discipline's correction, in units of 2^-32 ns. DEDUCED, log 59. -/
def gtcAdd (s : State) : DWord × Word :=
  let v : Int := ((s.gtc.toNat * 2 ^ 32 + s.gtcf.toNat : Nat) : Int) + 2 ^ 31 + s.slew
  (BitVec.ofNat 64 (v / 2 ^ 32).toNat, BitVec.ofNat 32 (v % 2 ^ 32).toNat)

/-- R354, R400: a command whose threshold the update reaches is due; none of a frozen context. -/
def markDue (s : State) : State :=
  { s with triggers := s.triggers.map (fun t =>
      if decide (t.time.toNat ≤ s.gtc.toNat) && !ctxFrozen s t.op.ctx then { t with due := true } else t) }

/-- GTC_UPDATE: one network clock passes (R352). DESIGN CHOICE, log 10. DEDUCED, log 59. -/
def execGtcUpdate (s : State) : Host.Outcome State Fault Refusal :=
  let s1 := fireDue s
  let (ns, fr) := gtcAdd s1
  .next (markDue { s1 with tick := s1.tick + 1, clk := s1.clk + clockTenths s1, gtc := ns, gtcf := fr })

/-- R352: the correction of at most 200 parts per million of an update. DEDUCED, log 59. -/
def clampSlew (r : Int) : Int := max (-429496) (min 429496 r)

/-- PTP_MESSAGE: a message of the device's own PTP domain steers the discipline (R352). DEDUCED, log 59. -/
def execPtpMessage (domain : Nat) (rate : Int) (s : State) : Host.Outcome State Fault Refusal :=
  if domain == s.ptpDomain then .next { s with slew := clampSlew rate } else .next s

/-! ### Answers of peers -/

/-- R346: a peer's acknowledgement: of a posted write of a group, of a piece of a copy, or of a packet a kernel sent. -/
def ackReq (s : State) (tag : Nat) (r : FabReq) : State :=
  let s1 := { s with fabReqs := Map.del s.fabReqs tag }
  match r.copy, r.scribe with
  | some id, _ =>
    (match (s1.coreAt r.core).findOp id, Map.find s1.groups r.gid with
     | some o, some g =>
       (match o.flight.find? (fun x => x.1 == tag) with
        | some x =>
          let s2 := modOp s1 r.core id (fun o => { o with flight := o.flight.filter (fun y => y.1 != tag) })
          pieceLanded (o.uncache s2 [farKeyPeer r.pkt.dest r.pkt.addr.toNat]) r.core g { o with flight := o.flight.filter (fun y => y.1 != tag) } x.2.1 x.2.2 [] []
        | none => s1)
     | _, _ => s1)
  | none, some _ => s1
  | none, none => { s1 with groups := Map.modify s1.groups r.gid (fun g => { g with acks := g.acks - 1 }) }

/-- ACK_RECEIVED: of a posted write, or of a line of a LAUNCH's record (R146, R346). -/
def execAckReceived (req : Nat) (s : State) : Host.Outcome State Fault Refusal :=
  match Map.find s.fabReqs req with
  | none => .next s
  | some r => if !linked s then .next s else if r.posted then .next (ackReq s req r) else if r.pkt.cls == 1 then .next (ringAcked s req r) else .next s

/-- R367, R373: what a NACK of a kernel's packet comes to: a trap record of its job, or, of a trap record, a count. DEDUCED, log 79. -/
def nackScribe (s : State) (r : FabReq) (proc what detail : Nat) : State :=
  if what == 1 then { s with fabErrs := s.fabErrs + 1 }
  else
    match (s.scribeAt proc).jobs.find? (fun j => j.job == r.pkt.job) with
    | none => s
    | some j =>
      sendRecord s proc j 8 detail (Config.freeWord (s.free * 2 ^ 64)).toNat (Config.freeWord (s.free * 2 ^ 64 + 1)).toNat r.pkt

/-- The data of an entry whose ring write has stopped: after RETRY the check and the append are made again (R146). DEDUCED, log 107. -/
def Entry.noRing (e : Entry) : SMap (BitVec 128) := if isLaunch e.instr then Map.del e.data ringPart else e.data

/-- R347: a group holds 16 faulted writes: a further one is sent again. DEDUCED, log 91. -/
def heldFull (s : State) (gid : Nat) : Bool :=
  match Map.find s.groups gid with
  | some g => decide (16 ≤ g.held.length)
  | none => false

/-- R347: a fault record reaches whoever asked; a lane for which the core's fault buffer has no place (R253) asks again. -/
def nackReq (s : State) (tag : Nat) (r : FabReq) (detail : Nat) : State :=
  let s1 := { s with fabReqs := Map.del s.fabReqs tag }
  let va := r.va
  match r.copy, r.scribe with
  | some id, _ =>
    (match (s1.coreAt r.core).findOp id with
     | none => s1
     | some o =>
       if o.held then
         (match o.instr with
          | .trig _ => trapTrig s1 r.core o cRemote detail r.pkt.dest va
          | _ =>
            match Map.find s1.groups o.gid with
            | some g => if g.splits.any (fun p => p.2.wait == .coll o.id) then faultHeld s1 r.core g o cRemote detail r.pkt.dest va else s1
            | none => s1)
       else if o.finished || o.abandon then
         modOp s1 r.core id (fun o => { o with flight := o.flight.filter (fun y => y.1 != tag) })
       else
         let s2 := modOp s1 r.core id (fun o => { o with
           flight := o.flight.filter (fun y => y.1 != tag),
           coll := if r.pkt.cls == 0x11 then o.coll.map (fun c => c.unsend r.pkt) else o.coll })
         stopCopy s2 r.core o cRemote detail r.pkt.dest va)
  | none, some (proc, what) => nackScribe s1 r proc what detail
  | none, none =>
    if r.posted && heldFull s1 r.gid then sendReq s1 r
    else if r.posted then
      { s1 with groups := Map.modify s1.groups r.gid (fun g => { g with
          held := g.held ++ [{ tag := tag, pkt := r.pkt, va := r.va, detail := detail, pc := r.pc, pos := r.pos,
                               lane := lowLane r.lanes, mask := r.mask, raised := false, seen := r.seen }] }) }
    else
      match (Map.find s1.groups r.gid).bind (fun g => g.entries.find? (fun e => e.id == r.entry)) with
      | none => s1
      | some e =>
        let s2 := modEntry s1 r.gid e.id (fun e => { e with sent := maskMinus e.sent r.lanes, data := e.noRing })
        (lanesOf r.lanes).foldl (fun s l =>
          laneFault s r.gid e l (if isLaunch e.instr then r.va else Map.get 0 e.addr l) cRemote detail r.pkt.dest) s2

/-- NACK_RECEIVED (R347). -/
def execNackReceived (req detail : Nat) (s : State) : Host.Outcome State Fault Refusal :=
  match Map.find s.fabReqs req with
  | none => .next s
  | some r => if !linked s then .next s else .next (nackReq s req r detail)

/-- REMOTE_REQUEST_TIMEOUT: no answer after 2 ms, 4,000,000 network clocks: the port makes the record itself (R347). DEDUCED, log 61. -/
def execRemoteRequestTimeout (req : Nat) (s : State) : Host.Outcome State Fault Refusal :=
  match Map.find s.fabReqs req with
  | none => .next s
  | some r => if s.tick < r.sent + 4000000 then .next s else .next (nackReq s req r 3)

/-! ### Collective steps (R341, R349, R358) -/

/-- Whether an ingress hook takes a header or the data of a step: it comes by PACKET_ACCEPT. -/
def stepHooked (s : State) (m : CollMsg) : Bool :=
  match m.body with
  | .header _ | .chunk _ _ _ | .reduced _ _ _ => s.hooks.any (fun h => h.job == m.job && h.dir == 0 && h.kind == 0 && h.cgid == m.cgid)
  | _ => false

/-- COLLECTIVE_STEP: a header or chunk is kept for its operation; of a job not held here it is counted and dropped. DESIGN CHOICE, log 49. -/
def execCollectiveStep (m : CollMsg) (s : State) : Host.Outcome State Fault Refusal :=
  .next (if !linked s || stepHooked s m && (ctxOfJob s m.job).isSome then s else takeStep s m)

end Sys2Proof.Machine
end

