-- ==== Sys2Proof/Machine/Command.lean ====
section
/-!
DEFINITION. The hub's registers and its command path: BAR 0 (R9, R35, R254, R290, R382, R394, R420, R421), shootdowns
(R256), who may do what (R421), and how a command ends.
-/
namespace Sys2Proof.Machine

/-! ### Rights (R421, R436) -/

/-- The supervisor of a context, or the owner. DESIGN CHOICE, log 12, 13. -/
def supOf (s : State) (who ctx : Nat) : Bool :=
  who == Config.ownerCred || (match Map.find s.ctxs ctx with | some c => c.cred == who | none => false)

/-- The supervisor of some context, or the owner. DESIGN CHOICE, log 13. -/
def anySup (s : State) (who : Nat) : Bool := who == Config.ownerCred || s.ctxs.any (fun c => c.2.cred == who)

/-! ### Registers -/

/-- Changes a context that exists (R436). -/
def modCtx (s : State) (ctx : Nat) (f : Ctx → Ctx) : State := { s with ctxs := Map.modify s.ctxs ctx f }

/-- A command written with GO: it enters the queue with its arguments as they stand (R421). DESIGN CHOICE, log 73. -/
def mailboxGo (s : State) (val : DWord) (who : Nat) : State :=
  let c : MCmd := { who := who, mctp := false, ctx := bits val 13 8, a0 := s.mbarg0, a1 := s.mbarg1, a2 := s.mbarg2, a3 := s.mbarg3 }
  { s with cmdq := s.cmdq ++ [(bits val 7 0, c)], mbstat := 1 }

/-- The mailbox window; its registers ignore a write while BUSY is 1 (R421). DESIGN CHOICE, log 51. -/
def writeMailbox (s : State) (off : Nat) (val : DWord) (who : Nat) : State :=
  if bit s.mbstat 0 then s
  else
    match off with
    | 0x00 =>
      let s1 := { s with mbcmd := val &&& 0x80003FFF }
      if bit val 31 then mailboxGo s1 val who else s1
    | 0x08 => { s with mbarg0 := val }
    | 0x10 => { s with mbarg1 := val }
    | 0x18 => { s with mbarg2 := val }
    | 0x20 => { s with mbarg3 := val }
    | _ => s

/-- R35: the writer is the supervisor of the context that owns a queue; where its CTX names none that exists, of the one that
the written CTX names. DEDUCED, log 52. -/
def ownsQueue (s : State) (who : Nat) (x : LQueue) (val : DWord) : Bool :=
  supOf s who x.ctx || ((Map.find s.ctxs x.ctx).isNone && supOf s who (bits val 21 16))

/-- LQCTL_WRITE (R35, R42). DEDUCED, log 52. -/
def execLqctlWrite (q : Nat) (w : RegVal) (s : State) : Host.Outcome State Fault Refusal :=
  let x := s.lqAt q
  if 64 ≤ q || !ownsQueue s w.who x w.val then .next s else .next (s.putLq q { x with lqctl := lqctlNew x.lqctl w.val })

/-- LQBASE, LQSPILL and LQSPCNT: written while EN is 0 (R35); LQBASE keeps bits [55:12], as BASE is 4 KiB aligned; a
COUNT above 262,144 stands as written. DESIGN CHOICE, log 51. -/
def writeQueue (s : State) (q off : Nat) (val : DWord) (who : Nat) : State :=
  let x := Map.get LQueue.reset s.lqs q
  let put (y : LQueue) : State := { s with lqs := Map.put s.lqs q y }
  if bit x.lqctl 9 || !supOf s who (bits x.lqctl 21 16) then s
  else
    match off with
    | 0x00 => put { x with lqbase := val &&& 0x00FFFFFFFFFFF000 }
    | 0x30 =>
      let size := bits val 4 0
      let keep := if 10 ≤ size && size ≤ 24 then size else bits x.lqspill 4 0
      put { x with lqspill := (val &&& 0x00FFFFFFFFFFF000) ||| BitVec.ofNat 64 keep }
    | 0x38 => put { x with lqspcnt := val &&& 0x7FFFF }
    | _ => s

/-- The translation window: TLBIVA while no shootdown runs, and PTROOT (R254). DESIGN CHOICE, log 51. DEDUCED, log 53. -/
def writeTranslation (s : State) (off : Nat) (val : DWord) (who : Nat) : State :=
  if off == 0 then
    if s.tlbibusy || !anySup s who then s else { s with tlbiva := val &&& 0x00FFFFFFFFFF0000 }
  else if 0x1000 ≤ off && off < 0x1200 && off % 8 == 0 then
    let ctx := (off - 0x1000) / 8
    if supOf s who ctx then modCtx s ctx (fun c => { c with ptroot := val &&& 0x00FFFFFFFFFFF800 }) else s
  else s

/-- The handler window (R382). DESIGN CHOICE, log 51. -/
def writeHandler (s : State) (ctx off : Nat) (val : DWord) (who : Nat) : State :=
  if !supOf s who ctx then s
  else
    match off with
    | 0x00 => modCtx s ctx (fun c => { c with tventry := val &&& 0x00FFFFFFFFFFFFC0 })
    | 0x08 => modCtx s ctx (fun c => { c with tvroot := val &&& 0x00FFFFFFFFFFF800 })
    | 0x10 => modCtx s ctx (fun c => { c with tvstack := val &&& 0x00FFFFFFFFFF0000 })
    | 0x18 => modCtx s ctx (fun c => { c with tvctl := val &&& 1 })
    | _ => s

/-- REGISTER_WRITE: a 64-bit write to BAR 0 changes the writable fields of the register there; the registers with rows of
their own are written by those (R9, R420). DESIGN CHOICE, log 51. -/
def execRegisterWrite (off : Nat) (val : DWord) (who : Nat) (s : State) : Host.Outcome State Fault Refusal :=
  let o := off % 0x10000
  .next (match off / 0x10000 with
  | 0 => writeMailbox s o val who
  | 1 => if o < 0x1000 then writeQueue s (o / 0x40) (o % 0x40) val who else s
  | 2 => writeTranslation s o val who
  | 3 =>
    if o < 0x400 && o % 0x100 == 0 && anySup s who then
      { s with noccfg := Map.set 0x1801 s.noccfg (o / 0x100) (val &&& 0xFF01) }
    else s
  | 4 => if o < 0x800 then writeHandler s (o / 0x20) (o % 0x20) val who else s
  | _ => s)

/-- CTXSAVE_WRITE: the context's supervisor's, taken only before the context first has a team placed (R394). -/
def execCtxsaveWrite (ctx : Nat) (w : RegVal) (s : State) : Host.Outcome State Fault Refusal :=
  .next (modCtx s ctx (fun c =>
    if c.placedOnce || !supOf s w.who ctx then c else { c with ctxsave := w.val &&& 0x00FFFFFFFFE00000 }))

/-- TLBICTL_GO: the fields of TLBICTL are written, and GO starts a shootdown (R254, R256). -/
def execTlbictlGo (val : DWord) (s : State) : Host.Outcome State Fault Refusal :=
  if s.tlbibusy then .next s
  else .next { s with tlbictl := val &&& 0x1FF, tlbibusy := bit val 8 }

/-- A request of a group or a copy that was translated before the shootdown and is not answered. -/
def shootPending (s : State) (r : FabReq) : Bool :=
  decide (r.pkt.cls ≤ 2) && r.scribe.isNone &&
  (match ctxOfJob s r.pkt.job with
   | some ctx => shootRange s ctx r.pkt.addr.toNat
   | none => false)

/-- A copy of the context is stopped by a fault. DEDUCED, log 53. -/
def copyStopped (s : State) (ctx : Nat) : Bool := s.cores.any (fun c => c.2.ops.any (fun o => o.ctx == ctx && o.stopped))

/-- R256: an operation on a scratchpad object, placed by the translation at its issue, is still to be applied. One that waits for
what has faulted into a fault buffer, or of a frozen context, does not count. DEDUCED, log 53. -/
def namesPending (s : State) (ctx : Nat) : Bool :=
  let inFrame (l : ObjLoc) : Bool := match l with | .phys _ => true | .team _ _ => false
  let queued (gid id : Nat) : Bool := s.heldApply.any (fun h => h.src == .arrive gid id)
  !ctxFrozen s ctx && !copyStopped s ctx &&
  (s.groups.any (fun g => g.2.ctx == ctx && g.2.openOrg.isEmpty && g.2.entries.any (fun e => !e.over && !queued g.1 e.id &&
     (match e.op with | .arrive l _ => inFrame l | .mortise _ _ _ => true | _ => false))) ||
   s.heldApply.any (fun h => h.ctx == ctx && inFrame h.loc && !(heldRed s h.loc).any RedEntry.faulted))

/-- R257: what a core's fetch keeps of a translation that is discarded: the same page's entry as it is now, taken anew, where
it still lets the core fetch; after a change of PTROOT in the new root, and in the old one for handler groups. DESIGN CHOICE, log 16. -/
def refetch (s : State) (root0 root1 : Nat) (t : Tlb) : List Tlb :=
  let handler := s.groups.any (fun g => g.2.handler.isSome && g.2.ctx == t.ctx && g.2.root.toNat == t.root)
  let roots := if t.root == root0 then (if handler && root0 != root1 then [root1, root0] else [root1]) else if handler then [t.root] else []
  if !t.x then []
  else roots.filterMap (fun root =>
    match walk s root (BitVec.ofNat 64 t.page) with
    | .ok l => (match leafPerm l .x with | .ok _ => some { t with root, page := l.page, size := l.size, leaf := l.word, loc := l.loc } | .error _ => none)
    | .error _ => none)

/-- SHOOTDOWN_COMPLETE: no core holds a translation of the range any more, every access by the old entry has completed, in
every frame it reaches, or has faulted, and BUSY clears; after a whole-context shootdown the context's PTROOT is in use (R254,
R256). DEDUCED, log 53. -/
def execShootdownComplete (s : State) : Host.Outcome State Fault Refusal :=
  let ctx := bits s.tlbictl 5 0
  if !s.tlbibusy || s.fabReqs.any (fun r => shootPending s r.2) || s.frameQ.any (fun u => u.ctx == ctx) || namesPending s ctx then .next s
  else
    let all := bits s.tlbictl 7 6 == 3
    let root0 := ctxRoot s ctx
    let root1 := if all then (match Map.find s.ctxs ctx with | some c => c.ptroot.toNat | none => root0) else root0
    let size := match bits s.tlbictl 7 6 with | 0 => 2 ^ 16 | 1 => 2 ^ 21 | 2 => 2 ^ 30 | _ => 2 ^ 56
    let lo := s.tlbiva.toNat / size * size
    let hit (t : Tlb) : Bool := t.ctx == ctx && decide (t.page < lo + size) && decide (lo < t.page + t.size)
    let s1 := { s with tlb := s.tlb.flatMap (fun t => if hit t then refetch s root0 root1 t else [t]), tlbibusy := false, tlbictl := s.tlbictl &&& 0xFF }
    .next (if all then modCtx s1 ctx (fun c => { c with ptrootUsed := c.ptroot }) else s1)

/-! ### Commands (R421) -/

/-- A command ends with a status: in MBSTAT, or as the answer over MCTP. DESIGN CHOICE, log 73. -/
def reply (s : State) (mctp : Bool) (status : Nat) : State :=
  if mctp then { s with reports := s.reports ++ [[BitVec.ofNat 8 status]] }
  else { s with mbstat := BitVec.ofNat 64 (status * 256), mbcmd := s.mbcmd &&& 0x7FFFFFFF }

/-- A command behind others waits in the queue; one from the mailbox is a write that BUSY makes ignored (R421). DESIGN CHOICE, log 73. -/
def queueCommand (s : State) (op : Nat) (c : MCmd) : State :=
  if c.mctp then { s with cmdq := s.cmdq ++ [(op, c)] }
  else if bit s.mbstat 0 then s
  else { s with cmdq := s.cmdq ++ [(op, c)], mbstat := 1 }

/-- A command is applied: behind those queued before it and never within a FREEZE; a caller without the right gets 0xFF. DESIGN CHOICE, log 73. -/
def asCommand (op : Nat) (c : MCmd) (right : Bool) (s : State) (f : State → State × Nat) : Host.Outcome State Fault Refusal :=
  if s.freeze.isSome || !s.cmdq.isEmpty then .next (queueCommand s op c)
  else if !right then .next (reply s c.mctp 0xFF)
  else
    let (s1, st) := f s
    .next (reply s1 c.mctp st)

/-- A command that is first in the queue keeps its place there. DESIGN CHOICE, log 73. -/
def holdCommand (s : State) (op : Nat) (c : MCmd) : State :=
  { s with cmdq := (op, c) :: s.cmdq, mbstat := if c.mctp then s.mbstat else 1 }

/-- The owner's credential. DESIGN CHOICE, log 12, 13. -/
def isOwner (c : MCmd) : Bool := c.who == Config.ownerCred

/-- Bytes that a command reads and writes at physical addresses; a write clears poison as a full write does. -/
def State.cmdRead (s : State) (a : DWord) (n : Nat) : List Byte := s.rd a.toNat n
def State.cmdWrite (s : State) (a : DWord) (bs : List Byte) : State := s.wr a.toNat bs

/-! ### Ending a context (R239, R417, R436) -/

/-- R239: the context holds an ACC_NOT_OWNED origin of a trapping lane on a core that is not resolved: in the core's queue, or at a
handler lane that has not resolved it. -/
def accOrigin (s : State) (ctx core : Nat) : Bool :=
  let acc (o : Origin) : Bool := o.ctx == ctx && o.cause == cAccNotOwned && o.kind != 3
  (s.coreAt core).trapq.any acc ||
  s.groups.any (fun g => g.2.ctx == ctx && g.2.core == core &&
    (lanesOf (~~~g.2.served)).any (fun l => match g.2.lanes[l]? with | some o => acc o | none => false))

/-- A core without the context's state: its bank, tiles, copies and origins; PEND clears where its origin had set it. DESIGN CHOICE, log 42. -/
def endCore (ctx : Nat) (pend : Bool) (c : Core) : Core :=
  let own := bit c.aown 6 && bits c.aown 5 0 == ctx
  let gone (o : Option Nat) : Option Nat := if o == some ctx then none else o
  { c with
    aown := (if own then c.aown &&& ~~~0x40 else c.aown) &&& (if pend then ~~~0x80 else BitVec.allOnes 64),
    acclive := if own then 0 else c.acclive,
    tiles := if own then [] else c.tiles,
    active := gone c.active, shadow := gone c.shadow, incoming := gone c.incoming,
    ops := c.ops.filter (fun o => o.ctx != ctx),
    trapq := c.trapq.filter (fun o => o.ctx != ctx),
    allowed := c.allowed }

/-- R222: the reservations of the context, and its requests, are gone, and the requests behind them may be eligible. DESIGN CHOICE, log 42. -/
def endBay (ctx clk : Nat) (b : Bay) : Bay :=
  { b with reqs := b.reqs.filter (fun r => r.ctx != ctx), resv := b.resv.filter (fun r => r.2.ctx != ctx) }.stamp clk

/-- R417: what the context has written reaches every frame. DEDUCED, log 24. -/
def settleFrames (s : State) (ctx : Nat) : State :=
  (s.frameQ.filter (fun u => u.ctx == ctx)).foldl (fun s u => applyFrames s u.pa u.bytes.length) s

/-- Scratchpad lines that a dropped copy held absent are present again. -/
def dropLines (s : State) (ctx : Nat) : State :=
  let held := s.cores.flatMap (fun c => (c.2.ops.filter (fun o => o.ctx == ctx)).flatMap (fun o => Map.keys o.lines))
  { s with absent := s.absent.filter (fun l => !held.contains l) }

/-- R266, R417: a RED has retired with its entries placed: the entries of a context that ends are drained, those that no fault holds.
Those of a context whose image is written are in the image. DESIGN CHOICE, log 42. -/
def drainEnding (s : State) (ctx : Nat) : State :=
  if (match Map.find s.ctxs ctx with | some x => x.lateClosed | none => true) then s
  else
    let mine := s.groups.filter (fun g => g.2.ctx == ctx)
    let own (r : RedEntry) : Bool := mine.any (fun g => g.1 == r.gid)
    let es := mine.flatMap (fun g => g.2.red) ++ (s.barRed.flatMap (fun b => b.2.2)).filter own ++
      (s.gridBars.flatMap GridBar.red).filter own
    let s1 := { s with groups := s.groups.map (fun g => (g.1, if g.2.ctx == ctx then { g.2 with entries := [] } else g.2)) }
    es.foldl (fun s r =>
      match drainOne s { r with owner := .writer } with
      | .done s2 _ _ | .sent s2 | .posted s2 _ => s2
      | _ => s) s1

/-- Everything of a context that has not retired is dropped, on every core. -/
def dropContext (s0 : State) (ctx : Nat) : State :=
  let s := settleFrames (drainEnding (dropLines s0 ctx) ctx) ctx
  let gids := (s.groups.filter (fun g => g.2.ctx == ctx)).map Prod.fst
  let lids := (s.launches.filter (fun l => l.2.ctx == ctx)).map Prod.fst
  let tids := (s.teams.filter (fun t => t.2.ctx == ctx)).map Prod.fst
  let mineLoc (l : ObjLoc) : Bool := match l with | .team t _ => tids.contains t | .phys _ => false
  let mineJob (j : Nat) : Bool := ctxOfJob s j == some ctx
  { s with
    groups := s.groups.filter (fun g => g.2.ctx != ctx),
    teams := s.teams.filter (fun t => t.2.ctx != ctx),
    clusters := s.clusters.filter (fun c => !lids.contains c.2.launch),
    launches := s.launches.filter (fun l => l.2.ctx != ctx),
    lqs := s.lqs.map (fun q => if bits q.2.lqctl 21 16 == ctx then (q.1, LQueue.reset) else q),
    ctxs := Map.del s.ctxs ctx,
    cores := s.cores.map (fun c => (c.1, endCore ctx (accOrigin s ctx c.1) c.2)),
    bays := s.bays.map (fun b => (b.1, endBay ctx (s.clk / 10) b.2)),
    triggers := s.triggers.filter (fun t => t.op.ctx != ctx),
    fired := s.fired.filter (fun f => f.2.2 != ctx),
    fabReqs := s.fabReqs.filter (fun r => !gids.contains r.2.gid),
    remotes := s.remotes.filter (fun r => r.ctx != ctx),
    gridBars := s.gridBars.filter (fun b => !lids.contains b.launch),
    barRed := (s.barRed.filter (fun b => !mineLoc b.1)).map (fun b => (b.1, b.2.1, b.2.2.filter (fun r => !gids.contains r.gid))),
    heldApply := s.heldApply.filter (fun h => h.ctx != ctx),
    switchRed := s.switchRed.filter (fun b => !mineJob b.job),
    collIn := s.collIn.filter (fun m => !mineJob m.job),
    domainArr := s.domainArr.filter (fun d => !mineJob d.1),
    tlb := s.tlb.filter (fun t => t.ctx != ctx) }

/-- A core that a context has left: a switch to it is called off, and another takes its place. DESIGN CHOICE, log 42. -/
def leaveCore (ctx : Nat) (old s : State) (core : Nat) : State :=
  let c := old.coreAt core
  let s1 := match c.active with
    | some a => if c.incoming == some ctx && a != ctx then wakeGroups s core a else s
    | none => s
  nextActive s1 core

/-- A context that ends; another takes its place on its cores. DESIGN CHOICE, log 42. -/
def endContext (s : State) (ctx : Nat) : State :=
  let cores := (s.cores.filter (fun c => c.2.active == some ctx || c.2.shadow == some ctx || c.2.incoming == some ctx)).map Prod.fst
  cores.foldl (leaveCore ctx s) (dropContext s ctx)

/-- CTXEND (R417): a context that does not exist is not ended. -/
def execCtxend (c : MCmd) (s : State) : Host.Outcome State Fault Refusal :=
  asCommand 0x0B c (supOf s c.who c.ctx) s (fun s => (endContext s c.ctx, 0))

end Sys2Proof.Machine
end

