-- ==== Sys2Proof/Machine/Switch.lean ====
section
/-!
DEFINITION. Context switches and team moves: CTXSW (R395, R397, R398), and MIGRATE (R412, R413).
-/
namespace Sys2Proof.Machine

/-! ### CTXSW (R395) -/

/-- A core holds a context: one of its teams is placed there. -/
def holdsCtx (s : State) (core ctx : Nat) : Bool := s.teams.any (fun t => t.2.core == core && t.2.ctx == ctx)

/-- The cores a mask names on a die. -/
def maskCores (m : DWord) (die : Nat) : List Nat := ((List.range 64).filter (fun i => bit m i)).map (fun i => 64 * die + i)

/-- Step 1 on one core: issue of the outgoing context stops; a core that runs another context is left as it is. DESIGN CHOICE, log 74. -/
def startSwitch (inc outg : Nat) (s : State) (core : Nat) : State :=
  let c := s.coreAt core
  if c.active == some outg then sleepGroups (s.putCore core { c with incoming := some inc }) core outg else s

/-- The number under which the rest of a CTXSW waits in the command queue: no command has it. -/
def ctxswRest : Nat := 0x105

/-- The switch is over on every core the command names. DESIGN CHOICE, log 74. -/
def switched (s : State) (c : MCmd) : Bool :=
  (maskCores c.a0 (bits c.a1 9 8)).all (fun k => (s.coreAt k).incoming != some c.ctx)

/-- CTXSW: checked, then begun on every core the mask names; a core still in a switch is waited for. DESIGN CHOICE, log 74. -/
def execCtxsw (c : MCmd) (s : State) : Host.Outcome State Fault Refusal :=
  let outg := bits c.a1 5 0
  let cores := maskCores c.a0 (bits c.a1 9 8)
  if s.freeze.isSome || !s.cmdq.isEmpty then .next (queueCommand s 0x05 c)
  else if !(supOf s c.who c.ctx && supOf s c.who outg) then .next (reply s c.mctp 0xFF)
  else if c.ctx == outg || cores.isEmpty || cores.any (fun k => !(holdsCtx s k c.ctx && holdsCtx s k outg)) then
    .next (reply s c.mctp 1)
  else if ctxFrozen s c.ctx || ctxFrozen s outg then .next (reply s c.mctp 2)
  else if cores.any (fun k => (s.coreAt k).incoming.isSome) then .next (holdCommand s 0x05 c)
  else .next (holdCommand (cores.foldl (startSwitch c.ctx outg) s) ctxswRest c)

/-- The answer of a CTXSW once every core it names has switched. -/
def endCtxsw (c : MCmd) (s : State) : Host.Outcome State Fault Refusal :=
  if switched s c then .next (reply s c.mctp 0) else .next (holdCommand s ctxswRest c)

/-- CONTEXT_SWITCH_DONE: handler groups of the outgoing context have ended (R386); banks are exchanged, or what the
incoming context needs is spilled first (R395, R396); the incoming context's groups issue from where they stopped. DESIGN CHOICE, log 74. -/
def execContextSwitchDone (core : Nat) (s : State) : Host.Outcome State Fault Refusal :=
  let c := s.coreAt core
  match c.incoming, c.active with
  | some inc, some outg =>
    if s.groups.any (fun g => g.2.core == core && g.2.ctx == outg && g.2.handler.isSome) then .next s
    else
      let swap := (partOf s inc).rfmode == 1
      let s1 := if c.shadow == some inc then s
        else if swap then (match c.shadow with | some b => spillCore s core b | none => s)
        else spillCore s core outg
      let s2 := s1.putCore core { c with active := some inc, shadow := if swap then some outg else none, incoming := none }
      .next (nextActive (wakeGroups s2 core inc) core)
  | some inc, none => .next (nextActive (wakeGroups (s.putCore core { c with active := some inc, incoming := none }) core inc) core)
  | none, _ => .next s

/-! ### MIGRATE (R412, R413) -/

/-- What a team takes of a core (R32): the numbers of its groups, their register bytes, its memory. -/
def teamNeeds (s : State) (tid : Nat) (t : Team) : List Nat × Nat × Nat :=
  let gs := s.groups.filter (fun g => g.2.team == tid && g.2.handler.isNone)
  (gs.map (fun g => g.2.idx), (gs.map (fun g => 128 * g.2.budget)).foldl (· + ·) 0, t.memSize)

/-- The status of a MIGRATE to a core, or none where the team must move. DEDUCED, log 76. -/
def migrateStatus (s : State) (tid : Nat) (t : Team) (x : DWord) : Option Nat :=
  let core := bits x 7 0
  let quad := coreQuad t.core
  if bits x 63 8 != 0 || coreQuad core != quad || !(acceptingCores s quad).contains core then some 1
  else if core == t.core then some 0
  else if s.teams.any (fun u => u.2.cluster == t.cluster && u.2.core == core) then some 2
  else
    let (n, r, m) := teamNeeds s tid t
    if fitsOn s t.ctx core n r m ((partOf s t.ctx).rfmode == 1) then none else some 3

/-- The groups of a team stop, or go on. -/
def stopTeam (s : State) (tid : Nat) (on : Bool) : State :=
  { s with groups := s.groups.map (fun g => if g.2.team == tid && g.2.handler.isNone then (g.1, { g.2 with stopped := on }) else g) }

/-- MIGRATE: answered at once where the team need not move; else the team stops and the request waits at its core. DEDUCED, log 76. -/
def execMigrate (f : SFmt) (s : State) : Host.Outcome State Fault Refusal :=
  asOnce f.r.g s (fun c =>
    match Map.find s.teams c.g.team with
    | none => .ok (c.done s (c.g.wrS f.r.dst.toNat 1))
    | some t =>
      let x := c.g.rdS c.fc f.r.a.toNat
      match if t.migrate.isEmpty then migrateStatus s c.g.team t x else none with
      | some st => .ok (c.done s (c.g.wrS f.r.dst.toNat (BitVec.ofNat 64 st)))
      | none =>
        let g1 := c.g.advance c.pos
        let g2 := match Map.find g1.splits c.pos with
          | some sp => g1.setSplit c.pos { sp with wait := .migrate }
          | none => g1
        let r : MigrateReq := { gid := c.gid, pos := c.pos, dst := f.r.dst.toNat, core := x.toNat }
        .ok (stopTeam { (s.putG c.gid g2) with teams := Map.put s.teams c.g.team { t with migrate := t.migrate ++ [r] } }
          c.g.team true))

/-- R412: every flagged instruction and counted operation of the team has completed, and no origin is unresolved. DEDUCED, log 76. -/
def teamQuiet (s : State) (tid : Nat) : Bool :=
  s.groups.all (fun g => g.2.team != tid || g.2.handler.isSome ||
    (!g.2.parked && g.2.cf.all (fun c => c.2 == 0) && g.2.ocCopy == 0 && g.2.ocMat == 0 && g.2.ocGath == 0 && g.2.ocColl == 0 &&
     g.2.entries.all (fun e => e.flag.isNone)))

/-- A team that moves leaves nothing in its old core's save area. -/
def fillMine (s : State) (tid : Nat) : State :=
  let s1 := match Map.find s.teams tid with
    | some t => (match t.saved with | some a => fillTeam s tid t a | none => s)
    | none => s
  (s1.groups.filter (fun g => g.2.team == tid && g.2.handler.isNone)).foldl (fun s g =>
    match g.2.saved with | some a => fillGroup s g.1 g.2 a | none => s) s1

/-- R349, R412: a team that moves takes with it the collectives its splits wait at, whose instructions have not issued, and what
the core has asked peers for its groups. -/
def moveOps (s : State) (gids : List Nat) (core0 core : Nat) : State :=
  let mine (o : CopyOp) : Bool := gids.contains o.gid
  let k0 := s.coreAt core0
  let s1 := s.putCore core0 { k0 with ops := k0.ops.filter (fun o => !mine o) }
  let k := s1.coreAt core
  { (s1.putCore core { k with ops := k.ops ++ k0.ops.filter mine }) with
    fabReqs := s1.fabReqs.map (fun r => if gids.contains r.2.gid then (r.1, { r.2 with core := core }) else r) }

/-- The team's groups take slots and scheduler partitions of the core they move to; its team memory and names go with it. The
new core's far-read cache keeps nothing that would show an older value than the team has seen. DEDUCED, log 76. -/
def moveTeam (s0 : State) (tid : Nat) (t : Team) (core : Nat) : State :=
  let s := fillMine s0 tid
  let p := emptiestPart s core
  let gs := sortBy (fun g => [g.2.idx]) (s.groups.filter (fun g => g.2.team == tid && g.2.handler.isNone))
  let slots := freeSlots s t.ctx core gs.length
  let bank := holdBank (s.coreAt core) t.ctx ((partOf s t.ctx).rfmode == 1)
  let wasOn := (s.coreAt t.core).active == some t.ctx
  let isOn := bank.active == some t.ctx
  let put (s : State) (x : (Nat × Group) × Nat) : State :=
    let g := x.1.2
    let age := if wasOn then s.clk / 10 - g.lastIssue else g.lastIssue
    s.putG x.1.1 { g with core := core, slot := x.2, part := (p + g.idx) % 16,
                          lastIssue := if isOn then s.clk / 10 - age else age }
  let s1 := moveOps ((gs.zip slots).foldl put (s.putCore core bank)) (gs.map Prod.fst) t.core core
  let s2 := { s1 with
    teams := Map.modify s1.teams tid (fun t => { t with core := core }),
    clusters := Map.modify s1.clusters t.cluster (fun c => { c with names := c.names.set t.lcore core }) }
  nextActive (refreshAt (saveNew s2 core t.ctx) core 4) t.core

/-- The queue links that named a moved group name its new place (R308). DEDUCED, log 76. -/
def renameLinks (ctx : Nat) (moved : List (Nat × Nat × Nat × Nat)) (w : DWord) : DWord :=
  if lkSt w == 0 || bits w 55 50 != ctx then w
  else
    match moved.find? (fun m => m.1 == bits w 39 32 && m.2.1 == bits w 49 40) with
    | some m => setBits (setBits w 39 32 m.2.2.1) 49 40 m.2.2.2
    | none => w

/-- The links of every quadrant after groups have moved: old and new core and slot of each. -/
def relinkAll (s : State) (ctx : Nat) (moved : List (Nat × Nat × Nat × Nat)) : State :=
  { s with quads := s.quads.map (fun q => (q.1, { q.2 with links := q.2.links.map (fun l => (l.1, renameLinks ctx moved l.2)) })) }

/-- A request is answered: its status is written where the team now stands. -/
def endMigrate (s : State) (tid : Nat) (r : MigrateReq) (status : Nat) : State :=
  let s1 := { s with
    teams := Map.modify s.teams tid (fun t => { t with migrate := t.migrate.drop 1 }),
    groups := Map.modify s.groups r.gid (fun g => (g.endWait r.pos).wrS r.dst (BitVec.ofNat 64 status)) }
  match Map.find s1.teams tid with
  | some t => if t.migrate.isEmpty then stopTeam s1 tid false else s1
  | none => s1

/-- MIGRATE_MOVE: the oldest request of a team is applied once the team is quiet (R412, R413). DEDUCED, log 76. -/
def execMigrateMove (team : Nat) (s : State) : Host.Outcome State Fault Refusal :=
  match Map.find s.teams team with
  | none => .next s
  | some t =>
    match t.migrate with
    | [] => .next s
    | r :: _ =>
      match migrateStatus s team t (BitVec.ofNat 64 r.core) with
      | some st => .next (endMigrate s team r st)
      | none =>
        if !teamQuiet s team then .next s
        else
          let before := s.groups.filter (fun g => g.2.team == team && g.2.handler.isNone)
          let s1 := moveTeam s team t (r.core % 256)
          let moved := before.map (fun g =>
            match Map.find s1.groups g.1 with
            | some h => (g.2.core, g.2.slot, h.core, h.slot)
            | none => (g.2.core, g.2.slot, g.2.core, g.2.slot))
          .next (endMigrate (relinkAll s1 t.ctx moved) team r 0)

end Sys2Proof.Machine
end

