-- ==== Sys2Proof/Machine/ScribeCmd.lean ====
section
/-!
DEFINITION. The Scribe commands (R357, R359, R370, R375, R422, R437, R440), drain markers (R375) and Scribe control
messages (R341, R358).
-/
namespace Sys2Proof.Machine

/-! ### The load-time check (R370) -/

/-- The forward pass over a kernel: the longest path to each word reached, in steps; the first branch to each target; the
first ending whose path is too long. -/
structure KPass where
  dist   : SMap Nat
  origin : SMap Nat
  long   : Option Nat
  deriving DecidableEq, Repr

/-- A word is reached by a path of d steps. -/
def KPass.reach (p : KPass) (w d : Nat) : KPass := { p with dist := Map.put p.dist w (max d (Map.get 0 p.dist w)) }

/-- A branch from w: BADBRANCH with offset 0 or beyond the region or body. -/
def KPass.branch (p : KPass) (stop w d off : Nat) (falls : Bool) : Except (Nat × Nat) KPass :=
  if off == 0 || stop ≤ w + off then .error (2, w)
  else
    let p1 := if (Map.find p.origin (w + off)).isSome then p else { p with origin := Map.put p.origin (w + off) w }
    let p2 := p1.reach (w + off) (d + 1)
    .ok (if falls then p2.reach (w + 1) (d + 1) else p2)

/-- An ending: its path is too long beyond 256 steps. -/
def KPass.ends (p : KPass) (w d : Nat) : KPass := if 256 ≤ d && p.long.isNone then { p with long := some w } else p

/-- One word that is no REPEAT; within a body nothing may end. DEDUCED, log 78. -/
def KPass.word (p : KPass) (code : Nat → Nat) (stop : Nat) (body : Bool) (w d : Nat) : Except (Nat × Nat) KPass :=
  match decodeScribe (code w) with
  | none => .error (1, w)
  | some i =>
    if !scribeWordOk i then .error (1, w)
    else
      match i with
      | .pass | .drop | .trapk _ => if body then .error (3, w) else .ok (p.ends w d)
      | .scribeRepeat _ _ _ => .error (3, w)
      | .bnz _ o | .bz _ o => p.branch stop w d o.toNat true
      | .jmp o => p.branch stop w d o.toNat false
      | _ => .ok (p.reach (w + 1) (d + 1))

/-- A REPEAT body, words w up to stop. DEDUCED, log 78. -/
def bodyPass (code : Nat → Nat) (stop : Nat) : Nat → Nat → KPass → Except (Nat × Nat) KPass
  | 0, _, p => .ok p
  | fuel + 1, w, p =>
    if stop ≤ w then .ok p
    else
      match Map.find p.dist w with
      | none => bodyPass code stop fuel (w + 1) p
      | some d =>
        match p.word code stop true w d with
        | .error e => .error e
        | .ok p1 => bodyPass code stop fuel (w + 1) p1

/-- A REPEAT of n passes over b words at w: its body is entered from it alone, and counts n times its longest path. DEDUCED, log 78. -/
def KPass.rep (p : KPass) (code : Nat → Nat) (stop w d n b : Nat) : Except (Nat × Nat) KPass :=
  if n == 0 || 256 < n || b == 0 || stop ≤ w + b then .error (3, w)
  else
    match p.origin.find? (fun o => decide (w < o.1) && decide (o.1 ≤ w + b)) with
    | some o => .error (2, o.2)
    | none =>
      match bodyPass code (w + b + 1) (b + 1) (w + 1) { dist := [(w + 1, 0)], origin := [], long := none } with
      | .error e => .error e
      | .ok q =>
        match Map.find q.dist (w + b + 1) with
        | some l => .ok (p.reach (w + b + 1) (d + 1 + n * l))
        | none => .ok p

/-- The pass from a word to the end of the region. DEDUCED, log 78. -/
def kernelPass (code : Nat → Nat) (stop : Nat) : Nat → Nat → KPass → Except (Nat × Nat) KPass
  | 0, _, p => .ok p
  | fuel + 1, w, p =>
    if stop ≤ w then .ok p
    else
      match Map.find p.dist w with
      | none => kernelPass code stop fuel (w + 1) p
      | some d =>
        match decodeScribe (code w) with
        | some (.scribeRepeat _ b n) =>
          match p.rep code stop w d n.toNat b.toNat with
          | .error e => .error e
          | .ok p1 => kernelPass code stop fuel (w + b.toNat + 1) p1
        | _ =>
          match p.word code stop false w d with
          | .error e => .error e
          | .ok p1 => kernelPass code stop fuel (w + 1) p1

/-- R370: the status of a kernel and the word it fails at; none where it passes. DEDUCED, log 77. -/
def kernelStatus (code : Nat → Nat) (stop entry : Nat) : Option (Nat × Nat) :=
  if stop ≤ entry then some (6, entry)
  else
    match kernelPass code stop (stop + 1) entry { dist := [(entry, 0)], origin := [], long := none } with
    | .error e => some e
    | .ok p =>
      if (Map.find p.dist stop).isSome then some (4, stop - 1)
      else p.long.map (fun w => (5, w))

/-! ### Binding (R357, R437, R440) -/

/-- R357: a job entry keeps its limits. DEDUCED, log 77. -/
def ScribeJob.limitsOk (j : ScribeJob) : Bool :=
  decide (j.cbase ≤ 1023) && decide (1 ≤ j.clen) && decide (j.clen ≤ 1024 - j.cbase) && decide (1 ≤ j.slim) && decide (j.slim ≤ 256) &&
  decide (j.fbase ≤ 16383) && decide (1 ≤ j.fcnt) && decide (j.fcnt ≤ 16384 - j.fbase) && decide (j.at 0x0C 1 ≤ 1) &&
  zeroAt j.entry 0x0D 1 && j.at 0x18 8 % 32 == 0 && decide (1 ≤ j.at 0x20 2) && zeroAt j.entry 0x22 30

/-- Two jobs' code or flow regions overlap. -/
def ScribeJob.overlaps (a b : ScribeJob) : Bool :=
  (decide (a.cbase < b.cbase + b.clen) && decide (b.cbase < a.cbase + a.clen)) ||
  (decide (a.fbase < b.fbase + b.fcnt) && decide (b.fbase < a.fbase + a.fcnt))

/-- Hook h of a hook list, for a job and processor; none where a field is out of its limits. DEDUCED, log 77. -/
def hookAt (bs : List Byte) (proc : Nat) (j : ScribeJob) (h : Nat) : Option Hook :=
  let o := 8 + 32 * h
  if 1 < leAt bs o 1 || 3 < leAt bs (o + 1) 1 || !zeroAt bs (o + 6) 2 || !zeroAt bs (o + 24) 8 || 16 * j.clen ≤ leAt bs (o + 4) 2 then none
  else
    some { job := j.job, proc := proc, dir := leAt bs o 1, kind := leAt bs (o + 1) 1, cgid := leAt bs (o + 2) 2,
           alo := leAt bs (o + 8) 8, ahi := leAt bs (o + 16) 8, entry := leAt bs (o + 4) 2 }

/-- The device's two fields of a hook list. DEDUCED, log 77. -/
def putHookStatus (s : State) (addr : DWord) (status word : Nat) : State :=
  (s.cmdWrite (addr + 2) (leBytes 1 status)).cmdWrite (addr + 4) (leBytes 2 word)

/-- Installs a job on a processor with its code, its flow slots zeroed (R357). -/
def installJob (s : State) (proc : Nat) (j : ScribeJob) (code : Nat → Nat) : State :=
  let x := s.scribeAt proc
  let base := 16 * j.cbase
  let inFlow (k : Nat) : Bool := decide (j.fbase ≤ k) && decide (k < j.fbase + j.fcnt)
  let code1 := (List.range (16 * j.clen)).foldl (fun (m : SMap Word) k => Map.set 0 m (base + k) (BitVec.ofNat 32 (code k))) x.code
  s.putScribe proc { x with
    code := code1, flow := x.flow.filter (fun f => !inFlow f.1), poison := x.poison.filter (fun k => !inFlow k),
    jobs := x.jobs ++ [j] }

/-- Removes a job: its hooks, flow slots and code; its queued packets pass on unchanged, in order. DESIGN CHOICE, log 80. -/
def unbindJob (proc : Nat) (j : ScribeJob) (s : State) : State :=
  let x := s.scribeAt proc
  let inFlow (k : Nat) : Bool := decide (j.fbase ≤ k) && decide (k < j.fbase + j.fcnt)
  let s1 := { s with hooks := s.hooks.filter (fun h => !(h.job == j.job && h.proc == proc)) }
  let s2 := s1.putScribe proc { x with
    jobs := x.jobs.filter (fun k => k.job != j.job), queue := x.queue.filter (fun q => q.job != j.job),
    flow := x.flow.filter (fun f => !inFlow f.1), poison := x.poison.filter (fun k => !inFlow k) }
  (x.queue.filter (fun q => q.job == j.job)).foldl (fun s q => forward s q.pkt q.dir) s2

/-- SCRIBEBIND's checks and effect. The overlap that refuses is with another job's regions (R440): an entry of a job that is bound
there replaces the one it has, as an unbind and a bind would. DEDUCED, log 77. -/
def bindJob (c : MCmd) (s : State) : State × Nat :=
  let proc := bits c.a0 3 0
  let entry := s.cmdRead c.a1 64
  let j : ScribeJob := { job := leAt entry 0 2, ctx := c.ctx, entry := entry, q := 0 }
  let x := s.scribeAt proc
  let others := x.jobs.filter (fun k => k.job != j.job)
  let head := s.cmdRead c.a3 8
  let n := leAt head 0 2
  let hooks := (List.range n).map (hookAt (s.cmdRead c.a3 (8 + 32 * n)) proc j)
  let job := (Map.find s.ctxs c.ctx).bind Ctx.job
  if bits c.a0 63 4 != 0 || !j.limitsOk || 256 < n || !zeroAt head 3 1 || !zeroAt head 6 2 then (s, 2)
  else if job.map JobBinding.job != some j.job then (s, 5)
  else if 16 ≤ others.length then (s, 2)
  else if others.any (fun k => k.overlaps j) then (s, 1)
  else if hooks.any Option.isNone then (s, 2)
  else if 256 < (s.hooks.filter (fun h => !(h.job == j.job && h.proc == proc))).length + n then (s, 3)
  else
    let bytes := s.cmdRead c.a2 (64 * j.clen)
    let code (k : Nat) : Nat := leAt bytes (4 * k) 4
    match hooks.findSome? (fun h => h.bind (fun h => kernelStatus code (16 * j.clen) h.entry)) with
    | some e => (putHookStatus s c.a3 e.1 e.2, 4)
    | none =>
      let s1 := installJob (match x.jobs.find? (fun k => k.job == j.job) with | some k => unbindJob proc k s | none => s) proc j code
      (putHookStatus { s1 with hooks := s1.hooks ++ hooks.filterMap id } c.a3 0 0, 0)

/-! ### Jobs that are bound -/

/-- Processor and job of MBARG0 (R422). -/
def cmdProc (c : MCmd) : Nat := bits c.a0 3 0
def cmdJob (c : MCmd) : Nat := bits c.a0 31 16

/-- The named job, where it is bound on the named processor and belongs to the named context. -/
def boundJob (s : State) (c : MCmd) : Option ScribeJob :=
  (s.scribeAt (cmdProc c)).jobs.find? (fun j => j.job == cmdJob c && j.ctx == c.ctx)

/-- R359: the processor is between invocations. -/
def between (s : State) (proc : Nat) : Bool := (s.scribeAt proc).inv.isNone

/-- A command that is applied between invocations waits for that, first in the queue. -/
def asBetween (op : Nat) (c : MCmd) (s : State) (f : ScribeJob → State → State × Nat) : Host.Outcome State Fault Refusal :=
  if s.freeze.isNone && s.cmdq.isEmpty && supOf s c.who c.ctx && (boundJob s c).isSome && !between s (cmdProc c) then
    .next (holdCommand s op c)
  else
    asCommand op c (supOf s c.who c.ctx) s (fun s =>
      match boundJob s c with
      | none => (s, 1)
      | some j => f j s)

/-- A hook in the hook-entry layout. -/
def Hook.bytes (h : Hook) : List Byte :=
  leBytes 1 h.dir ++ leBytes 1 h.kind ++ leBytes 2 h.cgid ++ leBytes 2 h.entry ++ leBytes 2 0 ++ leBytes 8 h.alo ++
  leBytes 8 h.ahi ++ leBytes 8 0

/-- A job's flow slots from one on. -/
def flowBytes (x : Scribe) (j : ScribeJob) (first n : Nat) : List Byte :=
  (List.range n).flatMap (fun i => leBytes 64 (Map.get 0 x.flow (j.fbase + first + i)).toNat)

/-- The block of a job in a snapshot or an image (R437). -/
def jobBlock (s : State) (proc : Nat) (j : ScribeJob) : List Byte :=
  let x := s.scribeAt proc
  let hs := s.hooks.filter (fun h => h.job == j.job && h.proc == proc)
  sliceB j.entry 0 64 ++ leBytes 1 proc ++ leBytes 3 0 ++ leBytes 4 hs.length ++ hs.flatMap Hook.bytes ++
  (List.range (16 * j.clen)).flatMap (fun k => leBytes 4 (Map.get 0 x.code (16 * j.cbase + k)).toNat) ++ flowBytes x j 0 j.fcnt

/-- R375: packets that a processor has accepted and not started. -/
def queuedOf (s : State) (proc : Nat) : Nat := (s.scribeAt proc).queue.length

/-- A snapshot may be taken: every packet accepted before its command has had its invocation. DESIGN CHOICE, log 80. -/
def snapReady (s : State) (proc job : Nat) : Bool :=
  between s proc && (gateShut s proc job || (!s.snapGate.any (fun g => g.1 == proc && g.2.1 == job) && queuedOf s proc == 0))

/-- A snapshot is asked for: the packets accepted so far are counted. -/
def openGate (s : State) (proc job : Nat) : State :=
  if s.snapGate.any (fun g => g.1 == proc && g.2.1 == job) then s
  else { s with snapGate := s.snapGate ++ [(proc, job, queuedOf s proc)] }
def closeGate (s : State) (proc job : Nat) : State :=
  { s with snapGate := s.snapGate.filter (fun g => !(g.1 == proc && g.2.1 == job)) }

/-- The command binds a job that is bound on its processor, which is not between invocations. -/
def rebindHeld (s : State) (c : MCmd) : Bool :=
  let proc := bits c.a0 3 0
  (s.scribeAt proc).jobs.any (fun k => k.job == leAt (s.cmdRead c.a1 2) 0 2) && !between s proc

/-- SCRIBEBIND. DEDUCED, log 77. -/
def execScribebind (c : MCmd) (s : State) : Host.Outcome State Fault Refusal :=
  if s.freeze.isNone && s.cmdq.isEmpty && supOf s c.who c.ctx && rebindHeld s c then .next (holdCommand s 0x09 c)
  else asCommand 0x09 c (supOf s c.who c.ctx) s (bindJob c)

/-- SCRIBEUNBIND: between invocations. -/
def execScribeunbind (c : MCmd) (s : State) : Host.Outcome State Fault Refusal :=
  asBetween 0x10 c s (fun j s => (unbindJob (cmdProc c) j s, 0))

/-- R422: the slots a read or write names lie within the job's. -/
def slotsOk (c : MCmd) (j : ScribeJob) : Bool := decide (c.a1.toNat + c.a2.toNat ≤ j.fcnt)

/-- SCRIBEREAD: flow slots to the buffer. -/
def execScriberead (c : MCmd) (s : State) : Host.Outcome State Fault Refusal :=
  asBetween 0x11 c s (fun j s =>
    if !slotsOk c j then (s, 2)
    else (s.cmdWrite c.a3 (flowBytes (s.scribeAt (cmdProc c)) j c.a1.toNat c.a2.toNat), 0))

/-- SCRIBEWRITE: the buffer to flow slots; a whole write clears a slot's poison (R392). -/
def execScribewrite (c : MCmd) (s : State) : Host.Outcome State Fault Refusal :=
  asBetween 0x12 c s (fun j s =>
    if !slotsOk c j then (s, 2)
    else
      let x := s.scribeAt (cmdProc c)
      let bs := s.cmdRead c.a3 (64 * c.a2.toNat)
      let put (x : Scribe) (i : Nat) : Scribe :=
        let k := j.fbase + c.a1.toNat + i
        { x with flow := Map.set 0 x.flow k (BitVec.ofNat 512 (leAt bs (64 * i) 64)), poison := x.poison.filter (· != k) }
      (s.putScribe (cmdProc c) ((List.range c.a2.toNat).foldl put x), 0))

/-- SCRIBESNAP's effect: the block is written to the buffer. -/
def snapJob (c : MCmd) (s : State) : State × Nat :=
  match boundJob s c with
  | none => (s, 1)
  | some j => ((closeGate s (cmdProc c) (cmdJob c)).cmdWrite c.a1 (jobBlock s (cmdProc c) j), 0)

/-- SCRIBESNAP: it waits for the packets accepted before it, and lets no later one start (R375). DESIGN CHOICE, log 80. -/
def execScribesnap (c : MCmd) (s : State) : Host.Outcome State Fault Refusal :=
  if s.freeze.isNone && s.cmdq.isEmpty && supOf s c.who c.ctx && (boundJob s c).isSome && !snapReady s (cmdProc c) (cmdJob c) then
    .next (holdCommand (openGate s (cmdProc c) (cmdJob c)) 0x13 c)
  else asCommand 0x13 c (supOf s c.who c.ctx) s (snapJob c)

/-! ### Messages (R341, R375) -/

/-- DRAIN_MARKER: a peer's marker, or this device's own coming back, is offered to the KIND 3 hooks and then ends here; one
of a job the device does not hold is dropped and counted. -/
def execDrainMarker (p : Packet) (s : State) : Host.Outcome State Fault Refusal :=
  let q := { p with cls := 0x13 }
  if !linked s then .next s
  else if (ctxOfJob s p.job).isNone then .next { s with fabErrs := s.fabErrs + 1 }
  else
    match hookFor s q 0 with
    | none => .next (returnMarker s q)
    | some h => .next ((enqueue s h q 0).getD s)

/-- SCRIBE_CONTROL: a binding or snapshot command from another management core; one that names a job the device does not
hold is dropped and counted. DESIGN CHOICE, log 80. -/
def execScribeControl (c : MCmd) (kind : ScribeCtl) (s : State) : Host.Outcome State Fault Refusal :=
  if !linked s then .next s
  else match kind with
  | .bind =>
    if (ctxOfJob s (leAt (s.cmdRead c.a1 2) 0 2)).isNone then .next { s with fabErrs := s.fabErrs + 1 }
    else execScribebind c s
  | .unbind =>
    if (ctxOfJob s (cmdJob c)).isNone then .next { s with fabErrs := s.fabErrs + 1 }
    else asBetween 0x10 c s (fun j s => (unbindJob (cmdProc c) j s, 0))
  | .snap =>
    if (ctxOfJob s (cmdJob c)).isNone then .next { s with fabErrs := s.fabErrs + 1 }
    else if snapReady s (cmdProc c) (cmdJob c) then asCommand 0x13 c (supOf s c.who c.ctx) s (snapJob c)
    else .next { (openGate s (cmdProc c) (cmdJob c)) with cmdq := s.cmdq ++ [(0x13, c)] }
  | .reduce cgid rank =>
    if ctxOfJob s (cmdJob c) != some c.ctx then .next { s with fabErrs := s.fabErrs + 1 }
    else if !supOf s c.who c.ctx || !inRankMap s (cmdJob c) rank then .next s
    else
      let b : SwitchBind := { job := cmdJob c, cgid := cgid, rank := rank }
      .next { s with switchRed := s.switchRed.filter (fun x => !(x.job == b.job && x.cgid == cgid)) ++ [b] }

end Sys2Proof.Machine
end

