-- ==== Sys2Proof/Machine/Versu.lean ====
section
/-!
DEFINITION. The verifier of Versu sections (R21 to R23).
-/
namespace Sys2Proof.Machine

/-- An open construct: 0 block, 1 loop, 2 if, 3 the second arm of one; the stack height at its opening; its results. -/
structure VCon where
  kind : Nat
  h    : Nat
  res  : List Nat
  deriving DecidableEq, Repr

/-- A function of a section: where its body starts and ends, its parameters, its locals' types. -/
structure VFn where
  body   : Nat
  limit  : Nat
  params : Nat
  locals : List Nat
  deriving DecidableEq, Repr

/-- The abstract state of the pass: types on the stack, newest first (1 L32, 2 U64, 3 PM), open constructs, innermost
first, and whether a guard prefix waits for its operation. -/
structure VSt where
  st    : List Nat
  cons  : List VCon
  guard : Bool
  deriving DecidableEq, Repr

/-- An unsigned LEB128 value of at most n bytes and `w` bits: the value and the bytes after it. Bytes that add only zero bits are
accepted. DESIGN CHOICE, log 101. -/
def lebU (w : Nat) : Nat → List Byte → Option (Nat × List Byte)
  | 0, _ => none
  | _ + 1, [] => none
  | n + 1, b :: bs =>
    if b.toNat < 128 then (if b.toNat < 2 ^ w then some (b.toNat, bs) else none)
    else
      match lebU (w - 7) n bs with
      | none => none
      | some (v, rest) => if w < 7 && v != 0 then none else some (b.toNat % 128 + 128 * v, rest)

/-- A signed LEB128 value of at most n bytes that fits w bits; `neg` and the bits are read from its last byte. -/
def lebS (w : Nat) : Nat → List Byte → Option (Int × List Byte)
  | 0, _ => none
  | _ + 1, [] => none
  | n + 1, b :: bs =>
    if b.toNat < 128 then
      let v := toSigned 7 b.toNat
      if decide (-(2 ^ (w - 1) : Int) ≤ v) && decide (v < (2 ^ (w - 1) : Int)) then some (v, bs) else none
    else
      match lebS (max 1 (w - 7)) n bs with
      | none => none
      | some (v, rest) =>
        let x := (b.toNat % 128 : Int) + 128 * v
        if decide (-(2 ^ (w - 1) : Int) ≤ x) && decide (x < (2 ^ (w - 1) : Int)) then some (x, rest) else none

/-- The height below which nothing may be popped. -/
def VSt.floor (v : VSt) : Nat := match v.cons with | c :: _ => c.h | [] => 0

/-- Pops values of given types, the first of the list first. -/
def VSt.pops (v : VSt) : List Nat → Option VSt
  | [] => some v
  | t :: ts =>
    match v.st with
    | x :: rest => if x == t && decide (v.floor < v.st.length) then VSt.pops { v with st := rest } ts else none
    | [] => none

/-- Pushes values, within the depth of 1024. -/
def VSt.pushes (v : VSt) (ts : List Nat) : Option VSt :=
  let st := ts.foldl (fun l t => t :: l) v.st
  if 1024 < st.length then none else some { v with st := st }

/-- The type of any value popped. -/
def VSt.popAny (v : VSt) : Option (Nat × VSt) :=
  match v.st with
  | x :: rest => if v.floor < v.st.length then some (x, { v with st := rest }) else none
  | [] => none

/-- Values of a register use: none for the files that keep their native values. DEDUCED, log 82. -/
def useTypes (u : Use) : List Nat :=
  match u.file with
  | .v => List.replicate u.n 1
  | .s => List.replicate u.n 2
  | .p => List.replicate u.n 3
  | _ => []

/-- Whether OPB of an operation is a destination. -/
def destB (i : Instr) : Bool := match i.shape with | .m _ _ n f => (mSpec n f).b == .pdst | _ => false

/-- The enumerated fields of a format: place, width, whether a code names something, and a code that says nothing of the stack. -/
def codeFields (t : FmtTag) : List (Nat × Nat × (Nat → Bool) × Nat) :=
  match t with
  | .l => [(48, 4, fun c => (Ty.ofCode c).isSome, 0), (40, 3, fun c => (RM.ofCode c).isSome, 0)] ++
      [38, 36, 34].map (fun lo => (lo, 2, fun c => (Kind.ofCode c).isSome, 2))
  | .p => [(35, 3, fun c => (Edge.ofCode c).isSome, 0), (32, 3, fun c => (Rop.ofCode c).isSome, 0)]
  | .m => [(49, 3, fun c => (Wid.ofCode c).isSome, 0), (46, 3, fun c => (Spc.ofCode c).isSome, 0),
      (41, 3, fun c => (Scope.ofCode c).isSome, 0), (39, 2, fun c => (FlagSel.ofCode c).isSome, 0)]
  | .e => [(28, 2, fun c => (FlagSel.ofCode c).isSome, 0)]
  | .s => (48, 4, fun c => (STy.ofCode c).isSome, 0) :: [38, 36, 34].map (fun lo => (lo, 2, fun c => c == 0 || c == 2, 2))
  | .b => []

/-- A word with every code that names nothing replaced: a kind by that of an immediate, another code by 0. DESIGN CHOICE, log 101. -/
def tameCodes (t : FmtTag) (w : Nat) : Nat :=
  (codeFields t).foldl (fun w x => if x.2.2.1 (fld w x.1 x.2.1) then w else w - fld w x.1 x.2.1 * 2 ^ x.1 + x.2.2.2 * 2 ^ x.1) w

/-- A native operation other than control: its reserved bits and its v, s and p fields are zero, and it pops its sources and pushes
its destinations by R21 (CVT's destination is no source, MRES's pair is both). What R70 finds wrong with other fields is no refusal
of R23's list: the instruction traps where it issues. An operand of an undefined kind pops nothing; of two destinations, DST is
pushed before OPB. DEDUCED, log 82. DESIGN CHOICE, log 101. -/
def nativeOp (cls op word : Nat) (v : VSt) : Option VSt :=
  let w0 := cls * 2 ^ 94 + op * 2 ^ 88 + word
  match fmtOf cls op with
  | none => none
  | some (t, n) =>
    if !reservedOk t n w0 then none
    else
      match parse t n (tameCodes t w0) with
      | none => none
      | some i =>
        let named := usesOf i
        if named.any (fun u => (u.file == .v || u.file == .s || u.file == .p) && u.reg != 0) then none
        else
          let outB (u : Use) : Bool := u.file == .p && destB i && !u.wr
          let reads := named.filter (fun u => !u.wr && !outB u)
          let outs := named.filter (fun u => u.wr || outB u)
          let both := if n == 0x20 && t == .e then outs.filter (fun u => u.file == .s) else []
          let ins := (if n == 0x26 && t == .l then reads.drop 1 else reads) ++ both
          (v.pops (ins.reverse.flatMap useTypes)).bind (fun v => v.pushes (outs.flatMap useTypes))

/-- A depth of an open construct. -/
def VSt.depthOk (v : VSt) (n : Nat) : Bool := decide (n < v.cons.length)
def VSt.isLoop (v : VSt) (n : Nat) : Bool := match v.cons[n]? with | some c => c.kind == 1 | none => false

/-- JMPI's depths. -/
def depthList (v : VSt) : Nat → List Byte → Option (List Byte)
  | 0, bs => some bs
  | n + 1, bs =>
    match lebU 32 5 bs with
    | some (d, rest) => if v.depthOk d then depthList v n rest else none
    | none => none

/-- R22: a control operation; `fns` are the section's functions and `f` the one it stands in. CALLI pops its index, then the
parameters as CALL does: those of a function of the section, the only one where all have the same parameters, and else of one that
`Config.calliCallee` names, since the pass cannot know the index. R23's list names no BRK that leaves more constructs than are
open; such a section is refused. DESIGN CHOICE, log 101. -/
def controlOp (op word : Nat) (fns : List VFn) (f : VFn) (bs : List Byte) (v : VSt) : Option (VSt × List Byte) :=
  let x := bOf word
  let bk := x.bk.toNat
  let toff := x.toff.toNat
  let roff := x.roff.toNat
  let regs := fld word 52 32 == 0 && fld word 0 2 == 0
  let slots := x.tsl == 0 && x.rsl == 0
  let ok (y : Option VSt) : Option (VSt × List Byte) := y.map (fun v => (v, bs))
  if !regs || !slots then none
  else
    match op with
    | 0x20 => if bk == 0 && roff == 0 && v.depthOk toff then ok (some v) else none
    | 0x21 => if bk ≤ 1 && roff == 0 && v.depthOk toff && (bk == 0 || v.isLoop toff) then ok (v.pops [3]) else none
    | 0x22 => if 1 ≤ bk && toff == 0 && roff == 0 && decide (bk ≤ v.cons.length) then ok (some v) else none
    | 0x23 => if 1 ≤ bk && toff == 0 && roff == 0 && v.isLoop (bk - 1) then ok (some v) else none
    | 0x24 => if bk == 0 && v.isLoop toff && f.locals[roff]? == some 2 then ok (some v) else none
    | 0x25 =>
      if bk == 0 && roff == 0 && 1 ≤ toff && toff ≤ 4096 then
        match depthList v toff bs with
        | some rest => (v.pops [2]).map (fun v => (v, rest))
        | none => none
      else none
    | 0x26 =>
      match fns[toff]? with
      | some g => if bk == 0 && roff == 0 then ok (v.pops (g.locals.take g.params).reverse) else none
      | none => none
    | 0x27 =>
      match fns[Config.calliCallee bs.length % fns.length]? with
      | some g => if bk == 0 && toff == 0 && roff == 0 then ok (v.pops (2 :: (g.locals.take g.params).reverse)) else none
      | none => none
    | _ => if bk == 0 && toff == 0 && roff == 0 then ok (some v) else none

/-- Results of a block type, newest last. -/
def blockType (bs : List Byte) : Option (List Nat × List Byte) :=
  match bs with
  | [] => none
  | n :: rest =>
    let ts := (rest.take n.toNat).map BitVec.toNat
    if ts.length == n.toNat && ts.all (fun t => 1 ≤ t && t ≤ 3) then some (ts, rest.drop n.toNat) else none

/-- A construct's stack at its end is what it declared. -/
def VSt.endsWell (v : VSt) (c : VCon) : Bool := v.st.take (v.st.length - c.h) == c.res.reverse && decide (c.h ≤ v.st.length)

/-- What one operation comes to: the function ends, or the pass goes on. -/
inductive VRes where
  | over
  | go (v : VSt) (rest : List Byte)
  deriving DecidableEq, Repr

/-- Opens a construct after its condition is popped. -/
def openCon (kind : Nat) (v : VSt) (bs : List Byte) : Option VRes :=
  (blockType bs).map (fun x => .go { v with cons := { kind := kind, h := v.st.length, res := x.1 } :: v.cons } x.2)

/-- One operation of a body. A depth is a field of 32 bits in at most 5 bytes, a local's index one of 16 bits in at most 3; the first
arm of an if ends with the declared results at its else, and a function with an empty stack; ENTRY with k above 64 and a type code
of a block outside 1 to 3 are refused. The manual's list names none of these limits. DESIGN CHOICE, log 101. -/
def versuOp (fns : List VFn) (f : VFn) (v : VSt) (b : Byte) (bs : List Byte) : Option VRes :=
  let go (y : Option VSt) (rest : List Byte) : Option VRes := y.map (fun v => .go v rest)
  let code := b.toNat
  if v.guard && !(0x80 ≤ code && code ≤ 0x83) then none
  else
    match code with
    | 0x01 => openCon 0 v bs
    | 0x02 => openCon 1 v bs
    | 0x03 =>
      match v.popAny with
      | some (t, v1) => if t == 2 || t == 3 then openCon 2 v1 bs else none
      | none => none
    | 0x04 =>
      match v.cons with
      | c :: cs =>
        if c.kind == 2 && v.endsWell c then
          some (.go { v with st := v.st.drop (v.st.length - c.h), cons := { c with kind := 3 } :: cs } bs)
        else none
      | [] => none
    | 0x05 =>
      match v.cons with
      | c :: cs => if v.endsWell c then some (.go { v with cons := cs } bs) else none
      | [] => if v.st.isEmpty then some .over else none
    | 0x06 =>
      match lebU 32 5 bs with
      | some (d, rest) => if v.depthOk d then some (.go v rest) else none
      | none => none
    | 0x08 =>
      match bs with
      | k :: rest => if k.toNat ≤ 64 then go (v.pushes [if k.toNat == 0 then 1 else 2]) rest else none
      | [] => none
    | 0x10 =>
      match lebU 16 3 bs with
      | some (n, rest) => (f.locals[n]?).bind (fun t => go (v.pushes [t]) rest)
      | none => none
    | 0x11 =>
      match lebU 16 3 bs with
      | some (n, rest) => (f.locals[n]?).bind (fun t => go (v.pops [t]) rest)
      | none => none
    | 0x12 => (lebS 32 5 bs).bind (fun x => go (v.pushes [1]) x.2)
    | 0x13 => (lebS 64 10 bs).bind (fun x => go (v.pushes [2]) x.2)
    | 0x14 => v.popAny.map (fun x => .go x.2 bs)
    | 0x84 | 0x85 => go ((v.pops [3]).map (fun v => { v with guard := true })) bs
    | 0x80 | 0x81 | 0x82 | 0x83 =>
      match bs with
      | [] => none
      | o :: bs1 =>
        if 64 ≤ o.toNat then none
        else
          match lebU 84 12 bs1 with
          | none => none
          | some (w, rest) =>
            let v1 := { v with guard := false }
            if code == 0x82 && 0x20 ≤ o.toNat && o.toNat ≤ 0x2A then
              (controlOp o.toNat w fns f rest v1).map (fun x => .go x.1 x.2)
            else go (nativeOp (code - 0x80) o.toNat w v1) rest
    | _ => none

/-- One body: none where it passes, else the offset in the section of the operation refused. DEDUCED, log 82. -/
def versuBody (fns : List VFn) (f : VFn) (stop : Nat) : Nat → VSt → List Byte → Option Nat
  | 0, _, bs => some (stop - bs.length)
  | fuel + 1, v, bs =>
    match bs with
    | [] => some stop
    | b :: rest =>
      match versuOp fns f v b rest with
      | none => some (stop - bs.length)
      | some .over => none
      | some (.go v1 rest1) => versuBody fns f stop fuel v1 rest1

/-- The function table of a section, or where it is malformed (function, offset). DEDUCED, log 82. -/
def versuFns (sec : List Byte) : Except (Nat × Nat) (List VFn) :=
  let n := leAt sec 2 2
  if n == 0 || !zeroAt sec 4 12 || sec.length < 16 + 8 * n then .error (0, 2)
  else
    let ent (k : Nat) : Nat × Nat × Nat := (leAt sec (16 + 8 * k) 4, leAt sec (20 + 8 * k) 2, leAt sec (22 + 8 * k) 1)
    let start (k : Nat) : Nat := 16 + 8 * n + ((List.range k).map (fun j => (ent j).2.1)).foldl (· + ·) 0
    let fns := (List.range n).map (fun k =>
      let (body, locs, params) := ent k
      let limit := ((List.range n).map (fun j => (ent j).1)).foldl (fun m o => if body < o && o < m then o else m) sec.length
      ({ body := body, limit := limit, params := params, locals := (sliceB sec (start k) locs).map BitVec.toNat } : VFn))
    match (List.range n).find? (fun k =>
      let (body, locs, params) := ent k
      decide (sec.length ≤ body) || decide (locs < params) || !zeroAt sec (23 + 8 * k) 1 || decide (sec.length < start k + locs) ||
      (sliceB sec (start k) locs).any (fun t => t == 0 || decide (3 < t.toNat))) with
    | some k => .error (k, 16 + 8 * k)
    | none => .ok fns

/-- R23: the first refusal of a section: its function and byte offset. Functions are verified in the order of their indices,
wherever their bodies lie. DESIGN CHOICE, log 101. -/
def versuReject (sec : List Byte) : Option (Nat × Nat) :=
  match versuFns sec with
  | .error e => some e
  | .ok fns =>
    (fns.mapIdx (fun k f => (k, f))).findSome? (fun x =>
      (versuBody fns x.2 x.2.limit (x.2.limit + 1) { st := [], cons := [], guard := false }
        (sliceB sec x.2.body (x.2.limit - x.2.body))).map (fun o => (x.1, o)))

end Sys2Proof.Machine
end

