-- ==== Sys2Proof/Machine/Loader.lean ====
section
/-!
DEFINITION. The loader: program objects (R12 to R17, R439), the choice of a form (R18, R19), signatures (R24), measurement
(R26, R418) and LOAD (R27, R435).
-/
namespace Sys2Proof.Machine

/-! ### The container (R12 to R15, R439) -/

/-- A section: kind, offset, length. -/
structure Sect where
  kind : Nat
  ofs  : Nat
  len  : Nat
  deriving DecidableEq, Repr

def Sect.bytes (x : Sect) (b : List Byte) : List Byte := sliceB b x.ofs x.len

/-- The section table of an object. -/
def objSects (b : List Byte) : List Sect :=
  (List.range (leAt b 8 2)).map (fun k =>
    let o := leAt b 0x0C 4 + 16 * k
    { kind := leAt b o 2, ofs := leAt b (o + 4) 4, len := leAt b (o + 8) 8 })

def kindOf (xs : List Sect) (k : Nat) : List Sect := xs.filter (fun x => x.kind == k)

/-- No two byte ranges overlap. DEDUCED, log 81. -/
def disjoint : List (Nat × Nat) → Bool
  | [] => true
  | x :: xs => xs.all (fun y => x.2 == 0 || y.2 == 0 || decide (x.1 + x.2 ≤ y.1) || decide (y.1 + y.2 ≤ x.1)) && disjoint xs

/-- R12, R13: header and section table. "The last section of the object" is read both ways at once: the signature is the last
entry of the table and the last bytes of the object. DEDUCED, log 81. -/
def headerOk (b : List Byte) : Bool :=
  let n := leAt b 8 2
  let tbl := leAt b 0x0C 4
  let xs := objSects b
  let count (k : Nat) : Nat := (kindOf xs k).length
  decide (64 ≤ b.length) && leAt b 0 4 == 0x4F504B53 && leAt b 4 2 == 1 && leAt b 6 2 == 64 && decide (2 ≤ n) && decide (n ≤ 96) &&
  zeroAt b 0x0A 2 && tbl % 64 == 0 && leAt b 0x10 8 == b.length && zeroAt b 0x18 40 && decide (tbl + 16 * n ≤ b.length) &&
  (List.range n).all (fun k => zeroAt b (tbl + 16 * k + 2) 2) &&
  xs.all (fun x => decide (1 ≤ x.kind) && decide (x.kind ≤ 5) && x.ofs % 64 == 0 && decide (x.ofs + x.len ≤ b.length)) &&
  disjoint ((0, 64) :: (tbl, 16 * n) :: xs.map (fun x => (x.ofs, x.len))) &&
  count 1 == 1 && decide (count 2 ≤ 1) && decide (count 3 ≤ 15) && decide (count 4 ≤ 64) && count 5 == 1 &&
  decide (1 ≤ count 2 + count 3) &&
  (match xs.getLast? with
   | some x => x.kind == 5 && x.len == 3389 && x.ofs + x.len == b.length
   | none => false)

/-- R439: the header of a data image. DEDUCED, log 81. -/
def imageOk (x : List Byte) : Bool :=
  decide (16 ≤ x.length) && decide (leAt x 0 1 ≤ 30) && zeroAt x 1 7 && decide (leAt x 8 8 ≤ x.length - 16)

/-- R14, R30: a directory entry; `versu` is the function count of the Versu section. With such a section, a function index at or
above the count is outside its limits; R14 gives no limit for that case. DESIGN CHOICE, log 99. -/
def dirOk (e : List Byte) (versu : Option Nat) : Bool :=
  let n := leAt e 0x20 2
  let w := 2 ^ leAt e 0x22 1
  let h := leAt e 0x24 2
  let roles := leAt e 0x23 1
  let kind (k : Nat) : Nat := leAt e (0x30 + 4 * k) 1
  let cnt (k : Nat) : Nat := leAt e (0x32 + 4 * k) 2
  let bud (k : Nat) : Nat := leAt e (0x3C + k) 1
  let used (k : Nat) : Bool := decide (k < max 1 roles)
  let text := (sliceB e 0 32).takeWhile (· != 0)
  text.all (fun b => decide (b.toNat < 128)) && zeroAt e text.length (32 - text.length) &&
  decide (1 ≤ n) && decide (n ≤ 1024) && decide (leAt e 0x22 1 ≤ 7) && decide (roles ≤ 3) && decide (1 ≤ h) && decide (h ≤ 1024) &&
  decide (h * w ≤ 32 * n) && decide (h * w ≤ 32768) && zeroAt e 0x26 2 && decide (leAt e 0x28 4 ≤ 524288) &&
  (match versu with
   | none => leAt e 0x2C 4 == 0xFFFFFFFF
   | some f => decide (leAt e 0x2C 4 < f)) &&
  (List.range 3).all (fun k =>
    zeroAt e (0x31 + 4 * k) 1 &&
    (if k < roles then decide (1 ≤ kind k) && decide (kind k ≤ 3) && decide (1 ≤ cnt k) else kind k == 0 && cnt k == 0) &&
    (if used k then decide (1 ≤ bud k) && decide (bud k ≤ 32) else bud k == 0)) &&
  zeroAt e 0x3F 1 && (roles == 0 || cnt 0 + cnt 1 + cnt 2 == n)

/-- R15: a native variant's header, code and entry table. -/
def variantOk (x : List Byte) (kernels : Nat) : Bool :=
  let sel := leAt x 2 2
  let co := leAt x 4 4
  let cl := leAt x 8 4
  let et := leAt x 0x10 4
  decide (32 ≤ x.length) && leAt x 0 2 == 1 && decide (1 ≤ sel) && decide (sel ≤ 256) && decide (32 + sel ≤ x.length) &&
  co % 64 == 0 && cl % 64 == 0 && decide (cl ≤ 16 * 2 ^ 20) && decide (co + cl ≤ x.length) && leAt x 0x0C 2 == kernels && zeroAt x 0x0E 2 &&
  decide (et + 4 * kernels ≤ x.length) && zeroAt x 0x14 12 &&
  (List.range kernels).all (fun k =>
    let line := leAt x (et + 4 * k) 4
    decide (64 * line < cl) && lwTgt (lineWord (lineOf (sliceB x (co + 64 * line) 64))) 0)

/-- The kernels of the directory, with the entry lines of a form. -/
def objKernels (dir : List Byte) (entry : Nat → Nat) : List Kernel :=
  (List.range (dir.length / 64)).map (fun k =>
    let e := sliceB dir (64 * k) 64
    { nGroups := leAt e 0x20 2, logW := leAt e 0x22 1, gridH := leAt e 0x24 2, memSize := leAt e 0x28 4,
      roles := (List.range (leAt e 0x23 1)).map (fun r => (leAt e (0x30 + 4 * r) 1, leAt e (0x32 + 4 * r) 2)),
      budgets := (List.range 3).map (fun r => 8 * leAt e (0x3C + r) 1), entry := entry k })

/-! ### Selectors (R16, R17) -/

/-- R17: WCQ. -/
def wcq (s : State) (p : Partition) : Nat :=
  let ns := (p.quads.map (fun q => (acceptingCores s q).length)).filter (fun n => n != 0)
  match ns with
  | [] => 0
  | n :: rest => rest.foldl min n

/-- R17: the discovered quantities of a partition. DESIGN CHOICE, log 15. -/
def quantities (s : State) (p : Partition) : List Nat :=
  [wcq s p, p.rfmode, p.spcache, if s.svclevel == 0 then 0x03 else 0x1F, gridLanes (p.rfmode == 1), s.svclevel, Config.versuMax]

/-- R16: a comparison or logical operation on a and b. -/
def selOp (op a b : Nat) : Nat :=
  let t (x : Bool) : Nat := if x then 1 else 0
  match op with
  | 0x10 => t (a == b) | 0x11 => t (a != b) | 0x12 => t (decide (a < b)) | 0x13 => t (decide (a ≤ b))
  | 0x14 => t (decide (b < a)) | 0x15 => t (decide (b ≤ a)) | 0x18 => a &&& b
  | 0x20 => t (a != 0 && b != 0) | _ => t (a != 0 || b != 0)

/-- A selector run on quantities: none where it is malformed. -/
def selRun (q : List Nat) : Nat → List Byte → List Nat → Option Bool
  | 0, _, _ => none
  | fuel + 1, bs, st =>
    let push (rest : List Byte) (x : Nat) : Option Bool := if 16 ≤ st.length then none else selRun q fuel rest (x :: st)
    match bs with
    | [] => none
    | b :: rest =>
      match b.toNat with
      | 0x00 => match rest, st with | [], [x] => some (x != 0) | _, _ => none
      | 0x01 => match rest with | n :: r => push r (q.getD n.toNat 0) | [] => none
      | 0x02 => if rest.length < 4 then none else push (rest.drop 4) (leAt rest 0 4)
      | 0x22 => match st with | a :: t => selRun q fuel rest ((if a == 0 then 1 else 0) :: t) | [] => none
      | op =>
        if (0x10 ≤ op && op ≤ 0x15) || op == 0x18 || op == 0x20 || op == 0x21 then
          match st with
          | y :: x :: t => selRun q fuel rest (selOp op x y :: t)
          | _ => none
        else none

/-- The selector of a variant section. -/
def selectorOf (q : List Nat) (x : List Byte) : Option Bool := selRun q 300 (sliceB x 32 (leAt x 2 2)) []

/-! ### Signatures (R24) -/

/-- An enrolled key by algorithm and identifier. -/
def findKey (keys : List Key) (alg id : Nat) : Option Key := keys.find? (fun k => k.alg == alg && k.id == id)

/-- A signature block over a digest, with the keys that may sign: the classes of its two keys, where both verify. DESIGN CHOICE, log 14. DEDUCED, log 81. -/
def signedBy (keys : List Key) (blk digest : List Byte) : Option (Nat × Nat) :=
  match findKey keys 1 (leAt blk 0 8), findKey keys 2 (leAt blk 8 8) with
  | some e, some m =>
    if blk.length == 3389 && Config.ed25519Ok e.key digest (sliceB blk 16 64) && Config.mldsaOk m.key digest (sliceB blk 80 3309) then
      some (e.cls, m.cls)
    else none
  | _, _ => none

/-- The SHA-384 digest, 48 bytes. DESIGN CHOICE, log 14. -/
def digest (b : List Byte) : List Byte := sliceB (Config.sha384 b) 0 48

/-! ### Measurement (R26, R418) -/

/-- One extend of a context's CAR. -/
def Ctx.extend (c : Ctx) (dg : List Byte) (kind status : Nat) : Ctx :=
  { c with car := digest (c.car ++ dg ++ leBytes 2 kind ++ leBytes 1 status),
           log := c.log ++ [{ digest := dg, kind := kind, status := status }] }

/-! ### Choosing a form (R18, R19) -/

/-- The form of an object on a partition: 0 the translation, n its n-th variant; none where it has neither. -/
def chooseForm (s : State) (p : Partition) (b : List Byte) : Option Nat :=
  let xs := objSects b
  let vs := (kindOf xs 3).mapIdx (fun k x => (k + 1, x))
  let hit := if s.nativeOk then vs.find? (fun v => selectorOf (quantities s p) (v.2.bytes b) == some true) else none
  match hit with
  | some v => some v.1
  | none => if (kindOf xs 2).isEmpty then none else some 0

/-- The code of a form and its entry lines. DESIGN CHOICE, log 15. -/
def formCode (s : State) (p : Partition) (b : List Byte) (form : Nat) : List Byte × (Nat → Nat) :=
  let xs := objSects b
  match form with
  | 0 =>
    let out := Config.nirgus (((kindOf xs 2).map (fun x => x.bytes b)).headD []) (quantities s p)
    (out.1, fun k => out.2.getD k 0)
  | n + 1 =>
    let x := (((kindOf xs 3)[n]?).map (fun x => x.bytes b)).getD []
    (sliceB x (leAt x 4 4) (leAt x 8 4), fun k => leAt x (leAt x 0x10 4 + 4 * k) 4)

/-! ### The load map (R435) -/

/-- The pages of 64 KiB that a range of addresses meets. -/
def pagesOf (va n : Nat) : List Nat :=
  if n == 0 then [] else (List.range ((va + n - 1) / 65536 - va / 65536 + 1)).map (fun k => (va / 65536 + k) * 65536)

/-- A page of a context is mapped by a local leaf with R, and X where code lies in it. -/
def pageOk (s : State) (root va : Nat) (x : Bool) : Bool :=
  match walk s root (BitVec.ofNat 64 va) with
  | .ok l => bits l.word 9 8 == 0 && bit l.word 2 && (!x || bit l.word 4)
  | .error _ => false

/-- Writes bytes at virtual addresses of a context by physical address; DIRTY is set in each leaf. The bytes land whatever tags and
presence bits the lines have, and in all four frames of a replicated page at once. DESIGN CHOICE, log 99. -/
def loadPage (s : State) (root va : Nat) (bs : List Byte) : State :=
  match walk s root (BitVec.ofNat 64 va) with
  | .error _ => s
  | .ok l =>
    let pa := bits l.word 55 16 * 2 ^ 16 + va % l.size
    let s1 := (framesOf pa l.size (bit l.word 6)).foldl (fun s a => wrFrame s a bs) s
    { s1 with mem := s1.mem.put l.loc (s1.mem.byte l.loc ||| 0x80) }

def loadBytes (s : State) (root va : Nat) (bs : List Byte) : State :=
  (pagesOf va bs.length).foldl (fun s p =>
    let lo := max p va
    loadPage s root lo (sliceB bs (lo - va) (min (p + 65536) (va + bs.length) - lo))) s

/-- The places of the images: in order, each at the lowest address of its alignment from the previous one's end. -/
def placeImages (base : Nat) : List (List Byte) → List (Nat × List Byte)
  | [] => []
  | x :: xs =>
    let al := 2 ^ leAt x 0 1
    let a := ceilDiv base al * al
    (a, sliceB x 16 (leAt x 8 8)) :: placeImages (a + leAt x 8 8) xs

/-! ### LOAD -/

/-- A load completion record (R435). -/
def loadRecord (status handle form w10 w18 : Nat) (images : List Nat) : List Byte :=
  leBytes 4 status ++ leBytes 4 handle ++ leBytes 1 form ++ leBytes 7 0 ++ leBytes 8 w10 ++ leBytes 8 w18 ++
  leBytes 4 images.length ++ leBytes 4 0 ++ images.flatMap (leBytes 8)

/-- A refused load changes nothing but its record. -/
def refuseLoad (s : State) (c : MCmd) (status w10 w18 : Nat) : State × Nat :=
  (s.cmdWrite c.a3 (loadRecord status 0 0 w10 w18 []), status)

/-- The code and images are placed, and the object is the context's (R435). -/
def placeObject (s : State) (c : MCmd) (x : Ctx) (b : List Byte) (form base : Nat) (code : List Byte) (entry : Nat → Nat)
    (images : List (Nat × List Byte)) (region : Nat × Nat) : State :=
  let root := x.ptrootUsed.toNat
  let s1 := images.foldl (fun s i => loadBytes s root i.1 i.2) (loadBytes s root base code)
  let dir := ((kindOf (objSects b) 1).map (fun d => d.bytes b)).headD []
  let o : Obj := { form := form, codeBase := base, codeLen := code.length, kernels := objKernels dir entry, bytes := b,
                   region := region, quants := quantities s (partOf s c.ctx) }
  let h := x.nextHandle
  let s2 := { s1 with ctxs := Map.put s1.ctxs c.ctx { x with objs := Map.put x.objs h o, nextHandle := h + 1 } }
  s2.cmdWrite c.a3 (loadRecord 0 h form base code.length (images.map Prod.fst))

/-- The extends of a load: every section but the signature in table order, and Nirgus output. -/
def measure (x : Ctx) (b code : List Byte) (form status : Nat) : Ctx :=
  let x1 := ((objSects b).filter (fun k => k.kind != 5)).foldl (fun x k => x.extend (digest (k.bytes b)) k.kind status) x
  if form == 0 then x1.extend (digest code) 0x0100 status else x1

/-- The load map's checks, the measurement and the placement of a chosen form. A PTROOT of 0, its value before the supervisor
writes it (R436), names no root table. DEDUCED, log 81. -/
def finishLoad (s : State) (c : MCmd) (x : Ctx) (b : List Byte) (form status : Nat) : State × Nat :=
  let (code, entry) := formCode s (partOf s c.ctx) b form
  let map := s.cmdRead c.a2 32
  let base := leAt map 0 8
  let images := placeImages (leAt map 0x10 8) ((kindOf (objSects b) 4).map (fun k => k.bytes b))
  let root := x.ptrootUsed.toNat
  let dataEnd := leAt map 0x10 8 + leAt map 0x18 8
  let ok := root != 0 && base % 64 == 0 && leAt map 8 8 % 64 == 0 && decide (code.length ≤ leAt map 8 8) &&
    (pagesOf base code.length).all (fun p => pageOk s root p true) &&
    images.all (fun i => decide (i.1 + i.2.length ≤ dataEnd) && (pagesOf i.1 i.2.length).all (fun p => pageOk s root p false))
  if !ok then refuseLoad s c 9 0 code.length
  else (placeObject s c (measure x b code form status) b form base code entry images (base, leAt map 8 8), 0)

/-- R23, R25: why the Versu section of an object is not translated: a status and the value of the record's 0x10 field. -/
def versuRefusal (b : List Byte) : Option (Nat × Nat) :=
  let v := ((kindOf (objSects b) 2).map (fun y => y.bytes b)).headD []
  match versuReject v with
  | some r => some (6, r.1 + r.2 * 2 ^ 32)
  | none =>
    if leAt v 0 2 < Config.versuMax - 4 then some (7, 0) else if Config.versuMax < leAt v 0 2 then some (8, 0) else none

/-- R18: the checks of an object in order, up to its form. An empty kernel directory breaks R13; the manual states no lower limit
on kernels. DESIGN CHOICE, log 99. -/
def loadObject (s : State) (c : MCmd) (x : Ctx) (b : List Byte) : State × Nat :=
  let xs := objSects b
  let sec (k : Nat) : List (List Byte) := (kindOf xs k).map (fun y => y.bytes b)
  let dir := (sec 1).headD []
  let versu := (sec 2).head?
  let fns := versu.map (fun v => leAt v 2 2)
  let sig := (sec 5).headD []
  if !headerOk b || dir.length % 64 != 0 || dir.isEmpty || !(sec 4).all imageOk || !(sec 3).all (fun v => variantOk v (dir.length / 64)) then
    refuseLoad s c 1 0 0
  else if !(List.range (dir.length / 64)).all (fun k => dirOk (sliceB dir (64 * k) 64) fns) then refuseLoad s c 2 0 0
  else
    match signedBy (s.ownerKeys ++ x.keys) sig (digest (b.take (b.length - 3389))) with
    | none => refuseLoad s c 3 0 0
    | some (e, m) =>
      let status := if e == 1 && m == 1 then 1 else 2
      if (sec 3).any (fun v => (selectorOf (quantities s (partOf s c.ctx)) v).isNone) then refuseLoad s c 4 0 0
      else
        match chooseForm s (partOf s c.ctx) b with
        | none => refuseLoad s c 5 0 0
        | some 0 =>
          match versuRefusal b with
          | some r => refuseLoad s c r.1 r.2 0
          | none => finishLoad s c x b 0 status
        | some n => finishLoad s c x b n status

/-- LOAD (R18, R435). DESIGN CHOICE, log 65. DEDUCED, log 81. -/
def execLoad (c : MCmd) (s : State) : Host.Outcome State Fault Refusal :=
  asCommand 0x02 c (supOf s c.who c.ctx) s (fun s =>
    match Map.find s.ctxs c.ctx with
    | none => (s, 0xFF)
    | some x => loadObject s c x (s.cmdRead c.a0 c.a1.toNat))

/-- R19: where the code of a newly chosen form goes: the lowest place of the object's code region that the code of no resident group
of the context meets and whose pages are mapped as R435 asks. The manual names no place. DESIGN CHOICE, log 99. -/
def formPlace (s : State) (ctx : Nat) (o : Obj) (n : Nat) : Option Nat :=
  let used := (s.groups.filter (fun g => g.2.ctx == ctx)).map (fun g => (g.2.codeBase, g.2.codeBase + 64 * g.2.codeLines))
  let root := hubRoot s ctx
  let fits (a : Nat) : Bool :=
    decide (o.region.1 ≤ a) && decide (a + n ≤ o.region.1 + o.region.2) && used.all (fun u => decide (u.2 ≤ a) || decide (a + n ≤ u.1)) &&
    (pagesOf a n).all (fun p => pageOk s root p true)
  ((o.region.1 :: used.map Prod.snd).filter fits).min?

/-- R19: after a THAW an object takes the form its selectors now choose, a translation being made again for other quantities; teams
placed from now on run it, and resident ones keep their own code. Where no form is chosen, the Versu section is refused or no
place is left, the object keeps the form it had. DESIGN CHOICE, log 99. -/
def rechoose (ctx : Nat) (p : Partition) (s : State) (h : Nat) (o : Obj) : State :=
  match chooseForm s p o.bytes with
  | none => s
  | some f =>
    let q := quantities s p
    if f == o.form && (f != 0 || q == o.quants) then s
    else if f == 0 && (versuRefusal o.bytes).isSome then s
    else
      let (code, entry) := formCode s p o.bytes f
      match formPlace s ctx o code.length with
      | none => s
      | some base =>
        let dir := ((kindOf (objSects o.bytes) 1).map (fun d => d.bytes o.bytes)).headD []
        let o1 := { o with form := f, codeBase := base, codeLen := code.length, kernels := objKernels dir entry, quants := q }
        let s1 := loadBytes s (hubRoot s ctx) base code
        { s1 with ctxs := Map.modify s1.ctxs ctx (fun x => { x with objs := Map.put x.objs h o1 }) }

end Sys2Proof.Machine
end

