-- ==== Sys2Proof/Machine/Atlas.lean ====
section
/-!
DEFINITION. Atlas images (R402, R403, R406 to R408), FREEZE (R400, R401) and DIRTYSCAN (R404, R405). What an image holds is
an `Atlas`, with virtual names in place of physical ones; the bytes of sections without a stated layout are a free value.
-/
namespace Sys2Proof.Config

/-- R407: the bytes of a section whose layout the manual does not give, by kind and number among its kind; free. DESIGN CHOICE, log 83. -/
opaque sectionBytes : Nat → Nat → Machine.Atlas → List Byte
/-- R409: what a THAW reads from an image's sections; free, but for `readImage`, which holds it to the bytes. DESIGN CHOICE, log 83. -/
opaque parseImage : List Byte → Option Machine.Atlas

end Sys2Proof.Config

namespace Sys2Proof.Machine

/-! ### Renaming -/

/-- How names change between a device and an image: model numbers, addresses of scratchpad objects, and cores. -/
structure Ren where
  id   : Nat → Nat
  pa   : Nat → Nat
  core : Nat → Nat
  die  : Nat → Nat

def Ren.loc (r : Ren) (l : ObjLoc) : ObjLoc := match l with | .team t o => .team (r.id t) o | .phys a => .phys (r.pa a)
def Ren.wait (r : Ren) (w : Wait) : Wait :=
  match w with
  | .phase l p sc => .phase (r.loc l) p sc
  | .peg pa q e a => .peg (r.pa pa) q (r.id e) a
  | .grid k sc n pc => .grid k sc (r.id n) pc
  | .publish sc n f => .publish sc (r.id n) f
  | .coll op => .coll (r.id op)
  | w => w
/-- A split waits as before; a line it has begun no clause in is fetched again. -/
def Ren.split (r : Ren) (p : Split) : Split := { p.unfetch with wait := r.wait p.wait }
def Ren.op (r : Ren) (o : HomeOp) : HomeOp :=
  match o with
  | .arrive l n => .arrive (r.loc l) n
  | .mortise pa q d => .mortise (r.pa pa) q d
  | o => o
def Ren.entry (r : Ren) (e : Entry) : Entry := { e with id := r.id e.id, op := r.op e.op }
def Ren.owner (r : Ren) (o : FrameOwner) : FrameOwner :=
  match o with
  | .writer => .writer
  | .job n => .job (r.id n)
  | .copy g c op => .copy (r.id g) c (r.id op)
  | .obj l => .obj (r.loc l)
  | .grid l k => .grid (r.id l) k
def Ren.red (r : Ren) (e : RedEntry) : RedEntry := { e with id := r.id e.id, gid := r.id e.gid, owner := r.owner e.owner }
def Ren.held (r : Ren) (h : HeldWrite) : HeldWrite := { h with tag := r.id h.tag, pkt := { h.pkt with tag := r.id h.pkt.tag } }
/-- What an origin or an engine's credit names: a join record's number from 2^60 on is no model number. -/
def Ren.ref (r : Ren) (n : Nat) : Nat := if n < 2 ^ 60 then r.id n else n
/-- An origin; its slot is its group's. -/
def Ren.origin (r : Ren) (o : Origin) : Origin :=
  { o with id := r.id o.id, gid := r.id o.gid, core := r.core o.core, slot := 0, ref := r.ref o.ref }
def Ren.src (r : Ren) (x : ApplySrc) : ApplySrc :=
  match x with
  | .none => .none
  | .arrive g e => .arrive (r.id g) (r.id e)
  | .engine y va => .engine { y with gid := r.id y.gid, ref := r.ref y.ref } va
def Ren.apply (r : Ren) (h : HeldApply) : HeldApply := { h with loc := r.loc h.loc, src := r.src h.src }
def Ren.res (r : Ren) (x : Resolution) : Resolution := { x with origin := r.origin x.origin }
def Ren.group (r : Ren) (g : Group) : Group :=
  { g with team := r.id g.team, splits := g.splits.map (fun p => (p.1, r.split p.2)), entries := g.entries.map r.entry,
           red := g.red.map r.red, redUpTo := r.id g.redUpTo, held := g.held.map r.held, openOrg := g.openOrg.map r.id,
           resolved := g.resolved.map r.res }
def Ren.plane (r : Ren) (o : PlaneOp) : PlaneOp := { o with arrivals := o.arrivals.map (fun a => { a with gid := r.id a.gid }) }
def Ren.team (r : Ren) (t : Team) : Team :=
  { t with launch := r.id t.launch, cluster := r.id t.cluster, planeOps := t.planeOps.map (fun o => (o.1, r.plane o.2)),
           migrate := t.migrate.map (fun m => { m with gid := r.id m.gid, core := r.core m.core }) }
def Ren.cluster (r : Ren) (c : Cluster) : Cluster := { c with launch := r.id c.launch, teams := c.teams.map r.id }
def Ren.space (r : Ren) (c : CSpace) : CSpace := match c with | .team t => .team (r.id t) | c => c
/-- An operation of a copy engine; the lines it holds absent are named by their addresses. -/
def Ren.copy (r : Ren) (o : CopyOp) : CopyOp :=
  { o with id := r.id o.id, gid := r.id o.gid, stamp := r.id o.stamp, srcSp := r.space o.srcSp, dstSps := o.dstSps.map r.space,
           lines := o.lines.foldl (fun (m : SMap Nat) (l : Nat × Nat) => Map.put m (r.pa (64 * l.1) / 64) l.2) ([] : SMap Nat),
           far := [], flight := [] }
def Ren.past (r : Ren) (p : GridPast) : GridPast := { p with gid := r.id p.gid, cluster := r.id p.cluster, die := r.die p.die }
def Ren.bar (r : Ren) (b : GridBar) : GridBar :=
  { b with launch := r.id b.launch, arrived := b.arrived.map (fun a => (r.id a.1, a.2)), red := b.red.map r.red, bad := b.bad.map r.id,
           past := b.past.map r.past, spoilt := b.spoilt.map (fun p => (r.id p.1, r.past p.2)), told := b.told.map r.id }
def Ren.map {β : Type} (r : Ren) (f : β → β) (m : SMap β) : SMap β := m.map (fun x => (r.id x.1, f x.2))
def Ren.barRed (r : Ren) (b : ObjLoc × Nat × List RedEntry) : ObjLoc × Nat × List RedEntry := (r.loc b.1, r.id b.2.1, b.2.2.map r.red)

/-! ### Leaves of a context (R249, R404, R407) -/

/-- The valid leaves under a table, in ascending virtual address. -/
def leavesFrom (s : State) : List (Nat × Nat × Nat) → Nat → Nat → List Leaf
  | [], _, _ => []
  | (sh, n, size) :: rest, tbl, va =>
    (List.range n).flatMap (fun i =>
      let loc := tbl + 8 * i
      let e : DWord := BitVec.ofNat 64 (leNat (s.rd loc 8))
      if !bit e 0 then []
      else if bit e 1 then (if size != 0 && leafOk s e size then [{ word := e, loc := loc, page := va + i * 2 ^ sh, size := size }] else [])
      else if rest.isEmpty || bits e 15 2 != 0 || bits e 63 56 != 0 || !populated s (bits e 55 16 * 2 ^ 16) then []
      else leavesFrom s rest (bits e 55 16 * 2 ^ 16) (va + i * 2 ^ sh))

def leavesOf (s : State) (root : Nat) : List Leaf := if root == 0 then [] else leavesFrom s walkLevels root 0

/-- The frame of a local leaf and the bytes it spans. -/
def Leaf.frame (l : Leaf) : Nat := bits l.word 55 16 * 2 ^ 16
def Leaf.span (l : Leaf) : Nat := if bit l.word 6 then 4 * l.size else l.size
/-- The leaf maps scratchpad. -/
def Leaf.scratch (l : Leaf) : Bool := bits l.word 9 8 == 0 && (spDie l.frame).isSome

/-- The context's scratchpad leaves. -/
def scratchLeaves (s : State) (ctx : Nat) : List Leaf := (leavesOf s (ctxRoot s ctx)).filter Leaf.scratch

/-! ### Collecting (R402, R403, R407) -/

/-- Ordinals of the quadrants, cores and bays of a partition. -/
def quadOrd (p : Partition) (q : Nat) : Nat := ((sortBy (fun q => [q]) p.quads).findIdx? (fun x => x == q)).getD 0
def coreOrd (p : Partition) (c : Nat) : Nat := 16 * quadOrd p (c / 16) + c % 16
def bayOrd (p : Partition) (b : Nat) : Nat := 4 * quadOrd p (b / 4) + b % 4
/-- The dies of a partition, ascending. -/
def sortedDies (p : Partition) : List Nat := ((sortBy (fun q => [q]) p.quads).map (fun q => q / 4)).eraseDups
def dieOrd (p : Partition) (d : Nat) : Nat := ((sortedDies p).findIdx? (fun x => x == d)).getD 0

/-- A core's name in an image; a number that names no core of the partition stays none, also after THAW. -/
def coreName (p : Partition) (c : Nat) : Nat := if c < 256 && p.quads.contains (c / 16) then coreOrd p c else 256

/-- The name of a scratchpad place in an image: its virtual address, from 2^56 on with the frame of a replicated page (R251). A place
that no page of the context maps keeps its own address, from 2^60 on. DESIGN CHOICE, log 83. -/
def toVa (ls : List Leaf) (pa : Nat) : Nat :=
  match ls.find? (fun l => decide (l.frame ≤ pa) && decide (pa < l.frame + l.span)) with
  | some l => l.page + (pa - l.frame) % l.size + (pa - l.frame) / l.size * 2 ^ 56
  | none => pa + 2 ^ 60

/-- A page of the image. -/
def pageOf (s : State) (l : Leaf) : APage :=
  let lines := (List.range (l.span / 64)).map (fun k => l.frame / 64 + k)
  { va := l.page, page := l.size, size := l.span, bytes := (s.mem.filter (fun m => decide (l.frame ≤ m.1) && decide (m.1 < l.frame + l.span))).map (fun m => (m.1 - l.frame, m.2)),
    absent := (s.absent.filter (fun k => lines.contains k)).map (fun k => k - l.frame / 64),
    tags := (s.tags.filter (fun k => lines.contains k)).map (fun k => k - l.frame / 64),
    poison := (s.poison.filter (fun a => decide (l.frame ≤ 4 * a) && decide (4 * a < l.frame + l.span))).map (fun a => a - l.frame / 4) }

/-- The tiles of a core: its own where AOWN names the context, else those of the save area. -/
def accOf (s : State) (p : Partition) (ctx core : Nat) : Option AAcc :=
  let c := s.coreAt core
  if bit c.aown 6 && bits c.aown 5 0 == ctx then
    if c.acclive == 0 then none else some { core := coreOrd p core, live := c.acclive, rows := c.tiles }
  else
    let base := saveBase s ctx + core * 0x500000
    let live : BitVec 16 := BitVec.ofNat 16 (leNat (s.rd (base + 0x4D0000) 2))
    if live == 0 || !s.groups.any (fun g => g.2.core == core && g.2.ctx == ctx) then none
    else
      let rows := ((List.range 16).filter (fun t => live.getLsbD t)).foldl (fun (m : SMap Word) t =>
        (List.range 1024).foldl (fun (m : SMap Word) k =>
          Map.set 0 m (1024 * t + k) (BitVec.ofNat 32 (leNat (s.rd (base + 0x4C0000 + 4096 * t + 128 * (k / 32) + 4 * (k % 32)) 4)))) m)
        ([] : SMap Word)
      some { core := coreOrd p core, live := live, rows := rows }

/-- The reservations of a bay. -/
def resvOf (s : State) (p : Partition) (ctx : Nat) (b : Nat × Bay) : List AResv :=
  (b.2.resv.filter (fun r => r.2.ctx == ctx)).map (fun r =>
    let m := mrecOf r.2.w0 r.2.w1
    { bay := bayOrd p b.1, id := r.1, gen := Map.get 0 b.2.gens r.1, resv := r.2, bytes := b.2.rd (64 * m.base) (64 * m.len) })

/-- The queue of a mortise: per link its place, state and holder. -/
def linksOf (s : State) (ctx pa : Nat) : List (Nat × Nat × Option Nat) :=
  let q := loadMq s pa
  q.order.map (fun i =>
    let w := q.link i
    (lkSeq w, lkSt w, (s.groups.find? (fun g => g.2.ctx == ctx && heldBy g.2 w)).map Prod.fst))

/-- The mortises of the context's pages that have links, each once. -/
def mortises (s : State) (ls : List Leaf) : List Nat :=
  (s.tags.map (fun t => 64 * t)).filter (fun a =>
    ls.any (fun l => decide (l.frame ≤ a) && decide (a < l.frame + l.size)) && mortValid s (.phys a) && !(loadMq s a).order.isEmpty)

/-- R402: a collective's record keeps the contributions that have arrived; the member's own are sent again. DEDUCED, log 86. -/
def recordColl (o : CopyOp) : CopyOp :=
  { o with coll := o.coll.map (fun c => { c with chunks := c.chunks.filter (fun x => x.1 != c.me) }) }

/-- The image of a frozen context, with its Scribe blocks. DESIGN CHOICE, log 83. -/
def collect (s0 : State) (ctx : Nat) (x : Ctx) (blocks : List (List Byte)) : Atlas :=
  let s := (Map.keys s0.cores).foldl (fun s c => fillCore s c ctx) s0
  let p := partOf s ctx
  let ls := scratchLeaves s ctx
  let r : Ren := { id := fun n => n, pa := toVa ls, core := coreName p, die := dieOrd p }
  let mine := s.groups.filter (fun g => g.2.ctx == ctx)
  let lids := (s.launches.filter (fun l => l.2.ctx == ctx)).map Prod.fst
  let tids := (ctxTeams s ctx).map Prod.fst
  let mineLoc (l : ObjLoc) : Bool :=
    match l with
    | .team t _ => tids.contains t
    | .phys a => ls.any (fun l => decide (l.frame ≤ a) && decide (a < l.frame + l.span))
  let job := match x.job with | some j => j.job | none => 0
  { job := job, rank := (match x.job with | some j => j.rank | none => 0), rfmode := p.rfmode, spcache := p.spcache, gtc := s.gtc,
    nextId := s.nextId, ctx := { x with late := [], snaps := [] },
    queues := s.lqs.filter (fun q => q.2.ctx == ctx),
    launches := (s.launches.filter (fun l => l.2.ctx == ctx)).map (fun l =>
      (l.1, { l.2 with ranges := l.2.ranges.map (fun x => (quadOrd p x.1, x.2)) })),
    clusters := (s.clusters.filter (fun c => lids.contains c.2.launch)).map (fun c => 
      (c.1, { c.2 with quad := quadOrd p c.2.quad, names := c.2.names.map (coreOrd p) })),
    teams := (ctxTeams s ctx).map (fun t => (t.1, { r.team t.2 with core := coreOrd p t.2.core })),
    groups := mine.map (fun g => (g.1, { r.group g.2 with core := coreOrd p g.2.core, slot := 0, part := 0 })),
    accs := ((Map.keys s.cores).filter (fun c => p.quads.contains (c / 16))).filterMap (accOf s p ctx),
    resvs := s.bays.flatMap (resvOf s p ctx),
    pages := ls.map (pageOf s),
    links := (mortises s ls).map (fun a => (toVa ls a, linksOf s ctx a)),
    trigs := (s.triggers.filter (fun t => t.op.ctx == ctx)).map (fun t => { t with core := coreOrd p t.core, op := r.copy t.op }),
    fired := (s.fired.filter (fun f => f.2.2 == ctx)).map (fun f => (f.1, f.2.1)),
    ops := s.cores.flatMap (fun c => (c.2.ops.filter (fun o => o.ctx == ctx)).map (fun o => (coreOrd p c.1, recordColl (r.copy o)))),
    colls := if x.job.isSome then s.collIn.filter (fun m => m.job == job) else [],
    bars := (s.gridBars.filter (fun b => lids.contains b.launch)).map r.bar,
    arrived := if x.job.isSome then s.domainArr.filter (fun d => d.1 == job) else [],
    barRed := (s.barRed.filter (fun b => mineLoc b.1)).map r.barRed,
    absentAt := mine.filterMap (fun g => (presenceLine s g.2).map (fun a => (g.1, a))),
    applies := (s.heldApply.filter (fun h => h.ctx == ctx)).map r.apply,
    late := x.late,
    origins := s.cores.flatMap (fun c => (c.2.trapq.filter (fun o => o.ctx == ctx)).map (fun o => (coreOrd p c.1, r.origin o))),
    blocks := blocks,
    dirty := ((leavesOf s (ctxRoot s ctx)).filter (fun l => bit l.word 7)).map (fun l => (l.page, l.size)) }

/-! ### The image's bytes (R406 to R408) -/

/-- The record number of a team in an image. -/
def Atlas.recNo (a : Atlas) (tid : Nat) : Nat := (a.teams.findIdx? (fun t => t.1 == tid)).getD 0

/-- A group section: the record, then the register bytes. -/
def Atlas.groupBytes (a : Atlas) (gid : Nat) (g : Group) : List Byte := g.record (a.recNo g.team) (Map.find a.absentAt gid) ++ g.regBytes

/-- The sections before the signature: kind and bytes. DESIGN CHOICE, log 83. -/
def Atlas.sections (a : Atlas) : List (Nat × List Byte) :=
  let one (k : Nat) : Nat × List Byte := (k, Config.sectionBytes k 0 a)
  let many (k n : Nat) : List (Nat × List Byte) := (List.range n).map (fun i => (k, Config.sectionBytes k i a))
  let bays := (a.resvs.map AResv.bay).foldl (fun l b => if l.contains b then l else l ++ [b]) []
  [one 1, one 2] ++ many 3 a.teams.length ++ a.groups.map (fun g => (4, a.groupBytes g.1 g.2)) ++ many 5 a.accs.length ++
  many 6 bays.length ++ [one 7, one 8, one 9, one 10, one 11, one 12, (13, a.blocks.flatten), one 14, one 15]

/-- Zero-fills to a multiple of 64. -/
def pad64 (b : List Byte) : List Byte := b ++ List.replicate (ceilDiv b.length 64 * 64 - b.length) 0

/-- Table entries of sections placed from an offset on. -/
def sectTable : Nat → List (Nat × Nat) → List Byte
  | _, [] => []
  | at0, (k, n) :: rest => leBytes 2 k ++ leBytes 2 0 ++ leBytes 4 at0 ++ leBytes 8 n ++ sectTable (at0 + ceilDiv n 64 * 64) rest

/-- Everything before the signature section, which takes 3,389 bytes. DESIGN CHOICE, log 83. -/
def Atlas.body (a : Atlas) : List Byte :=
  let xs := a.sections
  let first := ceilDiv (64 + 16 * (xs.length + 1)) 64 * 64
  let data := xs.flatMap (fun x => pad64 x.2)
  let header := leBytes 4 0x534C5441 ++ leBytes 2 1 ++ leBytes 2 (xs.length + 1) ++ leBytes 8 (first + data.length + 3389) ++
    leBytes 2 a.job ++ leBytes 2 a.rank ++ leBytes 1 a.rfmode ++ leBytes 1 a.spcache ++ leBytes 2 0 ++ leBytes 8 a.gtc.toNat ++
    leBytes 4 a.teams.length ++ leBytes 4 a.groups.length ++ leBytes 4 64 ++ leBytes 20 0
  pad64 (header ++ sectTable first (xs.map (fun x => (x.1, x.2.length)) ++ [(0x10, 3389)])) ++ data

/-- The signature section of a body: the layout of R24, by the device's identity keys. -/
def identitySign (body : List Byte) : List Byte :=
  let d := digest body
  sliceB Config.identityIds 0 16 ++ sliceB (Config.identityEd d) 0 64 ++ sliceB (Config.identityMl d) 0 3309

/-- An image read back: the contents whose bytes it holds; of one that this device has written, the contents it was written
from. DESIGN CHOICE, log 83. -/
def readImage (s : State) (b : List Byte) : Option Atlas :=
  let holds (a : Atlas) : Bool := decide (3389 ≤ b.length) && a.body == b.take (b.length - 3389)
  match s.images.reverse.find? holds with
  | some a => some a
  | none => (Config.parseImage b).filter holds

/-! ### DIRTYSCAN (R404, R405) -/

/-- The bits a leaf sets: the 64 KiB units of the range that it maps. DEDUCED, log 87. -/
def scanUnits (lo n : Nat) (l : Leaf) : List Nat :=
  (List.range (l.size / 65536)).filterMap (fun k =>
    let a := l.page + 65536 * k
    if lo ≤ a && a < lo + n then some ((a - lo) / 65536) else none)

/-- The range holds every unit that a leaf maps. DEDUCED, log 87. -/
def scansWhole (lo n : Nat) (l : Leaf) : Bool := decide (lo ≤ l.page) && decide (l.page + l.size ≤ lo + n)

/-- One dirty leaf of the range: its bits are set, DIRTY is cleared, and no core keeps its translation; where the range has only a
part of it DIRTY stays, for what the bitmap does not report (R405). DEDUCED, log 87. -/
def scanLeaf (root lo n : Nat) (bitmap : Nat) (s : State) (l : Leaf) : State :=
  let s0 := { s with mem := s.mem.put l.loc (s.mem.byte l.loc &&& 0x7F) }
  let s1 := if scansWhole lo n l then { s0 with tlb := s0.tlb.flatMap (fun t => if t.loc == l.loc then refetch s0 root root t else [t]) } else s
  (scanUnits lo n l).foldl (fun s u =>
    { s with mem := s.mem.put (bitmap + u / 8) (s.mem.byte (bitmap + u / 8) ||| (1#8 <<< (u % 8))) }) s1

/-- R404: a range of whole units that is not empty. -/
def scanRange (c : MCmd) : Bool := c.a1.toNat != 0 && c.a0.toNat % 65536 == 0 && c.a1.toNat % 65536 == 0

/-- R404: a write of the context that was translated before the scan is not in memory yet. DEDUCED, log 87. -/
def scanHeld (s : State) (c : MCmd) : Bool :=
  (Map.find s.ctxs c.ctx).isSome && scanRange c && (s.frameQ.any (fun u => u.ctx == c.ctx) || namesPending s c.ctx ||
  s.fabReqs.any (fun r => (r.2.pkt.cls == 1 || r.2.pkt.cls == 2) && r.2.scribe.isNone && ctxOfJob s r.2.pkt.job == some c.ctx &&
    decide (c.a0.toNat ≤ r.2.pkt.addr.toNat) && decide (r.2.pkt.addr.toNat < c.a0.toNat + c.a1.toNat)))

/-- DIRTYSCAN: DIRTY of each leaf of the range is read and cleared, and sets the bitmap's bits of the units it maps; every
other bit of the bitmap keeps its value. It waits for writes by the translations it discards. DEDUCED, log 87. -/
def execDirtyscan (c : MCmd) (s : State) : Host.Outcome State Fault Refusal :=
  if s.freeze.isNone && s.cmdq.isEmpty && supOf s c.who c.ctx && scanHeld s c then .next (holdCommand s 0x08 c)
  else asCommand 0x08 c (supOf s c.who c.ctx) s (fun s =>
    let lo := c.a0.toNat
    let n := c.a1.toNat
    if (Map.find s.ctxs c.ctx).isNone then (s, 1)
    else if !scanRange c then (s, 2)
    else
      let ls := (leavesOf s (ctxRoot s c.ctx)).filter (fun l => bit l.word 7 && decide (l.page < lo + n) && decide (lo < l.page + l.size))
      (ls.foldl (scanLeaf (ctxRoot s c.ctx) lo n c.a2.toNat) s, 0))

/-! ### FREEZE (R400) -/

/-- The context's groups, its handler groups apart. -/
def ctxGroups (s : State) (ctx : Nat) : List (Nat × Group) := s.groups.filter (fun g => g.2.ctx == ctx && g.2.handler.isNone)

/-- An instruction in flight that runs no further: no request of it is at a peer, and no lane of it can be performed now: it is
faulted, or it waits on an absent line or on what is itself stopped. -/
def entryStopped (s : State) (gid : Nat) (e : Entry) : Bool :=
  !e.ready && maskMinus e.sent (e.done ||| e.fault) == 0 &&
  (lanesOf (maskMinus e.mask (e.done ||| e.fault))).all (fun l => performRef s gid e.id l 0 == s)

/-- R400 step 2: nothing runs but recorded operations. -/
def workStopped (s : State) (ctx : Nat) : Bool :=
  !s.groups.any (fun g => g.2.ctx == ctx && g.2.handler.isSome) &&
  (ctxGroups s ctx).all (fun g => g.2.entries.all (entryStopped s g.1)) &&
  s.frameQ.all (fun u => u.ctx != ctx) &&
  s.cores.all (fun c => c.2.ops.all (fun o => o.ctx != ctx || o.held || o.coll.isSome || (o.stopped && o.flight.isEmpty))) &&
  s.bays.all (fun b => b.2.reqs.all (fun r => r.ctx != ctx))

/-- A split whose CPYT or TRIG has not issued (R349, R354) issues it again when it resumes. -/
def unholdOps (s : State) (ctx : Nat) : State :=
  let ids := s.cores.flatMap (fun c => (c.2.ops.filter (fun o => o.ctx == ctx && o.held)).map CopyOp.id)
  let free (w : Wait) : Wait := match w with | .coll op => if ids.contains op then .none else w | w => w
  { s with
    cores := s.cores.map (fun c => (c.1, { c.2 with ops := c.2.ops.filter (fun o => !ids.contains o.id) })),
    groups := s.groups.map (fun g => (g.1, { g.2 with splits := g.2.splits.map (fun p => (p.1, { p.2 with wait := free p.2.wait })) })) }

/-- R400 step 3: markers go to every peer rank of the job, on every port that is up, past the egress hooks. -/
def sendMarkers (s : State) (ctx : Nat) : State × List Nat :=
  let ports := (s.ports.filter (fun p => p.2.st == 2)).map Prod.fst
  let all := (otherRanks s ctx).flatMap (fun r => ports.map (fun p => (r, p)))
  all.foldl (fun a x =>
    let (tag, s1) := a.1.takeId
    let p := { mkPacket s1 ctx 0x13 x.1 0 tag with addr := 0 }
    (sendOut s1 p (.marker p), a.2 ++ [tag])) (s, ([] : List Nat))

/-- R400 step 3: no write of the context is unanswered, but for held ones. -/
def writesAnswered (s : State) (ctx : Nat) : Bool :=
  (ctxGroups s ctx).all (fun g => g.2.acks == g.2.held.length)

/-- The Scribe jobs of a context, with their processors. -/
def scribeJobs (s : State) (ctx : Nat) : List (Nat × ScribeJob) :=
  s.scribes.flatMap (fun x => (x.2.jobs.filter (fun j => j.ctx == ctx)).map (fun j => (x.1, j)))

/-- A FREEZE ends with a status; with status 0 or 2 the length goes to MBARG1, or over MCTP with the answer (R440). DEDUCED, log 84. -/
def endFreeze (s : State) (f : FreezeJob) (status len : Nat) : State :=
  let s1 := { s with freeze := none }
  if status == 1 then reply s1 f.mctp 1
  else if f.mctp then { s1 with reports := s1.reports ++ [leBytes 1 status ++ leBytes 8 len] }
  else { reply s1 false status with mbarg1 := BitVec.ofNat 64 len }

/-- R400 step 6: the image is written with its signature, where the buffer holds it; the context is closed to requests. DESIGN CHOICE, log 83. -/
def writeImage (s0 : State) (f : FreezeJob) : State :=
  let s := settleFrames s0 f.ctx
  match Map.find s.ctxs f.ctx with
  | none => endFreeze s f 1 0
  | some x =>
    let a := collect s f.ctx x f.snaps
    let body := a.body
    let len := body.length + 3389
    if f.len < len then endFreeze (modCtx s f.ctx (fun x => { x with snaps := f.snaps })) f 2 len
    else
      let s1 := { (s.cmdWrite (BitVec.ofNat 64 f.buf) (body ++ identitySign body)) with
        ctxs := Map.put s.ctxs f.ctx { x with lateClosed := true, snaps := f.snaps }, images := s.images ++ [a] }
      endFreeze s1 f 0 len

/-- What begins with a step. DEDUCED, log 84. -/
def beginStep (s : State) (f : FreezeJob) : State :=
  match f.step with
  | 3 =>
    let s1 := { s with ctxs := Map.modify s.ctxs f.ctx (fun x => { x with lateStart := true }) }
    let (s2, n) := sendMarkers (unholdOps s1 f.ctx) f.ctx
    { s2 with freeze := some { f with markers := n, since := s.tick } }
  | 4 => { ((scribeJobs s f.ctx).foldl (fun s j => openGate s j.1 j.2.job) s) with freeze := some f }
  | 5 =>
    let snaps := (scribeJobs s f.ctx).map (fun j => jobBlock s j.1 j.2)
    let s1 := (scribeJobs s f.ctx).foldl (fun s j => closeGate s j.1 j.2.job) s
    { ((ctxGroups s1 f.ctx).foldl (fun s g => flushPoint s g.1) s1) with freeze := some { f with snaps := snaps } }
  | _ => { s with freeze := some f }

/-- FREEZE: step 1 begins; of a context that is frozen already, step 6 alone is taken, with the Scribe blocks taken before
(R440). DEDUCED, log 84. -/
def execFreeze (c : MCmd) (s : State) : Host.Outcome State Fault Refusal :=
  if s.freeze.isSome || !s.cmdq.isEmpty then .next (queueCommand s 0x06 c)
  else if !supOf s c.who c.ctx then .next (reply s c.mctp 0xFF)
  else
    match Map.find s.ctxs c.ctx with
    | none => .next (reply s c.mctp 1)
    | some x =>
      let f : FreezeJob :=
        { ctx := c.ctx, step := if x.frozen then 6 else 1, buf := c.a0.toNat, len := c.a1.toNat, since := s.tick, markers := [],
          snaps := if x.frozen then x.snaps else [], mctp := c.mctp }
      let cores := (s.cores.filter (fun k => k.2.active == some c.ctx)).map Prod.fst
      let s1 := if x.frozen then s else cores.foldl (fun s k => sleepGroups s k c.ctx) s
      .next { s1 with
        freeze := some f, mbstat := if c.mctp then s.mbstat else 1,
        ctxs := Map.put s1.ctxs c.ctx { x with frozen := true } }

/-- Whether a step's end is reached. DEDUCED, log 84. -/
def stepEnds (s : State) (f : FreezeJob) : Bool :=
  match f.step with
  | 1 => true
  | 2 => workStopped s f.ctx
  | 3 => f.markers.isEmpty && writesAnswered s f.ctx
  | 4 => (scribeJobs s f.ctx).all (fun j => snapReady s j.1 j.2.job)
  | 5 => (ctxGroups s f.ctx).all (fun g => g.2.red.all RedEntry.faulted && redApplied s g.1 { g.2 with red := [] } s.nextId)
  | _ => true

/-- FREEZE_STEP_END: the step's end condition holds and the next begins; the sixth ends the command. -/
def execFreezeStepEnd (s : State) : Host.Outcome State Fault Refusal :=
  match s.freeze with
  | none => .next s
  | some f =>
    if !stepEnds s f then .next s
    else if f.step == 6 then .next (writeImage s f)
    else .next (beginStep s { f with step := f.step + 1 })

/-- FREEZE_DRAIN_TIMEOUT: markers not returned within 2 ms (4,000,000 network clocks) are waited for no longer. DEDUCED, log 84. -/
def execFreezeDrainTimeout (s : State) : Host.Outcome State Fault Refusal :=
  match s.freeze with
  | none => .next s
  | some f => if f.step == 3 && f.since + 4000000 ≤ s.tick then .next { s with freeze := some { f with markers := [] } } else .next s

end Sys2Proof.Machine
end

