-- ==== Sys2Proof/Machine/Control.lean ====
section
/-!
DEFINITION. Class 10 control transfer (R131 to R142): a transfer checks its target first (R57), and a trap leaves
everything as it was.
-/
namespace Sys2Proof.Machine

/-- Transfers the whole split to a slot, with a group changed beside. -/
def Iss.transfer (c : Iss) (s : State) (g : Group) (pc : Nat) : Res State := do
  let (line, s1) ← targetLine s c.g pc (lowLane c.act)
  return s1.putG c.gid (g.setSplit c.pos (c.sp.enter pc line))

def Iss.target (c : Iss) (f : BFmt) : Nat := branchPc c.sp.pc f.toff f.tsl
def Iss.reconv (c : Iss) (f : BFmt) : Nat := branchPc c.sp.pc f.roff f.rsl

/-- R93: no number is left for a record. -/
def noRecord : Stop := .trap { cause := cMachine, detail := 3 }

/-- R90: the diverging branch. The taken lanes stay at the issuer's position; the others take the lowest free position,
or become the record's deferred side. -/
def diverge (s : State) (c : Iss) (kind target reconv : Nat) : Res State :=
  let t := c.on
  let n := maskMinus c.act c.on
  if t == 0 then .ok (c.done s c.g)
  else if n == 0 then c.transfer s c.g target
  else do
    let (line, s1) ← targetLine s c.g target (lowLane c.act)
    let fall := { c.sp.fall with mask := n, demoted := [], isDem := false, demNew := false, passed := 0 }
    let taken (j : Nat) : Split := { c.sp.enter target line with mask := t, link := some j }
    match c.g.freePos with
    | some p =>
      match c.g.newRec (mkRec kind reconv (t ||| n) c.sp.link .table) with
      | none => .error noRecord
      | some (g1, j) => return s1.putG c.gid ((g1.setSplit c.pos (taken j)).newSplit p { fall with link := some j })
    | none =>
      match c.g.newRec { mkRec kind reconv (t ||| n) c.sp.link .entering with d := true, dpc := nextPc c.sp.pc, dmask := n } with
      | none => .error noRecord
      | some (g1, j) => return s1.putG c.gid (g1.setSplit c.pos (taken j))

/-- R134: a back edge of the split's own loop record. -/
def loopEdge (s : State) (c : Iss) (j : JoinRec) (target : Nat) : Res State :=
  let n := maskMinus c.act c.on
  let g := c.g.putRec { j with exp := maskMinus j.exp n, arr := j.arr ||| n }
  if c.on == 0 then .ok (s.putG c.gid { g with splits := Map.del g.splits c.pos })
  else do
    let (line, s1) ← targetLine s c.g target (lowLane c.act)
    return s1.putG c.gid (g.setSplit c.pos { c.sp.enter target line with mask := c.on })

/-- R133: a region record opened by the whole split. DEDUCED, log 27. -/
def openRegion (s : State) (c : Iss) (kind reconv : Nat) : Res State :=
  if c.on == 0 then .ok (c.done s c.g)
  else
    match c.g.newRec (mkRec kind reconv c.act c.sp.link .entering) with
    | none => .error noRecord
    | some (g1, j) => .ok (s.putG c.gid (g1.setSplit c.pos { c.sp.fall with link := some j }))

/-- BRA: the whole split to the target (R132). -/
def execBra (f : BFmt) (s : State) : Host.Outcome State Fault Refusal :=
  asOnce f.r.g s (fun c => c.transfer s c.g (c.target f))

/-- BRC: a diverging branch, a loop's back edge, or a region (R133, R134). -/
def execBrc (f : BFmt) (s : State) : Host.Outcome State Fault Refusal :=
  asGroup f.r.g s (fun c =>
    match f.bk.toNat with
    | 0 => diverge s c 0 (c.target f) (c.reconv f)
    | 1 =>
      match c.sp.link.bind c.g.findRec with
      | some j =>
        if j.kind == 1 && j.rpc == c.reconv f then loopEdge s c j (c.target f)
        else diverge s c 1 (c.target f) (c.reconv f)
      | none => diverge s c 1 (c.target f) (c.reconv f)
    | 2 => openRegion s c 2 (c.reconv f)
    | _ => openRegion s c 1 (c.reconv f))

/-- BRK: the guarded lanes leave `n` records and wait at the n-th (R135). -/
def execBrk (f : BFmt) (s : State) : Host.Outcome State Fault Refusal :=
  asGroup f.r.g s (fun c =>
    let n := f.bk.toNat
    if c.on == 0 then .ok (c.done s c.g)
    else
      let es := c.g.chain n c.sp.link
      if es.length < n then .error (.trap { cause := cBadTarget })
      else
        let g := es.foldl (fun g r => g.putRec { r with exp := maskMinus r.exp c.on }) c.g
        let g := match es.getLast? with
          | none => g
          | some r => g.putRec { r with exp := maskMinus r.exp c.on, arr := r.arr ||| c.on }
        let left := maskMinus c.act c.on
        .ok (s.putG c.gid
          (if left == 0 then { g with splits := Map.del g.splits c.pos }
           else g.setSplit c.pos { c.sp.fall with mask := left })))

/-- CONT: the split to the head of its n-th loop region (R136). -/
def execCont (f : BFmt) (s : State) : Host.Outcome State Fault Refusal :=
  asOnce f.r.g s (fun c =>
    let n := f.bk.toNat
    let es := c.g.chain n c.sp.link
    match es.getLast? with
    | none => .error (.trap { cause := cBadTarget })
    | some r =>
      if es.length < n || r.kind != 1 then .error (.trap { cause := cBadTarget })
      else do
        let (line, s1) ← targetLine s c.g (c.target f) (lowLane c.act)
        let g := es.dropLast.foldl (fun g q => g.putRec { q with exp := maskMinus q.exp c.act }) c.g
        return s1.putG c.gid (g.setSplit c.pos { c.sp.enter (c.target f) line with link := some r.num }))

/-- LOOP: the counter goes down by 1; the split goes to the target while it is not 0 (R137). -/
def execLoop (f : BFmt) (s : State) : Host.Outcome State Fault Refusal :=
  asOnce f.r.g s (fun c =>
    let x := c.g.rdS c.fc f.r.dst.toNat - 1
    let g := c.g.wrS f.r.dst.toNat x
    if x == 0 then .ok (c.done s g) else c.transfer s g (c.target f))

/-- R139: the slot that the code position in OPA names, alike in every lane of the split. -/
def Iss.indirect (c : Iss) (r : BitVec 8) : Res Nat :=
  let x (l : Nat) : Word := c.g.rdV c.fc r.toNat l
  let k := lowLane c.act
  let d := maskOf (fun l => c.act.getLsbD l && x l != x k)
  if d != 0 then .error (.trap { cause := cIndDiverge, mask := some d })
  else
    match posPc c.g (x k) with
    | none => .error (.trap { cause := cBadTarget })
    | some pc => .ok pc

/-- R140: the return position into a v register in every lane of the split. -/
def Iss.writeReturn (c : Iss) (r : BitVec 8) : Group :=
  (lanesOf c.act).foldl (fun g l => g.wrV r.toNat l (codePos c.g (nextPc c.sp.pc))) c.g

/-- JMPI (R139). -/
def execJmpi (f : BFmt) (s : State) : Host.Outcome State Fault Refusal :=
  asOnce f.r.g s (fun c => do c.transfer s c.g (← c.indirect f.r.a))

/-- CALL: the return position, and the target (R140). -/
def execCall (f : BFmt) (s : State) : Host.Outcome State Fault Refusal :=
  asOnce f.r.g s (fun c => c.transfer s (c.writeReturn f.r.dst) (c.target f))

/-- CALLI (R139). -/
def execCalli (f : BFmt) (s : State) : Host.Outcome State Fault Refusal :=
  asOnce f.r.g s (fun c => do c.transfer s (c.writeReturn f.r.dst) (← c.indirect f.r.a))

/-- RET (R139). -/
def execRet (f : BFmt) (s : State) : Host.Outcome State Fault Refusal :=
  asOnce f.r.g s (fun c => do c.transfer s c.g (← c.indirect f.r.a))

/-- EXIT: the guarded lanes end; what is left of the split goes on (R141). -/
def execExit (f : BFmt) (s : State) : Host.Outcome State Fault Refusal :=
  asGroup f.r.g s (fun c => .ok (s.putG c.gid ((c.g.advance c.pos).exitLanes c.on)))

/-- YIELD: the split is demoted and the group's age is 0 (R142). -/
def execYield (f : BFmt) (s : State) : Host.Outcome State Fault Refusal :=
  asOnce f.r.g s (fun c => .ok (c.done s { c.g.demote c.pos with lastIssue := s.clk / 10, urgent := false }))

end Sys2Proof.Machine
end

