-- ==== Sys2Proof/Machine/Thaw.lean ====
section
/-!
DEFINITION. THAW (R409 to R411, R415, R416).
-/
namespace Sys2Proof.Machine

/-! ### The plan (R410, R411, R415) -/

/-- The quadrants of a partition, ascending. -/
def sortedQuads (p : Partition) : List Nat := sortBy (fun q => [q]) p.quads

/-- The target quadrant of an ordinal (R410). -/
def quadOf (p : Partition) (ord : Nat) : Nat := (sortedQuads p).getD (ord % max 1 (sortedQuads p).length) 0

/-- The target core of logical core t of a cluster: by R410; none where the quadrant has no core accepting placement. -/
def targetCore (s : State) (p : Partition) (ord n t : Nat) : Option Nat :=
  let qs := sortedQuads p
  if qs.isEmpty then none
  else
    let cores := acceptingCores s (qs.getD (ord % qs.length) 0)
    cores[if n ≤ cores.length then t else t * cores.length / n]?

/-- The target core of each team, clusters in ascending index (R410), and in each its logical cores. DEDUCED, log 85. -/
def planTeams (s : State) (p : Partition) (a : Atlas) : List ((Nat × Team) × Option Nat) :=
  let place (t : Nat × Team) : List Nat :=
    [(match Map.find a.clusters t.2.cluster with | some c => c.index | none => 0), t.2.cluster, t.2.lcore]
  (sortBy place a.teams).map (fun t =>
    (t, (Map.find a.clusters t.2.cluster).bind (fun c => targetCore s p c.quad c.size t.2.lcore)))

/-- The teams planned on a core. -/
def onCore (plan : List ((Nat × Team) × Option Nat)) (core : Nat) : List (Nat × Team) :=
  (plan.filter (fun x => x.2 == some core)).map Prod.fst

/-- The cores of a plan. -/
def planCores (plan : List ((Nat × Team) × Option Nat)) : List Nat :=
  plan.foldl (fun l x => match x.2 with | some c => if l.contains c then l else l ++ [c] | none => l) []

/-- R82: the teams of a plan find slots in every scheduler partition of their cores, each placed after those before it. DEDUCED, log 54. -/
def partsAll (s : State) (ctx : Nat) (a : Atlas) (swap : Bool) : List ((Nat × Team) × Option Nat) → Bool
  | [] => true
  | x :: rest =>
    let core := x.2.getD 0
    let gs := a.groups.filter (fun g => g.2.team == x.1.1)
    let q := emptiestPart s core
    let placed := gs.map (fun g => (s.nextId + g.1, { g.2 with ctx := ctx, core := core, part := (q + g.2.idx) % 16 }))
    partsFit s ctx core (gs.map (fun g => g.2.idx)) swap &&
    partsAll { s with groups := s.groups ++ placed } ctx a swap rest

/-- Detail 1: every team has a core, the teams of each core fit together, and each grid is within GRIDLANES. -/
def fitsAll (s : State) (ctx : Nat) (a : Atlas) (p : Partition) (plan : List ((Nat × Team) × Option Nat)) : Bool :=
  let swap := p.rfmode == 1
  let (x, y, z) := capacity swap
  let groups (t : Nat × Team) : List (Nat × Group) := a.groups.filter (fun g => g.2.team == t.1)
  let sum (l : List Nat) : Nat := l.foldl (· + ·) 0
  plan.all (fun t => t.2.isSome && decide (t.1.2.gridH * t.1.2.gridW ≤ gridLanes swap)) &&
  (planCores plan).all (fun c =>
    let ts := onCore plan c
    decide (sum (ts.map (fun t => (groups t).length)) ≤ x) &&
    decide (sum (ts.map (fun t => sum ((groups t).map (fun g => 128 * g.2.budget)))) ≤ y) &&
    decide (sum (ts.map (fun t => roundMem t.2.memSize)) ≤ z)) && partsAll s ctx a swap plan

/-- The source cores with live tiles of the teams on a core. -/
def liveSources (a : Atlas) (ts : List (Nat × Team)) : List AAcc :=
  a.accs.filter (fun x => ts.any (fun t => t.2.core == x.core))

/-- Detail 2: of teams that share a core, at most one source core has live tiles. -/
def tilesFit (a : Atlas) (plan : List ((Nat × Team) × Option Nat)) : Bool :=
  (planCores plan).all (fun c => decide ((onCore plan c).length < 2) || decide ((liveSources a (onCore plan c)).length ≤ 1))

/-- The target bay of a source bay ordinal: that of its first team, else the bay of the same place. -/
def targetBay (p : Partition) (plan : List ((Nat × Team) × Option Nat)) (ord : Nat) : Nat :=
  match plan.findSome? (fun x => if x.1.2.core / 4 == ord then x.2 else none) with
  | some c => coreBay c
  | none =>
    let qs := sortedQuads p
    4 * qs.getD (ord / 4 % max 1 qs.length) 0 + ord % 4

/-- Detail 3: reservations placed in one bay have distinct numbers and disjoint ranges, free there. -/
def resvsFit (s : State) (p : Partition) (a : Atlas) (plan : List ((Nat × Team) × Option Nat)) : Bool :=
  let rs := a.resvs.map (fun r => (targetBay p plan r.bay, r))
  let range (r : Resv) : Nat × Nat := ((mrecOf r.w0 r.w1).base, (mrecOf r.w0 r.w1).len)
  let bays := (rs.map Prod.fst).foldl (fun l b => if l.contains b then l else l ++ [b]) []
  bays.all (fun b =>
    let mine := (rs.filter (fun x => x.1 == b)).map Prod.snd
    let held := (s.bayAt b).resv
    disjoint (mine.map (fun r => range r.resv) ++ held.map (fun h => range h.2)) &&
    disjoint (mine.map (fun r => (r.id, 1)) ++ held.map (fun h => (h.1, 1))))

/-- The scratchpad ranges that leaves of contexts map. -/
def usedSpans (s : State) : List (Nat × Nat) :=
  s.ctxs.flatMap (fun c =>
    ((leavesOf s c.2.ptrootUsed.toNat ++ leavesOf s c.2.tvroot.toNat).filter Leaf.scratch).map (fun l => (l.frame, l.span)))

/-- The lowest free aligned offset of a die from one on; `n` tries. DEDUCED, log 85. -/
def freeOffset (base limit page size : Nat) (used : List (Nat × Nat)) : Nat → Nat → Option Nat
  | 0, _ => none
  | n + 1, o =>
    if limit < o + size then none
    else if used.all (fun u => decide (base + o + size ≤ u.1) || decide (u.1 + u.2 ≤ base + o)) then some (base + o)
    else freeOffset base limit page size used n (o + page)

/-- R415: where each page goes, in image order; none where it finds no place. DEDUCED, log 85. -/
def planPages (s : State) (die : Nat) : List APage → List (Nat × Nat) → List (Option Nat)
  | [], _ => []
  | g :: rest, used =>
    let base := 0x030000000000 + die * 0x10000000
    let limit := spSize s die
    match freeOffset base limit g.page g.size used (limit / max 1 g.page + 1) 0 with
    | none => none :: planPages s die rest used
    | some f => some f :: planPages s die rest ((f, g.size) :: used)

/-- The new physical address of a place that an image names (`toVa`). DESIGN CHOICE, log 83. -/
def toPa (a : Atlas) (places : List (Option Nat)) (name : Nat) : Nat :=
  let va := name % 2 ^ 56
  if 2 ^ 60 ≤ name then name - 2 ^ 60
  else
    match (a.pages.zip places).find? (fun x => decide (x.1.va ≤ va) && decide (va < x.1.va + x.1.page) && x.2.isSome) with
    | some (g, some f) => f + (va - g.va) + name / 2 ^ 56 * g.page
    | _ => va

/-- Detail 4: each home quadrant has free links for the mortises that come to it. -/
def linksFit (s : State) (a : Atlas) (places : List (Option Nat)) : Bool :=
  let need := a.links.filterMap (fun m =>
    let pa := toPa a places m.1
    if (spDie pa).isSome then some (homeQuad pa, m.2.length) else none)
  need.all (fun x =>
    decide (((need.filter (fun y => y.1 == x.1)).map Prod.snd).foldl (· + ·) 0 ≤ 16384 - (quadAt s x.1).links.length))

/-- Detail 5: the trigger table has room. -/
def trigsFit (s : State) (a : Atlas) : Bool := decide (a.trigs.length ≤ 64) && decide (s.triggers.length + a.trigs.length ≤ 1024)

/-- The job and processor of a Scribe block. -/
def blockJob (ctx : Nat) (b : List Byte) : Nat × ScribeJob :=
  (leAt b 64 1, { job := leAt b 0 2, ctx := ctx, entry := sliceB b 0 64, q := 0 })

/-- Detail 6: each processor has room for the jobs' regions, and the hook table for their hooks. -/
def scribeFits (s : State) (ctx : Nat) (a : Atlas) : Bool :=
  a.blocks.all (fun b =>
    let (proc, j) := blockJob ctx b
    let x := s.scribeAt proc
    decide (proc < 16) && decide (x.jobs.length < 16) && x.jobs.all (fun k => k.job != j.job && !k.overlaps j)) &&
  decide (s.hooks.length + (a.blocks.map (fun b => leAt b 68 4)).foldl (· + ·) 0 ≤ 256)

/-- R411, R415: the first failing check, or none. DEDUCED, log 85. -/
def nofit (s : State) (ctx : Nat) (p : Partition) (a : Atlas) (plan : List ((Nat × Team) × Option Nat))
    (places : List (Option Nat)) : Option Nat :=
  if !fitsAll s ctx a p plan then some 1
  else if !tilesFit a plan then some 2
  else if !resvsFit s p a plan then some 3
  else if !linksFit s a places then some 4
  else if !trigsFit s a then some 5
  else if !scribeFits s ctx a then some 6
  else if places.any Option.isNone then some 7
  else none

/-! ### Installing (R409, R415, R416) -/

/-- Where the leaf of a virtual address stands, whatever its FRAME. DEDUCED, log 85. -/
def leafPlace (s : State) (va : Nat) : List (Nat × Nat × Nat) → Nat → Option Nat
  | [], _ => none
  | (sh, n, size) :: rest, tbl =>
    let loc := tbl + 8 * (va / 2 ^ sh % n)
    let e : DWord := BitVec.ofNat 64 (leNat (s.rd loc 8))
    if !bit e 0 then none
    else if bit e 1 then (if size == 0 then none else some loc)
    else leafPlace s va rest (bits e 55 16 * 2 ^ 16)

/-- A page's bytes, presence, tags and poison at its new place, and its leaf's FRAME. An object of a replicated page keeps its frames
(R251). DEDUCED, log 85. -/
def installPage (root : Nat) (s : State) (g : APage) (f : Nat) : State :=
  let old := s.mem.filter (fun m => !(decide (f ≤ m.1) && decide (m.1 < f + g.size)))
  let inPage (k : Nat) : Bool := decide (f / 64 ≤ k) && decide (k < (f + g.size) / 64)
  let s1 := { s with
    mem := g.bytes.foldl (fun (m : Memory) b => m.put (f + b.1) b.2) old,
    objRep := (if g.size == g.page then [] else g.tags.filter (fun k => decide (64 * k < g.page))).foldl
      (fun (m : SMap Nat) k => Map.put m (f / 64 + k) g.page) (s.objRep.filter (fun r => !inPage r.1)),
    absent := g.absent.foldl (fun l k => insNat l (f / 64 + k)) (s.absent.filter (fun k => !inPage k)),
    tags := g.tags.foldl (fun l k => insNat l (f / 64 + k)) (s.tags.filter (fun k => !inPage k)),
    poison := g.poison.foldl (fun l k => insNat l (f / 4 + k)) (s.poison.filter (fun k => !(decide (f ≤ 4 * k) && decide (4 * k < f + g.size)))) }
  match leafPlace s1 g.va walkLevels root with
  | some loc => s1.wr loc (leBytes 8 (setBits (BitVec.ofNat 64 (leNat (s1.rd loc 8)) : DWord) 55 16 (f / 2 ^ 16)).toNat)
  | none => s1

/-- A group's place on the device after THAW. -/
def groupPlace (s : State) (gid : Nat) : Nat × Nat := match Map.find s.groups gid with | some g => (g.core, g.slot) | none => (0, 0)

/-- One team with its groups on its core (R32, R34, R410). -/
def installTeam (ctx : Nat) (r : Ren) (a : Atlas) (s : State) (x : (Nat × Team) × Option Nat) : State :=
  let core := x.2.getD 0
  let t := { r.team x.1.2 with ctx := ctx, core := core, mem := Memory.store [] 0 (x.1.2.mem.load 0 x.1.2.memSize) }
  let p := emptiestPart s core
  let gs := sortBy (fun g => [g.2.idx]) (a.groups.filter (fun g => g.2.team == x.1.1))
  let slots := freeSlots s ctx core gs.length
  let bank := holdBank (s.coreAt core) ctx ((partOf s ctx).rfmode == 1)
  let on := bank.active == some ctx
  let put (s : State) (y : (Nat × Group) × Nat) : State :=
    let g := r.group y.1.2
    let mine (x : Resolution) : Resolution := { x with origin := { x.origin with ctx := ctx, core := core, slot := y.2 } }
    s.putG (r.id y.1.1) { g with resolved := g.resolved.map mine, ctx := ctx, core := core, slot := y.2, part := (p + g.idx) % 16,
                                 lastIssue := if on then s.clk / 10 - g.lastIssue else g.lastIssue }
  refreshAt (saveNew ((gs.zip slots).foldl put { (s.putCore core bank) with teams := Map.put s.teams (r.id x.1.1) t }) core ctx) core 4

/-- Every logical core's name names its new core, also where its team has exited (R410); quadrants follow. -/
def installClusters (r : Ren) (a : Atlas) (p : Partition) (s : State) : State :=
  { s with clusters := a.clusters.foldl (fun (m : SMap Cluster) (c : Nat × Cluster) =>
      let names := c.2.names.mapIdx (fun t old => (targetCore s p c.2.quad c.2.size t).getD old)
      Map.put m (r.id c.1) { r.cluster c.2 with quad := quadOf p c.2.quad, names := names }) s.clusters }

/-- Saved live masks and tiles in the save area of each core that has them (R394, R409). -/
def installAccs (ctx : Nat) (a : Atlas) (plan : List ((Nat × Team) × Option Nat)) (s : State) : State :=
  (planCores plan).foldl (fun s c =>
    match liveSources a (onCore plan c) with
    | [] => s
    | x :: _ =>
      let base := saveBase s ctx + c * 0x500000
      let s1 := s.wr (base + 0x4D0000) (leBytes 8 x.live.toNat)
      ((List.range 16).filter (fun t => x.live.getLsbD t)).foldl (fun s t =>
        s.wr (base + 0x4C0000 + 4096 * t)
          ((List.range 1024).flatMap (fun k => leBytes 4 (Map.get 0 x.rows (1024 * t + k)).toNat))) s1) s

/-- Reservations with their BASE, ID and GEN. -/
def installResvs (ctx : Nat) (p : Partition) (a : Atlas) (plan : List ((Nat × Team) × Option Nat)) (s : State) : State :=
  a.resvs.foldl (fun s r =>
    let b := targetBay p plan r.bay
    let y := (s.bayAt b).wr (64 * (mrecOf r.resv.w0 r.resv.w1).base) r.bytes
    s.putBay b { y with resv := Map.put y.resv r.id { r.resv with ctx := ctx }, gens := Map.set 0 y.gens r.id r.gen }) s

/-- One mortise's links: one free link per place, lowest first; HEAD and LAST are written. -/
def installLinks (ctx : Nat) (r : Ren) (s : State) (m : Nat × List (Nat × Nat × Option Nat)) : State :=
  let pa := r.pa m.1
  let q0 := quadAt s (homeQuad pa)
  let take (x : SMap DWord × List Nat) (l : Nat × Nat × Option Nat) : SMap DWord × List Nat :=
    match lowestFree (Map.keys x.1) 16384 0 with
    | none => x
    | some i =>
      let (core, slot) := match l.2.2 with | some g => groupPlace s (r.id g) | none => (0, 0)
      (Map.put x.1 i (mkLink l.1 l.2.1 i core slot ctx), x.2 ++ [i])
  let (links, order) := m.2.foldl take (q0.links, [])
  let q : MQ := { pa := pa, m := mortRd s pa, links := links, order := [] }
  storeMq s (q.reorder order)

/-- A Scribe block's job, code, flow slots and hooks. -/
def installBlock (ctx : Nat) (s : State) (b : List Byte) : State :=
  let (proc, j) := blockJob ctx b
  let n := leAt b 68 4
  let co := 72 + 32 * n
  let fo := co + 64 * j.clen
  let hook (h : Nat) : Hook :=
    let o := 72 + 32 * h
    { job := j.job, proc := proc, dir := leAt b o 1, kind := leAt b (o + 1) 1, cgid := leAt b (o + 2) 2, alo := leAt b (o + 8) 8,
      ahi := leAt b (o + 16) 8, entry := leAt b (o + 4) 2 }
  let s1 := installJob s proc j (fun k => leAt b (co + 4 * k) 4)
  let x := s1.scribeAt proc
  let flow := (List.range j.fcnt).foldl (fun (m : SMap Line) i => Map.set 0 m (j.fbase + i) (BitVec.ofNat 512 (leAt b (fo + 64 * i) 64))) x.flow
  { (s1.putScribe proc { x with flow := flow }) with hooks := s1.hooks ++ (List.range n).map hook }

/-- The core of an operation, trigger or origin: its group's, else that of its source core's first team. -/
def newCore (s : State) (plan : List ((Nat × Team) × Option Nat)) (gid ord : Nat) : Nat :=
  match Map.find s.groups gid with
  | some g => g.core
  | none => (plan.findSome? (fun x => if x.1.2.core == ord then x.2 else none)).getD 0

/-- Operations, triggers and origins. DEDUCED, log 86. -/
def installOps (ctx : Nat) (r : Ren) (a : Atlas) (plan : List ((Nat × Team) × Option Nat)) (s : State) : State :=
  let s1 := a.ops.foldl (fun s o =>
    let x := { r.copy o.2 with ctx := ctx }
    let k := newCore s plan x.gid o.1
    let c := s.coreAt k
    s.putCore k { c with ops := c.ops ++ [x] }) s
  let s2 := a.origins.foldl (fun s o =>
    let x := r.origin o.2
    let k := newCore s plan x.gid o.1
    let c := s.coreAt k
    s.putCore k { c with trapq := queueOrigin c.trapq { x with ctx := ctx, core := k, slot := if x.gid == 0 then 0x3FF else (groupPlace s x.gid).2 } }) s1
  a.trigs.foldl (fun s t =>
    let x := { r.copy t.op with ctx := ctx }
    let free := !s.triggers.any (fun y => y.slot == t.slot)
    let slot := if free then t.slot else (lowestFree (s.triggers.map Trig.slot) 1024 0).getD t.slot
    { s with triggers := s.triggers ++ [{ t with slot := slot, order := r.id t.order, core := newCore s plan x.gid t.core, due := false, op := x }],
             trigGens := Map.set 0 s.trigGens slot t.gen }) s2

/-- A late arrival is performed as what it was (R401); one that faults is a fault of a remote request, as R438 handles it. It
has had its answer. DEDUCED, log 86. -/
def performLate (ctx : Nat) (s : State) (p : Packet) : State := serveOrFault s ctx { p with acked := true }

/-- The context of the image with its registers, objects, measurements and job. DEDUCED, log 85. -/
def thawCtx (a : Atlas) (part cred : Nat) : Ctx :=
  { a.ctx with
    part := part, cred := cred, frozen := false, lateStart := false, late := [], lateClosed := false, snaps := [],
    job := a.ctx.job.map (fun j => { j with job := a.job, rank := a.rank, map := j.map.set a.rank Config.identityName }) }

/-- R409: everything of an image that fits, installed in order. DEDUCED, log 85. -/
def install (s : State) (a : Atlas) (ctx part cred : Nat) (p : Partition) (plan : List ((Nat × Team) × Option Nat))
    (places : List (Option Nat)) : State :=
  let off := s.nextId
  let ds := sortedDies p
  let r : Ren := { id := fun n => if n == 0 then 0 else n + off, pa := toPa a places, core := fun c => if c < 256 then 16 * quadOf p (c / 16) + c % 16 else c,
                   die := fun d => ds.getD (d % max 1 ds.length) 0 }
  let x := thawCtx a part cred
  let s1 := { s with nextId := off + a.nextId, ctxs := Map.put s.ctxs ctx x }
  let s2 := (a.pages.zip places).foldl (fun s g => match g.2 with | some f => installPage x.ptrootUsed.toNat s g.1 f | none => s) s1
  let s3 := plan.foldl (installTeam ctx r a) s2
  let s4 := installClusters r a p { s3 with
    launches := a.launches.foldl (fun (m : SMap Launch) (l : Nat × Launch) => Map.put m (r.id l.1) { l.2 with ctx := ctx, ranges := l.2.ranges.map (fun x => (quadOf p x.1, x.2)) }) s3.launches,
    lqs := a.queues.foldl (fun (m : SMap LQueue) (q : Nat × LQueue) =>
      Map.put m q.1 { q.2 with lqctl := setBits q.2.lqctl 21 16 ctx, current := q.2.current.map r.id }) s3.lqs }
  let s5 := a.links.foldl (installLinks ctx r) s4
  let s6 := installResvs ctx p a plan (installAccs ctx a plan (a.blocks.foldl (installBlock ctx) s5))
  let s7 := installOps ctx r a plan { s6 with
    fired := s6.fired ++ a.fired.map (fun f => (f.1, f.2, ctx)), collIn := s6.collIn ++ a.colls,
    gridBars := s6.gridBars ++ a.bars.map r.bar,
    domainArr := s6.domainArr ++ a.arrived.filter (fun d => !s6.domainArr.contains d),
    barRed := s6.barRed ++ a.barRed.map r.barRed, heldApply := s6.heldApply ++ a.applies.map (fun h => { r.apply h with ctx := ctx }) }
  let s8 := a.late.foldl (performLate ctx) s7
  x.objs.foldl (fun s o => rechoose ctx p s o.1 o.2) s8

/-- R400: a context frozen in place gives up its place, its Scribe jobs and its undelivered steps before its image is installed. -/
def leavePlaceFor (s : State) (ctx : Nat) : State :=
  let jobs := scribeJobs s ctx
  let s1 := jobs.foldl (fun s j => unbindJob j.1 j.2 s) s
  dropContext { s1 with
    quads := s1.quads.map (fun q => (q.1, { q.2 with links := q.2.links.filter (fun l => bits l.2 55 50 != ctx) })) } ctx

/-- R24, R409: the signature of an image verifies under keys enrolled for the owner. DEDUCED, log 85. -/
def imageSigned (s : State) (b : List Byte) : Bool :=
  (signedBy s.ownerKeys (b.drop (b.length - 3389)) (digest (b.take (b.length - 3389)))).isSome

/-- R406, R407: the header and the section table of an image. DESIGN CHOICE, log 83. -/
def atlasOk (b : List Byte) : Bool :=
  let n := leAt b 6 2
  let tbl := leAt b 0x28 4
  let xs : List Sect := (List.range n).map (fun k =>
    let o := tbl + 16 * k
    { kind := leAt b o 2, ofs := leAt b (o + 4) 4, len := leAt b (o + 8) 8 })
  let count (k : Nat) : Nat := (kindOf xs k).length
  decide (64 ≤ b.length) && leAt b 0 4 == 0x534C5441 && leAt b 4 2 == 1 && leAt b 8 8 == b.length && zeroAt b 0x16 2 &&
  zeroAt b 0x2C 20 && decide (64 ≤ tbl) && decide (tbl + 16 * n ≤ b.length) &&
  (List.range n).all (fun k => zeroAt b (tbl + 16 * k + 2) 2) &&
  xs.all (fun x => decide (1 ≤ x.kind) && decide (x.kind ≤ 16) && x.ofs % 64 == 0 && decide (x.ofs + x.len ≤ b.length)) &&
  [1, 2, 7, 8, 9, 10, 11, 12, 13, 14, 15, 16].all (fun k => count k == 1) && count 3 == leAt b 0x20 4 && count 4 == leAt b 0x24 4 &&
  (match xs.getLast? with
   | some x => x.kind == 16 && x.len == 3389 && x.ofs + x.len == b.length
   | none => false)

/-- THAW's checks and effect: the state after it, its status and, for RELOC_NOFIT, the detail. The header and the section table
are checked, then the signature, then the contents of the sections. DEDUCED, log 85. -/
def thawImage (s : State) (c : MCmd) (b : List Byte) : State × Nat × Nat :=
  if !atlasOk b then (s, 1, 0)
  else if !imageSigned s b then (s, 2, 0)
  else
    match readImage s b with
    | none => (s, 1, 0)
    | some a =>
      let part := c.a1.toNat
      match Map.find s.parts part with
      | none => (s, 4, 0)
      | some p =>
        let old := Map.find s.ctxs c.ctx
        let inPlace := match old with | some x => x.lateClosed && x.part == part | none => false
        if p.quads.isEmpty || (old.isSome && !inPlace) then (s, 4, 0)
        else
          let s1 := if inPlace then leavePlaceFor s c.ctx else s
          let cred := match old with | some x => x.cred | none => a.ctx.cred
          let plan := planTeams s1 p a
          let die := (sortedQuads p).headD 0 / 4
          let places := planPages s1 die a.pages (usedSpans s1)
          match nofit s1 c.ctx p a plan places with
          | some d => (s, 3, d)
          | none => (install s1 a c.ctx part cred p plan places, 0, 0)

/-- THAW. The detail of status 3 is reported beside it: a command with a nonzero status writes no argument register. DEDUCED, log 85. -/
def execThaw (c : MCmd) (s : State) : Host.Outcome State Fault Refusal :=
  asCommand 0x07 c (supOf s c.who c.ctx) s (fun s =>
    let b := s.cmdRead c.a0 (leNat (s.cmdRead (c.a0 + 8) 8))
    let (s1, st, d) := thawImage s c b
    (if st == 3 then { s1 with reports := s1.reports ++ [[3, BitVec.ofNat 8 d]] } else s1, st))

end Sys2Proof.Machine
end

