-- ==== Sys2Proof/Machine/Manage.lean ====
section
/-!
DEFINITION. The management commands that set up the device and its contexts (R422, R437, R440), the survey (R423),
measurement reports (R419), the host's memory path (R420), soft errors (R392), and power, service levels, modes and
heat (R4, R424, R425).
-/
namespace Sys2Proof.Machine

/-! ### SURVEY (R423) -/

/-- The state of a context in the survey: parked, frozen, switched out where its teams are placed and none is active, or
active. DESIGN CHOICE, log 62. -/
def ctxState (s : State) (ctx : Nat) (c : Ctx) : Nat :=
  if c.parked.isSome then 4
  else if c.frozen then 3
  else if s.teams.any (fun t => t.2.ctx == ctx) && !s.cores.any (fun k => k.2.active == some ctx) then 2
  else 1

/-- 16 bytes for a context. -/
def surveyCtx (s : State) (ctx : Nat) : List Byte :=
  match Map.find s.ctxs ctx with
  | none => leBytes 16 0
  | some c =>
    let (cause, detail, pc) := c.parked.getD (0, 0, 0)
    leBytes 1 (ctxState s ctx c) ++ leBytes 1 c.part ++ leBytes 1 cause ++ leBytes 1 detail ++ leBytes 4 0 ++ leBytes 8 pc

/-- 16 bytes for a queue. -/
def surveyQueue (s : State) (q : Nat) : List Byte :=
  let x := Map.get LQueue.reset s.lqs q
  [x.lqctl, x.lqhead, x.lqtail, x.lqstat].flatMap (fun w => leBytes 4 w.toNat)

/-- A quadrant mask. -/
def quadMask (qs : List Nat) : Nat := ((List.range 16).filter (fun q => qs.contains q)).foldl (fun n q => n + 2 ^ q) 0

/-- 8 bytes for a partition. -/
def surveyPart (s : State) (n : Nat) : List Byte :=
  match Map.find s.parts n with
  | none => leBytes 8 0
  | some p => leBytes 2 (quadMask p.quads) ++ leBytes 1 p.rfmode ++ leBytes 1 p.spcache ++ leBytes 1 (wcq s p) ++ leBytes 3 0

/-- The logical rank of a port's peer in the job of the lowest-numbered bound context. -/
def peerRank (s : State) (p : Port) : Nat :=
  match s.ctxs.findSome? (fun c => c.2.job) with
  | some j => if p.st == 2 && p.peer != 0 && j.map.contains p.peer then j.map.findIdx (· == p.peer) else 0xFFFF
  | none => 0xFFFF

/-- 8 bytes for a port. -/
def surveyPort (s : State) (n : Nat) : List Byte :=
  let p := Map.get { st := 0, peer := 0, errs := 0 } s.ports n
  leBytes 1 p.st ++ leBytes 2 (peerRank s p) ++ leBytes 1 0 ++ leBytes 4 p.errs

/-- The survey record, 4 KiB. DESIGN CHOICE, log 62. -/
def surveyRecord (s : State) : List Byte :=
  leBytes 2 1 ++ leBytes 1 s.svclevel ++ leBytes 1 s.mode ++ leBytes 1 s.therm ++ leBytes 3 0 ++ leBytes 8 s.gtc.toNat ++
  (List.range 64).flatMap (surveyCtx s) ++ (List.range 64).flatMap (surveyQueue s) ++
  (List.range 16).flatMap (surveyPart s) ++ (List.range 18).flatMap (surveyPort s) ++
  [s.eccCorr, s.eccUnc, s.fabErrs, s.machChk].flatMap (fun w => leBytes 8 w.toNat) ++ List.replicate 1728 0

/-- SURVEY: any caller's. DESIGN CHOICE, log 62. -/
def execSurvey (c : MCmd) (s : State) : Host.Outcome State Fault Refusal :=
  asCommand 0x01 c true s (fun s =>
    match c.a1.toNat with
    | 0 => (s.cmdWrite c.a0 (surveyRecord s), 0)
    | 1 =>
      let q := quadAt s c.a2.toNat
      (s.cmdWrite c.a0 ((List.range 16384).flatMap (fun i => leBytes 8 (Map.get 0 q.links i).toNat)), 0)
    | _ => (s, 0))

/-! ### Partitions, modes, routes (R393, R425, R437, R440) -/

/-- The quadrants of a mask. -/
def quadsOf (m : Nat) : List Nat := (List.range 16).filter (fun q => m.testBit q)

/-- SPCACHE by its code. -/
def spcacheOf (code : Nat) : Nat := match code with | 0 => 0 | 1 => 25 | _ => 50

/-- R393: a context is resident on a partition. -/
def partResident (s : State) (part : Nat) : Bool :=
  s.ctxs.any (fun c => c.2.part == part && (c.2.frozen || s.teams.any (fun t => t.2.ctx == c.1)))

/-- What a PARTCFG asks the partition to be. DESIGN CHOICE, log 63. -/
def partWanted (c : MCmd) : Partition :=
  { quads := quadsOf (bits c.a0 15 0), rfmode := bits c.a2 0 0, spcache := spcacheOf (bits c.a2 9 8) }

/-- A PARTCFG that leaves its partition as it is but for accepting-core masks. -/
def onlyMasks (s : State) (c : MCmd) : Bool := Map.find s.parts (bits c.a0 19 16) == some (partWanted c)

/-- R421: the owner, or the supervisor of the named context, where only the masks of the partition that holds it change. -/
def partRight (s : State) (c : MCmd) : Bool :=
  isOwner c || (onlyMasks s c &&
    (match Map.find s.ctxs c.ctx with | some x => x.cred == c.who && x.part == bits c.a0 19 16 | none => false))

/-- The accepting-core masks of the quadrants a PARTCFG names. DESIGN CHOICE, log 63. -/
def setMasks (s : State) (tbl : DWord) (qs : List Nat) : State :=
  let t := s.cmdRead tbl 32
  qs.foldl (fun s q => { s with quads := Map.put s.quads q { quadAt s q with accept := BitVec.ofNat 16 (leAt t (2 * q) 2) } }) s

/-- PARTCFG. DESIGN CHOICE, log 63. -/
def execPartcfg (c : MCmd) (s : State) : Host.Outcome State Fault Refusal :=
  asCommand 0x03 c (partRight s c) s (fun s =>
    let n := bits c.a0 19 16
    let w := partWanted c
    if bits c.a0 63 20 != 0 || bits c.a2 7 1 != 0 || bits c.a2 63 10 != 0 || bits c.a2 9 8 == 3 then (s, 3)
    else if s.parts.any (fun p => p.1 != n && p.2.quads.any (fun q => w.quads.contains q)) then (s, 1)
    else if !onlyMasks s c && partResident s n then (s, 2)
    else
      let parts := if w.quads.isEmpty then Map.del s.parts n else Map.put s.parts n w
      (setMasks { s with parts := parts } c.a1 w.quads, 0))

/-- MODESET: in MBARG0. -/
def execModeset (c : MCmd) (s : State) : Host.Outcome State Fault Refusal :=
  asCommand 0x04 c (isOwner c) s (fun s => if c.a0.toNat ≤ 2 then ({ s with mode := c.a0.toNat }, 0) else (s, 1))

/-- ROUTESET: a table of MBARG1 bytes at MBARG0. DESIGN CHOICE, log 64. -/
def execRouteset (c : MCmd) (s : State) : Host.Outcome State Fault Refusal :=
  asCommand 0x0A c (isOwner c) s (fun s =>
    let t := s.cmdRead c.a0 c.a1.toNat
    if Config.routesOk t then ({ s with routing := t }, 0) else (s, 1))

/-! ### Contexts, jobs, keys (R422, R436, R437) -/

/-- A context as CTXCREATE makes it: zero registers, a zero CAR, no object. -/
def Ctx.fresh (part cred : Nat) : Ctx :=
  { part := part, cred := cred, ptroot := 0, ptrootUsed := 0, tventry := 0, tvroot := 0, tvstack := 0, tvctl := 0, ctxsave := 0,
    placedOnce := false, car := List.replicate 48 0, log := [], keys := [], nextHandle := 1, objs := [], job := none, frozen := false,
    parked := none, cgSeq := [], lateStart := false, late := [], lateClosed := false, snaps := [] }

/-- CTXCREATE. DESIGN CHOICE, log 65. -/
def execCtxcreate (c : MCmd) (s : State) : Host.Outcome State Fault Refusal :=
  asCommand 0x0C c (isOwner c) s (fun s =>
    if (Map.find s.ctxs c.ctx).isSome then (s, 1)
    else if (Map.find s.parts c.a0.toNat).isNone then (s, 2)
    else ({ s with ctxs := Map.put s.ctxs c.ctx (Ctx.fresh c.a0.toNat c.a1.toNat) }, 0))

/-- The identities of a rank map; none where it breaks its layout, names no device, or DEVRANK lies outside it. -/
def rankMap (s : State) (a : DWord) (rank : Nat) : Option (List Nat) :=
  let h := s.cmdRead a 8
  let n := leAt h 0 2
  if n == 0 || 512 < n || !zeroAt h 2 6 || n ≤ rank then none
  else
    let m := (List.range n).map (fun i => leNat (s.cmdRead (a + BitVec.ofNat 64 (8 + 16 * i)) 16))
    if m.all (· == 0) then none else some m

/-- JOBBIND. DESIGN CHOICE, log 65. -/
def execJobbind (c : MCmd) (s : State) : Host.Outcome State Fault Refusal :=
  asCommand 0x0D c (supOf s c.who c.ctx) s (fun s =>
    let rank := bits c.a2 8 0
    match Map.find s.ctxs c.ctx, rankMap s c.a1 rank with
    | none, _ => (s, 0xFF)
    | some x, m =>
      if x.job.isSome then (s, 1)
      else
        match m with
        | none => (s, 2)
        | some m => ({ s with ctxs := Map.put s.ctxs c.ctx { x with job := some { job := bits c.a0 15 0, map := m, rank := rank } } }, 0))

/-- The bytes of a public key by algorithm. DESIGN CHOICE, log 66. -/
def keyLen (alg : Nat) : Nat := if alg == 1 then 32 else 1952

/-- KEYENROL. DESIGN CHOICE, log 65, 66. -/
def execKeyenrol (c : MCmd) (s : State) : Host.Outcome State Fault Refusal :=
  asCommand 0x0E c (supOf s c.who c.ctx) s (fun s =>
    match Map.find s.ctxs c.ctx with
    | none => (s, 0xFF)
    | some x =>
      let alg := bits c.a0 15 8
      let key := s.cmdRead c.a2 (keyLen alg)
      if bits c.a0 7 0 != 2 || (alg != 1 && alg != 2) || bits c.a0 63 16 != 0 || !Config.keyOk alg key then (s, 2)
      else if (s.ownerKeys ++ x.keys).any (fun k => k.id == c.a1.toNat) then (s, 1)
      else ({ s with ctxs := Map.put s.ctxs c.ctx { x with keys := x.keys ++ [{ cls := 2, alg := alg, id := c.a1.toNat, key := key }] } }, 0))

/-! ### Configuration records (R4, R422, R437) -/

def recKind (r : List Byte) : Nat := leAt r 6 2
def recBody (r : List Byte) : List Byte := sliceB r 16 (leAt r 8 4)

/-- A record that enrols an owner key of an algorithm of which none is enrolled. DESIGN CHOICE, log 67. -/
def firstOwnerKey (keys : List Key) (r : List Byte) : Bool :=
  recKind r == 1 && !keys.any (fun k => k.alg == leAt (recBody r) 1 1)

/-- Both signatures of a record verify: under owner keys, or, for the first owner keys, under the manufacturing keys. DESIGN CHOICE, log 67. -/
def recordSigned (keys : List Key) (r : List Byte) : Bool :=
  let n := 16 + leAt r 8 4
  let blk := r.drop n
  let dg := digest (r.take n)
  r.length == n + 3389 &&
  ((signedBy keys blk dg).isSome ||
   (firstOwnerKey keys r && Config.ed25519Ok Config.manufacturingKeys.1 dg (sliceB blk 16 64) &&
    Config.mldsaOk Config.manufacturingKeys.2 dg (sliceB blk 80 3309)))

/-- CFGWRITE. DESIGN CHOICE, log 67. -/
def execCfgwrite (c : MCmd) (s : State) : Host.Outcome State Fault Refusal :=
  asCommand 0x0F c (isOwner c) s (fun s =>
    let r := s.cmdRead c.a0 c.a1.toNat
    if !recordSigned s.ownerKeys r then (s, 1)
    else if !Config.storeRoom (s.cfgStore.foldl (fun n x => n + x.length) 0) r.length then (s, 2)
    else ({ s with cfgStore := s.cfgStore ++ [r] }, 0))

/-- R244: the second tier of a form: bytes populated, and expanders that failed enumeration. DESIGN CHOICE, log 68. -/
def tierOf (fit : Fitted) (form : Nat) : Nat × Nat :=
  match form with
  | 1 => (if fit.lpddr then 2 ^ 41 else 0, 0)
  | 2 =>
    let got := fit.expanders.filterMap id
    (min (got.foldl (· + ·) 0 * 2 ^ 30) (2 ^ 41), (got.filter (· == 0)).length)
  | _ => (0, 0)

/-- The header and limits of a record; another kind, or a body outside its limits, is no record. -/
def recordOk (r : List Byte) : Bool :=
  let b := recBody r
  leAt r 0 4 == 0x46435853 && leAt r 4 2 == 1 && zeroAt r 12 4 &&
  (match recKind r with
   | 1 => leAt b 0 1 == 1 && (leAt b 1 1 == 1 || leAt b 1 1 == 2) && zeroAt b 2 6 && b.length == 16 + keyLen (leAt b 1 1)
   | 2 => b.length == 1 && decide (leAt b 0 1 ≤ 2)
   | 3 => b.length == 1 && decide (leAt b 0 1 ≤ 1)
   | 4 => b.length == 1 && decide (85 ≤ leAt b 0 1) && decide (leAt b 0 1 ≤ 105)
   | 5 => b.length == 1
   | _ => false)

/-- What a valid record sets. DESIGN CHOICE, log 68. -/
def applyRecord (s : State) (r : List Byte) : State :=
  let b := recBody r
  let v := leAt b 0 1
  match recKind r with
  | 1 => { s with ownerKeys := s.ownerKeys ++ [{ cls := 1, alg := leAt b 1 1, id := leAt b 8 8, key := b.drop 16 }] }
  | 2 =>
    let (n, bad) := tierOf s.fitted v
    { s with tier2 := n, machChk := BitVec.ofNat 64 bad }
  | 3 => { s with nativeOk := v == 1 }
  | 4 => { s with tjmax := v }
  | _ => { s with ptpDomain := v }

/-- R4: a record at boot; an ignored one keeps the device at reduced service. DESIGN CHOICE, log 68. -/
def bootRecord (s : State) (r : List Byte) : State :=
  if recordSigned s.ownerKeys r && recordOk r then applyRecord s r else { s with cfgOk := false }

/-! ### Power, service and heat (R424, R425) -/

/-- POWER_ON: boot of a device without power: the records of the hub's store in the order stored, at reduced service. DESIGN CHOICE, log 68. -/
def execPowerOn (fit : Fitted) (s : State) : Host.Outcome State Fault Refusal :=
  if s.powered then .next s
  else
    .next (s.cfgStore.foldl bootRecord
      { State.reset with fitted := fit, cfgStore := s.cfgStore, free := s.free, rotor := s.rotor, agenda := s.agenda })

/-- POWER_REMOVED: nothing but the hub's store lasts. DESIGN CHOICE, log 69. -/
def execPowerRemoved (s : State) : Host.Outcome State Fault Refusal :=
  .next { State.reset with powered := false, cfgStore := s.cfgStore, free := s.free, rotor := s.rotor, agenda := s.agenda }

/-- TRAINING_COMPLETE: to full service, where every record has verified. DESIGN CHOICE, log 68. -/
def execTrainingComplete (s : State) : Host.Outcome State Fault Refusal :=
  .next (if s.svclevel == 0 && s.cfgOk then { s with svclevel := 1 } else s)

/-- R425: the limit is exceeded. -/
def tooHot (s : State) (tj : Nat) : Bool := decide (s.tjmax < tj)

/-- THERMAL_SAMPLE: the hottest core-die junction, and the hottest of every sensor. DESIGN CHOICE, log 70. -/
def execThermalSample (tj hottest : Nat) (s : State) : Host.Outcome State Fault Refusal :=
  let since (on : Bool) (old : Option Nat) : Option Nat := if on then some (old.getD s.tick) else none
  let cool := decide (tj + 10 ≤ s.tjmax) && decide (hottest + 10 ≤ s.tjmax)
  .next { s with
    tj := tj % 256,
    therm := if s.therm == 0 && tooHot s tj then 1 else s.therm,
    hotSince := since (tooHot s tj) s.hotSince,
    coolSince := since cool s.coolSince }

/-- 100 ms in network clocks (R5). DESIGN CHOICE, log 70. -/
def hotLimit : Nat := 200000000
/-- 1 s in network clocks (R5). DESIGN CHOICE, log 70. -/
def coolLimit : Nat := 2000000000

/-- THERMAL_SHUTDOWN: the limit still exceeded after 100 ms. DESIGN CHOICE, log 70. -/
def execThermalShutdown (s : State) : Host.Outcome State Fault Refusal :=
  match s.hotSince with
  | none => .next s
  | some t =>
    if s.therm != 1 || s.tick < t + hotLimit then .next s
    else
      let s1 := match s.freeze with | some f => endFreeze s f 1 0 | none => s
      .next { ((Map.keys s1.ctxs).foldl endContext s1) with therm := 2 }

/-- THERMAL_RECOVER: from THERM 1, once every sensor has read 10 °C below TJMAX for 1 s. DESIGN CHOICE, log 70. -/
def execThermalRecover (s : State) : Host.Outcome State Fault Refusal :=
  match s.coolSince with
  | none => .next s
  | some t => if s.therm == 1 && t + coolLimit ≤ s.tick then .next { s with therm := 0 } else .next s

/-- PACKAGE_POWER_LIMIT: the arithmetic clock is lowered at the mode's limit, and rises again below it. DESIGN CHOICE, log 58. -/
def execPackagePowerLimit (reached : Bool) (s : State) : Host.Outcome State Fault Refusal := .next { s with lowered := reached }

/-- FABRIC_PORT_STATE_CHANGE: of one of the 18 ports, at full service. -/
def execFabricPortStateChange (port st peer : Nat) (s : State) : Host.Outcome State Fault Refusal :=
  if s.svclevel == 0 || 18 ≤ port || 2 < st then .next s
  else
    let p := Map.get { st := 0, peer := 0, errs := 0 } s.ports port
    .next { s with ports := Map.put s.ports port { p with st := st, peer := peer } }

/-! ### Reports, the host's memory path, soft errors (R392, R419, R420) -/

/-- R419: a context's report; a Versu section's Nirgus output (R418) is an extend and no loaded section. DESIGN CHOICE, log 71. -/
def measureReport (s : State) (ctx : Nat) : List Byte :=
  let (car, log) := match Map.find s.ctxs ctx with
    | some c => (c.car, c.log)
    | none => (List.replicate 48 0, [])
  leBytes 1 ctx ++ leBytes 1 (min (log.filter (fun e => e.kind != 0x0100)).length 255) ++ leBytes 6 0 ++ leBytes 8 s.gtc.toNat ++ car ++
  log.flatMap (fun e => e.digest ++ leBytes 2 e.kind ++ leBytes 1 e.status)

/-- GET_MEASUREMENTS: the report of index 1 + ctx with both identity signatures over the SPDM transcript. DESIGN CHOICE, log 71. -/
def execGetMeasurements (index : Nat) (s : State) : Host.Outcome State Fault Refusal :=
  if index == 0 || 64 < index then .next s
  else
    let r := measureReport s (index - 1)
    let t := Config.partBytes 10 (r.map BitVec.toNat)
    .next { s with reports := s.reports ++ [r ++ sliceB (Config.identityEd t) 0 64 ++ sliceB (Config.identityMl t) 0 3309] }

/-- R243, R420: what the host reads and writes: HBM through the HDM range, and its own memory, which the device reaches by
CXL.cache at the addresses of the host window. DESIGN CHOICE, log 12, 72. -/
def hostReaches (s : State) (addr : Nat) : Bool := decide (addr < 768 * 2 ^ 30) || (windowOf addr == 8 && populated s addr)

/-- HOST_MEM_ACCESS: one byte of HBM or of the host's memory; a poisoned word answers a free value. DESIGN CHOICE, log 1, 72. -/
def execHostMemAccess (wr : Bool) (addr : Nat) (val : Byte) (s : State) : Host.Outcome State Fault Refusal :=
  if !hostReaches s addr then .next s
  else if wr then .next (s.wr addr [val])
  else
    let b := if poisoned s.poison addr 1 then (Config.freeWord (s.free * 2 ^ 64)).setWidth 8 else s.mem.byte addr
    .next { s with hostRead := s.hostRead ++ [(addr, b)] }

/-- A word becomes poisoned. DESIGN CHOICE, log 72. -/
def markPoison (s : State) (loc : EccLoc) : State :=
  match loc with
  | .mem pa => { s with poison := insNat s.poison (pa / 4) }
  | .team t off => { s with teams := Map.modify s.teams t (fun x => { x with poison := insNat x.poison (off / 4) }) }
  | .reg gid key => { s with groups := Map.modify s.groups gid (fun g => { g with poison := insNat g.poison key }) }
  | .flow proc slot =>
    let x := s.scribeAt proc
    s.putScribe proc { x with poison := insNat x.poison slot }

/-- ECC_SCRUB: a corrected error is counted; an uncorrectable one is counted and its word poisoned. No trap is raised. DESIGN CHOICE, log 72. -/
def execEccScrub (loc : EccLoc) (uncorrectable : Bool) (s : State) : Host.Outcome State Fault Refusal :=
  .next (if uncorrectable then { (markPoison s loc) with eccUnc := s.eccUnc + 1 } else { s with eccCorr := s.eccCorr + 1 })

/-! ### The command queue (R421) -/

/-- What a command does by its OP. DESIGN CHOICE, log 73. -/
def execCommand (op : Nat) (c : MCmd) (s : State) : Host.Outcome State Fault Refusal :=
  match op with
  | 0x01 => execSurvey c s
  | 0x02 => execLoad c s
  | 0x03 => execPartcfg c s
  | 0x04 => execModeset c s
  | 0x05 => execCtxsw c s
  | 0x06 => execFreeze c s
  | 0x07 => execThaw c s
  | 0x08 => execDirtyscan c s
  | 0x09 => execScribebind c s
  | 0x0A => execRouteset c s
  | 0x0B => execCtxend c s
  | 0x0C => execCtxcreate c s
  | 0x0D => execJobbind c s
  | 0x0E => execKeyenrol c s
  | 0x0F => execCfgwrite c s
  | 0x10 => execScribeunbind c s
  | 0x11 => execScriberead c s
  | 0x12 => execScribewrite c s
  | 0x13 => execScribesnap c s
  | 0x105 => endCtxsw c s
  | _ => .next (reply s c.mctp 0xFF)

/-- The first command of the queue, with nothing before it; what it leaves in the queue stays ahead of the others. DESIGN CHOICE, log 73. -/
def nextCommand (s : State) : Host.Outcome State Fault Refusal :=
  match s.freeze, s.cmdq with
  | none, (op, c) :: rest =>
    (match execCommand op c { s with cmdq := [] } with
     | .next s1 => .next { s1 with cmdq := s1.cmdq ++ rest }
     | .fault f => .fault f
     | .refused r => .refused r)
  | _, _ => .next s

end Sys2Proof.Machine
end

