-- ==== Sys2Proof/Machine/Plane.lean ====
section
/-!
DEFINITION. Plane operations: descriptors and folding (R169 to R174, R206), moves, folds and element-wise planes over
logical coordinates (R175 to R180, R195 to R211), the checks of R190, and collective operations (R181 to R185, R212).
-/
namespace Sys2Proof.Machine

/-! ### Descriptors and layout -/

/-- A plane descriptor (R171); `clean` says that its reserved bits are zero, `mask` that it is named in the mask role. -/
structure PDesc where
  p     : Nat
  q     : Nat
  fmt   : Nat
  fy    : Bool
  fx    : Bool
  base  : Nat
  nd    : Nat
  edgec : Word
  ext   : List Nat
  str   : List Nat
  clean : Bool
  mask  : Bool
  deriving DecidableEq, Repr

/-- The fields of four descriptor words (R171). -/
def pdescOf (w : Nat → DWord) (mask : Bool) : PDesc :=
  let h (d : Nat) : Nat := (w (2 + d / 2)).toNat / 2 ^ (32 * (d % 2)) % 2 ^ 32
  let ds := List.range 4
  { p := bits (w 0) 15 0, q := bits (w 0) 31 16, fmt := bits (w 0) 35 32, fy := bit (w 0) 36, fx := bit (w 0) 37,
    base := bits (w 0) 47 40, nd := bits (w 0) 50 48, edgec := (w 1).setWidth 32,
    ext := ds.map (fun d => h d % 2 ^ 16), str := ds.map (fun d => h d / 2 ^ 16 % 2 ^ 8),
    clean := bits (w 0) 39 38 == 0 && bits (w 0) 63 51 == 0 && bits (w 1) 63 32 == 0 && ds.all (fun d => h d / 2 ^ 24 == 0),
    mask := mask }

/-- R172: the format as a type. -/
def PDesc.ty (d : PDesc) : Ty := (Ty.ofCode d.fmt).getD .b32

/-- R172, R206: elements per register and bits per element. -/
def PDesc.k (d : PDesc) : Nat := if d.mask then 32 else d.ty.lanes
def PDesc.bits (d : PDesc) : Nat := if d.mask then 1 else d.ty.bits

/-- R172: fold factors, positions and registers of a lane. -/
def PDesc.foldY (d : PDesc) (h : Nat) : Nat := ceilDiv d.p h
def PDesc.foldX (d : PDesc) (w : Nat) : Nat := ceilDiv d.q w
def PDesc.n (d : PDesc) (h w : Nat) : Nat := d.foldY h * d.foldX w
def PDesc.regs (d : PDesc) (h w : Nat) : Nat := ceilDiv (d.n h w) d.k

/-- R172: a valid descriptor under a register budget. -/
def PDesc.valid (d : PDesc) (h w budget : Nat) : Bool :=
  let dims := List.range 4
  d.clean && decide (1 ≤ d.p) && decide (1 ≤ d.q) && decide (d.fmt ≤ 10) && (!d.mask || d.fmt == 10) && decide (d.nd ≤ 4) &&
  dims.all (fun x =>
    if x < d.nd then decide (1 ≤ d.ext.getD x 0) && decide (d.ext.getD x 0 ≤ 256)
    else d.ext.getD x 0 == 0 && d.str.getD x 0 == 0) &&
  decide (d.base + ((dims.filter (· < d.nd)).map (fun x => (d.ext.getD x 0 - 1) * d.str.getD x 0)).foldl (· + ·) 0 +
    d.regs h w - 1 < min budget 256)

/-- R180: the bases of the planes an instruction works on, t0 varying fastest. -/
def PDesc.bases (d : PDesc) (set : Bool) : List Nat :=
  if !set then [d.base]
  else (List.range d.nd).foldl (fun acc x =>
    (List.range (d.ext.getD x 0)).flatMap (fun t => acc.map (· + t * d.str.getD x 0))) [d.base]

/-- R173: lane coordinate and index within the lane, along one axis of `n` lanes and fold factor `f`. -/
def axisPlace (c n f : Nat) (crinkled : Bool) : Nat × Nat := if crinkled then (c / f, c % f) else (c % n, c / n)

/-- R173: the coordinate at a lane coordinate and index. -/
def axisCoord (lane u n f : Nat) (crinkled : Bool) : Nat := if crinkled then lane * f + u else lane + u * n

/-- R173: the grid lane and position of element (i, j). -/
def PDesc.place (d : PDesc) (h w i j : Nat) : Nat × Nat :=
  let (y, u) := axisPlace i h (d.foldY h) d.fy
  let (x, v) := axisPlace j w (d.foldX w) d.fx
  (y * w + x, u * d.foldX w + v)

/-- The element at a position of a grid lane; it is padding where it lies beyond the extents (R174). -/
def PDesc.coord (d : PDesc) (h w lane e : Nat) : Nat × Nat :=
  (axisCoord (lane / w) (e / d.foldX w) h (d.foldY h) d.fy, axisCoord (lane % w) (e % d.foldX w) w (d.foldX w) d.fx)

/-- The v registers of a descriptor's planes. -/
def PDesc.uses (d : PDesc) (h w : Nat) (set : Bool) : List Nat :=
  (d.bases set).flatMap (fun b => (List.range (d.regs h w)).map (b + ·))

/-- R170: an axis is collective for a grid. -/
def axisCollective (h w : Nat) (yAxis : Bool) : Bool :=
  if yAxis then decide (1 < h) && decide (32 < h * w) else decide (32 < w)

/-! ### What a member group supplies and receives -/

/-- A member group's part of an operation: what it supplied, the writes gathered for it (register, lane, value), flags. -/
structure PView where
  arr  : PlaneArrival
  outs : List (Nat × Nat × Word)
  fl   : Nat
  deriving DecidableEq, Repr

/-- R179: an element of a source plane; none where its lane has exited or its group supplies nothing. -/
def srcElem (vs : List PView) (h w : Nat) (d : PDesc) (base i j : Nat) : Option Nat :=
  let (lane, e) := d.place h w i j
  match vs.find? (fun v => v.arr.idx == lane / 32) with
  | none => none
  | some v =>
    if v.arr.exited.getLsbD (lane % 32) then none
    else some ((Map.get 0 v.arr.v (32 * (base + e / d.k) + lane % 32)).toNat / 2 ^ (d.bits * (e % d.k)) % 2 ^ d.bits)

/-! ### Elements -/

/-- R176: one level of the tree; a position that supplies the identity is neutral. -/
def pairUp (comb : Nat → Nat → FRes) : List (Option Nat) → List (Option Nat) × Nat
  | a :: b :: t =>
    let (r, fl) := pairUp comb t
    match a, b with
    | some x, some y => (some (comb x y).bits :: r, flOr (comb x y).flags fl)
    | some x, none => (some x :: r, fl)
    | none, y => (y :: r, fl)
  | l => (l, 0)

/-- R176: the tree over a line. -/
def foldTree (comb : Nat → Nat → FRes) : Nat → List (Option Nat) → Option Nat × Nat
  | 0, l => (l.headD none, 0)
  | n + 1, l =>
    if l.length ≤ 1 then (l.headD none, 0)
    else
      let (l1, fl) := pairUp comb l
      let (x, fl1) := foldTree comb n l1
      (x, flOr fl fl1)

/-- R177, R210: the identity of an operator. -/
def ropIdentity (o : Rop) (t : Ty) : Nat :=
  let w := t.bits
  match o with
  | .and => 2 ^ w - 1
  | .or | .xor => 0
  | .add => if t.isInt then 0 else 2 ^ (w - 1)
  | .max => if t.isSint then 2 ^ (w - 1) else if t.isInt then 0 else (ffOf t).infCode + 2 ^ (w - 1)
  | .min => if t.isSint then 2 ^ (w - 1) - 1 else if t.isInt then 2 ^ w - 1 else (ffOf t).infCode

/-- R199: the rounding mode and SAT of AMT. -/
def pewRm (f : PFmt) : RM :=
  match f.amt.toNat % 8 with
  | 1 => .rz | 2 => .ru | 3 => .rd | _ => .rn
def pewSat (f : PFmt) : Bool := f.amt.toNat / 8 % 2 == 1

/-- R175, R209: the value that the instruction's EDGE names, for the group that writes the element. -/
def edgeFill (f : PFmt) (d : PDesc) (fill : Word) : Nat :=
  match f.edge with
  | .desc => d.edgec.toNat % 2 ^ d.bits
  | .scal => fill.toNat % 2 ^ d.bits
  | _ => 0

/-- R201, R204: the constant of PEWC and PFILL. -/
def planeConst (f : PFmt) (d : PDesc) (fill : Word) : Nat :=
  if f.edge == .zero then f.imm.toNat % 2 ^ d.bits else edgeFill f d fill

/-- R175: a source coordinate brought into 0 to m - 1 by EDGE, where EDGE reads an element. -/
def edgeCoord (e : Edge) (c : Int) (m : Nat) : Option Nat :=
  if 0 ≤ c ∧ c < (m : Int) then some c.toNat
  else
    match e with
    | .rep => some (if c < 0 then 0 else m - 1)
    | .wrap => some (c % (m : Int)).toNat
    | _ => none

/-- R175: the source coordinate of a move: 0 shift, 1 rotate, 2 spread. -/
def moveCoord (kind : Nat) (f : PFmt) (c m : Nat) : Int :=
  let a := toSigned 8 f.amt.toNat
  match kind with
  | 0 => (c : Int) - a
  | 1 => ((c : Int) - a) % (m : Int)
  | _ => (f.imm.toNat : Int)

/-- R175, R179, R195, R209: one element of a move. -/
def moveElem (kind : Nat) (f : PFmt) (d : PDesc) (src : Nat → Nat → Option Nat) (fill : Word) (i j : Nat) : Nat :=
  let m := if f.yAxis then d.p else d.q
  let xf := edgeFill f d fill
  match edgeCoord f.edge (moveCoord kind f (if f.yAxis then i else j) m) m with
  | none => xf
  | some x => ((if f.yAxis then src x j else src i x)).getD xf

/-- R198: one element of PTRANS, of a source of extents p and q. -/
def transElem (f : PFmt) (d : PDesc) (src : Nat → Nat → Option Nat) (fill : Word) (i j : Nat) : Nat :=
  let xf := edgeFill f d fill
  if j < d.p && i < d.q then (src j i).getD xf
  else
    match f.edge with
    | .rep => (src (min j (d.p - 1)) (min i (d.q - 1))).getD xf
    | .wrap => (src (j % d.p) (i % d.q)).getD xf
    | _ => xf

/-- R176, R196, R210: a fold, or a scan up to coordinate `c`, of the line of (i, j). -/
def lineElem (f : PFmt) (d : PDesc) (src : Nat → Nat → Option Nat) (i j upTo : Nat) : Nat × Nat :=
  let m := if f.yAxis then d.p else d.q
  let line := (List.range m).map (fun x => if x ≤ upTo then (if f.yAxis then src x j else src i x) else none)
  let comb (a b : Nat) : FRes :=
    if d.mask then plain (match f.rop with | .and => a &&& b | .or => a ||| b | _ => a ^^^ b) else combine f.rop d.ty a b
  let (x, fl) := foldTree comb 17 line
  (x.getD (if d.mask then (if f.rop == .and then 1 else 0) else ropIdentity f.rop d.ty), fl)

/-- R211. -/
def plogElem (fn a b : Nat) : Nat :=
  match fn with
  | 0 => a &&& b | 1 => a ||| b | 2 => a ^^^ b | 3 => a &&& (1 - b) | _ => 1 - a

/-- R203: a coordinate plus the offset, encoded into a format. -/
def iotaElem (f : PFmt) (t : Ty) (c : Nat) : FRes :=
  let v : Int := (c : Int) + toSigned 32 f.imm.toNat
  if t.isInt then plain (ofInt t.bits v) else cvtIF (ffOf t) .rn 0 false v

/-- One destination element with its flags; none where the instruction leaves it (R176). `src n` reads operand field n:
1 OPA, 2 OPB, 3 OPC. -/
def planeElem (op : Nat) (f : PFmt) (desc : Nat → PDesc) (src : Nat → Nat → Nat → Option Nat) (fill : Word) (i j : Nat) :
    Option FRes :=
  let a := desc 1
  let get (n : Nat) : Nat := (src n i j).getD 0
  let pew (b c : Nat) : FRes :=
    let n := pewOp op f.fn.toNat
    if op == 0x0B && f.fn == 12 then elemOp n a.ty (pewRm f) (pewSat f) b (get 1) c
    else elemOp n a.ty (pewRm f) (pewSat f) (get 1) b c
  let first : Bool := (if f.yAxis then i else j) == 0
  match op with
  | 0x03 | 0x10 => some (plain (moveElem 0 f a (src 1) fill i j))
  | 0x04 | 0x11 => some (plain (moveElem 1 f a (src 1) fill i j))
  | 0x05 | 0x12 => some (plain (moveElem 2 f a (src 1) fill i j))
  | 0x06 | 0x13 =>
    if first then
      let (x, fl) := lineElem f a (src 1) i j (if f.yAxis then a.p else a.q)
      some { bits := x, flags := fl }
    else none
  | 0x07 => some (plain (get 1))
  | 0x08 => some (plain (transElem f a (src 1) fill i j))
  | 0x09 => some (pew (get 2) 0)
  | 0x0A => some (pew (get 2) (get 3))
  | 0x0B => some (pew (planeConst f a fill) 0)
  | 0x0C => some (iotaElem f (desc 0).ty (if f.yAxis then i else j))
  | 0x0D =>
    let (x, fl) := lineElem f a (src 1) i j (if f.yAxis then i else j)
    some { bits := x, flags := fl }
  | 0x0E => some (plain (if get 3 % 2 == 1 then get 1 else get 2))
  | 0x0F =>
    let (b, fl) := cmpElem f.fn.toNat a.ty (get 1) (get 2)
    some { bits := if b then 1 else 0, flags := fl }
  | 0x14 => some (plain (plogElem f.fn.toNat (get 1) (get 2)))
  | _ => some (plain (planeConst f (desc 0) fill))

/-- R174, R206: a register of a destination plane in one lane: elements written, padding zeroed, the rest kept. -/
def destWord (d : PDesc) (h w gridLane reg : Nat) (old : Word) (elem : Nat → Nat → Option FRes) : Word × Nat :=
  let at1 (x : Nat) : Option FRes :=
    let e := reg * d.k + x
    if d.n h w ≤ e then some (plain 0)
    else
      let (i, j) := d.coord h w gridLane e
      if d.p ≤ i || d.q ≤ j then some (plain 0) else elem i j
  let rs := (List.range d.k).map (fun x =>
    (at1 x).getD (plain (old.toNat / 2 ^ (d.bits * x) % 2 ^ d.bits)))
  (BitVec.ofNat 32 (rs.foldr (fun r a => r.bits % 2 ^ d.bits + a * 2 ^ d.bits) 0), rs.foldl (fun x r => flOr x r.flags) 0)

/-- The writes of one outer plane in one member group (R179): its active on-grid lanes. -/
def viewPlane (vs : List PView) (op : Nat) (f : PFmt) (h w : Nat) (desc : Nat → PDesc) (base : Nat → Nat) (v : PView) : PView :=
  let d := desc 0
  let live := maskMinus v.arr.act v.arr.exited
  let lanes := (lanesOf live).filter (fun l => decide (32 * v.arr.idx + l < h * w))
  let src (n i j : Nat) : Option Nat := srcElem vs h w (desc n) (base n) i j
  lanes.foldl (fun o l =>
    (List.range (d.regs h w)).foldl (fun o reg =>
      let key := 32 * (base 0 + reg) + l
      let (x, fl) := destWord d h w (32 * v.arr.idx + l) reg (Map.get 0 v.arr.v key) (planeElem op f desc src v.arr.fill)
      { arr := { o.arr with v := Map.set 0 o.arr.v key x }, outs := o.outs ++ [(base 0 + reg, l, x)], fl := flOr o.fl fl }) o) v

/-- R180: every outer plane in order; each completes in every member before the next begins. DEDUCED, log 33. -/
def planeRun (op : Nat) (f : PFmt) (h w : Nat) (desc : Nat → PDesc) (vs : List PView) : List PView :=
  (List.range ((desc 0).bases f.set).length).foldl (fun vs t =>
    vs.map (viewPlane vs op f h w desc (fun n => ((desc n).bases f.set).getD t (desc n).base))) vs

/-- The group with its writes and flags (R179, R191). -/
def PView.apply (v : PView) (g : Group) : Group :=
  (v.outs.foldl (fun g o => g.wrV o.1 o.2.1 o.2.2) g).raise v.fl

/-! ### Checks (R190) -/

/-- R189, R206: the operand fields that name descriptors, and which are in the mask role. -/
def planeFields (op : Nat) (f : PFmt) : List (Nat × Bool) :=
  match op with
  | 0x09 => [(0, false), (1, false), (2, false)]
  | 0x0A => [(0, false), (1, false), (2, false), (3, false)]
  | 0x0C | 0x15 => [(0, false)]
  | 0x0E => [(0, false), (1, false), (2, false), (3, true)]
  | 0x0F => [(0, true), (1, false), (2, false)]
  | 0x10 | 0x11 | 0x12 | 0x13 => [(0, true), (1, true)]
  | 0x14 => if f.fn == 4 then [(0, true), (1, true)] else [(0, true), (1, true), (2, true)]
  | 0x16 => [(1, false)]
  | _ => [(0, false), (1, false)]

/-- The register number of an operand field. -/
def fieldReg (f : PFmt) (n : Nat) : Nat :=
  (match n with | 0 => f.r.dst | 1 => f.r.a | 2 => f.r.b | _ => f.r.c).toNat

/-- R200, R202: the formats an element-wise function accepts, and whether RM and SAT are accepted with them. -/
def pewAccepts (op : Nat) (f : PFmt) (t : Ty) : Bool :=
  let n := pewOp op f.fn.toNat
  let q := lSpec n default
  let bitwise := n == 0x10 || n == 0x11 || n == 0x12
  (bitwise || q.tys t) && (pewRm f == .rn || q.rm t) && (!pewSat f || q.sat t)

/-- R190 step 3: formats accepted and equal where they must be. -/
def planeFormats (op : Nat) (f : PFmt) (desc : Nat → PDesc) (fields : List (Nat × Bool)) : Bool :=
  let data := (fields.filter (fun x => !x.2)).map (fun x => (desc x.1).fmt)
  let same := data.all (· == data.headD 0)
  let t := (desc (if op == 0x0C || op == 0x15 then 0 else 1)).ty
  same &&
  (match op with
   | 0x06 | 0x0D => ropOk f.rop t
   | 0x09 | 0x0A | 0x0B => pewAccepts op f t
   | 0x0C => t.isInt || t.isFlt
   | 0x0F => (t.isInt || t.isFlt) && (f.fn != 6 || t.isFlt)
   | _ => true)

/-- Equal ND and outer extents; equal shape (R180, R186). -/
def sameOuter (a b : PDesc) : Bool := a.nd == b.nd && a.ext == b.ext
def sameShape (a b : PDesc) : Bool := a.p == b.p && a.q == b.q && sameOuter a b

/-- Equal folding on every axis whose fold factor exceeds 1 (R186). -/
def sameFold (h w : Nat) (a b : PDesc) : Bool :=
  (decide (a.foldY h ≤ 1) || a.fy == b.fy) && (decide (a.foldX w ≤ 1) || a.fx == b.fx)

/-- R190 steps 2 to 5. DEDUCED, log 33. -/
def planeCheck (op : Nat) (f : PFmt) (h w budget : Nat) (desc : Nat → PDesc) : Res Unit :=
  let fields := planeFields op f
  let others := (fields.filter (fun x => x.1 != 0)).map (fun x => desc x.1)
  let fold (n : Nat) : Res Unit := .error (.trap { cause := cFold, detail := n })
  if !fields.all (fun x => (desc x.1).valid h w budget) then .error (illegal 0x04)
  else if !planeFormats op f desc fields then .error (illegal 0x04)
  else if op == 0x16 then .ok ()
  else if op == 0x08 then (if others.all (sameOuter (desc 0)) then .ok () else fold 3)
  else if !others.all (sameShape (desc 0)) then fold 3
  else if op == 0x07 || others.all (sameFold h w (desc 0)) then .ok ()
  else fold 1

/-- R197, R212: whether the instruction is collective on a grid. -/
def planeCollective (op : Nat) (f : PFmt) (h w : Nat) (desc : Nat → PDesc) : Bool :=
  match op with
  | 0x03 | 0x04 | 0x05 | 0x06 | 0x0D | 0x10 | 0x11 | 0x12 | 0x13 => axisCollective h w f.yAxis
  | 0x08 => axisCollective h w false || axisCollective h w true
  | 0x07 =>
    let a := desc 1
    let d := desc 0
    (decide (1 < d.foldX w) && a.fx != d.fx && axisCollective h w false) ||
    (decide (1 < d.foldY h) && a.fy != d.fy && axisCollective h w true)
  | _ => false

/-! ### Plane instructions -/

/-- R191: the v registers as read at issue. -/
def Group.viewV (g : Group) (fc : Nat) : SMap Word :=
  g.entries.foldr (fun e m => e.outs.foldr (fun o m =>
    match o with
    | .v r l x => if Config.raceBit fc (keyV r l) then Map.set 0 m (32 * r + l) x else m
    | _ => m) m) g.v

/-- What the issuing group supplies. -/
def Iss.arrival (c : Iss) (f : PFmt) : PlaneArrival :=
  { idx := c.g.idx, gid := c.gid, pos := c.pos, act := c.on, exited := c.g.exited,
    fill := if f.edge == .scal then (c.g.rdS c.fc f.r.c.toNat).setWidth 32 else 0, v := c.g.viewV c.fc }

/-- R392: a poisoned source register in a lane that is read. -/
def planePoison (g : Group) (f : PFmt) (h w : Nat) (fields : List (Nat × Bool)) (desc : Nat → PDesc) : Bool :=
  !g.poison.isEmpty &&
  (fields.filter (fun x => x.1 != 0)).any (fun x => ((desc x.1).uses h w f.set).any (fun r =>
    (lanesOf (~~~g.exited)).any (fun l => decide (32 * g.idx + l < h * w) && g.poison.contains (keyV r l))))

/-- The words of the descriptors that an instruction names, by operand field. -/
def Iss.pdWords (c : Iss) (f : PFmt) (fields : List (Nat × Bool)) : SMap DWord :=
  fields.foldl (fun m x => (List.range 4).foldl (fun m k =>
    Map.set 0 m (4 * x.1 + k) (c.g.rdPd (fieldReg f x.1) k)) m) []

/-- The descriptors of an operation, from the words supplied. -/
def descOf (pd : SMap DWord) (fields : List (Nat × Bool)) (n : Nat) : PDesc :=
  pdescOf (fun k => Map.get 0 pd (4 * n + k)) (fields.any (fun x => x.1 == n && x.2))

/-- R185: what the arrivals of an operation must agree in: CLS, OP and bits [51:0]; register fields and guard aside. -/
def planeSig (i : Instr) : Shape :=
  match i.shape with
  | .p cls op n f => .p cls op n { f with r := default }
  | x => x

/-- R169: the group indices of a team that are members. -/
def planeMembers (t : Team) : List Nat := (List.range t.nGroups).filter (fun i => decide (32 * i < t.gridH * t.gridW))

/-- Whether a member has exited (R182). -/
def planeExited (s : State) (team idx : Nat) : Bool :=
  match s.groups.find? (fun g => g.2.team == team && g.2.idx == idx && g.2.handler.isNone) with
  | some g => g.2.exited == BitVec.allOnes 32
  | none => true

/-- The pending operation of a team under a number, replaced; one with no arrival and nobody to trap is dropped. -/
def putPlaneOp (s : State) (team k : Nat) (o : PlaneOp) : State :=
  let gone := o.arrivals.isEmpty && o.bad.isEmpty
  let put (t : Team) : Team :=
    if gone then { t with planeOps := Map.del t.planeOps k } else { t with planeOps := Map.put t.planeOps k o }
  { s with teams := Map.modify s.teams team put }

/-- R185: an arrived group traps on its k-th instruction, which it will issue again. DEDUCED, log 34. -/
def planeTrap (s : State) (k : Nat) (a : PlaneArrival) : State :=
  match (Map.find s.groups a.gid).bind (fun g => (Map.find g.splits a.pos).map (fun sp => (g, sp))) with
  | none => s
  | some (g, sp) =>
    let g1 := { (g.setSplit a.pos { sp with wait := .none }) with planeSeq := k }
    raiseTrap (s.putG a.gid g1)
      { gid := a.gid, pos := a.pos, pc := sp.pc, act := sp.only.getD sp.mask, kind := 0, ref := 0 }
      { cause := cFold, detail := 2 }

/-- R185: the arriving group traps, with the state in which the others have. DEDUCED, log 34. -/
def planeTrapSelf (s : State) (c : Iss) : State :=
  raiseTrap s { gid := c.gid, pos := c.pos, pc := c.sp.pc, act := c.act, kind := 0, ref := 0 } { cause := cFold, detail := 2 }

/-- R181: the group's next sequence number: the first at which it has not arrived. -/
def planeNext (t : Team) (g : Group) : Nat :=
  let used := (t.planeOps.filter (fun o => o.2.arrivals.any (fun a => a.idx == g.idx))).map Prod.fst
  (lowestFree used (used.length + 1) g.planeSeq).getD g.planeSeq

/-- R181 to R185: arrival at a collective operation. DEDUCED, log 19. -/
def planeArrive (s : State) (c : Iss) (i : Instr) (f : PFmt) (t : Team) (pd : SMap DWord) (regs : List Nat) : State :=
  let k := planeNext t c.g
  let new : PlaneOp := { instr := i, pd := pd, arrivals := [], bad := [] }
  let o0 := (Map.find t.planeOps k).getD new
  let live (n : Nat) : Bool := !planeExited s c.g.team n
  if o0.bad.contains c.g.idx then
    planeTrapSelf (putPlaneOp s c.g.team k { o0 with bad := o0.bad.filter (fun n => n != c.g.idx && live n) }) c
  else if !o0.arrivals.isEmpty && (planeSig o0.instr != planeSig i || o0.pd != pd) then
    let bad := (planeMembers t).filter (fun n =>
      n != c.g.idx && live n && (o0.bad.contains n || !o0.arrivals.any (fun a => a.idx == n)))
    let s1 := putPlaneOp s c.g.team k { o0 with arrivals := [], bad := bad }
    planeTrapSelf (o0.arrivals.foldl (fun s a => planeTrap s k a) s1) c
  else
    let o1 := if o0.arrivals.isEmpty then { new with bad := o0.bad } else o0
    let g1 := { (c.g.setSplit c.pos { c.sp with wait := .plane k regs }) with planeSeq := k + 1 }
    putPlaneOp (s.putG c.gid g1) c.g.team k { o1 with arrivals := o1.arrivals ++ [c.arrival f] }

/-- A plane instruction that works on whole planes: checks of R190, the interlock of R183, then its arrival or its effect. DEDUCED, log 33. -/
def planeInstr (i : Instr) (f : PFmt) (s : State) : Host.Outcome State Fault Refusal :=
  asGroup f.r.g s (fun c =>
    match i.shape, Map.find s.teams c.g.team with
    | .p _ _ op _, some t =>
      let h := t.gridH
      let w := t.gridW
      if h * w ≤ 32 * c.g.idx then .ok (c.done s c.g)
      else do
        let fields := planeFields op f
        let pd := c.pdWords f fields
        let desc := descOf pd fields
        planeCheck op f h w c.g.budget desc
        let held := c.g.planeRegs
        if fields.any (fun x => ((desc x.1).uses h w f.set).any (fun r => held.contains r)) then .error .wait
        else if planePoison c.g f h w fields desc then .error (.trap { cause := cMachine, detail := 2 })
        else if planeCollective op f h w desc then
          return planeArrive s c i f t pd ((desc 0).uses h w f.set)
        else
          let vs := planeRun op f h w desc [{ arr := c.arrival f, outs := [], fl := 0 }]
          return c.done s (vs.foldl (fun g v => v.apply g) c.g)
    | _, _ => .ok (c.done s c.g))

/-- PSHIFT: a shift along an axis, filled by EDGE (R175, R195). -/
def execPshift (f : PFmt) (s : State) : Host.Outcome State Fault Refusal := planeInstr (.pshift f) f s
/-- PROT: a rotation over the logical extent (R175, R195). -/
def execProt (f : PFmt) (s : State) : Host.Outcome State Fault Refusal := planeInstr (.prot f) f s
/-- PSPREAD: one index to every position (R175, R195). -/
def execPspread (f : PFmt) (s : State) : Host.Outcome State Fault Refusal := planeInstr (.pspread f) f s
/-- PFOLD: each line reduced into its first element (R176, R196). -/
def execPfold (f : PFmt) (s : State) : Host.Outcome State Fault Refusal := planeInstr (.pfold f) f s
/-- PREFOLD: every element to its place under another folding (R178, R197). -/
def execPrefold (f : PFmt) (s : State) : Host.Outcome State Fault Refusal := planeInstr (.prefold f) f s
/-- PTRANS: the transpose (R198). -/
def execPtrans (f : PFmt) (s : State) : Host.Outcome State Fault Refusal := planeInstr (.ptrans f) f s
/-- PEW2: element by element over two planes (R186, R200). -/
def execPew2 (f : PFmt) (s : State) : Host.Outcome State Fault Refusal := planeInstr (.pew2 f) f s
/-- PEW3: element by element over three planes (R186, R202). -/
def execPew3 (f : PFmt) (s : State) : Host.Outcome State Fault Refusal := planeInstr (.pew3 f) f s
/-- PEWC: a plane with a constant (R186, R200, R201). -/
def execPewc (f : PFmt) (s : State) : Host.Outcome State Fault Refusal := planeInstr (.pewc f) f s
/-- PIOTA: coordinates plus an offset (R203). -/
def execPiota (f : PFmt) (s : State) : Host.Outcome State Fault Refusal := planeInstr (.piota f) f s
/-- PSCAN: an inclusive scan by the fold's tree (R196). -/
def execPscan (f : PFmt) (s : State) : Host.Outcome State Fault Refusal := planeInstr (.pscan f) f s
/-- PSEL: elements of two planes by a mask (R208). -/
def execPsel (f : PFmt) (s : State) : Host.Outcome State Fault Refusal := planeInstr (.psel f) f s
/-- PCMP: a relation of two planes into a mask (R207). -/
def execPcmp (f : PFmt) (s : State) : Host.Outcome State Fault Refusal := planeInstr (.pcmp f) f s
/-- PPSHIFT: PSHIFT of a mask (R209). -/
def execPpshift (f : PFmt) (s : State) : Host.Outcome State Fault Refusal := planeInstr (.ppshift f) f s
/-- PPROT: PROT of a mask (R209). -/
def execPprot (f : PFmt) (s : State) : Host.Outcome State Fault Refusal := planeInstr (.pprot f) f s
/-- PPSPREAD: PSPREAD of a mask (R209). -/
def execPpspread (f : PFmt) (s : State) : Host.Outcome State Fault Refusal := planeInstr (.ppspread f) f s
/-- PPFOLD: mask lines folded (R210). -/
def execPpfold (f : PFmt) (s : State) : Host.Outcome State Fault Refusal := planeInstr (.ppfold f) f s
/-- PPLOG: two masks bit by bit (R211). -/
def execPplog (f : PFmt) (s : State) : Host.Outcome State Fault Refusal := planeInstr (.pplog f) f s
/-- PFILL: one value into every element (R204). -/
def execPfill (f : PFmt) (s : State) : Host.Outcome State Fault Refusal := planeInstr (.pfill f) f s

/-- The grid of the issuing group's team, where the group is a member (R169). -/
def Iss.grid (c : Iss) (s : State) : Option (Nat × Nat) :=
  match Map.find s.teams c.g.team with
  | some t => if t.gridH * t.gridW ≤ 32 * c.g.idx then none else some (t.gridH, t.gridW)
  | none => none

/-- A per-group descriptor instruction of a member group (R62, R169, R193). -/
def pdOnce (f : PFmt) (s : State) (fn : Iss → Group) : Host.Outcome State Fault Refusal :=
  asOnce f.r.g s (fun c =>
    match c.grid s with
    | none => .ok (c.done s c.g)
    | some _ => .ok (c.done s (fn c)))

/-- PDSET: word 0 from its fields, the other words zero (R192); all four words are written, so poison is cleared (R392). -/
def execPdset (f : PFmt) (s : State) : Host.Outcome State Fault Refusal :=
  pdOnce f s (fun c =>
    let d := f.r.dst.toNat
    let w0 := BitVec.ofNat 64 (f.imm.toNat + f.amt.toNat % 64 * 2 ^ 32 + f.r.a.toNat * 2 ^ 40)
    ((((c.g.wrPd d 0 w0).wrPd d 1 0).wrPd d 2 0).wrPd d 3 0).heal (keyPd d))

/-- PDSET.EDGE: EDGEC from the immediate or an s register (R192). -/
def execPdsetEdge (f : PFmt) (s : State) : Host.Outcome State Fault Refusal :=
  pdOnce f s (fun c =>
    let d := f.r.dst.toNat
    let x : Word := if f.edge == .scal then (c.g.rdS c.fc f.r.c.toNat).setWidth 32 else f.imm
    c.g.wrPd d 1 (BitVec.ofNat 64 (bits (c.g.rdPd d 1) 63 32 * 2 ^ 32 + x.toNat)))

/-- PDSET.DIM: extent and stride of dimension d, ND d + 1, the dimensions above cleared (R192). -/
def execPdsetDim (f : PFmt) (s : State) : Host.Outcome State Fault Refusal :=
  pdOnce f s (fun c =>
    let d := f.r.dst.toNat
    let n := bits f.imm 25 24
    let both := (c.g.rdPd d 2).toNat + (c.g.rdPd d 3).toNat * 2 ^ 64
    let new := both % 2 ^ (32 * n) + (bits f.imm 8 0 + bits f.imm 23 16 * 2 ^ 16) * 2 ^ (32 * n)
    ((c.g.wrPd d 0 (setBits (c.g.rdPd d 0) 50 48 (n + 1))).wrPd d 2 (BitVec.ofNat 64 new)).wrPd d 3
      (BitVec.ofNat 64 (new / 2 ^ 64)))

/-- PDSET.LIKE: a copy with another base and foldings (R192). -/
def execPdsetLike (f : PFmt) (s : State) : Host.Outcome State Fault Refusal :=
  pdOnce f s (fun c =>
    let d := f.r.dst.toNat
    let a := f.r.a.toNat
    let w0 := setBits (setBits (c.g.rdPd a 0) 37 36 (bits f.amt 5 4)) 47 40 f.r.b.toNat
    ((((c.g.wrPd d 0 w0).wrPd d 1 (c.g.rdPd a 1)).wrPd d 2 (c.g.rdPd a 2)).wrPd d 3 (c.g.rdPd a 3)).heal (keyPd d))

/-- PDGET: one word of a descriptor as held (R194). -/
def execPdget (f : PFmt) (s : State) : Host.Outcome State Fault Refusal :=
  pdOnce f s (fun c => c.g.wrS f.r.dst.toNat (c.g.rdPd f.r.a.toNat (f.imm.toNat % 4)))

/-- PEXTR: an element of outer plane 0, or EDGEC where this group does not hold it (R205). DEDUCED, log 33. -/
def execPextr (f : PFmt) (s : State) : Host.Outcome State Fault Refusal :=
  asGroup f.r.g s (fun c =>
    match c.grid s with
    | none => .ok (c.done s c.g)
    | some (h, w) => do
      let fields := planeFields 0x16 f
      let desc := descOf (c.pdWords f fields) fields
      planeCheck 0x16 f h w c.g.budget desc
      let d := desc 1
      let i := bits f.imm 15 0
      let j := bits f.imm 31 16
      let v := srcElem [{ arr := c.arrival f, outs := [], fl := 0 }] h w d d.base i j
      let key := keyV (d.base + (d.place h w i j).2 / d.k) ((d.place h w i j).1 % 32)
      if c.on == 0 then return c.done s c.g
      else if d.p ≤ i || d.q ≤ j then return c.done s (c.g.wrS f.r.dst.toNat (BitVec.ofNat 64 (d.edgec.toNat % 2 ^ d.bits)))
      else if c.g.planeRegs.contains (d.base + (d.place h w i j).2 / d.k) then .error .wait
      else if v.isSome && c.g.poison.contains key then .error (.trap { cause := cMachine, detail := 2 })
      else return c.done s (c.g.wrS f.r.dst.toNat (BitVec.ofNat 64 (v.getD (d.edgec.toNat % 2 ^ d.bits)))))

/-- The split of an arrival goes on, its group's destinations written (R182). DEDUCED, log 34. -/
def planeReceive (s : State) (v : PView) : State :=
  { s with groups := Map.modify s.groups v.arr.gid (fun g =>
      let g1 := v.apply g
      { g1 with splits := Map.modify g1.splits v.arr.pos (fun sp => { sp.fall with wait := .none }) }) }

/-- R184, R395: a team's context is active on its core, is not being switched out and is not frozen. -/
def teamRuns (s : State) (t : Team) : Bool :=
  (match Map.find s.ctxs t.ctx with
   | some c => !c.frozen
   | none => true) &&
  (match Map.find s.cores t.core with
   | some c => (match c.active with | some a => a == t.ctx | none => true) && c.incoming.isNone
   | none => true)

/-- COLLECTIVE_PLANE_COMPLETE: every member has arrived or exited (R182, R183), and the context runs (R184). -/
def execCollectivePlaneComplete (team seq : Nat) (s : State) : Host.Outcome State Fault Refusal :=
  match Map.find s.teams team with
  | none => .next s
  | some t =>
    match Map.find t.planeOps seq with
    | none => .next s
    | some o =>
      let here (n : Nat) : Bool := o.arrivals.any (fun a => a.idx == n)
      if !teamRuns s t || o.arrivals.isEmpty || !(planeMembers t).all (fun n => here n || planeExited s team n) then .next s
      else
        match o.instr.shape with
        | .p _ _ op f =>
          let vs := planeRun op f t.gridH t.gridW (descOf o.pd (planeFields op f))
            (o.arrivals.map (fun a => { arr := a, outs := [], fl := 0 }))
          .next (putPlaneOp (vs.foldl planeReceive s) team seq { o with arrivals := [], bad := [] })
        | _ => .next s

end Sys2Proof.Machine
end

