-- ==== Sys2Proof/Machine/Scalar.lean ====
section
/-!
DEFINITION. Class 10 scalar arithmetic, logic, compare, select, move and bit fields (R125 to R130).
-/
namespace Sys2Proof.Machine

/-- R126: a per-group instruction that writes an s register. DEDUCED, log 95. -/
def scalarOp (f : SFmt) (s : State) (fn : Iss → DWord) : Host.Outcome State Fault Refusal :=
  asOnce f.r.g s (fun c => .ok (c.done s (c.g.wrS f.r.dst.toNat (fn c))))

/-- R126: one computed from the values of A and B under the type. -/
def scalarArith (f : SFmt) (s : State) (fn : Int → Int → Int) : Host.Outcome State Fault Refusal :=
  scalarOp f s (fun c => sResult f.ty (fn (sVal f.ty (c.sA f)) (sVal f.ty (c.sB f))))

/-- One computed from all 64 bits of A and B. -/
def scalarBits (f : SFmt) (s : State) (fn : DWord → DWord → DWord) : Host.Outcome State Fault Refusal :=
  scalarOp f s (fun c => fn (c.sA f) (c.sB f))

/-- R127: a shift of the w bits of A by B mod w. -/
def scalarShift (op : Nat) (f : SFmt) (s : State) : Host.Outcome State Fault Refusal :=
  scalarOp f s (fun c =>
    let w := sBitsOf f.ty
    sResult f.ty (shiftElem op w ((c.sA f).toNat % 2 ^ w) (c.sB f).toNat))

/-- ADD: A + B (R127). -/
def execScalarAdd (f : SFmt) (s : State) : Host.Outcome State Fault Refusal :=
  scalarArith f s (fun x y => x + y)

/-- SUB: A − B (R127). -/
def execScalarSub (f : SFmt) (s : State) : Host.Outcome State Fault Refusal :=
  scalarArith f s (fun x y => x - y)

/-- MUL: the low w bits of A × B (R127). -/
def execScalarMul (f : SFmt) (s : State) : Host.Outcome State Fault Refusal :=
  scalarArith f s (fun x y => x * y)

/-- MULHI: the high w bits of the exact product (R127). -/
def execScalarMulhi (f : SFmt) (s : State) : Host.Outcome State Fault Refusal :=
  scalarArith f s (fun x y => x * y / 2 ^ sBitsOf f.ty)

/-- DIV: A ÷ B rounded toward zero; all ones where B is 0, A on signed overflow (R127, R128). -/
def execDiv (f : SFmt) (s : State) : Host.Outcome State Fault Refusal :=
  scalarArith f s (fun x y => if y == 0 then -1 else Int.tdiv x y)

/-- REM: the remainder, with the sign of A; A where B is 0 (R127, R128). -/
def execRem (f : SFmt) (s : State) : Host.Outcome State Fault Refusal :=
  scalarArith f s (fun x y => if y == 0 then x else Int.tmod x y)

/-- MIN: the lesser (R127). -/
def execScalarMin (f : SFmt) (s : State) : Host.Outcome State Fault Refusal :=
  scalarArith f s (fun x y => min x y)

/-- MAX: the greater (R127). -/
def execScalarMax (f : SFmt) (s : State) : Host.Outcome State Fault Refusal :=
  scalarArith f s (fun x y => max x y)

/-- AND of 64 bits (R127). -/
def execScalarAnd (f : SFmt) (s : State) : Host.Outcome State Fault Refusal :=
  scalarBits f s (fun x y => x &&& y)

/-- OR of 64 bits (R127). -/
def execScalarOr (f : SFmt) (s : State) : Host.Outcome State Fault Refusal :=
  scalarBits f s (fun x y => x ||| y)

/-- XOR of 64 bits (R127). -/
def execScalarXor (f : SFmt) (s : State) : Host.Outcome State Fault Refusal :=
  scalarBits f s (fun x y => x ^^^ y)

/-- NOT of 64 bits (R127). -/
def execScalarNot (f : SFmt) (s : State) : Host.Outcome State Fault Refusal :=
  scalarBits f s (fun x _ => ~~~x)

/-- SHL (R127). -/
def execScalarShl (f : SFmt) (s : State) : Host.Outcome State Fault Refusal := scalarShift 0x14 f s

/-- SHR (R127). -/
def execScalarShr (f : SFmt) (s : State) : Host.Outcome State Fault Refusal := scalarShift 0x15 f s

/-- SAR (R127). -/
def execScalarSar (f : SFmt) (s : State) : Host.Outcome State Fault Refusal := scalarShift 0x16 f s

/-- CMP: 1 when A rel B holds, else 0 (R129). -/
def execScalarCmp (f : SFmt) (s : State) : Host.Outcome State Fault Refusal :=
  scalarOp f s (fun c => if relInt f.fn.toNat (sVal f.ty (c.sA f)) (sVal f.ty (c.sB f)) then 1 else 0)

/-- SEL: A when C is not 0, else B (R129). -/
def execScalarSel (f : SFmt) (s : State) : Host.Outcome State Fault Refusal :=
  scalarOp f s (fun c => if c.sC f != 0 then c.sA f else c.sB f)

/-- MOV: A, extended under I32 and U32 (R129). -/
def execScalarMov (f : SFmt) (s : State) : Host.Outcome State Fault Refusal :=
  scalarOp f s (fun c => sResult f.ty (sVal f.ty (c.sA f)))

/-- POPC: one bits of the w bits of A (R127). -/
def execScalarPopc (f : SFmt) (s : State) : Host.Outcome State Fault Refusal :=
  scalarOp f s (fun c => BitVec.ofNat 64 (popcount (sBitsOf f.ty) ((c.sA f).toNat % 2 ^ sBitsOf f.ty)))

/-- CLZ: zero bits above the highest one bit (R127). -/
def execScalarClz (f : SFmt) (s : State) : Host.Outcome State Fault Refusal :=
  scalarOp f s (fun c => BitVec.ofNat 64 (clz (sBitsOf f.ty) (c.sA f).toNat))

/-- R130: the position of a bit field, and its width, read as 64 above that. -/
def fieldPos (b : DWord) : Nat := bits b 5 0
def fieldWid (b : DWord) : Nat := min (bits b 14 8) 64

/-- BFX: a field of A, zero- or sign-extended (R130). -/
def execScalarBfx (f : SFmt) (s : State) : Host.Outcome State Fault Refusal :=
  scalarBits f s (fun a b => BitVec.ofNat 64 (bfxOp 64 (fieldPos b) (fieldWid b) a.toNat (f.fn == 1)))

/-- BFI: C with a field replaced (R130). -/
def execScalarBfi (f : SFmt) (s : State) : Host.Outcome State Fault Refusal :=
  scalarOp f s (fun c =>
    BitVec.ofNat 64 (bfiOp 64 (fieldPos (c.sB f)) (fieldWid (c.sB f)) (c.sA f).toNat (c.sC f).toNat))

/-- MOVP: a predicate's 32 lane bits (R129). -/
def execMovp (f : SFmt) (s : State) : Host.Outcome State Fault Refusal :=
  scalarOp f s (fun c => (c.g.rdP c.fc f.r.a.toNat).setWidth 64)

/-- MOVPS: bits of A into a predicate in the split's guarded lanes (R129). -/
def execMovps (f : SFmt) (s : State) : Host.Outcome State Fault Refusal :=
  asGroup f.r.g s (fun c => .ok (c.done s
    ((lanesOf c.on).foldl (fun g l => g.wrP f.r.dst.toNat l ((c.sA f).getLsbD l)) c.g)))

end Sys2Proof.Machine
end

