-- ==== Sys2Proof/Machine/Dispatch.lean ====
section
/-!
DEFINITION. One arm per constructor: each is one direct call of its meaning.
-/
namespace Sys2Proof.Machine

/-- What an instruction, a command or an event does in a state. -/
def exec (i : Instr) (s : State) : Host.Outcome State Fault Refusal :=
  match i with
  | .add f => Sys2Proof.Machine.execAdd f s
  | .sub f => Sys2Proof.Machine.execSub f s
  | .mul f => Sys2Proof.Machine.execMul f s
  | .mulhi f => Sys2Proof.Machine.execMulhi f s
  | .mad f => Sys2Proof.Machine.execMad f s
  | .fma f => Sys2Proof.Machine.execFma f s
  | .min f => Sys2Proof.Machine.execMin f s
  | .max f => Sys2Proof.Machine.execMax f s
  | .abs f => Sys2Proof.Machine.execAbs f s
  | .neg f => Sys2Proof.Machine.execNeg f s
  | .clamp f => Sys2Proof.Machine.execClamp f s
  | .addmin f => Sys2Proof.Machine.execAddmin f s
  | .dot2 f => Sys2Proof.Machine.execDot2 f s
  | .frnd f => Sys2Proof.Machine.execFrnd f s
  | .mov f => Sys2Proof.Machine.execMov f s
  | .and f => Sys2Proof.Machine.execAnd f s
  | .or f => Sys2Proof.Machine.execOr f s
  | .xor f => Sys2Proof.Machine.execXor f s
  | .not f => Sys2Proof.Machine.execNot f s
  | .shl f => Sys2Proof.Machine.execShl f s
  | .shr f => Sys2Proof.Machine.execShr f s
  | .sar f => Sys2Proof.Machine.execSar f s
  | .bfx f => Sys2Proof.Machine.execBfx f s
  | .bfi f => Sys2Proof.Machine.execBfi f s
  | .popc f => Sys2Proof.Machine.execPopc f s
  | .clz f => Sys2Proof.Machine.execClz f s
  | .brev f => Sys2Proof.Machine.execBrev f s
  | .pack f => Sys2Proof.Machine.execPack f s
  | .cmp f => Sys2Proof.Machine.execCmp f s
  | .sel f => Sys2Proof.Machine.execSel f s
  | .ballot f => Sys2Proof.Machine.execBallot f s
  | .lshf f => Sys2Proof.Machine.execLshf f s
  | .pand f => Sys2Proof.Machine.execPand f s
  | .por f => Sys2Proof.Machine.execPor f s
  | .pxor f => Sys2Proof.Machine.execPxor f s
  | .pnot f => Sys2Proof.Machine.execPnot f s
  | .rand f => Sys2Proof.Machine.execRand f s
  | .cvt f => Sys2Proof.Machine.execCvt f s
  | .rcp f => Sys2Proof.Machine.execRcp f s
  | .rsq f => Sys2Proof.Machine.execRsq f s
  | .exp2 f => Sys2Proof.Machine.execExp2 f s
  | .log2 f => Sys2Proof.Machine.execLog2 f s
  | .sin f => Sys2Proof.Machine.execSin f s
  | .cos f => Sys2Proof.Machine.execCos f s
  | .pdset f => Sys2Proof.Machine.execPdset f s
  | .pdsetEdge f => Sys2Proof.Machine.execPdsetEdge f s
  | .pdsetDim f => Sys2Proof.Machine.execPdsetDim f s
  | .pdsetLike f => Sys2Proof.Machine.execPdsetLike f s
  | .pdget f => Sys2Proof.Machine.execPdget f s
  | .pshift f => Sys2Proof.Machine.execPshift f s
  | .prot f => Sys2Proof.Machine.execProt f s
  | .pspread f => Sys2Proof.Machine.execPspread f s
  | .pfold f => Sys2Proof.Machine.execPfold f s
  | .prefold f => Sys2Proof.Machine.execPrefold f s
  | .ptrans f => Sys2Proof.Machine.execPtrans f s
  | .pew2 f => Sys2Proof.Machine.execPew2 f s
  | .pew3 f => Sys2Proof.Machine.execPew3 f s
  | .pewc f => Sys2Proof.Machine.execPewc f s
  | .piota f => Sys2Proof.Machine.execPiota f s
  | .pscan f => Sys2Proof.Machine.execPscan f s
  | .psel f => Sys2Proof.Machine.execPsel f s
  | .pcmp f => Sys2Proof.Machine.execPcmp f s
  | .ppshift f => Sys2Proof.Machine.execPpshift f s
  | .pprot f => Sys2Proof.Machine.execPprot f s
  | .ppspread f => Sys2Proof.Machine.execPpspread f s
  | .ppfold f => Sys2Proof.Machine.execPpfold f s
  | .pplog f => Sys2Proof.Machine.execPplog f s
  | .pfill f => Sys2Proof.Machine.execPfill f s
  | .pextr f => Sys2Proof.Machine.execPextr f s
  | .collectivePlaneComplete team seq => Sys2Proof.Machine.execCollectivePlaneComplete team seq s
  | .mres f => Sys2Proof.Machine.execMres f s
  | .mrel f => Sys2Proof.Machine.execMrel f s
  | .mrelRelease bay req => Sys2Proof.Machine.execMrelRelease bay req s
  | .mmaQ f => Sys2Proof.Machine.execMmaQ f s
  | .mmaS f => Sys2Proof.Machine.execMmaS f s
  | .mspmm f => Sys2Proof.Machine.execMspmm f s
  | .mzero f => Sys2Proof.Machine.execMzero f s
  | .mfill f => Sys2Proof.Machine.execMfill f s
  | .mdrain f => Sys2Proof.Machine.execMdrain f s
  | .mbypass f => Sys2Proof.Machine.execMbypass f s
  | .accalloc f => Sys2Proof.Machine.execAccalloc f s
  | .accfree f => Sys2Proof.Machine.execAccfree f s
  | .mstat f => Sys2Proof.Machine.execMstat f s
  | .matrixGrant bay => Sys2Proof.Machine.execMatrixGrant bay s
  | .matrixRequestUrgent bay req => Sys2Proof.Machine.execMatrixRequestUrgent bay req s
  | .matrixRequestComplete bay req => Sys2Proof.Machine.execMatrixRequestComplete bay req s
  | .scalarAdd f => Sys2Proof.Machine.execScalarAdd f s
  | .scalarSub f => Sys2Proof.Machine.execScalarSub f s
  | .scalarMul f => Sys2Proof.Machine.execScalarMul f s
  | .scalarMulhi f => Sys2Proof.Machine.execScalarMulhi f s
  | .div f => Sys2Proof.Machine.execDiv f s
  | .rem f => Sys2Proof.Machine.execRem f s
  | .scalarMin f => Sys2Proof.Machine.execScalarMin f s
  | .scalarMax f => Sys2Proof.Machine.execScalarMax f s
  | .scalarAnd f => Sys2Proof.Machine.execScalarAnd f s
  | .scalarOr f => Sys2Proof.Machine.execScalarOr f s
  | .scalarXor f => Sys2Proof.Machine.execScalarXor f s
  | .scalarNot f => Sys2Proof.Machine.execScalarNot f s
  | .scalarShl f => Sys2Proof.Machine.execScalarShl f s
  | .scalarShr f => Sys2Proof.Machine.execScalarShr f s
  | .scalarSar f => Sys2Proof.Machine.execScalarSar f s
  | .scalarCmp f => Sys2Proof.Machine.execScalarCmp f s
  | .scalarSel f => Sys2Proof.Machine.execScalarSel f s
  | .scalarMov f => Sys2Proof.Machine.execScalarMov f s
  | .scalarPopc f => Sys2Proof.Machine.execScalarPopc f s
  | .scalarClz f => Sys2Proof.Machine.execScalarClz f s
  | .scalarBfx f => Sys2Proof.Machine.execScalarBfx f s
  | .scalarBfi f => Sys2Proof.Machine.execScalarBfi f s
  | .movp f => Sys2Proof.Machine.execMovp f s
  | .movps f => Sys2Proof.Machine.execMovps f s
  | .bra f => Sys2Proof.Machine.execBra f s
  | .brc f => Sys2Proof.Machine.execBrc f s
  | .brk f => Sys2Proof.Machine.execBrk f s
  | .cont f => Sys2Proof.Machine.execCont f s
  | .loop f => Sys2Proof.Machine.execLoop f s
  | .jmpi f => Sys2Proof.Machine.execJmpi f s
  | .call f => Sys2Proof.Machine.execCall f s
  | .calli f => Sys2Proof.Machine.execCalli f s
  | .ret f => Sys2Proof.Machine.execRet f s
  | .exit f => Sys2Proof.Machine.execExit f s
  | .yield f => Sys2Proof.Machine.execYield f s
  | .srd f => Sys2Proof.Machine.execSrd f s
  | .swr f => Sys2Proof.Machine.execSwr f s
  | .launch f => Sys2Proof.Machine.execLaunch f s
  | .ld f => Sys2Proof.Machine.execLd f s
  | .st f => Sys2Proof.Machine.execSt f s
  | .ldf f => Sys2Proof.Machine.execLdf f s
  | .stf f => Sys2Proof.Machine.execStf f s
  | .atom f => Sys2Proof.Machine.execAtom f s
  | .red f => Sys2Proof.Machine.execRed f s
  | .flushred f => Sys2Proof.Machine.execFlushred f s
  | .thld f => Sys2Proof.Machine.execThld f s
  | .thst f => Sys2Proof.Machine.execThst f s
  | .presclr f => Sys2Proof.Machine.execPresclr f s
  | .presclrSet f => Sys2Proof.Machine.execPresclrSet f s
  | .prestest f => Sys2Proof.Machine.execPrestest f s
  | .cpyt f => Sys2Proof.Machine.execCpyt f s
  | .gath f => Sys2Proof.Machine.execGath f s
  | .gathTh f => Sys2Proof.Machine.execGathTh f s
  | .scat f => Sys2Proof.Machine.execScat f s
  | .waitcnt f => Sys2Proof.Machine.execWaitcnt f s
  | .copyAccept core op data => Sys2Proof.Machine.execCopyAccept core op data s
  | .copyLineLanded core op first count data => Sys2Proof.Machine.execCopyLineLanded core op first count data s
  | .copyComplete core op => Sys2Proof.Machine.execCopyComplete core op s
  | .barinit f => Sys2Proof.Machine.execBarinit f s
  | .barfree f => Sys2Proof.Machine.execBarfree f s
  | .bararr f => Sys2Proof.Machine.execBararr f s
  | .barwait f => Sys2Proof.Machine.execBarwait f s
  | .bartest f => Sys2Proof.Machine.execBartest f s
  | .mortinit f => Sys2Proof.Machine.execMortinit f s
  | .mortinitFree f => Sys2Proof.Machine.execMortinitFree f s
  | .mortacq f => Sys2Proof.Machine.execMortacq f s
  | .pegwait f => Sys2Proof.Machine.execPegwait f s
  | .peggive f => Sys2Proof.Machine.execPeggive f s
  | .pegswap f => Sys2Proof.Machine.execPegswap f s
  | .pegdrop f => Sys2Proof.Machine.execPegdrop f s
  | .mortrel f => Sys2Proof.Machine.execMortrel f s
  | .mortiseSkipStep pa => Sys2Proof.Machine.execMortiseSkipStep pa s
  | .publish f => Sys2Proof.Machine.execPublish f s
  | .refresh f => Sys2Proof.Machine.execRefresh f s
  | .ifence f => Sys2Proof.Machine.execIfence f s
  | .gridarr f => Sys2Proof.Machine.execGridarr f s
  | .migrate f => Sys2Proof.Machine.execMigrate f s
  | .migrateMove team => Sys2Proof.Machine.execMigrateMove team s
  | .trig f => Sys2Proof.Machine.execTrig f s
  | .trigcan f => Sys2Proof.Machine.execTrigcan f s
  | .triggerFire => Sys2Proof.Machine.execTriggerFire s
  | .gtcUpdate => Sys2Proof.Machine.execGtcUpdate s
  | .trap f => Sys2Proof.Machine.execTrap f s
  | .syscall f => Sys2Proof.Machine.execSyscall f s
  | .trapret f => Sys2Proof.Machine.execTrapret f s
  | .handlerGroupStart core slot => Sys2Proof.Machine.execHandlerGroupStart core slot s
  | .fetchLine gid pos refill => Sys2Proof.Machine.execFetchLine gid pos refill s
  | .flaggedComplete gid id => Sys2Proof.Machine.execFlaggedComplete gid id s
  | .groupUrgent gid => Sys2Proof.Machine.execGroupUrgent gid s
  | .throttleReselect core part => Sys2Proof.Machine.execThrottleReselect core part s
  | .congestionWindow quad m => Sys2Proof.Machine.execCongestionWindow quad m s
  | .memoryAccessPerformed ref resp => Sys2Proof.Machine.execMemoryAccessPerformed ref resp s
  | .groupExitRelease gid => Sys2Proof.Machine.execGroupExitRelease gid s
  | .placeCluster => Sys2Proof.Machine.execPlaceCluster s
  | .launchComplete launch => Sys2Proof.Machine.execLaunchComplete launch s
  | .shootdownComplete => Sys2Proof.Machine.execShootdownComplete s
  | .remoteRequestTimeout req => Sys2Proof.Machine.execRemoteRequestTimeout req s
  | .remoteOriginTimeout tag => Sys2Proof.Machine.execRemoteOriginTimeout tag s
  | .collectiveAccept core op => Sys2Proof.Machine.execCollectiveAccept core op s
  | .scribeDispatch proc => Sys2Proof.Machine.execScribeDispatch proc s
  | .vadd d a b m t => Sys2Proof.Machine.execVadd d a b m t s
  | .vsub d a b m t => Sys2Proof.Machine.execVsub d a b m t s
  | .vmul d a b m t => Sys2Proof.Machine.execVmul d a b m t s
  | .vmin d a b m t => Sys2Proof.Machine.execVmin d a b m t s
  | .vmax d a b m t => Sys2Proof.Machine.execVmax d a b m t s
  | .vand d a b m => Sys2Proof.Machine.execVand d a b m s
  | .vor d a b m => Sys2Proof.Machine.execVor d a b m s
  | .vxor d a b m => Sys2Proof.Machine.execVxor d a b m s
  | .vshl d a b m => Sys2Proof.Machine.execVshl d a b m s
  | .vshr d a b m => Sys2Proof.Machine.execVshr d a b m s
  | .vsar d a b m => Sys2Proof.Machine.execVsar d a b m s
  | .vsel d a b m => Sys2Proof.Machine.execVsel d a b m s
  | .vcmp d a b m r t => Sys2Proof.Machine.execVcmp d a b m r t s
  | .vbc d a m => Sys2Proof.Machine.execVbc d a m s
  | .vext d a l => Sys2Proof.Machine.execVext d a l s
  | .vins d a l => Sys2Proof.Machine.execVins d a l s
  | .sadd d a b => Sys2Proof.Machine.execSadd d a b s
  | .ssub d a b => Sys2Proof.Machine.execSsub d a b s
  | .sand d a b => Sys2Proof.Machine.execSand d a b s
  | .sor d a b => Sys2Proof.Machine.execSor d a b s
  | .sxor d a b => Sys2Proof.Machine.execSxor d a b s
  | .sshl d a n => Sys2Proof.Machine.execSshl d a n s
  | .sshr d a n => Sys2Proof.Machine.execSshr d a n s
  | .saddi d a x => Sys2Proof.Machine.execSaddi d a x s
  | .smovi d x => Sys2Proof.Machine.execSmovi d x s
  | .smovh d x => Sys2Proof.Machine.execSmovh d x s
  | .scmp d a b u r => Sys2Proof.Machine.execScmp d a b u r s
  | .hrd d f => Sys2Proof.Machine.execHrd d f s
  | .hwr a f => Sys2Proof.Machine.execHwr a f s
  | .pld d => Sys2Proof.Machine.execPld d s
  | .pst a m => Sys2Proof.Machine.execPst a m s
  | .fld d a o => Sys2Proof.Machine.execFld d a o s
  | .fst a b m o => Sys2Proof.Machine.execFst a b m o s
  | .racc d a o => Sys2Proof.Machine.execRacc d a o s
  | .emit a b r => Sys2Proof.Machine.execEmit a b r s
  | .bnz a o => Sys2Proof.Machine.execBnz a o s
  | .bz a o => Sys2Proof.Machine.execBz a o s
  | .jmp o => Sys2Proof.Machine.execJmp o s
  | .scribeRepeat d b n => Sys2Proof.Machine.execScribeRepeat d b n s
  | .pass => Sys2Proof.Machine.execPass s
  | .drop => Sys2Proof.Machine.execDrop s
  | .trapk c => Sys2Proof.Machine.execTrapk c s
  | .contextSwitchDone core => Sys2Proof.Machine.execContextSwitchDone core s
  | .freezeStepEnd => Sys2Proof.Machine.execFreezeStepEnd s
  | .freezeDrainTimeout => Sys2Proof.Machine.execFreezeDrainTimeout s
  | .domainBarrierStep job rank k => Sys2Proof.Machine.execDomainBarrierStep job rank k s
  | .ptpMessage domain rate => Sys2Proof.Machine.execPtpMessage domain rate s
  | .lqtailWrite q val => Sys2Proof.Machine.execLqtailWrite q val s
  | .lqctlWrite q w => Sys2Proof.Machine.execLqctlWrite q w s
  | .lqstatErrClear q => Sys2Proof.Machine.execLqstatErrClear q s
  | .tlbictlGo val => Sys2Proof.Machine.execTlbictlGo val s
  | .ctxsaveWrite ctx w => Sys2Proof.Machine.execCtxsaveWrite ctx w s
  | .registerWrite off val who => Sys2Proof.Machine.execRegisterWrite off val who s
  | .remoteRead p => Sys2Proof.Machine.execRemoteRead p s
  | .remoteWrite p => Sys2Proof.Machine.execRemoteWrite p s
  | .remoteAtomic p => Sys2Proof.Machine.execRemoteAtomic p s
  | .ackReceived req => Sys2Proof.Machine.execAckReceived req s
  | .nackReceived req detail => Sys2Proof.Machine.execNackReceived req detail s
  | .collectiveStep m => Sys2Proof.Machine.execCollectiveStep m s
  | .drainMarker p => Sys2Proof.Machine.execDrainMarker p s
  | .scribeControl c kind => Sys2Proof.Machine.execScribeControl c kind s
  | .packetAccept p dir => Sys2Proof.Machine.execPacketAccept p dir s
  | .survey c => Sys2Proof.Machine.execSurvey c s
  | .load c => Sys2Proof.Machine.execLoad c s
  | .partcfg c => Sys2Proof.Machine.execPartcfg c s
  | .modeset c => Sys2Proof.Machine.execModeset c s
  | .ctxsw c => Sys2Proof.Machine.execCtxsw c s
  | .freeze c => Sys2Proof.Machine.execFreeze c s
  | .thaw c => Sys2Proof.Machine.execThaw c s
  | .dirtyscan c => Sys2Proof.Machine.execDirtyscan c s
  | .scribebind c => Sys2Proof.Machine.execScribebind c s
  | .routeset c => Sys2Proof.Machine.execRouteset c s
  | .ctxend c => Sys2Proof.Machine.execCtxend c s
  | .ctxcreate c => Sys2Proof.Machine.execCtxcreate c s
  | .jobbind c => Sys2Proof.Machine.execJobbind c s
  | .keyenrol c => Sys2Proof.Machine.execKeyenrol c s
  | .cfgwrite c => Sys2Proof.Machine.execCfgwrite c s
  | .scribeunbind c => Sys2Proof.Machine.execScribeunbind c s
  | .scriberead c => Sys2Proof.Machine.execScriberead c s
  | .scribewrite c => Sys2Proof.Machine.execScribewrite c s
  | .scribesnap c => Sys2Proof.Machine.execScribesnap c s
  | .getMeasurements index => Sys2Proof.Machine.execGetMeasurements index s
  | .hostMemAccess wr addr val => Sys2Proof.Machine.execHostMemAccess wr addr val s
  | .eccScrub loc uncorrectable => Sys2Proof.Machine.execEccScrub loc uncorrectable s
  | .powerOn fit => Sys2Proof.Machine.execPowerOn fit s
  | .trainingComplete => Sys2Proof.Machine.execTrainingComplete s
  | .thermalSample tj hottest => Sys2Proof.Machine.execThermalSample tj hottest s
  | .thermalShutdown => Sys2Proof.Machine.execThermalShutdown s
  | .thermalRecover => Sys2Proof.Machine.execThermalRecover s
  | .powerRemoved => Sys2Proof.Machine.execPowerRemoved s
  | .fabricPortStateChange port st peer => Sys2Proof.Machine.execFabricPortStateChange port st peer s
  | .packagePowerLimit reached => Sys2Proof.Machine.execPackagePowerLimit reached s

end Sys2Proof.Machine
end

