-- ==== Sys2Proof/Machine/Sched.lean ====
section
/-!
DEFINITION. The default scheduler: what may happen next when the agenda names nothing. Each partition's own choice is R85
and R87 (`choose`); among the agents of the device the manual gives no order, and a rotor takes them in turn.
-/
namespace Sys2Proof.Machine

/-- R266: a RED that would overflow its group's share, where entries of it are not at a flush point yet: held at issue, it
drains them. -/
def drainsFirst (i : Instr) (s : State) : Bool :=
  match i with
  | .red f =>
    (match issuer s f.r.g with
     | some c => c.g.redOver (laneCount c.on) && c.g.red.any (fun r => decide (c.g.redUpTo ≤ r.id))
     | none => false)
  | _ => false

/-- What a split's issue comes to: nothing issues, it was held (`acts`: though something was done), or the state after it. -/
inductive Issued where
  | no
  | held (s : State) (acts : Bool)
  | next (s : State)
  | stop (o : Host.Outcome State Fault Refusal)

/-- R266: what a held instruction has done beside waiting: a RED that would overflow its group's share drains it. -/
def heldAct (i : Instr) (s1 s : State) : State :=
  match s1.cur with
  | some (gid, _) => if drainsFirst i s1 then flushPoint s gid else s
  | none => s

/-- One instruction of a split issues, where it may; `s0` is the state to go back to where it is held. -/
def issueOne (first : Bool) (gid pos : Nat) (s0 s : State) : Issued :=
  match prepareAt first s gid pos with
  | .no => .no
  | .done s1 => .next (finish s s1)
  | .go i s1 =>
    match exec i s1 with
    | .next s2 => if s2.cur.isNone then .held (heldAct i s1 s0) (drainsFirst i s1) else .next (finish s1 s2)
    | .fault f => .stop (.fault f)
    | .refused r => .stop (.refused r)

/-- R58: the split whose slot has its PAIR bit set, once that slot has issued, stands at the next slot and may issue it. -/
def pairNext (before after : State) (gid pos : Nat) : Bool :=
  match Map.find before.groups gid, Map.find after.groups gid with
  | some g, some h =>
    (match Map.find g.splits pos, Map.find h.splits pos with
     | some sp, some tp =>
       lwPair sp.word (slotOf sp.pc) && tp.pc == nextPc sp.pc && tp.mask == sp.mask && tp.link == sp.link &&
       tp.wait == .none && !h.parked
     | _, _ => false)
  | _, _ => false

/-- One instruction of a split, or a pair in one opportunity (R58). A pair whose second instruction is held does not issue.
DEDUCED, log 18. -/
def tryIssue (gid pos : Nat) (s : State) : Issued :=
  match issueOne true gid pos s s with
  | .next s1 => if pairNext s s1 gid pos then issueOne false gid pos s s1 else .next s1
  | r => r

/-- R54, R84, R346: a split's next instruction, or one of a pair, would be held at issue with nothing done. -/
def wouldHold (s : State) (gid pos : Nat) : Bool :=
  match tryIssue gid pos s with
  | .no => true
  | .held _ acts => !acts
  | _ => false

/-- R84: the ready splits of a group. -/
def readySplits (s : State) (gid : Nat) (g : Group) : List Nat := (issuable s g).filter (fun p => !wouldHold s gid p)

/-- R87: the split a chosen group issues from; a demoted one that was ready at three opportunities and passed over issues at the
next (R88). DEDUCED, log 106. -/
def chooseSplit (s : State) (gid : Nat) (g : Group) : Option Nat :=
  let ready := readySplits s gid g
  let order := ((List.range 4).map (fun k => (g.lastSplit + 1 + k) % 4)).filter (fun p => ready.contains p)
  let split (p : Nat) : Split := Map.get (Split.start 0 0) g.splits p
  let owed := order.filter (fun p => (split p).isDem && decide (3 ≤ (split p).passed))
  (minBy (fun p => [2 ^ 20 - (split p).passed]) owed).orElse (fun _ =>
    (order.find? (fun p => !passedOver g (split p))).orElse (fun _ => order.head?))

/-- R87, R88: an issue from position `pos`, chosen in the state `before`, passes over the demoted splits that were ready. DEDUCED, log 106. -/
def passOver (before s : State) (gid pos : Nat) : State :=
  match Map.find before.groups gid with
  | none => s
  | some g =>
    if g.splits.all (fun p => p.1 == pos || !p.2.isDem) || g.splits.any (fun p => p.1 == pos && p.2.overNull) then s
    else
      let ready := readySplits before gid g
      { s with groups := Map.modify s.groups gid (fun h => { h with splits := h.splits.map (fun p =>
          (p.1, if p.1 == pos || !p.2.isDem then p.2 else { p.2 with passed := if ready.contains p.1 then p.2.passed + 1 else 0 })) }) }

/-- R87, R88: a split demoted in this step is passed over for every other split that is ready now; no other demoted split is
passed over for it any more. DEDUCED, log 106. -/
def demotions (s : State) : State :=
  if s.groups.all (fun g => g.2.splits.all (fun p => !p.2.demNew)) then s
  else
    { s with groups := s.groups.map (fun g =>
        let fresh := (g.2.splits.filter (fun p => p.2.demNew)).map Prod.fst
        if fresh.isEmpty then g
        else
          let ready := (readySplits s g.1 g.2).filter (fun p => !fresh.contains p)
          (g.1, { g.2 with splits := g.2.splits.map (fun p =>
            (p.1, { p.2 with demoted := if p.2.demNew then ready else p.2.demoted.filter (fun q => !fresh.contains q), demNew := false })) })) }

/-- The end of a step, with what a demotion in it needs of the state it leaves. -/
def endStep (before s : State) : State := demotions (finish before s)

/-- R85, R87: the group and the split a partition issues at this clock: the first group in order that has a ready split. -/
def choose (s : State) (core part : Nat) : Option (Nat × Nat) :=
  let gs := s.groups.filter (fun g => g.2.core == core && g.2.part == part && !(issuable s g.2).isEmpty)
  (sortBy (fun g => groupKey s g.2) gs).findSome? (fun g => (chooseSplit s g.1 g.2).map (fun p => (g.1, p)))

/-- A step has set a core's PEND. DEDUCED, log 108. -/
def raisesPend (s s1 : State) (core : Nat) : Bool := !bit (s.coreAt core).aown 7 && bit (s1.coreAt core).aown 7

/-- R414: the issue of a group raises ACC_NOT_OWNED where another partition of its core would raise it at the same clock for a group
of a lower slot: that one traps first, and this one waits at its instruction. DEDUCED, log 108. -/
def ownYields (s s1 : State) (gid : Nat) : Bool :=
  match Map.find s.groups gid with
  | none => false
  | some g =>
    raisesPend s s1 g.core && (List.range 16).any (fun part => part != g.part &&
      (match choose s g.core part with
       | some (h, pos) =>
         (match Map.find s.groups h, tryIssue h pos s with
          | some x, .next s2 => decide (x.slot < g.slot) && raisesPend s s2 g.core
          | _, _ => false)
       | none => false))

/-- The state after a split's issue: the step ends, or the issue yields (R414). DEDUCED, log 108. -/
def issuedState (s s1 : State) (gid pos : Nat) : State :=
  if ownYields s s1 gid then endStep s s else demotions (passOver s s1 gid pos)

/-- Partitions that have a group ready, as clocks of theirs. DESIGN CHOICE, log 10. -/
def clockActs (s : State) : List Act :=
  ((s.groups.filter (fun g => !(issuable s g.2).isEmpty)).map (fun g => Act.clock g.2.core g.2.part)).foldl
    (fun l a => if l.contains a then l else l ++ [a]) []

/-- Accesses of an entry that are still to be performed, in lane order. DESIGN CHOICE, log 2. -/
def laneActs (gid : Nat) (e : Entry) : List Act :=
  (lanesOf (maskMinus e.mask (e.done ||| e.sent ||| e.fault))).map (fun l =>
    Act.event (.memoryAccessPerformed (.lane gid e.id l) 0))

/-- Events that a group's splits and entries wait for. DESIGN CHOICE, log 2. -/
def groupActs (gid : Nat) (g : Group) : List Act :=
  (g.splits.filter (fun p => p.2.line.isNone)).map (fun p => Act.event (.fetchLine gid p.1 false)) ++
  g.entries.flatMap (fun e =>
    if e.ready then [Act.event (.flaggedComplete gid e.id)]
    else (laneActs gid e).take 1) ++
  (if g.red.any (fun r => decide (r.id < g.redUpTo)) then [Act.event (.memoryAccessPerformed (.drain gid) 0)] else [])

/-- The first piece of an operation that may land, of the longest size. -/
def nextPiece (s : State) (core : Nat) (o : CopyOp) : Option (Nat × Nat) :=
  let starts := (List.range o.rows.length).map (fun r => r * o.dstLen) ++ o.landed.map (fun x => x.1 + x.2)
  let sizes := [o.dstLen, CopyOp.blk s core o / 2 + 1] ++ (List.range 64).map (fun k => 64 - k)
  (starts.flatMap (fun a => sizes.map (fun n => (a, n)))).find? (fun x => o.pieceOk s core x.1 x.2)

/-- What a copy engine's operation does next (R275, R276, R348 to R350). -/
def opActs (s : State) (core : Nat) (o : CopyOp) : List Act :=
  if o.finished then []
  else
    let comp := Act.event (.copyComplete core o.id)
    let begin := if o.coll.isSome then Act.event (.collectiveAccept core o.id) else Act.event (.copyAccept core o.id [])
    if !o.accepted then [begin, comp]
    else
      (match o.coll with
       | some c =>
         (match (List.range c.chunkCount).find? (fun i => (c.chunk c.me i).isNone) with
          | some i => [Act.event (.copyLineLanded core o.id i 0 [])]
          | none => if c.told.length < c.members.length then [Act.event (.copyLineLanded core o.id 0 0 [])] else []) ++ [begin]
       | none => []) ++
      (match nextPiece s core o with
       | some x => [Act.event (.copyLineLanded core o.id x.1 x.2 [])]
       | none => []) ++ [comp]

/-- What a core does on its own: its engine, handler groups (R383), a switch (R395). -/
def coreActs (s : State) (core : Nat) (c : Core) : List Act :=
  c.ops.flatMap (opActs s core) ++
  (match (queueHeads c.trapq).find? (fun h => queueDue s core c.trapq h), (List.range 1024).find? (fun n => handlerFree s core n) with
   | some _, some n => [Act.event (.handlerGroupStart core n)]
   | _, _ => []) ++
  (if c.incoming.isSome then [Act.event (.contextSwitchDone core)] else []) ++
  (if s.clk / 10 % 256 == 0 && s.groups.any (fun g => g.2.core == core) then (List.range 16).map (fun p => Act.event (.throttleReselect core p)) else [])

/-- What a bay's engine does (R218, R219, R223). -/
def bayActs (s : State) (bay : Nat) (b : Bay) : List Act :=
  (if (b.first (s.clk / 10)).isSome then [Act.event (.matrixGrant bay)] else []) ++
  b.reqs.flatMap (fun r =>
    if r.granted then [Act.event (.matrixRequestComplete bay r.id)]
    else if r.op == .release then [Act.event (.mrelRelease bay r.id)]
    else [Act.event (.matrixRequestUrgent bay r.id)])

/-- What a team waits for (R182, R412). -/
def teamActs (tid : Nat) (t : Team) : List Act :=
  (t.planeOps.filter (fun o => !o.2.arrivals.isEmpty)).map (fun o => Act.event (.collectivePlaneComplete tid o.1)) ++
  (if t.migrate.isEmpty then [] else [Act.event (.migrateMove tid)])

/-- The scheduler, the hub and the management core. -/
def hubActs (s : State) : List Act :=
  (if s.lqs.isEmpty then [] else [Act.event .placeCluster]) ++
  s.launches.map (fun l => Act.event (.launchComplete l.1)) ++
  (s.groups.filter (fun g => releasable s g.1 g.2)).map (fun g => Act.event (.groupExitRelease g.1)) ++
  (s.groups.filter (fun g => decide (256 ≤ g.2.age s) && !g.2.urgent)).map (fun g => Act.event (.groupUrgent g.1)) ++
  (if s.tlbibusy then [Act.event .shootdownComplete] else []) ++
  (if s.cmdq.isEmpty then [] else [Act.command]) ++
  (if s.freeze.isSome then [Act.event .freezeStepEnd, Act.event .freezeDrainTimeout] else []) ++
  (if (dueTriggers s).isEmpty then [] else [Act.event .triggerFire]) ++
  (s.fabReqs.filter (fun r => decide (r.2.sent + 4000000 ≤ s.tick))).map (fun r => Act.event (.remoteRequestTimeout r.1)) ++
  (s.remotes.filter (fun r => r.origin != 0 && decide (r.since + 2000000 ≤ s.tick))).map (fun r => Act.event (.remoteOriginTimeout r.origin)) ++
  (s.remotes.filter (fun r => r.origin == 0)).map (fun r => Act.event (match r.pkt.cls with
    | 0 => .remoteRead r.pkt | 1 => .remoteWrite r.pkt | _ => .remoteAtomic r.pkt)) ++
  (s.tags.filter (fun t => (spDie (64 * t)).isSome && ownTag s t && mortValid s (.phys (64 * t)) && (loadMq s (64 * t)).m.adv)).map
    (fun t => Act.event (.mortiseSkipStep (64 * t))) ++
  (if s.hotSince.isSome then [Act.event .thermalShutdown] else []) ++
  (if s.therm == 1 then [Act.event .thermalRecover] else [])

/-- Everything that may happen next of itself; time always passes. What comes from outside the device (R343, R352,
R420, R421, R424, R425) comes by the agenda alone. DESIGN CHOICE, log 2. -/
def enabled (s : State) : List Act :=
  clockActs s ++ s.groups.flatMap (fun g => groupActs g.1 g.2) ++
  (if s.frameQ.isEmpty then [] else [Act.event (.memoryAccessPerformed (.frame 0) 0)]) ++
  s.heldApply.map (fun h => Act.event (.memoryAccessPerformed (.advance h.loc) 0)) ++
  s.cores.flatMap (fun c => coreActs s c.1 c.2) ++ s.bays.flatMap (fun b => bayActs s b.1 b.2) ++
  s.teams.flatMap (fun t => teamActs t.1 t.2) ++ hubActs s ++
  s.scribes.map (fun x => if x.2.inv.isSome then Act.scribe x.1 else Act.event (.scribeDispatch x.1)) ++
  [Act.event .gtcUpdate]

/-- Whether a lane of an entry goes to a peer, whose answer it then awaits. DESIGN CHOICE, log 2. -/
def lanePeer (s : State) (g : Group) (e : Entry) (l : Nat) : Bool :=
  match peekAny s g (Map.get 0 e.addr l) with
  | some (.peer _) => true
  | _ => false

/-- What the scheduler lets follow an act of its own choice at once: the other lanes of an access to this device. DESIGN CHOICE, log 2. -/
def followers (s : State) (a : Act) : List Act :=
  match a with
  | .event (.memoryAccessPerformed (.lane gid id _) _) =>
    (match Map.find s.groups gid with
     | some g =>
       (match g.entries.find? (·.id == id) with
        | some e =>
          if (List.range 32).any (fun l => e.mask.getLsbD l && lanePeer s g e l) then [] else (laneActs gid e).filter (· != a)
        | none => [])
     | none => [])
  | _ => []

/-- The next act and the state that has taken it: from the agenda, else by the rotor. DESIGN CHOICE, log 2. -/
def nextAct (s : State) : Act × State :=
  match s.agenda with
  | a :: rest => (a, { s with agenda := rest })
  | [] =>
    let l := enabled s
    let a := (l[s.rotor % l.length]?).getD (.event .gtcUpdate)
    (a, { s with agenda := followers s a, rotor := s.rotor + 1 })

end Sys2Proof.Machine
end

