-- ==== Sys2Proof/Machine/Step.lean ====
section
/-!
DEFINITION. One step of the device: the next act of the agenda, or of the scheduler, is taken whole.
-/
namespace Sys2Proof.Machine

/-- Executes an instruction, a command or an event, and ends the step. -/
def runInstr (i : Instr) (s : State) : Host.Outcome State Fault Refusal :=
  match exec i s with
  | .next s1 => .next (endStep s s1)
  | .fault f => .fault f
  | .refused r => .refused r

/-- A split issues, where it may. DEDUCED, log 18. -/
def runIssue (gid pos : Nat) (s : State) : Host.Outcome State Fault Refusal :=
  match tryIssue gid pos s with
  | .no => .next (endStep s s)
  | .held s1 _ => .next (endStep s s1)
  | .stop o => o
  | .next s1 => .next (issuedState s s1 gid pos)

/-- A Scribe processor executes one word. -/
def runScribe (proc : Nat) (s : State) : Host.Outcome State Fault Refusal :=
  match scribeWord s proc with
  | none => .next (endStep s s)
  | some (.error s1) => .next (endStep s s1)
  | some (.ok (none, _)) => .next (endStep s s)
  | some (.ok (some i, s1)) => runInstr i s1

/-- What an act does. DESIGN CHOICE, log 2. -/
def runAct (a : Act) (s : State) : Host.Outcome State Fault Refusal :=
  match a with
  | .issue gid pos => runIssue gid pos s
  | .clock core part =>
    match choose s core part with
    | some (gid, pos) => runIssue gid pos s
    | none => .next (endStep s s)
  | .scribe proc => runScribe proc s
  | .command =>
    match nextCommand s with
    | .next s1 => .next (endStep s s1)
    | .fault f => .fault f
    | .refused r => .refused r
  | .event i => runInstr i s

/-- One step. Without power only POWER_ON is a step (R424, R425). DESIGN CHOICE, log 2, 6. -/
def step (s : State) : Host.Outcome State Fault Refusal :=
  match nextAct s with
  | (a, s1) =>
    if s.powered then runAct a s1
    else
      match a with
      | .event (.powerOn fit) => runInstr (.powerOn fit) s1
      | _ => .fault .powerOff

/-- The line of a 96-bit instruction placed alone in slot 0: flags X and Y name cf0, every slot a target. DESIGN CHOICE, log 5. -/
def aloneLine (w : Nat) : Line :=
  let body := w % 2 ^ 96
  let lw := 0x1F * 2 ^ 20
  let l0 := body + lw * 2 ^ 480
  let p0 := if popcount 256 (l0 % 2 ^ 256) % 2 == 1 then 2 ^ 510 else 0
  let p1 := if popcount 224 (l0 / 2 ^ 256 % 2 ^ 224) % 2 == 1 then 2 ^ 511 else 0
  BitVec.ofNat 512 (l0 + p0 + p1)

/-- A Scribe processor about to execute one word of a job with the whole of its limits. DESIGN CHOICE, log 5. -/
def aloneScribe (w : Nat) : Scribe :=
  let entry := leBytes 2 1 ++ leBytes 2 0 ++ leBytes 2 1 ++ leBytes 2 256 ++ leBytes 2 0 ++ leBytes 2 16384 ++ List.replicate 52 0
  let pkt : Packet :=
    { cls := 1, job := 1, src := 0, dest := 0, addr := 0, cgid := 0, seqk := 0, member := 0, mcount := 0, chunk := 0, fmtop := 0,
      mark := 0, port := 18, plen := 64, payload := 0, be := 0, tag := 0, lane := 0, aop := 0, aty := 0, awid := 0, cmp := 0,
      returning := false, credit := none }
  { code := Map.set 0 [] 0 (BitVec.ofNat 32 (leNat (leBytes 4 w))), flow := [], poison := [],
    jobs := [{ job := 1, ctx := 0, entry := entry, q := 0 }], queue := [],
    inv := some { job := 1, word := 0, steps := 0, z := [], k := [], m := [], pkt := pkt, arrived := pkt, dir := 1, time := 0,
                  emits := [], rep := none } }

/-- The state whose next step fetches and runs an instruction: a Scribe word as the next word of processor 0, a 96-bit
instruction as slot 0 of the line that the one split of a one-group team has fetched. DESIGN CHOICE, log 5. -/
def State.withFetchWord (s : State) (nbits w : Nat) : State :=
  if nbits ≤ 32 then { s with scribes := Map.put s.scribes 0 (aloneScribe w), agenda := [.scribe 0] }
  else
    let g := Group.fresh 0 0 0 0 64 0 (BitVec.allOnes 32)
    let g1 := { g with team := s.nextId + 1, codeLines := 1,
                       splits := g.splits.map (fun p => (p.1, { p.2 with line := some (aloneLine (leNat (leBytes 12 w))) })) }
    let t : Team :=
      { ctx := 0, launch := 0, cluster := 0, lcore := 0, core := 0, nGroups := 1, gridH := 1, gridW := 32, memSize := 65536,
        mem := [], saved := none, tags := [], poison := [], planeOps := [], migrate := [] }
    { s with groups := Map.put s.groups s.nextId g1, teams := Map.put s.teams (s.nextId + 1) t, nextId := s.nextId + 2,
             agenda := [.issue s.nextId 0] }

end Sys2Proof.Machine
end

