-- ==== Sys2Proof/Safety.lean ====
section
/-!
DEFINITION. The terms claims are stated in: what a well-formed state is, and what an instruction leaves as it was. A frame is
stated as an equality of whole states or groups but for the fields that are named.
-/
namespace Sys2Proof.Machine

/-! ### Well-formed states -/

/-- Every memory of the state is in its canonical form: addresses rising, no byte listed that an unlisted address reads
as. -/
def State.memWf (s : State) : Bool := s.mem.wf && s.teams.all (fun t => t.2.mem.wf)

/-- Between steps no instruction is being executed. DESIGN CHOICE, log 98. -/
def State.idle (s : State) : Bool := s.cur == none && s.curProc == none

/-! ### The registers of a group after an instruction -/

/-- The v registers hold `x l` in register `dst` of every lane of the active mask that has not exited, and elsewhere what
they held. -/
def vWritten (c : Iss) (g' : Group) (dst : Nat) (x : Nat → Word) : Prop :=
  ∀ r l, l < 32 → Map.get 0 g'.v (32 * r + l) =
    if r = dst ∧ c.on.getLsbD l = true ∧ c.g.exited.getLsbD l = false then x l else Map.get 0 c.g.v (32 * r + l)

/-- The predicates hold `x l` in the lanes of the active mask of `dst`, which is not p0, and elsewhere what they held. -/
def pWritten (c : Iss) (g' : Group) (dst : Nat) (x : Nat → Bool) : Prop :=
  ∀ r l, l < 32 → (Map.get 0 g'.p r).getLsbD l =
    if r = dst ∧ r ≠ 0 ∧ c.on.getLsbD l = true ∧ c.g.exited.getLsbD l = false then x l else (Map.get 0 c.g.p r).getLsbD l

/-- The s registers hold `x` in `dst`, and elsewhere what they held. -/
def sWritten (g g' : Group) (dst : Nat) (x : DWord) : Prop :=
  ∀ r, Map.get 0 g'.s r = if r = dst then x else Map.get 0 g.s r

/-- FPF holds what it held and the flags of every active lane. -/
def flagsRaised (c : Iss) (g' : Group) (fl : Nat → Nat) : Prop :=
  g'.fpf = (lanesOf c.on).foldl (fun w l => w ||| fpfBits (fl l)) c.g.fpf

/-- No register becomes poisoned (R392). -/
def noNewPoison (g g' : Group) : Prop := ∀ k, k ∈ g'.poison → k ∈ g.poison

/-- The group is as it was but for its v registers, its flags, its poison marks, and the model's record of races (R56). -/
def sameButV (g g' : Group) : Prop :=
  { g' with v := g.v, fpf := g.fpf, raced := g.raced, poison := g.poison } = g ∧ noNewPoison g g'

/-- The group is as it was but for its predicates, its flags, its poison marks and its record of races. -/
def sameButP (g g' : Group) : Prop :=
  { g' with p := g.p, fpf := g.fpf, raced := g.raced, poison := g.poison } = g ∧ noNewPoison g g'

/-- The group is as it was but for its s registers, its poison marks and its record of races. -/
def sameButS (g g' : Group) : Prop :=
  { g' with s := g.s, raced := g.raced, poison := g.poison } = g ∧ noNewPoison g g'

/-- The group is as it was but for its plane descriptors and poison marks. -/
def sameButPd (g g' : Group) : Prop := { g' with pd := g.pd, poison := g.poison } = g ∧ noNewPoison g g'

/-- The instruction answers the state in which its group is `g'`, its split at the next slot, and all else is as it was. -/
def completesAs (i : Instr) (s : State) (c : Iss) (g' : Group) : Prop :=
  exec i s = .next (s.putG c.gid (g'.advance c.pos))

/-- The instruction takes this precise trap and has no other effect (R71, R379). -/
def trapsAs (i : Instr) (s : State) (c : Iss) (t : Trap) : Prop :=
  exec i s = .next (raiseTrap s { gid := c.gid, pos := c.pos, pc := c.sp.pc, act := c.act, kind := 0, ref := 0 } t)

end Sys2Proof.Machine
end

