-- ==== Sys2Proof/Certificates/Slice0/Obligations.lean ====
section
/-!
DEFINITION. The statements for the provers, and the lists of instructions and values they are stated over.
-/
namespace Sys2Proof.Claims
open Sys2Proof Sys2Proof.Machine

/-! ### Lanes (R148 to R168) -/

/-- R148, R150, R154, R167: an element-by-element instruction of class 00, and its class 00 number. -/
def elemInstrs (f : LFmt) : List (Instr × Nat) :=
  [(.add f, 0x01), (.sub f, 0x02), (.mul f, 0x03), (.mulhi f, 0x04), (.mad f, 0x05), (.fma f, 0x06), (.min f, 0x07),
   (.max f, 0x08), (.abs f, 0x09), (.neg f, 0x0A), (.clamp f, 0x0B), (.addmin f, 0x0C), (.frnd f, 0x0E), (.and f, 0x10),
   (.or f, 0x11), (.xor f, 0x12), (.not f, 0x13), (.shl f, 0x14), (.shr f, 0x15), (.sar f, 0x16), (.popc f, 0x19),
   (.clz f, 0x1A), (.brev f, 0x1B), (.rcp f, 0x27), (.rsq f, 0x28), (.exp2 f, 0x29), (.log2 f, 0x2A), (.sin f, 0x2B),
   (.cos f, 0x2C)]

/-- R148: the class 00 instructions that move or rearrange bits, and the value of each in a lane. -/
def laneMoves (f : LFmt) (c : Iss) : List (Instr × (Nat → Word × Nat)) :=
  [(.mov f, fun l => (c.lA f l, 0)),
   (.dot2 f, fun l => dot2Op f.ty f.rm f.sat (c.lA f l) (c.lB f l) (c.lC f l)),
   (.bfx f, fun l => (bfx32 (c.lA f l) (c.lB f l) (f.fn == 1), 0)),
   (.bfi f, fun l => (bfi32 (c.lA f l) (c.lB f l) (c.lC f l), 0)),
   (.pack f, fun l => (packOp f.fn.toNat (c.lA f l) (c.lB f l) (c.lC f l), 0)),
   (.sel f, fun l => (if (c.g.rdP c.fc f.r.c.toNat).getLsbD l then c.lA f l else c.lB f l, 0)),
   (.lshf f, fun l =>
      match lshfLane f.fn.toNat l (c.lB f l).toNat with
      | some j => (c.lA f j, 0)
      | none => (c.lC f l, 0)),
   (.rand f, fun l => (randOp (c.lA f l) (c.lB f l), 0)),
   (.cvt f, fun l =>
      cvtOp ((Ty.ofCode f.fn.toNat).getD .i32) f.ty f.imm.toNat f.rm f.sat (c.lA f l) (c.lC f l)
        (c.g.rdV c.fc f.r.dst.toNat l))]

/-- R157, R160: the class 00 instructions that write a predicate, and the bit and flags of each in a lane. -/
def lanePreds (f : LFmt) (c : Iss) : List (Instr × (Nat → Bool × Nat)) :=
  [(.cmp f, fun l => cmpElem f.fn.toNat f.ty (c.lA f l).toNat (c.lB f l).toNat),
   (.pand f, fun l => (c.pBit f.r.a l && c.pBit f.r.b l, 0)),
   (.por f, fun l => (c.pBit f.r.a l || c.pBit f.r.b l, 0)),
   (.pxor f, fun l => (c.pBit f.r.a l ^^ c.pBit f.r.b l, 0)),
   (.pnot f, fun l => (!c.pBit f.r.a l, 0))]

/-! ### Scalars (R126 to R130) -/

/-- R127, R129, R130: the class 10 instructions that write an s register, and the value of each. A and B are the operands'
values under the type (R126). -/
def scalarInstrs (f : SFmt) (c : Iss) : List (Instr × DWord) :=
  let x := sVal f.ty (c.sA f)
  let y := sVal f.ty (c.sB f)
  let w := sBitsOf f.ty
  [(.scalarAdd f, sResult f.ty (x + y)), (.scalarSub f, sResult f.ty (x - y)), (.scalarMul f, sResult f.ty (x * y)),
   (.scalarMulhi f, sResult f.ty (x * y / 2 ^ w)), (.scalarMin f, sResult f.ty (min x y)),
   (.scalarMax f, sResult f.ty (max x y)), (.scalarAnd f, c.sA f &&& c.sB f), (.scalarOr f, c.sA f ||| c.sB f),
   (.scalarXor f, c.sA f ^^^ c.sB f), (.scalarNot f, ~~~(c.sA f)),
   (.scalarShl f, sResult f.ty (((c.sA f).toNat % 2 ^ w * 2 ^ ((c.sB f).toNat % w) : Nat) : Int)),
   (.scalarShr f, sResult f.ty (((c.sA f).toNat % 2 ^ w / 2 ^ ((c.sB f).toNat % w) : Nat) : Int)),
   (.scalarSar f, sResult f.ty (toSigned w (c.sA f).toNat / 2 ^ ((c.sB f).toNat % w))),
   (.scalarCmp f, if relInt f.fn.toNat x y then 1 else 0), (.scalarSel f, if c.sC f != 0 then c.sA f else c.sB f),
   (.scalarMov f, sResult f.ty x),
   (.scalarPopc f, BitVec.ofNat 64 ((List.range w).countP (fun k => (c.sA f).getLsbD k))),
   (.scalarClz f, BitVec.ofNat 64 ((List.range w).reverse.takeWhile (fun k => !(c.sA f).getLsbD k)).length),
   (.scalarBfx f, BitVec.ofNat 64 (bfxOp 64 (fieldPos (c.sB f)) (fieldWid (c.sB f)) (c.sA f).toNat (f.fn == 1))),
   (.scalarBfi f, BitVec.ofNat 64 (bfiOp 64 (fieldPos (c.sB f)) (fieldWid (c.sB f)) (c.sA f).toNat (c.sC f).toNat)),
   (.movp f, (c.g.rdP c.fc f.r.a.toNat).setWidth 64)]

/-! ### Control transfer (R132 to R142) -/

/-- A fetch leaves all but the cores' fetched lines and held translations as it was (R72, R256). -/
def sameButFetch (s s1 : State) : Prop :=
  { s1 with cores := s.cores, tlb := s.tlb } = s ∧
  ∀ k, { Map.get Core.reset s1.cores k with icache := [] } = { Map.get Core.reset s.cores k with icache := [] }

/-- R132, R139, R140: the instructions that transfer a whole split to slot `pc`; an indirect one reads the same code position of
that slot in every lane. -/
def transfers (f : BFmt) (c : Iss) (pc : Nat) : List Instr :=
  (if branchPc c.sp.pc f.toff f.tsl = pc then [.bra f, .call f] else []) ++
  (if (lanesOf c.act).all (fun l => posPc c.g (c.g.rdV c.fc f.r.a.toNat l) == some pc &&
        c.g.rdV c.fc f.r.a.toNat l == c.g.rdV c.fc f.r.a.toNat (lowLane c.act)) then [.jmpi f, .ret f, .calli f] else [])

/-- R132, R136, R137: the instructions that go to slot `pc` when their guard holds in an active lane: those that transfer the whole
split, LOOP before its last pass, BRC of BK 0 and 1, and CONT where its region is a loop. -/
def goesTo (f : BFmt) (c : Iss) (pc : Nat) : List Instr :=
  let es := c.g.chain f.bk.toNat c.sp.link
  transfers f c pc ++
  (if branchPc c.sp.pc f.toff f.tsl = pc then
    (if c.g.rdS c.fc f.r.dst.toNat - 1 ≠ 0 then [.loop f] else []) ++ (if f.bk.toNat ≤ 1 then [.brc f] else []) ++
    (if es.length = f.bk.toNat ∧ (es.getLast?.map JoinRec.kind) = some 1 then [.cont f] else [])
  else [])

/-- R57, R72: slot `pc` cannot be entered for a lane, and the trap this is: BAD_TARGET where the TGT bit of its fetched line is clear, and
else the fault of the fetch. -/
def noEntry (s : State) (g : Group) (pc lane : Nat) (t : Trap) : Prop :=
  let line := peekLine s g pc (!Config.useOld (s.free * 2 ^ 64 + pc))
  (∃ l s1, line = .ok (l, s1) ∧ lwTgt (lineWord l) (slotOf pc) = false ∧ t = { cause := cBadTarget }) ∨
  (∃ e, line = .error e ∧ t = { cause := e.1, detail := e.2, addr := [(lane, BitVec.ofNat 64 (pc / 64 * 64))] })

/-- R133, R134: a BRC that diverges, with the kind of its record: BK 0, and BK 1 where the split's link is no loop record with its
reconvergence address. -/
def branchKind (f : BFmt) (c : Iss) (kind : Nat) : Prop :=
  f.bk = 0 ∧ kind = 0 ∨
  f.bk = 1 ∧ kind = 1 ∧ ∀ n r, c.sp.link = some n → c.g.findRec n = some r → r.kind = 1 → r.rpc ≠ branchPc c.sp.pc f.roff f.rsl

/-- The split that has transferred to a slot of a fetched line: a new clause, with its lanes and link (R52, R132). -/
def transferred (c : Iss) (pc : Nat) (line : Line) : Split :=
  { c.sp with pc := pc, only := none, line := some line, entered := false }

/-! ### Memory (R258 to R268, R280, R380) -/

/-- R258, R259: the addresses of the active lanes are multiples of the width. -/
def lanesAligned (c : Iss) (f : MFmt) (atomic : Bool) : Prop :=
  ∀ l, l < 32 → c.on.getLsbD l = true → (c.laneAddr f atomic l).toNat % f.wid.bytes = 0

/-- The per-lane accesses: the instruction, its kind of access, whether it stores, and whether it is an atomic. -/
def laneAccesses (f : MFmt) : List (Instr × Acc × Bool × Bool) :=
  [(.ld f, .r, false, false), (.st f, .w, true, false), (.ldf f, .r, false, false), (.stf f, .w, true, false),
   (.atom f, .w, true, true), (.prestest f, .r, false, false)]

/-- The per-group accesses of one 64-byte line, and whether they store. -/
def lineAccesses (f : MFmt) : List (Instr × Acc × Bool) :=
  [(.thld f, .r, false), (.thst f, .w, true), (.presclr f, .r, false), (.presclrSet f, .r, false)]

/-- The pending counts after an instruction has marked the flag it chose (R54). -/
def flagMarked (c : Iss) (i : Instr) (g' : Group) : Prop :=
  ∀ k, Map.get 0 g'.cf k = if c.flag i = some k then Map.get 0 c.g.cf k + 1 else Map.get 0 c.g.cf k

/-- R54, R380: an instruction has taken the entry `e`: its flag is marked, its split is at the next slot, and nothing else of the
group and of the state `s` has changed but the device's own count. -/
def takesEntry (i : Instr) (s : State) (c : Iss) (e : Entry) (t : State) : Prop :=
  ∃ g', t = { s.putG c.gid g' with nextId := s.nextId + 1 } ∧ g'.entries = c.g.entries ++ [e] ∧ e.id = s.nextId ∧ e.instr = i ∧
    e.flag = c.flag i ∧ e.pc = c.sp.pc ∧ e.pos = c.pos ∧ e.fault = 0 ∧ e.sent = 0 ∧ flagMarked c i g' ∧
    g'.splits = (c.g.advance c.pos).splits ∧ { g' with entries := c.g.entries, cf := c.g.cf, splits := c.g.splits } = c.g

/-- What an access is when it has issued: one new entry of the operand log with its lanes and addresses, over the state in which a
release has published what is on its way to other frames (R319, R321). -/
def entersLog (i : Instr) (s : State) (c : Iss) (on : Mask) (addr : Nat → DWord) (e : Entry) (t : State) : Prop :=
  takesEntry i (released s c.gid i) c e t ∧ e.mask = on ∧ e.done = 0 ∧ e.outs = [] ∧
    ∀ l, l < 32 → on.getLsbD l = true → Map.find e.addr l = some (addr l)

/-- R54, R55: an instruction whose results are known at issue has issued over the state `s`: where it chose no flag its writes are
made and its split is at the next slot; where it chose one its entry holds them, ready to complete. -/
def answered (i : Instr) (s : State) (c : Iss) (outs : List RegWrite) (t : State) : Prop :=
  (c.flag i = none → t = s.putG c.gid ((outs.foldl Group.put c.g).advance c.pos)) ∧
  (c.flag i ≠ none → ∃ e, takesEntry i s c e t ∧ e.op = .result ∧ e.mask = c.act ∧ e.done = c.act ∧ e.outs = outs ∧ e.ready = true)

/-- R54, R301, R313: an instruction has issued that holds its split until its wait `w` ends; where it chose a flag its entry waits
with it. -/
def holdsSplit (i : Instr) (s : State) (c : Iss) (w : Wait) (t : State) : Prop :=
  ∃ g' sp, t = { s.putG c.gid g' with nextId := s.nextId + 1 } ∧ Map.find g'.splits c.pos = some sp ∧ sp.wait = w ∧
    sp.pc = nextPc c.sp.pc ∧ sp.mask = c.sp.mask ∧ sp.link = c.sp.link ∧
    (∀ p, p ≠ c.pos → Map.find g'.splits p = Map.find c.g.splits p) ∧ flagMarked c i g' ∧
    (c.flag i = none → g'.entries = c.g.entries) ∧
    (c.flag i ≠ none → ∃ e, g'.entries = c.g.entries ++ [e] ∧ e.id = s.nextId ∧ e.instr = i ∧ e.flag = c.flag i ∧ e.ready = false) ∧
    { g' with entries := c.g.entries, cf := c.g.cf, splits := c.g.splits } = c.g

/-- Nothing of the instruction is held at issue: no full flag, log, counter or throttle (R54, R96, R269, R380), the stores a
release covers are performed (R66), and a posted store finds room (R346). -/
def mayEnter (s : State) (c : Iss) (f : MFmt) (i : Instr) (stores : Bool) (a : SMap DWord) : Prop :=
  c.g.holds c.sp.word i = false ∧ releaseOk c s f = .ok () ∧ (stores = true → postHold s c.g a = .ok ())

/-- An entry's lane that is to be performed: active, not performed, not faulted, not sent, and no earlier access of the group
reaches its bytes (R260, R261). -/
def lanePending (s : State) (gid : Nat) (g : Group) (e : Entry) (l : Nat) : Prop :=
  Map.find s.groups gid = some g ∧ g.entries.find? (fun x => x.id == e.id) = some e ∧ e.op = .access ∧
  e.mask.getLsbD l = true ∧ e.done.getLsbD l = false ∧ e.fault.getLsbD l = false ∧ e.sent.getLsbD l = false ∧
  earlierPending s g e l = false ∧ (e.fault ≠ 0 → preciseOpen s g e.id = false)

/-- R320: the refresh that an access with acquire order makes when its last lanes `m` are performed; any other makes none. -/
def afterAcquire (e : Entry) (m : Mask) (gid core : Nat) (t : State) : State :=
  match e.ref with
  | some scope => if maskMinus e.mask (e.done ||| m) = 0 then learn (refreshAt t core scope) gid scope else t
  | none => t

/-- Lines of peers that are on their way no longer fill the core's cache; all else of the state is as it was (R248). -/
def sameButFills (s s1 : State) : Prop :=
  { s1 with fabReqs := s.fabReqs } = s ∧
  s1.fabReqs.map (fun r => (r.1, { r.2 with fresh := false })) = s.fabReqs.map (fun r => (r.1, { r.2 with fresh := false }))

/-- The entry after lanes are performed with the writes of their destinations. -/
def afterLanes (e : Entry) (m : Mask) (outs : List RegWrite) (fails : Bool) : Entry :=
  { e with done := e.done ||| m, sent := maskMinus e.sent m, fault := maskMinus e.fault m,
           outs := e.outs ++ outs, fails := e.fails || fails,
           ready := if maskMinus e.mask (e.done ||| m) = 0 then true else e.ready }

/-- The entry after one lane. -/
def afterLane (e : Entry) (l : Nat) (outs : List RegWrite) (fails : Bool) : Entry := afterLanes e (laneBit l) outs fails

/-- The group differs in the one entry only. -/
def entryIs (g g' : Group) (e' : Entry) : Prop :=
  g'.entries.find? (fun x => x.id == e'.id) = some e' ∧ (∀ x, x.id ≠ e'.id → (x ∈ g'.entries ↔ x ∈ g.entries)) ∧
  { g' with entries := g.entries } = g

/-- The group after lanes of an entry are performed, which have left it as `e'`: an entry that chose no flag is freed with its last
lane, and any other stays until its flag completes (R55, R380). -/
def entryAfter (g g' : Group) (e' : Entry) : Prop :=
  (e'.flag ≠ none ∨ maskMinus e'.mask e'.done ≠ 0 → entryIs g g' e') ∧
  (e'.flag = none → maskMinus e'.mask e'.done = 0 →
    (∀ x, x ∈ g'.entries ↔ x ∈ g.entries ∧ x.id ≠ e'.id) ∧ { g' with entries := g.entries } = g)

/-! ### Synchronisation (R291 to R317) -/

/-- The frames of a replicated line do not overlap: a page is a multiple of 64 bytes (R250, R251). -/
def framesApart (s : State) (loc : ObjLoc) : Prop :=
  ∀ pa n, loc = .phys pa → Map.find s.objRep (pa / 64) = some n → 64 ≤ n

/-- A barrier instruction's object, which it writes or only reads: the group names one, no earlier access of the group reaches it, and
it is valid. -/
def namesBarrier (a : Acc) (s s1 : State) (c : Iss) (f : EFmt) (loc : ObjLoc) : Prop :=
  c.barObject s a (c.g.rdS c.fc f.bar.toNat) true = .ok (loc, s1)

/-- The cores are as before but for the bytes of `n` that one core has cached of the first frames of an object at `pa` (R248). -/
def coresSeen (s s' : State) (pa n : Nat) : Prop :=
  ∀ k, { s'.coreAt k with far := (s.coreAt k).far } = s.coreAt k ∧
    ∀ key line, Map.find (s'.coreAt k).far key = some line → Map.find (s.coreAt k).far key = some line ∨
      ∃ p old, p ∈ objFrames s pa ∧ key = farKeyLoc p ∧ Map.find (s.coreAt k).far key = some old ∧
        line = lineSet old (p % 64) (s'.rd pa n)

/-- Bytes `o` up to `o + n` of an object's place, in every frame of it, and the tag of its line may have changed, and nothing else
but for the issuing core's cached bytes of it and for earlier writes of those bytes that were on their way to a frame, which come first (R327). -/
def objectSet (s s' : State) (loc : ObjLoc) (o n seen : Nat) : Prop :=
  match loc with
  | .team k off =>
    { s' with teams := s.teams } = s ∧ (∀ j, j ≠ k → Map.find s'.teams j = Map.find s.teams j) ∧
    ∀ x, Map.find s.teams k = some x → ∃ x', Map.find s'.teams k = some x' ∧
      { x' with mem := x.mem, tags := x.tags, poison := x.poison } = x ∧
      (∀ a, ¬ (off + o ≤ a ∧ a < off + o + n) → x'.mem.byte a = x.mem.byte a) ∧
      ∀ m, m ≠ off / 64 → (m ∈ x'.tags ↔ m ∈ x.tags)
  | .phys pa =>
    { s' with mem := s.mem, poison := s.poison, tags := s.tags, frameQ := s.frameQ, cores := s.cores } = s ∧ coresSeen s s' pa seen ∧
    (∀ a, (∀ p, p ∈ objFrames s pa → ¬ (p + o ≤ a ∧ a < p + o + n)) →
      (∀ u, u ∈ s.frameQ → ¬ (u.pa ≤ a ∧ a < u.pa + u.bytes.length)) → s'.mem.byte a = s.mem.byte a) ∧
    ∀ m, (∀ p, p ∈ objFrames s pa → m ≠ p / 64) → (m ∈ s'.tags ↔ m ∈ s.tags)

/-- The barrier instructions, which pass on where their guard holds in no lane (R62). -/
def barrierInstrs (f : EFmt) : List Instr := [.barinit f, .barfree f, .bararr f, .barwait f, .bartest f]

/-- The mortise instructions. -/
def mortiseInstrs (f : MFmt) : List Instr :=
  [.mortinit f, .mortinitFree f, .mortacq f, .pegwait f, .peggive f, .pegswap f, .pegdrop f, .mortrel f]

/-- The order of a mortise's places names no link twice. -/
def placesApart (q : MQ) : Prop := q.order.Nodup ∧ q.order.length < 16384 ∧ ∀ i, i ∈ q.order → i < 16384

/-! ### Planes (R169 to R212) -/

/-- The plane instructions that work on whole planes, with their class 01 numbers. -/
def planeInstrs (f : PFmt) : List (Instr × Nat) :=
  [(.pshift f, 0x03), (.prot f, 0x04), (.pspread f, 0x05), (.pfold f, 0x06), (.prefold f, 0x07), (.ptrans f, 0x08),
   (.pew2 f, 0x09), (.pew3 f, 0x0A), (.pewc f, 0x0B), (.piota f, 0x0C), (.pscan f, 0x0D), (.psel f, 0x0E), (.pcmp f, 0x0F),
   (.ppshift f, 0x10), (.pprot f, 0x11), (.ppspread f, 0x12), (.ppfold f, 0x13), (.pplog f, 0x14), (.pfill f, 0x15)]

/-- The descriptors that the fields of a plane instruction name in the issuing group (R171). -/
def descs (op : Nat) (f : PFmt) (c : Iss) : Nat → PDesc := descOf (c.pdWords f (planeFields op f)) (planeFields op f)

/-- A plane instruction of a member group that may execute: its descriptors pass the checks of R190, no pending collective
operation interlocks its registers (R183), and it reads no poison (R392). -/
def planeAllowed (s : State) (c : Iss) (op : Nat) (f : PFmt) (t : Team) : Prop :=
  Map.find s.teams c.g.team = some t ∧ 32 * c.g.idx < t.gridH * t.gridW ∧
  planeCheck op f t.gridH t.gridW c.g.budget (descs op f c) = .ok () ∧
  (planeFields op f).any (fun x => ((descs op f c x.1).uses t.gridH t.gridW f.set).any (fun r => c.g.planeRegs.contains r)) =
    false ∧
  planePoison c.g f t.gridH t.gridW (planeFields op f) (descs op f c) = false

/-- The elements that one group alone supplies. -/
def ownElem (c : Iss) (f : PFmt) (h w : Nat) (d : PDesc) (i j : Nat) : Option Nat :=
  srcElem [{ arr := c.arrival f, outs := [], fl := 0 }] h w d d.base i j

/-- The descriptor that four words of a group hold. -/
def heldDesc (g : Group) (d : Nat) : PDesc := pdescOf (g.rdPd d) false

/-! ### The matrix engine (R214 to R236) -/

/-- The tile moves and tile requests (R233, R235): the instruction, its operation and its tiles. -/
def tileInstrs (f : EFmt) : List (Instr × MOp × BitVec 16) :=
  [(.mzero f, .zero, tileBit f.r.dst), (.mfill f, if f.efn = 1 then .bcast else .fill, tileBit f.r.dst),
   (.mdrain f, if f.efn = 1 then .drainz else .drain, tileBit f.r.a), (.accalloc f, .alloc, f.imm), (.accfree f, .free, f.imm)]

/-- R216: a request is accepted: it is in its bay's table under a new number, with the row set of the active lanes; oc.mat and its flag's
count are one higher, the split is at the next slot, and no tile, register or memory has changed. -/
def requestAccepted (i : Instr) (s : State) (c : Iss) (t : State) (q : MReq) : Prop :=
  exec i s = .next t ∧ q ∈ (t.bayAt (coreBay c.g.core)).reqs ∧ q.id = s.nextId ∧ q.gid = c.gid ∧ q.core = c.g.core ∧
  q.ctx = c.g.ctx ∧ q.granted = false ∧ q.flag = c.flag i ∧ t.cores = s.cores ∧ t.mem = s.mem ∧ t.teams = s.teams ∧
  ∃ g', Map.find t.groups c.gid = some g' ∧ g'.ocMat = c.g.ocMat + 1 ∧ g'.v = c.g.v ∧ g'.s = c.g.s ∧ g'.p = c.g.p ∧
    (∃ sp, Map.find g'.splits c.pos = some sp ∧ sp.pc = nextPc c.sp.pc)

/-- The writes of an MDRAIN: the words of the rows of its tile, column n into register DST + n of the lane of the row (R233). -/
def drainOuts (x : Core) (r : MReq) : List RegWrite :=
  (lanesOf r.rows).flatMap (fun m => lanes32.map (fun k => .v (r.dst + k) m (x.tile r.tile m k)))

/-- R228, R231: the word of a pass at row m and column n, for operand B as `bk` gives it. -/
def passWord (b : Bay) (c : Core) (r : MReq) (bk : Nat → Nat → Val) (m n : Nat) : Word :=
  BitVec.ofNat 32 (passElem r.fmt (c.tile r.tile m n).toNat (b.pairs r bk m n)).word

/-- R234: byte j of the element of MBYPASS at row m and column n of the record. -/
def bypassByte (b : Bay) (r : MReq) (m n j : Nat) : Nat :=
  64 * (b.recOf r.resvA).base + m * (b.recOf r.resvA).rstr + (r.ofs + n) * passSize r.fmt + j

/-- R232: the rows that a request writes. -/
def rowsWritten (r : MReq) : Nat :=
  match r.op with
  | .bypass => 32
  | .alloc | .free | .release => 0
  | _ => laneCount r.rows

/-- MRES and MSTAT have issued over the state `s`: their answer is made or waits for its flag, and oc.mat counts it (R216). -/
def bufferAnswered (i : Instr) (s : State) (c : Iss) (outs : List RegWrite) (t : State) : Prop :=
  t = { postDone s c i outs with
    groups := Map.modify (postDone s c i outs).groups c.gid (fun g => { g with ocMat := g.ocMat + 1 }) }

/-- A run of a record's length from unit `a` lies in the buffer and meets no range that is reserved. -/
def runFree (b : Bay) (len a : Nat) : Prop := a + len ≤ 32768 ∧ ∀ x, x ∈ b.ranges → x.1 + x.2 ≤ a ∨ a + len ≤ x.1

/-- The checks that hold a request at issue or trap it are passed (R226, R237). -/
def requestFree (s : State) (c : Iss) (f : EFmt) (i : Instr) : Prop :=
  ownCheck s c.g = .ok () ∧ barAlign c f = .ok () ∧ matHold s c i = .ok ()

/-! ### Copies (R269 to R282, R348 to R355) -/

/-- R54, R269: a copy, gather or scatter has issued: its engine has the operation `o`, its counter is one higher, its flag is marked
and its split is at the next slot; no register and no memory changes. -/
def copyIssued (i : Instr) (s : State) (c : Iss) (cls : OcClass) (t : State) (o : CopyOp) : Prop :=
  exec i s = .next t ∧ (t.coreAt c.g.core).ops = (s.coreAt c.g.core).ops ++ [o] ∧ o.id = s.nextId ∧ o.gid = c.gid ∧ o.ctx = c.g.ctx ∧
  o.instr = i ∧ o.cls = cls ∧ o.flag = c.flag i ∧ o.accepted = false ∧ o.finished = false ∧ t.mem = s.mem ∧ t.teams = s.teams ∧
  t.bays = s.bays ∧
  ∃ g', Map.find t.groups c.gid = some g' ∧ g'.oc cls = c.g.oc cls + 1 ∧ g'.v = c.g.v ∧ g'.s = c.g.s ∧ g'.p = c.g.p ∧
    (∀ k, Map.get 0 g'.cf k = if c.flag i = some k then Map.get 0 c.g.cf k + 1 else Map.get 0 c.g.cf k) ∧
    (∃ sp, Map.find g'.splits c.pos = some sp ∧ sp.pc = nextPc c.sp.pc ∧ sp.wait = c.sp.wait)

/-- The record of a TRIG is known: a linear pair has none, and an extended one has been read and keeps its limits (R353). -/
def trigRecord (s : State) (c : Iss) (f : EFmt) (rec : List Byte) (s1 : State) : Prop :=
  let o := { c.copyOp f (.trig f) f.cc with window := c.g.rdS c.fc f.trg.toNat }
  (bits (c.pair0 f) 63 60 = 1 ∧ rec = [] ∧ s1 = s) ∨
  (bits (c.pair0 f) 63 60 = 2 ∧ copyRead s c.g c.g.core { o with stamp := s.nextId } (bits (c.pair0 f) 55 0) 64 = .ok (rec, s1) ∧
    trigRecordOk s1 c.g.core c.g o rec = true ∧ Map.find s1.groups c.gid = some c.g)

/-- An operation that its engine may go on with. -/
def opActive (s : State) (core id : Nat) (o : CopyOp) (g : Group) : Prop :=
  (s.coreAt core).findOp id = some o ∧ Map.find s.groups o.gid = some g ∧ o.held = false ∧ o.stopped = false ∧
  o.abandon = false ∧ o.finished = false

/-! ### Traps, scheduling, launches -/

/-- The keys of a sparse array are distinct. -/
def distinctKeys {β : Type} (m : SMap β) : Prop := (Map.keys m).Nodup

/-- R383, R387: what taking a trap leaves in an ordinary group and its core's queue: one origin for each lane, queued and open, each
with the cause and place of the trap; the group is parked, and no register, split or memory has changed. -/
def trapTaken (s s' : State) (r : Raiser) (t : Trap) (g : Group) : Prop :=
  let n := (t.originLanes r.act).length
  ∃ g', Map.find s'.groups r.gid = some g' ∧ { g' with openOrg := g.openOrg } = g ∧
    g'.openOrg = g.openOrg ++ (List.range n).map (fun i => s.nextId + i) ∧
    (∀ i l, (t.originLanes r.act)[i]? = some l → ∃ o, o ∈ (s'.coreAt g.core).trapq ∧ o.id = s.nextId + i ∧ o.gid = r.gid ∧ o.ctx = g.ctx ∧
      o.slot = g.slot ∧ o.cause = t.cause ∧ o.detail = t.detail ∧ o.pc = r.pc ∧ o.pos = r.pos ∧ o.lane = l ∧
      o.addr = Map.get 0 t.addr l ∧ o.aux = t.aux ∧ o.mask = t.maskOf r.act) ∧
    (∀ o, o ∈ (s.coreAt g.core).trapq → o ∈ (s'.coreAt g.core).trapq) ∧ s'.mem = s.mem ∧ s'.teams = s.teams ∧
    (∀ k, k ≠ r.gid → Map.find s'.groups k = Map.find s.groups k)
/-- R96: the memory-bound groups that a partition of a core allows at its quadrant's congestion level. -/
def levelAllows (s : State) (core : Nat) : Nat := [64, 48, 32, 24, 16, 8, 4, 2].getD (quadAt s (coreQuad core)).level 2

/-- A write that has been made, here or by a posted request (R346), leaves this state. -/
def written (p : Perf) (s : State) : Prop := ∃ o b, p = .done s o b

/-! ### Peers (R345 to R347, R401, R438) -/

/-- A request that arrives at a port that is up and that no hook takes, whose like neither waits here nor awaits its answer. -/
def requestNew (s : State) (p : Packet) : Prop :=
  linked s = true ∧ p.acked = false ∧ hookFor s p 0 = none ∧ (∀ r, r ∈ s.remotes → r.is p = false) ∧ ∀ j, j ∈ s.frameJobs → j.2.answers p = false

/-- A request of a peer that no hook takes and that does not wait here already, of a device of the job's rank map, for a job
bound to an open context. -/
def requestOpen (s : State) (p : Packet) (ctx : Nat) (x : Ctx) : Prop :=
  requestNew s p ∧ ctxOfJob s p.job = some ctx ∧ Map.find s.ctxs ctx = some x ∧ x.mapsRank p.src = true ∧
  x.lateStart = false ∧ x.lateClosed = false

/-- The three requests with their classes. -/
def requestRows (p : Packet) : List (Instr × Packet) :=
  [(.remoteRead p, { p with cls := 0 }), (.remoteWrite p, { p with cls := 1 }), (.remoteAtomic p, { p with cls := 2 })]

/-- The state whose registers of an invocation have changed, at its next word (R368). -/
def wordDone (s : State) (c : Kn) (i : Invocation) : State := s.putScribe c.proc { c.x with inv := some i.next }

/-- R363, R365: the guarded vector words and the value of each in a lane. -/
def vectorWords (c : Kn) (d a b : BitVec 4) (m : BitVec 2) (t : BitVec 4) : List (Instr × (Nat → Word)) :=
  let x (l : Nat) : Word := zLane (c.z a) l
  let y (l : Nat) : Word := zLane (c.z b) l
  let el (op l : Nat) : Word := (regOp op (scribeTy t) .rn false (x l) (y l) 0).1
  [(.vadd d a b m t, el 0x01), (.vsub d a b m t, el 0x02), (.vmul d a b m t, el 0x03), (.vmin d a b m t, el 0x07),
   (.vmax d a b m t, el 0x08), (.vand d a b m, fun l => x l &&& y l), (.vor d a b m, fun l => x l ||| y l),
   (.vxor d a b m, fun l => x l ^^^ y l), (.vshl d a b m, fun l => x l <<< ((y l).toNat % 32)),
   (.vshr d a b m, fun l => x l >>> ((y l).toNat % 32)), (.vsar d a b m, fun l => (x l).sshiftRight ((y l).toNat % 32)),
   (.vbc d a m, fun _ => c.k a)]

/-- R364, R365: the scalar words and the value of each. -/
def scalarWords (c : Kn) (d a b : BitVec 4) (n : BitVec 5) (i12 : BitVec 12) (i22 : BitVec 22) (i10 : BitVec 10) (u : BitVec 1)
    (r : BitVec 3) : List (Instr × Word) :=
  let v (x : Word) : Int := if u = 1 then (x.toNat : Int) else x.toInt
  [(.sadd d a b, c.k a + c.k b), (.ssub d a b, c.k a - c.k b), (.sand d a b, c.k a &&& c.k b), (.sor d a b, c.k a ||| c.k b),
   (.sxor d a b, c.k a ^^^ c.k b), (.sshl d a n, c.k a <<< n.toNat), (.sshr d a n, c.k a >>> n.toNat),
   (.saddi d a i12, c.k a + i12.signExtend 32), (.smovi d i22, i22.signExtend 32),
   (.smovh d i10, BitVec.ofNat 32 (i10.toNat * 2 ^ 22 + (c.k d).toNat % 2 ^ 22)),
   (.scmp d a b u r, if relInt r.toNat (v (c.k a)) (v (c.k b)) then 1 else 0), (.vext d a b, zLane (c.z a) b.toNat),
   (.hrd d a, BitVec.ofNat 32 (pktField c.inv.pkt c.inv.time a.toNat))]

/-- A word of a kernel traps: its invocation ends with this cause and detail (R371, R372). -/
def kernelTraps (i : Instr) (s : State) (c : Kn) (cause detail : Nat) : Prop := exec i s = .next (scribeTrap s c cause detail)

/-! ### The hub -/

/-- The answer is a next state in which context `ctx` is `x` and all else is as it was. -/
def ctxBecomes (i : Instr) (s : State) (ctx : Nat) (x : Ctx) : Prop :=
  ∃ t, exec i s = .next t ∧ Map.find t.ctxs ctx = some x ∧ (∀ k, k ≠ ctx → Map.find t.ctxs k = Map.find s.ctxs k) ∧
    { t with ctxs := s.ctxs } = s

/-- A command may be applied now (R421): none is queued before it and no FREEZE runs. -/
def commandsOpen (s : State) : Prop := s.freeze = none ∧ s.cmdq = []

/-- The command ends with status `st` and leaves all else as it was. -/
def refuses (i : Instr) (s : State) (c : MCmd) (st : Nat) : Prop := exec i s = .next (reply s c.mctp st)

/-- The command succeeds: its effect is `t`, and its status 0. -/
def succeeds (i : Instr) (s : State) (c : MCmd) (t : State) : Prop := exec i s = .next (reply t c.mctp 0)

/-- The size a shootdown has (R256). -/
def shootBytes (s : State) : Nat := [2 ^ 16, 2 ^ 21, 2 ^ 30, 2 ^ 56].getD (bits s.tlbictl 7 6) 0

/-- A translation lies in the range of the shootdown that runs. -/
def inShootdown (s : State) (t : Tlb) : Prop :=
  t.ctx = bits s.tlbictl 5 0 ∧ t.page < s.tlbiva.toNat / shootBytes s * shootBytes s + shootBytes s ∧
  s.tlbiva.toNat / shootBytes s * shootBytes s < t.page + t.size

/-- R12 to R15, R18, R23 to R25, R439: an object passes the checks of LOAD in a context, and its form is chosen. -/
def objectTaken (s : State) (c : MCmd) (x : Ctx) (form : Nat) : Prop :=
  let b := s.rd c.a0.toNat c.a1.toNat
  let sec (k : Nat) : List (List Byte) := (kindOf (objSects b) k).map (fun y => y.bytes b)
  let dir := (sec 1).headD []
  let part := partOf s c.ctx
  headerOk b = true ∧ dir.length % 64 = 0 ∧ dir ≠ [] ∧ (∀ y, y ∈ sec 4 → imageOk y = true) ∧
  (∀ y, y ∈ sec 3 → variantOk y (dir.length / 64) = true ∧ selectorOf (quantities s part) y ≠ none) ∧
  (∀ k, k < dir.length / 64 → dirOk (sliceB dir (64 * k) 64) ((sec 2).head?.map (fun v => leAt v 2 2)) = true) ∧
  (signedBy (s.ownerKeys ++ x.keys) ((sec 5).headD []) (digest (b.take (b.length - 3389)))).isSome = true ∧
  chooseForm s part b = some form ∧ (form = 0 → versuRefusal b = none)

/-- R435: the object's code and images fit its load map and lie in pages that its context maps. -/
def mapTaken (s : State) (c : MCmd) (x : Ctx) (form : Nat) : Prop :=
  let b := s.rd c.a0.toNat c.a1.toNat
  let map := s.rd c.a2.toNat 32
  let code := (formCode s (partOf s c.ctx) b form).1
  let root := x.ptrootUsed.toNat
  root ≠ 0 ∧ leAt map 0 8 % 64 = 0 ∧ leAt map 8 8 % 64 = 0 ∧ code.length ≤ leAt map 8 8 ∧
  (∀ p, p ∈ pagesOf (leAt map 0 8) code.length → pageOk s root p true = true) ∧
  ∀ i, i ∈ placeImages (leAt map 0x10 8) ((kindOf (objSects b) 4).map (fun k => k.bytes b)) →
    i.1 + i.2.length ≤ leAt map 0x10 8 + leAt map 0x18 8 ∧ ∀ p, p ∈ pagesOf i.1 i.2.length → pageOk s root p false = true

/-- LOAD takes the object in this form. -/
def loadable (s : State) (c : MCmd) (x : Ctx) (form : Nat) : Prop := objectTaken s c x form ∧ mapTaken s c x form

/-! ### Steps -/

/-- What executing an instruction, a command or an event from `s` makes of a step (R53, R59). -/
def stepOf (i : Instr) (s : State) : Host.Outcome State Fault Refusal :=
  match exec i s with
  | .next t => .next (endStep s t)
  | .fault f => .fault f
  | .refused r => .refused r

/-- The state in which the instruction `i` of split `pos` of group `gid` executes: the split has entered its line, the group has
issued from it where this is an issue opportunity of its own, and a far access marks its time (R58, R85, R96). -/
def issuedAt (first : Bool) (s : State) (gid pos : Nat) (g : Group) (sp : Split) (i : Instr) : State :=
  let s1 := s.issuing gid pos g sp first
  if throttles i then { s1 with groups := Map.modify s1.groups gid (fun g => { g with lastFar := s.clk / 10 }) } else s1

/-- Split `pos` of a group that runs stands at a slot of a fetched line; the group's spilled records are as memory holds them. -/
def standsAt (s : State) (gid pos : Nat) (g : Group) (sp : Split) (line : Line) : Prop :=
  (∃ g0, Map.find s.groups gid = some g0 ∧ g = refreshSpilled s g0) ∧ Map.find g.splits pos = some sp ∧ groupRuns s g = true ∧
  sp.wait = .none ∧ sp.line = some line

/-- Split `pos` of group `gid` may issue the instruction `i`, which stands in its slot (R31, R54, R58, R70, R84, R386, R392). -/
def mayRun (s : State) (gid pos : Nat) (g : Group) (sp : Split) (line : Line) (i : Instr) : Prop :=
  let w := lineWord line
  standsAt s gid pos g sp line ∧ (sp.entered = true ∨ (waitClear g w = true ∧ bit w 29 = false)) ∧ lineSlot line (slotOf sp.pc) ≠ 0 ∧
  decodeSlot (lwFlagX w) (lwFlagY w) (lineSlot line (slotOf sp.pc)) = .ok i ∧ g.holds sp.word i = false ∧
  overBudget (usesOf i) g.budget = false ∧ pairBad line (slotOf sp.pc) i = false ∧ readsPoison g s.free i (sp.only.getD sp.mask) = false

/-- What a SCRIBEBIND asks for is within the limits: the job's entry, its hooks `hs` and its kernels (R357, R370, R440). -/
def bindable (s : State) (c : MCmd) (j : ScribeJob) (hs : List Hook) : Prop :=
  let proc := bits c.a0 3 0
  let head := s.rd c.a3.toNat 8
  let n := leAt head 0 2
  let others := (s.scribeAt proc).jobs.filter (fun k => k.job != j.job)
  j.entry = s.rd c.a1.toNat 64 ∧ j.job = leAt j.entry 0 2 ∧ j.ctx = c.ctx ∧ j.q = 0 ∧ bits c.a0 63 4 = 0 ∧ j.limitsOk = true ∧
  n ≤ 256 ∧ zeroAt head 3 1 = true ∧ zeroAt head 6 2 = true ∧
  ((Map.find s.ctxs c.ctx).bind Ctx.job).map JobBinding.job = some j.job ∧ others.length < 16 ∧ (∀ k, k ∈ others → k.overlaps j = false) ∧
  (List.range n).map (hookAt (s.rd c.a3.toNat (8 + 32 * n)) proc j) = hs.map some ∧
  (s.hooks.filter (fun h => !(h.job == j.job && h.proc == proc))).length + n ≤ 256 ∧
  ∀ h, h ∈ hs → kernelStatus (fun k => leAt (s.rd c.a2.toNat (64 * j.clen)) (4 * k) 4) (16 * j.clen) h.entry = none

end Sys2Proof.Claims

open Sys2Proof Sys2Proof.Machine Sys2Proof.Claims

/-- R148: an element-wise class 00 instruction issued by a group completes: register DST of every active lane holds
the result of that lane's operands, read before any write, element by element; every other register, lane and all
other state is as it was, but for the flags raised in FPF. -/
def Obligations.LaneArithmetic : Prop :=
  ∀ (s : State) (f : LFmt) (c : Iss) (i : Instr) (op : Nat), (i, op) ∈ elemInstrs f → issuer s f.r.g = some c →
    ∃ g', completesAs i s c g' ∧ sameButV c.g g' ∧
      vWritten c g' f.r.dst.toNat (fun l => (regOp op f.ty f.rm f.sat (c.lA f l) (c.lB f l) (c.lC f l)).1) ∧
      flagsRaised c g' (fun l => (regOp op f.ty f.rm f.sat (c.lA f l) (c.lB f l) (c.lC f l)).2)

/-- R148, R152, R154 to R156, R158, R161, R162, R164: MOV, DOT2, BFX, BFI, PACK, SEL, LSHF, RAND and CVT complete
with the value of each in every active lane, and change nothing else but FPF. -/
def Obligations.LaneMoves : Prop :=
  ∀ (s : State) (f : LFmt) (c : Iss) (i : Instr) (fn : Nat → Word × Nat), (i, fn) ∈ laneMoves f c → issuer s f.r.g = some c →
    ∃ g', completesAs i s c g' ∧ sameButV c.g g' ∧
      vWritten c g' f.r.dst.toNat (fun l => (fn l).1) ∧ flagsRaised c g' (fun l => (fn l).2)

/-- R148, R157, R160: CMP, PAND, POR, PXOR and PNOT complete with a bit in every active lane of the destination
predicate; bits of other lanes, p0 and all other state are as they were, but for FPF. -/
def Obligations.LanePredicates : Prop :=
  ∀ (s : State) (f : LFmt) (c : Iss) (i : Instr) (fn : Nat → Bool × Nat), (i, fn) ∈ lanePreds f c → issuer s f.r.g = some c →
    ∃ g', completesAs i s c g' ∧ sameButP c.g g' ∧
      pWritten c g' f.r.dst.toNat (fun l => (fn l).1) ∧ flagsRaised c g' (fun l => (fn l).2)

/-- R100, R150, R153: on an integer type every element of ADD, SUB, MUL, MULHI, MAD, MIN, MAX, ABS, NEG, CLAMP and
ADDMIN is the exact result, wrapped, or clamped to the type's range under .SAT; ADDMIN clamps its sum whatever SAT
says; no flag is raised. R154: on the 32-bit type the bit instructions compute AND, OR, XOR, NOT and the shifts by
the count modulo 32, and raise no flag. -/
def Obligations.IntegerElements : Prop :=
  (∀ (t : Ty) (rm : RM) (sat : Bool) (a b c : Word) (k : Nat), t.isInt = true → k < t.lanes →
    let x := intVal t (elemOf t a k)
    let y := intVal t (elemOf t b k)
    let z := intVal t (elemOf t c k)
    let narrow (v : Int) : Int := if sat then clampInt t v else v
    let holds (op : Nat) (v : Int) : Prop :=
      (intVal t (elemOf t (regOp op t rm sat a b c).1 k) - v) % 2 ^ t.bits = 0 ∧ (regOp op t rm sat a b c).2 = 0
    holds 0x01 (narrow (x + y)) ∧ holds 0x02 (narrow (x - y)) ∧ holds 0x03 (narrow (x * y)) ∧
    holds 0x04 (x * y / 2 ^ t.bits) ∧ holds 0x05 (narrow (x * y + z)) ∧ holds 0x07 (min x y) ∧ holds 0x08 (max x y) ∧
    holds 0x09 (narrow (max x (-x))) ∧ holds 0x0A (narrow (-x)) ∧ holds 0x0B (min (max x y) z) ∧
    holds 0x0C (min (clampInt t (x + y)) z)) ∧
  (∀ (t : Ty) (rm : RM) (sat : Bool) (a b c : Word), t.bits = 32 →
    regOp 0x10 t rm sat a b c = (a &&& b, 0) ∧ regOp 0x11 t rm sat a b c = (a ||| b, 0) ∧
    regOp 0x12 t rm sat a b c = (a ^^^ b, 0) ∧ regOp 0x13 t rm sat a b c = (~~~a, 0) ∧
    regOp 0x14 t rm sat a b c = (a <<< (b.toNat % 32), 0) ∧ regOp 0x15 t rm sat a b c = (a >>> (b.toNat % 32), 0) ∧
    regOp 0x16 t rm sat a b c = (a.sshiftRight (b.toNat % 32), 0))

/-- R151: on a floating type, where exactly one operand of MIN or MAX is NaN the result is the other operand's bits;
where both are NaN it is the canonical NaN; no flag is raised. -/
def Obligations.FloatMinMaxNaN : Prop :=
  ∀ (t : Ty) (rm : RM) (sat : Bool) (a b c : Nat) (op : Nat), t.isFlt = true → (op = 0x07 ∨ op = 0x08) →
    a < 2 ^ t.bits → b < 2 ^ t.bits →
    (elemOp op t rm sat a b c).flags = 0 ∧
    ((ffOf t).isNaN a = true → (ffOf t).isNaN b = false → (elemOp op t rm sat a b c).bits = b) ∧
    ((ffOf t).isNaN a = false → (ffOf t).isNaN b = true → (elemOp op t rm sat a b c).bits = a) ∧
    ((ffOf t).isNaN a = true → (ffOf t).isNaN b = true → (elemOp op t rm sat a b c).bits = (ffOf t).canon)

/-- R62, R126, R127, R129, R130: a scalar instruction whose guard holds in an active lane completes with its value in
DST and changes nothing else; where the guard holds in no active lane it passes on with no effect. -/
def Obligations.ScalarInstructions : Prop :=
  ∀ (s : State) (f : SFmt) (c : Iss) (i : Instr) (x : DWord), (i, x) ∈ scalarInstrs f c → issuer s f.r.g = some c →
    (c.on ≠ 0 → ∃ g', completesAs i s c g' ∧ sameButS c.g g' ∧ sWritten c.g g' f.r.dst.toNat x) ∧
    (c.on = 0 → completesAs i s c c.g)

/-- R128: DIV rounds toward zero and REM has the sign of A; where B is 0 DIV gives all w bits one, extended, and REM
gives A; on signed overflow DIV gives A and REM gives 0; neither traps nor raises a flag. -/
def Obligations.DivisionCorners : Prop :=
  ∀ (s : State) (f : SFmt) (c : Iss), issuer s f.r.g = some c → c.on ≠ 0 →
    let x := sVal f.ty (c.sA f)
    let y := sVal f.ty (c.sB f)
    ∃ q r g1 g2, completesAs (.div f) s c g1 ∧ sWritten c.g g1 f.r.dst.toNat q ∧ sameButS c.g g1 ∧
      completesAs (.rem f) s c g2 ∧ sWritten c.g g2 f.r.dst.toNat r ∧ sameButS c.g g2 ∧
      (y = 0 → q = (if f.ty = .u32 then 0xFFFFFFFF else 0xFFFFFFFFFFFFFFFF) ∧ r = sResult f.ty x) ∧
      (sSignedOf f.ty = true → x = -(2 ^ (sBitsOf f.ty - 1)) → y = -1 → q = sResult f.ty x ∧ r = 0) ∧
      (y ≠ 0 → ¬ (sSignedOf f.ty = true ∧ x = -(2 ^ (sBitsOf f.ty - 1)) ∧ y = -1) →
        sVal f.ty q = Int.tdiv x y ∧ sVal f.ty r = x - y * Int.tdiv x y)

/-- R159: BALLOT writes the active lanes' bits of a predicate, zero-extended, into an s register, and nothing when no
lane is active. R129: MOVPS writes bit l of A into bit l of a predicate for each lane of the split where the guard
holds, and no bit of any other lane. -/
def Obligations.PredicateScalarMoves : Prop :=
  (∀ (s : State) (f : LFmt) (c : Iss), issuer s f.r.g = some c →
    ∃ g', completesAs (.ballot f) s c g' ∧ sameButS c.g g' ∧
      (c.on = 0 → g' = c.g) ∧
      (c.on ≠ 0 → ∃ x : DWord, sWritten c.g g' f.r.dst.toNat x ∧
        (∀ l, l < 32 → x.getLsbD l = (c.on.getLsbD l && (c.g.rdP c.fc f.r.a.toNat).getLsbD l)) ∧
        (∀ l, 32 ≤ l → x.getLsbD l = false))) ∧
  (∀ (s : State) (f : SFmt) (c : Iss), issuer s f.r.g = some c →
    ∃ g', completesAs (.movps f) s c g' ∧ sameButP c.g g' ∧ g'.fpf = c.g.fpf ∧
      pWritten c g' f.r.dst.toNat (fun l => (c.sA f).getLsbD l))

/-- R132, R139, R140: BRA, JMPI, RET, CALL and CALLI whose target line is fetched and is a target transfer the whole
split, with its lanes and link; CALL and CALLI also write the next slot's code position into DST in every lane of the
split, and nothing else changes. -/
def Obligations.Transfers : Prop :=
  ∀ (s s1 : State) (f : BFmt) (c : Iss) (i : Instr) (pc : Nat) (line : Line), issuer s f.r.g = some c → c.on ≠ 0 →
    i ∈ transfers f c pc → targetLine s c.g pc (lowLane c.act) = .ok (line, s1) →
    ∃ g', exec i s = .next (s1.putG c.gid (g'.setSplit c.pos (transferred c pc line))) ∧ sameButFetch s s1 ∧
      sameButV c.g g' ∧ g'.fpf = c.g.fpf ∧
      (∀ r l, l < 32 → Map.get 0 g'.v (32 * r + l) =
        if (i = .call f ∨ i = .calli f) ∧ r = f.r.dst.toNat ∧ c.act.getLsbD l = true ∧ c.g.exited.getLsbD l = false
        then codePos c.g (nextPc c.sp.pc) else Map.get 0 c.g.v (32 * r + l))

/-- R139: an indirect transfer whose lanes name different code positions traps IND_DIVERGE with the lanes that differ
from the lowest; one whose position is not valid traps BAD_TARGET; neither has any other effect. R57, R72: a BRA, JMPI, RET, CALL, CALLI,
BRC, LOOP or CONT that goes to a slot whose line has its TGT bit clear traps BAD_TARGET, and one whose line cannot be fetched takes
the fault of the fetch; neither has any other effect. A resumption at a reconvergence address that cannot be entered is a trap of the slot
there, for the lanes that arrived, and its record is complete and held (log entry 28, DEDUCED). -/
def Obligations.TransferTraps : Prop :=
  (∀ (s : State) (f : BFmt) (c : Iss) (i : Instr), issuer s f.r.g = some c → c.on ≠ 0 → i ∈ [.jmpi f, .calli f, .ret f] →
    let x (l : Nat) : Word := c.g.rdV c.fc f.r.a.toNat l
    let d := maskOf (fun l => c.act.getLsbD l && x l != x (lowLane c.act))
    (d ≠ 0 → trapsAs i s c { cause := cIndDiverge, mask := some d }) ∧
    (d = 0 → posPc c.g (x (lowLane c.act)) = none → trapsAs i s c { cause := cBadTarget })) ∧
  (∀ (s : State) (f : BFmt) (c : Iss) (i : Instr) (pc : Nat) (t : Trap), issuer s f.r.g = some c → c.on ≠ 0 → i ∈ goesTo f c pc →
    noEntry s c.g pc (lowLane c.act) t → trapsAs i s c t) ∧
  (∀ (s s1 s2 : State) (gid pos : Nat) (old g g1 g2 : Group) (r : JoinRec) (t : Trap), afterEvent s gid old g = .ok (g1, s1) →
    g1.arrival = none → newest g1.recs (fun r => r.exp == 0 && !r.complete) = some r → r.arr ≠ 0 → g1.freePos = some pos →
    noEntry s1 g1 r.rpc (lowLane r.arr) t → afterEvent s1 gid g1 (g1.holdRec r.num) = .ok (g2, s2) →
    settle s gid old g = .ok (raiseTrap (s2.putG gid g2)
      { gid, pos, pc := r.rpc, act := r.arr, kind := 0, ref := 2 ^ 60 + r.num } t))

/-- R90, R133, R134: a BRC whose lanes all take the branch transfers the whole split, and one of no lane passes on. A diverging BRC with
taken lanes T and other lanes N, a free split position and a free record number:
the taken lanes go to the target, the others to the next slot at the lowest free position, and both are linked to a
new record of kind 0, or of kind 1 for BRC.LOOP, with RPC the reconvergence address, EXP all their lanes, ARR empty and OUTER the old link; no
split is passed over for an earlier split of that position (R87). With four splits live the other lanes are the record's deferred
side instead. R134: BRC.LOOP in the loop whose record the split is linked to makes no record: the lanes that leave move from EXP to
ARR, and the split goes to the target with those that stay, or stops being live when none does. R133:
BRC.BLK and BRC.LPO open a region: the split continues at the next slot, linked to a new record of kind 2 or 1 that
expects the split's lanes. When the guard fails in every lane they open nothing. -/
def Obligations.BranchesOpenRecords : Prop :=
  (∀ (s s1 : State) (f : BFmt) (c : Iss) (p j kind : Nat) (g1 : Group) (line : Line), issuer s f.r.g = some c → branchKind f c kind →
    c.on ≠ 0 → maskMinus c.act c.on ≠ 0 → c.g.freePos = some p →
    c.g.newRec (mkRec kind (branchPc c.sp.pc f.roff f.rsl) (c.on ||| maskMinus c.act c.on) c.sp.link .table) = some (g1, j) →
    targetLine s c.g (branchPc c.sp.pc f.toff f.tsl) (lowLane c.act) = .ok (line, s1) →
    ∃ g', exec (.brc f) s = .next (s1.putG c.gid g') ∧
      Map.find g'.splits c.pos = some { transferred c (branchPc c.sp.pc f.toff f.tsl) line with
        mask := c.on, link := some j, demoted := c.sp.demoted.filter (· != p) } ∧
      (∃ q, Map.find g'.splits p = some q ∧ q.pc = nextPc c.sp.pc ∧ q.mask = maskMinus c.act c.on ∧ q.link = some j) ∧
      (∃ r, g'.recs = c.g.recs ++ [r] ∧ r.num = j ∧ r.kind = kind ∧ r.rpc = branchPc c.sp.pc f.roff f.rsl ∧
        r.exp = c.on ||| maskMinus c.act c.on ∧ r.arr = 0 ∧ r.d = false ∧ r.outer = c.sp.link ∧ ∀ q ∈ c.g.recs, q.num ≠ j) ∧
      g'.entries = c.g.entries.map (fun e => if e.pos = p then { e with mine := false } else e) ∧
      { g' with splits := c.g.splits, recs := c.g.recs, entries := c.g.entries } = c.g) ∧
  (∀ (s s1 : State) (f : BFmt) (c : Iss) (j kind : Nat) (g1 : Group) (line : Line), issuer s f.r.g = some c → branchKind f c kind →
    c.on ≠ 0 → maskMinus c.act c.on ≠ 0 → c.g.freePos = none →
    c.g.newRec { mkRec kind (branchPc c.sp.pc f.roff f.rsl) (c.on ||| maskMinus c.act c.on) c.sp.link .entering with
      d := true, dpc := nextPc c.sp.pc, dmask := maskMinus c.act c.on } = some (g1, j) →
    targetLine s c.g (branchPc c.sp.pc f.toff f.tsl) (lowLane c.act) = .ok (line, s1) →
    ∃ g', exec (.brc f) s = .next (s1.putG c.gid g') ∧
      (∀ q, Map.find g'.splits q = if q = c.pos then
        some { transferred c (branchPc c.sp.pc f.toff f.tsl) line with mask := c.on, link := some j } else Map.find c.g.splits q) ∧
      (∃ r, g'.recs = c.g.recs ++ [r] ∧ r.num = j ∧ r.kind = kind ∧ r.rpc = branchPc c.sp.pc f.roff f.rsl ∧
        r.exp = c.on ||| maskMinus c.act c.on ∧ r.arr = 0 ∧ r.d = true ∧ r.dpc = nextPc c.sp.pc ∧ r.dmask = maskMinus c.act c.on ∧
        r.outer = c.sp.link ∧ ∀ q ∈ c.g.recs, q.num ≠ j) ∧
      { g' with splits := c.g.splits, recs := c.g.recs } = c.g) ∧
  (∀ (s : State) (f : BFmt) (c : Iss) (kind : Nat), issuer s f.r.g = some c → branchKind f c kind →
    (c.on = 0 → completesAs (.brc f) s c c.g) ∧
    (c.on ≠ 0 → maskMinus c.act c.on = 0 → ∀ line s1,
      targetLine s c.g (branchPc c.sp.pc f.toff f.tsl) (lowLane c.act) = .ok (line, s1) →
      exec (.brc f) s = .next (s1.putG c.gid (c.g.setSplit c.pos (transferred c (branchPc c.sp.pc f.toff f.tsl) line))) ∧
        sameButFetch s s1)) ∧
  (∀ (s : State) (f : BFmt) (c : Iss) (n : Nat) (r : JoinRec), issuer s f.r.g = some c → f.bk = 1 → c.sp.link = some n →
    c.g.findRec n = some r → r.kind = 1 → r.rpc = branchPc c.sp.pc f.roff f.rsl →
    let left := maskMinus c.act c.on
    let recs := c.g.recs.map (fun q => if q.num = r.num then { r with exp := maskMinus r.exp left, arr := r.arr ||| left } else q)
    (c.on = 0 → exec (.brc f) s = .next (s.putG c.gid { c.g with recs := recs, splits := Map.del c.g.splits c.pos })) ∧
    (c.on ≠ 0 → ∀ line s1, targetLine s c.g (branchPc c.sp.pc f.toff f.tsl) (lowLane c.act) = .ok (line, s1) →
      exec (.brc f) s = .next (s1.putG c.gid ({ c.g with recs := recs }.setSplit c.pos
        { transferred c (branchPc c.sp.pc f.toff f.tsl) line with mask := c.on })) ∧ sameButFetch s s1)) ∧
  (∀ (s : State) (f : BFmt) (c : Iss) (kind : Nat), issuer s f.r.g = some c →
    (f.bk = 2 ∧ kind = 2 ∨ f.bk = 3 ∧ kind = 1) →
    (c.on = 0 → completesAs (.brc f) s c c.g) ∧
    (c.on ≠ 0 → ∀ g1 j, c.g.newRec (mkRec kind (branchPc c.sp.pc f.roff f.rsl) c.act c.sp.link .entering) = some (g1, j) →
      ∃ g', exec (.brc f) s = .next (s.putG c.gid g') ∧
        Map.find g'.splits c.pos = some { c.sp.fall with link := some j } ∧
        (∃ r, g'.recs = c.g.recs ++ [r] ∧ r.num = j ∧ r.kind = kind ∧ r.rpc = branchPc c.sp.pc f.roff f.rsl ∧
          r.exp = c.act ∧ r.arr = 0 ∧ r.outer = c.sp.link) ∧
        { g' with splits := c.g.splits, recs := c.g.recs } = c.g))

/-- R137: LOOP decrements an s register by 1 modulo 2^64 and, while the result is not zero, transfers the whole
split; at zero it falls through. A guard that fails in every lane leaves the register unchanged. R135: BRK #1: the
lanes where the guard holds leave the split and wait at its link's record; the split goes on with the rest, or stops
being live when none is left. With no such lane it has no effect, and with no record it traps BAD_TARGET. R136: CONT
#1 in a loop region moves the whole split to the target with its link unchanged; with a link that is not of kind 1,
or none, it traps BAD_TARGET and nothing changes. -/
def Obligations.LoopControl : Prop :=
  (∀ (s : State) (f : BFmt) (c : Iss), issuer s f.r.g = some c →
    let x := c.g.rdS c.fc f.r.dst.toNat - 1
    (c.on = 0 → completesAs (.loop f) s c c.g) ∧
    (c.on ≠ 0 → x = 0 → ∃ g', completesAs (.loop f) s c g' ∧ sameButS c.g g' ∧ sWritten c.g g' f.r.dst.toNat 0) ∧
    (c.on ≠ 0 → x ≠ 0 → ∀ line s1, targetLine s c.g (branchPc c.sp.pc f.toff f.tsl) (lowLane c.act) = .ok (line, s1) →
      ∃ g', exec (.loop f) s =
          .next (s1.putG c.gid (g'.setSplit c.pos (transferred c (branchPc c.sp.pc f.toff f.tsl) line))) ∧
        sameButS c.g g' ∧ sWritten c.g g' f.r.dst.toNat x ∧ sameButFetch s s1)) ∧
  ((∀ (s : State) (f : BFmt) (c : Iss), issuer s f.r.g = some c → f.bk = 1 →
    (c.on = 0 → completesAs (.brk f) s c c.g) ∧
    (c.on ≠ 0 → c.sp.link = none → trapsAs (.brk f) s c { cause := cBadTarget }) ∧
    (c.on ≠ 0 → ∀ n r, c.sp.link = some n → c.g.findRec n = some r →
      ∃ g', exec (.brk f) s = .next (s.putG c.gid g') ∧
        g'.recs = c.g.recs.map (fun q => if q.num = r.num then { r with exp := maskMinus r.exp c.on, arr := r.arr ||| c.on } else q) ∧
        (maskMinus c.act c.on = 0 → Map.find g'.splits c.pos = none) ∧
        (maskMinus c.act c.on ≠ 0 → Map.find g'.splits c.pos = some { c.sp.fall with mask := maskMinus c.act c.on }) ∧
        { g' with splits := c.g.splits, recs := c.g.recs } = c.g)) ∧
  (∀ (s : State) (f : BFmt) (c : Iss), issuer s f.r.g = some c → f.bk = 1 → c.on ≠ 0 →
    (c.sp.link = none → trapsAs (.cont f) s c { cause := cBadTarget }) ∧
    (∀ n r, c.sp.link = some n → c.g.findRec n = some r →
      (r.kind ≠ 1 → trapsAs (.cont f) s c { cause := cBadTarget }) ∧
      (r.kind = 1 → ∀ line s1, targetLine s c.g (branchPc c.sp.pc f.toff f.tsl) (lowLane c.act) = .ok (line, s1) →
        exec (.cont f) s = .next (s1.putG c.gid (c.g.setSplit c.pos
          { transferred c (branchPc c.sp.pc f.toff f.tsl) line with link := some n })) ∧ sameButFetch s s1))))

/-- R90, R141: EXIT ends the lanes where the guard holds: they are in no split and expected by no record, no register
of theirs is written by any later register write, and no register changes now. R88, R142: YIELD demotes the split
and sets the group's age to 0; it changes no other state; at the
end of the step a split that was demoted in it is passed over for the other splits that are ready then. That a split demoted in the
same step is not waited for is log 106 (DEDUCED). -/
def Obligations.ExitYield : Prop :=
  (∀ (s : State) (f : BFmt) (c : Iss), issuer s f.r.g = some c →
    ∃ g', exec (.exit f) s = .next (s.putG c.gid g') ∧ g'.exited = c.g.exited ||| c.on ∧
      (∀ p sp, (p, sp) ∈ g'.splits → sp.mask &&& c.on = 0 ∧ sp.mask ≠ 0) ∧
      (∀ r, r ∈ g'.recs → r.exp &&& c.on = 0 ∧ r.arr &&& c.on = 0 ∧ r.dmask &&& c.on = 0) ∧
      (∀ r l x, c.on.getLsbD l = true → g'.wrV r l x = g' ∧ ∀ b, g'.wrP r l b = g') ∧
      { g' with splits := c.g.splits, recs := c.g.recs, exited := c.g.exited } = c.g) ∧
  (∀ (s : State) (f : BFmt) (c : Iss), issuer s f.r.g = some c → c.on ≠ 0 →
    ∃ g' sp', completesAs (.yield f) s c g' ∧ Map.find g'.splits c.pos = some sp' ∧ sp'.isDem = true ∧
      sp'.demNew = true ∧ sp'.passed = 0 ∧ g'.age s = 0 ∧
      { g' with splits := c.g.splits, lastIssue := c.g.lastIssue, urgent := c.g.urgent } = c.g ∧
      (∀ p, p ≠ c.pos → Map.find g'.splits p = Map.find c.g.splits p)) ∧
  (∀ (s : State) (gid pos : Nat) (g : Group) (sp : Split), Map.find s.groups gid = some g → Map.find g.splits pos = some sp →
    sp.demNew = true → ∃ g' sp', Map.find (demotions s).groups gid = some g' ∧ Map.find g'.splits pos = some sp' ∧
      { sp' with demoted := sp.demoted, demNew := true } = sp ∧
      ∀ p, p ∈ sp'.demoted ↔ p ∈ readySplits s gid g ∧ ¬ ∃ q, (p, q) ∈ g.splits ∧ q.demNew = true)

/-- R143, R144: SRD of a register that the group may read writes its value into an s register; it traps ILLEGAL_INSTR
subcode 0x0B for any other, whatever its guard. FPF is read once older instructions have retired (R124). R121, R122,
R143, R215: SWR of FPF and MXC by any group, and of AOWN and ACCLIVE by the supervisor, write the register; AOWN
keeps its reserved bits zero and clears PEND; a tile whose ACCLIVE bit changes is discarded. Any other register traps
ILLEGAL_INSTR subcode 0x0B. What a write of nonzero reserved bits leaves in AOWN and FPF is the model's choice (log entry 90, DESIGN CHOICE). -/
def Obligations.SystemRegisters : Prop :=
  (∀ (s : State) (f : SFmt) (c : Iss), issuer s f.r.g = some c →
    (sysAccess f.imm.toNat c.g.sup = 0 → trapsAs (.srd f) s c { cause := cIllegal, detail := 0x0B }) ∧
    (sysAccess f.imm.toNat c.g.sup ≠ 0 → c.on = 0 → completesAs (.srd f) s c c.g) ∧
    (sysAccess f.imm.toNat c.g.sup ≠ 0 → c.on ≠ 0 → (f.imm = 0 → fpfPending s c.gid c.g = false) →
      ∃ g', completesAs (.srd f) s c g' ∧ sameButS c.g g' ∧ sWritten c.g g' f.r.dst.toNat (sysRead s c.g f.imm.toNat))) ∧
  (∀ (s : State) (f : SFmt) (c : Iss), issuer s f.r.g = some c →
    let x := c.g.rdS c.fc f.r.b.toNat
    let n := f.imm.toNat
    (sysAccess n c.g.sup ≠ 2 → trapsAs (.swr f) s c { cause := cIllegal, detail := 0x0B }) ∧
    (c.on = 0 → sysAccess n c.g.sup = 2 → completesAs (.swr f) s c c.g) ∧
    (c.on ≠ 0 → n = 0 → fpfPending s c.gid c.g = false → completesAs (.swr f) s c { c.g with fpf := x &&& 31 }) ∧
    (c.on ≠ 0 → n = 1 → completesAs (.swr f) s c { c.g with mxc := x }) ∧
    (c.on ≠ 0 → n = 0x20 → c.g.sup = true → tilesNamed s c.g.core = false → ∃ s1 : State,
      exec (.swr f) s = .next (s1.putG c.gid (c.g.advance c.pos)) ∧ { s1 with cores := s.cores } = s ∧
      Map.get Core.reset s1.cores c.g.core = { Map.get Core.reset s.cores c.g.core with aown := x &&& 0x7F } ∧
      ∀ k, k ≠ c.g.core → Map.get Core.reset s1.cores k = Map.get Core.reset s.cores k) ∧
    (c.on ≠ 0 → n = 0x21 → c.g.sup = true → ∃ s1 : State,
      exec (.swr f) s = .next (s1.putG c.gid (c.g.advance c.pos)) ∧ { s1 with cores := s.cores } = s ∧
      (Map.get Core.reset s1.cores c.g.core).acclive = x.setWidth 16 ∧
      (∀ t e, t < 16 → e < 1024 → Map.get 0 (Map.get Core.reset s1.cores c.g.core).tiles (1024 * t + e) =
        if (Map.get Core.reset s.cores c.g.core).acclive.getLsbD t = x.getLsbD t
        then Map.get 0 (Map.get Core.reset s.cores c.g.core).tiles (1024 * t + e) else 0) ∧
      ∀ k, k ≠ c.g.core → Map.get Core.reset s1.cores k = Map.get Core.reset s.cores k))

/-- R258, R259, R262, R263, R265, R380: LD, ST, LDF, STF, ATOM and PRESTEST whose addresses are aligned and allowed
enter the operand log with the address A(l) of every active lane, and with the data of their lanes; no register and
no memory changes until they are performed. With no active lane they pass on. With POLL an LD also demotes its split,
whatever its guard (R88). R258, R280, R268: THLD, THST, PRESCLR and PRESCLR.SET of an aligned line, and LAUNCH of an aligned record,
enter the operand log with the address A(0), once for the group, when the guard holds in an active lane. -/
def Obligations.AccessIssues : Prop :=
  (∀ (s : State) (f : MFmt) (c : Iss) (i : Instr) (acc : Acc) (stores atomic : Bool), (i, acc, stores, atomic) ∈ laneAccesses f →
    issuer s f.r.g = some c →
    (c.on = 0 → i ≠ .ld f ∨ f.mfn ≠ 1 → completesAs i s c c.g) ∧
    (c.on = 0 → i = .ld f → f.mfn = 1 → exec i s =
      .next { s.putG c.gid (c.g.advance c.pos) with
        groups := Map.modify (s.putG c.gid (c.g.advance c.pos)).groups c.gid (fun g => g.demote c.pos) }) ∧
    (c.on ≠ 0 → lanesAligned c f atomic →
      accessChecks s c.g f.spc acc stores (laneAddrs (c.laneAddr f atomic) c.on) f.wid.bytes f.wid.bytes = .ok () →
      mayEnter s c f i stores (laneAddrs (c.laneAddr f atomic) c.on) →
      ∃ e t, entersLog i s c c.on (c.laneAddr f atomic) e t ∧ e.op = .access ∧
        (stores = true → ∀ l, l < 32 → c.on.getLsbD l = true → Map.find e.data l = some (c.laneData f.r.b.toNat f.wid.bytes l)) ∧
        (atomic = true → ∀ l, l < 32 → c.on.getLsbD l = true → Map.find e.cmp l = some (c.laneData f.r.c.toNat f.wid.bytes l)) ∧
        (i ≠ .ld f ∨ f.mfn ≠ 1 → exec i s = .next t) ∧
        (i = .ld f → f.mfn = 1 → exec i s =
          .next { t with groups := Map.modify t.groups c.gid (fun g => g.demote c.pos) }))) ∧
  (∀ (s : State) (f : MFmt) (c : Iss), issuer s f.r.g = some c →
    (∀ (i : Instr) (acc : Acc) (stores : Bool), (i, acc, stores) ∈ lineAccesses f →
      let va := c.laneAddr f false 0
      (c.on = 0 → completesAs i s c c.g) ∧
      (c.on ≠ 0 → va.toNat % 64 = 0 → accessChecks s c.g f.spc acc stores ((lanesOf c.act).map (fun k => (k, va))) 64 64 = .ok () →
        mayEnter s c f i stores [(lowLane c.act, va)] →
        ∃ e t, exec i s = .next t ∧ entersLog i s c (laneBit (lowLane c.act)) (fun _ => va) e t ∧
          (i = .thst f → ∀ k, k < 4 → Map.find e.data k =
            some (BitVec.ofNat 128 ((c.g.rdTh c.fc f.r.b.toNat).1.toNat / 2 ^ (128 * k)))))) ∧
    (let va := c.g.rdS c.fc f.r.a.toNat + mOffset f false
     (c.on = 0 → completesAs (.launch f) s c c.g) ∧
     (c.on ≠ 0 → va.toNat % 128 = 0 → mayEnter s c f (.launch f) false [] →
       ∃ e t, exec (.launch f) s = .next t ∧ entersLog (.launch f) s c (laneBit (lowLane c.act)) (fun _ => va) e t)))

/-- R259: an address that is not a multiple of the width traps ALIGN_FAULT in exactly the active lanes that have one. -/
def Obligations.AlignmentTraps : Prop :=
  ∀ (s : State) (f : MFmt) (c : Iss) (i : Instr) (acc : Acc) (stores atomic : Bool), (i, acc, stores, atomic) ∈ laneAccesses f →
    issuer s f.r.g = some c → c.on ≠ 0 → ¬ lanesAligned c f atomic →
    ∃ t : Trap, trapsAs i s c t ∧ t.cause = cAlign ∧ t.detail = 0 ∧
      ∀ l, l < 32 → t.lanes.getLsbD l = (c.on.getLsbD l && (c.laneAddr f atomic l).toNat % f.wid.bytes != 0)

/-- R262, R320, R380: one lane of an ST to team memory, performed, stores the w bytes of its data, least significant first, at
its address in the team's memory and nowhere else; the lane is performed and no other state changes. R262: one lane
of an LD from team memory, performed, adds to its entry the writes of the w bytes at its address, least significant
first, into DST and the registers after it; nothing is written before the entry completes, and memory is unchanged. With its last lane an
access that chose no flag leaves the operand log, and one with acquire order refreshes at its scope. -/
def Obligations.TeamAccesses : Prop :=
  (∀ (s : State) (gid l : Nat) (g : Group) (e : Entry) (f : MFmt) (t : Team) (resp : Line), lanePending s gid g e l →
    e.instr = .st f → f.spc = .tm → Map.find s.teams g.team = some t → l < 32 →
    let va := (Map.get 0 e.addr l).toNat
    taggedIn t.tags va f.wid.bytes = false →
    ∃ s' t' g', exec (.memoryAccessPerformed (.lane gid e.id l) resp) s = .next (afterAcquire e (laneBit l) gid g.core s') ∧
      Map.find s'.teams g.team = some t' ∧ Map.find s'.groups gid = some g' ∧
      (∀ a, t'.mem.byte a = if va ≤ a ∧ a < va + f.wid.bytes
        then BitVec.ofNat 8 ((Map.get 0 e.data l).toNat / 256 ^ (a - va)) else t.mem.byte a) ∧
      entryAfter g g' (afterLane e l [] false) ∧
      { t' with mem := t.mem, poison := t.poison } = t ∧ { s' with teams := s.teams, groups := s.groups } = s ∧
      (∀ k, k ≠ g.team → Map.find s'.teams k = Map.find s.teams k) ∧ (∀ k, k ≠ gid → Map.find s'.groups k = Map.find s.groups k)) ∧
  (∀ (s : State) (gid l : Nat) (g : Group) (e : Entry) (f : MFmt) (t : Team) (resp : Line), lanePending s gid g e l →
    e.instr = .ld f → f.spc = .tm → Map.find s.teams g.team = some t →
    let va := (Map.get 0 e.addr l).toNat
    poisoned t.poison va f.wid.bytes = false →
    ∃ s' g' outs, exec (.memoryAccessPerformed (.lane gid e.id l) resp) s = .next (afterAcquire e (laneBit l) gid g.core s') ∧
      Map.find s'.groups gid = some g' ∧ entryAfter g g' (afterLane e l outs false) ∧ outs.length = (f.wid.bytes + 3) / 4 ∧
      (∀ k, k < outs.length → outs[k]? = some (.v (f.r.dst.toNat + k) l (BitVec.ofNat 32
        (leNat ((List.range (min 4 (f.wid.bytes - 4 * k))).map (fun b => t.mem.byte (va + 4 * k + b))))))) ∧
      (∀ k, Map.find s'.teams k = Map.find s.teams k) ∧ { s' with teams := s.teams, groups := s.groups } = s ∧
      (∀ k, k ≠ gid → Map.find s'.groups k = Map.find s.groups k))

/-- R268: performed on a line of the issuer's own die, PRESCLR makes the line absent, PRESCLR.SET makes it present,
and PRESTEST will write whether it is present to its lane of a predicate; no byte of memory changes. R262, R263: one lane
of an STF, or of an ST of the issuer's own scratchpad, to a present, untagged, unreplicated page here stores its w bytes at the translated address and nowhere
else, but for the DIRTY bit that the translation sets (R251) and for earlier writes of those bytes that were still on their way
to this frame, which come first (R327). R264, R265: one lane of an ATOM at a present, untagged,
unpoisoned, unreplicated place here reads the old value, stores the new one of its operator there and nowhere else,
and will write the old value to DST; a CAS that does not match fails its lane. R248, R262, R263: one lane of an LDF, or of an LD of the
issuer's own scratchpad, will write to DST and the registers after it the bytes of the cached line, or of memory where they are
present and not poisoned; a line that is not of the own scratchpad then fills the cache. R345: a peer's answer to an LDF performs every
lane its request covers with the bytes of the line. With its last lane an access that chose no flag leaves the operand log, and one with
acquire order refreshes at its scope (R320). -/
def Obligations.FarAccessesPerformed : Prop :=
  (∀ (s s1 : State) (gid l : Nat) (g : Group) (e : Entry) (f : MFmt) (pa size : Nat) (prop : Bool) (resp : Line),
    lanePending s gid g e l →
    xlate s g.core g.ctx (rootOf s g) (Map.get 0 e.addr l) .r = .ok (.loc pa size false prop, s1) →
    spDie pa = some (coreDie g.core) →
    (e.instr = .presclr f → ∃ s', exec (.memoryAccessPerformed (.lane gid e.id l) resp) s = .next s' ∧
      (∀ n, n ∈ s'.absent ↔ n = pa / 64 ∨ n ∈ s.absent) ∧ s'.mem = s.mem) ∧
    (e.instr = .presclrSet f → ∃ s', exec (.memoryAccessPerformed (.lane gid e.id l) resp) s = .next s' ∧
      (∀ n, n ∈ s'.absent ↔ n ≠ pa / 64 ∧ n ∈ s.absent) ∧ s'.mem = s.mem) ∧
    (e.instr = .prestest f → ∃ s' g', exec (.memoryAccessPerformed (.lane gid e.id l) resp) s = .next s' ∧
      Map.find s'.groups gid = some g' ∧
      entryAfter g g' (afterLane e l [.p f.r.dst.toNat l (!s.absent.contains (pa / 64))] false) ∧
      s'.absent = s.absent ∧ s'.mem = s.mem)) ∧
  ((∀ (s s1 : State) (gid l : Nat) (g : Group) (e : Entry) (f : MFmt) (pa size : Nat) (prop : Bool) (resp : Line),
    lanePending s gid g e l → (e.instr = .stf f ∨ e.instr = .st f ∧ f.spc ≠ .tm ∧ spDie pa = some (coreDie g.core)) →
    xlate s g.core g.ctx (rootOf s g) (Map.get 0 e.addr l) .w = .ok (.loc pa size false prop, s1) →
    taggedIn s1.tags pa f.wid.bytes = false → presentIn s1 pa f.wid.bytes = true →
    let s2 := applyFrames s1 pa f.wid.bytes
    ∃ s' g', exec (.memoryAccessPerformed (.lane gid e.id l) resp) s = .next (afterAcquire e (laneBit l) gid g.core s') ∧
      Map.find s'.groups gid = some g' ∧
      (∀ a, s'.mem.byte a = if pa ≤ a ∧ a < pa + f.wid.bytes
        then BitVec.ofNat 8 ((Map.get 0 e.data l).toNat / 256 ^ (a - pa)) else s2.mem.byte a) ∧
      entryAfter g g' (afterLane e l [] false) ∧
      sameButFills s2 { s' with mem := s2.mem, poison := s2.poison, groups := s2.groups, cores := s2.cores } ∧
      (∀ k, k ≠ gid → Map.find s'.groups k = Map.find s.groups k)) ∧
  (∀ (s s1 : State) (gid l : Nat) (g : Group) (e : Entry) (f : MFmt) (pa size : Nat) (prop : Bool) (resp : Line),
    lanePending s gid g e l → e.instr = .atom f →
    xlate s g.core g.ctx (rootOf s g) (Map.get 0 e.addr l) .w = .ok (.loc pa size false prop, s1) →
    taggedIn s1.tags pa f.wid.bytes = false → presentIn s1 pa f.wid.bytes = true → poisoned s1.poison pa f.wid.bytes = false →
    let n := f.wid.bytes
    let old := leNat (s1.mem.load pa n)
    let new := atomNew f.mfn.toNat (f.ofs.toNat / 2 ^ 28) n old ((Map.get 0 e.data l).toNat % 2 ^ (8 * n))
      ((Map.get 0 e.cmp l).toNat % 2 ^ (8 * n))
    let s2 := applyFrames s1 pa n
    ∃ s' g', exec (.memoryAccessPerformed (.lane gid e.id l) resp) s = .next (afterAcquire e (laneBit l) gid g.core s') ∧
      Map.find s'.groups gid = some g' ∧
      (∀ a, s'.mem.byte a = if pa ≤ a ∧ a < pa + n then BitVec.ofNat 8 (new / 256 ^ (a - pa)) else s2.mem.byte a) ∧
      entryAfter g g' (afterLane e l (loadOuts f.r.dst.toNat l (leBytes n old))
        (f.mfn == 7 && old != (Map.get 0 e.cmp l).toNat % 2 ^ (8 * n))) ∧
      sameButFills s2 { s' with mem := s2.mem, poison := s2.poison, groups := s2.groups, cores := s2.cores })) ∧
  (∀ (s s1 : State) (gid l : Nat) (g : Group) (e : Entry) (f : MFmt) (pa size : Nat) (prop : Bool) (resp : Line),
    lanePending s gid g e l → (e.instr = .ldf f ∨ e.instr = .ld f ∧ f.spc ≠ .tm ∧ spDie pa = some (coreDie g.core)) →
    xlate s g.core g.ctx (rootOf s g) (Map.get 0 e.addr l) .r = .ok (.loc pa size false prop, s1) →
    let n := f.wid.bytes
    let far := if spDie pa = some (coreDie g.core) then none else farLine s1 gid g.core (farKeyLoc pa)
    (far = none → presentIn s1 pa n = true ∧ poisoned s1.poison pa n = false) →
    ∃ s' g' bs, exec (.memoryAccessPerformed (.lane gid e.id l) resp) s = .next (afterAcquire e (laneBit l) gid g.core s') ∧
      Map.find s'.groups gid = some g' ∧ (∀ line, far = some line → bs = lineBytes line (pa % 64) n) ∧ (far = none → bs = s1.rd pa n) ∧
      entryAfter g g' (afterLane e l (loadOuts f.r.dst.toNat l bs) false) ∧
      { s' with groups := s1.groups, cores := s1.cores } = s1 ∧ (∀ k, k ≠ gid → Map.find s'.groups k = Map.find s.groups k) ∧
      (spDie pa = some (coreDie g.core) ∨ far ≠ none → s'.cores = s1.cores) ∧
      (spDie pa ≠ some (coreDie g.core) → far = none → s'.cores = (farFill s1 g.core (farKeyLoc pa) (lineOf (s1.rd (pa / 64 * 64) 64))).cores)) ∧
  (∀ (s : State) (gid l tag : Nat) (g : Group) (e : Entry) (f : MFmt) (r : FabReq) (resp : Line), Map.find s.groups gid = some g →
    g.entries.find? (fun x => x.id == e.id) = some e → e.op = .access → e.instr = .ldf f → e.mask.getLsbD l = true →
    e.done.getLsbD l = false → e.fault.getLsbD l = false → e.sent.getLsbD l = true → linked s = true → r.pkt.cls = 0 →
    s.fabReqs.find? (fun r => r.2.gid == gid && r.2.entry == e.id && r.2.lanes.getLsbD l) = some (tag, r) →
    farLine s gid g.core (farKeyPeer r.pkt.dest r.pkt.addr.toNat) = none →
    ∃ s' g', exec (.memoryAccessPerformed (.lane gid e.id l) resp) s = .next (afterAcquire e r.lanes gid g.core s') ∧
      Map.find s'.groups gid = some g' ∧
      entryAfter g g' (afterLanes e r.lanes ((lanesOf r.lanes).flatMap (fun k =>
        loadOuts f.r.dst.toNat k (lineBytes resp ((Map.get 0 e.addr k).toNat % 64) f.wid.bytes))) false) ∧
      s'.fabReqs = Map.del s.fabReqs tag ∧ { s' with fabReqs := s.fabReqs, groups := s.groups, cores := s.cores } = s)

/-- R54, R55, R56, R88: when an instruction that chose a flag completes, its destination registers take the values gathered for
them, all at once, the flag's count goes down by one, its log entry is freed and FPF gains its flags; no other register changes. A
register that was written after the instruction issued keeps either value. MRES and MSTAT leave oc.mat (R216). A CAS that failed in
a lane demotes its split. An instruction whose results are known at issue makes its writes at once where it chose no flag,
and else leaves them to its flag's completion. -/
def Obligations.FlaggedCompletion : Prop :=
  (∀ (s : State) (gid : Nat) (g : Group) (e : Entry) (k : Nat), Map.find s.groups gid = some g →
    g.entries.find? (fun x => x.id == e.id) = some e → e.ready = true → e.fault = 0 → e.flag = some k →
    (e.outs.map RegWrite.key).Nodup →
    let raced (w : RegWrite) : Prop := g.racedBy e.id w.key = true
    ∃ g', exec (.flaggedComplete gid e.id) s = .next (s.putG gid (if e.fails && e.mine then g'.demote e.pos else g')) ∧
      g'.entries = g.entries.filter (fun x => x.id != e.id) ∧
      (∀ n, Map.get 0 g'.cf n = if n = k then Map.get 0 g.cf n - 1 else Map.get 0 g.cf n) ∧ g'.fpf = g.fpf ||| e.fpf ∧
      (∀ r l x, RegWrite.v r l x ∈ e.outs → l < 32 → r < 256 → g.exited.getLsbD l = false → Map.get 0 g'.v (32 * r + l) = x ∨
        (raced (.v r l x) ∧ Map.get 0 g'.v (32 * r + l) = Map.get 0 g.v (32 * r + l))) ∧
      (∀ r l, (∀ x, RegWrite.v r l x ∉ e.outs) → l < 32 → r < 256 → (∀ r' l' x, RegWrite.v r' l' x ∈ e.outs → l' < 32) →
        Map.get 0 g'.v (32 * r + l) = Map.get 0 g.v (32 * r + l)) ∧
      (∀ r x, RegWrite.s r x ∈ e.outs → Map.get 0 g'.s r = x ∨ (raced (.s r x) ∧ Map.get 0 g'.s r = Map.get 0 g.s r)) ∧
      (∀ r, (∀ x, RegWrite.s r x ∉ e.outs) → Map.get 0 g'.s r = Map.get 0 g.s r) ∧
      (∀ r l b, RegWrite.p r l b ∈ e.outs → l < 32 → r ≠ 0 → r < 8 → g.exited.getLsbD l = false →
        (Map.get 0 g'.p r).getLsbD l = b ∨ (raced (.p r l b) ∧ (Map.get 0 g'.p r).getLsbD l = (Map.get 0 g.p r).getLsbD l)) ∧
      (∀ r x ty, RegWrite.th r x ty ∈ e.outs → (g'.thNow r = x ∧ Map.get 0 g'.thType r = ty) ∨ raced (.th r x ty)) ∧
      (∀ r l, (∀ b, RegWrite.p r l b ∉ e.outs) → l < 32 → (∀ r' l' b, RegWrite.p r' l' b ∈ e.outs → l' < 32) →
        (Map.get 0 g'.p r).getLsbD l = (Map.get 0 g.p r).getLsbD l) ∧
      (∀ r, (∀ x ty, RegWrite.th r x ty ∉ e.outs) → g'.thNow r = g.thNow r ∧ Map.get 0 g'.thType r = Map.get 0 g.thType r) ∧
      g'.ocMat = g.ocMat - (match e.instr with | .mres _ | .mstat _ => 1 | _ => 0) ∧
      { g' with v := g.v, s := g.s, p := g.p, th := g.th, thType := g.thType, entries := g.entries, cf := g.cf, fpf := g.fpf,
                ocMat := g.ocMat, raced := g.raced, poison := g.poison } = g) ∧
  (∀ (s : State) (c : Iss) (i : Instr) (outs : List RegWrite), answered i s c outs (postDone s c i outs))

/-- R266, R267: RED adds one entry for each active lane to the group's share, with its address, operator, type, width
and data; FLUSHRED with nothing held passes on, and else it makes a flush point and its entry stays in the log until every entry before
it is applied. No memory changes until an entry is drained. R247, R264, R266, R346: the entry of a flush point, drained, stores the
result of its operator at an untagged, present, unreplicated place here and nowhere else; to a peer it goes as a posted atomic that returns nothing; on
a tagged line it is refused, a completion origin of the RED; where its address does not translate it stays, and its lane is a
replayed origin. Entries are drained in the order they are held, and one that cannot be applied holds those after it. What has to come before an entry
is log entry 92 (DEDUCED). -/
def Obligations.ReductionIssues : Prop :=
  (∀ (s : State) (f : MFmt) (c : Iss), issuer s f.r.g = some c →
    (c.on = 0 → completesAs (.red f) s c c.g) ∧
    (c.on ≠ 0 → lanesAligned c f true → c.g.holds c.sp.word (.red f) = false → c.g.red.length + laneCount c.on ≤ 64 →
      ∃ rs, exec (.red f) s = .next { s.putG c.gid ({ c.g with red := c.g.red ++ rs }.advance c.pos) with nextId := s.nextId + 1 } ∧
        rs.map RedEntry.lane = lanesOf c.on ∧
        ∀ r, r ∈ rs → r.gid = c.gid ∧ r.addr = c.laneAddr f true r.lane ∧ r.fn = f.mfn.toNat ∧ r.ty = f.ofs.toNat / 2 ^ 28 ∧
          r.wid = f.wid.bytes ∧ r.data = (c.laneData f.r.b.toNat f.wid.bytes r.lane).setWidth 64 ∧ r.faulted = false) ∧
    (c.g.red = [] → c.g.holds c.sp.word (.flushred f) = false → completesAs (.flushred f) s c c.g) ∧
    (c.on = 0 → completesAs (.flushred f) s c c.g) ∧
    (c.on ≠ 0 → c.g.red ≠ [] → c.g.holds c.sp.word (.flushred f) = false → ∃ e t, exec (.flushred f) s = .next (flushPoint t c.gid) ∧
      takesEntry (.flushred f) s c e t ∧ e.op = .flush ∧ e.mask = laneBit (lowLane c.act) ∧ e.done = 0)) ∧
  (∀ (s : State) (gid l : Nat) (g : Group) (e : Entry) (resp : Line), Map.find s.groups gid = some g →
    g.entries.find? (fun x => x.id == e.id) = some e → e.op = .flush → maskMinus e.mask e.done ≠ 0 →
    (redApplied s gid g e.id = false → exec (.memoryAccessPerformed (.lane gid e.id l) resp) s = .next s) ∧
    (redApplied s gid g e.id = true → ∃ s' g', Map.find s'.groups gid = some g' ∧ entryAfter g g' (afterLanes e e.mask [] false) ∧
      exec (.memoryAccessPerformed (.lane gid e.id l) resp) s = .next (afterAcquire e e.mask gid g.core s') ∧ { s' with groups := s.groups } = s)) ∧
  (∀ (s s1 : State) (r : RedEntry) (rest : List RedEntry), (drainOne s r = .wait → drainList s (r :: rest) = (r :: rest, s)) ∧
    (∀ o b, drainOne s r = .done s1 o b → drainList s (r :: rest) = drainList s1 rest)) ∧
  (∀ (s : State) (gid : Nat) (g : Group) (r : RedEntry) (rest : List RedEntry) (resp : Line), Map.find s.groups gid = some g →
    g.red = r :: rest → r.gid = gid → r.id < g.redUpTo → (∀ x ∈ rest, g.redUpTo ≤ x.id) → r.faulted = false → redBehind s g r = false →
    let at_ := xlate s g.core g.ctx (rootOf s g) r.addr .w
    let drains (t : State) : Prop := exec (.memoryAccessPerformed (.drain gid) resp) s =
      .next { t with groups := Map.modify t.groups gid (fun g => { g with red := rest }) }
    (∀ pa size prop s1, at_ = .ok (.loc pa size false prop, s1) →
      (taggedIn s1.tags pa r.wid = true → drains (raiseTrap s1 { gid, pos := r.pos, pc := r.pc, act := r.mask, kind := 2, ref := r.id }
        { cause := cBarOverwrite, addr := [(lowLane r.mask, r.addr)] })) ∧
      (taggedIn s1.tags pa r.wid = false → presentIn s1 pa r.wid = true → poisoned s1.poison pa r.wid = false →
        let s2 := applyFrames s1 pa r.wid
        let new := atomNew r.fn r.ty r.wid (leNat (s1.mem.load pa r.wid)) r.data.toNat 0
        ∃ t, drains t ∧ (∀ a, t.mem.byte a = if pa ≤ a ∧ a < pa + r.wid then BitVec.ofNat 8 (new / 256 ^ (a - pa)) else s2.mem.byte a) ∧
          sameButFills s2 { t with mem := s2.mem, poison := s2.poison, cores := s2.cores })) ∧
    (∀ rank s1, at_ = .ok (.peer rank, s1) → lineHeld s gid g rank r.addr.toNat = false → postFull g = false → rankMapped s1 g.ctx rank = true →
      ∃ t g1 q, drains t ∧ t.mem = s1.mem ∧ Map.find t.groups gid = some g1 ∧ g1.acks = g.acks + 1 ∧ Map.find t.fabReqs s1.nextId = some q ∧
        q.posted = true ∧ q.pkt.cls = 2 ∧ q.pkt.dest = rank ∧ q.pkt.addr = r.addr ∧ q.pkt.aop = r.fn ∧ q.pkt.aty = r.ty ∧ q.pkt.awid = r.wid ∧
        q.pkt.payload = r.data.setWidth 512 ∧ q.pkt.returning = false) ∧
    (∀ c d, at_ = .error (c, d) → c ≠ cBarOverwrite → faultsFull s gid = false →
      let t := raiseTrap s { gid, pos := r.pos, pc := r.pc, act := laneBit r.lane, kind := 1, ref := r.id }
        { cause := c, detail := d, lanes := laneBit r.lane, addr := [(r.lane, r.addr)] }
      exec (.memoryAccessPerformed (.drain gid) resp) s =
        .next { t with groups := Map.modify t.groups gid (fun g => { g with red := { r with faulted := true } :: rest }) }))

/-- R293: an application of arrivals and units to a barrier object: where the counts complete no phase they are added
and the phase stays; where they complete k phases the phase goes up by k modulo 2^32 and the excess carries into the
next phase. R296: BARINIT with counts that are allowed writes a valid object of phase 0 with the expected counts and
no arrivals, and tags its line, and those that wait on it test the new phase. R297: BARFREE of a valid object clears VALID.
R298: BARARR of a valid object leaves its arrivals in the log with the RED entries that no earlier flush point drains, and its
split goes on; once the group's earlier stores are performed the arrivals are applied to the object. R299: BARWAIT goes on at
once, refreshed, where the phase is reached, and else holds its split. R300: BARTEST gives the phase and whether it is reached.
The instructions that change an object translate its name for a write, the others for a read (log 32). Nothing but the object, and the bytes of it that the
issuing core has cached, changes; where the guard holds in no lane they pass on. -/
def Obligations.BarrierInstructions : Prop :=
  (∀ (o : BarObj) (a u : Nat), o.phase < 2 ^ 32 → o.rcva < 2 ^ 16 → o.rcvu < 2 ^ 32 → (o.expa ≠ 0 ∨ o.expu ≠ 0) →
    o.rcva + a < 2 ^ 16 → o.rcvu + u < 2 ^ 32 → (o.kind % 4 = 0 → o.expu = 0) →
    let p := o.add a u
    let k := p.turns
    p.advance.phase = (o.phase + k) % 2 ^ 32 ∧
    (o.expa ≠ 0 → p.advance.rcva + k * o.expa = o.rcva + a) ∧
    (o.expu ≠ 0 → o.kind % 4 ≠ 0 → p.advance.rcvu + k * o.expu = o.rcvu + u) ∧
    (o.expa ≠ 0 → p.advance.rcva < o.expa ∨ (o.expu ≠ 0 ∧ p.advance.rcvu < o.expu)) ∧
    (o.expa = 0 → p.advance.rcvu < o.expu)) ∧
  (∀ (s : State) (loc : ObjLoc) (ctx a u : Nat), barValid s loc = true → framesApart s loc →
    (∀ h, h ∈ s.heldApply → h.loc ≠ loc) → heldRed s loc = [] → redPlaced s (.obj loc) = true →
    barRd (applyObj s loc ctx a u .none) loc = ((barRd s loc).add a u).advance) ∧
  (∀ (s : State) (f : EFmt) (c : Iss) (i : Instr), i ∈ barrierInstrs f → issuer s f.r.g = some c → c.on = 0 → completesAs i s c c.g) ∧
  ((∀ (s s1 : State) (f : EFmt) (c : Iss) (loc : ObjLoc) (a u : Nat), issuer s f.r.g = some c → c.on ≠ 0 →
    c.g.holds c.sp.word (.barinit f) = false → c.barCounts f = .ok (a, u) → a < 2 ^ 16 → u < 2 ^ 32 →
    ¬ (f.efn.toNat % 4 = 0 ∧ u ≠ 0) → ¬ (a = 0 ∧ u = 0) →
    c.barObject s .w (c.g.rdS c.fc f.bar.toNat) false = .ok (loc, s1) → mortValid s1 loc = false → framesApart s1 loc →
    (∀ n off, loc = .team n off → (Map.find s1.teams n).isSome = true) →
    ∃ s2 t, exec (.barinit f) s = .next t ∧ t = wakeObj (postDone s2 c (.barinit f) []) loc ∧ objectSet s1 s2 loc 0 32 32 ∧
      barValid t loc = true ∧ objTagged t loc = true ∧
      barRd t loc = { phase := 0, expa := a, rcva := 0, expu := u, rcvu := 0, kind := f.efn.toNat % 4 + 128 }) ∧
  (∀ (s s1 : State) (f : EFmt) (c : Iss) (loc : ObjLoc), issuer s f.r.g = some c → c.on ≠ 0 → namesBarrier .w s s1 c f loc → framesApart s1 loc →
    (c.g.holds c.sp.word (.barfree f) = false → ∃ s2, exec (.barfree f) s = .next (postDone s2 c (.barfree f) []) ∧
      objectSet s1 s2 loc 16 1 17 ∧ barValid (postDone s2 c (.barfree f) []) loc = false) ∧
    (c.g.holds c.sp.word (.bararr f) = false →
      let red := takeRed s c.g (.obj loc) (barScope f.efn.toNat loc).code
      ∃ t e, exec (.bararr f) s = .next { t with barRed := if red = [] then s1.barRed else s1.barRed ++ [(loc, s1.nextId, red)] } ∧
        takesEntry (.bararr f) s1 { c with g := c.g.keepRed } e t ∧ e.op = .arrive loc f.imm.toNat ∧
        e.mask = laneBit (lowLane c.act) ∧ e.done = 0)) ∧
  (∀ (s s1 : State) (f : EFmt) (c : Iss) (loc : ObjLoc), issuer s f.r.g = some c → c.on ≠ 0 → namesBarrier .r s s1 c f loc →
    (c.g.holds c.sp.word (.barwait f) = false →
      (phaseReached (barRd s1 loc).phase (c.phaseArg f) = true →
        exec (.barwait f) s = .next (refreshGroup (postDone s1 c (.barwait f) []) c.gid (barScope f.efn.toNat loc).code)) ∧
      (phaseReached (barRd s1 loc).phase (c.phaseArg f) = false → ∃ t, exec (.barwait f) s = .next t ∧
        holdsSplit (.barwait f) s1 c (.phase loc (c.phaseArg f) (barScope f.efn.toNat loc)) t)) ∧
    (c.g.holds c.sp.word (.bartest f) = false →
      let ok := phaseReached (barRd s1 loc).phase (c.phaseArg f)
      let t := postDone s1 c (.bartest f) [.s f.r.dst.toNat (BitVec.ofNat 64 ((barRd s1 loc).phase + (if ok then 2 ^ 32 else 0)))]
      exec (.bartest f) s = .next (if ok then refreshGroup t c.gid (barScope f.efn.toNat loc).code
        else { t with groups := Map.modify t.groups c.gid (fun g => g.demote c.pos) }))) ∧
  (∀ (s : State) (gid l n : Nat) (g : Group) (e : Entry) (f : EFmt) (loc : ObjLoc) (resp : Line), Map.find s.groups gid = some g →
    g.entries.find? (fun x => x.id == e.id) = some e → e.op = .arrive loc n → e.instr = .bararr f → e.over = false → e.sent = 0 →
    e.fault = 0 → storesDone s gid g e.id (barScope f.efn.toNat loc).code = true → redDrained g e.id = true →
    (∀ x k, x ∈ g.entries → x.id < e.id → x.op = .arrive loc k → x.over = true) →
    exec (.memoryAccessPerformed (.lane gid e.id l) resp) s = .next
      (applyObj (modEntry (published s gid (barScope f.efn.toNat loc).code) gid e.id (fun x => { x with sent := e.mask })) loc g.ctx n 0
        (.arrive gid e.id))))

/-- R311: MORTINIT of an untagged, unpoisoned line of scratchpad writes an empty valid mortise whose
identifier is bits [21:6] of its address, tags the line and answers 0; a line that is a mortise answers 7 and stays.
MORTINIT.FREE of an empty mortise clears VALID and the tag and answers 0; of another it answers 7. Nothing but the line changes;
where the guard holds in no lane every mortise instruction passes on (R62). -/
def Obligations.MortiseInit : Prop :=
  (∀ (s : State) (f : MFmt) (c : Iss) (i : Instr), i ∈ mortiseInstrs f → issuer s f.r.g = some c → c.on = 0 → completesAs i s c c.g) ∧
  (∀ (s s1 : State) (f : MFmt) (c : Iss) (pa : Nat), issuer s f.r.g = some c → c.on ≠ 0 →
    let va := c.g.rdS c.fc f.r.a.toNat + mOffset f false
    (c.g.holds c.sp.word (.mortinit f) = false → c.mortise s .w f false = .ok (pa, s1) → lineHasBar s1 (.phys pa) = false →
      (mortValid s1 (.phys pa) = true → exec (.mortinit f) s = .next (postDone s1 c (.mortinit f) (outS f 7))) ∧
      (mortValid s1 (.phys pa) = false → pa % 64 = 0 → framesApart s1 (.phys pa) → ∃ s2,
        exec (.mortinit f) s = .next (postDone s2 c (.mortinit f) (outS f 0)) ∧ objectSet s1 s2 (.phys pa) 0 64 64 ∧
        mortValid s2 (.phys pa) = true ∧ pa / 64 ∈ s2.tags ∧
        mortRd s2 pa = { id := bits va 21 6, state := 1, turn := 0, tail := 0, count := 0, aband := 0, head := 0xFFFF,
                         last := 0xFFFF })) ∧
    (c.g.holds c.sp.word (.mortinitFree f) = false → c.mortise s .w f true = .ok (pa, s1) →
      let m := mortRd s1 pa
      ((m.count ≠ 0 ∨ m.aband ≠ 0 ∨ m.adv = true) →
        exec (.mortinitFree f) s = .next (postDone s1 c (.mortinitFree f) (outS f 7))) ∧
      (m.count = 0 → m.aband = 0 → m.adv = false → framesApart s1 (.phys pa) → ∃ s2,
        exec (.mortinitFree f) s = .next (postDone s2 c (.mortinitFree f) (outS f 0)) ∧ objectSet s1 s2 (.phys pa) 2 1 16 ∧
        mortValid s2 (.phys pa) = false ∧ pa / 64 ∉ s2.tags)))

/-- R309, R312, R314, R315: MORTACQ appends the issuer's place with the tail's sequence number, as the holder where
the queue is empty, and answers its peg, or FFFFFFFFH with no lane set where the links are all in use; PEGGIVE and PEGSWAP of
a peg that names no place answer 3, of a place another group holds 4; PEGGIVE answers 5 where it names no group and otherwise
rebinds the place; PEGSWAP answers 1 where a place has the turn, 2 where the second is not behind the first, and otherwise
exchanges the two in queue order. -/
def Obligations.MortiseQueue : Prop :=
  ∀ (s s1 : State) (f : MFmt) (c : Iss) (pa : Nat), issuer s f.r.g = some c → c.on ≠ 0 → c.mortise s .w f true = .ok (pa, s1) →
    let q := loadMq s1 pa
    let set (b : Bool) : List RegWrite := (lanesOf c.act).map (fun l => RegWrite.p f.r.b.toNat l b)
    (c.g.holds c.sp.word (.mortacq f) = false → ∀ i, freeLink s1 q = some i → c.g.core < 256 → c.g.slot < 1024 → c.g.ctx < 64 →
      let only := q.m.held = false ∧ q.m.adv = false ∧ q.order = []
      ∃ q', exec (.mortacq f) s = .next (postDone (c.mortSeen (storeMq s1 q') pa) c (.mortacq f) (outS f (q.m.id * 2 ^ 16 + q.m.tail) ++ set true)) ∧
        q'.pa = pa ∧ q'.order = q.order ++ [i] ∧ heldBy c.g (q'.link i) = true ∧ lkSeq (q'.link i) = q.m.tail ∧
        (only → lkSt (q'.link i) = 2 ∧ q'.m.held = true ∧ q'.m.turn = q.m.tail) ∧
        (¬ only → lkSt (q'.link i) = 1 ∧ q'.m.held = q.m.held ∧ q'.m.turn = q.m.turn) ∧
        (∀ j, j ≠ i → lkSetNext (q'.link j) 0 = lkSetNext (q.link j) 0) ∧
        q'.m.id = q.m.id ∧ q'.m.adv = q.m.adv ∧ q'.m.aband = q.m.aband ∧
        q'.m.tail = (q.m.tail + 1) % 0xFFFF ∧ q'.m.count = q.m.count + 1 ∧ q'.m.last = i ∧
        (pa % 64 = 0 → framesApart s1 (.phys pa) → q.m.count < 0xFFFF → loadMq (storeMq s1 q') pa =
          { q' with order := queueFrom q'.links 16384 q'.m.head })) ∧
    (c.g.holds c.sp.word (.mortacq f) = false → freeLink s1 q = none →
      exec (.mortacq f) s = .next (postDone s1 c (.mortacq f) (outS f 0xFFFFFFFF ++ set false))) ∧
    (c.g.holds c.sp.word (.peggive f) = false →
      let answers (n : Nat) (t : State) : Prop := exec (.peggive f) s = .next (postDone t c (.peggive f) (outS f n))
      (q.find (c.peg f.r.b) = none → answers 3 s1) ∧
      (∀ i, q.find (c.peg f.r.b) = some i → heldBy c.g (q.link i) = false → answers 4 s1) ∧
      (∀ i, q.find (c.peg f.r.b) = some i → heldBy c.g (q.link i) = true →
        (groupNamed s1 c.g (c.g.rdS c.fc f.r.c.toNat) = none → answers 5 s1) ∧
        ∀ h, groupNamed s1 c.g (c.g.rdS c.fc f.r.c.toNat) = some h →
          answers 0 (c.mortSeen (storeMq s1 { q with links := Map.set 0 q.links i (mkLink (lkSeq (q.link i)) (lkSt (q.link i))
            (lkNext (q.link i)) h.core h.slot h.ctx) }) pa))) ∧
    (c.g.holds c.sp.word (.pegswap f) = false →
      let answers (n : Nat) (t : State) : Prop := exec (.pegswap f) s = .next (postDone t c (.pegswap f) (outS f n))
      ((q.find (c.peg f.r.b) = none ∨ q.find (c.peg f.r.c) = none) → answers 3 s1) ∧
      (∀ i j, q.find (c.peg f.r.b) = some i → q.find (c.peg f.r.c) = some j →
        let turn := lkSt (q.link i) = 2 ∨ lkSt (q.link j) = 2
        let behind := j ∈ (q.order.dropWhile (fun x => x != i)).drop 1
        (heldBy c.g (q.link i) = false → answers 4 s1) ∧
        (heldBy c.g (q.link i) = true → turn → answers 1 s1) ∧
        (heldBy c.g (q.link i) = true → ¬ turn → ¬ behind → answers 2 s1) ∧
        (heldBy c.g (q.link i) = true → ¬ turn → behind → answers 0 (c.mortSeen (storeMq s1 (q.reorder (swapIn q.order i j))) pa))))

/-- R313: PEGWAIT on a place that holds the turn answers 0 at once, on no place 3, refreshed where it acquires, and else holds
its split. R309, R316, R317: PEGDROP and MORTREL answer 3 for no place, 4 for a place that another group holds, MORTREL 6
for one that has not the turn, and else 0, the place abandoned or released; with a release that is not published yet they wait
in the log. R316, R317: a waiting place is abandoned: it stays in the queue, counted as abandoned; a place that holds is retired,
and the first place left takes the turn. One step of the background skip frees an abandoned place at the head, and gives the turn
to one that is not. -/
def Obligations.PegInstructions : Prop :=
  (∀ (s s1 : State) (f : MFmt) (c : Iss) (pa : Nat), issuer s f.r.g = some c → c.on ≠ 0 → c.mortise s .r f true = .ok (pa, s1) →
    let q := loadMq s1 pa
    (c.g.holds c.sp.word (.pegwait f) = false →
      let answers (n : Nat) : Prop :=
        let t := postDone s1 c (.pegwait f) (outS f n)
        exec (.pegwait f) s = .next (if f.ord = .acq then refreshGroup t c.gid f.scope.code else t)
      (q.find (c.peg f.r.b) = none → answers 3) ∧
      (∀ i, q.find (c.peg f.r.b) = some i → lkSt (q.link i) = 2 → answers 0) ∧
      (∀ i, q.find (c.peg f.r.b) = some i → lkSt (q.link i) ≠ 2 → ∃ t, exec (.pegwait f) s = .next t ∧
        holdsSplit (.pegwait f) s1 c (.peg pa (lkSeq (q.link i)) s1.nextId (if f.ord = .acq then some f.scope else none)) t))) ∧
  (∀ (s s1 : State) (f : MFmt) (c : Iss) (pa : Nat), issuer s f.r.g = some c → c.on ≠ 0 → c.mortise s .w f true = .ok (pa, s1) →
    let q := loadMq s1 pa
    (∀ (i : Instr) (drop : Bool), (i = .pegdrop f ∧ drop = true ∨ i = .mortrel f ∧ drop = false) →
      c.g.holds c.sp.word i = false →
      (f.ord = .rel → storesDone s1 c.gid c.g s1.nextId f.scope.code = false → ∃ e t, exec i s = .next t ∧
        takesEntry i s1 c e t ∧ e.op = .mortise pa (c.peg f.r.b) drop ∧ e.done = 0) ∧
      ((f.ord = .rel → storesDone s1 c.gid c.g s1.nextId f.scope.code = true) →
        let s2 := released s1 c.gid i
        let answers (n : Nat) : Prop := exec i s = .next (postDone s2 c i (outS f n))
        (q.find (c.peg f.r.b) = none → answers 3) ∧
        (∀ k, q.find (c.peg f.r.b) = some k → heldBy c.g (q.link k) = false → answers 4) ∧
        (∀ k, q.find (c.peg f.r.b) = some k → heldBy c.g (q.link k) = true → drop = false → lkSt (q.link k) ≠ 2 → answers 6) ∧
        (∀ k, q.find (c.peg f.r.b) = some k → heldBy c.g (q.link k) = true → (drop = true ∨ lkSt (q.link k) = 2) →
          ∃ g', Map.find (dropPlace s2 q k).groups c.gid = some g' ∧
            exec i s = .next (postDone (objSeen (dropPlace s2 q k) c.g.core (.phys pa) 16) { c with g := g' } i (outS f 0)))))) ∧
  (∀ (s : State) (q : MQ) (k : Nat), placesApart q → k ∈ q.order →
    (lkSt (q.link k) = 1 → ∃ q', dropPlace s q k = wakePegs (storeMq s q') q.pa (lkSeq (q.link k)) 3 ∧ q'.order = q.order ∧
      lkSt (q'.link k) = 3 ∧ q'.m.count = q.m.count - 1 ∧ q'.m.aband = q.m.aband + 1 ∧ ∀ j, j ≠ k → q'.link j = q.link j) ∧
    (lkSt (q.link k) ≠ 1 → dropPlace s q k = storeTurn s (q.release k)) ∧
    (∀ i rest, q.order = k :: i :: rest → lkSt (q.link i) ≠ 3 → (q.release k).order = i :: rest ∧ lkSt ((q.release k).link i) = 2 ∧
      (q.release k).m.turn = lkSeq (q.link i) ∧ (q.release k).m.held = true ∧ (q.release k).m.count = q.m.count - 1 ∧
      (q.release k).link k = 0) ∧
    (q.order = [k] → (q.release k).order = [] ∧ (q.release k).m.held = false ∧ (q.release k).m.turn = q.m.tail ∧
      (q.release k).m.count = q.m.count - 1)) ∧
  (∀ (s : State) (pa i : Nat) (rest : List Nat), pa % 64 = 0 → (spDie pa).isSome = true → mortValid s (.phys pa) = true →
    let q := loadMq s pa
    (q.m.adv = false → exec (.mortiseSkipStep pa) s = .next s) ∧
    (q.m.adv = true → q.order = [] → exec (.mortiseSkipStep pa) s = .next (storeTurn s q.turn)) ∧
    (q.m.adv = true → q.order = i :: rest →
      (lkSt (q.link i) = 3 → exec (.mortiseSkipStep pa) s =
        .next (storeMq s { (q.retire i) with m := { (q.retire i).m with aband := (q.retire i).m.aband - 1 } })) ∧
      (lkSt (q.link i) ≠ 3 → exec (.mortiseSkipStep pa) s = .next (storeTurn s q.turn))))

/-- R301: PUBLISH and IFENCE mark a flush point of the group's RED entries and hold their split until those are drained and
the group's stores are performed at the scope, then it goes on; with nothing outstanding they complete at once, IFENCE discarding
the context's fetched lines on the core. R320: REFRESH at cluster scope or wider invalidates the core's far-read cache, which no
line asked for before it fills. -/
def Obligations.PublishRefresh : Prop :=
  (∀ (s : State) (f : MFmt) (c : Iss), issuer s f.r.g = some c →
    (c.on = 0 → completesAs (.publish f) s c c.g ∧ completesAs (.ifence f) s c c.g ∧ completesAs (.refresh f) s c c.g) ∧
    (c.on ≠ 0 → c.g.holds c.sp.word (.refresh f) = false →
      exec (.refresh f) s = .next (refreshGroup (postDone s c (.refresh f) []) c.gid f.scope.code)) ∧
    (∀ (i : Instr) (scope : Scope) (fence : Bool), (i = .publish f ∧ scope = f.scope ∧ fence = false ∨
        i = .ifence f ∧ scope = .device ∧ fence = true) → c.on ≠ 0 → c.g.holds c.sp.word i = false →
      (∃ t, holdsSplit i s c (.publish scope s.nextId fence) t ∧ exec i s = .next (stepPublish (flushPoint t c.gid) c.gid)) ∧
      (c.g.red = [] → c.g.entries = [] → c.g.acks = 0 → c.g.held = [] →
        s.frameQ = [] → (∀ r ∈ s.fabReqs, r.2.seen.contains c.gid = false) →
        (∀ x ∈ s.groups, ∀ h ∈ x.2.held, h.seen.contains c.gid = false) → (∀ p sp, Map.find c.g.splits p = some sp → sp.wait = .none) →
        ∃ t g' sp, exec i s = .next t ∧ Map.find t.groups c.gid = some g' ∧ Map.find g'.splits c.pos = some sp ∧
          sp.wait = .none ∧ sp.pc = nextPc c.sp.pc ∧ t.mem = s.mem ∧ t.teams = s.teams ∧ g'.v = c.g.v ∧ g'.s = c.g.s ∧ g'.p = c.g.p ∧
          (fence = true → (Map.get Core.reset t.cores c.g.core).icache.all (fun l => lineCtx l.1 != c.g.ctx) = true ∧
            (sp.entered = false → sp.line = none))))) ∧
  (∀ (s : State) (gid pos upTo : Nat) (g : Group) (sp : Split) (scope : Scope) (fence : Bool), Map.find s.groups gid = some g →
    Map.find g.splits pos = some sp → sp.wait = .publish scope upTo fence →
    (publishOk s gid g scope upTo = true → ∃ g' sp', Map.find (stepPublish s gid).groups gid = some g' ∧
      Map.find g'.splits pos = some sp' ∧ sp'.wait = .none ∧ sp'.pc = sp.pc ∧ sp'.mask = sp.mask) ∧
    (publishOk s gid g scope upTo = false → (∀ p q, Map.find g.splits p = some q → p ≠ pos → q.wait = .none) →
      (g.splits.map Prod.fst).Nodup → stepPublish s gid = s)) ∧
  (∀ (s : State) (core scope : Nat), (scope < 2 → refreshAt s core scope = s) ∧
    (2 ≤ scope → (Map.get Core.reset (refreshAt s core scope).cores core).far = [] ∧
      (Map.get Core.reset (refreshAt s core scope).cores core).farPast = [] ∧ (∀ r, r ∈ (refreshAt s core scope).fabReqs → r.2.core = core → r.2.fresh = false) ∧
      { (refreshAt s core scope) with cores := s.cores, fabReqs := s.fabReqs } = s))

/-- R303, R304: GRIDARR of a group with one live split and no deferred side arrives at its launch's barrier of its
own count: the split is held, the count goes up, and the group's RED entries that no earlier flush point drains are held for
the completion. Otherwise it traps ILLEGAL_INSTR subcode 4. A barrier whose members have all arrived alike, with no RED entries
left, completes: every member's split goes on. R304, R341: a domain barrier's completion of a peer, keyed by the job, the rank and k, is
remembered once for a job held here; of another job it is dropped and counted (log entry 35, DEDUCED). -/
def Obligations.GridArrival : Prop :=
  (∀ (s : State) (f : SFmt) (c : Iss), issuer s f.r.g = some c → c.on = 0 → completesAs (.gridarr f) s c c.g) ∧
  (∀ (s : State) (f : SFmt) (c : Iss), issuer s f.r.g = some c → c.on ≠ 0 →
    ((1 < c.g.splits.length ∨ c.g.recs.any JoinRec.d = true) → trapsAs (.gridarr f) s c { cause := cIllegal, detail := 4 }) ∧
    (c.g.splits.length ≤ 1 → c.g.recs.any JoinRec.d = false → ∃ t g' sp, exec (.gridarr f) s = .next t ∧
      Map.find t.groups c.gid = some g' ∧ g'.gridCount = c.g.gridCount + 1 ∧
      g'.red = c.g.red.filter (fun r => decide (r.id < c.g.redUpTo)) ∧
      Map.find g'.splits c.pos = some sp ∧ sp.pc = nextPc c.sp.pc ∧ sp.mask = c.sp.mask ∧
      sp.wait = .grid c.g.gridCount ((Scope.ofCode f.fn.toNat).getD .cluster) s.nextId c.sp.pc ∧
      { g' with gridCount := c.g.gridCount, red := c.g.red, splits := c.g.splits } = c.g ∧
      (∃ b, b ∈ t.gridBars ∧ b.launch = launchOf s c.g ∧ b.k = c.g.gridCount ∧
        ∀ r ∈ takeRed s c.g (.grid (launchOf s c.g) c.g.gridCount) ((Scope.ofCode f.fn.toNat).getD .cluster).code, r ∈ b.red) ∧
      { t with groups := s.groups, gridBars := s.gridBars } = s ∧
      ∀ k, k ≠ c.gid → Map.find t.groups k = Map.find s.groups k)) ∧
  (∀ (s : State) (b : GridBar) (a : Nat × Scope) (m : Nat) (g : Group),
    findBar s b.launch b.k = some b → a ∈ b.arrived → a.1 ∉ b.bad → gridFull s b a = true → a.2 ≠ .domain → b.red = [] →
    redPlaced s (.grid b.launch b.k) = true → m ∈ membersOf s b.launch a.1 a.2 → Map.find s.groups m = some g →
    ∃ g', Map.find (gridTryOne s b.launch b.k a).groups m = some g' ∧ g'.v = g.v ∧ g'.s = g.s ∧ g'.p = g.p ∧
      ∀ p sp, Map.find g.splits p = some sp → ∃ sp', Map.find g'.splits p = some sp' ∧
        (match sp.wait with | .grid _ _ _ _ => sp' = { sp with wait := .none } | _ => sp' = sp)) ∧
  (∀ (s : State) (job rank k : Nat),
    (linked s = true → ctxOfJob s job = none → exec (.domainBarrierStep job rank k) s = .next { s with fabErrs := s.fabErrs + 1 }) ∧
    (linked s = true → ctxOfJob s job ≠ none → ∃ t, exec (.domainBarrierStep job rank k) s = .next t ∧
      (∀ x, x ∈ t.domainArr ↔ x = (job, rank, k) ∨ x ∈ s.domainArr) ∧ { t with domainArr := s.domainArr } = s))

/-- R171, R192, R194: PDSET sets the extents, format, foldings and base of a descriptor and clears the rest;
PDSET.EDGE sets its edge constant; PDSET.DIM sets extent and stride of one outer dimension, makes it the last and
clears those above; PDSET.LIKE copies a descriptor but for base and foldings; PDGET reads a word; other descriptors
and all other state stay. -/
def Obligations.PlaneDescriptors : Prop :=
  ∀ (s : State) (f : PFmt) (c : Iss), issuer s f.r.g = some c → c.on ≠ 0 → (c.grid s).isSome = true →
    let d := f.r.dst.toNat
    let kept (g' : Group) : Prop := sameButPd c.g g' ∧ ∀ k, k ≠ d → ∀ w, w < 4 → g'.rdPd k w = c.g.rdPd k w
    (∃ g', completesAs (.pdset f) s c g' ∧ kept g' ∧
      heldDesc g' d =
        { p := f.imm.toNat % 2 ^ 16, q := f.imm.toNat / 2 ^ 16, fmt := f.amt.toNat % 16, fy := f.amt.getLsbD 4,
          fx := f.amt.getLsbD 5, base := f.r.a.toNat, nd := 0, edgec := 0, ext := [0, 0, 0, 0], str := [0, 0, 0, 0],
          clean := true, mask := false }) ∧
    (∃ g', completesAs (.pdsetEdge f) s c g' ∧ kept g' ∧
      heldDesc g' d = { heldDesc c.g d with
        edgec := if f.edge = .scal then (c.g.rdS c.fc f.r.c.toNat).setWidth 32 else f.imm }) ∧
    (∃ g', completesAs (.pdsetDim f) s c g' ∧ kept g' ∧
      let n := f.imm.toNat / 2 ^ 24 % 4
      let o := heldDesc c.g d
      let x := heldDesc g' d
      x.p = o.p ∧ x.q = o.q ∧ x.fmt = o.fmt ∧ x.fy = o.fy ∧ x.fx = o.fx ∧ x.base = o.base ∧ x.edgec = o.edgec ∧ x.nd = n + 1 ∧
      (∀ k, k < n → x.ext.getD k 0 = o.ext.getD k 0 ∧ x.str.getD k 0 = o.str.getD k 0) ∧
      x.ext.getD n 0 = f.imm.toNat % 2 ^ 9 ∧ x.str.getD n 0 = f.imm.toNat / 2 ^ 16 % 2 ^ 8 ∧
      (∀ k, n < k → k < 4 → x.ext.getD k 0 = 0 ∧ x.str.getD k 0 = 0)) ∧
    (∃ g', completesAs (.pdsetLike f) s c g' ∧ kept g' ∧
      heldDesc g' d = { heldDesc c.g f.r.a.toNat with
        base := f.r.b.toNat, fy := f.amt.getLsbD 4, fx := f.amt.getLsbD 5 }) ∧
    (∃ g', completesAs (.pdget f) s c g' ∧ sameButS c.g g' ∧
      sWritten c.g g' d (c.g.rdPd f.r.a.toNat (f.imm.toNat % 4)))

/-- R205: PEXTR of an element within the extents writes its value, or EDGEC where this group holds no such element,
into an s register. R169, R174, R179, R180, R190: a plane instruction on one plane that is not collective completes
in the issuing group: in every active on-grid lane each register of the destination plane takes its elements, padding
zero; every other register and all other state is as it was, but for FPF; with .SET every outer plane in order. A
group that is no member passes on. -/
def Obligations.PlaneInstructions : Prop :=
  (∀ (s : State) (f : PFmt) (c : Iss) (t : Team), issuer s f.r.g = some c → c.on ≠ 0 → c.g.poison = [] → c.g.planeRegs = [] →
    Map.find s.teams c.g.team = some t → 32 * c.g.idx < t.gridH * t.gridW →
    planeCheck 0x16 f t.gridH t.gridW c.g.budget (descs 0x16 f c) = .ok () →
    let d := descs 0x16 f c 1
    let i := f.imm.toNat % 2 ^ 16
    let j := f.imm.toNat / 2 ^ 16
    ∃ g', completesAs (.pextr f) s c g' ∧ sameButS c.g g' ∧ sWritten c.g g' f.r.dst.toNat (BitVec.ofNat 64
      (if i < d.p ∧ j < d.q then (ownElem c f t.gridH t.gridW d i j).getD (d.edgec.toNat % 2 ^ d.bits)
       else d.edgec.toNat % 2 ^ d.bits))) ∧
  (∀ (s : State) (f : PFmt) (c : Iss) (t : Team) (i : Instr) (op : Nat), (i, op) ∈ planeInstrs f → issuer s f.r.g = some c →
    (Map.find s.teams c.g.team = some t → t.gridH * t.gridW ≤ 32 * c.g.idx → completesAs i s c c.g) ∧
    (planeAllowed s c op f t → planeCollective op f t.gridH t.gridW (descs op f c) = false → f.set = false →
      let h := t.gridH
      let w := t.gridW
      let d := descs op f c 0
      let src (n a b : Nat) : Option Nat := ownElem c f h w (descs op f c n) a b
      ∃ g', completesAs i s c g' ∧ sameButV c.g g' ∧
        ∀ r l, l < 32 → Map.get 0 g'.v (32 * r + l) =
          if d.base ≤ r ∧ r < d.base + d.regs h w ∧ c.on.getLsbD l = true ∧ c.g.exited.getLsbD l = false ∧
            32 * c.g.idx + l < h * w
          then (destWord d h w (32 * c.g.idx + l) (r - d.base) (Map.get 0 (c.g.viewV c.fc) (32 * r + l))
            (planeElem op f (descs op f c) src (c.arrival f).fill)).1
          else Map.get 0 c.g.v (32 * r + l)) ∧
    (planeAllowed s c op f t → planeCollective op f t.gridH t.gridW (descs op f c) = false → f.set = true →
      ∃ g', completesAs i s c g' ∧ sameButV c.g g' ∧
        g' = (planeRun op f t.gridH t.gridW (descs op f c) [{ arr := c.arrival f, outs := [], fl := 0 }]).foldl
          (fun g v => v.apply g) c.g))

/-- R176, R177: the fold tree over a line of up to 65,536 integers under ADD gives their sum modulo 2^w, wherever
lines hold neutral positions. R175, R195: element (i, j) of a shift along X by a is the source's (i, j − a), of a
rotation its (i, (j − a) mod Q), of a spread its (i, N); where a shift reads beyond the extents, the edge mode gives
the fill, the nearest element or the wrapped one. -/
def Obligations.PlaneMoves : Prop :=
  (∀ (t : Ty) (l : List (Option Nat)), t.isInt = true → l.length ≤ 2 ^ 16 → (∀ x, some x ∈ l → x < 2 ^ t.bits) →
    ((foldTree (combine .add t) 17 l).1.getD 0) = (l.map (fun x => x.getD 0)).sum % 2 ^ t.bits) ∧
  (∀ (f : PFmt) (d : PDesc) (src : Nat → Nat → Option Nat) (fill : Word) (i j : Nat), f.yAxis = false → i < d.p → j < d.q →
    (∀ x y, x < d.p → y < d.q → (src x y).isSome = true) →
    let a := toSigned 8 f.amt.toNat
    let at_ (y : Int) : Nat := (src i y.toNat).getD 0
    (0 ≤ (j : Int) - a → (j : Int) - a < d.q → moveElem 0 f d src fill i j = at_ ((j : Int) - a)) ∧
    ((j : Int) - a < 0 → f.edge = .rep → moveElem 0 f d src fill i j = at_ 0) ∧
    ((d.q : Int) ≤ (j : Int) - a → f.edge = .rep → moveElem 0 f d src fill i j = at_ (d.q - 1)) ∧
    (((j : Int) - a < 0 ∨ (d.q : Int) ≤ (j : Int) - a) → f.edge = .wrap →
      moveElem 0 f d src fill i j = at_ (((j : Int) - a) % d.q)) ∧
    (((j : Int) - a < 0 ∨ (d.q : Int) ≤ (j : Int) - a) → f.edge = .zero → moveElem 0 f d src fill i j = 0) ∧
    (((j : Int) - a < 0 ∨ (d.q : Int) ≤ (j : Int) - a) → f.edge = .desc →
      moveElem 0 f d src fill i j = d.edgec.toNat % 2 ^ d.bits) ∧
    moveElem 1 f d src fill i j = at_ (((j : Int) - a) % d.q) ∧
    (f.imm.toNat < d.q → moveElem 2 f d src fill i j = at_ f.imm.toNat))

/-- R181, R182: a collective plane instruction that agrees with the arrivals before it holds its split and joins its
team's operation under the group's next sequence number. R182, R184: when every member has arrived or exited and the context
runs, the operation completes: every arrived split goes on at its next slot, and in the lanes of each arrived group the registers
of the destination plane take its elements, from the registers as each group supplied them, padding zero; every other register
and all other state is as it was, but for FPF; with .SET every outer plane in order. -/
def Obligations.PlaneCollective : Prop :=
  (∀ (s : State) (f : PFmt) (c : Iss) (t : Team) (i : Instr) (op : Nat), (i, op) ∈ planeInstrs f → issuer s f.r.g = some c →
    planeAllowed s c op f t → planeCollective op f t.gridH t.gridW (descs op f c) = true →
    let k := planeNext t c.g
    let pd := c.pdWords f (planeFields op f)
    (∀ o0, Map.find t.planeOps k = some o0 → o0.bad.contains c.g.idx = false ∧
      (o0.arrivals ≠ [] → planeSig o0.instr = planeSig i ∧ o0.pd = pd)) →
    let before := ((Map.find t.planeOps k).map PlaneOp.arrivals).getD []
    ∃ u g' t' o, exec i s = .next u ∧ Map.find u.groups c.gid = some g' ∧ g'.planeSeq = k + 1 ∧
      Map.find g'.splits c.pos = some { c.sp with wait := .plane k ((descs op f c 0).uses t.gridH t.gridW f.set) } ∧
      (∀ p, p ≠ c.pos → Map.find g'.splits p = Map.find c.g.splits p) ∧
      { g' with planeSeq := c.g.planeSeq, splits := c.g.splits } = c.g ∧
      Map.find u.teams c.g.team = some t' ∧ { t' with planeOps := t.planeOps } = t ∧
      Map.find t'.planeOps k = some o ∧ o.arrivals = before ++ [c.arrival f] ∧ o.pd = pd ∧ planeSig o.instr = planeSig i ∧
      (∀ j, j ≠ k → Map.find t'.planeOps j = Map.find t.planeOps j) ∧
      { u with groups := s.groups, teams := s.teams } = s ∧ (∀ j, j ≠ c.gid → Map.find u.groups j = Map.find s.groups j) ∧
      ∀ j, j ≠ c.g.team → Map.find u.teams j = Map.find s.teams j) ∧
  (∀ (s : State) (team seq : Nat) (t : Team) (o : PlaneOp) (i : Instr) (op : Nat) (f : PFmt), (i, op) ∈ planeInstrs f →
    Map.find s.teams team = some t → Map.find t.planeOps seq = some o → o.instr = i → o.arrivals ≠ [] → teamRuns s t = true →
    (∀ n, n ∈ planeMembers t → (∃ a, a ∈ o.arrivals ∧ a.idx = n) ∨ planeExited s team n = true) →
    (o.arrivals.map PlaneArrival.gid).Nodup →
    let h := t.gridH
    let w := t.gridW
    let desc := descOf o.pd (planeFields op f)
    let views : List PView := o.arrivals.map (fun a => { arr := a, outs := [], fl := 0 })
    ∃ u t', exec (.collectivePlaneComplete team seq) s = .next u ∧ Map.find u.teams team = some t' ∧
      Map.find t'.planeOps seq = none ∧ (∀ j, j ≠ seq → Map.find t'.planeOps j = Map.find t.planeOps j) ∧
      { t' with planeOps := t.planeOps } = t ∧ { u with groups := s.groups, teams := s.teams } = s ∧
      (∀ j, j ≠ team → Map.find u.teams j = Map.find s.teams j) ∧
      (∀ j, (∀ a, a ∈ o.arrivals → a.gid ≠ j) → Map.find u.groups j = Map.find s.groups j) ∧
      ∀ a g sp, a ∈ o.arrivals → Map.find s.groups a.gid = some g → Map.find g.splits a.pos = some sp →
        ∃ g', Map.find u.groups a.gid = some g' ∧ Map.find g'.splits a.pos = some { sp.fall with wait := .none } ∧
          (∀ p, p ≠ a.pos → Map.find g'.splits p = Map.find g.splits p) ∧ sameButV g { g' with splits := g.splits } ∧
          (f.set = false → ∀ r l, l < 32 → Map.get 0 g'.v (32 * r + l) =
            if (desc 0).base ≤ r ∧ r < (desc 0).base + (desc 0).regs h w ∧ a.act.getLsbD l = true ∧ a.exited.getLsbD l = false ∧
              g.exited.getLsbD l = false ∧ 32 * a.idx + l < h * w
            then (destWord (desc 0) h w (32 * a.idx + l) (r - (desc 0).base) (Map.get 0 a.v (32 * r + l))
              (planeElem op f desc (fun n x y => srcElem views h w (desc n) (desc n).base x y) a.fill)).1
            else Map.get 0 g.v (32 * r + l)) ∧
          (f.set = true → ∃ v, v ∈ planeRun op f h w desc views ∧ v.arr.gid = a.gid ∧ g'.v = (v.apply g).v))

/-- R216, R233, R235: MZERO, MFILL, MDRAIN, ACCALLOC and ACCFREE that pass their checks are accepted as requests for
their tiles, MFILL with its registers as read at issue; with no active lane they pass on, and ACCALLOC and ACCFREE of
an empty mask do too. -/
def Obligations.TileRequests : Prop :=
  ∀ (s : State) (f : EFmt) (c : Iss) (i : Instr) (op : MOp) (tiles : BitVec 16), (i, op, tiles) ∈ tileInstrs f →
    issuer s f.r.g = some c → requestFree s c f i →
    (c.on = 0 → completesAs i s c c.g) ∧
    ((i = .accalloc f ∨ i = .accfree f) → f.imm = 0 → completesAs i s c c.g) ∧
    (c.on ≠ 0 → tiles ≠ 0 → ∃ t q, requestAccepted i s c t q ∧ q.op = op ∧ q.tiles = tiles ∧ q.rows = c.on ∧
      (op = .fill → ∀ k l, k < 32 → l < 32 → c.g.exited.getLsbD l = false →
        Map.get 0 q.src (32 * k + l) = c.g.rdV c.fc (f.r.a.toNat + k) l))

/-- R222, R228, R229, R231, R234: MMA.S, MSPMM, MMA.Q and MBYPASS whose records are current and of the format's
shape, whose columns lie in the rows and which pass the other checks are accepted as requests; a record that is not
current traps ILLEGAL_INSTR subcode 4. -/
def Obligations.PassRequests : Prop :=
  ∀ (s : State) (f : EFmt) (c : Iss) (a : MRec), issuer s f.r.g = some c → ownCheck s c.g = .ok () →
    (c.record s f.pair.toNat = .ok a → a.fmt = passFmt f.efn.toNat → passInService s f.efn.toNat = true →
      barAlign c f = .ok () →
      (c.on ≠ 0 → passRange a f.efn.toNat f.imm.toNat = true → f.efn ≠ 6 → matHold s c (.mmaS f) = .ok () →
        ∃ t q, requestAccepted (.mmaS f) s c t q ∧ q.op = .mma ∧ q.tiles = tileBit f.r.dst ∧ q.rows = c.on ∧
          q.resvA = some a.id ∧ q.ofs = f.imm.toNat) ∧
      (c.on ≠ 0 → 1 ≤ f.imm.toNat % 256 → f.imm.toNat % 256 ≤ 64 →
        f.imm.toNat % 256 * (passSize f.efn.toNat + 2) ≤ a.rstr → matHold s c (.mspmm f) = .ok () →
        ∃ t q, requestAccepted (.mspmm f) s c t q ∧ q.op = .spmm ∧ q.tiles = tileBit f.r.dst ∧ q.rows = c.on ∧
          q.resvA = some a.id ∧ q.e = f.imm.toNat % 256) ∧
      (passRange a f.efn.toNat f.imm.toNat = true → f.efn ≠ 6 → bits (c.g.rdS c.fc f.r.a.toNat) 63 18 = 0 →
        (s.bayAt (coreBay c.g.core)).reqs = [] → matHold s c (.mmaQ f) = .ok () →
        ∃ t q, requestAccepted (.mmaQ f) s c t q ∧ q.op = .gang ∧ q.rows = c.on ∧ q.resvA = some a.id ∧
          ∃ k, q.tag = some (bits (c.g.rdS c.fc f.r.a.toNat) 15 0, bits (c.g.rdS c.fc f.r.a.toNat) 17 16, k)) ∧
      (c.on ≠ 0 → f.efn.toNat < 6 → f.imm.toNat + 32 ≤ a.count f.efn.toNat → matHold s c (.mbypass f) = .ok () →
        ∃ t q, requestAccepted (.mbypass f) s c t q ∧ q.op = .bypass ∧ q.tiles = tileBit f.r.a ∧ q.resvA = some a.id)) ∧
    (c.record s f.pair.toNat = .error (illegal 4) → passInService s f.efn.toNat = true →
      ∀ i, i ∈ [Instr.mmaS f, .mspmm f] → trapsAs i s c { cause := cIllegal, detail := 4 })

/-- R218: MATRIX_GRANT grants the first eligible request of the arbiter's order at this clock with its gang; MATRIX_REQUEST_URGENT
makes a request eligible for 1,024 clocks urgent. R233: a granted MDRAIN reads its tile's rows and under .Z zeroes them (when it
does so is the model's choice, log 43); no other grant changes anything else. R214, R219, R228,
R233, R235: a granted request that is no gang completes: MZERO zeroes the rows of its row set, MFILL and its
broadcast form fill them from registers, MDRAIN writes what it read to the lanes' registers, ACCALLOC zeroes its tiles and
makes them live, ACCFREE makes them not live, and MMA.S and MSPMM add their products; other tiles and rows stay, oc.mat goes down
by one and the request leaves; FPF changes by MBYPASS alone. R234: MBYPASS writes its tile's elements as converted to operand A
of the record, changes no other byte of the buffer and no tile, and raises the flags of the conversions. R229: a complete gang
completes together, each member's tile updated by the B of all four. R230: the MMA.Q that completes a gang whose members differ
in EFN updates no tile; the four leave and each member group's GERR goes up. R232: a request with a barrier name credits the
object 128 bytes or one row for each row written, by its unit kind; a name that leads nowhere leaves a completion origin (log 37). -/
def Obligations.TileEffects : Prop :=
  (∀ (s : State) (bay : Nat),
    (∀ r, (s.bayAt bay).first (s.clk / 10) = some r → ∃ t, exec (.matrixGrant bay) s = .next t ∧
      (∃ q, q ∈ (t.bayAt bay).reqs ∧ q.id = r.id ∧ q.granted = true ∧ q.arrays.length = min 4 r.needs) ∧
      (r.op ≠ .drain → r.op ≠ .drainz → { t with bays := s.bays } = s) ∧
      (r.op = .drain ∨ r.op = .drainz → { t with bays := s.bays, groups := s.groups, cores := s.cores } = s ∧
        (∀ k, k ≠ r.core → t.coreAt k = s.coreAt k) ∧ (∀ k, k ≠ r.gid → Map.find t.groups k = Map.find s.groups k) ∧
        (∀ u m n, m < 32 → n < 32 → (t.coreAt r.core).tile u m n =
          if r.op = .drainz ∧ u = r.tile ∧ r.rows.getLsbD m = true then 0 else (s.coreAt r.core).tile u m n) ∧
        ∀ g e, Map.find s.groups r.gid = some g → g.entries.find? (fun x => x.id == r.entry) = some e →
          ∃ g', Map.find t.groups r.gid = some g' ∧ { g' with entries := g.entries } = g ∧
            g'.entries.find? (fun x => x.id == r.entry) = some { e with outs := drainOuts (s.coreAt r.core) r })) ∧
    (∀ req r k, r ∈ (s.bayAt bay).reqs → r.id = req → r.eligible = some k → k + 1024 ≤ s.clk / 10 →
      ∃ t, exec (.matrixRequestUrgent bay req) s = .next t ∧ { r with urgent := true } ∈ (t.bayAt bay).reqs ∧
        { t with bays := s.bays } = s)) ∧
  (∀ (s : State) (bay req : Nat) (r : MReq) (g : Group),
    (s.bayAt bay).reqs.find? (fun x => x.id == req && x.granted) = some r → r.tag = none → r.bar = none →
    Map.find s.groups r.gid = some g → g.raced = [] →
    let c := s.coreAt r.core
    let t := r.tile
    let b := s.bayAt bay
    ∃ s' g', exec (.matrixRequestComplete bay req) s = .next s' ∧ Map.find s'.groups r.gid = some g' ∧ g'.ocMat = g.ocMat - 1 ∧
      (∀ q, q ∈ (s'.bayAt bay).reqs → q.id ≠ r.id) ∧ s'.mem = s.mem ∧ (∀ k, k ≠ r.core → s'.coreAt k = s.coreAt k) ∧
      (r.op ≠ .bypass → (s'.bayAt bay).buf = b.buf ∧ g'.fpf = g.fpf) ∧
      let c' := s'.coreAt r.core
      ((r.op = .zero ∨ r.op = .fill ∨ r.op = .bcast ∨ ((r.op = .mma ∨ r.op = .spmm) ∧ r.rows ≠ 0)) → t < 16 ∧ c'.acclive = c.acclive ||| (1#16 <<< t) ∧
        ∀ u m n, m < 32 → n < 32 → c'.tile u m n =
          if u = t ∧ r.rows.getLsbD m = true then
            (if r.op = .zero then 0 else if r.op = .fill then Map.get 0 r.src (32 * n + m)
             else if r.op = .bcast then Map.get 0 r.src m
             else passWord b c r (b.bPart r) m n)
          else c.tile u m n) ∧
      (r.op = .bypass → c' = c ∧ (∀ k, g'.fpf.getLsbD k = true ↔ g.fpf.getLsbD k = true ∨
          k < 5 ∧ ∃ m n, m < 32 ∧ n < 32 ∧ (bypassElem r.fmt r.sat (c.tile t m n)).flags.testBit k = true) ∧
        (r.fmt < 6 → r.ofs + 32 ≤ (b.recOf r.resvA).count r.fmt →
          (∀ m n j, m < 32 → n < 32 → j < passSize r.fmt → Map.get 0 (s'.bayAt bay).buf (bypassByte b r m n j) =
            BitVec.ofNat 8 ((bypassElem r.fmt r.sat (c.tile t m n)).bits / 256 ^ j)) ∧
          ∀ a, (∀ m n j, m < 32 → n < 32 → j < passSize r.fmt → a ≠ bypassByte b r m n j) →
            Map.get 0 (s'.bayAt bay).buf a = Map.get 0 b.buf a)) ∧
      (r.op = .drain ∨ r.op = .drainz → c' = c ∧ ∀ e x, g.entries.find? (fun y => y.id == r.entry) = some e → e.outs = drainOuts x r →
        ∀ m n, m < 32 → n < 32 → r.rows.getLsbD m = true → g.exited.getLsbD m = false →
          Map.get 0 g'.v (32 * (r.dst + n) + m) = x.tile t m n) ∧
      (r.op = .alloc → c'.acclive = c.acclive ||| r.tiles ∧
        ∀ u m n, u < 16 → m < 32 → n < 32 → c'.tile u m n = if r.tiles.getLsbD u = true then 0 else c.tile u m n) ∧
      (r.op = .free → c'.acclive = c.acclive &&& ~~~r.tiles ∧
        ∀ u m n, u < 16 → m < 32 → n < 32 → r.tiles.getLsbD u = false → c'.tile u m n = c.tile u m n)) ∧
  (∀ (s : State) (bay req : Nat) (r : MReq),
    let b := s.bayAt bay
    let ms := b.gangOf r
    b.reqs.find? (fun x => x.id == req && x.granted) = some r → (∀ m, m ∈ ms → m.op = .gang ∧ m.bar = none) →
    ∃ s', exec (.matrixRequestComplete bay req) s = .next s' ∧ s'.mem = s.mem ∧ (s'.bayAt bay).buf = b.buf ∧
      (∀ q, q ∈ (s'.bayAt bay).reqs → ∀ m, m ∈ ms → q.id ≠ m.id) ∧
      (∀ gid g, Map.find s.groups gid = some g → ∃ g', Map.find s'.groups gid = some g' ∧
        g'.ocMat = g.ocMat - ms.countP (fun m => m.gid == gid) ∧ g'.fpf = g.fpf ∧ g'.v = g.v ∧ g'.s = g.s ∧ g'.p = g.p) ∧
      ∀ l₁ m l₂, ms = l₁ ++ m :: l₂ → (∀ x, x ∈ l₁ ++ l₂ → x.core ≠ m.core ∨ x.tile ≠ m.tile) → ∀ k n, k < 32 → n < 32 →
        (s'.coreAt m.core).tile m.tile k n =
          if m.rows.getLsbD k = true then passWord b (s.coreAt m.core) m (b.gangB ms m.fmt) k n else (s.coreAt m.core).tile m.tile k n) ∧
  (∀ (s : State) (f : EFmt) (c : Iss) (a : MRec), issuer s f.r.g = some c → ownCheck s c.g = .ok () →
    let bay := coreBay c.g.core
    let w := c.g.rdS c.fc f.r.a.toNat
    let k := (s.bayAt bay).joinGang c.g.ctx (bits w 15 0) (bits w 17 16)
    let ms := (s.bayAt bay).reqs.filter (fun m => match m.tag with | some (_, _, j) => j == k | none => false)
    c.record s f.pair.toNat = .ok a → a.fmt = passFmt f.efn.toNat → passInService s f.efn.toNat = true → barAlign c f = .ok () →
    passRange a f.efn.toNat f.imm.toNat = true → f.efn ≠ 6 → bits w 63 18 = 0 → matHold s c (.mmaQ f) = .ok () →
    ms.length = 3 → (∃ m, m ∈ ms ∧ m.fmt ≠ f.efn.toNat % 8) →
    ∃ t, exec (.mmaQ f) s = .next t ∧ t.cores = s.cores ∧ t.mem = s.mem ∧ (t.bayAt bay).buf = (s.bayAt bay).buf ∧
      (∀ q, q ∈ (t.bayAt bay).reqs → q.id ≠ s.nextId ∧ ∀ m, m ∈ ms → q.id ≠ m.id) ∧
      (∃ g', Map.find t.groups c.gid = some g' ∧ g'.gerr = min 255 (c.g.gerr + 1) ∧
        g'.ocMat = c.g.ocMat + 1 - (ms.countP (fun m => m.gid == c.gid) + 1)) ∧
      ∀ m g, m ∈ ms → m.gid ≠ c.gid → Map.find s.groups m.gid = some g → ∃ g', Map.find t.groups m.gid = some g' ∧
        g'.gerr = min 255 (g.gerr + 1) ∧ g'.ocMat = g.ocMat - ms.countP (fun x => x.gid == m.gid)) ∧
  (∀ (s : State) (bay req off : Nat) (r : MReq) (g : Group) (x : Team),
    (s.bayAt bay).reqs.find? (fun x => x.id == req && x.granted) = some r → r.tag = none → off < 2 ^ 32 → off % 32 = 0 →
    r.bar = some (BitVec.ofNat 64 off) → Map.find s.groups r.gid = some g → Map.find s.teams g.team = some x →
    let loc : ObjLoc := .team g.team off
    ∃ s', exec (.matrixRequestComplete bay req) s = .next s' ∧
      (rowsWritten r = 0 → s'.teams = s.teams) ∧
      (rowsWritten r ≠ 0 → off + 32 ≤ x.memSize → barValid s loc = true → objPoisoned s loc = false →
        (∀ h, h ∈ s.heldApply → h.loc ≠ loc) → heldRed s loc = [] → redPlaced s (.obj loc) = true →
        let o := barRd s loc
        barRd s' loc = (o.add 0 (if o.kind % 4 = 1 then 128 * rowsWritten r else if o.kind % 4 = 2 then rowsWritten r else 0)).advance) ∧
      (rowsWritten r ≠ 0 → x.memSize < off + 32 ∨ barValid s loc = false → g.handler = none →
        s'.teams = s.teams ∧ ∃ o, o ∈ (s'.coreAt g.core).trapq ∧ o.gid = r.gid ∧ o.cause = cPerm ∧ o.detail = 6 ∧ o.kind = 2 ∧ o.ref = r.id))

/-- R221: MRES with well-formed fields completes: where the buffer has a free number and a free run it reserves the lowest run,
which meets no range reserved before, and answers the record with its base, number, generation and VALID 1, current from then on;
else it changes no reservation and answers VALID 0. R222, R223: MREL of a current record is accepted and makes it current no
longer; once no request names it, its number and range are free and its generation goes up. R236: MSTAT answers the fields of the
engine's state. R216: their answers are counted in oc.mat. -/
def Obligations.Reservations : Prop :=
  (∀ (s : State) (f : EFmt) (c : Iss), issuer s f.r.g = some c →
    let bay := coreBay c.g.core
    let b := s.bayAt bay
    let r := mrecOf (c.pair0 f) (c.pair1 f)
    (mresOk (c.pair0 f) (c.pair1 f) = false → trapsAs (.mres f) s c { cause := cIllegal, detail := 4 }) ∧
    (mresOk (c.pair0 f) (c.pair1 f) = true → c.on = 0 → completesAs (.mres f) s c c.g) ∧
    (mresOk (c.pair0 f) (c.pair1 f) = true → c.on ≠ 0 → c.g.holds c.sp.word (.mres f) = false →
      ∃ t b' x0 x1, exec (.mres f) s = .next t ∧ b.reserve c.g.ctx (c.pair0 f) (c.pair1 f) = (b', x0, x1) ∧
        bufferAnswered (.mres f) (s.putBay bay b') c [.s f.pair.toNat x0, .s (f.pair.toNat + 1) x1] t ∧
        { mrecOf x0 x1 with base := r.base, id := r.id, gen := r.gen } = r ∧
        (bit x0 63 = false → b' = b ∧ (mrecOf x0 x1).base = 0 ∧ (mrecOf x0 x1).id = 0 ∧ (mrecOf x0 x1).gen = 0 ∧
          ((∀ n, n < 64 → (Map.find b.resv n).isSome = true) ∨ ∀ a, ¬ runFree b r.len a)) ∧
        (bit x0 63 = true → runFree b r.len (mrecOf x0 x1).base ∧ (∀ a, runFree b r.len a → (mrecOf x0 x1).base ≤ a) ∧
          (mrecOf x0 x1).id < 64 ∧ Map.find b.resv (mrecOf x0 x1).id = none ∧
          b'.current c.g.ctx x0 x1 = some (mrecOf x0 x1) ∧
          (∀ n, n ≠ (mrecOf x0 x1).id → Map.find b'.resv n = Map.find b.resv n) ∧ { b' with resv := b.resv, buf := b.buf } = b)) ∧
    (∀ a, c.record s f.pair.toNat = .ok a → c.on = 0 → completesAs (.mrel f) s c c.g) ∧
    (∀ a, c.record s f.pair.toNat = .ok a → c.on ≠ 0 → c.g.holds c.sp.word (.mrel f) = false →
      ∃ t q, requestAccepted (.mrel f) s c t q ∧ q.op = .release ∧ q.resvA = some a.id ∧
        (t.bayAt bay).current c.g.ctx (c.pair0 f) (c.pair1 f) = none) ∧
    (c.on = 0 → completesAs (.mstat f) s c c.g) ∧
    (c.on ≠ 0 → c.g.holds c.sp.word (.mstat f) = false → ∃ t, exec (.mstat f) s = .next t ∧
      bufferAnswered (.mstat f) s c [.s f.r.dst.toNat (mstatWord s c.g)] t) ∧
    (let w := mstatWord s c.g
     let x := s.coreAt c.g.core
     let own := bit x.aown 6 = true ∧ bits x.aown 5 0 = c.g.ctx
     bits w 6 0 = 64 - b.used ∧ bits w 13 7 = 64 - b.resv.length ∧ bits w 29 14 = longestRun 0 b.ranges ∧ bits w 31 30 = 0 ∧
     (own → bits w 47 32 = x.acclive.toNat ∧ bits w 48 48 = 1) ∧ (¬ own → bits w 47 32 = 0 ∧ bits w 48 48 = 0) ∧
     bits w 55 49 = 0 ∧ bits w 63 56 = min 255 c.g.gerr)) ∧
  (∀ (s : State) (bay req id : Nat) (r : MReq),
    (s.bayAt bay).reqs.find? (fun x => x.id == req && x.op == .release) = some r → r.resvA = some id →
    ((∃ q, q ∈ (s.bayAt bay).reqs ∧ q.op ≠ .release ∧ (q.resvA = some id ∨ q.resvB = some id)) →
      exec (.mrelRelease bay req) s = .next s) ∧
    ((∀ q, q ∈ (s.bayAt bay).reqs → q.op ≠ .release → q.resvA ≠ some id ∧ q.resvB ≠ some id) →
      ∃ t, exec (.mrelRelease bay req) s = .next t ∧ (t.bayAt bay).resv = Map.del (s.bayAt bay).resv id ∧
        Map.find (t.bayAt bay).resv id = none ∧ (∀ x, x ∈ (t.bayAt bay).ranges → x ∈ (s.bayAt bay).ranges) ∧
        Map.get 0 (t.bayAt bay).gens id = (Map.get 0 (s.bayAt bay).gens id + 1) % 2 ^ 16 ∧
        (∀ k, k ≠ id → Map.find (t.bayAt bay).resv k = Map.find (s.bayAt bay).resv k ∧
          Map.get 0 (t.bayAt bay).gens k = Map.get 0 (s.bayAt bay).gens k) ∧
        (∀ q, q ∈ (t.bayAt bay).reqs → q.id ≠ r.id) ∧ { t with groups := s.groups, bays := s.bays } = s ∧
        ∀ g, Map.find s.groups r.gid = some g → ∃ g', Map.find t.groups r.gid = some g' ∧ g'.ocMat = g.ocMat - 1 ∧
          g'.v = g.v ∧ g'.s = g.s ∧ g'.p = g.p ∧ g'.splits = g.splits))

/-- R270: WAITCNT goes on at once where its counter is at most the level, the writes of its copies that are on their way to other
frames the group's own from then on (R324), and else holds its split; it changes no
other state. R54, R242, R269, R271, R272, R278, R282: CPYT with a well-formed pair, a collective one while no other is in flight on
its CGID (R349), GATH and SCAT with rows inside team memory in the lanes where the guard
holds, and GATH.TH with a handle and a reservation that match issue to the core's engine; a
malformed pair traps ILLEGAL_INSTR subcode 4, and a GATH or SCAT row beyond team memory PERM_FAULT detail 4 in its
lanes. -/
def Obligations.CopiesIssue : Prop :=
  (∀ (s : State) (f : EFmt) (c : Iss), issuer s f.r.g = some c →
    (c.on = 0 → completesAs (.waitcnt f) s c c.g) ∧
    (c.on ≠ 0 → c.g.oc f.cc ≤ f.imm.toNat % 256 → ∃ s1, exec (.waitcnt f) s = .next (s1.putG c.gid (c.g.advance c.pos)) ∧
      { s1 with frameQ := s.frameQ } = s ∧ (s.frameQ = [] → s1 = s)) ∧
    (c.on ≠ 0 → f.imm.toNat % 256 < c.g.oc f.cc → ∃ g' sp, exec (.waitcnt f) s = .next (s.putG c.gid g') ∧
      Map.find g'.splits c.pos = some sp ∧ sp = { c.sp.fall with wait := .count f.cc (f.imm.toNat % 256) } ∧
      { g' with splits := c.g.splits } = c.g ∧ ∀ p, p ≠ c.pos → Map.find g'.splits p = Map.find c.g.splits p)) ∧
  (∀ (s : State) (f : EFmt) (c : Iss), issuer s f.r.g = some c →
    let w0 := c.pair0 f
    let w1 := c.pair1 f
    (∀ i, i ∈ [Instr.cpyt f, .gath f, .scat f, .gathTh f] → c.on = 0 → completesAs i s c c.g) ∧
    (c.on ≠ 0 → shapeOk w0 w1 f.cc = false → trapsAs (.cpyt f) s c { cause := cIllegal, detail := 4 }) ∧
    (c.on ≠ 0 → shapeOk w0 w1 f.cc = true → linearFits s c.g w0 w1 = true → barAlign c f = .ok () → f.cc ≠ .coll →
      c.g.holds c.sp.word (.cpyt f) = false →
      ∃ t o, copyIssued (.cpyt f) s c f.cc t o ∧ o.word0 = w0 ∧ o.word1 = w1 ∧ o.bar = c.barAddr f) ∧
    (let cgid := (peekRecord s c.g (BitVec.ofNat 64 (bits w0 55 0))).map (fun r => leAt r 0x1C 2)
     c.on ≠ 0 → shapeOk w0 w1 f.cc = true → linearFits s c.g w0 w1 = true → barAlign c f = .ok () → f.cc = .coll →
      c.g.holds c.sp.word (.cpyt f) = false → cgidBusy s c.g.ctx cgid = false →
      ∃ t o, copyIssued (.cpyt f) s c .coll t o ∧ o.word0 = w0 ∧ o.word1 = w1 ∧ o.bar = c.barAddr f ∧
        o.coll = cgid.map waitingColl) ∧
    (∀ i, i ∈ [Instr.gath f, .scat f] → c.on ≠ 0 →
      (rowShapeOk w0 w1 = false → trapsAs i s c { cause := cIllegal, detail := 4 }) ∧
      (rowShapeOk w0 w1 = true →
        let beyond (l : Nat) : Prop := teamSize s c.g < bits w1 47 16 + l * bits w1 15 0 + bits w1 15 0
        ((∃ l, l < 32 ∧ c.on.getLsbD l = true ∧ beyond l) → ∃ tr : Trap, trapsAs i s c tr ∧ tr.cause = cPerm ∧ tr.detail = 4 ∧
          ∀ l, l < 32 → (tr.lanes.getLsbD l = true ↔ c.on.getLsbD l = true ∧ beyond l)) ∧
        ((∀ l, l < 32 → c.on.getLsbD l = true → ¬ beyond l) → barAlign c f = .ok () → c.g.holds c.sp.word i = false →
          ∃ t o, copyIssued i s c .gath t o ∧ o.word0 = w0 ∧ o.word1 = w1 ∧ o.bar = c.barAddr f ∧
            o.idx = (lanesOf c.on).map (fun l => (l, c.g.rdV c.fc f.r.a.toNat l))))) ∧
    (∀ a, c.on ≠ 0 → c.record s f.pair.toNat = .ok a →
      let th := (c.g.rdTh c.fc f.r.b.toNat).1
      let v := th.toNat / 2 ^ 16 % 2 ^ 8
      (c.g.rdTh c.fc f.r.b.toNat).2 ≠ 0 → a.fmt = v → a.blk = 0 → f.imm.toNat * (vfmtSize v + 2) ≤ a.rstr →
      bits (c.g.rdS c.fc f.r.c.toNat) 63 48 = 0 → barAlign c f = .ok () → c.g.holds c.sp.word (.gathTh f) = false →
      ∃ t o, copyIssued (.gathTh f) s c .gath t o ∧ o.handle = th ∧ o.window = c.g.rdS c.fc f.r.c.toNat ∧
        o.dstSps = [.buf a.id a.gen] ∧ o.idx = (lanesOf c.on).map (fun l => (l, c.g.rdV c.fc f.r.a.toNat l))))

/-- R246, R247, R269, R271, R275, R276: an accepted linear load has one row from the address of its pair to the
team-memory offset; bytes of it that land are written to team memory at their place and nowhere else, from the source
as it now reads; once every byte has landed the operation completes, its scratchpad lines are present again, and its
counter goes down by one. -/
def Obligations.CopyEngine : Prop :=
  (∀ (s : State) (core id : Nat) (o : CopyOp) (g : Group) (f : EFmt), opActive s core id o g → o.accepted = false → o.instr = .cpyt f →
    bits o.word0 63 60 = 1 → bit o.word0 56 = false →
    ∃ t o', exec (.copyAccept core id []) s = .next t ∧ (t.coreAt core).findOp id = some o' ∧ o'.accepted = true ∧ o'.srcSp = .va ∧
      o'.dstSps = [.team g.team] ∧ o'.rows = [(bits o.word0 55 0, bits o.word1 31 0)] ∧ o'.srcLen = bits o.word1 63 32 ∧
      o'.dstLen = bits o.word1 63 32 ∧ { t with cores := s.cores } = s) ∧
  (∀ (s s1 : State) (core id first n : Nat) (o : CopyOp) (g : Group) (f : EFmt) (team : Nat) (x : Team) (bs : List Byte),
    opActive s core id o g → o.accepted = true → o.coll = none → o.instr = .cpyt f → o.conv = 0 → o.bar = none →
    o.dstSps = [.team team] → o.pieceOk s core first n = true →
    let row := o.rows.getD (first / o.dstLen) (0, 0)
    let off := first % o.dstLen
    sourceRead s g core o (row.1 + off) n = .ok (bs, s1) → Map.find s1.teams team = some x →
    taggedIn x.tags (row.2 + off) n = false → bs.length = n →
    ∃ t x' o', exec (.copyLineLanded core id first n []) s = .next t ∧ Map.find t.teams team = some x' ∧
      (∀ a, x'.mem.byte a = if row.2 + off ≤ a ∧ a < row.2 + off + n then bs.getD (a - (row.2 + off)) 0 else x.mem.byte a) ∧
      (∀ k, k ≠ team → Map.find t.teams k = Map.find s1.teams k) ∧ t.mem = s1.mem ∧ t.groups = s1.groups ∧
      (t.coreAt core).findOp id = some o' ∧ o'.landed = o.landed ++ [(first, n)]) ∧
  (∀ (s : State) (core id : Nat) (o : CopyOp) (g : Group), opActive s core id o g → o.accepted = true → o.coll = none →
    o.flight = [] → o.post = [] → o.allLanded = true →
    ∃ t, exec (.copyComplete core id) s = .next t ∧ t.mem = s.mem ∧ t.teams = s.teams ∧
      (∀ x, (t.coreAt core).findOp id = some x → x.finished = true) ∧ (∀ k, k ∈ t.absent → Map.find o.lines k = none) ∧
      ((s.coreAt core).ops = [o] → s.triggers = [] → (t.coreAt core).ops = [] ∧
        ∃ g', Map.find t.groups o.gid = some g' ∧ g'.oc o.cls = g.oc o.cls - 1))

/-- R341, R348, R349: a collective whose record keeps its limits and whose CGID is free begins: it takes the CGID's
next operation number, and its header goes, where no egress hook takes it, to every other member in a step that is a request. A step of a
peer's member, where no hook takes it, is kept for its operation and acknowledged where the job is held here, refused with detail 4 where
its sender is no device of the job (R340) and with detail 3 where the job's context is frozen and written (R401), and else dropped and
counted. That a step is acknowledged as a request is the model's choice (log 103), and so are the refusal by a frozen context and the
acknowledgement of a step of an operation that is past (log 86). -/
def Obligations.CollectiveEngine : Prop :=
  (∀ (s s1 : State) (core id : Nat) (o : CopyOp) (g : Group) (c : Coll) (f : EFmt) (r : List Byte) (x : Ctx), opActive s core id o g →
    o.accepted = false → o.coll = some c → c.begun = false → cgidBehind s o c.cgid = false → o.instr = .cpyt f → o.cls = .coll →
    bits o.word0 63 60 = 2 → recordOf s core g o = .ok (r, s1) → Map.find s1.ctxs o.ctx = some x →
    let rank := (ctxJob s1 o.ctx).2
    let cgid := leAt r 0x1C 2
    let ms := collMembers (hdrOf r) rank
    linked s1 = true → collRecordOk r rank (teamSize s1 g) = true → cgidBehind s1 o cgid = false → leAt r 3 1 = 0 →
    (∀ h, h ∈ s1.hooks → ¬ (h.job = (ctxJob s1 o.ctx).1 ∧ h.dir = 1 ∧ h.kind = 0 ∧ h.cgid = cgid)) →
    ∃ t o' c' x', exec (.collectiveAccept core id) s = .next t ∧ (t.coreAt core).findOp id = some o' ∧ o'.accepted = true ∧
      o'.coll = some c' ∧ c'.begun = true ∧ c'.cgid = cgid ∧ c'.k = Map.get 0 x.cgSeq cgid ∧ c'.hdr = hdrOf r ∧ c'.members = ms ∧
      Map.find t.ctxs o.ctx = some x' ∧ Map.get 0 x'.cgSeq cgid = Map.get 0 x.cgSeq cgid + 1 ∧
      (∀ m p, ms[m]? = some p → m ≠ c'.me → ∃ msg q, OutMsg.coll p msg ∈ t.out ∧ msg.cgid = cgid ∧ msg.k = c'.k ∧
        msg.member = c'.me ∧ msg.body = .header (hdrOf r) ∧ Map.find t.fabReqs msg.tag = some q ∧ q.posted = true ∧ q.copy = some id) ∧
      t.teams = s1.teams ∧ t.mem = s1.mem ∧ t.groups = s1.groups) ∧
  (∀ (s : State) (m : CollMsg), linked s = true →
    (ctxOfJob s m.job = none → exec (.collectiveStep m) s = .next { s with fabErrs := s.fabErrs + 1 }) ∧
    (ctxOfJob s m.job ≠ none → stepHooked s m = true → exec (.collectiveStep m) s = .next s) ∧
    (ctxOfJob s m.job ≠ none → stepHooked s m = false → foreign s m.job m.src = true → ∃ r, exec (.collectiveStep m) s =
      .next (s.send (.nack m.src m.tag 4 r))) ∧
    (ctxOfJob s m.job ≠ none → stepHooked s m = false → foreign s m.job m.src = false → jobClosed s m.job = true → ∃ r, exec (.collectiveStep m) s =
      .next (s.send (.nack m.src m.tag 3 r))) ∧
    (ctxOfJob s m.job ≠ none → stepHooked s m = false → foreign s m.job m.src = false → jobClosed s m.job = false →
      (stepStale s m = false → exec (.collectiveStep m) s = .next (({ s with collIn := s.collIn ++ [m] } : State).send (.ack m.src m.tag))) ∧
      (stepStale s m = true → exec (.collectiveStep m) s = .next (s.send (.ack m.src m.tag)))))

/-- R352, R354: an update adds half a nanosecond and the discipline's correction to GTC and GTCF, in units of 2^-32
ns modulo 2^96, and makes due every command whose threshold it reaches, but for those of a frozen context; what an earlier
update reached is handed over first. A message
of the device's own PTP domain sets the correction, at most 200 parts per million; another domain's has no effect.
R353, R354, R355: TRIG of a linear pair, or of an extended record that keeps its limits, arms, with room in the table, a command
that moves nothing yet, counts it, and answers generation times 2^16 plus its index; with no room it answers 0xFFFFFFFF. TRIGCAN
removes an armed command of its context and answers 0, of one that fired 1, and else 2. TRIGGER_FIRE hands the first due command
to its engine. That a message of the PTP domain carries the correction and sets it, and the half nanosecond of an update, are the model's
reading (log entry 59, DEDUCED). -/
def Obligations.TriggeredCommands : Prop :=
  ((∀ (s : State), -429496 ≤ s.slew → s.slew ≤ 429496 →
    let s0 := fireDue s
    (dueTriggers s = [] → s0 = s) ∧ ∃ t, exec .gtcUpdate s = .next t ∧
    t.gtc.toNat * 2 ^ 32 + t.gtcf.toNat = (s.gtc.toNat * 2 ^ 32 + s.gtcf.toNat + (2 ^ 31 + s.slew).toNat) % 2 ^ 96 ∧
    t.tick = s.tick + 1 ∧ t.triggers.map Trig.order = s0.triggers.map Trig.order ∧
    (∀ x, x ∈ t.triggers → x.time.toNat ≤ t.gtc.toNat → ctxFrozen s x.op.ctx = false → x.due = true) ∧
    { t with tick := s.tick, clk := s.clk, gtc := s.gtc, gtcf := s.gtcf, triggers := s0.triggers } = s0) ∧
  (∀ (s : State) (domain : Nat) (rate : Int),
    (domain = s.ptpDomain → ∃ k : Int, exec (.ptpMessage domain rate) s = .next { s with slew := k } ∧ -429496 ≤ k ∧ k ≤ 429496 ∧
      (-429496 ≤ rate → rate ≤ 429496 → k = rate)) ∧
    (domain ≠ s.ptpDomain → exec (.ptpMessage domain rate) s = .next s))) ∧
  ((∀ (s s1 : State) (f : EFmt) (c : Iss) (rec : List Byte), issuer s f.r.g = some c →
    (c.on = 0 → completesAs (.trig f) s c c.g ∧ completesAs (.trigcan f) s c c.g) ∧
    (c.on ≠ 0 → shapeOk (c.pair0 f) (c.pair1 f) f.cc = true → linearFits s c.g (c.pair0 f) (c.pair1 f) = true →
      barAlign c f = .ok () → c.g.holds c.sp.word (.trig f) = false → trigRecord s c f rec s1 →
      let s0 := fireDue s1
      let mine := (s0.triggers.filter (fun t => t.op.ctx == c.g.ctx)).length
      let free := lowestFree (s0.triggers.map Trig.slot) 1024 0
      ((free = none ∨ 64 ≤ mine) →
        exec (.trig f) s = .next (postDone s0 c (.trig f) [.s f.r.dst.toNat 0xFFFFFFFF])) ∧
      (∀ i, free = some i → mine < 64 → ∃ s2 tr,
        exec (.trig f) s = .next (postDone s2 { c with g := c.g.setOc f.cc (c.g.oc f.cc + 1) } (.trig f)
          [.s f.r.dst.toNat (BitVec.ofNat 64 (tr.gen * 2 ^ 16 + i))]) ∧
        s2.triggers = s0.triggers ++ [tr] ∧ tr.slot = i ∧ tr.gen = (Map.get 0 s0.trigGens i + 1) % 2 ^ 16 ∧
        tr.time = c.g.rdS c.fc f.trg.toNat ∧ tr.due = false ∧ tr.core = c.g.core ∧ tr.op.word0 = c.pair0 f ∧
        tr.op.word1 = c.pair1 f ∧ tr.op.known = rec ∧
        { s2 with triggers := s0.triggers, trigGens := s0.trigGens, nextId := s0.nextId, groups := s0.groups } = s0))) ∧
  (∀ (s : State) (f : EFmt) (c : Iss), issuer s f.r.g = some c → c.on ≠ 0 →
    c.g.holds c.sp.word (.trigcan f) = false →
    let s0 := fireDue s
    let h := (c.g.rdS c.fc f.r.a.toNat).toNat
    let armed (t : Trig) : Bool := t.slot + t.gen * 2 ^ 16 == h && t.op.ctx == c.g.ctx
    (∀ t, s0.triggers.find? armed = some t → ∃ s' g' sp, exec (.trigcan f) s = .next s' ∧ t ∉ s'.triggers ∧ s'.mem = s.mem ∧
      s'.teams = s.teams ∧ Map.find s'.groups c.gid = some g' ∧ Map.find g'.splits c.pos = some sp ∧ sp.pc = nextPc c.sp.pc ∧
      (c.flag (.trigcan f) = none → Map.get 0 g'.s f.r.dst.toNat = 0) ∧
      (c.flag (.trigcan f) ≠ none → g'.s = c.g.s ∧ ∃ e, e ∈ g'.entries ∧ e.instr = .trigcan f ∧ e.ready = true ∧
        e.flag = c.flag (.trigcan f) ∧ e.outs = [.s f.r.dst.toNat 0])) ∧
    (s0.triggers.find? armed = none → exec (.trigcan f) s = .next (postDone s0 c (.trigcan f)
      [.s f.r.dst.toNat (if s0.fired.any (fun x => x.1 + x.2.1 * 2 ^ 16 == h && x.2.2 == c.g.ctx) then 1 else 2)]))) ∧
  (∀ (s : State) (t : Trig) (l : List Trig), dueTriggers s = t :: l →
    ∃ s', exec .triggerFire s = .next s' ∧ t ∉ s'.triggers ∧ s'.fired = s.fired ++ [(t.slot, t.gen, t.op.ctx)] ∧
      (s'.coreAt t.core).ops = (s.coreAt t.core).ops ++ [{ t.op with id := s.nextId }] ∧ s'.mem = s.mem ∧ s'.teams = s.teams ∧
      s'.groups = s.groups))

/-- R382, R383, R386, R387, R388, R389: TRAP makes an origin of every lane where its guard holds, with its code;
SYSCALL one of its split, with its number and its argument; with no active lane they pass on. Taking a trap parks the
group until its origins are resolved and leaves it otherwise as it was; with TVCTL.EN 0 the whole context parks; a
trap of a handler group parks its context. -/
def Obligations.TrapEntry : Prop :=
  (∀ (s : State) (f : SFmt) (c : Iss), issuer s f.r.g = some c →
    (c.on = 0 → completesAs (.trap f) s c c.g ∧ completesAs (.syscall f) s c c.g) ∧
    (c.on ≠ 0 →
      trapsAs (.trap f) s c { cause := cSoft, lanes := c.on, aux := f.imm.toNat % 256 } ∧
      trapsAs (.syscall f) s c { cause := cSoft, detail := 1, addr := [(lowLane c.act, c.g.rdS c.fc f.r.a.toNat)],
                                 aux := f.imm.toNat % 65536, dst := f.r.dst.toNat })) ∧
  (∀ (s : State) (r : Raiser) (t : Trap) (g : Group), Map.find s.groups r.gid = some g →
    (g.handler = none → trapTaken s (raiseTrap s r t) r t g ∧
      (trapsOn s g.ctx = true → (raiseTrap s r t).ctxs = s.ctxs) ∧
      (trapsOn s g.ctx = false → ∀ x, Map.find s.ctxs g.ctx = some x → ∃ x', Map.find (raiseTrap s r t).ctxs g.ctx = some x' ∧
        x'.parked = some (t.cause, t.detail, r.pc))) ∧
    (g.handler ≠ none → (raiseTrap s r t).groups = s.groups ∧ (raiseTrap s r t).cores = s.cores ∧
      ∀ x, Map.find s.ctxs g.ctx = some x → ∃ x', Map.find (raiseTrap s r t).ctxs g.ctx = some x' ∧
        x'.parked = some (t.cause, t.detail, r.pc)))

/-- R387, R390: applying the resolutions of a group whose origins are all resolved: every lane that a KILL ends has
exited, and no resolution is left; where an arrival it gives up holds RED entries they are drained first, and may fault anew. R383, R384, R390: a handler group starts with up to 32 of the oldest origins of a
queue that is due, one a lane, as supervisor, at TVENTRY, with s63 at the top of its stack; they leave the queue.
TRAPRET of a lower privilege traps ILLEGAL_INSTR subcode 0x0A; in a handler group its active lanes exit and each
resolves its origin in the mode the instruction names; the origin of a peer's request is answered so, with a refusal where the
mode is not REPLAY. -/
def Obligations.HandlerGroups : Prop :=
  (∀ (s : State) (gid : Nat) (g : Group), Map.find s.groups gid = some g → g.openOrg = [] → g.resolved ≠ [] →
    ∃ g', Map.find (applyResolutions s gid).groups gid = some g' ∧ g'.resolved = [] ∧
      ((∀ b, b ∈ s.barRed → ∀ r, r ∈ g.resolved → b.2.1 ≠ r.origin.ref) → g'.openOrg = []) ∧
      ∀ r, r ∈ g.resolved → r.mode = 2 → r.origin.kind ≠ 3 → ∀ l, l < 32 → (g.killMask r).getLsbD l = true →
        g'.exited.getLsbD l = true) ∧
  ((∀ (s : State) (core slot : Nat) (h : Origin) (x : Ctx), handlerFree s core slot = true →
    (queueHeads (s.coreAt core).trapq).find? (fun h => queueDue s core (s.coreAt core).trapq h) = some h →
    Map.find s.ctxs h.ctx = some x →
    let mine (o : Origin) : Bool := o.ctx == h.ctx && o.cause == h.cause
    ∃ t g, exec (.handlerGroupStart core slot) s = .next t ∧ Map.find t.groups s.nextId = some g ∧ g.handler = some slot ∧
      g.sup = true ∧ g.ctx = h.ctx ∧ g.core = core ∧ g.root = x.tvroot ∧ g.lanes = ((s.coreAt core).trapq.filter mine).take 32 ∧
      (∃ sp, Map.find g.splits 0 = some sp ∧ sp.pc = x.tventry.toNat ∧ sp.wait = .none ∧
        ∀ l, l < 32 → sp.mask.getLsbD l = decide (l < g.lanes.length)) ∧
      Map.get 0 g.s 63 = BitVec.ofNat 64 (x.tvstack.toNat + 2 ^ 14 * (4 * core + slot) + 2 ^ 14) ∧
      (∀ o, o ∈ (t.coreAt core).trapq ↔ o ∈ (s.coreAt core).trapq ∧ ∀ p, p ∈ g.lanes → p.id ≠ o.id) ∧
      (∀ k, k ≠ s.nextId → Map.find t.groups k = Map.find s.groups k) ∧ t.mem = s.mem) ∧
  (∀ (s : State) (f : SFmt) (c : Iss), issuer s f.r.g = some c →
    (c.g.sup = false → trapsAs (.trapret f) s c { cause := cIllegal, detail := 0x0A }) ∧
    (c.g.sup = true → c.g.handler = none → trapsAs (.trapret f) s c { cause := cIllegal, detail := 4 }) ∧
    (c.g.sup = true → c.g.handler ≠ none → ∃ t, exec (.trapret f) s = .next t) ∧
    (∀ l o r, c.g.sup = true → c.g.handler ≠ none → l < 32 → c.on = laneBit l → c.g.served.getLsbD l = false →
      c.g.lanes[l]? = some o → o.remote ≠ none → s.remotes.find? (fun r => r.origin == o.id) = some r → f.fn ≠ 0 →
      ∃ t g', exec (.trapret f) s = .next t ∧ t.out = (s.nack r.pkt (nackDetail r.cause) r.cause r.detail).out ∧
        t.remotes = s.remotes.filter (fun q => q.origin != o.id) ∧ t.mem = s.mem ∧
        Map.find t.groups c.gid = some g' ∧ g'.exited = c.g.exited ||| c.on) ∧
    (c.g.sup = true → c.g.handler ≠ none → (∀ o, o ∈ c.g.lanes → o.remote = none) → (c.g.lanes.map Origin.id).Nodup →
      ∃ t g', exec (.trapret f) s = .next t ∧ Map.find t.groups c.gid = some g' ∧ g'.exited = c.g.exited ||| c.on ∧
        g'.served = c.g.served ||| c.on ∧ t.mem = s.mem ∧
        ∀ l o h, l < 32 → c.on.getLsbD l = true → c.g.served.getLsbD l = false → c.g.lanes[l]? = some o → o.gid ≠ c.gid →
          Map.find s.groups o.gid = some h → o.id ∈ h.openOrg →
          ∃ h', Map.find t.groups o.gid = some h' ∧ o.id ∉ h'.openOrg ∧
            ⟨o, f.fn.toNat, handlerRegs c.g l⟩ ∈ h'.resolved ∧ h'.v = h.v ∧ h'.s = h.s ∧ h'.splits = h.splits)))

/-- R412, R413: MIGRATE of a team that has no request waiting answers 1 for a core outside its quadrant or not
accepting, 0 for its own, 2 for one its cluster uses, 3 where it does not fit; else, or behind a request that waits, every group
of the team stops, the request waits at the team's core and a stopped group issues nothing. The oldest request that needs no move
by then is answered with its status, and after the last the team goes on. Moved to a core
whose banks hold its context or are free, the team's memory, registers and predicates are as they were, its groups are on the new
core, and the issuer has 0; no byte of memory and no group of another team on another core changes. -/
def Obligations.TeamMoves : Prop :=
  (∀ (s : State) (f : SFmt) (c : Iss), issuer s f.r.g = some c → c.on = 0 → completesAs (.migrate f) s c c.g) ∧
  (∀ (s : State) (f : SFmt) (c : Iss) (t : Team), issuer s f.r.g = some c → c.on ≠ 0 → Map.find s.teams c.g.team = some t →
    let x := c.g.rdS c.fc f.r.a.toNat
    (∀ st, t.migrate = [] → migrateStatus s c.g.team t x = some st →
      ∃ g', completesAs (.migrate f) s c g' ∧ sameButS c.g g' ∧ sWritten c.g g' f.r.dst.toNat (BitVec.ofNat 64 st)) ∧
    (t.migrate ≠ [] ∨ migrateStatus s c.g.team t x = none → c.g.handler = none → ∃ u g' sp, exec (.migrate f) s = .next u ∧
      Map.find u.groups c.gid = some g' ∧ g'.stopped = true ∧ Map.find g'.splits c.pos = some sp ∧ sp.wait = .migrate ∧
      g'.v = c.g.v ∧ g'.s = c.g.s ∧ u.mem = s.mem ∧
      (∀ gid g, gid ≠ c.gid → Map.find s.groups gid = some g →
        (g.team = c.g.team → g.handler = none → Map.find u.groups gid = some { g with stopped := true }) ∧
        (g.team ≠ c.g.team ∨ g.handler ≠ none → Map.find u.groups gid = some g)) ∧
      ∃ t', Map.find u.teams c.g.team = some t' ∧ t' = { t with migrate := t.migrate ++ [⟨c.gid, c.pos, f.r.dst.toNat, x.toNat⟩] })) ∧
  (∀ (s : State) (g : Group), g.stopped = true → issuable s g = []) ∧
  (∀ (s : State) (tid st : Nat) (t : Team) (r : MigrateReq) (rest : List MigrateReq) (g : Group), Map.find s.teams tid = some t →
    t.migrate = r :: rest → migrateStatus s tid t (BitVec.ofNat 64 r.core) = some st → Map.find s.groups r.gid = some g →
    ∃ u g', exec (.migrateMove tid) s = .next u ∧ u.mem = s.mem ∧ u.cores = s.cores ∧
      Map.find u.teams tid = some { t with migrate := rest } ∧ Map.find u.groups r.gid = some g' ∧ g'.core = g.core ∧ g'.v = g.v ∧
      Map.get 0 g'.s r.dst = BitVec.ofNat 64 st ∧ (∀ k, k ≠ r.dst → Map.get 0 g'.s k = Map.get 0 g.s k) ∧
      (rest = [] → g.team = tid → g.handler = none → g'.stopped = false) ∧ (rest ≠ [] → g'.stopped = g.stopped)) ∧
  (∀ (s : State) (tid : Nat) (t : Team) (x : DWord),
    let core := bits x 7 0
    let ok := bits x 63 8 = 0 ∧ coreQuad core = coreQuad t.core ∧ core ∈ acceptingCores s (coreQuad t.core)
    (¬ ok → migrateStatus s tid t x = some 1) ∧ (ok → core = t.core → migrateStatus s tid t x = some 0) ∧
    let used := ∃ u, u ∈ s.teams ∧ u.2.cluster = t.cluster ∧ u.2.core = core
    let fits := let (n, r, m) := teamNeeds s tid t; fitsOn s t.ctx core n r m ((partOf s t.ctx).rfmode == 1)
    (ok → core ≠ t.core → used → migrateStatus s tid t x = some 2) ∧
    (ok → core ≠ t.core → ¬ used → migrateStatus s tid t x = if fits = true then none else some 3)) ∧
  (∀ (s : State) (tid : Nat) (t : Team) (r : MigrateReq), distinctKeys s.groups → Map.find s.teams tid = some t → t.migrate = [r] →
    migrateStatus s tid t (BitVec.ofNat 64 r.core) = none → teamQuiet s tid = true → t.saved = none →
    (∀ g, g ∈ s.groups → g.2.team = tid → g.2.saved = none) →
    ((s.coreAt (r.core % 256)).active = none ∨ (s.coreAt (r.core % 256)).active = some t.ctx ∨
      (s.coreAt (r.core % 256)).shadow = some t.ctx) →
    ∃ u t', exec (.migrateMove tid) s = .next u ∧ Map.find u.teams tid = some t' ∧ t'.core = r.core % 256 ∧ t'.mem = t.mem ∧
      t'.migrate = [] ∧ u.mem = s.mem ∧
      (∀ gid g, Map.find s.groups gid = some g → g.team = tid → g.handler = none → ∃ g', Map.find u.groups gid = some g' ∧
        g'.core = r.core % 256 ∧ g'.v = g.v ∧ g'.p = g.p ∧ g'.stopped = false ∧
        (gid ≠ r.gid → g'.s = g.s) ∧ (gid = r.gid → Map.get 0 g'.s r.dst = 0)) ∧
      ∀ gid g, Map.find s.groups gid = some g → (g.team ≠ tid ∨ g.handler ≠ none) → gid ≠ r.gid → g.core ≠ t.core →
        Map.find u.groups gid = some g)

/-- R96: THROTTLE_RESELECT chooses, of a partition's memory-bound groups, as many as its quadrant's congestion level allows, in the
order of priority, of the time since they last issued such an instruction and of slot, and nothing else of the state changes. After
every step at most so many of a partition's memory-bound groups are unthrottled, and a throttled group is memory-bound. R72, R85, R289: a split without a line that may fetch one has it, of
right parity; a ready group of age 256 becomes urgent; a quadrant's congestion level follows its mean occupancy.
Nothing else changes. -/
def Obligations.FetchAndAge : Prop :=
  (∀ (s : State) (core part : Nat), distinctKeys s.groups →
    let bound (gid : Nat) (g : Group) : Prop := Map.find s.groups gid = some g ∧ g.core = core ∧ g.part = part ∧ memoryBound s (gid, g) = true
    ∃ t chosen, exec (.throttleReselect core part) s = .next t ∧
      t = s.putCore core { s.coreAt core with allowed := Map.put (s.coreAt core).allowed part chosen } ∧
      chosen.length = min (levelAllows s core)
        (s.groups.filter (fun g => g.2.core == core && g.2.part == part && memoryBound s g)).length ∧ chosen.Nodup ∧
      (∀ gid, gid ∈ chosen → ∃ g, bound gid g) ∧
      ∀ a b g h, bound a g → bound b h → a ∈ chosen → b ∉ chosen → ¬ [8 - h.prio, h.lastFar, h.slot] < [8 - g.prio, g.lastFar, g.slot]) ∧
  (∀ (s t : State), step s = .next t → distinctKeys t.groups →
    (∀ core part, (t.groups.filter (fun g => g.2.core == core && g.2.part == part && memoryBound t g && !g.2.throttled)).length ≤
      levelAllows t core) ∧
    ∀ g, g ∈ t.groups → g.2.throttled = true → memoryBound t g = true) ∧
  ((∀ (s s1 : State) (gid pos : Nat) (refill : Bool) (g : Group) (sp : Split) (line : Line), Map.find s.groups gid = some g →
    Map.find g.splits pos = some sp → sp.line = none → g.parked = false → g.exiting = false →
    peekLine s g sp.pc refill = .ok (line, s1) →
    exec (.fetchLine gid pos refill) s = .next (s1.putG gid (g.setSplit pos { sp with line := some line })) ∧
      parityOk line = true ∧ sameButFetch s s1) ∧
  (∀ (s : State) (gid : Nat) (g : Group), Map.find s.groups gid = some g → issuable s g ≠ [] → 256 ≤ s.clk / 10 - g.lastIssue →
    exec (.groupUrgent gid) s = .next (s.putG gid { g with urgent := true })) ∧
  (∀ (s : State) (quad m : Nat), quad < 16 → (quadAt s quad).window < s.tick / 256 → s.tick % 256 * clockTenths s ≤ 80 →
    ∃ t, exec (.congestionWindow quad m) s = .next t ∧ (quadAt t quad).window = s.tick / 256 ∧
    (quadAt t quad).level = (if m < 4 then 0 else if m < 8 then 1 else if m < 16 then 2 else if m < 24 then 3 else if m < 32 then 4
      else if m < 40 then 5 else if m < 52 then 6 else 7) ∧ { t with quads := s.quads } = s))

/-- R28, R33, R34, R43, R45, R46, R141: a cluster that fits is placed whole, its teams on distinct accepting cores of one
quadrant named in order; no byte of memory changes where those cores' banks are free or hold the context. A group that has nothing
outstanding after its exit is released, and no group of another core changes; a launch all of whose teams have left and whose
stores have reached every frame completes, LQDONE counts it where it is the oldest, and its completion barrier receives one
arrival. -/
def Obligations.Placement : Prop :=
  (∀ (s s1 : State) (n lid qd idx : Nat) (l : Launch) (o : Obj) (k : Kernel) (cores : List Nat) (ranges : List (Nat × Nat × Nat)),
    s1 = (Map.keys s.lqs).foldl prepQueue s →
    minBy (fun n => [8 - (s1.lqAt n).prio, (n + 63 - s1.lastQueue) % 64])
      ((Map.keys s1.lqs).filter (fun n => (queuePlace s1 n).isSome)) = some n →
    queuePlace s1 n = some (lid, l, o, k, qd, cores, idx, ranges) →
    ∃ t cl x, exec .placeCluster s = .next t ∧ Map.find t.clusters cl = some x ∧ cl = s1.nextId ∧
      x.launch = lid ∧ x.index = idx ∧ x.quad = qd ∧ x.names = cores ∧ x.teams.length = cores.length ∧ x.size = cores.length ∧ cores.length = l.nTeams ∧
      cores.Nodup ∧ (∀ c, c ∈ cores → c / 16 = qd ∧ (quadAt s1 qd).accept.getLsbD (c % 16) = true) ∧
      ((∀ c, c ∈ cores → (s1.coreAt c).active = none ∨ (s1.coreAt c).active = some l.ctx ∨ (s1.coreAt c).shadow = some l.ctx) →
        t.mem = s1.mem) ∧
      ∀ tid, tid ∈ x.teams → ∃ tm, Map.find t.teams tid = some tm ∧ tm.ctx = l.ctx ∧ tm.launch = lid ∧ tm.cluster = cl ∧ tm.mem = [] ∧
        tm.memSize = k.memSize ∧ tm.gridH = k.gridH ∧ tm.gridW = 2 ^ k.logW) ∧
  (∀ (s : State) (gid : Nat) (g : Group), Map.find s.groups gid = some g → releasable s gid g = true →
    ∃ t, exec (.groupExitRelease gid) s = .next t ∧ Map.find t.groups gid = none ∧ t.mem = s.mem ∧
      (∀ k, k ≠ gid → (Map.find t.groups k).isSome = (Map.find s.groups k).isSome) ∧
      (distinctKeys s.groups → ∀ k h, k ≠ gid → Map.find s.groups k = some h → h.core ≠ g.core → Map.find t.groups k = some h)) ∧
  (∀ (s : State) (id : Nat) (l : Launch), Map.find s.launches id = some l → (∀ r, r ∈ l.ranges → r.2.2 ≤ r.2.1) →
    (∀ t, t ∈ s.teams → t.2.launch ≠ id) → (∀ u, u ∈ s.frameQ → u.leftBehind s = false) →
    let q := s.lqAt l.queue
    let s1 := { (s.putLq l.queue (q.complete l.record)) with
      launches := Map.del s.launches id, gridBars := s.gridBars.filter (fun b => b.launch != id) }
    (l.comp = none → exec (.launchComplete id) s = .next s1) ∧
    (∀ va loc s2, l.comp = some va → completionBar s1 l.ctx va.toNat = some (loc, s2) → barValid s2 loc = true →
      exec (.launchComplete id) s = .next (applyObj s2 loc l.ctx 1 0 .none)) ∧
    (q.finished = [] → q.lqdone.toNat = l.record → l.record + 1 < 2 ^ 32 →
      (q.complete l.record).lqdone.toNat = q.lqdone.toNat + 1 ∧ (q.complete l.record).finished = []) ∧
    (q.finished = [] → q.lqdone.toNat ≠ l.record → (q.complete l.record).lqdone = q.lqdone))

/-- R146, R147: performed, a LAUNCH appends its record to a queue of its own context that is device-fed, enabled,
without an error and not full, as two stores of the group's into the ring slot, and answers 0 (a slot of a peer is written there first, one line
after the other, and LQTAIL goes up when both are acknowledged: log 107); else it appends nothing and answers 4 where the queue is another
context's, or the lowest of 1, 2 and 3 that holds. R35, R38, R39, R42, R44: LQTAIL of a host-fed queue takes bits 31
to 0, and of a device-fed one ignores the write; LQCTL, written by the supervisor of the owning context, takes its fields, SIZE and FEED only while EN was 0 and SIZE
only from 4 to 16; a write of 1 to LQSTAT.ERR clears it and nothing else. The ring slot of a peer is log entry 107 (DEDUCED), that CODE keeps its
value when ERR is cleared and who may write LQCTL log entry 52 (DEDUCED), and that a write without the right is ignored log entry 51
(DESIGN CHOICE). -/
def Obligations.Launches : Prop :=
  (∀ (s s1 : State) (gid l : Nat) (g : Group) (e : Entry) (f : MFmt) (rec : List Byte) (resp : Line), lanePending s gid g e l →
    e.instr = .launch f → launchRecord s gid g e (Map.get 0 e.addr l) = .ok (rec, s1) → s1.groups = s.groups →
    ringBusy s1 gid e.id f.mfn = false →
    let q := s1.lqAt f.mfn.toNat
    let held := (q.lqtail.toNat + 2 ^ 32 - q.lqhead.toNat) % 2 ^ 32
    let st := if q.ctx ≠ g.ctx then 4 else if q.feed = false then 1 else if q.en = false ∨ q.err = true then 2
      else if held = 2 ^ q.size then 3 else 0
    let out (s' : State) : Prop := ∃ g', Map.find s'.groups gid = some g' ∧
      entryAfter g g' (afterLane e l [.s f.r.dst.toNat (BitVec.ofNat 64 st)] false)
    (st ≠ 0 → ∃ s', exec (.memoryAccessPerformed (.lane gid e.id l) resp) s = .next s' ∧ out s' ∧ s'.lqs = s1.lqs ∧ s'.mem = s1.mem) ∧
    (st = 0 → e.ring = none →
      let slot := q.lqbase.toNat + 128 * (q.lqtail.toNat % 2 ^ q.size)
      let tail := s1.putLq f.mfn.toNat { q with lqtail := BitVec.ofNat 64 ((q.lqtail.toNat + 1) % 2 ^ 32) }
      ∀ s2 s3 g3, written (vaWrite tail gid g e (lowLane e.mask) (BitVec.ofNat 64 slot) false (sliceB rec 0 64) []) s2 →
        written (vaWrite s2 gid g e (lowLane e.mask) (BitVec.ofNat 64 (slot + 64)) false (sliceB rec 64 64) []) s3 →
        Map.find s3.groups gid = some g3 → g3.entries = g.entries →
        ∃ s' g', exec (.memoryAccessPerformed (.lane gid e.id l) resp) s = .next s' ∧ Map.find s'.groups gid = some g' ∧
          entryAfter g3 g' (afterLane e l [.s f.r.dst.toNat (BitVec.ofNat 64 st)] false) ∧ s'.mem = s3.mem ∧ s'.lqs = tail.lqs ∧
          ∀ k, k ≠ gid → Map.find s'.groups k = Map.find s3.groups k) ∧
    (st = 0 → ∀ rank s2, e.ring = none → xlate s1 g.core g.ctx (rootOf s1 g) (BitVec.ofNat 64 q.slot) .w = .ok (.peer rank, s2) →
      rankMapped s2 g.ctx rank = true → lineHeld s2 gid g rank q.slot = false →
      ∃ s' r, exec (.memoryAccessPerformed (.lane gid e.id l) resp) s = .next s' ∧ s'.lqs = s1.lqs ∧ s'.mem = s2.mem ∧
        Map.find s'.fabReqs s2.nextId = some r ∧ r.gid = gid ∧ r.entry = e.id ∧ r.pkt.cls = 1 ∧ r.pkt.dest = rank ∧ r.posted = false ∧
        r.va.toNat = q.slot % 2 ^ 64 ∧ r.pkt.be = BitVec.allOnes 64 ∧ r.pkt.payload = lineOf (sliceB rec 0 64)) ∧
    (st = 0 → e.ring = some (q.slot, 2) → ∃ s', exec (.memoryAccessPerformed (.lane gid e.id l) resp) s = .next s' ∧ out s' ∧
      s'.lqs = (s1.putLq f.mfn.toNat { q with lqtail := BitVec.ofNat 64 ((q.lqtail.toNat + 1) % 2 ^ 32) }).lqs ∧ s'.mem = s1.mem)) ∧
  (∀ (s : State) (q : Nat) (val : DWord), q < 64 →
    let x := s.lqAt q
    (x.feed = false → exec (.lqtailWrite q val) s = .next (s.putLq q { x with lqtail := val &&& 0xFFFFFFFF })) ∧
    (x.feed = true → exec (.lqtailWrite q val) s = .next s) ∧
    (∀ who c, Map.find s.ctxs x.ctx = some c → c.cred ≠ who → who ≠ Config.ownerCred → exec (.lqctlWrite q ⟨val, who⟩) s = .next s) ∧
    (∀ who c, Map.find s.ctxs x.ctx = some c → c.cred = who →
      ∃ w, exec (.lqctlWrite q ⟨val, who⟩) s = .next (s.putLq q { x with lqctl := w }) ∧
      bits w 7 5 = bits val 7 5 ∧ bit w 8 = bit val 8 ∧ bit w 9 = bit val 9 ∧ bits w 21 16 = bits val 21 16 ∧ bits w 63 22 = 0 ∧
      bit w 10 = (if x.en = true then bit x.lqctl 10 else bit val 10) ∧
      bits w 4 0 = (if x.en = true ∨ bits val 4 0 < 4 ∨ 16 < bits val 4 0 then bits x.lqctl 4 0 else bits val 4 0)) ∧
    (∃ w, exec (.lqstatErrClear q) s = .next (s.putLq q { x with lqstat := w }) ∧ bit w 2 = false ∧
      ∀ k, k ≠ 2 → bit w k = bit x.lqstat k))

/-- R341, R344, R345, R346, R401: a peer's read of a present line answers its 64 bytes; a write changes exactly the bytes
it enables, in each frame of a replicated page, and is acknowledged once every frame holds it; an atomic changes its operand at the
home and answers the old value where it returns one. A request of a job that is not bound here, or of a sender
that is no device of the job (R340), is refused with detail 4, of a
closed context with detail 3; while late packets are buffered a write is acknowledged and kept, and what needs an answer is
refused with detail 3. A message of an unknown class or of a job not held here is counted. R346, R347, R438: an acknowledgement ends
a posted write's request and its group counts one fewer; a NACK of a posted write keeps the write in its group as a held write,
with its address, lane and mask; an unanswered request after 2 ms is as a NACK with detail 3; an origin for a peer unresolved
after 1 ms is answered with the detail of its cause. That a replicated page is read at frame 0 and how the corners of a request are answered are
log entry 50, that the acknowledgement waits for the queued frames log entry 24, and from when 2 ms and 1 ms are counted log entry 61 (all
DEDUCED). -/
def Obligations.Peers : Prop :=
  ((∀ (s : State) (p : Packet) (i : Instr) (q : Packet), (i, q) ∈ requestRows p → requestNew s q →
    (i = .remoteWrite p → inWindow p.addr = false) →
    (ctxOfJob s p.job = none → exec i s = .next (s.nack p 4 0 0)) ∧
    (∀ ctx x, ctxOfJob s p.job = some ctx → Map.find s.ctxs ctx = some x → x.mapsRank p.src = false → exec i s = .next (s.nack p 4 0 0)) ∧
    (∀ ctx x, ctxOfJob s p.job = some ctx → Map.find s.ctxs ctx = some x → x.mapsRank p.src = true →
      (x.lateClosed = true → exec i s = .next (s.nack p 3 0 0)) ∧
      (x.lateClosed = false → x.lateStart = true → q.cls = 0 ∨ q.returning = true → exec i s = .next (s.nack p 3 0 0)) ∧
      (x.lateClosed = false → x.lateStart = true → q.cls ≠ 0 → q.returning = false →
        exec i s = .next ({ s with ctxs := Map.put s.ctxs ctx { x with late := x.late ++ [q] } }.send (.ack p.src p.tag))))) ∧
  (∀ (s : State) (p : Packet), linked s = true → inWindow p.addr = true →
    bits p.addr 15 12 = 0 ∨ 4 < bits p.addr 15 12 ∨ ctxOfJob s p.job = none →
    exec (.remoteWrite p) s = .next { s with fabErrs := s.fabErrs + 1 }) ∧
  (∀ (s s1 : State) (p : Packet) (ctx pa size : Nat) (repl prop : Bool) (x : Ctx), requestOpen s { p with cls := 0 } ctx x →
    remoteXlate s ctx (BitVec.ofNat 64 (p.addr.toNat / 64 * 64)) .r = .ok (pa, size, repl, prop, s1) →
    presentIn s1 pa 64 = true →
    (poisoned s1.poison pa 64 = false →
      exec (.remoteRead p) s = .next (s1.send (.response p.src p.tag (lineOf ((List.range 64).map (fun k => s1.mem.byte (pa + k)))))) ∧
        s1.mem = s.mem) ∧
    (poisoned s1.poison pa 64 = true → ∃ t, exec (.remoteRead p) s = .next t ∧ t.machChk = s.machChk + 1 ∧ t.mem = s.mem ∧
      ∀ core, lowestTeamCore s ctx = some core → trapsOn s ctx = true →
        ∃ o, o ∈ (t.coreAt core).trapq ∧ o.cause = 14 ∧ o.detail = 2 ∧ o.remote = some p.src ∧ o.ctx = ctx)) ∧
  (∀ (s s1 : State) (p : Packet) (ctx pa size : Nat) (repl prop : Bool) (x : Ctx), requestOpen s { p with cls := 1 } ctx x →
    inWindow p.addr = false → p.credit = none → (∀ u, u ∈ s.frameQ → u.owner ≠ .job s.nextId) → 64 ≤ size →
    remoteXlate s ctx (BitVec.ofNat 64 (p.addr.toNat / 64 * 64)) .w = .ok (pa, size, repl, prop, s1) →
    (∀ f, f ∈ framesOf pa size repl → presentIn s1 f 64 = true ∧ taggedIn s1.tags f 64 = false) →
    let now := if repl = true ∧ prop = false then [pa] else framesOf pa size repl
    ∃ t, exec (.remoteWrite p) s = .next t ∧
      (∀ f k, f ∈ now → k < 64 → p.be.getLsbD k = true → t.mem.byte (f + k) = BitVec.ofNat 8 (p.payload.toNat / 2 ^ (8 * k))) ∧
      (∀ a, (∀ f, f ∈ now → ¬ (f ≤ a ∧ a < f + 64 ∧ p.be.getLsbD (a - f) = true)) →
        (∀ u, u ∈ s.frameQ → ¬ (u.pa ≤ a ∧ a < u.pa + u.bytes.length)) → t.mem.byte a = s1.mem.byte a) ∧
      (repl = false ∨ prop = true → t.out = s.out ++ [.ack p.src p.tag]) ∧
      (repl = true → prop = false → p.be ≠ 0 → t.out = s.out ∧
        Map.find t.frameJobs s.nextId = some (.reply { p with cls := 1 } (.ack p.src p.tag)) ∧
        ∀ u, u ∈ t.frameQ → u.owner = .job s.nextId → ∃ d, d < 4 ∧ d ≠ 0 ∧ pa + d * size ≤ u.pa ∧ u.pa + u.bytes.length ≤ pa + d * size + 64)) ∧
  (∀ (s s1 s2 : State) (p : Packet) (ctx pa size old : Nat) (repl prop : Bool) (x : Ctx), requestOpen s { p with cls := 2 } ctx x →
    atomicOk p = true → p.credit = none → remoteXlate s ctx p.addr .w = .ok (pa, size, repl, prop, s1) →
    atomAt { s1 with nextId := s1.nextId + 1 } { gid := 0, ctx, die := 0, owner := .job s1.nextId } pa size repl prop p.aop p.aty p.awid
      (p.payload.toNat % 2 ^ (8 * p.awid)) (p.cmp.toNat % 2 ^ (8 * p.awid)) = .ok (old, s2) →
    let m : OutMsg := if p.returning then .response p.src p.tag (BitVec.ofNat 512 old) else .ack p.src p.tag
    ((∀ u, u ∈ s2.frameQ → u.owner ≠ .job s1.nextId) → exec (.remoteAtomic p) s = .next (s2.send m)) ∧
    ((∃ u, u ∈ s2.frameQ ∧ u.owner = .job s1.nextId) → exec (.remoteAtomic p) s =
      .next { s2 with frameJobs := Map.put s2.frameJobs s1.nextId (.reply { p with cls := 2 } m) }))) ∧
  ((∀ (s : State) (tag : Nat) (r : FabReq) (g : Group), linked s = true → Map.find s.fabReqs tag = some r → r.posted = true → r.copy = none →
    r.scribe = none → Map.find s.groups r.gid = some g →
    (∃ t g', exec (.ackReceived tag) s = .next t ∧ Map.find t.fabReqs tag = none ∧ Map.find t.groups r.gid = some g' ∧
      g' = { g with acks := g.acks - 1 } ∧ { t with groups := s.groups, fabReqs := s.fabReqs } = s ∧
      (∀ k, k ≠ tag → Map.find t.fabReqs k = Map.find s.fabReqs k) ∧ ∀ k, k ≠ r.gid → Map.find t.groups k = Map.find s.groups k) ∧
    (∀ detail, g.held.length < 16 → ∃ t g', exec (.nackReceived tag detail) s = .next t ∧ Map.find t.fabReqs tag = none ∧
      Map.find t.groups r.gid = some g' ∧ g' = { g with held := g.held ++ [
        { tag, pkt := r.pkt, va := r.va, detail, pc := r.pc, pos := r.pos, lane := lowLane r.lanes, mask := r.mask, raised := false, seen := r.seen }] } ∧
      { t with groups := s.groups, fabReqs := s.fabReqs } = s ∧
      (∀ k, k ≠ tag → Map.find t.fabReqs k = Map.find s.fabReqs k) ∧ ∀ k, k ≠ r.gid → Map.find t.groups k = Map.find s.groups k)) ∧
  (∀ (s : State) (tag : Nat) (r : FabReq), Map.find s.fabReqs tag = some r →
    (s.tick < r.sent + 4000000 → exec (.remoteRequestTimeout tag) s = .next s) ∧
    (r.sent + 4000000 ≤ s.tick → linked s = true → exec (.remoteRequestTimeout tag) s = exec (.nackReceived tag 3) s)) ∧
  (∀ (s : State) (p : Packet) (tag d : Nat), linked s = false → (∀ m, s.send m = s) ∧ ((∀ r, r ∈ s.remotes → r.is p = false) →
    (∀ x, x ∈ requestRows p → exec x.1 s = .next s)) ∧ exec (.ackReceived tag) s = .next s ∧ exec (.nackReceived tag d) s = .next s) ∧
  (∀ (s : State) (tag : Nat) (r : RemoteWait), tag ≠ 0 → s.remotes.find? (fun r => r.origin == tag) = some r →
    (s.tick < r.since + 2000000 → exec (.remoteOriginTimeout tag) s = .next s) ∧
    (r.since + 2000000 ≤ s.tick → ∃ t, exec (.remoteOriginTimeout tag) s = .next t ∧
      t.out = (s.nack r.pkt (nackDetail r.cause) r.cause r.detail).out ∧ t.remotes = s.remotes.filter (fun q => q.origin != tag) ∧
      { t with out := s.out, remotes := s.remotes } = s)))

/-- R366: the region holds the fold of members 0 up to NEXT in member order, whatever order they arrive in: a member
that is next is combined into slot 1, and held ones that follow it after; one that is not yet next is held in its own
slot; a duplicate traps RACC_BAD 2. R344, R365, R366, R367, R371: HWR of a rank in the map sets DEST and else traps
BAD_RANK; PST writes the guarded lanes of a payload; FLD and FST read and write a flow slot of the job, and trap
BAD_FLOW beyond its slots; RACC folds a contribution into its region and gives the next member, and traps ECC where a slot it
reads is poisoned; EMIT queues a packet with the invocation's header, this device's rank as its source, up to 16. -/
def Obligations.ScribePackets : Prop :=
  (∀ (p : Packet) (slot : Nat → Line) (t : Ty) (o : Rop), Ty.ofCode (p.fmtop % 16) = some t → Rop.ofCode (p.fmtop / 16 % 8) = some o →
    ropOk o t = true → 2 ≤ p.mcount → p.mcount ≤ 256 → p.member < p.mcount →
    let old := RCtl.ofSlot (slot 0)
    old.act = true → old.seqk = p.seqk % 2 ^ 16 → old.mm = p.mcount → old.fmt = p.fmtop % 16 → old.rop = p.fmtop / 16 % 8 →
    (p.member < old.next ∨ old.held p.member = true → raccStep p slot = .error (kRaccBad, 2)) ∧
    (old.next < p.member → old.held p.member = false → ∃ z, raccStep p slot = .ok (old.next, [(0, z), (1 + p.member, p.payload)]) ∧
      (RCtl.ofSlot z).next = old.next ∧ (RCtl.ofSlot z).held p.member = true) ∧
    (p.member = old.next → old.held p.member = false → old.held (p.member + 1) = false → p.member ≠ 0 → ∃ z acc,
      raccStep p slot = .ok (old.next + 1, [(0, z), (1, acc)]) ∧ (RCtl.ofSlot z).next = old.next + 1 ∧
      ((RCtl.ofSlot z).act = true ↔ old.next + 1 ≠ old.mm) ∧
      ∀ l, l < 16 → zLane acc l = combineReg o t (zLane (slot 1) l) (zLane p.payload l))) ∧
  (∀ (s : State) (c : Kn), kernelOf s = some c →
    (∀ (a f : BitVec 4), f = 3 →
      (inRankMap s c.job.job (c.k a).toNat = true →
        exec (.hwr a f) s = .next (wordDone s c { c.inv with pkt := { c.inv.pkt with dest := (c.k a).toNat } })) ∧
      (inRankMap s c.job.job (c.k a).toNat = false → kernelTraps (.hwr a f) s c kBadRank 0)) ∧
    (∀ (a f : BitVec 4), f ≠ 3 →
      exec (.hwr a f) s = .next (wordDone s c { c.inv with pkt := { c.inv.pkt with mark := (c.k a).toNat % 2 ^ 16 } })) ∧
    (∀ (a : BitVec 4) (m : BitVec 2), ∃ inv, exec (.pst a m) s = .next (wordDone s c inv) ∧
      { inv with pkt := { inv.pkt with payload := c.inv.pkt.payload } } = c.inv ∧
      ∀ l, l < 16 → zLane inv.pkt.payload l = if pktPayload c.inv.pkt = true ∧ (c.m m).getLsbD l = true then zLane (c.z a) l
        else zLane c.inv.pkt.payload l) ∧
    (∀ (d a b : BitVec 4) (m : BitVec 2) (o : BitVec 12),
      let k := (c.k a + o.setWidth 32).toNat
      (c.job.fcnt ≤ k → kernelTraps (.fld d a o) s c kBadFlow 0 ∧ kernelTraps (.fst a b m o) s c kBadFlow 0) ∧
      (k < c.job.fcnt → c.slotBad k = true → kernelTraps (.fld d a o) s c kEcc 0) ∧
      (k < c.job.fcnt → c.slotBad k = false → exec (.fld d a o) s = .next (wordDone s c (c.inv.setZ d (c.slot k)))) ∧
      (k < c.job.fcnt → ∃ x : Scribe, exec (.fst a b m o) s = .next (s.putScribe c.proc { x with inv := some c.inv.next }) ∧
        { x with flow := c.x.flow, poison := c.x.poison } = c.x ∧ ∀ q l, l < 16 → zLane (Map.get 0 x.flow q) l =
          if q = c.job.fbase + k ∧ (c.m m).getLsbD l = true then zLane (c.z b) l else zLane (Map.get 0 c.x.flow q) l)) ∧
    (∀ (d a : BitVec 4) (o : BitVec 12),
      let b := (c.k a + o.setWidth 32).toNat
      let p := c.inv.pkt
      let w := raccStep p (fun i => c.slot (b + i))
      (w = .error (kRaccBad, 3) → kernelTraps (.racc d a o) s c kRaccBad 3) ∧
      (w ≠ .error (kRaccBad, 3) → c.job.fcnt ≤ b + p.mcount → kernelTraps (.racc d a o) s c kBadFlow 0) ∧
      (w ≠ .error (kRaccBad, 3) → b + p.mcount < c.job.fcnt → c.slotBad b = true → kernelTraps (.racc d a o) s c kEcc 0) ∧
      (b + p.mcount < c.job.fcnt → c.slotBad b = false →
        let reads := raccReads p (fun i => c.slot (b + i))
        (∀ e, w = .error e → kernelTraps (.racc d a o) s c e.1 e.2) ∧
        ∀ n ws, w = .ok (n, ws) →
          ((∃ i, i ∈ reads ∧ c.slotBad (b + i) = true) → kernelTraps (.racc d a o) s c kEcc 0) ∧
          ((∀ i, i ∈ reads → c.slotBad (b + i) = false) → ∃ x : Scribe, exec (.racc d a o) s =
              .next (s.putScribe c.proc { x with inv := some (c.inv.setK d (BitVec.ofNat 32 n)).next }) ∧
            { x with flow := c.x.flow, poison := c.x.poison } = c.x ∧
            (∀ y, y ∈ ws → Map.get 0 x.flow (c.job.fbase + b + y.1) = y.2) ∧
            ∀ q, (∀ y, y ∈ ws → q ≠ c.job.fbase + b + y.1) → Map.get 0 x.flow q = Map.get 0 c.x.flow q))) ∧
    (∀ (a b : BitVec 4) (r : BitVec 1),
      let ok := pktPayload c.inv.pkt = true
      (¬ ok → kernelTraps (.emit a b r) s c kMalformed 2) ∧
      (ok → 16 ≤ c.inv.emits.length → kernelTraps (.emit a b r) s c kEmitLim 0) ∧
      (ok → c.inv.emits.length < 16 → inRankMap s c.job.job (c.k b).toNat = false → kernelTraps (.emit a b r) s c kBadRank 0) ∧
      (ok → c.inv.emits.length < 16 → inRankMap s c.job.job (c.k b).toNat = true →
        exec (.emit a b r) s = .next (wordDone s c { c.inv with emits := c.inv.emits ++ [{ c.inv.pkt with
          dest := (c.k b).toNat, src := jobRank s c.job.job, payload := c.z a,
          member := if r = 1 then 0xFFFF else c.inv.pkt.member }] }))))

/-- R356, R361, R363, R364, R365: a vector word writes its value in the lanes its mask allows, a scalar word its
value in its register, VSEL and VINS theirs in every lane, VCMP the bits of a mask other than m0; PLD reads the
payload; the next word follows, and nothing else changes. R358, R359, R368, R369, R371, R372: BNZ, BZ and JMP go to
their own index plus the offset where they branch; REPEAT begins its body with counter 0; PASS forwards and DROP
discards the packet after the emitted ones, TRAPK traps KTRAP with its code; a processor that is free starts on the
oldest packet of its queue with every register zero, or traps MALFORMED; a hooked packet enters its queue while that
holds fewer than 64. A drain marker of a job held here that no hook takes ends here; a marker or binding of another
is counted; the control messages that bind, unbind or snapshot a job held here do what the commands do. What a control message or a drain
marker carries and when it acts are the model's choice (log entries 49 and 80, DESIGN CHOICE). -/
def Obligations.ScribeWords : Prop :=
  (∀ (s : State) (c : Kn) (d a b : BitVec 4) (m : BitVec 2) (t : BitVec 4), kernelOf s = some c →
    let vec (i : Instr) (g : Nat → Bool) (x : Nat → Word) : Prop := ∃ inv, exec i s = .next (wordDone s c inv) ∧
      { inv with z := c.inv.z } = c.inv ∧ ∀ r l, l < 16 → zLane (Map.get 0 inv.z r) l =
        if r = d.toNat ∧ g l = true then x l else zLane (Map.get 0 c.inv.z r) l
    (∀ i x, (i, x) ∈ vectorWords c d a b m t → vec i (fun l => (c.m m).getLsbD l) x) ∧
    vec (.vsel d a b m) (fun _ => true) (fun l => if (c.m m).getLsbD l = true then zLane (c.z a) l else zLane (c.z b) l) ∧
    vec (.vins d a b) (fun l => l == b.toNat) (fun _ => c.k a) ∧
    vec (.pld d) (fun _ => true) (fun l => if pktPayload c.inv.pkt = true then zLane c.inv.pkt.payload l else 0) ∧
    (∀ (n : BitVec 5) (i12 : BitVec 12) (i22 : BitVec 22) (i10 : BitVec 10) (u : BitVec 1) (r : BitVec 3) (i : Instr) (x : Word),
      (i, x) ∈ scalarWords c d a b n i12 i22 i10 u r → ∃ inv, exec i s = .next (wordDone s c inv) ∧ { inv with k := c.inv.k } = c.inv ∧
        ∀ q, Map.get 0 inv.k q = if q = d.toNat then x else Map.get 0 c.inv.k q) ∧
    (∀ (e : BitVec 2) (r : BitVec 3), ∃ inv, exec (.vcmp e a b m r t) s = .next (wordDone s c inv) ∧
      { inv with m := c.inv.m } = c.inv ∧ ∀ q l, l < 16 → (Map.get 0 inv.m q).getLsbD l =
        if q = e.toNat ∧ q ≠ 0 ∧ (c.m m).getLsbD l = true
        then (cmpElem r.toNat (scribeTy t) (zLane (c.z a) l).toNat (zLane (c.z b) l).toNat).1
        else (Map.get 0 c.inv.m q).getLsbD l)) ∧
  ((∀ (s : State) (c : Kn), kernelOf s = some c →
    let jump (o : BitVec 12) : State := s.putScribe c.proc { c.x with inv := some { c.inv with word := c.inv.word + o.toNat } }
    let gone := sendEmits (s.putScribe c.proc { c.x with inv := none }) c.proc c.inv.emits
    let p := if c.inv.pkt.cls = 0x13 then c.inv.arrived else c.inv.pkt
    (∀ (a : BitVec 4) (o : BitVec 12),
      exec (.jmp o) s = .next (jump o) ∧
      (c.k a ≠ 0 → exec (.bnz a o) s = .next (jump o) ∧ exec (.bz a o) s = .next (wordDone s c c.inv)) ∧
      (c.k a = 0 → exec (.bz a o) s = .next (jump o) ∧ exec (.bnz a o) s = .next (wordDone s c c.inv))) ∧
    (∀ (d : BitVec 4) (b : BitVec 8) (n : BitVec 9), ∃ inv, exec (.scribeRepeat d b n) s =
        .next (s.putScribe c.proc { c.x with inv := some inv }) ∧ inv.word = c.inv.word + 1 ∧
      inv.rep = some ⟨d.toNat, 0, n.toNat, c.inv.word + 1, c.inv.word + b.toNat⟩ ∧
      { inv with word := c.inv.word, rep := c.inv.rep, k := c.inv.k } = c.inv ∧
      ∀ q, Map.get 0 inv.k q = if q = d.toNat then 0 else Map.get 0 c.inv.k q) ∧
    exec .pass s = .next (forward gone p c.inv.dir) ∧ exec .drop s = .next (discard gone p c.inv.dir) ∧
    (∀ k, kernelTraps (.trapk k) s c kKtrap k.toNat)) ∧
  (∀ (s : State) (proc : Nat) (q : Queued) (rest : List Queued) (j : ScribeJob), (s.scribeAt proc).inv = none →
    (s.scribeAt proc).queue = q :: rest → (s.scribeAt proc).jobs.find? (fun j => j.job == q.job) = some j →
    (∀ g, g ∈ s.snapGate → g.1 ≠ proc) →
    (pktMalformed q.pkt = false → ∃ inv, exec (.scribeDispatch proc) s =
        .next (s.putScribe proc { s.scribeAt proc with queue := rest, inv := some inv }) ∧
      inv.job = q.job ∧ inv.word = q.entry ∧ inv.steps = 0 ∧ inv.z = [] ∧ inv.k = [] ∧ inv.m = [] ∧ inv.pkt = q.pkt ∧
      inv.dir = q.dir ∧ inv.emits = [] ∧ inv.rep = none ∧ inv.time = s.gtc.setWidth 32) ∧
    (pktMalformed q.pkt = true → ∃ c, exec (.scribeDispatch proc) s = .next (scribeTrap s c 3 1) ∧ c.proc = proc ∧ c.job = j ∧
      c.inv.arrived = q.pkt ∧ c.x.queue = rest)) ∧
  (∀ (s : State) (p : Packet) (h : Hook), linked s = true → p.acked = false → foreign s p.job p.src = false → hookFor s p 0 = some h → (s.scribeAt h.proc).queue.length < 64 →
    exec (.packetAccept p 0) s = .next (s.putScribe h.proc { s.scribeAt h.proc with
      queue := (s.scribeAt h.proc).queue ++ [⟨p, 0, h.job, h.entry⟩] })) ∧
  (∀ (s : State) (p : Packet), linked s = true →
    (ctxOfJob s p.job = none → exec (.drainMarker p) s = .next { s with fabErrs := s.fabErrs + 1 }) ∧
    (ctxOfJob s p.job ≠ none → hookFor s { p with cls := 0x13 } 0 = none → p.returning = false →
      exec (.drainMarker p) s = .next (s.send (.marker { p with cls := 0x13, dest := p.src, src := p.dest, returning := true }))) ∧
    (ctxOfJob s p.job ≠ none → hookFor s { p with cls := 0x13 } 0 = none → p.returning = true → ∀ f, s.freeze = some f →
      exec (.drainMarker p) s = .next { s with freeze := some { f with markers := f.markers.filter (· != p.tag) } })) ∧
  (∀ (s : State) (c : MCmd), linked s = true → ctxOfJob s (cmdJob c) = none →
    exec (.scribeControl c .unbind) s = .next { s with fabErrs := s.fabErrs + 1 } ∧
    exec (.scribeControl c .snap) s = .next { s with fabErrs := s.fabErrs + 1 }) ∧
  (∀ (s : State) (c : MCmd), linked s = true → s.freeze = none → s.cmdq = [] → supOf s c.who c.ctx = true →
    (ctxOfJob s (leAt (s.cmdRead c.a1 2) 0 2) ≠ none → exec (.scribeControl c .bind) s = exec (.scribebind c) s ∧
      (rebindHeld s c = false → ∃ t st, exec (.scribeControl c .bind) s = .next (reply t c.mctp st))) ∧
    (∀ j, ctxOfJob s (cmdJob c) ≠ none → boundJob s c = some j → between s (cmdProc c) = true →
      exec (.scribeControl c .unbind) s = .next (reply (unbindJob (cmdProc c) j s) c.mctp 0) ∧
      (s.snapGate = [] → (s.scribeAt (cmdProc c)).queue = [] → exec (.scribeControl c .snap) s =
        .next (reply (s.wr c.a1.toNat (jobBlock s (cmdProc c) j)) c.mctp 0)))))

/-- R9, R254, R256, R290, R382, R394, R421: a write to a context's PTROOT or handler registers by its supervisor or
the owner changes the writable bits of that register alone, and by others nothing; CTXSAVE takes a value of theirs until a team
of the context has been placed; the mailbox takes arguments and queues a command while it is not busy; a shootdown
ends once no request translated by its range is unanswered, no update of a frame by its context is queued and no operation on an
object that was placed before waits; no core then holds a translation of the range for its accesses, and its fetch one of the entry as
it is now at most (log entry 16, DESIGN CHOICE); a whole-context one puts PTROOT in use. The owner's right is log entry 13, that a
write without the right is ignored log entry 51 (DESIGN CHOICE), and that PTROOT is used only after a whole-context shootdown also
the first time log entry 53 (DEDUCED). -/
def Obligations.HubRegisters : Prop :=
  (∀ (s : State) (ctx who : Nat) (val : DWord) (x : Ctx), Map.find s.ctxs ctx = some x → ctx < 64 →
    (supOf s who ctx = true →
      ctxBecomes (.registerWrite (0x21000 + 8 * ctx) val who) s ctx { x with ptroot := val &&& 0x00FFFFFFFFFFF800 } ∧
      ctxBecomes (.registerWrite (0x40000 + 0x20 * ctx) val who) s ctx { x with tventry := val &&& 0x00FFFFFFFFFFFFC0 } ∧
      ctxBecomes (.registerWrite (0x40008 + 0x20 * ctx) val who) s ctx { x with tvroot := val &&& 0x00FFFFFFFFFFF800 } ∧
      ctxBecomes (.registerWrite (0x40010 + 0x20 * ctx) val who) s ctx { x with tvstack := val &&& 0x00FFFFFFFFFF0000 } ∧
      ctxBecomes (.registerWrite (0x40018 + 0x20 * ctx) val who) s ctx { x with tvctl := val &&& 1 }) ∧
    (supOf s who ctx = false → exec (.registerWrite (0x21000 + 8 * ctx) val who) s = .next s ∧
      ∀ k, k < 4 → exec (.registerWrite (0x40000 + 0x20 * ctx + 8 * k) val who) s = .next s) ∧
    ctxBecomes (.ctxsaveWrite ctx ⟨val, who⟩) s ctx (if x.placedOnce = true ∨ supOf s who ctx = false then x else { x with ctxsave := val &&& 0x00FFFFFFFFE00000 })) ∧
  (∀ (s : State) (val : DWord) (who : Nat), bit s.mbstat 0 = false →
    exec (.registerWrite 0x08 val who) s = .next { s with mbarg0 := val } ∧
    exec (.registerWrite 0x10 val who) s = .next { s with mbarg1 := val } ∧
    exec (.registerWrite 0x18 val who) s = .next { s with mbarg2 := val } ∧
    exec (.registerWrite 0x20 val who) s = .next { s with mbarg3 := val } ∧
    (bit val 31 = true → exec (.registerWrite 0 val who) s = .next { s with
      mbcmd := val &&& 0x80003FFF, mbstat := 1,
      cmdq := s.cmdq ++ [(bits val 7 0, ⟨who, false, bits val 13 8, s.mbarg0, s.mbarg1, s.mbarg2, s.mbarg3⟩)] })) ∧
  (∀ (s : State) (val : DWord) (who k : Nat), bit s.mbstat 0 = true → k ≤ 4 →
    exec (.registerWrite (8 * k) val who) s = .next s) ∧
  (∀ (s : State) (val : DWord) (who k : Nat), anySup s who = true → k < 4 →
    exec (.registerWrite (0x30000 + 0x100 * k) val who) s =
      .next { s with noccfg := Map.set 0x1801 s.noccfg k (val &&& 0xFF01) }) ∧
  (∀ (s : State) (val : DWord), exec (.tlbictlGo val) s =
    .next (if s.tlbibusy then s else { s with tlbictl := val &&& 0x1FF, tlbibusy := bit val 8 })) ∧
  (∀ (s : State),
    let early := (∃ r, r ∈ s.fabReqs ∧ shootPending s r.2 = true) ∨ (∃ u, u ∈ s.frameQ ∧ u.ctx = bits s.tlbictl 5 0) ∨
      namesPending s (bits s.tlbictl 5 0) = true
    (s.tlbibusy = false ∨ early → exec .shootdownComplete s = .next s) ∧
    (s.tlbibusy = true → ¬ early →
      ∃ t, exec .shootdownComplete s = .next t ∧ t.tlbibusy = false ∧
        (∀ e, e.x = false → (e ∈ t.tlb ↔ e ∈ s.tlb ∧ ¬ inShootdown s e)) ∧ (∀ e, e ∈ s.tlb → ¬ inShootdown s e → e ∈ t.tlb) ∧
        (∀ e, e ∈ t.tlb → e ∉ s.tlb ∨ inShootdown s e → ∃ l p, walk s e.root (BitVec.ofNat 64 p) = .ok l ∧ e.leaf = l.word ∧
          e.page = l.page ∧ e.size = l.size ∧ leafPerm l .x = .ok ()) ∧
        (∀ k x, Map.find s.ctxs k = some x → Map.find t.ctxs k =
          some (if bits s.tlbictl 7 6 = 3 ∧ k = bits s.tlbictl 5 0 then { x with ptrootUsed := x.ptroot } else x)) ∧
        { t with ctxs := s.ctxs, tlb := s.tlb, tlbictl := s.tlbictl, tlbibusy := s.tlbibusy } = s))

/-- R421, R422, R436: a command behind another, or within a FREEZE, waits in the queue in order, and one from the mailbox is ignored
while BUSY is 1; a caller without the
right is answered 0xFF and nothing changes; an answer clears BUSY and GO and gives the status in MBSTAT, or over
MCTP. The one queue, that an answer clears GO and that one over MCTP goes to `reports` are the model's choice (log entry 73, DESIGN CHOICE). -/
def Obligations.CommandRights : Prop :=
  (∀ (s : State) (c : MCmd) (op : Nat) (i : Instr) (right : Bool), (op, i, right) ∈ ([(0x01, .survey c, true), (0x02, .load c, supOf s c.who c.ctx),
      (0x03, .partcfg c, partRight s c), (0x04, .modeset c, c.who == Config.ownerCred),
      (0x05, .ctxsw c, supOf s c.who c.ctx && supOf s c.who (bits c.a1 5 0)), (0x06, .freeze c, supOf s c.who c.ctx),
      (0x07, .thaw c, supOf s c.who c.ctx), (0x08, .dirtyscan c, supOf s c.who c.ctx), (0x09, .scribebind c, supOf s c.who c.ctx),
      (0x0A, .routeset c, c.who == Config.ownerCred), (0x0B, .ctxend c, supOf s c.who c.ctx),
      (0x0C, .ctxcreate c, c.who == Config.ownerCred), (0x0D, .jobbind c, supOf s c.who c.ctx),
      (0x0E, .keyenrol c, supOf s c.who c.ctx), (0x0F, .cfgwrite c, c.who == Config.ownerCred),
      (0x10, .scribeunbind c, supOf s c.who c.ctx), (0x11, .scriberead c, supOf s c.who c.ctx),
      (0x12, .scribewrite c, supOf s c.who c.ctx), (0x13, .scribesnap c, supOf s c.who c.ctx)] : List (Nat × Instr × Bool)) →
    (¬ commandsOpen s →
      (c.mctp = true → exec i s = .next { s with cmdq := s.cmdq ++ [(op, c)] }) ∧
      (c.mctp = false → bit s.mbstat 0 = false → exec i s = .next { s with cmdq := s.cmdq ++ [(op, c)], mbstat := 1 }) ∧
      (c.mctp = false → bit s.mbstat 0 = true → exec i s = .next s)) ∧
    (commandsOpen s → right = false → refuses i s c 0xFF)) ∧
  (∀ (s : State) (st : Nat),
    reply s true st = { s with reports := s.reports ++ [[BitVec.ofNat 8 st]] } ∧
    reply s false st = { s with mbstat := BitVec.ofNat 64 (st * 256), mbcmd := s.mbcmd &&& 0x7FFFFFFF })

/-- R393, R423, R425, R437, R440: SURVEY writes a record of 4,096 bytes, or a quadrant's queue links; PARTCFG refuses reserved fields (3), a
quadrant of another partition (1) and a change under a resident context (2), and else sets its partition and the
accepting cores; MODESET and ROUTESET set the mode and the routes, or refuse (1). The order of PARTCFG's statuses and what it leaves are log entry
63, the form of ROUTESET's table and its opaque test log entry 64 (both DESIGN CHOICE). -/
def Obligations.DeviceCommands : Prop :=
  ∀ (s : State) (c : MCmd), commandsOpen s →
    (c.a1 = 0 → succeeds (.survey c) s c (s.wr c.a0.toNat (surveyRecord s)) ∧ (surveyRecord s).length = 4096) ∧
    (c.a1 = 1 → ∃ bs : List Byte, succeeds (.survey c) s c (s.wr c.a0.toNat bs) ∧ bs.length = 8 * 16384 ∧
      ∀ i, i < 16384 → leAt bs (8 * i) 8 = (Map.get 0 (quadAt s c.a2.toNat).links i).toNat) ∧
    (partRight s c = true ↔ c.who = Config.ownerCred ∨ (onlyMasks s c = true ∧ ∃ x, Map.find s.ctxs c.ctx = some x ∧ x.cred = c.who ∧
      x.part = bits c.a0 19 16)) ∧
    (partRight s c = true →
      let n := bits c.a0 19 16
      let w := partWanted c
      let bad := bits c.a0 63 20 ≠ 0 ∨ bits c.a2 7 1 ≠ 0 ∨ bits c.a2 63 10 ≠ 0 ∨ bits c.a2 9 8 = 3
      let taken := ∃ p, p ∈ s.parts ∧ p.1 ≠ n ∧ ∃ q, q ∈ p.2.quads ∧ q ∈ w.quads
      (bad → refuses (.partcfg c) s c 3) ∧ (¬ bad → taken → refuses (.partcfg c) s c 1) ∧
      (¬ bad → ¬ taken → onlyMasks s c = false → partResident s n = true → refuses (.partcfg c) s c 2) ∧
      (¬ bad → ¬ taken → (onlyMasks s c = true ∨ partResident s n = false) →
        ∃ t, succeeds (.partcfg c) s c t ∧
          (∀ k, Map.find t.parts k = if k = n then (if w.quads = [] then none else some w) else Map.find s.parts k) ∧
          (∀ q, quadAt t q = if q ∈ w.quads then
            { quadAt s q with accept := BitVec.ofNat 16 (leAt (s.rd c.a1.toNat 32) (2 * q) 2) } else quadAt s q) ∧
          { t with parts := s.parts, quads := s.quads } = s)) ∧
    (c.who = Config.ownerCred →
      (if c.a0.toNat ≤ 2 then succeeds (.modeset c) s c { s with mode := c.a0.toNat } else refuses (.modeset c) s c 1) ∧
      (let t := s.rd c.a0.toNat c.a1.toNat
       if Config.routesOk t then succeeds (.routeset c) s c { s with routing := t } else refuses (.routeset c) s c 1))

/-- R4, R417, R422, R436, R437: CTXCREATE refuses a number in use (1) and a partition that does not exist (2), and
else makes a context with zero registers, a zero CAR and no object; JOBBIND, KEYENROL and CFGWRITE refuse or take
what they name; CTXEND removes its context with all its groups and teams, makes its writes reach every frame, and leaves the
registers of other groups that lie in their cores. R18, R404, R435: LOAD of a signed object that passes every check makes an object
of the next handle, and one that fails changes no context; DIRTYSCAN refuses a context that does not exist (1) and a range that is
not of whole units (2), and else clears DIRTY of each leaf of the range, sets the bits of its units, and changes no other bit of the
bitmap and no other byte; THAW refuses an image whose header, table or contents are malformed (1) or
whose signature fails (2), and installs one that fits. The order of KEYENROL's statuses is log entry 66, CFGWRITE's records log entry 67, what the
image carries and how it is parsed log entry 83 (DESIGN CHOICE); THAW's order of checks is log entry 85, DIRTYSCAN's other bits log
entry 87, and what CTXEND does with queued frames log entry 24 (DEDUCED). No signature can be shown to verify (log entry 14): LOAD's and
THAW's premise that it does has no concrete witness. -/
def Obligations.ContextCommands : Prop :=
  (∀ (s : State) (c : MCmd), commandsOpen s →
    (c.who = Config.ownerCred →
      ((Map.find s.ctxs c.ctx).isSome = true → refuses (.ctxcreate c) s c 1) ∧
      (Map.find s.ctxs c.ctx = none → Map.find s.parts c.a0.toNat = none → refuses (.ctxcreate c) s c 2) ∧
      (Map.find s.ctxs c.ctx = none → (Map.find s.parts c.a0.toNat).isSome = true →
        succeeds (.ctxcreate c) s c { s with ctxs := Map.put s.ctxs c.ctx (Ctx.fresh c.a0.toNat c.a1.toNat) }) ∧
      (let r := s.rd c.a0.toNat c.a1.toNat
       let room := Config.storeRoom (s.cfgStore.foldl (fun n x => n + x.length) 0) r.length
       (recordSigned s.ownerKeys r = false → refuses (.cfgwrite c) s c 1) ∧
       (recordSigned s.ownerKeys r = true → room = false → refuses (.cfgwrite c) s c 2) ∧
       (recordSigned s.ownerKeys r = true → room = true → succeeds (.cfgwrite c) s c { s with cfgStore := s.cfgStore ++ [r] }))) ∧
    (∀ x, supOf s c.who c.ctx = true → Map.find s.ctxs c.ctx = some x →
      (x.job.isSome = true → refuses (.jobbind c) s c 1) ∧
      (x.job = none → rankMap s c.a1 (bits c.a2 8 0) = none → refuses (.jobbind c) s c 2) ∧
      (∀ m, x.job = none → rankMap s c.a1 (bits c.a2 8 0) = some m → succeeds (.jobbind c) s c
        { s with ctxs := Map.put s.ctxs c.ctx { x with job := some ⟨bits c.a0 15 0, m, bits c.a2 8 0⟩ } }) ∧
      (let alg := bits c.a0 15 8
       let key := s.rd c.a2.toNat (if alg = 1 then 32 else 1952)
       let bad := bits c.a0 7 0 ≠ 2 ∨ (alg ≠ 1 ∧ alg ≠ 2) ∨ bits c.a0 63 16 ≠ 0 ∨ Config.keyOk alg key = false
       let used := ∃ k, k ∈ s.ownerKeys ++ x.keys ∧ k.id = c.a1.toNat
       (bad → refuses (.keyenrol c) s c 2) ∧ (¬ bad → used → refuses (.keyenrol c) s c 1) ∧
       (¬ bad → ¬ used → succeeds (.keyenrol c) s c
         { s with ctxs := Map.put s.ctxs c.ctx { x with keys := x.keys ++ [⟨2, alg, c.a1.toNat, key⟩] } })) ∧
      (∃ t, succeeds (.ctxend c) s c t ∧ Map.find t.ctxs c.ctx = none ∧
        (∀ k, k ≠ c.ctx → Map.find t.ctxs k = Map.find s.ctxs k) ∧
        (∀ k g, Map.find t.groups k = some g → g.ctx ≠ c.ctx) ∧ (∀ k u, Map.find t.teams k = some u → u.ctx ≠ c.ctx) ∧
        (distinctKeys s.groups → ∀ k g, Map.find s.groups k = some g → g.ctx ≠ c.ctx → g.saved = none →
          ∃ g', Map.find t.groups k = some g' ∧ { g' with lastIssue := g.lastIssue } = g) ∧
        (∀ u, u ∈ t.frameQ → u.ctx = c.ctx → u.bytes = []) ∧
        ∀ a, (∀ u, u ∈ s.frameQ → ¬ (u.pa ≤ a ∧ a < u.pa + u.bytes.length)) → t.mem.byte a = s.mem.byte a))) ∧
  (∀ (s : State) (c : MCmd), commandsOpen s → supOf s c.who c.ctx = true →
    (∀ x, Map.find s.ctxs c.ctx = some x →
      ∃ t st, exec (.load c) s = .next (reply t c.mctp st) ∧ (st ≠ 0 → t.ctxs = s.ctxs) ∧
        (st = 0 → ∃ x' o, Map.find t.ctxs c.ctx = some x' ∧ Map.find x'.objs x.nextHandle = some o ∧
          o.bytes = s.rd c.a0.toNat c.a1.toNat ∧ x'.nextHandle = x.nextHandle + 1 ∧
          (∀ h, h ≠ x.nextHandle → Map.find x'.objs h = Map.find x.objs h) ∧ (∀ k, k ≠ c.ctx → Map.find t.ctxs k = Map.find s.ctxs k)) ∧
        { t with mem := s.mem, poison := s.poison, frameQ := s.frameQ, ctxs := s.ctxs } = s ∧
        ∀ form, loadable s c x form → st = 0 ∧ ∀ x' o, Map.find t.ctxs c.ctx = some x' → Map.find x'.objs x.nextHandle = some o →
          o.form = form ∧ o.codeBase = leAt (s.rd c.a2.toNat 32) 0 8) ∧
    (let n := c.a1.toNat
     let bad := n = 0 ∨ c.a0.toNat % 65536 ≠ 0 ∨ n % 65536 ≠ 0
     (Map.find s.ctxs c.ctx = none → refuses (.dirtyscan c) s c 1) ∧
     ((Map.find s.ctxs c.ctx).isSome = true → bad → refuses (.dirtyscan c) s c 2) ∧
     ((Map.find s.ctxs c.ctx).isSome = true → ¬ bad → scanHeld s c = true → exec (.dirtyscan c) s = .next (holdCommand s 0x08 c)) ∧
     ((Map.find s.ctxs c.ctx).isSome = true → ¬ bad → scanHeld s c = false →
       let whole (l : Leaf) : Prop := c.a0.toNat ≤ l.page ∧ l.page + l.size ≤ c.a0.toNat + n
       let hit (l : Leaf) : Prop := l ∈ leavesOf s (ctxRoot s c.ctx) ∧ bit l.word 7 = true ∧ l.page < c.a0.toNat + n ∧
         c.a0.toNat < l.page + l.size
       let inMap (a : Nat) : Prop := c.a2.toNat ≤ a ∧ a < c.a2.toNat + ceilDiv (n / 65536) 8
       ∃ t, succeeds (.dirtyscan c) s c t ∧ { t with mem := s.mem, poison := s.poison, tlb := s.tlb } = s ∧
         (∀ e, e.x = false → (e ∈ t.tlb ↔ e ∈ s.tlb ∧ ∀ l, hit l → whole l → e.loc ≠ l.loc)) ∧
         (∀ e, e.x = true → e ∈ s.tlb → (∀ l, hit l → whole l → e.loc ≠ l.loc) → e ∈ t.tlb) ∧
         (∀ a, (∀ l, hit l → whole l → a ≠ l.loc) → ¬ inMap a → t.mem.byte a = s.mem.byte a) ∧
         ((∀ l, hit l → ¬ inMap l.loc) →
           (∀ l, hit l → whole l → t.mem.byte l.loc = s.mem.byte l.loc &&& 0x7F) ∧
           ∀ a k, inMap a → k < 8 → ((t.mem.byte a).getLsbD k = true ↔ (s.mem.byte a).getLsbD k = true ∨
             ∃ l u, hit l ∧ u ∈ scanUnits c.a0.toNat n l ∧ a = c.a2.toNat + u / 8 ∧ k = u % 8)))) ∧
    (let b := s.rd c.a0.toNat (leNat (s.rd (c.a0 + 8).toNat 8))
     (atlasOk b = false → refuses (.thaw c) s c 1) ∧
     (atlasOk b = true → imageSigned s b = false → refuses (.thaw c) s c 2) ∧
     (atlasOk b = true → imageSigned s b = true → readImage s b = none → refuses (.thaw c) s c 1) ∧
     (∀ a p s1, atlasOk b = true → imageSigned s b = true → readImage s b = some a → Map.find s.parts c.a1.toNat = some p → p.quads ≠ [] →
       ((Map.find s.ctxs c.ctx = none ∧ s1 = s) ∨ ∃ x, Map.find s.ctxs c.ctx = some x ∧ x.lateClosed = true ∧ x.part = c.a1.toNat ∧
         s1 = leavePlaceFor s c.ctx) →
       nofit s1 c.ctx p a (planTeams s1 p a) (planPages s1 ((sortedQuads p).headD 0 / 4) a.pages (usedSpans s1)) = none →
       ∃ t x, succeeds (.thaw c) s c t ∧ Map.find t.ctxs c.ctx = some x ∧ x.part = c.a1.toNat ∧ x.car = a.ctx.car)))

/-- R395, R396, R400: CTXSW refuses contexts that are not placed on every core it names (1) or are frozen (2), and
else begins a switch on each of them that runs the outgoing context; the switch done, the incoming one is active, no register
of a group that lay in its core has changed, and a group that lay in the save area has the v registers that this holds. FREEZE freezes its context and goes through six steps, the last of which ends
it; a marker is waited for no longer than 2 ms. A core that runs another context is left as it is by CTXSW (log entry 74), and the device keeps
the contents of the images it writes (log entry 83, both DESIGN CHOICE); when a step of FREEZE ends and what a second FREEZE does is log
entry 84 (DEDUCED). -/
def Obligations.SwitchAndFreeze : Prop :=
  (∀ (s : State) (c : MCmd), commandsOpen s →
    let outg := bits c.a1 5 0
    let cores := maskCores c.a0 (bits c.a1 9 8)
    let bad := c.ctx = outg ∨ cores = [] ∨ ∃ k, k ∈ cores ∧ (holdsCtx s k c.ctx && holdsCtx s k outg) = false
    let ice := ctxFrozen s c.ctx = true ∨ ctxFrozen s outg = true
    (supOf s c.who c.ctx = true → supOf s c.who outg = true →
      (bad → refuses (.ctxsw c) s c 1) ∧ (¬ bad → ice → refuses (.ctxsw c) s c 2) ∧
      (¬ bad → ¬ ice → (∀ k, k ∈ cores → (s.coreAt k).incoming = none) →
        ∃ t, exec (.ctxsw c) s = .next t ∧ t.cmdq = [(0x105, c)] ∧ t.mem = s.mem ∧ t.teams = s.teams ∧ t.ctxs = s.ctxs ∧
          ∀ k, t.coreAt k = if k ∈ cores ∧ (s.coreAt k).active = some outg then { s.coreAt k with incoming := some c.ctx }
            else s.coreAt k)) ∧
    (supOf s c.who c.ctx = true →
      (Map.find s.ctxs c.ctx = none → refuses (.freeze c) s c 1) ∧
      ∀ x, Map.find s.ctxs c.ctx = some x → ∃ t f, exec (.freeze c) s = .next t ∧ t.freeze = some f ∧ f.ctx = c.ctx ∧
        f.buf = c.a0.toNat ∧ f.len = c.a1.toNat ∧ f.step = (if x.frozen then 6 else 1) ∧ (x.frozen = true → f.snaps = x.snaps) ∧
        Map.find t.ctxs c.ctx = some { x with frozen := true } ∧ t.mem = s.mem ∧
        ∀ k g, Map.find s.groups k = some g → ∃ g', Map.find t.groups k = some g' ∧ { g' with lastIssue := g.lastIssue } = g)) ∧
  (∀ (s : State) (core inc : Nat), (s.coreAt core).incoming = some inc →
    let ends (x : Nat × Group) : Prop := x.2.core = core ∧ (s.coreAt core).active = some x.2.ctx ∧ x.2.handler ≠ none
    ((∃ x, x ∈ s.groups ∧ ends x) → exec (.contextSwitchDone core) s = .next s) ∧
    ((∀ x, x ∈ s.groups → ¬ ends x) → (s.coreAt core).active ≠ some inc → (∃ k g, Map.find s.groups k = some g ∧ g.core = core ∧ g.ctx = inc) →
      distinctKeys s.groups → distinctKeys s.teams →
      ∃ t, exec (.contextSwitchDone core) s = .next t ∧ (t.coreAt core).active = some inc ∧ (t.coreAt core).incoming = none ∧
        (∀ k, k ≠ core → t.coreAt k = s.coreAt k) ∧
        (∀ k u, Map.find s.teams k = some u → u.ctx ≠ inc ∨ u.saved = none → ∃ u', Map.find t.teams k = some u' ∧
          { u' with saved := u.saved } = u) ∧
        (∀ k g, Map.find s.groups k = some g → g.ctx ≠ inc ∨ g.saved = none ∨ g.core ≠ core → ∃ g', Map.find t.groups k = some g' ∧
          { g' with lastIssue := g.lastIssue, saved := g.saved } = g) ∧
        ∀ k g a, Map.find s.groups k = some g → g.core = core → g.ctx = inc → g.handler = none → g.saved = some a →
          ∃ g', Map.find t.groups k = some g' ∧ g'.saved = none ∧ ∀ r l, r < g.budget → l < 32 → Map.get 0 g'.v (32 * r + l) =
            BitVec.ofNat 32 (leAt (t.rd (saveRegion t inc core + a) (128 * g.budget)) (4 * (32 * r + l)) 4))) ∧
  (∀ (s : State) (f : FreezeJob), s.freeze = some f →
    (stepEnds s f = false → exec .freezeStepEnd s = .next s) ∧
    (stepEnds s f = true → f.step ≠ 6 → ∃ t f', exec .freezeStepEnd s = .next t ∧ t.freeze = some f' ∧ f'.step = f.step + 1 ∧
      f'.ctx = f.ctx ∧ f'.buf = f.buf ∧ f'.len = f.len) ∧
    (stepEnds s f = true → f.step = 6 → ∃ t, exec .freezeStepEnd s = .next t ∧ t.freeze = none ∧
      ∀ x, Map.find s.ctxs f.ctx = some x →
        let s1 := settleFrames s f.ctx
        let a := collect s1 f.ctx x f.snaps
        let body := a.body
        if f.len < body.length + 3389 then t.mem = s1.mem ∧ Map.find t.ctxs f.ctx = some { x with snaps := f.snaps } ∧
          (f.mctp = false → t.mbarg1 = BitVec.ofNat 64 (body.length + 3389))
        else t.images = s.images ++ [a] ∧ t.mem = s1.mem.store (BitVec.ofNat 64 f.buf).toNat (body ++ identitySign body) ∧
          Map.find t.ctxs f.ctx = some { x with lateClosed := true, snaps := f.snaps } ∧
          (f.mctp = false → t.mbarg1 = BitVec.ofNat 64 (body.length + 3389))) ∧
    (stepEnds s f = true → f.step = 6 → Map.find s.ctxs f.ctx = none → ∃ t, exec .freezeStepEnd s = .next t ∧ t.mbarg1 = s.mbarg1) ∧
    exec .freezeDrainTimeout s = .next (if f.step = 3 ∧ f.since + 4000000 ≤ s.tick then
      { s with freeze := some { f with markers := [] } } else s)) ∧
  (∀ s : State, s.freeze = none → exec .freezeStepEnd s = .next s ∧ exec .freezeDrainTimeout s = .next s)

/-- R357, R359, R375, R422, R437, R440: SCRIBEBIND of a job within its limits binds it with its entry, its hooks and its code, its
flow slots zero, in the place of an entry the job has; it waits while that one's processor runs an invocation; refused, it changes
no processor, no hook and no group. SCRIBEUNBIND, SCRIBEREAD, SCRIBEWRITE and SCRIBESNAP of a job that is not bound are refused
(1); the first three wait for the end of an invocation of the processor, SCRIBESNAP for the packets accepted before it. That a job bound again
keeps its place and the order of the statuses are log entry 77 (DEDUCED), and the wait for the end of an invocation is log entry 80 (DESIGN
CHOICE). -/
def Obligations.ScribeCommands : Prop :=
  ∀ (s : State) (c : MCmd), commandsOpen s → supOf s c.who c.ctx = true →
    let proc := bits c.a0 3 0
    (rebindHeld s c = true → exec (.scribebind c) s = .next { s with cmdq := [(0x09, c)] }) ∧
    (rebindHeld s c = false → ∃ t st, exec (.scribebind c) s = .next (reply t c.mctp st) ∧ (bits c.a0 63 4 ≠ 0 → st = 2) ∧
      (st ≠ 0 → t.scribes = s.scribes ∧ t.hooks = s.hooks ∧ t.groups = s.groups)) ∧
    (∀ j hs, bindable s c j hs → rebindHeld s c = false → (∀ q, q ∈ (s.scribeAt proc).queue → q.job ≠ j.job) →
      ∃ t, succeeds (.scribebind c) s c t ∧
        (∀ k, k ∈ (t.scribeAt proc).jobs ↔ k = j ∨ (k ∈ (s.scribeAt proc).jobs ∧ k.job ≠ j.job)) ∧
        (∀ h, h ∈ hs → h ∈ t.hooks) ∧ (∀ h, h ∈ t.hooks → h ∈ hs ∨ h ∈ s.hooks) ∧
        (∀ h, h ∈ s.hooks → h.job ≠ j.job ∨ h.proc ≠ proc → h ∈ t.hooks) ∧
        (∀ k, k < 16 * j.clen → Map.get 0 (t.scribeAt proc).code (16 * j.cbase + k) =
          BitVec.ofNat 32 (leAt (s.rd c.a2.toNat (64 * j.clen)) (4 * k) 4)) ∧
        (∀ k, k < j.fcnt → Map.get 0 (t.scribeAt proc).flow (j.fbase + k) = 0) ∧
        (∀ p, p ≠ proc → t.scribeAt p = s.scribeAt p) ∧
        { t with scribes := s.scribes, hooks := s.hooks, mem := s.mem, poison := s.poison } = s) ∧
    (boundJob s c = none → ∀ i, i ∈ [Instr.scribeunbind c, .scriberead c, .scribewrite c, .scribesnap c] → refuses i s c 1) ∧
    (∀ j, boundJob s c = some j →
      (between s proc = false →
        ∀ op i, (op, i) ∈ [(0x10, Instr.scribeunbind c), (0x11, .scriberead c), (0x12, .scribewrite c)] →
          exec i s = .next { s with cmdq := [(op, c)] }) ∧
      (between s proc = true →
        succeeds (.scribeunbind c) s c (unbindJob proc j s) ∧
        ((∀ q, q ∈ (s.scribeAt proc).queue → q.job ≠ j.job) →
          ∃ t, succeeds (.scribeunbind c) s c t ∧ (∀ k, k ∈ (t.scribeAt proc).jobs ↔ k ∈ (s.scribeAt proc).jobs ∧ k.job ≠ j.job) ∧
            (∀ h, h ∈ t.hooks ↔ h ∈ s.hooks ∧ ¬ (h.job = j.job ∧ h.proc = proc)) ∧ t.mem = s.mem) ∧
        (j.fcnt < c.a1.toNat + c.a2.toNat → refuses (.scriberead c) s c 2 ∧ refuses (.scribewrite c) s c 2) ∧
        (c.a1.toNat + c.a2.toNat ≤ j.fcnt →
          succeeds (.scriberead c) s c (s.wr c.a3.toNat (flowBytes (s.scribeAt proc) j c.a1.toNat c.a2.toNat)) ∧
          ∃ t, succeeds (.scribewrite c) s c t ∧ { t with scribes := s.scribes } = s ∧
            ∀ k, Map.get 0 (t.scribeAt proc).flow k =
              if j.fbase + c.a1.toNat ≤ k ∧ k < j.fbase + c.a1.toNat + c.a2.toNat then
                BitVec.ofNat 512 (leAt (s.rd c.a3.toNat (64 * c.a2.toNat)) (64 * (k - (j.fbase + c.a1.toNat))) 64)
              else Map.get 0 (s.scribeAt proc).flow k)) ∧
      (if snapReady s proc (bits c.a0 31 16) then
        succeeds (.scribesnap c) s c ((closeGate s proc (bits c.a0 31 16)).wr c.a1.toNat (jobBlock s proc j))
       else ∃ t, exec (.scribesnap c) s = .next t ∧ t.cmdq = [(0x13, c)] ∧ t.scribes = s.scribes ∧ t.mem = s.mem))

/-- R4, R244, R392, R419, R420, R424, R425: the host reads and writes HBM bytes; a corrected error is only counted,
an uncorrectable one poisons its word; power-on starts at reduced service with the hub's store, which alone lasts
without power; training brings full service where every record verified; a limit exceeded throttles, and shuts down
after 100 ms; a device that has cooled for 1 s recovers. That memory is zero once power has gone and come is log entries 7 and 69, the counts of the
times and that a shutdown ends a freeze log entry 70, and the word of the code, a poisoned register among them, log entry 72 (all DESIGN CHOICE). -/
def Obligations.DeviceEvents : Prop :=
  (∀ (s : State) (a : Nat) (b : Byte),
    (a < 768 * 2 ^ 30 ∨ (0x080000000000 ≤ a ∧ a ≤ 0x0FFFFFFFFFFF ∧ a < 0x080000000000 + s.fitted.hostBytes) → exec (.hostMemAccess true a b) s = .next (s.wr a [b]) ∧
      ∃ x, exec (.hostMemAccess false a b) s = .next { s with hostRead := s.hostRead ++ [(a, x)] } ∧
        (poisoned s.poison a 1 = false → x = s.mem.byte a)) ∧
    (768 * 2 ^ 30 ≤ a → a < 0x080000000000 ∨ 0x0FFFFFFFFFFF < a ∨ 0x080000000000 + s.fitted.hostBytes ≤ a → ∀ w, exec (.hostMemAccess w a b) s = .next s)) ∧
  (∀ (s : State) (loc : EccLoc), exec (.eccScrub loc false) s = .next { s with eccCorr := s.eccCorr + 1 }) ∧
  (∀ (s : State) (pa : Nat), ∃ t, exec (.eccScrub (.mem pa) true) s = .next t ∧ poisoned t.poison pa 1 = true ∧
    { t with poison := s.poison } = { s with eccUnc := s.eccUnc + 1 }) ∧
  (∀ (s : State) (gid key : Nat) (g : Group), Map.find s.groups gid = some g →
    ∃ t g', exec (.eccScrub (.reg gid key) true) s = .next t ∧ Map.find t.groups gid = some g' ∧ key ∈ g'.poison ∧
      { g' with poison := g.poison } = g ∧ t.eccUnc = s.eccUnc + 1 ∧ t.mem = s.mem) ∧
  (∀ (s : State) (tid off : Nat) (u : Team), Map.find s.teams tid = some u → ∃ t u', exec (.eccScrub (.team tid off) true) s = .next t ∧
    Map.find t.teams tid = some u' ∧ poisoned u'.poison off 1 = true ∧ { u' with poison := u.poison } = u ∧
    { t with teams := s.teams } = { s with eccUnc := s.eccUnc + 1 }) ∧
  (∀ (s : State) (proc slot : Nat), ∃ t, exec (.eccScrub (.flow proc slot) true) s = .next t ∧ slot ∈ (t.scribeAt proc).poison ∧
    { (t.scribeAt proc) with poison := (s.scribeAt proc).poison } = s.scribeAt proc ∧
    { t with scribes := s.scribes } = { s with eccUnc := s.eccUnc + 1 }) ∧
  (∀ (s : State) (fit : Fitted),
    (s.powered = true → exec (.powerOn fit) s = .next s) ∧
    (s.powered = false → ∃ t, exec (.powerOn fit) s = .next t ∧ t.powered = true ∧ t.svclevel = 0 ∧ t.mem = [] ∧ t.groups = [] ∧
      t.teams = [] ∧ t.ctxs = [] ∧ t.parts = [] ∧ t.cfgStore = s.cfgStore ∧ t.fitted = fit) ∧
    ∃ t, exec .powerRemoved s = .next t ∧ t.powered = false ∧ t.cfgStore = s.cfgStore ∧ t.mem = [] ∧ t.groups = [] ∧ t.ctxs = []) ∧
  (∀ s : State, exec .trainingComplete s =
    .next (if s.svclevel = 0 ∧ s.cfgOk = true then { s with svclevel := 1 } else s)) ∧
  (∀ (s : State) (tj hot : Nat), ∃ t, exec (.thermalSample tj hot) s = .next t ∧ t.tj = tj % 256 ∧
    t.therm = (if s.therm = 0 ∧ s.tjmax < tj then 1 else s.therm) ∧
    t.hotSince = (if s.tjmax < tj then some (s.hotSince.getD s.tick) else none) ∧
    t.coolSince = (if tj + 10 ≤ s.tjmax ∧ hot + 10 ≤ s.tjmax then some (s.coolSince.getD s.tick) else none) ∧
    { t with tj := s.tj, therm := s.therm, hotSince := s.hotSince, coolSince := s.coolSince } = s) ∧
  (∀ (s : State) (since : Nat), s.hotSince = some since →
    (s.therm ≠ 1 ∨ s.tick < since + 200000000 → exec .thermalShutdown s = .next s) ∧
    (s.therm = 1 → since + 200000000 ≤ s.tick → ∃ t, exec .thermalShutdown s = .next t ∧ t.therm = 2 ∧ t.ctxs = [] ∧ t.freeze = none)) ∧
  (∀ (s : State) (since : Nat), s.coolSince = some since → exec .thermalRecover s =
    .next (if s.therm = 1 ∧ since + 2000000000 ≤ s.tick then { s with therm := 0 } else s)) ∧
  (∀ (s : State) (on : Bool), exec (.packagePowerLimit on) s = .next { s with lowered := on }) ∧
  (∀ (s : State) (port st peer : Nat), s.svclevel ≠ 0 → port < 18 → st ≤ 2 →
    ∃ t p, exec (.fabricPortStateChange port st peer) s = .next t ∧ Map.find t.ports port = some p ∧ p.st = st ∧ p.peer = peer ∧
      (∀ k, k ≠ port → Map.find t.ports k = Map.find s.ports k) ∧ { t with ports := s.ports } = s) ∧
  (∀ (s : State) (k : Nat), 1 ≤ k → k ≤ 64 → ∃ ed ml, ed.length = 64 ∧ ml.length = 3309 ∧
    exec (.getMeasurements k) s = .next { s with reports := s.reports ++ [measureReport s (k - 1) ++ ed ++ ml] })

/-- R35, R424: right after reset the device has power, is at reduced service, runs no group, holds no context and no
partition, every queue has its reset registers and disabled, and memory lists nothing and is in its canonical form.
The values of registers the manual gives no reset value for are the model's choice (log entries 7 and 8). -/
def Obligations.ResetState : Prop :=
  let s := State.reset
  s.powered = true ∧ s.svclevel = 0 ∧ s.groups = [] ∧ s.teams = [] ∧ s.ctxs = [] ∧ s.parts = [] ∧ s.mem = [] ∧ s.agenda = [] ∧
  (∀ q, bit (Map.get LQueue.reset s.lqs q).lqctl 9 = false ∧ (Map.get LQueue.reset s.lqs q).lqhead = 0 ∧
    (Map.get LQueue.reset s.lqs q).lqtail = 0) ∧ s.memWf = true ∧ s.idle = true

/-- R53, R58, R59, R70: a step that issues from a split runs the instruction that the bytes of its line decode to,
and ends the step; the second of a pair runs in the same step, and where one of the two is held neither has issued (log entry 18,
DEDUCED); an issue that raises ACC_NOT_OWNED may yield to a lower slot's of the same clock (R414; log entry 108, DEDUCED); a null slot
is passed and nothing executes. A partition's clock issues from the split that the rules choose. A Scribe processor's step runs the word its code decodes to, counted in its steps; an event, or a
command of the queue, is a step of its own; at the end of every step no instruction is being executed. -/
def Obligations.StepRunsDecoded : Prop :=
  (∀ (s s0 : State) (rest : List Act) (gid pos : Nat) (g : Group) (sp : Split) (line : Line), s.powered = true →
    s.agenda = .issue gid pos :: rest → s0 = { s with agenda := rest } →
    (∀ i, mayRun s0 gid pos g sp line i →
      let a := issuedAt true s0 gid pos g sp i
      (∀ f, exec i a = .fault f → step s = .fault f) ∧ (∀ r, exec i a = .refused r → step s = .refused r) ∧
      (∀ t, exec i a = .next t → t.cur = none → step s = .next (endStep s0 (heldAct i a s0))) ∧
      ∀ t, exec i a = .next t → t.cur ≠ none →
        let u := finish a t
        (pairNext s0 u gid pos = false → step s = .next (issuedState s0 u gid pos)) ∧
        ∀ h tp line' j, pairNext s0 u gid pos = true → mayRun u gid pos h tp line' j →
          let b := issuedAt false u gid pos h tp j
          (∀ w, exec j b = .next w → w.cur ≠ none → step s = .next (issuedState s0 (finish b w) gid pos)) ∧
          ∀ w, exec j b = .next w → w.cur = none → step s = .next (endStep s0 (heldAct j b s0))) ∧
    (standsAt s0 gid pos g sp line → nullSlot line (slotOf sp.pc) = true → (bit (lineWord line) 29 = false ∨ sp.entered = true) →
      step s = .next (endStep s0 (s0.putG gid (g.setSplit pos sp.fall))))) ∧
  (∀ (s : State) (rest : List Act) (core part gid pos : Nat), s.powered = true → s.agenda = .clock core part :: rest →
    choose { s with agenda := rest } core part = some (gid, pos) → step s = step { s with agenda := .issue gid pos :: rest }) ∧
  (∀ (s : State) (rest : List Act) (p : Nat) (x : Scribe) (v : Invocation) (j : ScribeJob) (i : Instr),
    s.powered = true → s.agenda = .scribe p :: rest → x = s.scribeAt p → x.inv = some v →
    x.jobs.find? (fun j => j.job == v.job) = some j → v.steps < j.slim →
    decodeScribe (Map.get 0 x.code (16 * j.cbase + v.word)).toNat = some i →
    step s = stepOf i { (({ s with agenda := rest } : State).putScribe p
      { x with inv := some { v with steps := v.steps + 1 } }) with curProc := some p }) ∧
  (∀ (s : State) (rest : List Act) (i : Instr), s.powered = true → s.agenda = .event i :: rest →
    step s = stepOf i { s with agenda := rest }) ∧
  (∀ s t : State, step s = .next t → t.idle = true)

/-- R60 to R69, R74, R75, R361, R362: every well-formed instruction of a slot is what the decoder reads from its
encoding, in a line that names two flags, and every Scribe word likewise. -/
def Obligations.DecodeEncode : Prop :=
  (∀ (i : Instr) (fx fy : BitVec 4), i.width = 96 → i.wf = true → fx.toNat < 12 → fy.toNat < 12 →
    decodeSlot fx fy (BitVec.ofNat 96 (encode i)) = .ok i) ∧
  (∀ i : Instr, i.width = 32 → decodeScribe (encode i) = some i)

/-- R60 to R70: what the decoder accepts is well formed, and its encoding is the slot it was read from: no bit of a
slot is without meaning, and no two slots are one instruction; a Scribe word likewise. -/
def Obligations.DecodeSound : Prop :=
  (∀ (fx fy : BitVec 4) (w : Slot) (i : Instr), decodeSlot fx fy w = .ok i →
    i.width = 96 ∧ i.wf = true ∧ encode i = w.toNat) ∧
  (∀ (w : Nat) (i : Instr), w < 2 ^ 32 → decodeScribe w = some i → i.width = 32 ∧ encode i = w)

/-- R60 to R69, R74, R361, R362: words of each format written out from the manual's encodings decode to the
instructions they stand for: ADD.I32 v2, v1, #7; MOV.I64 s9, #0; (p1) BRC with reconvergence in the next line;
PFOLD.Y.MAX.SET pd5, pd4; (p1) STF.B128 [v10 + 0x10], v20; CPYT s2, s10; VADD.I32 z1, z2, z3; JMP 3. -/
def Obligations.DecodeWords : Prop :=
  decodeSlot 0 0 0x010020100000002000000007 =
    .ok (.add ⟨⟨⟨0, false⟩, 2, 1, 0, 0⟩, .i32, 0, false, .rn, .vec, .imm, .vec, 7⟩) ∧
  decodeSlot 0 0 0x920090000000008000000000 =
    .ok (.scalarMov ⟨⟨⟨0, false⟩, 9, 0, 0, 0⟩, .i64, 0, .imm, .vec, .vec, 0⟩) ∧
  decodeSlot 0 0 0xA12000000000800000000004 = .ok (.brc ⟨⟨⟨1, false⟩, 0, 0, 0, 0⟩, 0, 4, 0, 0, 1⟩) ∧
  decodeSlot 0 0 0x460050400000C00100000000 =
    .ok (.pfold ⟨⟨⟨0, false⟩, 5, 4, 0, 0⟩, 0, true, true, 0, .zero, .max, 0⟩) ∧
  decodeSlot 0 0 0xC42000A14008804000000010 =
    .ok (.stf ⟨⟨⟨1, false⟩, 0, 10, 20, 0⟩, .b128, .far, .none, .group, .none, true, 0, 16⟩) ∧
  decodeSlot 0 0 0xD00000000000A50000000000 =
    .ok (.cpyt ⟨⟨⟨0, false⟩, 0, 0, 0, 0⟩, 2, true, 10, .copy, false, 0, .none, 0, 0⟩) ∧
  decodeScribe 0x0448C000 = some (.vadd 1 2 3 0 0) ∧ decodeScribe 0xC8000003 = some (.jmp 3)

/-- Every step of the device keeps each of its memories in the one canonical form: addresses rising, and no byte listed that an
unlisted address reads as. -/
def Obligations.StepKeepsMemoryForm : Prop :=
  ∀ s t : State, s.memWf = true → step s = .next t → t.memWf = true
end

