-- ==== Sys2Proof/Laws/Map.lean ====
section
/-!
SUPPORT. Laws of sparse arrays and of memory: a read after a write, what a write leaves alone, and that every memory
operation keeps the canonical form.
-/
namespace Sys2Proof.Machine

variable {β : Type}

/-! ### Finding, writing and removing keys -/

@[simp] theorem Map.find_nil (k : Nat) : Map.find ([] : SMap β) k = none := rfl

theorem Map.find_cons (a : Nat) (b : β) (m : SMap β) (k : Nat) :
    Map.find ((a, b) :: m) k = if a = k then some b else Map.find m k := rfl

theorem Map.find_filter_key (p : Nat → Bool) (m : SMap β) (k : Nat) :
    Map.find (m.filter (fun x => p x.1)) k = if p k = true then Map.find m k else none := by
  induction m with
  | nil => simp
  | cons h t ih =>
    obtain ⟨a, b⟩ := h
    by_cases hp : p a = true
    · rw [List.filter_cons_of_pos (by simpa using hp), Map.find_cons, Map.find_cons, ih]
      by_cases hk : a = k
      · subst hk; simp [hp]
      · simp [hk]
    · rw [List.filter_cons_of_neg (by simpa using hp), ih, Map.find_cons]
      by_cases hk : a = k
      · subst hk; simp [hp]
      · simp [hk]

theorem Map.find_del (m : SMap β) (j k : Nat) : Map.find (Map.del m j) k = if k = j then none else Map.find m k := by
  unfold Map.del
  rw [Map.find_filter_key (fun a => a != j)]
  by_cases h : k = j <;> simp [h]

@[simp] theorem Map.find_del_self (m : SMap β) (k : Nat) : Map.find (Map.del m k) k = none := by simp [Map.find_del]

theorem Map.find_del_ne (m : SMap β) {j k : Nat} (h : k ≠ j) : Map.find (Map.del m j) k = Map.find m k := by
  simp [Map.find_del, h]

theorem Map.find_ins (m : SMap β) (j k : Nat) (v : β) (h : Map.find m j = none) :
    Map.find (Map.ins m j v) k = if k = j then some v else Map.find m k := by
  induction m with
  | nil => simp [Map.ins, Map.find_cons, eq_comm]
  | cons c t ih =>
    obtain ⟨a, b⟩ := c
    rw [Map.find_cons] at h
    have ha : a ≠ j := by intro e; simp [e] at h
    simp only [ha, if_false] at h
    unfold Map.ins
    split
    · rw [Map.find_cons]; by_cases hk : k = j
      · simp [hk]
      · simp [hk, Ne.symm hk]
    · rw [Map.find_cons, ih h, Map.find_cons]
      by_cases hk : a = k
      · subst hk; simp [ha]
      · simp [hk]

theorem Map.find_put (m : SMap β) (j k : Nat) (v : β) :
    Map.find (Map.put m j v) k = if k = j then some v else Map.find m k := by
  unfold Map.put
  rw [Map.find_ins _ _ _ _ (Map.find_del_self m j)]
  by_cases h : k = j
  · simp [h]
  · simp [h, Map.find_del_ne m h]

@[simp] theorem Map.find_put_self (m : SMap β) (k : Nat) (v : β) : Map.find (Map.put m k v) k = some v := by
  simp [Map.find_put]

theorem Map.find_put_ne (m : SMap β) {j k : Nat} (v : β) (h : k ≠ j) : Map.find (Map.put m j v) k = Map.find m k := by
  simp [Map.find_put, h]

theorem Map.find_modify (m : SMap β) (j k : Nat) (f : β → β) :
    Map.find (Map.modify m j f) k = if k = j then (Map.find m j).map f else Map.find m k := by
  unfold Map.modify
  cases h : Map.find m j with
  | none => by_cases e : k = j <;> simp [e, h]
  | some v => simp only [Map.find_put, Option.map]

/-! ### Arrays with a default -/

@[simp] theorem Map.get_nil (d : β) (k : Nat) : Map.get d [] k = d := rfl

theorem Map.get_put (d : β) (m : SMap β) (j k : Nat) (v : β) :
    Map.get d (Map.put m j v) k = if k = j then v else Map.get d m k := by
  unfold Map.get; rw [Map.find_put]; by_cases h : k = j <;> simp [h]

theorem Map.get_set [DecidableEq β] (d : β) (m : SMap β) (j k : Nat) (v : β) :
    Map.get d (Map.set d m j v) k = if k = j then v else Map.get d m k := by
  unfold Map.set
  split
  · subst v; unfold Map.get; rw [Map.find_del]; by_cases h : k = j <;> simp [h]
  · exact Map.get_put d m j k v

@[simp] theorem Map.get_set_self [DecidableEq β] (d : β) (m : SMap β) (k : Nat) (v : β) :
    Map.get d (Map.set d m k v) k = v := by simp [Map.get_set]

theorem Map.get_set_ne [DecidableEq β] (d : β) (m : SMap β) {j k : Nat} (v : β) (h : k ≠ j) :
    Map.get d (Map.set d m j v) k = Map.get d m k := by simp [Map.get_set, h]

/-! ### The canonical form -/

/-- Keys strictly rise, and no value is the default. -/
def Map.Canon (d : β) (m : SMap β) : Prop := m.Pairwise (fun x y => x.1 < y.1) ∧ ∀ x ∈ m, x.2 ≠ d

theorem Map.wf_cons [DecidableEq β] (d : β) (x : Nat × β) (m : SMap β) :
    Map.wf d (x :: m) = true ↔ x.2 ≠ d ∧ (∀ y ∈ m.head?, x.1 < y.1) ∧ Map.wf d m = true := by
  obtain ⟨a, v⟩ := x
  cases m with
  | nil => simp [Map.wf]
  | cons y t => obtain ⟨b, w⟩ := y; simp [Map.wf]; tauto

theorem Map.wf_iff [DecidableEq β] (d : β) (m : SMap β) : Map.wf d m = true ↔ Map.Canon d m := by
  induction m with
  | nil => simp [Map.wf, Map.Canon]
  | cons x t ih =>
    rw [Map.wf_cons, ih]
    unfold Map.Canon
    rw [List.pairwise_cons]
    constructor
    · rintro ⟨hx, hh, hp, hd⟩
      refine ⟨⟨?_, hp⟩, ?_⟩
      · intro y hy
        cases t with
        | nil => simp at hy
        | cons z s =>
          have hz : x.1 < z.1 := hh z (by simp)
          rcases List.mem_cons.mp hy with rfl | h
          · exact hz
          · exact lt_trans hz ((List.pairwise_cons.mp hp).1 y h)
      · intro y hy
        rcases List.mem_cons.mp hy with rfl | h
        · exact hx
        · exact hd y h
    · rintro ⟨⟨hx, hp⟩, hd⟩
      refine ⟨hd x (by simp), ?_, hp, fun y hy => hd y (by simp [hy])⟩
      intro y hy
      exact hx y (List.mem_of_mem_head? hy)

theorem Map.canon_filter (d : β) {m : SMap β} (p : Nat × β → Bool) (h : Map.Canon d m) : Map.Canon d (m.filter p) :=
  ⟨h.1.filter _, fun x hx => h.2 x (List.mem_of_mem_filter hx)⟩

theorem Map.mem_ins (m : SMap β) (k : Nat) (v : β) (x : Nat × β) (h : x ∈ Map.ins m k v) : x = (k, v) ∨ x ∈ m := by
  induction m with
  | nil => simpa [Map.ins] using h
  | cons c t ih =>
    obtain ⟨a, b⟩ := c
    unfold Map.ins at h
    split at h
    · simpa using h
    · rcases List.mem_cons.mp h with rfl | h
      · simp
      · rcases ih h with r | r <;> simp [r]

theorem Map.canon_ins (d : β) {m : SMap β} {k : Nat} {v : β} (h : Map.Canon d m) (hk : ∀ x ∈ m, x.1 ≠ k) (hv : v ≠ d) :
    Map.Canon d (Map.ins m k v) := by
  induction m with
  | nil => simp [Map.ins, Map.Canon, hv]
  | cons c t ih =>
    obtain ⟨a, b⟩ := c
    have hp := List.pairwise_cons.mp h.1
    unfold Map.ins
    split
    · rename_i hlt
      refine ⟨List.pairwise_cons.mpr ⟨?_, h.1⟩, ?_⟩
      · intro y hy
        rcases List.mem_cons.mp hy with rfl | hy
        · exact hlt
        · exact lt_trans hlt (hp.1 y hy)
      · intro y hy
        rcases List.mem_cons.mp hy with rfl | hy
        · exact hv
        · exact h.2 y hy
    · rename_i hge
      have ht := ih ⟨hp.2, fun x hx => h.2 x (by simp [hx])⟩ (fun x hx => hk x (by simp [hx]))
      have hak : a < k := by have := hk (a, b) (by simp); simp at this; omega
      refine ⟨List.pairwise_cons.mpr ⟨?_, ht.1⟩, ?_⟩
      · intro y hy
        rcases Map.mem_ins _ _ _ _ hy with rfl | hy
        · exact hak
        · exact hp.1 y hy
      · intro y hy
        rcases List.mem_cons.mp hy with rfl | hy
        · exact h.2 _ (by simp)
        · exact ht.2 y hy

theorem Map.canon_put (d : β) {m : SMap β} {k : Nat} {v : β} (h : Map.Canon d m) (hv : v ≠ d) :
    Map.Canon d (Map.put m k v) := by
  refine Map.canon_ins d (Map.canon_filter d _ h) ?_ hv
  intro x hx e
  have := (List.mem_filter.mp hx).2
  simp [e] at this

theorem Map.canon_set [DecidableEq β] (d : β) {m : SMap β} {k : Nat} {v : β} (h : Map.Canon d m) :
    Map.Canon d (Map.set d m k v) := by
  unfold Map.set
  split
  · exact Map.canon_filter d _ h
  · exact Map.canon_put d h ‹_›

/-! ### Memory -/

theorem Memory.wf_iff (m : Memory) : m.wf = true ↔ Map.Canon 0 m := Map.wf_iff 0 m

@[simp] theorem Memory.wf_nil : Memory.wf [] = true := rfl

/-- A write of one byte keeps the canonical form. -/
theorem Memory.wf_put {m : Memory} (h : m.wf = true) (a : Nat) (b : Byte) : (m.put a b).wf = true :=
  (Memory.wf_iff _).mpr (Map.canon_set 0 ((Memory.wf_iff m).mp h))

/-- A write of bytes keeps it. -/
theorem Memory.wf_store {m : Memory} (h : m.wf = true) (a : Nat) (bs : List Byte) : (m.store a bs).wf = true := by
  induction bs generalizing m a with
  | nil => exact h
  | cons b t ih => exact ih (Memory.wf_put h a b) (a + 1)

/-- So does forgetting bytes. -/
theorem Memory.wf_filter {m : Memory} (h : m.wf = true) (p : Nat × Byte → Bool) : Memory.wf (m.filter p) = true :=
  (Memory.wf_iff _).mpr (Map.canon_filter 0 p ((Memory.wf_iff m).mp h))

@[simp] theorem Memory.byte_nil (a : Nat) : Memory.byte [] a = 0 := rfl

theorem Memory.byte_put (m : Memory) (a k : Nat) (b : Byte) : (m.put a b).byte k = if k = a then b else m.byte k :=
  Map.get_set 0 m a k b

/-- Every byte after a store: the stored bytes within, what it was outside. -/
theorem Memory.byte_store (m : Memory) (a k : Nat) (bs : List Byte) :
    (m.store a bs).byte k = if a ≤ k ∧ k < a + bs.length then bs.getD (k - a) 0 else m.byte k := by
  induction bs generalizing m a with
  | nil => simp [Memory.store]
  | cons b t ih =>
    unfold Memory.store
    rw [ih, Memory.byte_put]
    simp only [List.length_cons]
    by_cases h1 : k = a
    · subst h1; simp
    · by_cases h2 : a + 1 ≤ k ∧ k < a + 1 + t.length
      · have h3 : a ≤ k ∧ k < a + (t.length + 1) := by omega
        have h4 : k - a = (k - (a + 1)) + 1 := by omega
        simp [h2, h3, h4]
      · have h3 : ¬ (a ≤ k ∧ k < a + (t.length + 1)) := by omega
        rw [if_neg h2, if_neg h3, if_neg h1]

/-- A store leaves every byte outside it. -/
theorem Memory.byte_store_outside (m : Memory) {a k : Nat} {bs : List Byte} (h : k < a ∨ a + bs.length ≤ k) :
    (m.store a bs).byte k = m.byte k := by
  rw [Memory.byte_store, if_neg]; omega

@[simp] theorem Memory.length_load (m : Memory) (a n : Nat) : (m.load a n).length = n := by simp [Memory.load]

/-- Reading back what was stored. -/
theorem Memory.load_store (m : Memory) (a : Nat) (bs : List Byte) : (m.store a bs).load a bs.length = bs := by
  apply List.ext_getElem
  · simp
  · intro i h1 h2
    simp [Memory.load, Memory.byte_store, h2]

end Sys2Proof.Machine
end

