-- ==== Sys2Proof/Laws/State.lean ====
section
/-!
SUPPORT. Each field of the state, and of a group, after each update that writes one named part of it.
-/
namespace Sys2Proof.Machine

variable (s : State) (g h : Group) (n m : Nat) (c : Core) (b : Bay) (k : Scribe) (q : LQueue) (bs : List Byte) (sp : Split) (x : DWord)

/-! ### State.putG -/

@[simp] theorem State.putG_agenda : (s.putG n g).agenda = s.agenda := rfl
@[simp] theorem State.putG_cur : (s.putG n g).cur = s.cur := rfl
@[simp] theorem State.putG_curProc : (s.putG n g).curProc = s.curProc := rfl
@[simp] theorem State.putG_tick : (s.putG n g).tick = s.tick := rfl
@[simp] theorem State.putG_clk : (s.putG n g).clk = s.clk := rfl
@[simp] theorem State.putG_free : (s.putG n g).free = s.free := rfl
@[simp] theorem State.putG_rotor : (s.putG n g).rotor = s.rotor := rfl
@[simp] theorem State.putG_nextId : (s.putG n g).nextId = s.nextId := rfl
@[simp] theorem State.putG_mem : (s.putG n g).mem = s.mem := rfl
@[simp] theorem State.putG_poison : (s.putG n g).poison = s.poison := rfl
@[simp] theorem State.putG_absent : (s.putG n g).absent = s.absent := rfl
@[simp] theorem State.putG_tags : (s.putG n g).tags = s.tags := rfl
@[simp] theorem State.putG_tlb : (s.putG n g).tlb = s.tlb := rfl
@[simp] theorem State.putG_groups : (s.putG n g).groups = Map.put s.groups n g := rfl
@[simp] theorem State.putG_teams : (s.putG n g).teams = s.teams := rfl
@[simp] theorem State.putG_clusters : (s.putG n g).clusters = s.clusters := rfl
@[simp] theorem State.putG_launches : (s.putG n g).launches = s.launches := rfl
@[simp] theorem State.putG_lqs : (s.putG n g).lqs = s.lqs := rfl
@[simp] theorem State.putG_lastQueue : (s.putG n g).lastQueue = s.lastQueue := rfl
@[simp] theorem State.putG_ctxs : (s.putG n g).ctxs = s.ctxs := rfl
@[simp] theorem State.putG_parts : (s.putG n g).parts = s.parts := rfl
@[simp] theorem State.putG_cores : (s.putG n g).cores = s.cores := rfl
@[simp] theorem State.putG_bays : (s.putG n g).bays = s.bays := rfl
@[simp] theorem State.putG_quads : (s.putG n g).quads = s.quads := rfl
@[simp] theorem State.putG_noccfg : (s.putG n g).noccfg = s.noccfg := rfl
@[simp] theorem State.putG_mbcmd : (s.putG n g).mbcmd = s.mbcmd := rfl
@[simp] theorem State.putG_mbarg0 : (s.putG n g).mbarg0 = s.mbarg0 := rfl
@[simp] theorem State.putG_mbarg1 : (s.putG n g).mbarg1 = s.mbarg1 := rfl
@[simp] theorem State.putG_mbarg2 : (s.putG n g).mbarg2 = s.mbarg2 := rfl
@[simp] theorem State.putG_mbarg3 : (s.putG n g).mbarg3 = s.mbarg3 := rfl
@[simp] theorem State.putG_mbstat : (s.putG n g).mbstat = s.mbstat := rfl
@[simp] theorem State.putG_cmdq : (s.putG n g).cmdq = s.cmdq := rfl
@[simp] theorem State.putG_tlbiva : (s.putG n g).tlbiva = s.tlbiva := rfl
@[simp] theorem State.putG_tlbictl : (s.putG n g).tlbictl = s.tlbictl := rfl
@[simp] theorem State.putG_tlbibusy : (s.putG n g).tlbibusy = s.tlbibusy := rfl
@[simp] theorem State.putG_routing : (s.putG n g).routing = s.routing := rfl
@[simp] theorem State.putG_svclevel : (s.putG n g).svclevel = s.svclevel := rfl
@[simp] theorem State.putG_mode : (s.putG n g).mode = s.mode := rfl
@[simp] theorem State.putG_therm : (s.putG n g).therm = s.therm := rfl
@[simp] theorem State.putG_tj : (s.putG n g).tj = s.tj := rfl
@[simp] theorem State.putG_hotSince : (s.putG n g).hotSince = s.hotSince := rfl
@[simp] theorem State.putG_coolSince : (s.putG n g).coolSince = s.coolSince := rfl
@[simp] theorem State.putG_lowered : (s.putG n g).lowered = s.lowered := rfl
@[simp] theorem State.putG_tjmax : (s.putG n g).tjmax = s.tjmax := rfl
@[simp] theorem State.putG_nativeOk : (s.putG n g).nativeOk = s.nativeOk := rfl
@[simp] theorem State.putG_ptpDomain : (s.putG n g).ptpDomain = s.ptpDomain := rfl
@[simp] theorem State.putG_tier2 : (s.putG n g).tier2 = s.tier2 := rfl
@[simp] theorem State.putG_ownerKeys : (s.putG n g).ownerKeys = s.ownerKeys := rfl
@[simp] theorem State.putG_cfgStore : (s.putG n g).cfgStore = s.cfgStore := rfl
@[simp] theorem State.putG_cfgOk : (s.putG n g).cfgOk = s.cfgOk := rfl
@[simp] theorem State.putG_fitted : (s.putG n g).fitted = s.fitted := rfl
@[simp] theorem State.putG_gtc : (s.putG n g).gtc = s.gtc := rfl
@[simp] theorem State.putG_gtcf : (s.putG n g).gtcf = s.gtcf := rfl
@[simp] theorem State.putG_slew : (s.putG n g).slew = s.slew := rfl
@[simp] theorem State.putG_triggers : (s.putG n g).triggers = s.triggers := rfl
@[simp] theorem State.putG_trigGens : (s.putG n g).trigGens = s.trigGens := rfl
@[simp] theorem State.putG_fired : (s.putG n g).fired = s.fired := rfl
@[simp] theorem State.putG_ports : (s.putG n g).ports = s.ports := rfl
@[simp] theorem State.putG_eccCorr : (s.putG n g).eccCorr = s.eccCorr := rfl
@[simp] theorem State.putG_eccUnc : (s.putG n g).eccUnc = s.eccUnc := rfl
@[simp] theorem State.putG_fabErrs : (s.putG n g).fabErrs = s.fabErrs := rfl
@[simp] theorem State.putG_machChk : (s.putG n g).machChk = s.machChk := rfl
@[simp] theorem State.putG_fabReqs : (s.putG n g).fabReqs = s.fabReqs := rfl
@[simp] theorem State.putG_out : (s.putG n g).out = s.out := rfl
@[simp] theorem State.putG_remotes : (s.putG n g).remotes = s.remotes := rfl
@[simp] theorem State.putG_gridBars : (s.putG n g).gridBars = s.gridBars := rfl
@[simp] theorem State.putG_domainArr : (s.putG n g).domainArr = s.domainArr := rfl
@[simp] theorem State.putG_barRed : (s.putG n g).barRed = s.barRed := rfl
@[simp] theorem State.putG_heldApply : (s.putG n g).heldApply = s.heldApply := rfl
@[simp] theorem State.putG_frameQ : (s.putG n g).frameQ = s.frameQ := rfl
@[simp] theorem State.putG_frameJobs : (s.putG n g).frameJobs = s.frameJobs := rfl
@[simp] theorem State.putG_objRep : (s.putG n g).objRep = s.objRep := rfl
@[simp] theorem State.putG_scribes : (s.putG n g).scribes = s.scribes := rfl
@[simp] theorem State.putG_hooks : (s.putG n g).hooks = s.hooks := rfl
@[simp] theorem State.putG_snapGate : (s.putG n g).snapGate = s.snapGate := rfl
@[simp] theorem State.putG_switchRed : (s.putG n g).switchRed = s.switchRed := rfl
@[simp] theorem State.putG_freeze : (s.putG n g).freeze = s.freeze := rfl
@[simp] theorem State.putG_collIn : (s.putG n g).collIn = s.collIn := rfl
@[simp] theorem State.putG_reports : (s.putG n g).reports = s.reports := rfl
@[simp] theorem State.putG_hostRead : (s.putG n g).hostRead = s.hostRead := rfl
@[simp] theorem State.putG_images : (s.putG n g).images = s.images := rfl
@[simp] theorem State.putG_powered : (s.putG n g).powered = s.powered := rfl

/-! ### State.putCore -/

@[simp] theorem State.putCore_agenda : (s.putCore n c).agenda = s.agenda := rfl
@[simp] theorem State.putCore_cur : (s.putCore n c).cur = s.cur := rfl
@[simp] theorem State.putCore_curProc : (s.putCore n c).curProc = s.curProc := rfl
@[simp] theorem State.putCore_tick : (s.putCore n c).tick = s.tick := rfl
@[simp] theorem State.putCore_clk : (s.putCore n c).clk = s.clk := rfl
@[simp] theorem State.putCore_free : (s.putCore n c).free = s.free := rfl
@[simp] theorem State.putCore_rotor : (s.putCore n c).rotor = s.rotor := rfl
@[simp] theorem State.putCore_nextId : (s.putCore n c).nextId = s.nextId := rfl
@[simp] theorem State.putCore_mem : (s.putCore n c).mem = s.mem := rfl
@[simp] theorem State.putCore_poison : (s.putCore n c).poison = s.poison := rfl
@[simp] theorem State.putCore_absent : (s.putCore n c).absent = s.absent := rfl
@[simp] theorem State.putCore_tags : (s.putCore n c).tags = s.tags := rfl
@[simp] theorem State.putCore_tlb : (s.putCore n c).tlb = s.tlb := rfl
@[simp] theorem State.putCore_groups : (s.putCore n c).groups = s.groups := rfl
@[simp] theorem State.putCore_teams : (s.putCore n c).teams = s.teams := rfl
@[simp] theorem State.putCore_clusters : (s.putCore n c).clusters = s.clusters := rfl
@[simp] theorem State.putCore_launches : (s.putCore n c).launches = s.launches := rfl
@[simp] theorem State.putCore_lqs : (s.putCore n c).lqs = s.lqs := rfl
@[simp] theorem State.putCore_lastQueue : (s.putCore n c).lastQueue = s.lastQueue := rfl
@[simp] theorem State.putCore_ctxs : (s.putCore n c).ctxs = s.ctxs := rfl
@[simp] theorem State.putCore_parts : (s.putCore n c).parts = s.parts := rfl
@[simp] theorem State.putCore_cores : (s.putCore n c).cores = Map.put s.cores n c := rfl
@[simp] theorem State.putCore_bays : (s.putCore n c).bays = s.bays := rfl
@[simp] theorem State.putCore_quads : (s.putCore n c).quads = s.quads := rfl
@[simp] theorem State.putCore_noccfg : (s.putCore n c).noccfg = s.noccfg := rfl
@[simp] theorem State.putCore_mbcmd : (s.putCore n c).mbcmd = s.mbcmd := rfl
@[simp] theorem State.putCore_mbarg0 : (s.putCore n c).mbarg0 = s.mbarg0 := rfl
@[simp] theorem State.putCore_mbarg1 : (s.putCore n c).mbarg1 = s.mbarg1 := rfl
@[simp] theorem State.putCore_mbarg2 : (s.putCore n c).mbarg2 = s.mbarg2 := rfl
@[simp] theorem State.putCore_mbarg3 : (s.putCore n c).mbarg3 = s.mbarg3 := rfl
@[simp] theorem State.putCore_mbstat : (s.putCore n c).mbstat = s.mbstat := rfl
@[simp] theorem State.putCore_cmdq : (s.putCore n c).cmdq = s.cmdq := rfl
@[simp] theorem State.putCore_tlbiva : (s.putCore n c).tlbiva = s.tlbiva := rfl
@[simp] theorem State.putCore_tlbictl : (s.putCore n c).tlbictl = s.tlbictl := rfl
@[simp] theorem State.putCore_tlbibusy : (s.putCore n c).tlbibusy = s.tlbibusy := rfl
@[simp] theorem State.putCore_routing : (s.putCore n c).routing = s.routing := rfl
@[simp] theorem State.putCore_svclevel : (s.putCore n c).svclevel = s.svclevel := rfl
@[simp] theorem State.putCore_mode : (s.putCore n c).mode = s.mode := rfl
@[simp] theorem State.putCore_therm : (s.putCore n c).therm = s.therm := rfl
@[simp] theorem State.putCore_tj : (s.putCore n c).tj = s.tj := rfl
@[simp] theorem State.putCore_hotSince : (s.putCore n c).hotSince = s.hotSince := rfl
@[simp] theorem State.putCore_coolSince : (s.putCore n c).coolSince = s.coolSince := rfl
@[simp] theorem State.putCore_lowered : (s.putCore n c).lowered = s.lowered := rfl
@[simp] theorem State.putCore_tjmax : (s.putCore n c).tjmax = s.tjmax := rfl
@[simp] theorem State.putCore_nativeOk : (s.putCore n c).nativeOk = s.nativeOk := rfl
@[simp] theorem State.putCore_ptpDomain : (s.putCore n c).ptpDomain = s.ptpDomain := rfl
@[simp] theorem State.putCore_tier2 : (s.putCore n c).tier2 = s.tier2 := rfl
@[simp] theorem State.putCore_ownerKeys : (s.putCore n c).ownerKeys = s.ownerKeys := rfl
@[simp] theorem State.putCore_cfgStore : (s.putCore n c).cfgStore = s.cfgStore := rfl
@[simp] theorem State.putCore_cfgOk : (s.putCore n c).cfgOk = s.cfgOk := rfl
@[simp] theorem State.putCore_fitted : (s.putCore n c).fitted = s.fitted := rfl
@[simp] theorem State.putCore_gtc : (s.putCore n c).gtc = s.gtc := rfl
@[simp] theorem State.putCore_gtcf : (s.putCore n c).gtcf = s.gtcf := rfl
@[simp] theorem State.putCore_slew : (s.putCore n c).slew = s.slew := rfl
@[simp] theorem State.putCore_triggers : (s.putCore n c).triggers = s.triggers := rfl
@[simp] theorem State.putCore_trigGens : (s.putCore n c).trigGens = s.trigGens := rfl
@[simp] theorem State.putCore_fired : (s.putCore n c).fired = s.fired := rfl
@[simp] theorem State.putCore_ports : (s.putCore n c).ports = s.ports := rfl
@[simp] theorem State.putCore_eccCorr : (s.putCore n c).eccCorr = s.eccCorr := rfl
@[simp] theorem State.putCore_eccUnc : (s.putCore n c).eccUnc = s.eccUnc := rfl
@[simp] theorem State.putCore_fabErrs : (s.putCore n c).fabErrs = s.fabErrs := rfl
@[simp] theorem State.putCore_machChk : (s.putCore n c).machChk = s.machChk := rfl
@[simp] theorem State.putCore_fabReqs : (s.putCore n c).fabReqs = s.fabReqs := rfl
@[simp] theorem State.putCore_out : (s.putCore n c).out = s.out := rfl
@[simp] theorem State.putCore_remotes : (s.putCore n c).remotes = s.remotes := rfl
@[simp] theorem State.putCore_gridBars : (s.putCore n c).gridBars = s.gridBars := rfl
@[simp] theorem State.putCore_domainArr : (s.putCore n c).domainArr = s.domainArr := rfl
@[simp] theorem State.putCore_barRed : (s.putCore n c).barRed = s.barRed := rfl
@[simp] theorem State.putCore_heldApply : (s.putCore n c).heldApply = s.heldApply := rfl
@[simp] theorem State.putCore_frameQ : (s.putCore n c).frameQ = s.frameQ := rfl
@[simp] theorem State.putCore_frameJobs : (s.putCore n c).frameJobs = s.frameJobs := rfl
@[simp] theorem State.putCore_objRep : (s.putCore n c).objRep = s.objRep := rfl
@[simp] theorem State.putCore_scribes : (s.putCore n c).scribes = s.scribes := rfl
@[simp] theorem State.putCore_hooks : (s.putCore n c).hooks = s.hooks := rfl
@[simp] theorem State.putCore_snapGate : (s.putCore n c).snapGate = s.snapGate := rfl
@[simp] theorem State.putCore_switchRed : (s.putCore n c).switchRed = s.switchRed := rfl
@[simp] theorem State.putCore_freeze : (s.putCore n c).freeze = s.freeze := rfl
@[simp] theorem State.putCore_collIn : (s.putCore n c).collIn = s.collIn := rfl
@[simp] theorem State.putCore_reports : (s.putCore n c).reports = s.reports := rfl
@[simp] theorem State.putCore_hostRead : (s.putCore n c).hostRead = s.hostRead := rfl
@[simp] theorem State.putCore_images : (s.putCore n c).images = s.images := rfl
@[simp] theorem State.putCore_powered : (s.putCore n c).powered = s.powered := rfl

/-! ### State.putBay -/

@[simp] theorem State.putBay_agenda : (s.putBay n b).agenda = s.agenda := rfl
@[simp] theorem State.putBay_cur : (s.putBay n b).cur = s.cur := rfl
@[simp] theorem State.putBay_curProc : (s.putBay n b).curProc = s.curProc := rfl
@[simp] theorem State.putBay_tick : (s.putBay n b).tick = s.tick := rfl
@[simp] theorem State.putBay_clk : (s.putBay n b).clk = s.clk := rfl
@[simp] theorem State.putBay_free : (s.putBay n b).free = s.free := rfl
@[simp] theorem State.putBay_rotor : (s.putBay n b).rotor = s.rotor := rfl
@[simp] theorem State.putBay_nextId : (s.putBay n b).nextId = s.nextId := rfl
@[simp] theorem State.putBay_mem : (s.putBay n b).mem = s.mem := rfl
@[simp] theorem State.putBay_poison : (s.putBay n b).poison = s.poison := rfl
@[simp] theorem State.putBay_absent : (s.putBay n b).absent = s.absent := rfl
@[simp] theorem State.putBay_tags : (s.putBay n b).tags = s.tags := rfl
@[simp] theorem State.putBay_tlb : (s.putBay n b).tlb = s.tlb := rfl
@[simp] theorem State.putBay_groups : (s.putBay n b).groups = s.groups := rfl
@[simp] theorem State.putBay_teams : (s.putBay n b).teams = s.teams := rfl
@[simp] theorem State.putBay_clusters : (s.putBay n b).clusters = s.clusters := rfl
@[simp] theorem State.putBay_launches : (s.putBay n b).launches = s.launches := rfl
@[simp] theorem State.putBay_lqs : (s.putBay n b).lqs = s.lqs := rfl
@[simp] theorem State.putBay_lastQueue : (s.putBay n b).lastQueue = s.lastQueue := rfl
@[simp] theorem State.putBay_ctxs : (s.putBay n b).ctxs = s.ctxs := rfl
@[simp] theorem State.putBay_parts : (s.putBay n b).parts = s.parts := rfl
@[simp] theorem State.putBay_cores : (s.putBay n b).cores = s.cores := rfl
@[simp] theorem State.putBay_bays : (s.putBay n b).bays = Map.put s.bays n b := rfl
@[simp] theorem State.putBay_quads : (s.putBay n b).quads = s.quads := rfl
@[simp] theorem State.putBay_noccfg : (s.putBay n b).noccfg = s.noccfg := rfl
@[simp] theorem State.putBay_mbcmd : (s.putBay n b).mbcmd = s.mbcmd := rfl
@[simp] theorem State.putBay_mbarg0 : (s.putBay n b).mbarg0 = s.mbarg0 := rfl
@[simp] theorem State.putBay_mbarg1 : (s.putBay n b).mbarg1 = s.mbarg1 := rfl
@[simp] theorem State.putBay_mbarg2 : (s.putBay n b).mbarg2 = s.mbarg2 := rfl
@[simp] theorem State.putBay_mbarg3 : (s.putBay n b).mbarg3 = s.mbarg3 := rfl
@[simp] theorem State.putBay_mbstat : (s.putBay n b).mbstat = s.mbstat := rfl
@[simp] theorem State.putBay_cmdq : (s.putBay n b).cmdq = s.cmdq := rfl
@[simp] theorem State.putBay_tlbiva : (s.putBay n b).tlbiva = s.tlbiva := rfl
@[simp] theorem State.putBay_tlbictl : (s.putBay n b).tlbictl = s.tlbictl := rfl
@[simp] theorem State.putBay_tlbibusy : (s.putBay n b).tlbibusy = s.tlbibusy := rfl
@[simp] theorem State.putBay_routing : (s.putBay n b).routing = s.routing := rfl
@[simp] theorem State.putBay_svclevel : (s.putBay n b).svclevel = s.svclevel := rfl
@[simp] theorem State.putBay_mode : (s.putBay n b).mode = s.mode := rfl
@[simp] theorem State.putBay_therm : (s.putBay n b).therm = s.therm := rfl
@[simp] theorem State.putBay_tj : (s.putBay n b).tj = s.tj := rfl
@[simp] theorem State.putBay_hotSince : (s.putBay n b).hotSince = s.hotSince := rfl
@[simp] theorem State.putBay_coolSince : (s.putBay n b).coolSince = s.coolSince := rfl
@[simp] theorem State.putBay_lowered : (s.putBay n b).lowered = s.lowered := rfl
@[simp] theorem State.putBay_tjmax : (s.putBay n b).tjmax = s.tjmax := rfl
@[simp] theorem State.putBay_nativeOk : (s.putBay n b).nativeOk = s.nativeOk := rfl
@[simp] theorem State.putBay_ptpDomain : (s.putBay n b).ptpDomain = s.ptpDomain := rfl
@[simp] theorem State.putBay_tier2 : (s.putBay n b).tier2 = s.tier2 := rfl
@[simp] theorem State.putBay_ownerKeys : (s.putBay n b).ownerKeys = s.ownerKeys := rfl
@[simp] theorem State.putBay_cfgStore : (s.putBay n b).cfgStore = s.cfgStore := rfl
@[simp] theorem State.putBay_cfgOk : (s.putBay n b).cfgOk = s.cfgOk := rfl
@[simp] theorem State.putBay_fitted : (s.putBay n b).fitted = s.fitted := rfl
@[simp] theorem State.putBay_gtc : (s.putBay n b).gtc = s.gtc := rfl
@[simp] theorem State.putBay_gtcf : (s.putBay n b).gtcf = s.gtcf := rfl
@[simp] theorem State.putBay_slew : (s.putBay n b).slew = s.slew := rfl
@[simp] theorem State.putBay_triggers : (s.putBay n b).triggers = s.triggers := rfl
@[simp] theorem State.putBay_trigGens : (s.putBay n b).trigGens = s.trigGens := rfl
@[simp] theorem State.putBay_fired : (s.putBay n b).fired = s.fired := rfl
@[simp] theorem State.putBay_ports : (s.putBay n b).ports = s.ports := rfl
@[simp] theorem State.putBay_eccCorr : (s.putBay n b).eccCorr = s.eccCorr := rfl
@[simp] theorem State.putBay_eccUnc : (s.putBay n b).eccUnc = s.eccUnc := rfl
@[simp] theorem State.putBay_fabErrs : (s.putBay n b).fabErrs = s.fabErrs := rfl
@[simp] theorem State.putBay_machChk : (s.putBay n b).machChk = s.machChk := rfl
@[simp] theorem State.putBay_fabReqs : (s.putBay n b).fabReqs = s.fabReqs := rfl
@[simp] theorem State.putBay_out : (s.putBay n b).out = s.out := rfl
@[simp] theorem State.putBay_remotes : (s.putBay n b).remotes = s.remotes := rfl
@[simp] theorem State.putBay_gridBars : (s.putBay n b).gridBars = s.gridBars := rfl
@[simp] theorem State.putBay_domainArr : (s.putBay n b).domainArr = s.domainArr := rfl
@[simp] theorem State.putBay_barRed : (s.putBay n b).barRed = s.barRed := rfl
@[simp] theorem State.putBay_heldApply : (s.putBay n b).heldApply = s.heldApply := rfl
@[simp] theorem State.putBay_frameQ : (s.putBay n b).frameQ = s.frameQ := rfl
@[simp] theorem State.putBay_frameJobs : (s.putBay n b).frameJobs = s.frameJobs := rfl
@[simp] theorem State.putBay_objRep : (s.putBay n b).objRep = s.objRep := rfl
@[simp] theorem State.putBay_scribes : (s.putBay n b).scribes = s.scribes := rfl
@[simp] theorem State.putBay_hooks : (s.putBay n b).hooks = s.hooks := rfl
@[simp] theorem State.putBay_snapGate : (s.putBay n b).snapGate = s.snapGate := rfl
@[simp] theorem State.putBay_switchRed : (s.putBay n b).switchRed = s.switchRed := rfl
@[simp] theorem State.putBay_freeze : (s.putBay n b).freeze = s.freeze := rfl
@[simp] theorem State.putBay_collIn : (s.putBay n b).collIn = s.collIn := rfl
@[simp] theorem State.putBay_reports : (s.putBay n b).reports = s.reports := rfl
@[simp] theorem State.putBay_hostRead : (s.putBay n b).hostRead = s.hostRead := rfl
@[simp] theorem State.putBay_images : (s.putBay n b).images = s.images := rfl
@[simp] theorem State.putBay_powered : (s.putBay n b).powered = s.powered := rfl

/-! ### State.putScribe -/

@[simp] theorem State.putScribe_agenda : (s.putScribe n k).agenda = s.agenda := rfl
@[simp] theorem State.putScribe_cur : (s.putScribe n k).cur = s.cur := rfl
@[simp] theorem State.putScribe_curProc : (s.putScribe n k).curProc = s.curProc := rfl
@[simp] theorem State.putScribe_tick : (s.putScribe n k).tick = s.tick := rfl
@[simp] theorem State.putScribe_clk : (s.putScribe n k).clk = s.clk := rfl
@[simp] theorem State.putScribe_free : (s.putScribe n k).free = s.free := rfl
@[simp] theorem State.putScribe_rotor : (s.putScribe n k).rotor = s.rotor := rfl
@[simp] theorem State.putScribe_nextId : (s.putScribe n k).nextId = s.nextId := rfl
@[simp] theorem State.putScribe_mem : (s.putScribe n k).mem = s.mem := rfl
@[simp] theorem State.putScribe_poison : (s.putScribe n k).poison = s.poison := rfl
@[simp] theorem State.putScribe_absent : (s.putScribe n k).absent = s.absent := rfl
@[simp] theorem State.putScribe_tags : (s.putScribe n k).tags = s.tags := rfl
@[simp] theorem State.putScribe_tlb : (s.putScribe n k).tlb = s.tlb := rfl
@[simp] theorem State.putScribe_groups : (s.putScribe n k).groups = s.groups := rfl
@[simp] theorem State.putScribe_teams : (s.putScribe n k).teams = s.teams := rfl
@[simp] theorem State.putScribe_clusters : (s.putScribe n k).clusters = s.clusters := rfl
@[simp] theorem State.putScribe_launches : (s.putScribe n k).launches = s.launches := rfl
@[simp] theorem State.putScribe_lqs : (s.putScribe n k).lqs = s.lqs := rfl
@[simp] theorem State.putScribe_lastQueue : (s.putScribe n k).lastQueue = s.lastQueue := rfl
@[simp] theorem State.putScribe_ctxs : (s.putScribe n k).ctxs = s.ctxs := rfl
@[simp] theorem State.putScribe_parts : (s.putScribe n k).parts = s.parts := rfl
@[simp] theorem State.putScribe_cores : (s.putScribe n k).cores = s.cores := rfl
@[simp] theorem State.putScribe_bays : (s.putScribe n k).bays = s.bays := rfl
@[simp] theorem State.putScribe_quads : (s.putScribe n k).quads = s.quads := rfl
@[simp] theorem State.putScribe_noccfg : (s.putScribe n k).noccfg = s.noccfg := rfl
@[simp] theorem State.putScribe_mbcmd : (s.putScribe n k).mbcmd = s.mbcmd := rfl
@[simp] theorem State.putScribe_mbarg0 : (s.putScribe n k).mbarg0 = s.mbarg0 := rfl
@[simp] theorem State.putScribe_mbarg1 : (s.putScribe n k).mbarg1 = s.mbarg1 := rfl
@[simp] theorem State.putScribe_mbarg2 : (s.putScribe n k).mbarg2 = s.mbarg2 := rfl
@[simp] theorem State.putScribe_mbarg3 : (s.putScribe n k).mbarg3 = s.mbarg3 := rfl
@[simp] theorem State.putScribe_mbstat : (s.putScribe n k).mbstat = s.mbstat := rfl
@[simp] theorem State.putScribe_cmdq : (s.putScribe n k).cmdq = s.cmdq := rfl
@[simp] theorem State.putScribe_tlbiva : (s.putScribe n k).tlbiva = s.tlbiva := rfl
@[simp] theorem State.putScribe_tlbictl : (s.putScribe n k).tlbictl = s.tlbictl := rfl
@[simp] theorem State.putScribe_tlbibusy : (s.putScribe n k).tlbibusy = s.tlbibusy := rfl
@[simp] theorem State.putScribe_routing : (s.putScribe n k).routing = s.routing := rfl
@[simp] theorem State.putScribe_svclevel : (s.putScribe n k).svclevel = s.svclevel := rfl
@[simp] theorem State.putScribe_mode : (s.putScribe n k).mode = s.mode := rfl
@[simp] theorem State.putScribe_therm : (s.putScribe n k).therm = s.therm := rfl
@[simp] theorem State.putScribe_tj : (s.putScribe n k).tj = s.tj := rfl
@[simp] theorem State.putScribe_hotSince : (s.putScribe n k).hotSince = s.hotSince := rfl
@[simp] theorem State.putScribe_coolSince : (s.putScribe n k).coolSince = s.coolSince := rfl
@[simp] theorem State.putScribe_lowered : (s.putScribe n k).lowered = s.lowered := rfl
@[simp] theorem State.putScribe_tjmax : (s.putScribe n k).tjmax = s.tjmax := rfl
@[simp] theorem State.putScribe_nativeOk : (s.putScribe n k).nativeOk = s.nativeOk := rfl
@[simp] theorem State.putScribe_ptpDomain : (s.putScribe n k).ptpDomain = s.ptpDomain := rfl
@[simp] theorem State.putScribe_tier2 : (s.putScribe n k).tier2 = s.tier2 := rfl
@[simp] theorem State.putScribe_ownerKeys : (s.putScribe n k).ownerKeys = s.ownerKeys := rfl
@[simp] theorem State.putScribe_cfgStore : (s.putScribe n k).cfgStore = s.cfgStore := rfl
@[simp] theorem State.putScribe_cfgOk : (s.putScribe n k).cfgOk = s.cfgOk := rfl
@[simp] theorem State.putScribe_fitted : (s.putScribe n k).fitted = s.fitted := rfl
@[simp] theorem State.putScribe_gtc : (s.putScribe n k).gtc = s.gtc := rfl
@[simp] theorem State.putScribe_gtcf : (s.putScribe n k).gtcf = s.gtcf := rfl
@[simp] theorem State.putScribe_slew : (s.putScribe n k).slew = s.slew := rfl
@[simp] theorem State.putScribe_triggers : (s.putScribe n k).triggers = s.triggers := rfl
@[simp] theorem State.putScribe_trigGens : (s.putScribe n k).trigGens = s.trigGens := rfl
@[simp] theorem State.putScribe_fired : (s.putScribe n k).fired = s.fired := rfl
@[simp] theorem State.putScribe_ports : (s.putScribe n k).ports = s.ports := rfl
@[simp] theorem State.putScribe_eccCorr : (s.putScribe n k).eccCorr = s.eccCorr := rfl
@[simp] theorem State.putScribe_eccUnc : (s.putScribe n k).eccUnc = s.eccUnc := rfl
@[simp] theorem State.putScribe_fabErrs : (s.putScribe n k).fabErrs = s.fabErrs := rfl
@[simp] theorem State.putScribe_machChk : (s.putScribe n k).machChk = s.machChk := rfl
@[simp] theorem State.putScribe_fabReqs : (s.putScribe n k).fabReqs = s.fabReqs := rfl
@[simp] theorem State.putScribe_out : (s.putScribe n k).out = s.out := rfl
@[simp] theorem State.putScribe_remotes : (s.putScribe n k).remotes = s.remotes := rfl
@[simp] theorem State.putScribe_gridBars : (s.putScribe n k).gridBars = s.gridBars := rfl
@[simp] theorem State.putScribe_domainArr : (s.putScribe n k).domainArr = s.domainArr := rfl
@[simp] theorem State.putScribe_barRed : (s.putScribe n k).barRed = s.barRed := rfl
@[simp] theorem State.putScribe_heldApply : (s.putScribe n k).heldApply = s.heldApply := rfl
@[simp] theorem State.putScribe_frameQ : (s.putScribe n k).frameQ = s.frameQ := rfl
@[simp] theorem State.putScribe_frameJobs : (s.putScribe n k).frameJobs = s.frameJobs := rfl
@[simp] theorem State.putScribe_objRep : (s.putScribe n k).objRep = s.objRep := rfl
@[simp] theorem State.putScribe_scribes : (s.putScribe n k).scribes = Map.put s.scribes n k := rfl
@[simp] theorem State.putScribe_hooks : (s.putScribe n k).hooks = s.hooks := rfl
@[simp] theorem State.putScribe_snapGate : (s.putScribe n k).snapGate = s.snapGate := rfl
@[simp] theorem State.putScribe_switchRed : (s.putScribe n k).switchRed = s.switchRed := rfl
@[simp] theorem State.putScribe_freeze : (s.putScribe n k).freeze = s.freeze := rfl
@[simp] theorem State.putScribe_collIn : (s.putScribe n k).collIn = s.collIn := rfl
@[simp] theorem State.putScribe_reports : (s.putScribe n k).reports = s.reports := rfl
@[simp] theorem State.putScribe_hostRead : (s.putScribe n k).hostRead = s.hostRead := rfl
@[simp] theorem State.putScribe_images : (s.putScribe n k).images = s.images := rfl
@[simp] theorem State.putScribe_powered : (s.putScribe n k).powered = s.powered := rfl

/-! ### State.putLq -/

@[simp] theorem State.putLq_agenda : (s.putLq n q).agenda = s.agenda := rfl
@[simp] theorem State.putLq_cur : (s.putLq n q).cur = s.cur := rfl
@[simp] theorem State.putLq_curProc : (s.putLq n q).curProc = s.curProc := rfl
@[simp] theorem State.putLq_tick : (s.putLq n q).tick = s.tick := rfl
@[simp] theorem State.putLq_clk : (s.putLq n q).clk = s.clk := rfl
@[simp] theorem State.putLq_free : (s.putLq n q).free = s.free := rfl
@[simp] theorem State.putLq_rotor : (s.putLq n q).rotor = s.rotor := rfl
@[simp] theorem State.putLq_nextId : (s.putLq n q).nextId = s.nextId := rfl
@[simp] theorem State.putLq_mem : (s.putLq n q).mem = s.mem := rfl
@[simp] theorem State.putLq_poison : (s.putLq n q).poison = s.poison := rfl
@[simp] theorem State.putLq_absent : (s.putLq n q).absent = s.absent := rfl
@[simp] theorem State.putLq_tags : (s.putLq n q).tags = s.tags := rfl
@[simp] theorem State.putLq_tlb : (s.putLq n q).tlb = s.tlb := rfl
@[simp] theorem State.putLq_groups : (s.putLq n q).groups = s.groups := rfl
@[simp] theorem State.putLq_teams : (s.putLq n q).teams = s.teams := rfl
@[simp] theorem State.putLq_clusters : (s.putLq n q).clusters = s.clusters := rfl
@[simp] theorem State.putLq_launches : (s.putLq n q).launches = s.launches := rfl
@[simp] theorem State.putLq_lqs : (s.putLq n q).lqs = Map.put s.lqs n q := rfl
@[simp] theorem State.putLq_lastQueue : (s.putLq n q).lastQueue = s.lastQueue := rfl
@[simp] theorem State.putLq_ctxs : (s.putLq n q).ctxs = s.ctxs := rfl
@[simp] theorem State.putLq_parts : (s.putLq n q).parts = s.parts := rfl
@[simp] theorem State.putLq_cores : (s.putLq n q).cores = s.cores := rfl
@[simp] theorem State.putLq_bays : (s.putLq n q).bays = s.bays := rfl
@[simp] theorem State.putLq_quads : (s.putLq n q).quads = s.quads := rfl
@[simp] theorem State.putLq_noccfg : (s.putLq n q).noccfg = s.noccfg := rfl
@[simp] theorem State.putLq_mbcmd : (s.putLq n q).mbcmd = s.mbcmd := rfl
@[simp] theorem State.putLq_mbarg0 : (s.putLq n q).mbarg0 = s.mbarg0 := rfl
@[simp] theorem State.putLq_mbarg1 : (s.putLq n q).mbarg1 = s.mbarg1 := rfl
@[simp] theorem State.putLq_mbarg2 : (s.putLq n q).mbarg2 = s.mbarg2 := rfl
@[simp] theorem State.putLq_mbarg3 : (s.putLq n q).mbarg3 = s.mbarg3 := rfl
@[simp] theorem State.putLq_mbstat : (s.putLq n q).mbstat = s.mbstat := rfl
@[simp] theorem State.putLq_cmdq : (s.putLq n q).cmdq = s.cmdq := rfl
@[simp] theorem State.putLq_tlbiva : (s.putLq n q).tlbiva = s.tlbiva := rfl
@[simp] theorem State.putLq_tlbictl : (s.putLq n q).tlbictl = s.tlbictl := rfl
@[simp] theorem State.putLq_tlbibusy : (s.putLq n q).tlbibusy = s.tlbibusy := rfl
@[simp] theorem State.putLq_routing : (s.putLq n q).routing = s.routing := rfl
@[simp] theorem State.putLq_svclevel : (s.putLq n q).svclevel = s.svclevel := rfl
@[simp] theorem State.putLq_mode : (s.putLq n q).mode = s.mode := rfl
@[simp] theorem State.putLq_therm : (s.putLq n q).therm = s.therm := rfl
@[simp] theorem State.putLq_tj : (s.putLq n q).tj = s.tj := rfl
@[simp] theorem State.putLq_hotSince : (s.putLq n q).hotSince = s.hotSince := rfl
@[simp] theorem State.putLq_coolSince : (s.putLq n q).coolSince = s.coolSince := rfl
@[simp] theorem State.putLq_lowered : (s.putLq n q).lowered = s.lowered := rfl
@[simp] theorem State.putLq_tjmax : (s.putLq n q).tjmax = s.tjmax := rfl
@[simp] theorem State.putLq_nativeOk : (s.putLq n q).nativeOk = s.nativeOk := rfl
@[simp] theorem State.putLq_ptpDomain : (s.putLq n q).ptpDomain = s.ptpDomain := rfl
@[simp] theorem State.putLq_tier2 : (s.putLq n q).tier2 = s.tier2 := rfl
@[simp] theorem State.putLq_ownerKeys : (s.putLq n q).ownerKeys = s.ownerKeys := rfl
@[simp] theorem State.putLq_cfgStore : (s.putLq n q).cfgStore = s.cfgStore := rfl
@[simp] theorem State.putLq_cfgOk : (s.putLq n q).cfgOk = s.cfgOk := rfl
@[simp] theorem State.putLq_fitted : (s.putLq n q).fitted = s.fitted := rfl
@[simp] theorem State.putLq_gtc : (s.putLq n q).gtc = s.gtc := rfl
@[simp] theorem State.putLq_gtcf : (s.putLq n q).gtcf = s.gtcf := rfl
@[simp] theorem State.putLq_slew : (s.putLq n q).slew = s.slew := rfl
@[simp] theorem State.putLq_triggers : (s.putLq n q).triggers = s.triggers := rfl
@[simp] theorem State.putLq_trigGens : (s.putLq n q).trigGens = s.trigGens := rfl
@[simp] theorem State.putLq_fired : (s.putLq n q).fired = s.fired := rfl
@[simp] theorem State.putLq_ports : (s.putLq n q).ports = s.ports := rfl
@[simp] theorem State.putLq_eccCorr : (s.putLq n q).eccCorr = s.eccCorr := rfl
@[simp] theorem State.putLq_eccUnc : (s.putLq n q).eccUnc = s.eccUnc := rfl
@[simp] theorem State.putLq_fabErrs : (s.putLq n q).fabErrs = s.fabErrs := rfl
@[simp] theorem State.putLq_machChk : (s.putLq n q).machChk = s.machChk := rfl
@[simp] theorem State.putLq_fabReqs : (s.putLq n q).fabReqs = s.fabReqs := rfl
@[simp] theorem State.putLq_out : (s.putLq n q).out = s.out := rfl
@[simp] theorem State.putLq_remotes : (s.putLq n q).remotes = s.remotes := rfl
@[simp] theorem State.putLq_gridBars : (s.putLq n q).gridBars = s.gridBars := rfl
@[simp] theorem State.putLq_domainArr : (s.putLq n q).domainArr = s.domainArr := rfl
@[simp] theorem State.putLq_barRed : (s.putLq n q).barRed = s.barRed := rfl
@[simp] theorem State.putLq_heldApply : (s.putLq n q).heldApply = s.heldApply := rfl
@[simp] theorem State.putLq_frameQ : (s.putLq n q).frameQ = s.frameQ := rfl
@[simp] theorem State.putLq_frameJobs : (s.putLq n q).frameJobs = s.frameJobs := rfl
@[simp] theorem State.putLq_objRep : (s.putLq n q).objRep = s.objRep := rfl
@[simp] theorem State.putLq_scribes : (s.putLq n q).scribes = s.scribes := rfl
@[simp] theorem State.putLq_hooks : (s.putLq n q).hooks = s.hooks := rfl
@[simp] theorem State.putLq_snapGate : (s.putLq n q).snapGate = s.snapGate := rfl
@[simp] theorem State.putLq_switchRed : (s.putLq n q).switchRed = s.switchRed := rfl
@[simp] theorem State.putLq_freeze : (s.putLq n q).freeze = s.freeze := rfl
@[simp] theorem State.putLq_collIn : (s.putLq n q).collIn = s.collIn := rfl
@[simp] theorem State.putLq_reports : (s.putLq n q).reports = s.reports := rfl
@[simp] theorem State.putLq_hostRead : (s.putLq n q).hostRead = s.hostRead := rfl
@[simp] theorem State.putLq_images : (s.putLq n q).images = s.images := rfl
@[simp] theorem State.putLq_powered : (s.putLq n q).powered = s.powered := rfl

/-! ### State.wr -/

@[simp] theorem State.wr_agenda : (s.wr n bs).agenda = s.agenda := rfl
@[simp] theorem State.wr_cur : (s.wr n bs).cur = s.cur := rfl
@[simp] theorem State.wr_curProc : (s.wr n bs).curProc = s.curProc := rfl
@[simp] theorem State.wr_tick : (s.wr n bs).tick = s.tick := rfl
@[simp] theorem State.wr_clk : (s.wr n bs).clk = s.clk := rfl
@[simp] theorem State.wr_free : (s.wr n bs).free = s.free := rfl
@[simp] theorem State.wr_rotor : (s.wr n bs).rotor = s.rotor := rfl
@[simp] theorem State.wr_nextId : (s.wr n bs).nextId = s.nextId := rfl
@[simp] theorem State.wr_mem : (s.wr n bs).mem = s.mem.store n bs := rfl
@[simp] theorem State.wr_poison : (s.wr n bs).poison = clearPoison s.poison n bs.length := rfl
@[simp] theorem State.wr_absent : (s.wr n bs).absent = s.absent := rfl
@[simp] theorem State.wr_tags : (s.wr n bs).tags = s.tags := rfl
@[simp] theorem State.wr_tlb : (s.wr n bs).tlb = s.tlb := rfl
@[simp] theorem State.wr_groups : (s.wr n bs).groups = s.groups := rfl
@[simp] theorem State.wr_teams : (s.wr n bs).teams = s.teams := rfl
@[simp] theorem State.wr_clusters : (s.wr n bs).clusters = s.clusters := rfl
@[simp] theorem State.wr_launches : (s.wr n bs).launches = s.launches := rfl
@[simp] theorem State.wr_lqs : (s.wr n bs).lqs = s.lqs := rfl
@[simp] theorem State.wr_lastQueue : (s.wr n bs).lastQueue = s.lastQueue := rfl
@[simp] theorem State.wr_ctxs : (s.wr n bs).ctxs = s.ctxs := rfl
@[simp] theorem State.wr_parts : (s.wr n bs).parts = s.parts := rfl
@[simp] theorem State.wr_cores : (s.wr n bs).cores = s.cores := rfl
@[simp] theorem State.wr_bays : (s.wr n bs).bays = s.bays := rfl
@[simp] theorem State.wr_quads : (s.wr n bs).quads = s.quads := rfl
@[simp] theorem State.wr_noccfg : (s.wr n bs).noccfg = s.noccfg := rfl
@[simp] theorem State.wr_mbcmd : (s.wr n bs).mbcmd = s.mbcmd := rfl
@[simp] theorem State.wr_mbarg0 : (s.wr n bs).mbarg0 = s.mbarg0 := rfl
@[simp] theorem State.wr_mbarg1 : (s.wr n bs).mbarg1 = s.mbarg1 := rfl
@[simp] theorem State.wr_mbarg2 : (s.wr n bs).mbarg2 = s.mbarg2 := rfl
@[simp] theorem State.wr_mbarg3 : (s.wr n bs).mbarg3 = s.mbarg3 := rfl
@[simp] theorem State.wr_mbstat : (s.wr n bs).mbstat = s.mbstat := rfl
@[simp] theorem State.wr_cmdq : (s.wr n bs).cmdq = s.cmdq := rfl
@[simp] theorem State.wr_tlbiva : (s.wr n bs).tlbiva = s.tlbiva := rfl
@[simp] theorem State.wr_tlbictl : (s.wr n bs).tlbictl = s.tlbictl := rfl
@[simp] theorem State.wr_tlbibusy : (s.wr n bs).tlbibusy = s.tlbibusy := rfl
@[simp] theorem State.wr_routing : (s.wr n bs).routing = s.routing := rfl
@[simp] theorem State.wr_svclevel : (s.wr n bs).svclevel = s.svclevel := rfl
@[simp] theorem State.wr_mode : (s.wr n bs).mode = s.mode := rfl
@[simp] theorem State.wr_therm : (s.wr n bs).therm = s.therm := rfl
@[simp] theorem State.wr_tj : (s.wr n bs).tj = s.tj := rfl
@[simp] theorem State.wr_hotSince : (s.wr n bs).hotSince = s.hotSince := rfl
@[simp] theorem State.wr_coolSince : (s.wr n bs).coolSince = s.coolSince := rfl
@[simp] theorem State.wr_lowered : (s.wr n bs).lowered = s.lowered := rfl
@[simp] theorem State.wr_tjmax : (s.wr n bs).tjmax = s.tjmax := rfl
@[simp] theorem State.wr_nativeOk : (s.wr n bs).nativeOk = s.nativeOk := rfl
@[simp] theorem State.wr_ptpDomain : (s.wr n bs).ptpDomain = s.ptpDomain := rfl
@[simp] theorem State.wr_tier2 : (s.wr n bs).tier2 = s.tier2 := rfl
@[simp] theorem State.wr_ownerKeys : (s.wr n bs).ownerKeys = s.ownerKeys := rfl
@[simp] theorem State.wr_cfgStore : (s.wr n bs).cfgStore = s.cfgStore := rfl
@[simp] theorem State.wr_cfgOk : (s.wr n bs).cfgOk = s.cfgOk := rfl
@[simp] theorem State.wr_fitted : (s.wr n bs).fitted = s.fitted := rfl
@[simp] theorem State.wr_gtc : (s.wr n bs).gtc = s.gtc := rfl
@[simp] theorem State.wr_gtcf : (s.wr n bs).gtcf = s.gtcf := rfl
@[simp] theorem State.wr_slew : (s.wr n bs).slew = s.slew := rfl
@[simp] theorem State.wr_triggers : (s.wr n bs).triggers = s.triggers := rfl
@[simp] theorem State.wr_trigGens : (s.wr n bs).trigGens = s.trigGens := rfl
@[simp] theorem State.wr_fired : (s.wr n bs).fired = s.fired := rfl
@[simp] theorem State.wr_ports : (s.wr n bs).ports = s.ports := rfl
@[simp] theorem State.wr_eccCorr : (s.wr n bs).eccCorr = s.eccCorr := rfl
@[simp] theorem State.wr_eccUnc : (s.wr n bs).eccUnc = s.eccUnc := rfl
@[simp] theorem State.wr_fabErrs : (s.wr n bs).fabErrs = s.fabErrs := rfl
@[simp] theorem State.wr_machChk : (s.wr n bs).machChk = s.machChk := rfl
@[simp] theorem State.wr_fabReqs : (s.wr n bs).fabReqs = s.fabReqs := rfl
@[simp] theorem State.wr_out : (s.wr n bs).out = s.out := rfl
@[simp] theorem State.wr_remotes : (s.wr n bs).remotes = s.remotes := rfl
@[simp] theorem State.wr_gridBars : (s.wr n bs).gridBars = s.gridBars := rfl
@[simp] theorem State.wr_domainArr : (s.wr n bs).domainArr = s.domainArr := rfl
@[simp] theorem State.wr_barRed : (s.wr n bs).barRed = s.barRed := rfl
@[simp] theorem State.wr_heldApply : (s.wr n bs).heldApply = s.heldApply := rfl
@[simp] theorem State.wr_frameQ : (s.wr n bs).frameQ = s.frameQ := rfl
@[simp] theorem State.wr_frameJobs : (s.wr n bs).frameJobs = s.frameJobs := rfl
@[simp] theorem State.wr_objRep : (s.wr n bs).objRep = s.objRep := rfl
@[simp] theorem State.wr_scribes : (s.wr n bs).scribes = s.scribes := rfl
@[simp] theorem State.wr_hooks : (s.wr n bs).hooks = s.hooks := rfl
@[simp] theorem State.wr_snapGate : (s.wr n bs).snapGate = s.snapGate := rfl
@[simp] theorem State.wr_switchRed : (s.wr n bs).switchRed = s.switchRed := rfl
@[simp] theorem State.wr_freeze : (s.wr n bs).freeze = s.freeze := rfl
@[simp] theorem State.wr_collIn : (s.wr n bs).collIn = s.collIn := rfl
@[simp] theorem State.wr_reports : (s.wr n bs).reports = s.reports := rfl
@[simp] theorem State.wr_hostRead : (s.wr n bs).hostRead = s.hostRead := rfl
@[simp] theorem State.wr_images : (s.wr n bs).images = s.images := rfl
@[simp] theorem State.wr_powered : (s.wr n bs).powered = s.powered := rfl

/-! ### Group.setSplit -/

@[simp] theorem Group.setSplit_ctx : (g.setSplit n sp).ctx = g.ctx := rfl
@[simp] theorem Group.setSplit_core : (g.setSplit n sp).core = g.core := rfl
@[simp] theorem Group.setSplit_slot : (g.setSplit n sp).slot = g.slot := rfl
@[simp] theorem Group.setSplit_part : (g.setSplit n sp).part = g.part := rfl
@[simp] theorem Group.setSplit_team : (g.setSplit n sp).team = g.team := rfl
@[simp] theorem Group.setSplit_idx : (g.setSplit n sp).idx = g.idx := rfl
@[simp] theorem Group.setSplit_handler : (g.setSplit n sp).handler = g.handler := rfl
@[simp] theorem Group.setSplit_lanes : (g.setSplit n sp).lanes = g.lanes := rfl
@[simp] theorem Group.setSplit_served : (g.setSplit n sp).served = g.served := rfl
@[simp] theorem Group.setSplit_root : (g.setSplit n sp).root = g.root := rfl
@[simp] theorem Group.setSplit_sup : (g.setSplit n sp).sup = g.sup := rfl
@[simp] theorem Group.setSplit_budget : (g.setSplit n sp).budget = g.budget := rfl
@[simp] theorem Group.setSplit_role : (g.setSplit n sp).role = g.role := rfl
@[simp] theorem Group.setSplit_prio : (g.setSplit n sp).prio = g.prio := rfl
@[simp] theorem Group.setSplit_v : (g.setSplit n sp).v = g.v := rfl
@[simp] theorem Group.setSplit_s : (g.setSplit n sp).s = g.s := rfl
@[simp] theorem Group.setSplit_p : (g.setSplit n sp).p = g.p := rfl
@[simp] theorem Group.setSplit_pd : (g.setSplit n sp).pd = g.pd := rfl
@[simp] theorem Group.setSplit_th : (g.setSplit n sp).th = g.th := rfl
@[simp] theorem Group.setSplit_thType : (g.setSplit n sp).thType = g.thType := rfl
@[simp] theorem Group.setSplit_cf : (g.setSplit n sp).cf = g.cf := rfl
@[simp] theorem Group.setSplit_ocCopy : (g.setSplit n sp).ocCopy = g.ocCopy := rfl
@[simp] theorem Group.setSplit_ocMat : (g.setSplit n sp).ocMat = g.ocMat := rfl
@[simp] theorem Group.setSplit_ocGath : (g.setSplit n sp).ocGath = g.ocGath := rfl
@[simp] theorem Group.setSplit_ocColl : (g.setSplit n sp).ocColl = g.ocColl := rfl
@[simp] theorem Group.setSplit_fpf : (g.setSplit n sp).fpf = g.fpf := rfl
@[simp] theorem Group.setSplit_mxc : (g.setSplit n sp).mxc = g.mxc := rfl
@[simp] theorem Group.setSplit_gerr : (g.setSplit n sp).gerr = g.gerr := rfl
@[simp] theorem Group.setSplit_planeSeq : (g.setSplit n sp).planeSeq = g.planeSeq := rfl
@[simp] theorem Group.setSplit_gridCount : (g.setSplit n sp).gridCount = g.gridCount := rfl
@[simp] theorem Group.setSplit_acks : (g.setSplit n sp).acks = g.acks := rfl
@[simp] theorem Group.setSplit_lastIssue : (g.setSplit n sp).lastIssue = g.lastIssue := rfl
@[simp] theorem Group.setSplit_urgent : (g.setSplit n sp).urgent = g.urgent := rfl
@[simp] theorem Group.setSplit_throttled : (g.setSplit n sp).throttled = g.throttled := rfl
@[simp] theorem Group.setSplit_lastFar : (g.setSplit n sp).lastFar = g.lastFar := rfl
@[simp] theorem Group.setSplit_lastSplit : (g.setSplit n sp).lastSplit = g.lastSplit := rfl
@[simp] theorem Group.setSplit_exited : (g.setSplit n sp).exited = g.exited := rfl
@[simp] theorem Group.setSplit_splits : (g.setSplit n sp).splits = Map.put g.splits n sp := rfl
@[simp] theorem Group.setSplit_recs : (g.setSplit n sp).recs = g.recs := rfl
@[simp] theorem Group.setSplit_entries : (g.setSplit n sp).entries = g.entries := rfl
@[simp] theorem Group.setSplit_red : (g.setSplit n sp).red = g.red := rfl
@[simp] theorem Group.setSplit_redUpTo : (g.setSplit n sp).redUpTo = g.redUpTo := rfl
@[simp] theorem Group.setSplit_held : (g.setSplit n sp).held = g.held := rfl
@[simp] theorem Group.setSplit_openOrg : (g.setSplit n sp).openOrg = g.openOrg := rfl
@[simp] theorem Group.setSplit_resolved : (g.setSplit n sp).resolved = g.resolved := rfl
@[simp] theorem Group.setSplit_raced : (g.setSplit n sp).raced = g.raced := rfl
@[simp] theorem Group.setSplit_poison : (g.setSplit n sp).poison = g.poison := rfl
@[simp] theorem Group.setSplit_stack : (g.setSplit n sp).stack = g.stack := rfl
@[simp] theorem Group.setSplit_stackLow : (g.setSplit n sp).stackLow = g.stackLow := rfl
@[simp] theorem Group.setSplit_saved : (g.setSplit n sp).saved = g.saved := rfl
@[simp] theorem Group.setSplit_queue : (g.setSplit n sp).queue = g.queue := rfl
@[simp] theorem Group.setSplit_codeBase : (g.setSplit n sp).codeBase = g.codeBase := rfl
@[simp] theorem Group.setSplit_codeLines : (g.setSplit n sp).codeLines = g.codeLines := rfl
@[simp] theorem Group.setSplit_exiting : (g.setSplit n sp).exiting = g.exiting := rfl
@[simp] theorem Group.setSplit_stopped : (g.setSplit n sp).stopped = g.stopped := rfl

/-! ### Group.wrPd -/

@[simp] theorem Group.wrPd_ctx : (g.wrPd n m x).ctx = g.ctx := rfl
@[simp] theorem Group.wrPd_core : (g.wrPd n m x).core = g.core := rfl
@[simp] theorem Group.wrPd_slot : (g.wrPd n m x).slot = g.slot := rfl
@[simp] theorem Group.wrPd_part : (g.wrPd n m x).part = g.part := rfl
@[simp] theorem Group.wrPd_team : (g.wrPd n m x).team = g.team := rfl
@[simp] theorem Group.wrPd_idx : (g.wrPd n m x).idx = g.idx := rfl
@[simp] theorem Group.wrPd_handler : (g.wrPd n m x).handler = g.handler := rfl
@[simp] theorem Group.wrPd_lanes : (g.wrPd n m x).lanes = g.lanes := rfl
@[simp] theorem Group.wrPd_served : (g.wrPd n m x).served = g.served := rfl
@[simp] theorem Group.wrPd_root : (g.wrPd n m x).root = g.root := rfl
@[simp] theorem Group.wrPd_sup : (g.wrPd n m x).sup = g.sup := rfl
@[simp] theorem Group.wrPd_budget : (g.wrPd n m x).budget = g.budget := rfl
@[simp] theorem Group.wrPd_role : (g.wrPd n m x).role = g.role := rfl
@[simp] theorem Group.wrPd_prio : (g.wrPd n m x).prio = g.prio := rfl
@[simp] theorem Group.wrPd_v : (g.wrPd n m x).v = g.v := rfl
@[simp] theorem Group.wrPd_s : (g.wrPd n m x).s = g.s := rfl
@[simp] theorem Group.wrPd_p : (g.wrPd n m x).p = g.p := rfl
@[simp] theorem Group.wrPd_pd : (g.wrPd n m x).pd = Map.set 0 g.pd (4 * n + m) x := rfl
@[simp] theorem Group.wrPd_th : (g.wrPd n m x).th = g.th := rfl
@[simp] theorem Group.wrPd_thType : (g.wrPd n m x).thType = g.thType := rfl
@[simp] theorem Group.wrPd_cf : (g.wrPd n m x).cf = g.cf := rfl
@[simp] theorem Group.wrPd_ocCopy : (g.wrPd n m x).ocCopy = g.ocCopy := rfl
@[simp] theorem Group.wrPd_ocMat : (g.wrPd n m x).ocMat = g.ocMat := rfl
@[simp] theorem Group.wrPd_ocGath : (g.wrPd n m x).ocGath = g.ocGath := rfl
@[simp] theorem Group.wrPd_ocColl : (g.wrPd n m x).ocColl = g.ocColl := rfl
@[simp] theorem Group.wrPd_fpf : (g.wrPd n m x).fpf = g.fpf := rfl
@[simp] theorem Group.wrPd_mxc : (g.wrPd n m x).mxc = g.mxc := rfl
@[simp] theorem Group.wrPd_gerr : (g.wrPd n m x).gerr = g.gerr := rfl
@[simp] theorem Group.wrPd_planeSeq : (g.wrPd n m x).planeSeq = g.planeSeq := rfl
@[simp] theorem Group.wrPd_gridCount : (g.wrPd n m x).gridCount = g.gridCount := rfl
@[simp] theorem Group.wrPd_acks : (g.wrPd n m x).acks = g.acks := rfl
@[simp] theorem Group.wrPd_lastIssue : (g.wrPd n m x).lastIssue = g.lastIssue := rfl
@[simp] theorem Group.wrPd_urgent : (g.wrPd n m x).urgent = g.urgent := rfl
@[simp] theorem Group.wrPd_throttled : (g.wrPd n m x).throttled = g.throttled := rfl
@[simp] theorem Group.wrPd_lastFar : (g.wrPd n m x).lastFar = g.lastFar := rfl
@[simp] theorem Group.wrPd_lastSplit : (g.wrPd n m x).lastSplit = g.lastSplit := rfl
@[simp] theorem Group.wrPd_exited : (g.wrPd n m x).exited = g.exited := rfl
@[simp] theorem Group.wrPd_splits : (g.wrPd n m x).splits = g.splits := rfl
@[simp] theorem Group.wrPd_recs : (g.wrPd n m x).recs = g.recs := rfl
@[simp] theorem Group.wrPd_entries : (g.wrPd n m x).entries = g.entries := rfl
@[simp] theorem Group.wrPd_red : (g.wrPd n m x).red = g.red := rfl
@[simp] theorem Group.wrPd_redUpTo : (g.wrPd n m x).redUpTo = g.redUpTo := rfl
@[simp] theorem Group.wrPd_held : (g.wrPd n m x).held = g.held := rfl
@[simp] theorem Group.wrPd_openOrg : (g.wrPd n m x).openOrg = g.openOrg := rfl
@[simp] theorem Group.wrPd_resolved : (g.wrPd n m x).resolved = g.resolved := rfl
@[simp] theorem Group.wrPd_raced : (g.wrPd n m x).raced = g.raced := rfl
@[simp] theorem Group.wrPd_poison : (g.wrPd n m x).poison = g.poison := rfl
@[simp] theorem Group.wrPd_stack : (g.wrPd n m x).stack = g.stack := rfl
@[simp] theorem Group.wrPd_stackLow : (g.wrPd n m x).stackLow = g.stackLow := rfl
@[simp] theorem Group.wrPd_saved : (g.wrPd n m x).saved = g.saved := rfl
@[simp] theorem Group.wrPd_queue : (g.wrPd n m x).queue = g.queue := rfl
@[simp] theorem Group.wrPd_codeBase : (g.wrPd n m x).codeBase = g.codeBase := rfl
@[simp] theorem Group.wrPd_codeLines : (g.wrPd n m x).codeLines = g.codeLines := rfl
@[simp] theorem Group.wrPd_exiting : (g.wrPd n m x).exiting = g.exiting := rfl
@[simp] theorem Group.wrPd_stopped : (g.wrPd n m x).stopped = g.stopped := rfl

/-! ### Group.setFpf -/

@[simp] theorem Group.setFpf_ctx : (g.setFpf x).ctx = g.ctx := rfl
@[simp] theorem Group.setFpf_core : (g.setFpf x).core = g.core := rfl
@[simp] theorem Group.setFpf_slot : (g.setFpf x).slot = g.slot := rfl
@[simp] theorem Group.setFpf_part : (g.setFpf x).part = g.part := rfl
@[simp] theorem Group.setFpf_team : (g.setFpf x).team = g.team := rfl
@[simp] theorem Group.setFpf_idx : (g.setFpf x).idx = g.idx := rfl
@[simp] theorem Group.setFpf_handler : (g.setFpf x).handler = g.handler := rfl
@[simp] theorem Group.setFpf_lanes : (g.setFpf x).lanes = g.lanes := rfl
@[simp] theorem Group.setFpf_served : (g.setFpf x).served = g.served := rfl
@[simp] theorem Group.setFpf_root : (g.setFpf x).root = g.root := rfl
@[simp] theorem Group.setFpf_sup : (g.setFpf x).sup = g.sup := rfl
@[simp] theorem Group.setFpf_budget : (g.setFpf x).budget = g.budget := rfl
@[simp] theorem Group.setFpf_role : (g.setFpf x).role = g.role := rfl
@[simp] theorem Group.setFpf_prio : (g.setFpf x).prio = g.prio := rfl
@[simp] theorem Group.setFpf_v : (g.setFpf x).v = g.v := rfl
@[simp] theorem Group.setFpf_s : (g.setFpf x).s = g.s := rfl
@[simp] theorem Group.setFpf_p : (g.setFpf x).p = g.p := rfl
@[simp] theorem Group.setFpf_pd : (g.setFpf x).pd = g.pd := rfl
@[simp] theorem Group.setFpf_th : (g.setFpf x).th = g.th := rfl
@[simp] theorem Group.setFpf_thType : (g.setFpf x).thType = g.thType := rfl
@[simp] theorem Group.setFpf_cf : (g.setFpf x).cf = g.cf := rfl
@[simp] theorem Group.setFpf_ocCopy : (g.setFpf x).ocCopy = g.ocCopy := rfl
@[simp] theorem Group.setFpf_ocMat : (g.setFpf x).ocMat = g.ocMat := rfl
@[simp] theorem Group.setFpf_ocGath : (g.setFpf x).ocGath = g.ocGath := rfl
@[simp] theorem Group.setFpf_ocColl : (g.setFpf x).ocColl = g.ocColl := rfl
@[simp] theorem Group.setFpf_fpf : (g.setFpf x).fpf = x &&& 31 := rfl
@[simp] theorem Group.setFpf_mxc : (g.setFpf x).mxc = g.mxc := rfl
@[simp] theorem Group.setFpf_gerr : (g.setFpf x).gerr = g.gerr := rfl
@[simp] theorem Group.setFpf_planeSeq : (g.setFpf x).planeSeq = g.planeSeq := rfl
@[simp] theorem Group.setFpf_gridCount : (g.setFpf x).gridCount = g.gridCount := rfl
@[simp] theorem Group.setFpf_acks : (g.setFpf x).acks = g.acks := rfl
@[simp] theorem Group.setFpf_lastIssue : (g.setFpf x).lastIssue = g.lastIssue := rfl
@[simp] theorem Group.setFpf_urgent : (g.setFpf x).urgent = g.urgent := rfl
@[simp] theorem Group.setFpf_throttled : (g.setFpf x).throttled = g.throttled := rfl
@[simp] theorem Group.setFpf_lastFar : (g.setFpf x).lastFar = g.lastFar := rfl
@[simp] theorem Group.setFpf_lastSplit : (g.setFpf x).lastSplit = g.lastSplit := rfl
@[simp] theorem Group.setFpf_exited : (g.setFpf x).exited = g.exited := rfl
@[simp] theorem Group.setFpf_splits : (g.setFpf x).splits = g.splits := rfl
@[simp] theorem Group.setFpf_recs : (g.setFpf x).recs = g.recs := rfl
@[simp] theorem Group.setFpf_entries : (g.setFpf x).entries = g.entries := rfl
@[simp] theorem Group.setFpf_red : (g.setFpf x).red = g.red := rfl
@[simp] theorem Group.setFpf_redUpTo : (g.setFpf x).redUpTo = g.redUpTo := rfl
@[simp] theorem Group.setFpf_held : (g.setFpf x).held = g.held := rfl
@[simp] theorem Group.setFpf_openOrg : (g.setFpf x).openOrg = g.openOrg := rfl
@[simp] theorem Group.setFpf_resolved : (g.setFpf x).resolved = g.resolved := rfl
@[simp] theorem Group.setFpf_raced : (g.setFpf x).raced = g.raced := rfl
@[simp] theorem Group.setFpf_poison : (g.setFpf x).poison = g.poison := rfl
@[simp] theorem Group.setFpf_stack : (g.setFpf x).stack = g.stack := rfl
@[simp] theorem Group.setFpf_stackLow : (g.setFpf x).stackLow = g.stackLow := rfl
@[simp] theorem Group.setFpf_saved : (g.setFpf x).saved = g.saved := rfl
@[simp] theorem Group.setFpf_queue : (g.setFpf x).queue = g.queue := rfl
@[simp] theorem Group.setFpf_codeBase : (g.setFpf x).codeBase = g.codeBase := rfl
@[simp] theorem Group.setFpf_codeLines : (g.setFpf x).codeLines = g.codeLines := rfl
@[simp] theorem Group.setFpf_exiting : (g.setFpf x).exiting = g.exiting := rfl
@[simp] theorem Group.setFpf_stopped : (g.setFpf x).stopped = g.stopped := rfl

/-! ### Group.raise -/

@[simp] theorem Group.raise_ctx : (g.raise n).ctx = g.ctx := rfl
@[simp] theorem Group.raise_core : (g.raise n).core = g.core := rfl
@[simp] theorem Group.raise_slot : (g.raise n).slot = g.slot := rfl
@[simp] theorem Group.raise_part : (g.raise n).part = g.part := rfl
@[simp] theorem Group.raise_team : (g.raise n).team = g.team := rfl
@[simp] theorem Group.raise_idx : (g.raise n).idx = g.idx := rfl
@[simp] theorem Group.raise_handler : (g.raise n).handler = g.handler := rfl
@[simp] theorem Group.raise_lanes : (g.raise n).lanes = g.lanes := rfl
@[simp] theorem Group.raise_served : (g.raise n).served = g.served := rfl
@[simp] theorem Group.raise_root : (g.raise n).root = g.root := rfl
@[simp] theorem Group.raise_sup : (g.raise n).sup = g.sup := rfl
@[simp] theorem Group.raise_budget : (g.raise n).budget = g.budget := rfl
@[simp] theorem Group.raise_role : (g.raise n).role = g.role := rfl
@[simp] theorem Group.raise_prio : (g.raise n).prio = g.prio := rfl
@[simp] theorem Group.raise_v : (g.raise n).v = g.v := rfl
@[simp] theorem Group.raise_s : (g.raise n).s = g.s := rfl
@[simp] theorem Group.raise_p : (g.raise n).p = g.p := rfl
@[simp] theorem Group.raise_pd : (g.raise n).pd = g.pd := rfl
@[simp] theorem Group.raise_th : (g.raise n).th = g.th := rfl
@[simp] theorem Group.raise_thType : (g.raise n).thType = g.thType := rfl
@[simp] theorem Group.raise_cf : (g.raise n).cf = g.cf := rfl
@[simp] theorem Group.raise_ocCopy : (g.raise n).ocCopy = g.ocCopy := rfl
@[simp] theorem Group.raise_ocMat : (g.raise n).ocMat = g.ocMat := rfl
@[simp] theorem Group.raise_ocGath : (g.raise n).ocGath = g.ocGath := rfl
@[simp] theorem Group.raise_ocColl : (g.raise n).ocColl = g.ocColl := rfl
@[simp] theorem Group.raise_fpf : (g.raise n).fpf = g.fpf ||| fpfBits n := rfl
@[simp] theorem Group.raise_mxc : (g.raise n).mxc = g.mxc := rfl
@[simp] theorem Group.raise_gerr : (g.raise n).gerr = g.gerr := rfl
@[simp] theorem Group.raise_planeSeq : (g.raise n).planeSeq = g.planeSeq := rfl
@[simp] theorem Group.raise_gridCount : (g.raise n).gridCount = g.gridCount := rfl
@[simp] theorem Group.raise_acks : (g.raise n).acks = g.acks := rfl
@[simp] theorem Group.raise_lastIssue : (g.raise n).lastIssue = g.lastIssue := rfl
@[simp] theorem Group.raise_urgent : (g.raise n).urgent = g.urgent := rfl
@[simp] theorem Group.raise_throttled : (g.raise n).throttled = g.throttled := rfl
@[simp] theorem Group.raise_lastFar : (g.raise n).lastFar = g.lastFar := rfl
@[simp] theorem Group.raise_lastSplit : (g.raise n).lastSplit = g.lastSplit := rfl
@[simp] theorem Group.raise_exited : (g.raise n).exited = g.exited := rfl
@[simp] theorem Group.raise_splits : (g.raise n).splits = g.splits := rfl
@[simp] theorem Group.raise_recs : (g.raise n).recs = g.recs := rfl
@[simp] theorem Group.raise_entries : (g.raise n).entries = g.entries := rfl
@[simp] theorem Group.raise_red : (g.raise n).red = g.red := rfl
@[simp] theorem Group.raise_redUpTo : (g.raise n).redUpTo = g.redUpTo := rfl
@[simp] theorem Group.raise_held : (g.raise n).held = g.held := rfl
@[simp] theorem Group.raise_openOrg : (g.raise n).openOrg = g.openOrg := rfl
@[simp] theorem Group.raise_resolved : (g.raise n).resolved = g.resolved := rfl
@[simp] theorem Group.raise_raced : (g.raise n).raced = g.raced := rfl
@[simp] theorem Group.raise_poison : (g.raise n).poison = g.poison := rfl
@[simp] theorem Group.raise_stack : (g.raise n).stack = g.stack := rfl
@[simp] theorem Group.raise_stackLow : (g.raise n).stackLow = g.stackLow := rfl
@[simp] theorem Group.raise_saved : (g.raise n).saved = g.saved := rfl
@[simp] theorem Group.raise_queue : (g.raise n).queue = g.queue := rfl
@[simp] theorem Group.raise_codeBase : (g.raise n).codeBase = g.codeBase := rfl
@[simp] theorem Group.raise_codeLines : (g.raise n).codeLines = g.codeLines := rfl
@[simp] theorem Group.raise_exiting : (g.raise n).exiting = g.exiting := rfl
@[simp] theorem Group.raise_stopped : (g.raise n).stopped = g.stopped := rfl

end Sys2Proof.Machine
end

