-- ==== Sys2Proof/Laws/Ops.lean ====
section
/-!
SUPPORT. What each shared operation can do, said once: masks, register writes, the frame of a group instruction, traps,
management commands, Scribe words and the end of a step.
-/
namespace Sys2Proof.Machine

/-! ### Masks -/

theorem mem_lanesOf (m : Mask) (l : Nat) : l ∈ lanesOf m ↔ l < 32 ∧ m.getLsbD l = true := by
  simp [lanesOf, lanes32, List.mem_filter]

theorem nodup_lanesOf (m : Mask) : (lanesOf m).Nodup := List.nodup_range.filter _

@[simp] theorem lanesOf_zero : lanesOf 0 = [] := by decide

theorem getLsbD_one_shift (i l : Nat) : (1#32 <<< i).getLsbD l = decide (l < 32 ∧ i = l) := by
  rw [BitVec.getLsbD_shiftLeft]
  by_cases h : l < 32 <;> by_cases h2 : l < i <;> simp [h, h2, BitVec.getLsbD_one]
  · omega
  · omega

theorem getLsbD_laneBit (i l : Nat) : (laneBit i).getLsbD l = decide (l < 32 ∧ i = l) := getLsbD_one_shift i l

/-- The lanes of a mask made from a predicate. -/
theorem getLsbD_maskOf (f : Nat → Bool) (l : Nat) : (maskOf f).getLsbD l = (decide (l < 32) && f l) := by
  have gen : ∀ (ls : List Nat) (m : Mask),
      (ls.foldl (fun m l => if f l then m ||| (1#32 <<< l) else m) m).getLsbD l =
        (m.getLsbD l || decide (l < 32 ∧ l ∈ ls ∧ f l = true)) := by
    intro ls
    induction ls with
    | nil => simp
    | cons a t ih =>
      intro m
      rw [List.foldl_cons, ih]
      by_cases ha : f a = true
      · rw [if_pos ha, BitVec.getLsbD_or, getLsbD_one_shift]
        by_cases hl : a = l
        · subst hl; by_cases h : a < 32 <;> simp [ha, h]
        · by_cases h : l < 32 <;> simp [hl, Ne.symm hl, h]
      · rw [if_neg ha]
        by_cases hl : l = a
        · subst hl; simp [ha]
        · simp [hl]
  unfold maskOf
  rw [gen]
  by_cases h : l < 32 <;> cases hf : f l <;> simp [h, lanes32]

theorem getLsbD_maskMinus (a b : Mask) (l : Nat) : (maskMinus a b).getLsbD l = (a.getLsbD l && !b.getLsbD l) := by
  unfold maskMinus
  by_cases h : l < 32
  · simp [h]
  · simp [BitVec.getLsbD_of_ge _ _ (Nat.le_of_not_lt h)]

/-- A guard selects lanes of its mask only (R62). -/
theorem guardOn_sub (g : Group) (fc : Nat) (gd : Guard) (m : Mask) (l : Nat) (h : (guardOn g fc gd m).getLsbD l = true) :
    m.getLsbD l = true := by
  unfold guardOn at h
  rw [BitVec.getLsbD_and] at h
  simp only [Bool.and_eq_true] at h
  exact h.1

/-! ### Register writes -/

@[simp] theorem Group.race_v (g : Group) (k : Nat) : (g.race k).v = g.v := by unfold Group.race; split <;> rfl
@[simp] theorem Group.race_s (g : Group) (k : Nat) : (g.race k).s = g.s := by unfold Group.race; split <;> rfl
@[simp] theorem Group.race_p (g : Group) (k : Nat) : (g.race k).p = g.p := by unfold Group.race; split <;> rfl
@[simp] theorem Group.race_poison (g : Group) (k : Nat) : (g.race k).poison = g.poison := by
  unfold Group.race; split <;> rfl
@[simp] theorem Group.race_exited (g : Group) (k : Nat) : (g.race k).exited = g.exited := by
  unfold Group.race; split <;> rfl
@[simp] theorem Group.heal_v (g : Group) (k : Nat) : (g.heal k).v = g.v := by unfold Group.heal; split <;> rfl
@[simp] theorem Group.heal_s (g : Group) (k : Nat) : (g.heal k).s = g.s := by unfold Group.heal; split <;> rfl
@[simp] theorem Group.heal_p (g : Group) (k : Nat) : (g.heal k).p = g.p := by unfold Group.heal; split <;> rfl
@[simp] theorem Group.heal_exited (g : Group) (k : Nat) : (g.heal k).exited = g.exited := by
  unfold Group.heal; split <;> rfl
@[simp] theorem Group.heal_raced (g : Group) (k : Nat) : (g.heal k).raced = g.raced := by
  unfold Group.heal; split <;> rfl

theorem Group.race_frame (g : Group) (k : Nat) : { g.race k with raced := g.raced } = g := by
  unfold Group.race; split <;> rfl

theorem Group.heal_frame (g : Group) (k : Nat) : { g.heal k with poison := g.poison } = g := by
  unfold Group.heal; split <;> rfl

/-- Recording a race and clearing poison change nothing else. -/
theorem Group.marks_frame (g : Group) (k : Nat) : { (g.race k).heal k with raced := g.raced, poison := g.poison } = g := by
  have h1 := Group.heal_frame (g.race k) k
  rw [Group.race_poison] at h1
  have h2 := Group.race_frame g k
  rw [← h1] at h2
  exact h2

theorem Group.heal_poison (g : Group) (k j : Nat) (h : j ∈ (g.heal k).poison) : j ∈ g.poison := by
  unfold Group.heal at h
  split at h
  · exact h
  · exact (List.mem_filter.mp h).1

/-- A lane of a v register after a write; an exited lane's is not written (R141). -/
theorem Group.get_wrV (g : Group) (r l : Nat) (x : Word) (k : Nat) :
    Map.get 0 (g.wrV r l x).v k = if g.exited.getLsbD l = false ∧ k = 32 * r + l then x else Map.get 0 g.v k := by
  unfold Group.wrV
  cases h : g.exited.getLsbD l <;> simp [Map.get_set]

@[simp] theorem Group.wrV_exited (g : Group) (r l : Nat) (x : Word) : (g.wrV r l x).exited = g.exited := by
  unfold Group.wrV; split <;> simp

/-- A write of a v register changes nothing but it, its poison mark and the record of races. -/
theorem Group.wrV_frame (g : Group) (r l : Nat) (x : Word) :
    { g.wrV r l x with v := g.v, raced := g.raced, poison := g.poison } = g := by
  unfold Group.wrV
  split
  · rfl
  · exact congrArg (fun y : Group => { y with v := g.v })
      (Group.marks_frame { g with v := Map.set 0 g.v (32 * r + l) x } (keyV r l))

theorem Group.wrV_poison (g : Group) (r l : Nat) (x : Word) : noNewPoison g (g.wrV r l x) := by
  intro k hk
  unfold Group.wrV at hk
  split at hk
  · exact hk
  · simpa using Group.heal_poison _ _ _ hk

/-- An s register after a write. -/
theorem Group.get_wrS (g : Group) (r : Nat) (x : DWord) (k : Nat) :
    Map.get 0 (g.wrS r x).s k = if k = r then x else Map.get 0 g.s k := by
  unfold Group.wrS; simp [Map.get_set]

theorem Group.sWritten_wrS (g : Group) (r : Nat) (x : DWord) : sWritten g (g.wrS r x) r x := fun k => Group.get_wrS g r x k

/-- A write of an s register changes nothing but it, its poison mark and the record of races. -/
theorem Group.wrS_frame (g : Group) (r : Nat) (x : DWord) :
    { g.wrS r x with s := g.s, raced := g.raced, poison := g.poison } = g := by
  unfold Group.wrS
  exact congrArg (fun y : Group => { y with s := g.s }) (Group.marks_frame { g with s := Map.set 0 g.s r x } (keyS r))

theorem Group.sameButS_wrS (g : Group) (r : Nat) (x : DWord) : sameButS g (g.wrS r x) := by
  refine ⟨Group.wrS_frame g r x, fun k hk => ?_⟩
  unfold Group.wrS at hk
  simpa using Group.heal_poison _ _ _ hk

/-- One lane's bit of a predicate after a write; p0 and an exited lane's are not written. -/
theorem Group.get_wrP (g : Group) (r l : Nat) (x : Bool) (q k : Nat) (hk : k < 32) :
    (Map.get 0 (g.wrP r l x).p q).getLsbD k =
      if r ≠ 0 ∧ g.exited.getLsbD l = false ∧ q = r ∧ k = l then x else (Map.get 0 g.p q).getLsbD k := by
  unfold Group.wrP
  by_cases h0 : r = 0
  · simp [h0]
  · cases he : g.exited.getLsbD l
    · simp only [beq_iff_eq, h0, Bool.or_false, if_false, Group.heal_p, Group.race_p, Map.get_set]
      by_cases hq : q = r
      · subst hq
        by_cases hl : k = l
        · subst hl
          cases x
          · simp only [Bool.false_eq_true, if_false, if_true]
            rw [BitVec.getLsbD_and, BitVec.getLsbD_not, getLsbD_laneBit]; simp [hk, h0]
          · simp only [if_true]
            rw [BitVec.getLsbD_or, getLsbD_laneBit]; simp [hk, h0]
        · cases x
          · simp only [Bool.false_eq_true, if_false, if_true]
            rw [BitVec.getLsbD_and, BitVec.getLsbD_not, getLsbD_laneBit]; simp [hk, hl, Ne.symm hl]
          · simp only [if_true]
            rw [BitVec.getLsbD_or, getLsbD_laneBit]; simp [hl, Ne.symm hl]
      · simp [hq]
    · simp

@[simp] theorem Group.wrP_exited (g : Group) (r l : Nat) (x : Bool) : (g.wrP r l x).exited = g.exited := by
  unfold Group.wrP; split <;> simp

theorem Group.wrP_frame (g : Group) (r l : Nat) (x : Bool) :
    { g.wrP r l x with p := g.p, raced := g.raced, poison := g.poison } = g := by
  unfold Group.wrP
  split
  · rfl
  · exact congrArg (fun y : Group => { y with p := g.p })
      (Group.marks_frame { g with p := Map.set 0 g.p r _ } (keyP r l))

theorem Group.wrP_poison (g : Group) (r l : Nat) (x : Bool) : noNewPoison g (g.wrP r l x) := by
  intro k hk
  unfold Group.wrP at hk
  split at hk
  · exact hk
  · simpa using Group.heal_poison _ _ _ hk

/-! ### Writing every active lane (R148) -/

theorem writeLanes_cons (g : Group) (d : Nat) (fn : Nat → Word × Nat) (l : Nat) (ls : List Nat) :
    writeLanes g d fn (l :: ls) = writeLanes ((g.wrV d l (fn l).1).raise (fn l).2) d fn ls := rfl

@[simp] theorem writeLanes_exited (g : Group) (d : Nat) (fn : Nat → Word × Nat) (ls : List Nat) :
    (writeLanes g d fn ls).exited = g.exited := by
  induction ls generalizing g with
  | nil => rfl
  | cons l t ih => rw [writeLanes_cons, ih]; simp

/-- A lane of a v register after every lane of a list has been written. -/
theorem get_writeLanes (g : Group) (d : Nat) (fn : Nat → Word × Nat) (ls : List Nat) (hn : ls.Nodup) (hl : ∀ l ∈ ls, l < 32)
    (r k : Nat) (hk : k < 32) :
    Map.get 0 (writeLanes g d fn ls).v (32 * r + k) =
      if r = d ∧ k ∈ ls ∧ g.exited.getLsbD k = false then (fn k).1 else Map.get 0 g.v (32 * r + k) := by
  induction ls generalizing g with
  | nil => simp [writeLanes]
  | cons l t ih =>
    have hl32 : l < 32 := hl l (by simp)
    rw [writeLanes_cons, ih _ (List.nodup_cons.mp hn).2 (fun x hx => hl x (by simp [hx]))]
    simp only [Group.raise_exited, Group.wrV_exited, Group.raise_v, Group.get_wrV]
    have hnot : l ∉ t := (List.nodup_cons.mp hn).1
    by_cases hkl : k = l
    · subst hkl
      by_cases hr : r = d
      · subst hr; simp [hnot]
      · have : ¬ (32 * r + k = 32 * d + k) := by omega
        simp [hr]
    · have : ¬ (32 * r + k = 32 * d + l) := by omega
      simp only [List.mem_cons, hkl, false_or, this, and_false, if_false]

theorem Group.wrV_fpf (g : Group) (r l : Nat) (x : Word) : (g.wrV r l x).fpf = g.fpf := by
  unfold Group.wrV Group.heal Group.race
  split
  · rfl
  · dsimp only; split <;> split <;> rfl

theorem writeLanes_fpf (g : Group) (d : Nat) (fn : Nat → Word × Nat) (ls : List Nat) :
    (writeLanes g d fn ls).fpf = ls.foldl (fun w l => w ||| fpfBits (fn l).2) g.fpf := by
  induction ls generalizing g with
  | nil => rfl
  | cons l t ih => rw [writeLanes_cons, ih, List.foldl_cons, Group.raise_fpf, Group.wrV_fpf]

theorem sameButV.trans {a b c : Group} (h1 : sameButV a b) (h2 : sameButV b c) : sameButV a c :=
  ⟨(congrArg (fun y : Group => { y with v := a.v, fpf := a.fpf, raced := a.raced, poison := a.poison }) h2.1).trans h1.1,
   fun k hk => h1.2 k (h2.2 k hk)⟩

theorem sameButV_lane (g : Group) (d l : Nat) (x : Word) (n : Nat) : sameButV g ((g.wrV d l x).raise n) :=
  ⟨congrArg (fun y : Group => { y with fpf := g.fpf }) (Group.wrV_frame g d l x), Group.wrV_poison g d l x⟩

theorem writeLanes_frame (g : Group) (d : Nat) (fn : Nat → Word × Nat) (ls : List Nat) :
    sameButV g (writeLanes g d fn ls) := by
  induction ls generalizing g with
  | nil => exact ⟨rfl, fun k hk => hk⟩
  | cons l t ih => rw [writeLanes_cons]; exact (sameButV_lane g d l _ _).trans (ih _)

/-- R148: what writing the active lanes leaves, in the terms of claims. -/
theorem writeLanes_active (c : Iss) (d : Nat) (fn : Nat → Word × Nat) :
    let g' := writeLanes c.g d fn (lanesOf c.on)
    sameButV c.g g' ∧ vWritten c g' d (fun l => (fn l).1) ∧ flagsRaised c g' (fun l => (fn l).2) := by
  refine ⟨writeLanes_frame _ _ _ _, ?_, writeLanes_fpf _ _ _ _⟩
  intro r l hl
  rw [get_writeLanes _ _ _ _ (nodup_lanesOf _) (fun x hx => ((mem_lanesOf _ _).mp hx).1) _ _ hl]
  simp [mem_lanesOf, hl]

/-! ### The frame of a group instruction -/

/-- What the issuer is, where the state names one. -/
theorem issuer_spec {s : State} {gd : Guard} {c : Iss} (h : issuer s gd = some c) :
    s.cur = some (c.gid, c.pos) ∧ Map.find s.groups c.gid = some c.g ∧ Map.find c.g.splits c.pos = some c.sp ∧
    c.act = c.sp.only.getD c.sp.mask ∧ c.on = guardOn c.g s.free gd c.act ∧ c.fc = s.free := by
  unfold issuer at h
  split at h
  · cases h
  · split at h
    · cases h
    · split at h
      · cases h
      · rename_i hc _ _ hg _ _ hs
        cases h
        exact ⟨hc, hg, hs, rfl, rfl, rfl⟩

theorem asGroup_eq {s : State} {gd : Guard} {c : Iss} (h : issuer s gd = some c) (f : Iss → Res State) :
    asGroup gd s f = finishGroup s c (f c) := by unfold asGroup; rw [h]

theorem asOnce_eq {s : State} {gd : Guard} {c : Iss} (h : issuer s gd = some c) (f : Iss → Res State) :
    asOnce gd s f = if c.on == 0 then .next (c.done s c.g) else finishGroup s c (f c) := by
  unfold asOnce
  rw [asGroup_eq h]
  split <;> rfl

/-- R62: a per-group instruction whose guard holds in no active lane passes on with no effect. -/
theorem asOnce_off {s : State} {gd : Guard} {c : Iss} (h : issuer s gd = some c) (h0 : c.on = 0) (f : Iss → Res State) :
    asOnce gd s f = .next (c.done s c.g) := by rw [asOnce_eq h]; simp [h0]

theorem asOnce_on {s : State} {gd : Guard} {c : Iss} (h : issuer s gd = some c) (h0 : c.on ≠ 0) (f : Iss → Res State) :
    asOnce gd s f = finishGroup s c (f c) := by
  rw [asOnce_eq h, if_neg (by simpa using h0)]

/-- R71, R379: all that an instruction of a group can do: its effect, a wait, or its trap with no other effect. -/
theorem asGroup_cases {s t : State} {gd : Guard} {f : Iss → Res State} (h : asGroup gd s f = .next t) :
    ∃ c, issuer s gd = some c ∧ (f c = .ok t ∨ (f c = .error .wait ∧ t = { s with cur := none }) ∨
      ∃ tr, f c = .error (.trap tr) ∧
        t = raiseTrap s { gid := c.gid, pos := c.pos, pc := c.sp.pc, act := c.act, kind := 0, ref := 0 } tr) := by
  unfold asGroup at h
  split at h
  · cases h
  · rename_i c hc
    refine ⟨c, hc, ?_⟩
    unfold finishGroup at h
    split at h
    · rename_i s' hf; cases h; exact .inl hf
    · rename_i hf; cases h; exact .inr (.inl ⟨hf, rfl⟩)
    · rename_i tr hf; cases h; exact .inr (.inr ⟨tr, hf, rfl⟩)

/-- It stops only where the state names no issuer. -/
theorem asGroup_stops {s : State} {gd : Guard} (f : Iss → Res State) :
    (∃ t, asGroup gd s f = .next t) ∨ (issuer s gd = none ∧ asGroup gd s f = .fault .noIssuer) := by
  unfold asGroup
  split
  · exact .inr ⟨‹_›, rfl⟩
  · unfold finishGroup; split <;> exact .inl ⟨_, rfl⟩

/-- Advancing a split changes the split alone. -/
theorem Group.advance_frame (g : Group) (pos : Nat) : { g.advance pos with splits := g.splits } = g := by
  unfold Group.advance; split <;> rfl

theorem Group.find_advance (g : Group) (pos k : Nat) :
    Map.find (g.advance pos).splits k = if k = pos then (Map.find g.splits pos).map Split.fall else Map.find g.splits k := by
  unfold Group.advance
  split
  · rename_i h; by_cases e : k = pos <;> simp [e, h]
  · rename_i sp h; rw [Group.setSplit_splits, Map.find_put]; by_cases e : k = pos <;> simp [e, h]

/-! ### Traps -/

/-- R386: a trap of a handler group parks its context and changes nothing else. -/
theorem raiseTrap_handler {s : State} {r : Raiser} {t : Trap} {g : Group} (hg : Map.find s.groups r.gid = some g)
    (hh : g.handler.isSome = true) : raiseTrap s r t = parkCtx s g.ctx t.cause t.detail r.pc := by
  unfold raiseTrap; rw [hg]; simp [hh]

/-- Taking a trap writes no byte of memory and moves no team. -/
theorem raiseTrap_mem (s : State) (r : Raiser) (t : Trap) : (raiseTrap s r t).mem = s.mem ∧ (raiseTrap s r t).teams = s.teams := by
  unfold raiseTrap
  split
  · exact ⟨rfl, rfl⟩
  · split
    · exact ⟨rfl, rfl⟩
    · dsimp only; split <;> exact ⟨rfl, rfl⟩

/-- It leaves every other group as it was. -/
theorem raiseTrap_others (s : State) (r : Raiser) (t : Trap) (k : Nat) (h : k ≠ r.gid) :
    Map.find (raiseTrap s r t).groups k = Map.find s.groups k := by
  unfold raiseTrap
  split
  · rfl
  · split
    · rfl
    · dsimp only; split <;> simp [parkCtx, Map.find_put_ne _ _ h]

/-! ### Management commands (R421) -/

theorem asCommand_queued {op : Nat} {c : MCmd} {right : Bool} {s : State} {f : State → State × Nat}
    (h : s.freeze.isSome = true ∨ s.cmdq.isEmpty = false) :
    asCommand op c right s f = .next (queueCommand s op c) := by
  unfold asCommand; rw [if_pos]; rcases h with h | h <;> simp [h]

theorem asCommand_refused {op : Nat} {c : MCmd} {s : State} {f : State → State × Nat} (hf : s.freeze = none) (hq : s.cmdq = []) :
    asCommand op c false s f = .next (reply s c.mctp 0xFF) := by simp [asCommand, hf, hq]

theorem asCommand_applied {op : Nat} {c : MCmd} {s : State} {f : State → State × Nat} (hf : s.freeze = none) (hq : s.cmdq = []) :
    asCommand op c true s f = .next (reply (f s).1 c.mctp (f s).2) := by simp [asCommand, hf, hq]

@[simp] theorem reply_mem (s : State) (b : Bool) (n : Nat) : (reply s b n).mem = s.mem := by unfold reply; split <;> rfl
@[simp] theorem reply_groups (s : State) (b : Bool) (n : Nat) : (reply s b n).groups = s.groups := by
  unfold reply; split <;> rfl
@[simp] theorem reply_teams (s : State) (b : Bool) (n : Nat) : (reply s b n).teams = s.teams := by
  unfold reply; split <;> rfl
@[simp] theorem reply_ctxs (s : State) (b : Bool) (n : Nat) : (reply s b n).ctxs = s.ctxs := by unfold reply; split <;> rfl
@[simp] theorem reply_cores (s : State) (b : Bool) (n : Nat) : (reply s b n).cores = s.cores := by
  unfold reply; split <;> rfl
@[simp] theorem reply_scribes (s : State) (b : Bool) (n : Nat) : (reply s b n).scribes = s.scribes := by
  unfold reply; split <;> rfl

/-! ### Memories keep their form -/

theorem State.memWf_iff (s : State) : s.memWf = true ↔ s.mem.wf = true ∧ ∀ t ∈ s.teams, t.2.mem.wf = true := by
  simp [State.memWf]

theorem State.memWf_wr {s : State} (h : s.memWf = true) (a : Nat) (bs : List Byte) : (s.wr a bs).memWf = true := by
  rw [State.memWf_iff] at h ⊢
  exact ⟨Memory.wf_store h.1 a bs, h.2⟩

/-- An update that touches neither memory nor teams. -/
theorem State.memWf_congr {s t : State} (hm : t.mem = s.mem) (ht : t.teams = s.teams) : t.memWf = s.memWf := by
  simp [State.memWf, hm, ht]

theorem raiseTrap_memWf (s : State) (r : Raiser) (t : Trap) : (raiseTrap s r t).memWf = s.memWf :=
  State.memWf_congr (raiseTrap_mem s r t).1 (raiseTrap_mem s r t).2

theorem reply_memWf (s : State) (b : Bool) (n : Nat) : (reply s b n).memWf = s.memWf := State.memWf_congr (by simp) (by simp)

theorem Map.mem_put {β : Type} {m : SMap β} {k : Nat} {v : β} {x : Nat × β} (h : x ∈ Map.put m k v) : x = (k, v) ∨ x ∈ m := by
  rcases Map.mem_ins _ _ _ _ h with r | r
  · exact .inl r
  · exact .inr (List.mem_of_mem_filter r)

/-- A team whose memory is in form takes a place. -/
theorem State.memWf_putTeam {s : State} (h : s.memWf = true) (n : Nat) (t : Team) (ht : t.mem.wf = true) :
    ({ s with teams := Map.put s.teams n t } : State).memWf = true := by
  rw [State.memWf_iff] at h ⊢
  refine ⟨h.1, fun x hx => ?_⟩
  rcases Map.mem_put hx with rfl | hx
  · exact ht
  · exact h.2 x hx

/-! ### The end of a step -/

/-- R59: at the end of a step no instruction is being executed. -/
@[simp] theorem finish_idle (a s : State) : (finish a s).idle = true := by simp [finish, State.idle]

@[simp] theorem demotions_idle (s : State) : (demotions s).idle = s.idle := by unfold demotions; split <;> rfl

@[simp] theorem passOver_idle (a s : State) (gid pos : Nat) : (passOver a s gid pos).idle = s.idle := by
  unfold passOver
  split
  · rfl
  · split <;> rfl

@[simp] theorem endStep_idle (a s : State) : (endStep a s).idle = true := by simp [endStep]

/-- What executing an instruction makes of a step. -/
theorem runInstr_next {i : Instr} {s s1 : State} (h : exec i s = .next s1) : runInstr i s = .next (endStep s s1) := by
  unfold runInstr; rw [h]

end Sys2Proof.Machine
end

