-- ==== Sys2Proof/Laws/PerInstr.lean ====
section
/-!
SUPPORT. Facts about every instruction as syntax, one lemma for each: its encoding lies within the bits of its width, and
its format's parser reads its operation and fields back to it.
-/
namespace Sys2Proof.Laws

/-! ### Encodings lie within their width -/

/-- An encoding fits in 96 bits, and that of a Scribe word in 32. -/
def Bound.Statement (i : Instr) : Prop := encode i < 2 ^ 96 ∧ (i.width = 32 → encode i < 2 ^ 32)

theorem b2n_le (x : Bool) : b2n x ≤ 1 := by cases x <;> decide

/-- Bits [95:52] of a slot. -/
theorem regsBits_lt (c o : Nat) (r : Regs) (hc : c < 4) (ho : o < 64) :
    regsBits c o r + 2 ^ 52 ≤ 2 ^ 96 := by
  have := b2n_le r.g.neg
  unfold regsBits
  omega

theorem lBits_lt (f : LFmt) : lBits f < 2 ^ 52 := by
  have : f.ty.code < 16 := by cases f.ty <;> decide
  have : f.rm.code < 8 := by cases f.rm <;> decide
  have : f.ka.code < 4 := by cases f.ka <;> decide
  have : f.kb.code < 4 := by cases f.kb <;> decide
  have : f.kc.code < 4 := by cases f.kc <;> decide
  have := b2n_le f.sat
  unfold lBits
  omega

theorem bound_l (i : Instr) (c o n : Nat) (f : LFmt) (h : i.shape = .l c o n f) (hc : c < 4) (ho : o < 64) : Bound.Statement i := by
  have h1 := regsBits_lt c o f.r hc ho
  have h2 := lBits_lt f
  have he : encode i = regsBits c o f.r + lBits f := by unfold encode; rw [h]
  refine ⟨by omega, fun hw => ?_⟩
  unfold Instr.width at hw; rw [h] at hw; simp at hw

theorem pBits_lt (f : PFmt) : pBits f < 2 ^ 52 := by
  have : f.edge.code < 8 := by cases f.edge <;> decide
  have : f.rop.code < 8 := by cases f.rop <;> decide
  have := b2n_le f.set
  have := b2n_le f.yAxis
  unfold pBits
  omega

theorem bound_p (i : Instr) (c o n : Nat) (f : PFmt) (h : i.shape = .p c o n f) (hc : c < 4) (ho : o < 64) : Bound.Statement i := by
  have h1 := regsBits_lt c o f.r hc ho
  have h2 := pBits_lt f
  have he : encode i = regsBits c o f.r + pBits f := by unfold encode; rw [h]
  refine ⟨by omega, fun hw => ?_⟩
  unfold Instr.width at hw; rw [h] at hw; simp at hw

theorem mBits_lt (f : MFmt) : mBits f < 2 ^ 52 := by
  have : f.wid.code < 8 := by cases f.wid <;> decide
  have : f.spc.code < 4 := by cases f.spc <;> decide
  have : f.ord.code < 4 := by cases f.ord <;> decide
  have : f.scope.code < 8 := by cases f.scope <;> decide
  have : f.fs.code < 4 := by cases f.fs <;> decide
  have := b2n_le f.vAddr
  unfold mBits
  omega

theorem bound_m (i : Instr) (c o n : Nat) (f : MFmt) (h : i.shape = .m c o n f) (hc : c < 4) (ho : o < 64) : Bound.Statement i := by
  have h1 := regsBits_lt c o f.r hc ho
  have h2 := mBits_lt f
  have he : encode i = regsBits c o f.r + mBits f := by unfold encode; rw [h]
  refine ⟨by omega, fun hw => ?_⟩
  unfold Instr.width at hw; rw [h] at hw; simp at hw

theorem bBits_lt (f : BFmt) : bBits f < 2 ^ 52 := by
  unfold bBits
  omega

theorem bound_b (i : Instr) (c o n : Nat) (f : BFmt) (h : i.shape = .b c o n f) (hc : c < 4) (ho : o < 64) : Bound.Statement i := by
  have h1 := regsBits_lt c o f.r hc ho
  have h2 := bBits_lt f
  have he : encode i = regsBits c o f.r + bBits f := by unfold encode; rw [h]
  refine ⟨by omega, fun hw => ?_⟩
  unfold Instr.width at hw; rw [h] at hw; simp at hw

theorem eBits_lt (f : EFmt) : eBits f < 2 ^ 52 := by
  have : f.cc.code < 4 := by cases f.cc <;> decide
  have : f.fs.code < 4 := by cases f.fs <;> decide
  have := b2n_le f.bv
  have := b2n_le f.tv
  unfold eBits
  omega

theorem bound_e (i : Instr) (c o n : Nat) (f : EFmt) (h : i.shape = .e c o n f) (hc : c < 4) (ho : o < 64) : Bound.Statement i := by
  have h1 := regsBits_lt c o f.r hc ho
  have h2 := eBits_lt f
  have he : encode i = regsBits c o f.r + eBits f := by unfold encode; rw [h]
  refine ⟨by omega, fun hw => ?_⟩
  unfold Instr.width at hw; rw [h] at hw; simp at hw

theorem sBits_lt (f : SFmt) : sBits f < 2 ^ 52 := by
  have : f.ty.code < 16 := by cases f.ty <;> decide
  have : f.ka.code < 4 := by cases f.ka <;> decide
  have : f.kb.code < 4 := by cases f.kb <;> decide
  have : f.kc.code < 4 := by cases f.kc <;> decide
  unfold sBits
  omega

theorem bound_s (i : Instr) (c o n : Nat) (f : SFmt) (h : i.shape = .s c o n f) (hc : c < 4) (ho : o < 64) : Bound.Statement i := by
  have h1 := regsBits_lt c o f.r hc ho
  have h2 := sBits_lt f
  have he : encode i = regsBits c o f.r + sBits f := by unfold encode; rw [h]
  refine ⟨by omega, fun hw => ?_⟩
  unfold Instr.width at hw; rw [h] at hw; simp at hw

theorem bound_scribe (i : Instr) (w : Nat) (h : i.shape = .scribe w) (hw : w < 2 ^ 32) : Bound.Statement i := by
  have he : encode i = w := by unfold encode; rw [h]
  exact ⟨by omega, fun _ => by omega⟩

theorem bound_row (i : Instr) (h : i.shape = .row) : Bound.Statement i := by
  have he : encode i = 0 := by unfold encode; rw [h]
  exact ⟨by omega, fun _ => by omega⟩

theorem Bound.add (f : LFmt) : Bound.Statement (.add f) := bound_l _ _ _ _ _ rfl (by decide) (by decide)
theorem Bound.sub (f : LFmt) : Bound.Statement (.sub f) := bound_l _ _ _ _ _ rfl (by decide) (by decide)
theorem Bound.mul (f : LFmt) : Bound.Statement (.mul f) := bound_l _ _ _ _ _ rfl (by decide) (by decide)
theorem Bound.mulhi (f : LFmt) : Bound.Statement (.mulhi f) := bound_l _ _ _ _ _ rfl (by decide) (by decide)
theorem Bound.mad (f : LFmt) : Bound.Statement (.mad f) := bound_l _ _ _ _ _ rfl (by decide) (by decide)
theorem Bound.fma (f : LFmt) : Bound.Statement (.fma f) := bound_l _ _ _ _ _ rfl (by decide) (by decide)
theorem Bound.min (f : LFmt) : Bound.Statement (.min f) := bound_l _ _ _ _ _ rfl (by decide) (by decide)
theorem Bound.max (f : LFmt) : Bound.Statement (.max f) := bound_l _ _ _ _ _ rfl (by decide) (by decide)
theorem Bound.abs (f : LFmt) : Bound.Statement (.abs f) := bound_l _ _ _ _ _ rfl (by decide) (by decide)
theorem Bound.neg (f : LFmt) : Bound.Statement (.neg f) := bound_l _ _ _ _ _ rfl (by decide) (by decide)
theorem Bound.clamp (f : LFmt) : Bound.Statement (.clamp f) := bound_l _ _ _ _ _ rfl (by decide) (by decide)
theorem Bound.addmin (f : LFmt) : Bound.Statement (.addmin f) := bound_l _ _ _ _ _ rfl (by decide) (by decide)
theorem Bound.dot2 (f : LFmt) : Bound.Statement (.dot2 f) := bound_l _ _ _ _ _ rfl (by decide) (by decide)
theorem Bound.frnd (f : LFmt) : Bound.Statement (.frnd f) := bound_l _ _ _ _ _ rfl (by decide) (by decide)
theorem Bound.mov (f : LFmt) : Bound.Statement (.mov f) := bound_l _ _ _ _ _ rfl (by decide) (by decide)
theorem Bound.and (f : LFmt) : Bound.Statement (.and f) := bound_l _ _ _ _ _ rfl (by decide) (by decide)
theorem Bound.or (f : LFmt) : Bound.Statement (.or f) := bound_l _ _ _ _ _ rfl (by decide) (by decide)
theorem Bound.xor (f : LFmt) : Bound.Statement (.xor f) := bound_l _ _ _ _ _ rfl (by decide) (by decide)
theorem Bound.not (f : LFmt) : Bound.Statement (.not f) := bound_l _ _ _ _ _ rfl (by decide) (by decide)
theorem Bound.shl (f : LFmt) : Bound.Statement (.shl f) := bound_l _ _ _ _ _ rfl (by decide) (by decide)
theorem Bound.shr (f : LFmt) : Bound.Statement (.shr f) := bound_l _ _ _ _ _ rfl (by decide) (by decide)
theorem Bound.sar (f : LFmt) : Bound.Statement (.sar f) := bound_l _ _ _ _ _ rfl (by decide) (by decide)
theorem Bound.bfx (f : LFmt) : Bound.Statement (.bfx f) := bound_l _ _ _ _ _ rfl (by decide) (by decide)
theorem Bound.bfi (f : LFmt) : Bound.Statement (.bfi f) := bound_l _ _ _ _ _ rfl (by decide) (by decide)
theorem Bound.popc (f : LFmt) : Bound.Statement (.popc f) := bound_l _ _ _ _ _ rfl (by decide) (by decide)
theorem Bound.clz (f : LFmt) : Bound.Statement (.clz f) := bound_l _ _ _ _ _ rfl (by decide) (by decide)
theorem Bound.brev (f : LFmt) : Bound.Statement (.brev f) := bound_l _ _ _ _ _ rfl (by decide) (by decide)
theorem Bound.pack (f : LFmt) : Bound.Statement (.pack f) := bound_l _ _ _ _ _ rfl (by decide) (by decide)
theorem Bound.cmp (f : LFmt) : Bound.Statement (.cmp f) := bound_l _ _ _ _ _ rfl (by decide) (by decide)
theorem Bound.sel (f : LFmt) : Bound.Statement (.sel f) := bound_l _ _ _ _ _ rfl (by decide) (by decide)
theorem Bound.ballot (f : LFmt) : Bound.Statement (.ballot f) := bound_l _ _ _ _ _ rfl (by decide) (by decide)
theorem Bound.lshf (f : LFmt) : Bound.Statement (.lshf f) := bound_l _ _ _ _ _ rfl (by decide) (by decide)
theorem Bound.pand (f : LFmt) : Bound.Statement (.pand f) := bound_l _ _ _ _ _ rfl (by decide) (by decide)
theorem Bound.por (f : LFmt) : Bound.Statement (.por f) := bound_l _ _ _ _ _ rfl (by decide) (by decide)
theorem Bound.pxor (f : LFmt) : Bound.Statement (.pxor f) := bound_l _ _ _ _ _ rfl (by decide) (by decide)
theorem Bound.pnot (f : LFmt) : Bound.Statement (.pnot f) := bound_l _ _ _ _ _ rfl (by decide) (by decide)
theorem Bound.rand (f : LFmt) : Bound.Statement (.rand f) := bound_l _ _ _ _ _ rfl (by decide) (by decide)
theorem Bound.cvt (f : LFmt) : Bound.Statement (.cvt f) := bound_l _ _ _ _ _ rfl (by decide) (by decide)
theorem Bound.rcp (f : LFmt) : Bound.Statement (.rcp f) := bound_l _ _ _ _ _ rfl (by decide) (by decide)
theorem Bound.rsq (f : LFmt) : Bound.Statement (.rsq f) := bound_l _ _ _ _ _ rfl (by decide) (by decide)
theorem Bound.exp2 (f : LFmt) : Bound.Statement (.exp2 f) := bound_l _ _ _ _ _ rfl (by decide) (by decide)
theorem Bound.log2 (f : LFmt) : Bound.Statement (.log2 f) := bound_l _ _ _ _ _ rfl (by decide) (by decide)
theorem Bound.sin (f : LFmt) : Bound.Statement (.sin f) := bound_l _ _ _ _ _ rfl (by decide) (by decide)
theorem Bound.cos (f : LFmt) : Bound.Statement (.cos f) := bound_l _ _ _ _ _ rfl (by decide) (by decide)
theorem Bound.pdset (f : PFmt) : Bound.Statement (.pdset f) := bound_p _ _ _ _ _ rfl (by decide) (by decide)
theorem Bound.pdsetEdge (f : PFmt) : Bound.Statement (.pdsetEdge f) := bound_p _ _ _ _ _ rfl (by decide) (by decide)
theorem Bound.pdsetDim (f : PFmt) : Bound.Statement (.pdsetDim f) := bound_p _ _ _ _ _ rfl (by decide) (by decide)
theorem Bound.pdsetLike (f : PFmt) : Bound.Statement (.pdsetLike f) := bound_p _ _ _ _ _ rfl (by decide) (by decide)
theorem Bound.pdget (f : PFmt) : Bound.Statement (.pdget f) := bound_p _ _ _ _ _ rfl (by decide) (by decide)
theorem Bound.pshift (f : PFmt) : Bound.Statement (.pshift f) := bound_p _ _ _ _ _ rfl (by decide) (by decide)
theorem Bound.prot (f : PFmt) : Bound.Statement (.prot f) := bound_p _ _ _ _ _ rfl (by decide) (by decide)
theorem Bound.pspread (f : PFmt) : Bound.Statement (.pspread f) := bound_p _ _ _ _ _ rfl (by decide) (by decide)
theorem Bound.pfold (f : PFmt) : Bound.Statement (.pfold f) := bound_p _ _ _ _ _ rfl (by decide) (by decide)
theorem Bound.prefold (f : PFmt) : Bound.Statement (.prefold f) := bound_p _ _ _ _ _ rfl (by decide) (by decide)
theorem Bound.ptrans (f : PFmt) : Bound.Statement (.ptrans f) := bound_p _ _ _ _ _ rfl (by decide) (by decide)
theorem Bound.pew2 (f : PFmt) : Bound.Statement (.pew2 f) := bound_p _ _ _ _ _ rfl (by decide) (by decide)
theorem Bound.pew3 (f : PFmt) : Bound.Statement (.pew3 f) := bound_p _ _ _ _ _ rfl (by decide) (by decide)
theorem Bound.pewc (f : PFmt) : Bound.Statement (.pewc f) := bound_p _ _ _ _ _ rfl (by decide) (by decide)
theorem Bound.piota (f : PFmt) : Bound.Statement (.piota f) := bound_p _ _ _ _ _ rfl (by decide) (by decide)
theorem Bound.pscan (f : PFmt) : Bound.Statement (.pscan f) := bound_p _ _ _ _ _ rfl (by decide) (by decide)
theorem Bound.psel (f : PFmt) : Bound.Statement (.psel f) := bound_p _ _ _ _ _ rfl (by decide) (by decide)
theorem Bound.pcmp (f : PFmt) : Bound.Statement (.pcmp f) := bound_p _ _ _ _ _ rfl (by decide) (by decide)
theorem Bound.ppshift (f : PFmt) : Bound.Statement (.ppshift f) := bound_p _ _ _ _ _ rfl (by decide) (by decide)
theorem Bound.pprot (f : PFmt) : Bound.Statement (.pprot f) := bound_p _ _ _ _ _ rfl (by decide) (by decide)
theorem Bound.ppspread (f : PFmt) : Bound.Statement (.ppspread f) := bound_p _ _ _ _ _ rfl (by decide) (by decide)
theorem Bound.ppfold (f : PFmt) : Bound.Statement (.ppfold f) := bound_p _ _ _ _ _ rfl (by decide) (by decide)
theorem Bound.pplog (f : PFmt) : Bound.Statement (.pplog f) := bound_p _ _ _ _ _ rfl (by decide) (by decide)
theorem Bound.pfill (f : PFmt) : Bound.Statement (.pfill f) := bound_p _ _ _ _ _ rfl (by decide) (by decide)
theorem Bound.pextr (f : PFmt) : Bound.Statement (.pextr f) := bound_p _ _ _ _ _ rfl (by decide) (by decide)
theorem Bound.collectivePlaneComplete (team seq : Nat) : Bound.Statement (.collectivePlaneComplete team seq) := bound_row _ rfl
theorem Bound.mres (f : EFmt) : Bound.Statement (.mres f) := bound_e _ _ _ _ _ rfl (by decide) (by decide)
theorem Bound.mrel (f : EFmt) : Bound.Statement (.mrel f) := bound_e _ _ _ _ _ rfl (by decide) (by decide)
theorem Bound.mrelRelease (bay req : Nat) : Bound.Statement (.mrelRelease bay req) := bound_row _ rfl
theorem Bound.mmaQ (f : EFmt) : Bound.Statement (.mmaQ f) := bound_e _ _ _ _ _ rfl (by decide) (by decide)
theorem Bound.mmaS (f : EFmt) : Bound.Statement (.mmaS f) := bound_e _ _ _ _ _ rfl (by decide) (by decide)
theorem Bound.mspmm (f : EFmt) : Bound.Statement (.mspmm f) := bound_e _ _ _ _ _ rfl (by decide) (by decide)
theorem Bound.mzero (f : EFmt) : Bound.Statement (.mzero f) := bound_e _ _ _ _ _ rfl (by decide) (by decide)
theorem Bound.mfill (f : EFmt) : Bound.Statement (.mfill f) := bound_e _ _ _ _ _ rfl (by decide) (by decide)
theorem Bound.mdrain (f : EFmt) : Bound.Statement (.mdrain f) := bound_e _ _ _ _ _ rfl (by decide) (by decide)
theorem Bound.mbypass (f : EFmt) : Bound.Statement (.mbypass f) := bound_e _ _ _ _ _ rfl (by decide) (by decide)
theorem Bound.accalloc (f : EFmt) : Bound.Statement (.accalloc f) := bound_e _ _ _ _ _ rfl (by decide) (by decide)
theorem Bound.accfree (f : EFmt) : Bound.Statement (.accfree f) := bound_e _ _ _ _ _ rfl (by decide) (by decide)
theorem Bound.mstat (f : EFmt) : Bound.Statement (.mstat f) := bound_e _ _ _ _ _ rfl (by decide) (by decide)
theorem Bound.matrixGrant (bay : Nat) : Bound.Statement (.matrixGrant bay) := bound_row _ rfl
theorem Bound.matrixRequestUrgent (bay req : Nat) : Bound.Statement (.matrixRequestUrgent bay req) := bound_row _ rfl
theorem Bound.matrixRequestComplete (bay req : Nat) : Bound.Statement (.matrixRequestComplete bay req) := bound_row _ rfl
theorem Bound.scalarAdd (f : SFmt) : Bound.Statement (.scalarAdd f) := bound_s _ _ _ _ _ rfl (by decide) (by decide)
theorem Bound.scalarSub (f : SFmt) : Bound.Statement (.scalarSub f) := bound_s _ _ _ _ _ rfl (by decide) (by decide)
theorem Bound.scalarMul (f : SFmt) : Bound.Statement (.scalarMul f) := bound_s _ _ _ _ _ rfl (by decide) (by decide)
theorem Bound.scalarMulhi (f : SFmt) : Bound.Statement (.scalarMulhi f) := bound_s _ _ _ _ _ rfl (by decide) (by decide)
theorem Bound.div (f : SFmt) : Bound.Statement (.div f) := bound_s _ _ _ _ _ rfl (by decide) (by decide)
theorem Bound.rem (f : SFmt) : Bound.Statement (.rem f) := bound_s _ _ _ _ _ rfl (by decide) (by decide)
theorem Bound.scalarMin (f : SFmt) : Bound.Statement (.scalarMin f) := bound_s _ _ _ _ _ rfl (by decide) (by decide)
theorem Bound.scalarMax (f : SFmt) : Bound.Statement (.scalarMax f) := bound_s _ _ _ _ _ rfl (by decide) (by decide)
theorem Bound.scalarAnd (f : SFmt) : Bound.Statement (.scalarAnd f) := bound_s _ _ _ _ _ rfl (by decide) (by decide)
theorem Bound.scalarOr (f : SFmt) : Bound.Statement (.scalarOr f) := bound_s _ _ _ _ _ rfl (by decide) (by decide)
theorem Bound.scalarXor (f : SFmt) : Bound.Statement (.scalarXor f) := bound_s _ _ _ _ _ rfl (by decide) (by decide)
theorem Bound.scalarNot (f : SFmt) : Bound.Statement (.scalarNot f) := bound_s _ _ _ _ _ rfl (by decide) (by decide)
theorem Bound.scalarShl (f : SFmt) : Bound.Statement (.scalarShl f) := bound_s _ _ _ _ _ rfl (by decide) (by decide)
theorem Bound.scalarShr (f : SFmt) : Bound.Statement (.scalarShr f) := bound_s _ _ _ _ _ rfl (by decide) (by decide)
theorem Bound.scalarSar (f : SFmt) : Bound.Statement (.scalarSar f) := bound_s _ _ _ _ _ rfl (by decide) (by decide)
theorem Bound.scalarCmp (f : SFmt) : Bound.Statement (.scalarCmp f) := bound_s _ _ _ _ _ rfl (by decide) (by decide)
theorem Bound.scalarSel (f : SFmt) : Bound.Statement (.scalarSel f) := bound_s _ _ _ _ _ rfl (by decide) (by decide)
theorem Bound.scalarMov (f : SFmt) : Bound.Statement (.scalarMov f) := bound_s _ _ _ _ _ rfl (by decide) (by decide)
theorem Bound.scalarPopc (f : SFmt) : Bound.Statement (.scalarPopc f) := bound_s _ _ _ _ _ rfl (by decide) (by decide)
theorem Bound.scalarClz (f : SFmt) : Bound.Statement (.scalarClz f) := bound_s _ _ _ _ _ rfl (by decide) (by decide)
theorem Bound.scalarBfx (f : SFmt) : Bound.Statement (.scalarBfx f) := bound_s _ _ _ _ _ rfl (by decide) (by decide)
theorem Bound.scalarBfi (f : SFmt) : Bound.Statement (.scalarBfi f) := bound_s _ _ _ _ _ rfl (by decide) (by decide)
theorem Bound.movp (f : SFmt) : Bound.Statement (.movp f) := bound_s _ _ _ _ _ rfl (by decide) (by decide)
theorem Bound.movps (f : SFmt) : Bound.Statement (.movps f) := bound_s _ _ _ _ _ rfl (by decide) (by decide)
theorem Bound.bra (f : BFmt) : Bound.Statement (.bra f) := bound_b _ _ _ _ _ rfl (by decide) (by decide)
theorem Bound.brc (f : BFmt) : Bound.Statement (.brc f) := bound_b _ _ _ _ _ rfl (by decide) (by decide)
theorem Bound.brk (f : BFmt) : Bound.Statement (.brk f) := bound_b _ _ _ _ _ rfl (by decide) (by decide)
theorem Bound.cont (f : BFmt) : Bound.Statement (.cont f) := bound_b _ _ _ _ _ rfl (by decide) (by decide)
theorem Bound.loop (f : BFmt) : Bound.Statement (.loop f) := bound_b _ _ _ _ _ rfl (by decide) (by decide)
theorem Bound.jmpi (f : BFmt) : Bound.Statement (.jmpi f) := bound_b _ _ _ _ _ rfl (by decide) (by decide)
theorem Bound.call (f : BFmt) : Bound.Statement (.call f) := bound_b _ _ _ _ _ rfl (by decide) (by decide)
theorem Bound.calli (f : BFmt) : Bound.Statement (.calli f) := bound_b _ _ _ _ _ rfl (by decide) (by decide)
theorem Bound.ret (f : BFmt) : Bound.Statement (.ret f) := bound_b _ _ _ _ _ rfl (by decide) (by decide)
theorem Bound.exit (f : BFmt) : Bound.Statement (.exit f) := bound_b _ _ _ _ _ rfl (by decide) (by decide)
theorem Bound.yield (f : BFmt) : Bound.Statement (.yield f) := bound_b _ _ _ _ _ rfl (by decide) (by decide)
theorem Bound.srd (f : SFmt) : Bound.Statement (.srd f) := bound_s _ _ _ _ _ rfl (by decide) (by decide)
theorem Bound.swr (f : SFmt) : Bound.Statement (.swr f) := bound_s _ _ _ _ _ rfl (by decide) (by decide)
theorem Bound.launch (f : MFmt) : Bound.Statement (.launch f) := bound_m _ _ _ _ _ rfl (by decide) (by decide)
theorem Bound.ld (f : MFmt) : Bound.Statement (.ld f) := bound_m _ _ _ _ _ rfl (by decide) (by decide)
theorem Bound.st (f : MFmt) : Bound.Statement (.st f) := bound_m _ _ _ _ _ rfl (by decide) (by decide)
theorem Bound.ldf (f : MFmt) : Bound.Statement (.ldf f) := bound_m _ _ _ _ _ rfl (by decide) (by decide)
theorem Bound.stf (f : MFmt) : Bound.Statement (.stf f) := bound_m _ _ _ _ _ rfl (by decide) (by decide)
theorem Bound.atom (f : MFmt) : Bound.Statement (.atom f) := bound_m _ _ _ _ _ rfl (by decide) (by decide)
theorem Bound.red (f : MFmt) : Bound.Statement (.red f) := bound_m _ _ _ _ _ rfl (by decide) (by decide)
theorem Bound.flushred (f : MFmt) : Bound.Statement (.flushred f) := bound_m _ _ _ _ _ rfl (by decide) (by decide)
theorem Bound.thld (f : MFmt) : Bound.Statement (.thld f) := bound_m _ _ _ _ _ rfl (by decide) (by decide)
theorem Bound.thst (f : MFmt) : Bound.Statement (.thst f) := bound_m _ _ _ _ _ rfl (by decide) (by decide)
theorem Bound.presclr (f : MFmt) : Bound.Statement (.presclr f) := bound_m _ _ _ _ _ rfl (by decide) (by decide)
theorem Bound.presclrSet (f : MFmt) : Bound.Statement (.presclrSet f) := bound_m _ _ _ _ _ rfl (by decide) (by decide)
theorem Bound.prestest (f : MFmt) : Bound.Statement (.prestest f) := bound_m _ _ _ _ _ rfl (by decide) (by decide)
theorem Bound.cpyt (f : EFmt) : Bound.Statement (.cpyt f) := bound_e _ _ _ _ _ rfl (by decide) (by decide)
theorem Bound.gath (f : EFmt) : Bound.Statement (.gath f) := bound_e _ _ _ _ _ rfl (by decide) (by decide)
theorem Bound.gathTh (f : EFmt) : Bound.Statement (.gathTh f) := bound_e _ _ _ _ _ rfl (by decide) (by decide)
theorem Bound.scat (f : EFmt) : Bound.Statement (.scat f) := bound_e _ _ _ _ _ rfl (by decide) (by decide)
theorem Bound.waitcnt (f : EFmt) : Bound.Statement (.waitcnt f) := bound_e _ _ _ _ _ rfl (by decide) (by decide)
theorem Bound.copyAccept (core op : Nat) (data : List Byte) : Bound.Statement (.copyAccept core op data) := bound_row _ rfl
theorem Bound.copyLineLanded (core op first count : Nat) (data : List Byte) : Bound.Statement (.copyLineLanded core op first count data) := bound_row _ rfl
theorem Bound.copyComplete (core op : Nat) : Bound.Statement (.copyComplete core op) := bound_row _ rfl
theorem Bound.barinit (f : EFmt) : Bound.Statement (.barinit f) := bound_e _ _ _ _ _ rfl (by decide) (by decide)
theorem Bound.barfree (f : EFmt) : Bound.Statement (.barfree f) := bound_e _ _ _ _ _ rfl (by decide) (by decide)
theorem Bound.bararr (f : EFmt) : Bound.Statement (.bararr f) := bound_e _ _ _ _ _ rfl (by decide) (by decide)
theorem Bound.barwait (f : EFmt) : Bound.Statement (.barwait f) := bound_e _ _ _ _ _ rfl (by decide) (by decide)
theorem Bound.bartest (f : EFmt) : Bound.Statement (.bartest f) := bound_e _ _ _ _ _ rfl (by decide) (by decide)
theorem Bound.mortinit (f : MFmt) : Bound.Statement (.mortinit f) := bound_m _ _ _ _ _ rfl (by decide) (by decide)
theorem Bound.mortinitFree (f : MFmt) : Bound.Statement (.mortinitFree f) := bound_m _ _ _ _ _ rfl (by decide) (by decide)
theorem Bound.mortacq (f : MFmt) : Bound.Statement (.mortacq f) := bound_m _ _ _ _ _ rfl (by decide) (by decide)
theorem Bound.pegwait (f : MFmt) : Bound.Statement (.pegwait f) := bound_m _ _ _ _ _ rfl (by decide) (by decide)
theorem Bound.peggive (f : MFmt) : Bound.Statement (.peggive f) := bound_m _ _ _ _ _ rfl (by decide) (by decide)
theorem Bound.pegswap (f : MFmt) : Bound.Statement (.pegswap f) := bound_m _ _ _ _ _ rfl (by decide) (by decide)
theorem Bound.pegdrop (f : MFmt) : Bound.Statement (.pegdrop f) := bound_m _ _ _ _ _ rfl (by decide) (by decide)
theorem Bound.mortrel (f : MFmt) : Bound.Statement (.mortrel f) := bound_m _ _ _ _ _ rfl (by decide) (by decide)
theorem Bound.mortiseSkipStep (pa : Nat) : Bound.Statement (.mortiseSkipStep pa) := bound_row _ rfl
theorem Bound.publish (f : MFmt) : Bound.Statement (.publish f) := bound_m _ _ _ _ _ rfl (by decide) (by decide)
theorem Bound.refresh (f : MFmt) : Bound.Statement (.refresh f) := bound_m _ _ _ _ _ rfl (by decide) (by decide)
theorem Bound.ifence (f : MFmt) : Bound.Statement (.ifence f) := bound_m _ _ _ _ _ rfl (by decide) (by decide)
theorem Bound.gridarr (f : SFmt) : Bound.Statement (.gridarr f) := bound_s _ _ _ _ _ rfl (by decide) (by decide)
theorem Bound.migrate (f : SFmt) : Bound.Statement (.migrate f) := bound_s _ _ _ _ _ rfl (by decide) (by decide)
theorem Bound.migrateMove (team : Nat) : Bound.Statement (.migrateMove team) := bound_row _ rfl
theorem Bound.trig (f : EFmt) : Bound.Statement (.trig f) := bound_e _ _ _ _ _ rfl (by decide) (by decide)
theorem Bound.trigcan (f : EFmt) : Bound.Statement (.trigcan f) := bound_e _ _ _ _ _ rfl (by decide) (by decide)
theorem Bound.triggerFire : Bound.Statement .triggerFire := bound_row _ rfl
theorem Bound.gtcUpdate : Bound.Statement .gtcUpdate := bound_row _ rfl
theorem Bound.trap (f : SFmt) : Bound.Statement (.trap f) := bound_s _ _ _ _ _ rfl (by decide) (by decide)
theorem Bound.syscall (f : SFmt) : Bound.Statement (.syscall f) := bound_s _ _ _ _ _ rfl (by decide) (by decide)
theorem Bound.trapret (f : SFmt) : Bound.Statement (.trapret f) := bound_s _ _ _ _ _ rfl (by decide) (by decide)
theorem Bound.handlerGroupStart (core slot : Nat) : Bound.Statement (.handlerGroupStart core slot) := bound_row _ rfl
theorem Bound.fetchLine (gid pos : Nat) (refill : Bool) : Bound.Statement (.fetchLine gid pos refill) := bound_row _ rfl
theorem Bound.flaggedComplete (gid id : Nat) : Bound.Statement (.flaggedComplete gid id) := bound_row _ rfl
theorem Bound.groupUrgent (gid : Nat) : Bound.Statement (.groupUrgent gid) := bound_row _ rfl
theorem Bound.throttleReselect (core part : Nat) : Bound.Statement (.throttleReselect core part) := bound_row _ rfl
theorem Bound.congestionWindow (quad m : Nat) : Bound.Statement (.congestionWindow quad m) := bound_row _ rfl
theorem Bound.memoryAccessPerformed (ref : AccessRef) (resp : Line) : Bound.Statement (.memoryAccessPerformed ref resp) := bound_row _ rfl
theorem Bound.groupExitRelease (gid : Nat) : Bound.Statement (.groupExitRelease gid) := bound_row _ rfl
theorem Bound.placeCluster : Bound.Statement .placeCluster := bound_row _ rfl
theorem Bound.launchComplete (launch : Nat) : Bound.Statement (.launchComplete launch) := bound_row _ rfl
theorem Bound.shootdownComplete : Bound.Statement .shootdownComplete := bound_row _ rfl
theorem Bound.remoteRequestTimeout (req : Nat) : Bound.Statement (.remoteRequestTimeout req) := bound_row _ rfl
theorem Bound.remoteOriginTimeout (tag : Nat) : Bound.Statement (.remoteOriginTimeout tag) := bound_row _ rfl
theorem Bound.collectiveAccept (core op : Nat) : Bound.Statement (.collectiveAccept core op) := bound_row _ rfl
theorem Bound.scribeDispatch (proc : Nat) : Bound.Statement (.scribeDispatch proc) := bound_row _ rfl
theorem Bound.vadd (d : BitVec 4) (a : BitVec 4) (b : BitVec 4) (m : BitVec 2) (t : BitVec 4) : Bound.Statement (.vadd d a b m t) := bound_scribe _ _ rfl (by omega)
theorem Bound.vsub (d : BitVec 4) (a : BitVec 4) (b : BitVec 4) (m : BitVec 2) (t : BitVec 4) : Bound.Statement (.vsub d a b m t) := bound_scribe _ _ rfl (by omega)
theorem Bound.vmul (d : BitVec 4) (a : BitVec 4) (b : BitVec 4) (m : BitVec 2) (t : BitVec 4) : Bound.Statement (.vmul d a b m t) := bound_scribe _ _ rfl (by omega)
theorem Bound.vmin (d : BitVec 4) (a : BitVec 4) (b : BitVec 4) (m : BitVec 2) (t : BitVec 4) : Bound.Statement (.vmin d a b m t) := bound_scribe _ _ rfl (by omega)
theorem Bound.vmax (d : BitVec 4) (a : BitVec 4) (b : BitVec 4) (m : BitVec 2) (t : BitVec 4) : Bound.Statement (.vmax d a b m t) := bound_scribe _ _ rfl (by omega)
theorem Bound.vand (d : BitVec 4) (a : BitVec 4) (b : BitVec 4) (m : BitVec 2) : Bound.Statement (.vand d a b m) := bound_scribe _ _ rfl (by omega)
theorem Bound.vor (d : BitVec 4) (a : BitVec 4) (b : BitVec 4) (m : BitVec 2) : Bound.Statement (.vor d a b m) := bound_scribe _ _ rfl (by omega)
theorem Bound.vxor (d : BitVec 4) (a : BitVec 4) (b : BitVec 4) (m : BitVec 2) : Bound.Statement (.vxor d a b m) := bound_scribe _ _ rfl (by omega)
theorem Bound.vshl (d : BitVec 4) (a : BitVec 4) (b : BitVec 4) (m : BitVec 2) : Bound.Statement (.vshl d a b m) := bound_scribe _ _ rfl (by omega)
theorem Bound.vshr (d : BitVec 4) (a : BitVec 4) (b : BitVec 4) (m : BitVec 2) : Bound.Statement (.vshr d a b m) := bound_scribe _ _ rfl (by omega)
theorem Bound.vsar (d : BitVec 4) (a : BitVec 4) (b : BitVec 4) (m : BitVec 2) : Bound.Statement (.vsar d a b m) := bound_scribe _ _ rfl (by omega)
theorem Bound.vsel (d : BitVec 4) (a : BitVec 4) (b : BitVec 4) (m : BitVec 2) : Bound.Statement (.vsel d a b m) := bound_scribe _ _ rfl (by omega)
theorem Bound.vcmp (d : BitVec 2) (a : BitVec 4) (b : BitVec 4) (m : BitVec 2) (r : BitVec 3) (t : BitVec 4) : Bound.Statement (.vcmp d a b m r t) := bound_scribe _ _ rfl (by omega)
theorem Bound.vbc (d : BitVec 4) (a : BitVec 4) (m : BitVec 2) : Bound.Statement (.vbc d a m) := bound_scribe _ _ rfl (by omega)
theorem Bound.vext (d : BitVec 4) (a : BitVec 4) (l : BitVec 4) : Bound.Statement (.vext d a l) := bound_scribe _ _ rfl (by omega)
theorem Bound.vins (d : BitVec 4) (a : BitVec 4) (l : BitVec 4) : Bound.Statement (.vins d a l) := bound_scribe _ _ rfl (by omega)
theorem Bound.sadd (d : BitVec 4) (a : BitVec 4) (b : BitVec 4) : Bound.Statement (.sadd d a b) := bound_scribe _ _ rfl (by omega)
theorem Bound.ssub (d : BitVec 4) (a : BitVec 4) (b : BitVec 4) : Bound.Statement (.ssub d a b) := bound_scribe _ _ rfl (by omega)
theorem Bound.sand (d : BitVec 4) (a : BitVec 4) (b : BitVec 4) : Bound.Statement (.sand d a b) := bound_scribe _ _ rfl (by omega)
theorem Bound.sor (d : BitVec 4) (a : BitVec 4) (b : BitVec 4) : Bound.Statement (.sor d a b) := bound_scribe _ _ rfl (by omega)
theorem Bound.sxor (d : BitVec 4) (a : BitVec 4) (b : BitVec 4) : Bound.Statement (.sxor d a b) := bound_scribe _ _ rfl (by omega)
theorem Bound.sshl (d : BitVec 4) (a : BitVec 4) (n : BitVec 5) : Bound.Statement (.sshl d a n) := bound_scribe _ _ rfl (by omega)
theorem Bound.sshr (d : BitVec 4) (a : BitVec 4) (n : BitVec 5) : Bound.Statement (.sshr d a n) := bound_scribe _ _ rfl (by omega)
theorem Bound.saddi (d : BitVec 4) (a : BitVec 4) (i : BitVec 12) : Bound.Statement (.saddi d a i) := bound_scribe _ _ rfl (by omega)
theorem Bound.smovi (d : BitVec 4) (i : BitVec 22) : Bound.Statement (.smovi d i) := bound_scribe _ _ rfl (by omega)
theorem Bound.smovh (d : BitVec 4) (i : BitVec 10) : Bound.Statement (.smovh d i) := bound_scribe _ _ rfl (by omega)
theorem Bound.scmp (d : BitVec 4) (a : BitVec 4) (b : BitVec 4) (u : BitVec 1) (r : BitVec 3) : Bound.Statement (.scmp d a b u r) := bound_scribe _ _ rfl (by omega)
theorem Bound.hrd (d : BitVec 4) (f : BitVec 4) : Bound.Statement (.hrd d f) := bound_scribe _ _ rfl (by omega)
theorem Bound.hwr (a : BitVec 4) (f : BitVec 4) : Bound.Statement (.hwr a f) := bound_scribe _ _ rfl (by omega)
theorem Bound.pld (d : BitVec 4) : Bound.Statement (.pld d) := bound_scribe _ _ rfl (by omega)
theorem Bound.pst (a : BitVec 4) (m : BitVec 2) : Bound.Statement (.pst a m) := bound_scribe _ _ rfl (by omega)
theorem Bound.fld (d : BitVec 4) (a : BitVec 4) (o : BitVec 12) : Bound.Statement (.fld d a o) := bound_scribe _ _ rfl (by omega)
theorem Bound.fst (a : BitVec 4) (b : BitVec 4) (m : BitVec 2) (o : BitVec 12) : Bound.Statement (.fst a b m o) := bound_scribe _ _ rfl (by omega)
theorem Bound.racc (d : BitVec 4) (a : BitVec 4) (o : BitVec 12) : Bound.Statement (.racc d a o) := bound_scribe _ _ rfl (by omega)
theorem Bound.emit (a : BitVec 4) (b : BitVec 4) (r : BitVec 1) : Bound.Statement (.emit a b r) := bound_scribe _ _ rfl (by omega)
theorem Bound.bnz (a : BitVec 4) (o : BitVec 12) : Bound.Statement (.bnz a o) := bound_scribe _ _ rfl (by omega)
theorem Bound.bz (a : BitVec 4) (o : BitVec 12) : Bound.Statement (.bz a o) := bound_scribe _ _ rfl (by omega)
theorem Bound.jmp (o : BitVec 12) : Bound.Statement (.jmp o) := bound_scribe _ _ rfl (by omega)
theorem Bound.scribeRepeat (d : BitVec 4) (b : BitVec 8) (n : BitVec 9) : Bound.Statement (.scribeRepeat d b n) := bound_scribe _ _ rfl (by omega)
theorem Bound.pass : Bound.Statement .pass := bound_scribe _ _ rfl (by omega)
theorem Bound.drop : Bound.Statement .drop := bound_scribe _ _ rfl (by omega)
theorem Bound.trapk (c : BitVec 8) : Bound.Statement (.trapk c) := bound_scribe _ _ rfl (by omega)
theorem Bound.contextSwitchDone (core : Nat) : Bound.Statement (.contextSwitchDone core) := bound_row _ rfl
theorem Bound.freezeStepEnd : Bound.Statement .freezeStepEnd := bound_row _ rfl
theorem Bound.freezeDrainTimeout : Bound.Statement .freezeDrainTimeout := bound_row _ rfl
theorem Bound.domainBarrierStep (job rank k : Nat) : Bound.Statement (.domainBarrierStep job rank k) := bound_row _ rfl
theorem Bound.ptpMessage (domain : Nat) (rate : Int) : Bound.Statement (.ptpMessage domain rate) := bound_row _ rfl
theorem Bound.lqtailWrite (q : Nat) (val : DWord) : Bound.Statement (.lqtailWrite q val) := bound_row _ rfl
theorem Bound.lqctlWrite (q : Nat) (w : RegVal) : Bound.Statement (.lqctlWrite q w) := bound_row _ rfl
theorem Bound.lqstatErrClear (q : Nat) : Bound.Statement (.lqstatErrClear q) := bound_row _ rfl
theorem Bound.tlbictlGo (val : DWord) : Bound.Statement (.tlbictlGo val) := bound_row _ rfl
theorem Bound.ctxsaveWrite (ctx : Nat) (w : RegVal) : Bound.Statement (.ctxsaveWrite ctx w) := bound_row _ rfl
theorem Bound.registerWrite (off : Nat) (val : DWord) (who : Nat) : Bound.Statement (.registerWrite off val who) := bound_row _ rfl
theorem Bound.remoteRead (p : Packet) : Bound.Statement (.remoteRead p) := bound_row _ rfl
theorem Bound.remoteWrite (p : Packet) : Bound.Statement (.remoteWrite p) := bound_row _ rfl
theorem Bound.remoteAtomic (p : Packet) : Bound.Statement (.remoteAtomic p) := bound_row _ rfl
theorem Bound.ackReceived (req : Nat) : Bound.Statement (.ackReceived req) := bound_row _ rfl
theorem Bound.nackReceived (req detail : Nat) : Bound.Statement (.nackReceived req detail) := bound_row _ rfl
theorem Bound.collectiveStep (m : CollMsg) : Bound.Statement (.collectiveStep m) := bound_row _ rfl
theorem Bound.drainMarker (p : Packet) : Bound.Statement (.drainMarker p) := bound_row _ rfl
theorem Bound.scribeControl (c : MCmd) (kind : ScribeCtl) : Bound.Statement (.scribeControl c kind) := bound_row _ rfl
theorem Bound.packetAccept (p : Packet) (dir : Nat) : Bound.Statement (.packetAccept p dir) := bound_row _ rfl
theorem Bound.survey (c : MCmd) : Bound.Statement (.survey c) := bound_row _ rfl
theorem Bound.load (c : MCmd) : Bound.Statement (.load c) := bound_row _ rfl
theorem Bound.partcfg (c : MCmd) : Bound.Statement (.partcfg c) := bound_row _ rfl
theorem Bound.modeset (c : MCmd) : Bound.Statement (.modeset c) := bound_row _ rfl
theorem Bound.ctxsw (c : MCmd) : Bound.Statement (.ctxsw c) := bound_row _ rfl
theorem Bound.freeze (c : MCmd) : Bound.Statement (.freeze c) := bound_row _ rfl
theorem Bound.thaw (c : MCmd) : Bound.Statement (.thaw c) := bound_row _ rfl
theorem Bound.dirtyscan (c : MCmd) : Bound.Statement (.dirtyscan c) := bound_row _ rfl
theorem Bound.scribebind (c : MCmd) : Bound.Statement (.scribebind c) := bound_row _ rfl
theorem Bound.routeset (c : MCmd) : Bound.Statement (.routeset c) := bound_row _ rfl
theorem Bound.ctxend (c : MCmd) : Bound.Statement (.ctxend c) := bound_row _ rfl
theorem Bound.ctxcreate (c : MCmd) : Bound.Statement (.ctxcreate c) := bound_row _ rfl
theorem Bound.jobbind (c : MCmd) : Bound.Statement (.jobbind c) := bound_row _ rfl
theorem Bound.keyenrol (c : MCmd) : Bound.Statement (.keyenrol c) := bound_row _ rfl
theorem Bound.cfgwrite (c : MCmd) : Bound.Statement (.cfgwrite c) := bound_row _ rfl
theorem Bound.scribeunbind (c : MCmd) : Bound.Statement (.scribeunbind c) := bound_row _ rfl
theorem Bound.scriberead (c : MCmd) : Bound.Statement (.scriberead c) := bound_row _ rfl
theorem Bound.scribewrite (c : MCmd) : Bound.Statement (.scribewrite c) := bound_row _ rfl
theorem Bound.scribesnap (c : MCmd) : Bound.Statement (.scribesnap c) := bound_row _ rfl
theorem Bound.getMeasurements (index : Nat) : Bound.Statement (.getMeasurements index) := bound_row _ rfl
theorem Bound.hostMemAccess (wr : Bool) (addr : Nat) (val : Byte) : Bound.Statement (.hostMemAccess wr addr val) := bound_row _ rfl
theorem Bound.eccScrub (loc : EccLoc) (uncorrectable : Bool) : Bound.Statement (.eccScrub loc uncorrectable) := bound_row _ rfl
theorem Bound.powerOn (fit : Fitted) : Bound.Statement (.powerOn fit) := bound_row _ rfl
theorem Bound.trainingComplete : Bound.Statement .trainingComplete := bound_row _ rfl
theorem Bound.thermalSample (tj hottest : Nat) : Bound.Statement (.thermalSample tj hottest) := bound_row _ rfl
theorem Bound.thermalShutdown : Bound.Statement .thermalShutdown := bound_row _ rfl
theorem Bound.thermalRecover : Bound.Statement .thermalRecover := bound_row _ rfl
theorem Bound.powerRemoved : Bound.Statement .powerRemoved := bound_row _ rfl
theorem Bound.fabricPortStateChange (port st peer : Nat) : Bound.Statement (.fabricPortStateChange port st peer) := bound_row _ rfl
theorem Bound.packagePowerLimit (reached : Bool) : Bound.Statement (.packagePowerLimit reached) := bound_row _ rfl

/-! ### Parsing what was encoded -/

/-- The operation of a slot instruction is assigned in its format (R74, R75), and with its fields it is the instruction again. -/
def Reparse.Statement (i : Instr) : Prop :=
  i.formOk = true →
  match i.shape with
  | .l c o n f => fmtOf c o = some (.l, n) ∧ mkL n f = some i
  | .p c o n f => fmtOf c o = some (.p, n) ∧ mkP n f = some i
  | .m c o n f => fmtOf c o = some (.m, n) ∧ mkM n f = some i
  | .b c o n f => fmtOf c o = some (.b, n) ∧ mkB n f = some i
  | .e c o n f => fmtOf c o = some (.e, n) ∧ mkE n f = some i
  | .s c o n f => fmtOf c o = some (.s, n) ∧ mkS n f = some i
  | .scribe _ | .row => True

theorem Reparse.add (f : LFmt) : Reparse.Statement (.add f) := fun _ => ⟨by decide, rfl⟩
theorem Reparse.sub (f : LFmt) : Reparse.Statement (.sub f) := fun _ => ⟨by decide, rfl⟩
theorem Reparse.mul (f : LFmt) : Reparse.Statement (.mul f) := fun _ => ⟨by decide, rfl⟩
theorem Reparse.mulhi (f : LFmt) : Reparse.Statement (.mulhi f) := fun _ => ⟨by decide, rfl⟩
theorem Reparse.mad (f : LFmt) : Reparse.Statement (.mad f) := fun _ => ⟨by decide, rfl⟩
theorem Reparse.fma (f : LFmt) : Reparse.Statement (.fma f) := fun _ => ⟨by decide, rfl⟩
theorem Reparse.min (f : LFmt) : Reparse.Statement (.min f) := fun _ => ⟨by decide, rfl⟩
theorem Reparse.max (f : LFmt) : Reparse.Statement (.max f) := fun _ => ⟨by decide, rfl⟩
theorem Reparse.abs (f : LFmt) : Reparse.Statement (.abs f) := fun _ => ⟨by decide, rfl⟩
theorem Reparse.neg (f : LFmt) : Reparse.Statement (.neg f) := fun _ => ⟨by decide, rfl⟩
theorem Reparse.clamp (f : LFmt) : Reparse.Statement (.clamp f) := fun _ => ⟨by decide, rfl⟩
theorem Reparse.addmin (f : LFmt) : Reparse.Statement (.addmin f) := fun _ => ⟨by decide, rfl⟩
theorem Reparse.dot2 (f : LFmt) : Reparse.Statement (.dot2 f) := fun _ => ⟨by decide, rfl⟩
theorem Reparse.frnd (f : LFmt) : Reparse.Statement (.frnd f) := fun _ => ⟨by decide, rfl⟩
theorem Reparse.mov (f : LFmt) : Reparse.Statement (.mov f) := fun _ => ⟨by decide, rfl⟩
theorem Reparse.and (f : LFmt) : Reparse.Statement (.and f) := fun _ => ⟨by decide, rfl⟩
theorem Reparse.or (f : LFmt) : Reparse.Statement (.or f) := fun _ => ⟨by decide, rfl⟩
theorem Reparse.xor (f : LFmt) : Reparse.Statement (.xor f) := fun _ => ⟨by decide, rfl⟩
theorem Reparse.not (f : LFmt) : Reparse.Statement (.not f) := fun _ => ⟨by decide, rfl⟩
theorem Reparse.shl (f : LFmt) : Reparse.Statement (.shl f) := fun _ => ⟨by decide, rfl⟩
theorem Reparse.shr (f : LFmt) : Reparse.Statement (.shr f) := fun _ => ⟨by decide, rfl⟩
theorem Reparse.sar (f : LFmt) : Reparse.Statement (.sar f) := fun _ => ⟨by decide, rfl⟩
theorem Reparse.bfx (f : LFmt) : Reparse.Statement (.bfx f) := fun _ => ⟨by decide, rfl⟩
theorem Reparse.bfi (f : LFmt) : Reparse.Statement (.bfi f) := fun _ => ⟨by decide, rfl⟩
theorem Reparse.popc (f : LFmt) : Reparse.Statement (.popc f) := fun _ => ⟨by decide, rfl⟩
theorem Reparse.clz (f : LFmt) : Reparse.Statement (.clz f) := fun _ => ⟨by decide, rfl⟩
theorem Reparse.brev (f : LFmt) : Reparse.Statement (.brev f) := fun _ => ⟨by decide, rfl⟩
theorem Reparse.pack (f : LFmt) : Reparse.Statement (.pack f) := fun _ => ⟨by decide, rfl⟩
theorem Reparse.cmp (f : LFmt) : Reparse.Statement (.cmp f) := fun _ => ⟨by decide, rfl⟩
theorem Reparse.sel (f : LFmt) : Reparse.Statement (.sel f) := fun _ => ⟨by decide, rfl⟩
theorem Reparse.ballot (f : LFmt) : Reparse.Statement (.ballot f) := fun _ => ⟨by decide, rfl⟩
theorem Reparse.lshf (f : LFmt) : Reparse.Statement (.lshf f) := fun _ => ⟨by decide, rfl⟩
theorem Reparse.pand (f : LFmt) : Reparse.Statement (.pand f) := fun _ => ⟨by decide, rfl⟩
theorem Reparse.por (f : LFmt) : Reparse.Statement (.por f) := fun _ => ⟨by decide, rfl⟩
theorem Reparse.pxor (f : LFmt) : Reparse.Statement (.pxor f) := fun _ => ⟨by decide, rfl⟩
theorem Reparse.pnot (f : LFmt) : Reparse.Statement (.pnot f) := fun _ => ⟨by decide, rfl⟩
theorem Reparse.rand (f : LFmt) : Reparse.Statement (.rand f) := fun _ => ⟨by decide, rfl⟩
theorem Reparse.cvt (f : LFmt) : Reparse.Statement (.cvt f) := fun _ => ⟨by decide, rfl⟩
theorem Reparse.rcp (f : LFmt) : Reparse.Statement (.rcp f) := fun _ => ⟨by decide, rfl⟩
theorem Reparse.rsq (f : LFmt) : Reparse.Statement (.rsq f) := fun _ => ⟨by decide, rfl⟩
theorem Reparse.exp2 (f : LFmt) : Reparse.Statement (.exp2 f) := fun _ => ⟨by decide, rfl⟩
theorem Reparse.log2 (f : LFmt) : Reparse.Statement (.log2 f) := fun _ => ⟨by decide, rfl⟩
theorem Reparse.sin (f : LFmt) : Reparse.Statement (.sin f) := fun _ => ⟨by decide, rfl⟩
theorem Reparse.cos (f : LFmt) : Reparse.Statement (.cos f) := fun _ => ⟨by decide, rfl⟩
theorem Reparse.pdset (f : PFmt) : Reparse.Statement (.pdset f) := fun h => ⟨by decide, by simp [Instr.formOk] at h; simp [mkP, h]⟩
theorem Reparse.pdsetEdge (f : PFmt) : Reparse.Statement (.pdsetEdge f) := fun h => ⟨by decide, by simp [Instr.formOk] at h; simp [mkP, h]⟩
theorem Reparse.pdsetDim (f : PFmt) : Reparse.Statement (.pdsetDim f) := fun h => ⟨by decide, by simp [Instr.formOk] at h; simp [mkP, h]⟩
theorem Reparse.pdsetLike (f : PFmt) : Reparse.Statement (.pdsetLike f) := fun h => ⟨by decide, by simp [Instr.formOk] at h; simp [mkP, h]⟩
theorem Reparse.pdget (f : PFmt) : Reparse.Statement (.pdget f) := fun _ => ⟨by decide, rfl⟩
theorem Reparse.pshift (f : PFmt) : Reparse.Statement (.pshift f) := fun _ => ⟨by decide, rfl⟩
theorem Reparse.prot (f : PFmt) : Reparse.Statement (.prot f) := fun _ => ⟨by decide, rfl⟩
theorem Reparse.pspread (f : PFmt) : Reparse.Statement (.pspread f) := fun _ => ⟨by decide, rfl⟩
theorem Reparse.pfold (f : PFmt) : Reparse.Statement (.pfold f) := fun _ => ⟨by decide, rfl⟩
theorem Reparse.prefold (f : PFmt) : Reparse.Statement (.prefold f) := fun _ => ⟨by decide, rfl⟩
theorem Reparse.ptrans (f : PFmt) : Reparse.Statement (.ptrans f) := fun _ => ⟨by decide, rfl⟩
theorem Reparse.pew2 (f : PFmt) : Reparse.Statement (.pew2 f) := fun _ => ⟨by decide, rfl⟩
theorem Reparse.pew3 (f : PFmt) : Reparse.Statement (.pew3 f) := fun _ => ⟨by decide, rfl⟩
theorem Reparse.pewc (f : PFmt) : Reparse.Statement (.pewc f) := fun _ => ⟨by decide, rfl⟩
theorem Reparse.piota (f : PFmt) : Reparse.Statement (.piota f) := fun _ => ⟨by decide, rfl⟩
theorem Reparse.pscan (f : PFmt) : Reparse.Statement (.pscan f) := fun _ => ⟨by decide, rfl⟩
theorem Reparse.psel (f : PFmt) : Reparse.Statement (.psel f) := fun _ => ⟨by decide, rfl⟩
theorem Reparse.pcmp (f : PFmt) : Reparse.Statement (.pcmp f) := fun _ => ⟨by decide, rfl⟩
theorem Reparse.ppshift (f : PFmt) : Reparse.Statement (.ppshift f) := fun _ => ⟨by decide, rfl⟩
theorem Reparse.pprot (f : PFmt) : Reparse.Statement (.pprot f) := fun _ => ⟨by decide, rfl⟩
theorem Reparse.ppspread (f : PFmt) : Reparse.Statement (.ppspread f) := fun _ => ⟨by decide, rfl⟩
theorem Reparse.ppfold (f : PFmt) : Reparse.Statement (.ppfold f) := fun _ => ⟨by decide, rfl⟩
theorem Reparse.pplog (f : PFmt) : Reparse.Statement (.pplog f) := fun _ => ⟨by decide, rfl⟩
theorem Reparse.pfill (f : PFmt) : Reparse.Statement (.pfill f) := fun _ => ⟨by decide, rfl⟩
theorem Reparse.pextr (f : PFmt) : Reparse.Statement (.pextr f) := fun _ => ⟨by decide, rfl⟩
theorem Reparse.collectivePlaneComplete (team seq : Nat) : Reparse.Statement (.collectivePlaneComplete team seq) := fun _ => trivial
theorem Reparse.mres (f : EFmt) : Reparse.Statement (.mres f) := fun _ => ⟨by decide, rfl⟩
theorem Reparse.mrel (f : EFmt) : Reparse.Statement (.mrel f) := fun _ => ⟨by decide, rfl⟩
theorem Reparse.mrelRelease (bay req : Nat) : Reparse.Statement (.mrelRelease bay req) := fun _ => trivial
theorem Reparse.mmaQ (f : EFmt) : Reparse.Statement (.mmaQ f) := fun _ => ⟨by decide, rfl⟩
theorem Reparse.mmaS (f : EFmt) : Reparse.Statement (.mmaS f) := fun _ => ⟨by decide, rfl⟩
theorem Reparse.mspmm (f : EFmt) : Reparse.Statement (.mspmm f) := fun _ => ⟨by decide, rfl⟩
theorem Reparse.mzero (f : EFmt) : Reparse.Statement (.mzero f) := fun _ => ⟨by decide, rfl⟩
theorem Reparse.mfill (f : EFmt) : Reparse.Statement (.mfill f) := fun _ => ⟨by decide, rfl⟩
theorem Reparse.mdrain (f : EFmt) : Reparse.Statement (.mdrain f) := fun _ => ⟨by decide, rfl⟩
theorem Reparse.mbypass (f : EFmt) : Reparse.Statement (.mbypass f) := fun _ => ⟨by decide, rfl⟩
theorem Reparse.accalloc (f : EFmt) : Reparse.Statement (.accalloc f) := fun _ => ⟨by decide, rfl⟩
theorem Reparse.accfree (f : EFmt) : Reparse.Statement (.accfree f) := fun _ => ⟨by decide, rfl⟩
theorem Reparse.mstat (f : EFmt) : Reparse.Statement (.mstat f) := fun _ => ⟨by decide, rfl⟩
theorem Reparse.matrixGrant (bay : Nat) : Reparse.Statement (.matrixGrant bay) := fun _ => trivial
theorem Reparse.matrixRequestUrgent (bay req : Nat) : Reparse.Statement (.matrixRequestUrgent bay req) := fun _ => trivial
theorem Reparse.matrixRequestComplete (bay req : Nat) : Reparse.Statement (.matrixRequestComplete bay req) := fun _ => trivial
theorem Reparse.scalarAdd (f : SFmt) : Reparse.Statement (.scalarAdd f) := fun _ => ⟨by decide, rfl⟩
theorem Reparse.scalarSub (f : SFmt) : Reparse.Statement (.scalarSub f) := fun _ => ⟨by decide, rfl⟩
theorem Reparse.scalarMul (f : SFmt) : Reparse.Statement (.scalarMul f) := fun _ => ⟨by decide, rfl⟩
theorem Reparse.scalarMulhi (f : SFmt) : Reparse.Statement (.scalarMulhi f) := fun _ => ⟨by decide, rfl⟩
theorem Reparse.div (f : SFmt) : Reparse.Statement (.div f) := fun _ => ⟨by decide, rfl⟩
theorem Reparse.rem (f : SFmt) : Reparse.Statement (.rem f) := fun _ => ⟨by decide, rfl⟩
theorem Reparse.scalarMin (f : SFmt) : Reparse.Statement (.scalarMin f) := fun _ => ⟨by decide, rfl⟩
theorem Reparse.scalarMax (f : SFmt) : Reparse.Statement (.scalarMax f) := fun _ => ⟨by decide, rfl⟩
theorem Reparse.scalarAnd (f : SFmt) : Reparse.Statement (.scalarAnd f) := fun _ => ⟨by decide, rfl⟩
theorem Reparse.scalarOr (f : SFmt) : Reparse.Statement (.scalarOr f) := fun _ => ⟨by decide, rfl⟩
theorem Reparse.scalarXor (f : SFmt) : Reparse.Statement (.scalarXor f) := fun _ => ⟨by decide, rfl⟩
theorem Reparse.scalarNot (f : SFmt) : Reparse.Statement (.scalarNot f) := fun _ => ⟨by decide, rfl⟩
theorem Reparse.scalarShl (f : SFmt) : Reparse.Statement (.scalarShl f) := fun _ => ⟨by decide, rfl⟩
theorem Reparse.scalarShr (f : SFmt) : Reparse.Statement (.scalarShr f) := fun _ => ⟨by decide, rfl⟩
theorem Reparse.scalarSar (f : SFmt) : Reparse.Statement (.scalarSar f) := fun _ => ⟨by decide, rfl⟩
theorem Reparse.scalarCmp (f : SFmt) : Reparse.Statement (.scalarCmp f) := fun _ => ⟨by decide, rfl⟩
theorem Reparse.scalarSel (f : SFmt) : Reparse.Statement (.scalarSel f) := fun _ => ⟨by decide, rfl⟩
theorem Reparse.scalarMov (f : SFmt) : Reparse.Statement (.scalarMov f) := fun _ => ⟨by decide, rfl⟩
theorem Reparse.scalarPopc (f : SFmt) : Reparse.Statement (.scalarPopc f) := fun _ => ⟨by decide, rfl⟩
theorem Reparse.scalarClz (f : SFmt) : Reparse.Statement (.scalarClz f) := fun _ => ⟨by decide, rfl⟩
theorem Reparse.scalarBfx (f : SFmt) : Reparse.Statement (.scalarBfx f) := fun _ => ⟨by decide, rfl⟩
theorem Reparse.scalarBfi (f : SFmt) : Reparse.Statement (.scalarBfi f) := fun _ => ⟨by decide, rfl⟩
theorem Reparse.movp (f : SFmt) : Reparse.Statement (.movp f) := fun _ => ⟨by decide, rfl⟩
theorem Reparse.movps (f : SFmt) : Reparse.Statement (.movps f) := fun _ => ⟨by decide, rfl⟩
theorem Reparse.bra (f : BFmt) : Reparse.Statement (.bra f) := fun _ => ⟨by decide, rfl⟩
theorem Reparse.brc (f : BFmt) : Reparse.Statement (.brc f) := fun _ => ⟨by decide, rfl⟩
theorem Reparse.brk (f : BFmt) : Reparse.Statement (.brk f) := fun _ => ⟨by decide, rfl⟩
theorem Reparse.cont (f : BFmt) : Reparse.Statement (.cont f) := fun _ => ⟨by decide, rfl⟩
theorem Reparse.loop (f : BFmt) : Reparse.Statement (.loop f) := fun _ => ⟨by decide, rfl⟩
theorem Reparse.jmpi (f : BFmt) : Reparse.Statement (.jmpi f) := fun _ => ⟨by decide, rfl⟩
theorem Reparse.call (f : BFmt) : Reparse.Statement (.call f) := fun _ => ⟨by decide, rfl⟩
theorem Reparse.calli (f : BFmt) : Reparse.Statement (.calli f) := fun _ => ⟨by decide, rfl⟩
theorem Reparse.ret (f : BFmt) : Reparse.Statement (.ret f) := fun _ => ⟨by decide, rfl⟩
theorem Reparse.exit (f : BFmt) : Reparse.Statement (.exit f) := fun _ => ⟨by decide, rfl⟩
theorem Reparse.yield (f : BFmt) : Reparse.Statement (.yield f) := fun _ => ⟨by decide, rfl⟩
theorem Reparse.srd (f : SFmt) : Reparse.Statement (.srd f) := fun _ => ⟨by decide, rfl⟩
theorem Reparse.swr (f : SFmt) : Reparse.Statement (.swr f) := fun _ => ⟨by decide, rfl⟩
theorem Reparse.launch (f : MFmt) : Reparse.Statement (.launch f) := fun _ => ⟨by decide, rfl⟩
theorem Reparse.ld (f : MFmt) : Reparse.Statement (.ld f) := fun _ => ⟨by decide, rfl⟩
theorem Reparse.st (f : MFmt) : Reparse.Statement (.st f) := fun _ => ⟨by decide, rfl⟩
theorem Reparse.ldf (f : MFmt) : Reparse.Statement (.ldf f) := fun _ => ⟨by decide, rfl⟩
theorem Reparse.stf (f : MFmt) : Reparse.Statement (.stf f) := fun _ => ⟨by decide, rfl⟩
theorem Reparse.atom (f : MFmt) : Reparse.Statement (.atom f) := fun _ => ⟨by decide, rfl⟩
theorem Reparse.red (f : MFmt) : Reparse.Statement (.red f) := fun _ => ⟨by decide, rfl⟩
theorem Reparse.flushred (f : MFmt) : Reparse.Statement (.flushred f) := fun _ => ⟨by decide, rfl⟩
theorem Reparse.thld (f : MFmt) : Reparse.Statement (.thld f) := fun _ => ⟨by decide, rfl⟩
theorem Reparse.thst (f : MFmt) : Reparse.Statement (.thst f) := fun _ => ⟨by decide, rfl⟩
theorem Reparse.presclr (f : MFmt) : Reparse.Statement (.presclr f) := fun h => ⟨by decide, by simp [Instr.formOk] at h; simp [mkM, h]⟩
theorem Reparse.presclrSet (f : MFmt) : Reparse.Statement (.presclrSet f) := fun h => ⟨by decide, by simp [Instr.formOk] at h; simp [mkM, h]⟩
theorem Reparse.prestest (f : MFmt) : Reparse.Statement (.prestest f) := fun _ => ⟨by decide, rfl⟩
theorem Reparse.cpyt (f : EFmt) : Reparse.Statement (.cpyt f) := fun _ => ⟨by decide, rfl⟩
theorem Reparse.gath (f : EFmt) : Reparse.Statement (.gath f) := fun h => ⟨by decide, by simp [Instr.formOk] at h; simp [mkE, h]⟩
theorem Reparse.gathTh (f : EFmt) : Reparse.Statement (.gathTh f) := fun h => ⟨by decide, by simp [Instr.formOk] at h; simp [mkE, h]⟩
theorem Reparse.scat (f : EFmt) : Reparse.Statement (.scat f) := fun _ => ⟨by decide, rfl⟩
theorem Reparse.waitcnt (f : EFmt) : Reparse.Statement (.waitcnt f) := fun _ => ⟨by decide, rfl⟩
theorem Reparse.copyAccept (core op : Nat) (data : List Byte) : Reparse.Statement (.copyAccept core op data) := fun _ => trivial
theorem Reparse.copyLineLanded (core op first count : Nat) (data : List Byte) : Reparse.Statement (.copyLineLanded core op first count data) := fun _ => trivial
theorem Reparse.copyComplete (core op : Nat) : Reparse.Statement (.copyComplete core op) := fun _ => trivial
theorem Reparse.barinit (f : EFmt) : Reparse.Statement (.barinit f) := fun h => ⟨by decide, by simp [Instr.formOk] at h; simp [mkE, h]⟩
theorem Reparse.barfree (f : EFmt) : Reparse.Statement (.barfree f) := fun h => ⟨by decide, by simp [Instr.formOk] at h; simp [mkE, h]⟩
theorem Reparse.bararr (f : EFmt) : Reparse.Statement (.bararr f) := fun _ => ⟨by decide, rfl⟩
theorem Reparse.barwait (f : EFmt) : Reparse.Statement (.barwait f) := fun _ => ⟨by decide, rfl⟩
theorem Reparse.bartest (f : EFmt) : Reparse.Statement (.bartest f) := fun _ => ⟨by decide, rfl⟩
theorem Reparse.mortinit (f : MFmt) : Reparse.Statement (.mortinit f) := fun h => ⟨by decide, by simp [Instr.formOk] at h; simp [mkM, h]⟩
theorem Reparse.mortinitFree (f : MFmt) : Reparse.Statement (.mortinitFree f) := fun h => ⟨by decide, by simp [Instr.formOk] at h; simp [mkM, h]⟩
theorem Reparse.mortacq (f : MFmt) : Reparse.Statement (.mortacq f) := fun _ => ⟨by decide, rfl⟩
theorem Reparse.pegwait (f : MFmt) : Reparse.Statement (.pegwait f) := fun _ => ⟨by decide, rfl⟩
theorem Reparse.peggive (f : MFmt) : Reparse.Statement (.peggive f) := fun _ => ⟨by decide, rfl⟩
theorem Reparse.pegswap (f : MFmt) : Reparse.Statement (.pegswap f) := fun _ => ⟨by decide, rfl⟩
theorem Reparse.pegdrop (f : MFmt) : Reparse.Statement (.pegdrop f) := fun _ => ⟨by decide, rfl⟩
theorem Reparse.mortrel (f : MFmt) : Reparse.Statement (.mortrel f) := fun _ => ⟨by decide, rfl⟩
theorem Reparse.mortiseSkipStep (pa : Nat) : Reparse.Statement (.mortiseSkipStep pa) := fun _ => trivial
theorem Reparse.publish (f : MFmt) : Reparse.Statement (.publish f) := fun _ => ⟨by decide, rfl⟩
theorem Reparse.refresh (f : MFmt) : Reparse.Statement (.refresh f) := fun _ => ⟨by decide, rfl⟩
theorem Reparse.ifence (f : MFmt) : Reparse.Statement (.ifence f) := fun _ => ⟨by decide, rfl⟩
theorem Reparse.gridarr (f : SFmt) : Reparse.Statement (.gridarr f) := fun _ => ⟨by decide, rfl⟩
theorem Reparse.migrate (f : SFmt) : Reparse.Statement (.migrate f) := fun _ => ⟨by decide, rfl⟩
theorem Reparse.migrateMove (team : Nat) : Reparse.Statement (.migrateMove team) := fun _ => trivial
theorem Reparse.trig (f : EFmt) : Reparse.Statement (.trig f) := fun _ => ⟨by decide, rfl⟩
theorem Reparse.trigcan (f : EFmt) : Reparse.Statement (.trigcan f) := fun _ => ⟨by decide, rfl⟩
theorem Reparse.triggerFire : Reparse.Statement .triggerFire := fun _ => trivial
theorem Reparse.gtcUpdate : Reparse.Statement .gtcUpdate := fun _ => trivial
theorem Reparse.trap (f : SFmt) : Reparse.Statement (.trap f) := fun _ => ⟨by decide, rfl⟩
theorem Reparse.syscall (f : SFmt) : Reparse.Statement (.syscall f) := fun _ => ⟨by decide, rfl⟩
theorem Reparse.trapret (f : SFmt) : Reparse.Statement (.trapret f) := fun _ => ⟨by decide, rfl⟩
theorem Reparse.handlerGroupStart (core slot : Nat) : Reparse.Statement (.handlerGroupStart core slot) := fun _ => trivial
theorem Reparse.fetchLine (gid pos : Nat) (refill : Bool) : Reparse.Statement (.fetchLine gid pos refill) := fun _ => trivial
theorem Reparse.flaggedComplete (gid id : Nat) : Reparse.Statement (.flaggedComplete gid id) := fun _ => trivial
theorem Reparse.groupUrgent (gid : Nat) : Reparse.Statement (.groupUrgent gid) := fun _ => trivial
theorem Reparse.throttleReselect (core part : Nat) : Reparse.Statement (.throttleReselect core part) := fun _ => trivial
theorem Reparse.congestionWindow (quad m : Nat) : Reparse.Statement (.congestionWindow quad m) := fun _ => trivial
theorem Reparse.memoryAccessPerformed (ref : AccessRef) (resp : Line) : Reparse.Statement (.memoryAccessPerformed ref resp) := fun _ => trivial
theorem Reparse.groupExitRelease (gid : Nat) : Reparse.Statement (.groupExitRelease gid) := fun _ => trivial
theorem Reparse.placeCluster : Reparse.Statement .placeCluster := fun _ => trivial
theorem Reparse.launchComplete (launch : Nat) : Reparse.Statement (.launchComplete launch) := fun _ => trivial
theorem Reparse.shootdownComplete : Reparse.Statement .shootdownComplete := fun _ => trivial
theorem Reparse.remoteRequestTimeout (req : Nat) : Reparse.Statement (.remoteRequestTimeout req) := fun _ => trivial
theorem Reparse.remoteOriginTimeout (tag : Nat) : Reparse.Statement (.remoteOriginTimeout tag) := fun _ => trivial
theorem Reparse.collectiveAccept (core op : Nat) : Reparse.Statement (.collectiveAccept core op) := fun _ => trivial
theorem Reparse.scribeDispatch (proc : Nat) : Reparse.Statement (.scribeDispatch proc) := fun _ => trivial
theorem Reparse.vadd (d : BitVec 4) (a : BitVec 4) (b : BitVec 4) (m : BitVec 2) (t : BitVec 4) : Reparse.Statement (.vadd d a b m t) := fun _ => trivial
theorem Reparse.vsub (d : BitVec 4) (a : BitVec 4) (b : BitVec 4) (m : BitVec 2) (t : BitVec 4) : Reparse.Statement (.vsub d a b m t) := fun _ => trivial
theorem Reparse.vmul (d : BitVec 4) (a : BitVec 4) (b : BitVec 4) (m : BitVec 2) (t : BitVec 4) : Reparse.Statement (.vmul d a b m t) := fun _ => trivial
theorem Reparse.vmin (d : BitVec 4) (a : BitVec 4) (b : BitVec 4) (m : BitVec 2) (t : BitVec 4) : Reparse.Statement (.vmin d a b m t) := fun _ => trivial
theorem Reparse.vmax (d : BitVec 4) (a : BitVec 4) (b : BitVec 4) (m : BitVec 2) (t : BitVec 4) : Reparse.Statement (.vmax d a b m t) := fun _ => trivial
theorem Reparse.vand (d : BitVec 4) (a : BitVec 4) (b : BitVec 4) (m : BitVec 2) : Reparse.Statement (.vand d a b m) := fun _ => trivial
theorem Reparse.vor (d : BitVec 4) (a : BitVec 4) (b : BitVec 4) (m : BitVec 2) : Reparse.Statement (.vor d a b m) := fun _ => trivial
theorem Reparse.vxor (d : BitVec 4) (a : BitVec 4) (b : BitVec 4) (m : BitVec 2) : Reparse.Statement (.vxor d a b m) := fun _ => trivial
theorem Reparse.vshl (d : BitVec 4) (a : BitVec 4) (b : BitVec 4) (m : BitVec 2) : Reparse.Statement (.vshl d a b m) := fun _ => trivial
theorem Reparse.vshr (d : BitVec 4) (a : BitVec 4) (b : BitVec 4) (m : BitVec 2) : Reparse.Statement (.vshr d a b m) := fun _ => trivial
theorem Reparse.vsar (d : BitVec 4) (a : BitVec 4) (b : BitVec 4) (m : BitVec 2) : Reparse.Statement (.vsar d a b m) := fun _ => trivial
theorem Reparse.vsel (d : BitVec 4) (a : BitVec 4) (b : BitVec 4) (m : BitVec 2) : Reparse.Statement (.vsel d a b m) := fun _ => trivial
theorem Reparse.vcmp (d : BitVec 2) (a : BitVec 4) (b : BitVec 4) (m : BitVec 2) (r : BitVec 3) (t : BitVec 4) : Reparse.Statement (.vcmp d a b m r t) := fun _ => trivial
theorem Reparse.vbc (d : BitVec 4) (a : BitVec 4) (m : BitVec 2) : Reparse.Statement (.vbc d a m) := fun _ => trivial
theorem Reparse.vext (d : BitVec 4) (a : BitVec 4) (l : BitVec 4) : Reparse.Statement (.vext d a l) := fun _ => trivial
theorem Reparse.vins (d : BitVec 4) (a : BitVec 4) (l : BitVec 4) : Reparse.Statement (.vins d a l) := fun _ => trivial
theorem Reparse.sadd (d : BitVec 4) (a : BitVec 4) (b : BitVec 4) : Reparse.Statement (.sadd d a b) := fun _ => trivial
theorem Reparse.ssub (d : BitVec 4) (a : BitVec 4) (b : BitVec 4) : Reparse.Statement (.ssub d a b) := fun _ => trivial
theorem Reparse.sand (d : BitVec 4) (a : BitVec 4) (b : BitVec 4) : Reparse.Statement (.sand d a b) := fun _ => trivial
theorem Reparse.sor (d : BitVec 4) (a : BitVec 4) (b : BitVec 4) : Reparse.Statement (.sor d a b) := fun _ => trivial
theorem Reparse.sxor (d : BitVec 4) (a : BitVec 4) (b : BitVec 4) : Reparse.Statement (.sxor d a b) := fun _ => trivial
theorem Reparse.sshl (d : BitVec 4) (a : BitVec 4) (n : BitVec 5) : Reparse.Statement (.sshl d a n) := fun _ => trivial
theorem Reparse.sshr (d : BitVec 4) (a : BitVec 4) (n : BitVec 5) : Reparse.Statement (.sshr d a n) := fun _ => trivial
theorem Reparse.saddi (d : BitVec 4) (a : BitVec 4) (i : BitVec 12) : Reparse.Statement (.saddi d a i) := fun _ => trivial
theorem Reparse.smovi (d : BitVec 4) (i : BitVec 22) : Reparse.Statement (.smovi d i) := fun _ => trivial
theorem Reparse.smovh (d : BitVec 4) (i : BitVec 10) : Reparse.Statement (.smovh d i) := fun _ => trivial
theorem Reparse.scmp (d : BitVec 4) (a : BitVec 4) (b : BitVec 4) (u : BitVec 1) (r : BitVec 3) : Reparse.Statement (.scmp d a b u r) := fun _ => trivial
theorem Reparse.hrd (d : BitVec 4) (f : BitVec 4) : Reparse.Statement (.hrd d f) := fun _ => trivial
theorem Reparse.hwr (a : BitVec 4) (f : BitVec 4) : Reparse.Statement (.hwr a f) := fun _ => trivial
theorem Reparse.pld (d : BitVec 4) : Reparse.Statement (.pld d) := fun _ => trivial
theorem Reparse.pst (a : BitVec 4) (m : BitVec 2) : Reparse.Statement (.pst a m) := fun _ => trivial
theorem Reparse.fld (d : BitVec 4) (a : BitVec 4) (o : BitVec 12) : Reparse.Statement (.fld d a o) := fun _ => trivial
theorem Reparse.fst (a : BitVec 4) (b : BitVec 4) (m : BitVec 2) (o : BitVec 12) : Reparse.Statement (.fst a b m o) := fun _ => trivial
theorem Reparse.racc (d : BitVec 4) (a : BitVec 4) (o : BitVec 12) : Reparse.Statement (.racc d a o) := fun _ => trivial
theorem Reparse.emit (a : BitVec 4) (b : BitVec 4) (r : BitVec 1) : Reparse.Statement (.emit a b r) := fun _ => trivial
theorem Reparse.bnz (a : BitVec 4) (o : BitVec 12) : Reparse.Statement (.bnz a o) := fun _ => trivial
theorem Reparse.bz (a : BitVec 4) (o : BitVec 12) : Reparse.Statement (.bz a o) := fun _ => trivial
theorem Reparse.jmp (o : BitVec 12) : Reparse.Statement (.jmp o) := fun _ => trivial
theorem Reparse.scribeRepeat (d : BitVec 4) (b : BitVec 8) (n : BitVec 9) : Reparse.Statement (.scribeRepeat d b n) := fun _ => trivial
theorem Reparse.pass : Reparse.Statement .pass := fun _ => trivial
theorem Reparse.drop : Reparse.Statement .drop := fun _ => trivial
theorem Reparse.trapk (c : BitVec 8) : Reparse.Statement (.trapk c) := fun _ => trivial
theorem Reparse.contextSwitchDone (core : Nat) : Reparse.Statement (.contextSwitchDone core) := fun _ => trivial
theorem Reparse.freezeStepEnd : Reparse.Statement .freezeStepEnd := fun _ => trivial
theorem Reparse.freezeDrainTimeout : Reparse.Statement .freezeDrainTimeout := fun _ => trivial
theorem Reparse.domainBarrierStep (job rank k : Nat) : Reparse.Statement (.domainBarrierStep job rank k) := fun _ => trivial
theorem Reparse.ptpMessage (domain : Nat) (rate : Int) : Reparse.Statement (.ptpMessage domain rate) := fun _ => trivial
theorem Reparse.lqtailWrite (q : Nat) (val : DWord) : Reparse.Statement (.lqtailWrite q val) := fun _ => trivial
theorem Reparse.lqctlWrite (q : Nat) (w : RegVal) : Reparse.Statement (.lqctlWrite q w) := fun _ => trivial
theorem Reparse.lqstatErrClear (q : Nat) : Reparse.Statement (.lqstatErrClear q) := fun _ => trivial
theorem Reparse.tlbictlGo (val : DWord) : Reparse.Statement (.tlbictlGo val) := fun _ => trivial
theorem Reparse.ctxsaveWrite (ctx : Nat) (w : RegVal) : Reparse.Statement (.ctxsaveWrite ctx w) := fun _ => trivial
theorem Reparse.registerWrite (off : Nat) (val : DWord) (who : Nat) : Reparse.Statement (.registerWrite off val who) := fun _ => trivial
theorem Reparse.remoteRead (p : Packet) : Reparse.Statement (.remoteRead p) := fun _ => trivial
theorem Reparse.remoteWrite (p : Packet) : Reparse.Statement (.remoteWrite p) := fun _ => trivial
theorem Reparse.remoteAtomic (p : Packet) : Reparse.Statement (.remoteAtomic p) := fun _ => trivial
theorem Reparse.ackReceived (req : Nat) : Reparse.Statement (.ackReceived req) := fun _ => trivial
theorem Reparse.nackReceived (req detail : Nat) : Reparse.Statement (.nackReceived req detail) := fun _ => trivial
theorem Reparse.collectiveStep (m : CollMsg) : Reparse.Statement (.collectiveStep m) := fun _ => trivial
theorem Reparse.drainMarker (p : Packet) : Reparse.Statement (.drainMarker p) := fun _ => trivial
theorem Reparse.scribeControl (c : MCmd) (kind : ScribeCtl) : Reparse.Statement (.scribeControl c kind) := fun _ => trivial
theorem Reparse.packetAccept (p : Packet) (dir : Nat) : Reparse.Statement (.packetAccept p dir) := fun _ => trivial
theorem Reparse.survey (c : MCmd) : Reparse.Statement (.survey c) := fun _ => trivial
theorem Reparse.load (c : MCmd) : Reparse.Statement (.load c) := fun _ => trivial
theorem Reparse.partcfg (c : MCmd) : Reparse.Statement (.partcfg c) := fun _ => trivial
theorem Reparse.modeset (c : MCmd) : Reparse.Statement (.modeset c) := fun _ => trivial
theorem Reparse.ctxsw (c : MCmd) : Reparse.Statement (.ctxsw c) := fun _ => trivial
theorem Reparse.freeze (c : MCmd) : Reparse.Statement (.freeze c) := fun _ => trivial
theorem Reparse.thaw (c : MCmd) : Reparse.Statement (.thaw c) := fun _ => trivial
theorem Reparse.dirtyscan (c : MCmd) : Reparse.Statement (.dirtyscan c) := fun _ => trivial
theorem Reparse.scribebind (c : MCmd) : Reparse.Statement (.scribebind c) := fun _ => trivial
theorem Reparse.routeset (c : MCmd) : Reparse.Statement (.routeset c) := fun _ => trivial
theorem Reparse.ctxend (c : MCmd) : Reparse.Statement (.ctxend c) := fun _ => trivial
theorem Reparse.ctxcreate (c : MCmd) : Reparse.Statement (.ctxcreate c) := fun _ => trivial
theorem Reparse.jobbind (c : MCmd) : Reparse.Statement (.jobbind c) := fun _ => trivial
theorem Reparse.keyenrol (c : MCmd) : Reparse.Statement (.keyenrol c) := fun _ => trivial
theorem Reparse.cfgwrite (c : MCmd) : Reparse.Statement (.cfgwrite c) := fun _ => trivial
theorem Reparse.scribeunbind (c : MCmd) : Reparse.Statement (.scribeunbind c) := fun _ => trivial
theorem Reparse.scriberead (c : MCmd) : Reparse.Statement (.scriberead c) := fun _ => trivial
theorem Reparse.scribewrite (c : MCmd) : Reparse.Statement (.scribewrite c) := fun _ => trivial
theorem Reparse.scribesnap (c : MCmd) : Reparse.Statement (.scribesnap c) := fun _ => trivial
theorem Reparse.getMeasurements (index : Nat) : Reparse.Statement (.getMeasurements index) := fun _ => trivial
theorem Reparse.hostMemAccess (wr : Bool) (addr : Nat) (val : Byte) : Reparse.Statement (.hostMemAccess wr addr val) := fun _ => trivial
theorem Reparse.eccScrub (loc : EccLoc) (uncorrectable : Bool) : Reparse.Statement (.eccScrub loc uncorrectable) := fun _ => trivial
theorem Reparse.powerOn (fit : Fitted) : Reparse.Statement (.powerOn fit) := fun _ => trivial
theorem Reparse.trainingComplete : Reparse.Statement .trainingComplete := fun _ => trivial
theorem Reparse.thermalSample (tj hottest : Nat) : Reparse.Statement (.thermalSample tj hottest) := fun _ => trivial
theorem Reparse.thermalShutdown : Reparse.Statement .thermalShutdown := fun _ => trivial
theorem Reparse.thermalRecover : Reparse.Statement .thermalRecover := fun _ => trivial
theorem Reparse.powerRemoved : Reparse.Statement .powerRemoved := fun _ => trivial
theorem Reparse.fabricPortStateChange (port st peer : Nat) : Reparse.Statement (.fabricPortStateChange port st peer) := fun _ => trivial
theorem Reparse.packagePowerLimit (reached : Bool) : Reparse.Statement (.packagePowerLimit reached) := fun _ => trivial

end Sys2Proof.Laws
end

