-- ==== Sys2Proof/Tests/Slice0.lean ====
section
/-!
SUPPORT. The model's own tests, each about one step: ill-formed terms that each check refuses, a word of every operation written
out from its format, and for every statement a state and operands that meet its hypotheses, with the outcome that the
manual gives there.
-/
namespace Sys2Proof.Tests
set_option maxRecDepth 100000
set_option Elab.async false
open Sys2Proof Sys2Proof.Machine Sys2Proof.Claims

/-! ### Helpers -/

/-- Every term fails its check, in a line that names flag X alone, with the subcode beside it. -/
def refused (l : List (Instr × Nat)) : Bool := l.all (fun x => x.1.check true false == some x.2)

/-- Every slot decodes to the instruction beside it. -/
def decodesTo (l : List (Nat × Instr)) : Bool :=
  l.all (fun x => match decodeSlot 1 2 (BitVec.ofNat 96 x.1) with | .ok i => decide (i = x.2) && encode x.2 == x.1 | .error _ => false)

/-- Every Scribe word decodes to the instruction beside it. -/
def scribeDecodesTo (l : List (Nat × Instr)) : Bool := l.all (fun x => decodeScribe x.1 == some x.2)

/-- The answer is a next state of which `p` holds. -/
def nextIs (o : Host.Outcome State Fault Refusal) (p : State → Bool) : Bool :=
  match o with
  | .next t => p t
  | _ => false

/-- The instruction issued from the state answers a next state of which `p` holds, where the issuer meets `hyp`. -/
def runs (i : Instr) (gd : Guard) (s : State) (hyp : Iss → Bool) (p : Iss → State → Bool) : Bool :=
  match issuer s gd with
  | some c => hyp c && nextIs (exec i s) (p c)
  | none => false

/-- A result is given and `p` holds of it. -/
def okIs {ε α : Type} (x : Except ε α) (p : α → Bool) : Bool :=
  match x with
  | .ok a => p a
  | .error _ => false

/-- Always. -/
def always : Guard := ⟨0, false⟩
/-- Never. -/
def never : Guard := ⟨0, true⟩

/-! ### Ill-formed terms (R61 to R70, R78) -/

/-- One term for each check of format L: function, type, rounding, saturation, kinds, immediates, zero fields, LSHF and CVT, each register. -/
theorem test_refused_lane : refused [
    (.cmp ⟨⟨⟨0, false⟩, 3, 1, 2, 0⟩, .i32, 7, false, .rn, .vec, .vec, .vec, 0⟩, 3),
    (.and ⟨⟨⟨0, false⟩, 3, 1, 2, 0⟩, .f32, 0, false, .rn, .vec, .vec, .vec, 0⟩, 4),
    (.add ⟨⟨⟨0, false⟩, 3, 1, 2, 0⟩, .i32, 0, false, .rz, .vec, .vec, .vec, 0⟩, 4),
    (.and ⟨⟨⟨0, false⟩, 3, 1, 2, 0⟩, .b32, 0, true, .rn, .vec, .vec, .vec, 0⟩, 4),
    (.pand ⟨⟨⟨0, false⟩, 1, 2, 3, 0⟩, .b32, 0, false, .rn, .sca, .vec, .vec, 0⟩, 4),
    (.add ⟨⟨⟨0, false⟩, 3, 0, 0, 0⟩, .i32, 0, false, .rn, .imm, .imm, .vec, 0⟩, 4),
    (.add ⟨⟨⟨0, false⟩, 3, 1, 2, 0⟩, .i32, 0, false, .rn, .vec, .vec, .vec, 1⟩, 4),
    (.add ⟨⟨⟨0, false⟩, 3, 1, 2, 0⟩, .i32, 0, false, .rn, .vec, .imm, .vec, 1⟩, 6),
    (.abs ⟨⟨⟨0, false⟩, 3, 1, 1, 0⟩, .i32, 0, false, .rn, .vec, .vec, .vec, 0⟩, 6),
    (.lshf ⟨⟨⟨0, false⟩, 3, 1, 2, 1⟩, .b32, 0, false, .rn, .vec, .vec, .vec, 0⟩, 4),
    (.cvt ⟨⟨⟨0, false⟩, 3, 1, 0, 0⟩, .i32, 0, false, .rn, .vec, .imm, .vec, 0⟩, 4),
    (.cvt ⟨⟨⟨0, false⟩, 3, 1, 0, 0⟩, .i16, 0, false, .rn, .vec, .imm, .vec, 2⟩, 4),
    (.pnot ⟨⟨⟨0, false⟩, 0, 2, 0, 0⟩, .b32, 0, false, .rn, .vec, .vec, .vec, 0⟩, 6),
    (.add ⟨⟨⟨0, false⟩, 3, 64, 2, 0⟩, .i32, 0, false, .rn, .sca, .vec, .vec, 0⟩, 6),
    (.pand ⟨⟨⟨0, false⟩, 1, 2, 8, 0⟩, .b32, 0, false, .rn, .vec, .vec, .vec, 0⟩, 6),
    (.sel ⟨⟨⟨0, false⟩, 3, 1, 2, 8⟩, .b32, 0, false, .rn, .vec, .vec, .vec, 0⟩, 6)] = true := by decide +kernel

/-- One term for each check of format P: function, SET, axis, amount, edge and operator, PDSET and PEW fields, unused fields, each register. -/
theorem test_refused_plane : refused [
    (.pcmp ⟨⟨⟨0, false⟩, 3, 1, 2, 0⟩, 7, false, false, 0, .zero, .add, 0⟩, 3),
    (.pew2 ⟨⟨⟨0, false⟩, 3, 1, 2, 0⟩, 12, false, false, 0, .zero, .add, 0⟩, 4),
    (.pdget ⟨⟨⟨0, false⟩, 3, 1, 0, 0⟩, 0, true, false, 0, .zero, .add, 0⟩, 4),
    (.ptrans ⟨⟨⟨0, false⟩, 3, 1, 0, 0⟩, 0, false, true, 0, .zero, .add, 0⟩, 4),
    (.pfold ⟨⟨⟨0, false⟩, 3, 1, 0, 0⟩, 0, false, false, 1, .zero, .add, 0⟩, 4),
    (.prot ⟨⟨⟨0, false⟩, 3, 1, 0, 0⟩, 0, false, false, 0, .rep, .add, 0⟩, 4),
    (.pshift ⟨⟨⟨0, false⟩, 3, 1, 0, 0⟩, 0, false, false, 0, .zero, .max, 0⟩, 4),
    (.pshift ⟨⟨⟨0, false⟩, 3, 1, 0, 0⟩, 0, false, false, 0, .zero, .add, 1⟩, 4),
    (.pdset ⟨⟨⟨0, false⟩, 3, 1, 0, 0⟩, 0, false, false, 11, .zero, .add, 0⟩, 4),
    (.pdsetDim ⟨⟨⟨0, false⟩, 3, 0, 0, 0⟩, 2, false, false, 0, .zero, .add, 0⟩, 4),
    (.pew2 ⟨⟨⟨0, false⟩, 3, 1, 2, 0⟩, 0, false, false, 4, .zero, .add, 0⟩, 4),
    (.pshift ⟨⟨⟨0, false⟩, 3, 1, 1, 0⟩, 0, false, false, 0, .zero, .add, 0⟩, 4),
    (.pshift ⟨⟨⟨0, false⟩, 16, 1, 0, 0⟩, 0, false, false, 0, .zero, .add, 0⟩, 6),
    (.pshift ⟨⟨⟨0, false⟩, 3, 16, 0, 0⟩, 0, false, false, 0, .zero, .add, 0⟩, 6),
    (.pew2 ⟨⟨⟨0, false⟩, 3, 1, 16, 0⟩, 0, false, false, 0, .zero, .add, 0⟩, 6),
    (.psel ⟨⟨⟨0, false⟩, 3, 1, 2, 16⟩, 0, false, false, 0, .zero, .add, 0⟩, 6)] = true := by decide +kernel

/-- One term for each check of format M: function, width, space, order, operator, offset, unused fields, flag, each register. -/
theorem test_refused_memory : refused [
    (.ld ⟨⟨⟨0, false⟩, 0, 0, 0, 0⟩, .b8, .tm, .none, .group, .x, false, 2, 0⟩, 3),
    (.ld ⟨⟨⟨0, false⟩, 0, 0, 0, 0⟩, .b8, .far, .none, .group, .x, false, 0, 0⟩, 4),
    (.atom ⟨⟨⟨0, false⟩, 0, 0, 0, 0⟩, .b8, .far, .none, .group, .x, false, 0, 0⟩, 4),
    (.publish ⟨⟨⟨0, false⟩, 0, 0, 0, 0⟩, .b8, .tm, .none, .group, .none, false, 0, 0⟩, 4),
    (.stf ⟨⟨⟨0, false⟩, 0, 0, 0, 0⟩, .b8, .far, .none, .team, .none, false, 0, 0⟩, 4),
    (.atom ⟨⟨⟨0, false⟩, 0, 0, 0, 0⟩, .b64, .far, .none, .group, .x, false, 1, 1342177280⟩, 4),
    (.ifence ⟨⟨⟨0, false⟩, 0, 0, 0, 0⟩, .b8, .tm, .none, .group, .none, false, 0, 1⟩, 4),
    (.st ⟨⟨⟨0, false⟩, 1, 0, 0, 0⟩, .b8, .tm, .none, .group, .none, false, 0, 0⟩, 4),
    (.ld ⟨⟨⟨0, false⟩, 0, 0, 0, 0⟩, .b8, .tm, .none, .group, .none, false, 0, 0⟩, 5),
    (.ld ⟨⟨⟨0, false⟩, 0, 0, 0, 0⟩, .b8, .tm, .none, .group, .y, false, 0, 0⟩, 5),
    (.ld ⟨⟨⟨0, false⟩, 253, 0, 0, 0⟩, .b128, .tm, .none, .group, .x, false, 0, 0⟩, 6),
    (.ld ⟨⟨⟨0, false⟩, 0, 64, 0, 0⟩, .b8, .tm, .none, .group, .x, false, 0, 0⟩, 6),
    (.ldf ⟨⟨⟨0, false⟩, 0, 255, 0, 0⟩, .b8, .far, .none, .group, .x, true, 0, 0⟩, 6),
    (.mortacq ⟨⟨⟨0, false⟩, 0, 0, 0, 0⟩, .b8, .far, .none, .group, .x, false, 0, 0⟩, 4),
    (.mortacq ⟨⟨⟨0, false⟩, 64, 0, 1, 0⟩, .b8, .far, .none, .group, .x, false, 0, 0⟩, 6),
    (.peggive ⟨⟨⟨0, false⟩, 0, 0, 0, 64⟩, .b8, .far, .none, .group, .x, false, 0, 0⟩, 6)] = true := by decide +kernel

/-- One term for each check of format B: unused target and reconvergence fields, unused registers, kind and slots, each register. -/
theorem test_refused_branch : refused [
    (.jmpi ⟨⟨⟨0, false⟩, 0, 0, 0, 0⟩, 0, 0, 1, 0, 0⟩, 2),
    (.bra ⟨⟨⟨0, false⟩, 0, 0, 0, 0⟩, 0, 0, 0, 0, 1⟩, 2),
    (.bra ⟨⟨⟨0, false⟩, 0, 1, 0, 0⟩, 0, 0, 0, 0, 0⟩, 2),
    (.bra ⟨⟨⟨0, false⟩, 0, 0, 1, 0⟩, 0, 0, 0, 0, 0⟩, 2),
    (.brk ⟨⟨⟨0, false⟩, 0, 0, 0, 0⟩, 0, 0, 0, 0, 0⟩, 3),
    (.bra ⟨⟨⟨0, false⟩, 0, 0, 0, 0⟩, 0, 5, 0, 0, 0⟩, 3),
    (.brc ⟨⟨⟨0, false⟩, 0, 0, 0, 0⟩, 0, 0, 0, 5, 0⟩, 3),
    (.loop ⟨⟨⟨0, false⟩, 64, 0, 0, 0⟩, 0, 0, 0, 0, 0⟩, 6)] = true := by decide +kernel

/-- One term for each check of format E: function, counter class, barrier, trigger, immediate, flag rule, unused fields, pair 63, each register. -/
theorem test_refused_engine : refused [
    (.bararr ⟨⟨⟨0, false⟩, 0, 0, 0, 0⟩, 0, true, 0, .copy, false, 0, .none, 5, 1⟩, 3),
    (.gath ⟨⟨⟨0, false⟩, 0, 0, 0, 0⟩, 0, false, 0, .copy, false, 0, .none, 0, 0⟩, 4),
    (.bararr ⟨⟨⟨0, false⟩, 0, 0, 0, 0⟩, 0, false, 0, .copy, false, 0, .none, 0, 1⟩, 4),
    (.trig ⟨⟨⟨0, false⟩, 0, 0, 0, 0⟩, 2, false, 0, .copy, false, 0, .x, 0, 0⟩, 4),
    (.bararr ⟨⟨⟨0, false⟩, 0, 0, 0, 0⟩, 0, true, 0, .copy, false, 0, .none, 0, 0⟩, 4),
    (.waitcnt ⟨⟨⟨0, false⟩, 0, 0, 0, 0⟩, 0, false, 0, .copy, false, 0, .x, 0, 0⟩, 4),
    (.cpyt ⟨⟨⟨0, false⟩, 0, 0, 0, 0⟩, 0, false, 1, .copy, false, 0, .none, 0, 0⟩, 4),
    (.cpyt ⟨⟨⟨0, false⟩, 0, 0, 0, 0⟩, 0, false, 0, .copy, false, 1, .none, 0, 0⟩, 4),
    (.waitcnt ⟨⟨⟨0, false⟩, 0, 0, 0, 0⟩, 1, false, 0, .copy, false, 0, .none, 0, 0⟩, 4),
    (.mzero ⟨⟨⟨0, false⟩, 0, 1, 0, 0⟩, 0, false, 0, .mat, false, 0, .none, 0, 0⟩, 4),
    (.mstat ⟨⟨⟨0, false⟩, 1, 0, 0, 0⟩, 0, false, 0, .mat, false, 0, .none, 0, 0⟩, 5),
    (.mrel ⟨⟨⟨0, false⟩, 0, 0, 0, 0⟩, 0, false, 0, .mat, false, 0, .y, 0, 0⟩, 5),
    (.mrel ⟨⟨⟨0, false⟩, 0, 0, 0, 0⟩, 63, false, 0, .mat, false, 0, .none, 0, 0⟩, 6),
    (.mdrain ⟨⟨⟨0, false⟩, 225, 0, 0, 0⟩, 0, false, 0, .mat, false, 0, .x, 0, 0⟩, 6),
    (.mfill ⟨⟨⟨0, false⟩, 1, 225, 0, 0⟩, 0, false, 0, .mat, false, 0, .none, 0, 0⟩, 6),
    (.mmaS ⟨⟨⟨0, false⟩, 1, 0, 241, 0⟩, 0, false, 0, .mat, false, 0, .none, 0, 0⟩, 6),
    (.gathTh ⟨⟨⟨0, false⟩, 0, 0, 0, 64⟩, 0, false, 0, .gath, false, 0, .x, 1, 1⟩, 6)] = true := by decide +kernel

/-- One term for each check of format S: kind, function, type, unused kinds, immediates, zero fields, each instruction's own fields, each register. -/
theorem test_refused_scalar : refused [
    (.scalarAdd ⟨⟨⟨0, false⟩, 3, 1, 2, 0⟩, .i64, 0, .sca, .vec, .vec, 0⟩, 3),
    (.scalarCmp ⟨⟨⟨0, false⟩, 3, 1, 2, 0⟩, .i64, 7, .vec, .vec, .vec, 0⟩, 3),
    (.scalarAnd ⟨⟨⟨0, false⟩, 3, 1, 2, 0⟩, .i64, 0, .vec, .vec, .vec, 0⟩, 4),
    (.scalarCmp ⟨⟨⟨0, false⟩, 3, 1, 2, 0⟩, .i64, 6, .vec, .vec, .vec, 0⟩, 4),
    (.scalarNot ⟨⟨⟨0, false⟩, 3, 1, 0, 0⟩, .b64, 0, .vec, .imm, .vec, 0⟩, 4),
    (.scalarAdd ⟨⟨⟨0, false⟩, 3, 0, 0, 0⟩, .i64, 0, .imm, .imm, .vec, 0⟩, 4),
    (.scalarAdd ⟨⟨⟨0, false⟩, 3, 1, 2, 0⟩, .i64, 0, .vec, .vec, .vec, 1⟩, 4),
    (.scalarAdd ⟨⟨⟨0, false⟩, 3, 1, 2, 0⟩, .i64, 0, .vec, .imm, .vec, 0⟩, 6),
    (.trap ⟨⟨⟨0, false⟩, 1, 0, 0, 0⟩, .i64, 0, .imm, .vec, .vec, 0⟩, 4),
    (.srd ⟨⟨⟨0, false⟩, 3, 0, 0, 0⟩, .b64, 0, .imm, .vec, .vec, 65536⟩, 4),
    (.movps ⟨⟨⟨0, false⟩, 0, 1, 0, 0⟩, .b64, 0, .vec, .vec, .vec, 0⟩, 6),
    (.scalarAdd ⟨⟨⟨0, false⟩, 64, 1, 2, 0⟩, .i64, 0, .vec, .vec, .vec, 0⟩, 6),
    (.scalarAdd ⟨⟨⟨0, false⟩, 3, 64, 2, 0⟩, .i64, 0, .vec, .vec, .vec, 0⟩, 6),
    (.scalarAdd ⟨⟨⟨0, false⟩, 3, 1, 64, 0⟩, .i64, 0, .vec, .vec, .vec, 0⟩, 6),
    (.scalarSel ⟨⟨⟨0, false⟩, 3, 1, 2, 64⟩, .b64, 0, .vec, .vec, .vec, 0⟩, 6),
    (.movp ⟨⟨⟨0, false⟩, 3, 8, 0, 0⟩, .b64, 0, .vec, .vec, .vec, 0⟩, 6)] = true := by decide +kernel

/-- One term for each check of forms and Scribe words. -/
theorem test_refused_form : refused [
    (.pdset ⟨⟨⟨0, false⟩, 3, 0, 0, 0⟩, 1, false, false, 0, .zero, .add, 0⟩, 4),
    (.presclr ⟨⟨⟨0, false⟩, 0, 0, 0, 0⟩, .b8, .sp, .none, .group, .none, false, 1, 0⟩, 4),
    (.gath ⟨⟨⟨0, false⟩, 0, 0, 0, 0⟩, 0, false, 0, .gath, false, 0, .none, 1, 0⟩, 4),
    (.barinit ⟨⟨⟨0, false⟩, 0, 0, 0, 0⟩, 0, true, 0, .copy, false, 0, .none, 3, 0⟩, 4),
    (.barfree ⟨⟨⟨0, false⟩, 0, 0, 0, 0⟩, 0, true, 0, .copy, false, 0, .none, 0, 1⟩, 4),
    (.mortinitFree ⟨⟨⟨0, false⟩, 0, 0, 0, 0⟩, .b8, .far, .none, .group, .x, false, 0, 0⟩, 4),
    (.vadd 1 2 3 0 2, 3),
    (.vcmp 0 1 2 0 0 0, 3),
    (.vcmp 1 1 2 0 6 0, 3),
    (.vcmp 1 1 2 0 0 6, 3),
    (.scmp 1 2 3 0 6, 3),
    (.hrd 1 15, 3),
    (.hwr 1 4, 3)] = true := by decide +kernel

/-- R60 to R69, R74: one word of each lane operation, written out field by field from its format. -/
theorem test_decode_lane_a : decodesTo [
    (0x015030102002080000000000, .add ⟨⟨⟨2, true⟩, 3, 1, 2, 0⟩, .i16, 0, true, .rn, .vec, .vec, .vec, 0⟩),
    (0x02503013F005011000000000, .sub ⟨⟨⟨2, true⟩, 3, 1, 63, 0⟩, .f32, 0, false, .rz, .vec, .sca, .vec, 0⟩),
    (0x0350305FF0060A4000000000, .mul ⟨⟨⟨2, true⟩, 3, 5, 255, 0⟩, .f16, 0, true, .ru, .sca, .vec, .vec, 0⟩),
    (0x045030102001000000000000, .mulhi ⟨⟨⟨2, true⟩, 3, 1, 2, 0⟩, .u32, 0, false, .rn, .vec, .vec, .vec, 0⟩),
    (0x055030102043080000000000, .mad ⟨⟨⟨2, true⟩, 3, 1, 2, 4⟩, .i8, 0, true, .rn, .vec, .vec, .vec, 0⟩),
    (0x065030102047030000000000, .fma ⟨⟨⟨2, true⟩, 3, 1, 2, 4⟩, .bf16, 0, false, .rd, .vec, .vec, .vec, 0⟩),
    (0x075030102004000000000000, .min ⟨⟨⟨2, true⟩, 3, 1, 2, 0⟩, .u8, 0, false, .rn, .vec, .vec, .vec, 0⟩),
    (0x08503010000500203F800000, .max ⟨⟨⟨2, true⟩, 3, 1, 0, 0⟩, .f32, 0, false, .rn, .vec, .imm, .vec, 1065353216⟩),
    (0x095030100006000000000000, .abs ⟨⟨⟨2, true⟩, 3, 1, 0, 0⟩, .f16, 0, false, .rn, .vec, .vec, .vec, 0⟩),
    (0x0A5030100000080000000000, .neg ⟨⟨⟨2, true⟩, 3, 1, 0, 0⟩, .i32, 0, true, .rn, .vec, .vec, .vec, 0⟩),
    (0x0B5030102091000400000000, .clamp ⟨⟨⟨2, true⟩, 3, 1, 2, 9⟩, .u32, 0, false, .rn, .vec, .vec, .sca, 0⟩),
    (0x0C5030102042000000000000, .addmin ⟨⟨⟨2, true⟩, 3, 1, 2, 4⟩, .i16, 0, false, .rn, .vec, .vec, .vec, 0⟩),
    (0x0D5030102047020000000000, .dot2 ⟨⟨⟨2, true⟩, 3, 1, 2, 4⟩, .bf16, 0, false, .ru, .vec, .vec, .vec, 0⟩),
    (0x0E5030100005010000000000, .frnd ⟨⟨⟨2, true⟩, 3, 1, 0, 0⟩, .f32, 0, false, .rz, .vec, .vec, .vec, 0⟩),
    (0x0F50300000080080FFFFFFFF, .mov ⟨⟨⟨2, true⟩, 3, 0, 0, 0⟩, .e4m3, 0, false, .rn, .imm, .vec, .vec, 4294967295⟩),
    (0x1050301C800A000000000000, .and ⟨⟨⟨2, true⟩, 3, 1, 200, 0⟩, .b32, 0, false, .rn, .vec, .vec, .vec, 0⟩),
    (0x1150301C800A000000000000, .or ⟨⟨⟨2, true⟩, 3, 1, 200, 0⟩, .b32, 0, false, .rn, .vec, .vec, .vec, 0⟩),
    (0x1250301C800A000000000000, .xor ⟨⟨⟨2, true⟩, 3, 1, 200, 0⟩, .b32, 0, false, .rn, .vec, .vec, .vec, 0⟩),
    (0x13503010000A000000000000, .not ⟨⟨⟨2, true⟩, 3, 1, 0, 0⟩, .b32, 0, false, .rn, .vec, .vec, .vec, 0⟩),
    (0x14503010000A00200000001F, .shl ⟨⟨⟨2, true⟩, 3, 1, 0, 0⟩, .b32, 0, false, .rn, .vec, .imm, .vec, 31⟩),
    (0x155030102001000000000000, .shr ⟨⟨⟨2, true⟩, 3, 1, 2, 0⟩, .u32, 0, false, .rn, .vec, .vec, .vec, 0⟩),
    (0x165030102003000000000000, .sar ⟨⟨⟨2, true⟩, 3, 1, 2, 0⟩, .i8, 0, false, .rn, .vec, .vec, .vec, 0⟩),
    (0x17503010200A100000000000, .bfx ⟨⟨⟨2, true⟩, 3, 1, 2, 0⟩, .b32, 1, false, .rn, .vec, .vec, .vec, 0⟩),
    (0x18503010204A000000000000, .bfi ⟨⟨⟨2, true⟩, 3, 1, 2, 4⟩, .b32, 0, false, .rn, .vec, .vec, .vec, 0⟩)] = true := by decide +kernel

/-- R60 to R69, R74: one word of each lane operation, written out field by field from its format. -/
theorem test_decode_lane_b : decodesTo [
    (0x19503010000A000000000000, .popc ⟨⟨⟨2, true⟩, 3, 1, 0, 0⟩, .b32, 0, false, .rn, .vec, .vec, .vec, 0⟩),
    (0x1A503010000A000000000000, .clz ⟨⟨⟨2, true⟩, 3, 1, 0, 0⟩, .b32, 0, false, .rn, .vec, .vec, .vec, 0⟩),
    (0x1B503010000A000000000000, .brev ⟨⟨⟨2, true⟩, 3, 1, 0, 0⟩, .b32, 0, false, .rn, .vec, .vec, .vec, 0⟩),
    (0x1C503010204A200000000000, .pack ⟨⟨⟨2, true⟩, 3, 1, 2, 4⟩, .b32, 2, false, .rn, .vec, .vec, .vec, 0⟩),
    (0x1D5070102005600000000000, .cmp ⟨⟨⟨2, true⟩, 7, 1, 2, 0⟩, .f32, 6, false, .rn, .vec, .vec, .vec, 0⟩),
    (0x1E503010206A000000000000, .sel ⟨⟨⟨2, true⟩, 3, 1, 2, 6⟩, .b32, 0, false, .rn, .vec, .vec, .vec, 0⟩),
    (0x1F53F070000A000000000000, .ballot ⟨⟨⟨2, true⟩, 63, 7, 0, 0⟩, .b32, 0, false, .rn, .vec, .vec, .vec, 0⟩),
    (0x20503010004A102000000003, .lshf ⟨⟨⟨2, true⟩, 3, 1, 0, 4⟩, .b32, 1, false, .rn, .vec, .imm, .vec, 3⟩),
    (0x21501020300A000000000000, .pand ⟨⟨⟨2, true⟩, 1, 2, 3, 0⟩, .b32, 0, false, .rn, .vec, .vec, .vec, 0⟩),
    (0x22501020300A000000000000, .por ⟨⟨⟨2, true⟩, 1, 2, 3, 0⟩, .b32, 0, false, .rn, .vec, .vec, .vec, 0⟩),
    (0x23501020300A000000000000, .pxor ⟨⟨⟨2, true⟩, 1, 2, 3, 0⟩, .b32, 0, false, .rn, .vec, .vec, .vec, 0⟩),
    (0x24501020000A000000000000, .pnot ⟨⟨⟨2, true⟩, 1, 2, 0, 0⟩, .b32, 0, false, .rn, .vec, .vec, .vec, 0⟩),
    (0x25503010200A000000000000, .rand ⟨⟨⟨2, true⟩, 3, 1, 2, 0⟩, .b32, 0, false, .rn, .vec, .vec, .vec, 0⟩),
    (0x265030100005002000000000, .cvt ⟨⟨⟨2, true⟩, 3, 1, 0, 0⟩, .f32, 0, false, .rn, .vec, .imm, .vec, 0⟩),
    (0x275030100005000000000000, .rcp ⟨⟨⟨2, true⟩, 3, 1, 0, 0⟩, .f32, 0, false, .rn, .vec, .vec, .vec, 0⟩),
    (0x285030100006000000000000, .rsq ⟨⟨⟨2, true⟩, 3, 1, 0, 0⟩, .f16, 0, false, .rn, .vec, .vec, .vec, 0⟩),
    (0x295030100007000000000000, .exp2 ⟨⟨⟨2, true⟩, 3, 1, 0, 0⟩, .bf16, 0, false, .rn, .vec, .vec, .vec, 0⟩),
    (0x2A5030100005000000000000, .log2 ⟨⟨⟨2, true⟩, 3, 1, 0, 0⟩, .f32, 0, false, .rn, .vec, .vec, .vec, 0⟩),
    (0x2B5030100006000000000000, .sin ⟨⟨⟨2, true⟩, 3, 1, 0, 0⟩, .f16, 0, false, .rn, .vec, .vec, .vec, 0⟩),
    (0x2C5030100007000000000000, .cos ⟨⟨⟨2, true⟩, 3, 1, 0, 0⟩, .bf16, 0, false, .rn, .vec, .vec, .vec, 0⟩)] = true := by decide +kernel

/-- R60 to R69, R74: one word of each plane operation, written out field by field from its format. -/
theorem test_decode_plane_a : decodesTo [
    (0x4100F40000000E8000100008, .pdset ⟨⟨⟨0, false⟩, 15, 64, 0, 0⟩, 0, false, false, 58, .zero, .add, 1048584⟩),
    (0x410030000071002000000000, .pdsetEdge ⟨⟨⟨0, false⟩, 3, 0, 0, 7⟩, 1, false, false, 0, .scal, .add, 0⟩),
    (0x410030000002000002400010, .pdsetDim ⟨⟨⟨0, false⟩, 3, 0, 0, 0⟩, 2, false, false, 0, .zero, .add, 37748752⟩),
    (0x4100301600030C0000000000, .pdsetLike ⟨⟨⟨0, false⟩, 3, 1, 96, 0⟩, 3, false, false, 48, .zero, .add, 0⟩),
    (0x4203F0100000000000000003, .pdget ⟨⟨⟨0, false⟩, 63, 1, 0, 0⟩, 0, false, false, 0, .zero, .add, 3⟩),
    (0x4300301000007FC800000000, .pshift ⟨⟨⟨0, false⟩, 3, 1, 0, 0⟩, 0, false, true, 255, .rep, .add, 0⟩),
    (0x44003010000080C000000000, .prot ⟨⟨⟨0, false⟩, 3, 1, 0, 0⟩, 0, true, false, 3, .zero, .add, 0⟩),
    (0x450030100000400000000002, .pspread ⟨⟨⟨0, false⟩, 3, 1, 0, 0⟩, 0, false, true, 0, .zero, .add, 2⟩),
    (0x460030100000C00100000000, .pfold ⟨⟨⟨0, false⟩, 3, 1, 0, 0⟩, 0, true, true, 0, .zero, .max, 0⟩),
    (0x470030100000000000000000, .prefold ⟨⟨⟨0, false⟩, 3, 1, 0, 0⟩, 0, false, false, 0, .zero, .add, 0⟩),
    (0x480030100000001800000000, .ptrans ⟨⟨⟨0, false⟩, 3, 1, 0, 0⟩, 0, false, false, 0, .desc, .add, 0⟩),
    (0x49003010200B000000000000, .pew2 ⟨⟨⟨0, false⟩, 3, 1, 2, 0⟩, 11, false, false, 0, .zero, .add, 0⟩),
    (0x4A0030102043020000000000, .pew3 ⟨⟨⟨0, false⟩, 3, 1, 2, 4⟩, 3, false, false, 8, .zero, .add, 0⟩),
    (0x4B003010028C002000000000, .pewc ⟨⟨⟨0, false⟩, 3, 1, 0, 40⟩, 12, false, false, 0, .scal, .add, 0⟩),
    (0x4C0030000000000000000005, .piota ⟨⟨⟨0, false⟩, 3, 0, 0, 0⟩, 0, false, false, 0, .zero, .add, 5⟩),
    (0x4D0030100000000500000000, .pscan ⟨⟨⟨0, false⟩, 3, 1, 0, 0⟩, 0, false, false, 0, .zero, .xor, 0⟩),
    (0x4E0030102040000000000000, .psel ⟨⟨⟨0, false⟩, 3, 1, 2, 4⟩, 0, false, false, 0, .zero, .add, 0⟩),
    (0x4F0030102006000000000000, .pcmp ⟨⟨⟨0, false⟩, 3, 1, 2, 0⟩, 6, false, false, 0, .zero, .add, 0⟩),
    (0x500030100000201000000000, .ppshift ⟨⟨⟨0, false⟩, 3, 1, 0, 0⟩, 0, false, false, 128, .wrap, .add, 0⟩),
    (0x510030100000404000000000, .pprot ⟨⟨⟨0, false⟩, 3, 1, 0, 0⟩, 0, false, true, 1, .zero, .add, 0⟩),
    (0x520030100000000000000007, .ppspread ⟨⟨⟨0, false⟩, 3, 1, 0, 0⟩, 0, false, false, 0, .zero, .add, 7⟩),
    (0x530030100000000400000000, .ppfold ⟨⟨⟨0, false⟩, 3, 1, 0, 0⟩, 0, false, false, 0, .zero, .or, 0⟩),
    (0x540030100004000000000000, .pplog ⟨⟨⟨0, false⟩, 3, 1, 0, 0⟩, 4, false, false, 0, .zero, .add, 0⟩),
    (0x550030000000001800000000, .pfill ⟨⟨⟨0, false⟩, 3, 0, 0, 0⟩, 0, false, false, 0, .desc, .add, 0⟩)] = true := by decide +kernel

/-- R60 to R69, R74: one word of each plane operation, written out field by field from its format. -/
theorem test_decode_plane_b : decodesTo [
    (0x560090100000000000030002, .pextr ⟨⟨⟨0, false⟩, 9, 1, 0, 0⟩, 0, false, false, 0, .zero, .add, 196610⟩)] = true := by decide +kernel

/-- R60 to R69, R74: one word of each engine operation, written out field by field from its format. -/
theorem test_decode_engine : decodesTo [
    (0x60000000000F802010000000, .mres ⟨⟨⟨0, false⟩, 0, 0, 0, 0⟩, 62, false, 0, .mat, false, 0, .x, 0, 0⟩),
    (0x610000000001002000000000, .mrel ⟨⟨⟨0, false⟩, 0, 0, 0, 0⟩, 4, false, 0, .mat, false, 0, .none, 0, 0⟩),
    (0x62005060800124A021000040, .mmaQ ⟨⟨⟨0, false⟩, 5, 6, 8, 0⟩, 4, true, 9, .mat, false, 0, .y, 1, 64⟩),
    (0x6300F00F0001002000000000, .mmaS ⟨⟨⟨0, false⟩, 15, 0, 240, 0⟩, 4, false, 0, .mat, false, 0, .none, 0, 0⟩),
    (0x640010008001002003000040, .mspmm ⟨⟨⟨0, false⟩, 1, 0, 8, 0⟩, 4, false, 0, .mat, false, 0, .none, 3, 64⟩),
    (0x650020000000002000000000, .mzero ⟨⟨⟨0, false⟩, 2, 0, 0, 0⟩, 0, false, 0, .mat, false, 0, .none, 0, 0⟩),
    (0x66002C800000002001000000, .mfill ⟨⟨⟨0, false⟩, 2, 200, 0, 0⟩, 0, false, 0, .mat, false, 0, .none, 1, 0⟩),
    (0x670E00300000002020000000, .mdrain ⟨⟨⟨0, false⟩, 224, 3, 0, 0⟩, 0, false, 0, .mat, false, 0, .y, 0, 0⟩),
    (0x68000030000200200D000020, .mbypass ⟨⟨⟨0, false⟩, 0, 3, 0, 0⟩, 8, false, 0, .mat, false, 0, .none, 13, 32⟩),
    (0x690000000000002000008001, .accalloc ⟨⟨⟨0, false⟩, 0, 0, 0, 0⟩, 0, false, 0, .mat, false, 0, .none, 0, 32769⟩),
    (0x6A000000000000200000FFFF, .accfree ⟨⟨⟨0, false⟩, 0, 0, 0, 0⟩, 0, false, 0, .mat, false, 0, .none, 0, 65535⟩),
    (0x6B0140000000002010000000, .mstat ⟨⟨⟨0, false⟩, 20, 0, 0, 0⟩, 0, false, 0, .mat, false, 0, .x, 0, 0⟩),
    (0xD00000000000A56010000000, .cpyt ⟨⟨⟨0, false⟩, 0, 0, 0, 0⟩, 2, true, 10, .coll, false, 0, .x, 0, 0⟩),
    (0xD10000A00001804000000000, .gath ⟨⟨⟨0, false⟩, 0, 10, 0, 0⟩, 6, false, 0, .gath, false, 0, .none, 0, 0⟩),
    (0xD10C80A0F3F1804021000040, .gathTh ⟨⟨⟨0, false⟩, 200, 10, 15, 63⟩, 6, false, 0, .gath, false, 0, .y, 1, 64⟩),
    (0xD20000A00001804002000000, .scat ⟨⟨⟨0, false⟩, 0, 10, 0, 0⟩, 6, false, 0, .gath, false, 0, .none, 2, 0⟩),
    (0xD300000000000020000000FF, .waitcnt ⟨⟨⟨0, false⟩, 0, 0, 0, 0⟩, 0, false, 0, .mat, false, 0, .none, 0, 255⟩),
    (0xD40170000001801150000000, .trig ⟨⟨⟨0, false⟩, 23, 0, 0, 0⟩, 6, false, 0, .copy, true, 5, .x, 0, 0⟩),
    (0xD50171600000000020000000, .trigcan ⟨⟨⟨0, false⟩, 23, 22, 0, 0⟩, 0, false, 0, .copy, false, 0, .y, 0, 0⟩),
    (0xD8200000000025000E000401, .barinit ⟨⟨⟨1, false⟩, 0, 0, 0, 0⟩, 0, true, 10, .copy, false, 0, .none, 14, 1025⟩),
    (0xD800000000003F8003000000, .barfree ⟨⟨⟨0, false⟩, 0, 0, 0, 0⟩, 0, true, 63, .copy, false, 0, .none, 3, 0⟩),
    (0xD90000000000250002000001, .bararr ⟨⟨⟨0, false⟩, 0, 0, 0, 0⟩, 0, true, 10, .copy, false, 0, .none, 2, 1⟩),
    (0xDA0000500000250001008000, .barwait ⟨⟨⟨0, false⟩, 0, 5, 0, 0⟩, 0, true, 10, .copy, false, 0, .none, 1, 32768⟩),
    (0xDB0040000000250014000007, .bartest ⟨⟨⟨0, false⟩, 4, 0, 0, 0⟩, 0, true, 10, .copy, false, 0, .x, 4, 7⟩)] = true := by decide +kernel

/-- R60 to R69, R74: one word of each scalar operation, written out field by field from its format. -/
theorem test_decode_scalar_a : decodesTo [
    (0x81B030102001000000000000, .scalarAdd ⟨⟨⟨5, true⟩, 3, 1, 2, 0⟩, .u64, 0, .vec, .vec, .vec, 0⟩),
    (0x82B030102001000000000000, .scalarSub ⟨⟨⟨5, true⟩, 3, 1, 2, 0⟩, .u64, 0, .vec, .vec, .vec, 0⟩),
    (0x83B030102001000000000000, .scalarMul ⟨⟨⟨5, true⟩, 3, 1, 2, 0⟩, .u64, 0, .vec, .vec, .vec, 0⟩),
    (0x84B030102001000000000000, .scalarMulhi ⟨⟨⟨5, true⟩, 3, 1, 2, 0⟩, .u64, 0, .vec, .vec, .vec, 0⟩),
    (0x85B0301000020020FFFFFFFF, .div ⟨⟨⟨5, true⟩, 3, 1, 0, 0⟩, .i32, 0, .vec, .imm, .vec, 4294967295⟩),
    (0x86B03013F000000000000000, .rem ⟨⟨⟨5, true⟩, 3, 1, 63, 0⟩, .i64, 0, .vec, .vec, .vec, 0⟩),
    (0x87B030102002000000000000, .scalarMin ⟨⟨⟨5, true⟩, 3, 1, 2, 0⟩, .i32, 0, .vec, .vec, .vec, 0⟩),
    (0x88B030102003000000000000, .scalarMax ⟨⟨⟨5, true⟩, 3, 1, 2, 0⟩, .u32, 0, .vec, .vec, .vec, 0⟩),
    (0x89B030102004000000000000, .scalarAnd ⟨⟨⟨5, true⟩, 3, 1, 2, 0⟩, .b64, 0, .vec, .vec, .vec, 0⟩),
    (0x8AB030102004000000000000, .scalarOr ⟨⟨⟨5, true⟩, 3, 1, 2, 0⟩, .b64, 0, .vec, .vec, .vec, 0⟩),
    (0x8BB030102004000000000000, .scalarXor ⟨⟨⟨5, true⟩, 3, 1, 2, 0⟩, .b64, 0, .vec, .vec, .vec, 0⟩),
    (0x8CB030100004000000000000, .scalarNot ⟨⟨⟨5, true⟩, 3, 1, 0, 0⟩, .b64, 0, .vec, .vec, .vec, 0⟩),
    (0x8DB030102003000000000000, .scalarShl ⟨⟨⟨5, true⟩, 3, 1, 2, 0⟩, .u32, 0, .vec, .vec, .vec, 0⟩),
    (0x8EB030102004000000000000, .scalarShr ⟨⟨⟨5, true⟩, 3, 1, 2, 0⟩, .b64, 0, .vec, .vec, .vec, 0⟩),
    (0x8FB030100002002000000003, .scalarSar ⟨⟨⟨5, true⟩, 3, 1, 0, 0⟩, .i32, 0, .vec, .imm, .vec, 3⟩),
    (0x90B030102001500000000000, .scalarCmp ⟨⟨⟨5, true⟩, 3, 1, 2, 0⟩, .u64, 5, .vec, .vec, .vec, 0⟩),
    (0x91B030102044000000000000, .scalarSel ⟨⟨⟨5, true⟩, 3, 1, 2, 4⟩, .b64, 0, .vec, .vec, .vec, 0⟩),
    (0x92B030000003008080000000, .scalarMov ⟨⟨⟨5, true⟩, 3, 0, 0, 0⟩, .u32, 0, .imm, .vec, .vec, 2147483648⟩),
    (0x93B030100003000000000000, .scalarPopc ⟨⟨⟨5, true⟩, 3, 1, 0, 0⟩, .u32, 0, .vec, .vec, .vec, 0⟩),
    (0x94B030100004000000000000, .scalarClz ⟨⟨⟨5, true⟩, 3, 1, 0, 0⟩, .b64, 0, .vec, .vec, .vec, 0⟩),
    (0x95B030102004100000000000, .scalarBfx ⟨⟨⟨5, true⟩, 3, 1, 2, 0⟩, .b64, 1, .vec, .vec, .vec, 0⟩),
    (0x96B030102044000000000000, .scalarBfi ⟨⟨⟨5, true⟩, 3, 1, 2, 4⟩, .b64, 0, .vec, .vec, .vec, 0⟩),
    (0x97B030700004000000000000, .movp ⟨⟨⟨5, true⟩, 3, 7, 0, 0⟩, .b64, 0, .vec, .vec, .vec, 0⟩),
    (0x98B070900004000000000000, .movps ⟨⟨⟨5, true⟩, 7, 9, 0, 0⟩, .b64, 0, .vec, .vec, .vec, 0⟩)] = true := by decide +kernel

/-- R60 to R69, R74: one word of each scalar operation, written out field by field from its format. -/
theorem test_decode_scalar_b : decodesTo [
    (0xB0B030000004008000000004, .srd ⟨⟨⟨5, true⟩, 3, 0, 0, 0⟩, .b64, 0, .imm, .vec, .vec, 4⟩),
    (0xB1B000004004008000000020, .swr ⟨⟨⟨5, true⟩, 0, 0, 4, 0⟩, .b64, 0, .imm, .vec, .vec, 32⟩)] = true := by decide +kernel

/-- R60 to R69, R74: one word of each branch operation, written out field by field from its format. -/
theorem test_decode_branch : decodesTo [
    (0xA06000000000900000000000, .bra ⟨⟨⟨3, false⟩, 0, 0, 0, 0⟩, 0, 4, 524288, 0, 0⟩),
    (0xA160000000013FFFFEC00008, .brc ⟨⟨⟨3, false⟩, 0, 0, 0, 0⟩, 1, 1, 1048575, 3, 2⟩),
    (0xA2600000000F000000000000, .brk ⟨⟨⟨3, false⟩, 0, 0, 0, 0⟩, 15, 0, 0, 0, 0⟩),
    (0xA36000000001400002000000, .cont ⟨⟨⟨3, false⟩, 0, 0, 0, 0⟩, 1, 2, 1, 0, 0⟩),
    (0xA460900000002FFFFE000000, .loop ⟨⟨⟨3, false⟩, 9, 0, 0, 0⟩, 0, 1, 524287, 0, 0⟩),
    (0xA5600FF00000000000000000, .jmpi ⟨⟨⟨3, false⟩, 0, 255, 0, 0⟩, 0, 0, 0, 0, 0⟩),
    (0xA66140000000000002000000, .call ⟨⟨⟨3, false⟩, 20, 0, 0, 0⟩, 0, 0, 1, 0, 0⟩),
    (0xA76141500000000000000000, .calli ⟨⟨⟨3, false⟩, 20, 21, 0, 0⟩, 0, 0, 0, 0, 0⟩),
    (0xA86001400000000000000000, .ret ⟨⟨⟨3, false⟩, 0, 20, 0, 0⟩, 0, 0, 0, 0, 0⟩),
    (0xA90000000000000000000000, .exit ⟨⟨⟨0, false⟩, 0, 0, 0, 0⟩, 0, 0, 0, 0, 0⟩),
    (0xAA6000000000000000000000, .yield ⟨⟨⟨3, false⟩, 0, 0, 0, 0⟩, 0, 0, 0, 0, 0⟩)] = true := by decide +kernel

/-- R60 to R69, R74: one word of each memory operation, written out field by field from its format. -/
theorem test_decode_memory : decodesTo [
    (0xB22050600000B8BF00000080, .launch ⟨⟨⟨1, false⟩, 5, 6, 0, 0⟩, .b8, .far, .both, .device, .x, false, 63, 128⟩),
    (0xC12FCFF0000812C1FFFFFFF0, .ld ⟨⟨⟨1, false⟩, 252, 255, 0, 0⟩, .b128, .tm, .acq, .team, .x, true, 1, 4294967280⟩),
    (0xC22003F07002400000000002, .st ⟨⟨⟨1, false⟩, 0, 63, 7, 0⟩, .b16, .sp, .none, .group, .none, false, 0, 2⟩),
    (0xC320AFE00006BB4000000000, .ldf ⟨⟨⟨1, false⟩, 10, 254, 0, 0⟩, .b64, .far, .both, .domain, .y, true, 0, 0⟩),
    (0xC42000509000A60000000000, .stf ⟨⟨⟨1, false⟩, 0, 5, 9, 0⟩, .b8, .far, .rel, .die, .none, false, 0, 0⟩),
    (0xC520A05141E6808710000000, .atom ⟨⟨⟨1, false⟩, 10, 5, 20, 30⟩, .b64, .far, .none, .group, .x, false, 7, 268435456⟩),
    (0xC62000408004804250000000, .red ⟨⟨⟨1, false⟩, 0, 4, 8, 0⟩, .b32, .far, .none, .group, .none, true, 2, 1342177280⟩),
    (0xC72000000000000000000000, .flushred ⟨⟨⟨1, false⟩, 0, 0, 0, 0⟩, .b8, .tm, .none, .group, .none, false, 0, 0⟩),
    (0xC820F0600000808000000000, .thld ⟨⟨⟨1, false⟩, 15, 6, 0, 0⟩, .b8, .far, .none, .group, .x, false, 0, 0⟩),
    (0xC9200060F000800000000000, .thst ⟨⟨⟨1, false⟩, 0, 6, 15, 0⟩, .b8, .far, .none, .group, .none, false, 0, 0⟩),
    (0xCA2000600000400000000040, .presclr ⟨⟨⟨1, false⟩, 0, 6, 0, 0⟩, .b8, .sp, .none, .group, .none, false, 0, 64⟩),
    (0xCA2000600000400100000000, .presclrSet ⟨⟨⟨1, false⟩, 0, 6, 0, 0⟩, .b8, .sp, .none, .group, .none, false, 1, 0⟩),
    (0xCB2070200000414000000000, .prestest ⟨⟨⟨1, false⟩, 7, 2, 0, 0⟩, .b8, .sp, .none, .group, .y, true, 0, 0⟩),
    (0xE02010200000808000000000, .mortinit ⟨⟨⟨1, false⟩, 1, 2, 0, 0⟩, .b8, .far, .none, .group, .x, false, 0, 0⟩),
    (0xE02010200000810100000000, .mortinitFree ⟨⟨⟨1, false⟩, 1, 2, 0, 0⟩, .b8, .far, .none, .group, .y, false, 1, 0⟩),
    (0xE12010203000808000000000, .mortacq ⟨⟨⟨1, false⟩, 1, 2, 3, 0⟩, .b8, .far, .none, .group, .x, false, 0, 0⟩),
    (0xE22010203000968000000000, .pegwait ⟨⟨⟨1, false⟩, 1, 2, 3, 0⟩, .b8, .far, .acq, .die, .x, false, 0, 0⟩),
    (0xE32010203040808000000000, .peggive ⟨⟨⟨1, false⟩, 1, 2, 3, 4⟩, .b8, .far, .none, .group, .x, false, 0, 0⟩),
    (0xE42010203040808000000000, .pegswap ⟨⟨⟨1, false⟩, 1, 2, 3, 4⟩, .b8, .far, .none, .group, .x, false, 0, 0⟩),
    (0xE52010203000808000000000, .pegdrop ⟨⟨⟨1, false⟩, 1, 2, 3, 0⟩, .b8, .far, .none, .group, .x, false, 0, 0⟩),
    (0xE62010203000AA8000000000, .mortrel ⟨⟨⟨1, false⟩, 1, 2, 3, 0⟩, .b8, .far, .rel, .domain, .x, false, 0, 0⟩),
    (0xE82000000000220000000000, .publish ⟨⟨⟨1, false⟩, 0, 0, 0, 0⟩, .b8, .tm, .rel, .team, .none, false, 0, 0⟩),
    (0xE92000000000140000000000, .refresh ⟨⟨⟨1, false⟩, 0, 0, 0, 0⟩, .b8, .tm, .acq, .cluster, .none, false, 0, 0⟩),
    (0xEA2000000000000000000000, .ifence ⟨⟨⟨1, false⟩, 0, 0, 0, 0⟩, .b8, .tm, .none, .group, .none, false, 0, 0⟩)] = true := by decide +kernel

/-- R60 to R69, R74: one word of each system operation, written out field by field from its format. -/
theorem test_decode_system : decodesTo [
    (0xF0B000000000500000000000, .gridarr ⟨⟨⟨5, true⟩, 0, 0, 0, 0⟩, .i64, 5, .vec, .vec, .vec, 0⟩),
    (0xF1B141500004000000000000, .migrate ⟨⟨⟨5, true⟩, 20, 21, 0, 0⟩, .b64, 0, .vec, .vec, .vec, 0⟩),
    (0xF8B0000000000080000000FF, .trap ⟨⟨⟨5, true⟩, 0, 0, 0, 0⟩, .i64, 0, .imm, .vec, .vec, 255⟩),
    (0xF9B0C0D00004002000000021, .syscall ⟨⟨⟨5, true⟩, 12, 13, 0, 0⟩, .b64, 0, .vec, .imm, .vec, 33⟩),
    (0xFAB000000000200000000000, .trapret ⟨⟨⟨5, true⟩, 0, 0, 0, 0⟩, .i64, 2, .vec, .vec, .vec, 0⟩)] = true := by decide +kernel

/-- R361, R362: one word of each Scribe operation. -/
theorem test_decode_scribe : scribeDecodesTo [
    (0x07C8C000, .vadd 15 2 3 0 0),
    (0x0BC8D001, .vsub 15 2 3 1 1),
    (0x0FC8E005, .vmul 15 2 3 2 5),
    (0x13C8F006, .vmin 15 2 3 3 6),
    (0x17C8C007, .vmax 15 2 3 0 7),
    (0x1878E000, .vand 1 14 3 2),
    (0x1C78E000, .vor 1 14 3 2),
    (0x2078E000, .vxor 1 14 3 2),
    (0x2478E000, .vshl 1 14 3 2),
    (0x2878E000, .vshr 1 14 3 2),
    (0x2C78E000, .vsar 1 14 3 2),
    (0x3078E000, .vsel 1 14 3 2),
    (0x34D15025, .vcmp 3 4 5 1 2 5),
    (0x38643000, .vbc 1 9 3),
    (0x3C48000F, .vext 1 2 15),
    (0x40480007, .vins 1 2 7),
    (0x604BC000, .sadd 1 2 15),
    (0x644BC000, .ssub 1 2 15),
    (0x684BC000, .sand 1 2 15),
    (0x6C4BC000, .sor 1 2 15),
    (0x704BC000, .sxor 1 2 15),
    (0x7448001F, .sshl 1 2 31),
    (0x78480001, .sshr 1 2 1),
    (0x7C480FFF, .saddi 1 2 0xFFF),
    (0x813FFFFE, .smovi 4 0x3FFFFE),
    (0x850003FF, .smovh 4 0x3FF),
    (0x8848C00D, .scmp 1 2 3 1 5),
    (0xA240000E, .hrd 9 14),
    (0xA424000C, .hwr 9 12),
    (0xAA400000, .pld 9),
    (0xAC242000, .pst 9 2),
    (0xB0480123, .fld 1 2 0x123),
    (0xB408DABC, .fst 2 3 1 0xABC),
    (0xB8480010, .racc 1 2 16),
    (0xBC08C001, .emit 2 3 1),
    (0xC0080FFF, .bnz 2 4095),
    (0xC4080001, .bz 2 1),
    (0xC8000003, .jmp 3),
    (0xCDBFC100, .scribeRepeat 6 255 256),
    (0xE0000000, .pass),
    (0xE4000000, .drop),
    (0xE80000A5, .trapk 0xA5)] = true := by decide +kernel

/-- R74, R80: unassigned codes of each class, a nonzero slot of class 00 operation 0, and the reserved bits of formats L, S, B and
E, are refused with the subcodes of R78. -/
theorem test_decode_unassigned : ([(0x2D, 1), (0x40, 1), (0x57, 1), (0x80, 1), (0x99, 1), (0xC0, 1), (0xD6, 1), (0xFB, 1)] : List (Nat × Nat)).all
    (fun x => match decodeSlot 0 0 (BitVec.ofNat 96 (x.1 * 2 ^ 88)) with | .error n => n == x.2 | .ok _ => false) = true := by
  decide +kernel
theorem test_decode_reserved : ([0x010020100000002100000007 + 2 ^ 33, 0x920090000000018000000000 + 2 ^ 40, 0xA00000000000800000000001,
    0xD00000000000A50000010000] : List Nat).all
    (fun w => match decodeSlot 0 0 (BitVec.ofNat 96 w) with | .error n => n == 2 | .ok _ => false) = true := by decide +kernel

/-- The manual's own examples of encodings, with the operands of the assembly text beside them. -/
theorem test_decode_manual_a : decodesTo [
    (0x060070203056020400000000, .fma ⟨⟨⟨0, false⟩, 7, 2, 3, 5⟩, .f16, 0, false, .ru, .vec, .vec, .sca, 0⟩),
    (0x260050300097542000000001, .cvt ⟨⟨⟨0, false⟩, 5, 3, 0, 9⟩, .bf16, 5, false, .rs, .vec, .imm, .vec, 1⟩),
    (0x20002010003A002000000001, .lshf ⟨⟨⟨0, false⟩, 2, 1, 0, 3⟩, .b32, 0, false, .rn, .vec, .imm, .vec, 1⟩),
    (0x200100F0003A202000000001, .lshf ⟨⟨⟨0, false⟩, 16, 15, 0, 3⟩, .b32, 2, false, .rn, .vec, .imm, .vec, 1⟩),
    (0x0C0120A00110002000000001, .addmin ⟨⟨⟨0, false⟩, 18, 10, 0, 17⟩, .i32, 0, false, .rn, .vec, .imm, .vec, 1⟩),
    (0x290171600005000000000000, .exp2 ⟨⟨⟨0, false⟩, 23, 22, 0, 0⟩, .f32, 0, false, .rn, .vec, .vec, .vec, 0⟩),
    (0x410000800000014000040002, .pdset ⟨⟨⟨0, false⟩, 0, 8, 0, 0⟩, 0, false, false, 5, .zero, .add, 262146⟩),
    (0x410010C000000D8000040004, .pdset ⟨⟨⟨0, false⟩, 1, 12, 0, 0⟩, 0, false, false, 54, .zero, .add, 262148⟩),
    (0x41002000E003000000000000, .pdsetLike ⟨⟨⟨0, false⟩, 2, 0, 14, 0⟩, 3, false, false, 0, .zero, .add, 0⟩),
    (0x410080000002000000020002, .pdsetDim ⟨⟨⟨0, false⟩, 8, 0, 0, 0⟩, 2, false, false, 0, .zero, .add, 131074⟩),
    (0x430010000000004000000000, .pshift ⟨⟨⟨0, false⟩, 1, 0, 0, 0⟩, 0, false, false, 1, .zero, .add, 0⟩),
    (0x460050400000C00100000000, .pfold ⟨⟨⟨0, false⟩, 5, 4, 0, 0⟩, 0, true, true, 0, .zero, .max, 0⟩),
    (0x440060300000004000000000, .prot ⟨⟨⟨0, false⟩, 6, 3, 0, 0⟩, 0, false, false, 1, .zero, .add, 0⟩),
    (0x490070B08000800000000000, .pew2 ⟨⟨⟨0, false⟩, 7, 11, 8, 0⟩, 0, true, false, 0, .zero, .add, 0⟩),
    (0x630020010002802000000000, .mmaS ⟨⟨⟨0, false⟩, 2, 0, 16, 0⟩, 10, false, 0, .mat, false, 0, .none, 0, 0⟩),
    (0x670300200000002010000000, .mdrain ⟨⟨⟨0, false⟩, 48, 2, 0, 0⟩, 0, false, 0, .mat, false, 0, .x, 0, 0⟩),
    (0x690000000000002000000001, .accalloc ⟨⟨⟨0, false⟩, 0, 0, 0, 0⟩, 0, false, 0, .mat, false, 0, .none, 0, 1⟩),
    (0xC20000002004400000000000, .st ⟨⟨⟨0, false⟩, 0, 0, 2, 0⟩, .b32, .sp, .none, .group, .none, false, 0, 0⟩),
    (0xC10050900004008000000000, .ld ⟨⟨⟨0, false⟩, 5, 9, 0, 0⟩, .b32, .tm, .none, .group, .x, false, 0, 0⟩),
    (0xC2C00180A004000000000030, .st ⟨⟨⟨6, false⟩, 0, 24, 10, 0⟩, .b32, .tm, .none, .group, .none, false, 0, 48⟩),
    (0xC42000A14008804000000010, .stf ⟨⟨⟨1, false⟩, 0, 10, 20, 0⟩, .b128, .far, .none, .group, .none, true, 0, 16⟩),
    (0xE800000000002A0000000000, .publish ⟨⟨⟨0, false⟩, 0, 0, 0, 0⟩, .b8, .tm, .rel, .domain, .none, false, 0, 0⟩)] = true := by decide +kernel

/-- The manual's own examples of encodings, with the operands of the assembly text beside them. -/
theorem test_decode_manual_b : decodesTo [
    (0xE10140C02000808000000000, .mortacq ⟨⟨⟨0, false⟩, 20, 12, 2, 0⟩, .b8, .far, .none, .group, .x, false, 0, 0⟩),
    (0xE60150C14000A88000000000, .mortrel ⟨⟨⟨0, false⟩, 21, 12, 20, 0⟩, .b8, .far, .rel, .device, .x, false, 0, 0⟩),
    (0xE2011000D000948000000000, .pegwait ⟨⟨⟨0, false⟩, 17, 0, 13, 0⟩, .b8, .far, .acq, .cluster, .x, false, 0, 0⟩),
    (0xE4010000D0F0808000000000, .pegswap ⟨⟨⟨0, false⟩, 16, 0, 13, 15⟩, .b8, .far, .none, .group, .x, false, 0, 0⟩),
    (0xE3010000F120808000000000, .peggive ⟨⟨⟨0, false⟩, 16, 0, 15, 18⟩, .b8, .far, .none, .group, .x, false, 0, 0⟩),
    (0xE5010000E000808000000000, .pegdrop ⟨⟨⟨0, false⟩, 16, 0, 14, 0⟩, .b8, .far, .none, .group, .x, false, 0, 0⟩),
    (0xD00000000002AA6000000000, .cpyt ⟨⟨⟨0, false⟩, 0, 0, 0, 0⟩, 10, true, 20, .coll, false, 0, .none, 0, 0⟩),
    (0xD100201000C2804011000002, .gathTh ⟨⟨⟨0, false⟩, 2, 1, 0, 12⟩, 10, false, 0, .gath, false, 0, .x, 1, 2⟩),
    (0xD40160000000801790000000, .trig ⟨⟨⟨0, false⟩, 22, 0, 0, 0⟩, 2, false, 0, .copy, true, 30, .x, 0, 0⟩),
    (0xD50171600000000010000000, .trigcan ⟨⟨⟨0, false⟩, 23, 22, 0, 0⟩, 0, false, 0, .copy, false, 0, .x, 0, 0⟩),
    (0xD80000000000250005000401, .barinit ⟨⟨⟨0, false⟩, 0, 0, 0, 0⟩, 0, true, 10, .copy, false, 0, .none, 5, 1025⟩),
    (0xDA70010000002A0000008000, .barwait ⟨⟨⟨3, true⟩, 0, 16, 0, 0⟩, 0, true, 20, .copy, false, 0, .none, 0, 32768⟩),
    (0xA12000000000800000000004, .brc ⟨⟨⟨1, false⟩, 0, 0, 0, 0⟩, 0, 4, 0, 0, 1⟩),
    (0xA60140000000400002000000, .call ⟨⟨⟨0, false⟩, 20, 0, 0, 0⟩, 0, 2, 1, 0, 0⟩),
    (0xB00090000004008000000004, .srd ⟨⟨⟨0, false⟩, 9, 0, 0, 0⟩, .b64, 0, .imm, .vec, .vec, 4⟩),
    (0xB10000014004008000000020, .swr ⟨⟨⟨0, false⟩, 0, 0, 20, 0⟩, .b64, 0, .imm, .vec, .vec, 32⟩),
    (0xF00000000000400000000000, .gridarr ⟨⟨⟨0, false⟩, 0, 0, 0, 0⟩, .i64, 4, .vec, .vec, .vec, 0⟩),
    (0xF10141500004000000000000, .migrate ⟨⟨⟨0, false⟩, 20, 21, 0, 0⟩, .b64, 0, .vec, .vec, .vec, 0⟩),
    (0xF900C0D00004002000000021, .syscall ⟨⟨⟨0, false⟩, 12, 13, 0, 0⟩, .b64, 0, .vec, .imm, .vec, 33⟩),
    (0xF80000000000008000000005, .trap ⟨⟨⟨0, false⟩, 0, 0, 0, 0⟩, .i64, 0, .imm, .vec, .vec, 5⟩),
    (0xFA4000000000200000000000, .trapret ⟨⟨⟨2, false⟩, 0, 0, 0, 0⟩, .i64, 2, .vec, .vec, .vec, 0⟩)] = true := by decide +kernel

/-! ### Lanes (R148 to R168)

The results stand in the manual's tables and examples, or are worked by hand from its rules. -/

/-- The registers of a test group: `(register, lane, value)`. -/
def vOf (l : List (Nat × Nat × Word)) : SMap Word := l.foldl (fun m x => Map.set 0 m (32 * x.1 + x.2.1) x.2.2) []

/-- One group of one team, of context 5 on core 33, at the first slot of the third line of its code. -/
def gA : Group :=
  { Group.fresh 5 33 0 0 64 0x1080 0xFFFFFFFF with team := 2, codeBase := 0x1000, codeLines := 4 }

def tA : Team :=
  { ctx := 5, launch := 4, cluster := 3, lcore := 0, core := 33, nGroups := 1, gridH := 4, gridW := 8, memSize := 4096, mem := [], saved := none,
    tags := [], poison := [], planeOps := [], migrate := [] }

/-- The group issues. -/
def sOf (g : Group) : State :=
  { State.reset with groups := [(1, g)], teams := [(2, tA)], ctxs := [(5, Ctx.fresh 0 9)], nextId := 10, cur := some (1, 0) }

/-- Lane 1 of the group holds A, B and C in v1, v2 and v4, and its v3 holds 7 in lanes 1 and 2; p1 allows lane 1 alone. -/
def laneSt (a b c : Word) : State :=
  sOf { gA with v := vOf [(1, 1, a), (2, 1, b), (3, 1, 7), (3, 2, 7), (4, 1, c)], p := [(1, 2), (5, 6)] }

/-- v3 of lane 1 after the instruction under (p1), where lane 2 keeps its 7; whether a flag was raised. -/
def laneGives (i : Instr) (a b c x : Word) (raised : Bool) : Bool :=
  runs i ⟨1, false⟩ (laneSt a b c) (fun c => c.on == 2) (fun c t =>
    match Map.find t.groups 1 with
    | some g => Map.get 0 g.v 97 == x && Map.get 0 g.v 98 == 7 && (g.fpf != 0) == raised &&
        (Map.find g.splits 0).any (fun sp => sp.pc == nextPc c.sp.pc)
    | none => false)

/-- Operands v1, v2 and v4 into v3, under (p1). -/
def lf (ty : Ty) (fn : BitVec 4) (sat : Bool) (rm : RM) : LFmt :=
  ⟨⟨⟨1, false⟩, 3, 1, 2, 4⟩, ty, fn, sat, rm, .vec, .vec, .vec, 0⟩

theorem test_lane_integers : (
    laneGives (.add (lf .i16 0 true .rn)) 0x7FFF8000 0x0001FFFF 0 0x7FFF8000 false &&
    laneGives (.sub (lf .i8 0 false .rn)) 0x00FF8001 0x01010101 0 0xFFFE7F00 false &&
    laneGives (.mul (lf .u32 0 false .rn)) 0xFFFFFFFF 2 0 0xFFFFFFFE false &&
    laneGives (.mul (lf .u32 0 true .rn)) 0xFFFFFFFF 2 0 0xFFFFFFFF false &&
    laneGives (.mulhi (lf .i32 0 false .rn)) 0xFFFFFFFF 2 0 0xFFFFFFFF false &&
    laneGives (.mad (lf .i32 0 false .rn)) 3 4 5 17 false &&
    laneGives (.min (lf .i8 0 false .rn)) 0x80017F00 0x7F02FF00 0 0x8001FF00 false &&
    laneGives (.max (lf .u8 0 false .rn)) 0x80017F00 0x7F02FF00 0 0x8002FF00 false &&
    laneGives (.abs (lf .i32 0 false .rn)) 0x80000000 0 0 0x80000000 false &&
    laneGives (.neg (lf .i8 0 true .rn)) 0x80808080 0 0 0x7F7F7F7F false &&
    laneGives (.clamp (lf .u32 0 false .rn)) 5 10 7 7 false &&
    laneGives (.addmin (lf .i32 0 false .rn)) 0x7FFFFFFF 1 5 5 false &&
    laneGives (.addmin (lf .u8 0 false .rn)) 200 100 250 250 false) = true := by decide +kernel

theorem test_lane_floats : (
    laneGives (.add (lf .f32 0 false .rn)) 0x7F800000 0xFF800000 0 0x7FC00000 true &&
    laneGives (.sub (lf .f32 0 false .rn)) 0x3F800000 0x3F000000 0 0x3F000000 false &&
    laneGives (.mul (lf .f16 0 false .rn)) 0x40003C00 0x44003C00 0 0x48003C00 false &&
    laneGives (.fma (lf .f32 0 false .rn)) 0x3FC00000 0x40000000 0x3E800000 0x40500000 false &&
    laneGives (.min (lf .f32 0 false .rn)) 0x7FC00000 0x3F800000 0 0x3F800000 false &&
    laneGives (.max (lf .f32 0 false .rn)) 0x80000000 0x00000000 0 0x00000000 false &&
    laneGives (.frnd (lf .f32 0 false .rn)) 0x40200000 0 0 0x40000000 false) = true := by decide +kernel

theorem test_lane_functions : (
    laneGives (.rcp (lf .f32 0 false .rn)) 0x40000000 0 0 0x3F000000 false &&
    laneGives (.rcp (lf .f32 0 false .rn)) 0x80000000 0 0 0xFF800000 true &&
    laneGives (.rsq (lf .f32 0 false .rn)) 0x40800000 0 0 0x3F000000 false &&
    laneGives (.exp2 (lf .f32 0 false .rn)) 0x40400000 0 0 0x41000000 false &&
    laneGives (.log2 (lf .f32 0 false .rn)) 0x3F800000 0 0 0 false &&
    laneGives (.sin (lf .f32 0 false .rn)) 0x80000000 0 0 0x80000000 false &&
    laneGives (.cos (lf .f32 0 false .rn)) 0x80000000 0 0 0x3F800000 false &&
    laneGives (.cos (lf .f32 0 false .rn)) 0x7F800000 0 0 0x7FC00000 true) = true := by decide +kernel

theorem test_lane_bits : (
    laneGives (.and (lf .b32 0 false .rn)) 0xF0F0F0F0 0x00FF00FF 0 0x00F000F0 false &&
    laneGives (.or (lf .b32 0 false .rn)) 0xF0F0F0F0 0x00FF00FF 0 0xF0FFF0FF false &&
    laneGives (.xor (lf .b32 0 false .rn)) 0xF0F0F0F0 0x00FF00FF 0 0xF00FF00F false &&
    laneGives (.not (lf .b32 0 false .rn)) 0xF0F0F0F0 0 0 0x0F0F0F0F false &&
    laneGives (.shl (lf .b32 0 false .rn)) 1 33 0 2 false &&
    laneGives (.shr (lf .b32 0 false .rn)) 0x80000000 31 0 1 false &&
    laneGives (.sar (lf .i8 0 false .rn)) 0x80808080 0x01010101 0 0xC0C0C0C0 false &&
    laneGives (.popc (lf .b32 0 false .rn)) 0xF0F0F0F0 0 0 16 false &&
    laneGives (.clz (lf .b32 0 false .rn)) 0 0 0 32 false &&
    laneGives (.brev (lf .b32 0 false .rn)) 1 0 0 0x80000000 false &&
    laneGives (.mov (lf .e4m3 0 false .rn)) 0x12345678 0 0 0x12345678 false &&
    laneGives (.bfx (lf .b32 1 false .rn)) 0x12348678 0x0808 0 0xFFFFFF86 false &&
    laneGives (.bfi (lf .b32 0 false .rn)) 0xAB 0x0808 0x12345678 0x1234AB78 false &&
    laneGives (.pack (lf .b32 1 false .rn)) 0x12345678 0x9ABCDEF0 0 0x9ABC1234 false &&
    laneGives (.pack (lf .b32 2 false .rn)) 0x12345678 0x9ABCDEF0 0x0123 0x78563412 false &&
    laneGives (.rand (lf .b32 0 false .rn)) 1 2 0 0x12bc8390 false &&
    laneGives (.dot2 (lf .i16 0 false .rn)) 0x00030002 0x00050004 100 123 false) = true := by decide +kernel

/-- SEL by p5, LSHF.IDX of lane 2's value and the CVT of the manual's example, whose other element is kept. -/
theorem test_lane_sel_lshf_cvt : (
    laneGives (.sel ⟨⟨⟨1, false⟩, 3, 1, 2, 5⟩, .b32, 0, false, .rn, .vec, .vec, .vec, 0⟩) 11 22 0 11 false &&
    laneGives (.sel ⟨⟨⟨1, false⟩, 3, 1, 2, 1⟩, .b32, 0, false, .rn, .vec, .vec, .vec, 0⟩) 11 22 0 11 false &&
    laneGives (.lshf ⟨⟨⟨1, false⟩, 3, 3, 0, 4⟩, .b32, 3, false, .rn, .vec, .imm, .vec, 34⟩) 0 0 9 7 false &&
    laneGives (.lshf ⟨⟨⟨1, false⟩, 3, 3, 0, 4⟩, .b32, 0, false, .rn, .vec, .imm, .vec, 2⟩) 0 0 9 9 false &&
    laneGives (.cvt ⟨⟨⟨1, false⟩, 3, 1, 0, 0⟩, .bf16, 5, false, .rn, .vec, .imm, .vec, 1⟩) 0xC0400000 0 0 0xC0400007 false &&
    laneGives (.cvt ⟨⟨⟨1, false⟩, 3, 1, 0, 0⟩, .bf16, 5, false, .rn, .vec, .imm, .vec, 0⟩) 0x3F808000 0 0 0x3F80 true) =
    true := by decide +kernel

/-- p3 after an instruction whose guard allows lane 1 alone: lanes 1 and 2 of it held 1. -/
def predGives (i : Instr) (a b : Word) (x raised : Bool) : Bool :=
  let s := sOf { gA with v := vOf [(1, 1, a), (2, 1, b)], p := [(1, 2), (3, 6), (5, 6), (6, 4)] }
  runs i ⟨1, false⟩ s (fun c => c.on == 2) (fun _ t =>
    match Map.find t.groups 1 with
    | some g => Map.get 0 g.p 3 == (if x then 6 else 4) && (g.fpf != 0) == raised
    | none => false)

theorem test_lane_predicates : (
    predGives (.cmp ⟨⟨⟨1, false⟩, 3, 1, 2, 0⟩, .f32, 2, false, .rn, .vec, .vec, .vec, 0⟩) 0x7FC00000 0 false true &&
    predGives (.cmp ⟨⟨⟨1, false⟩, 3, 1, 2, 0⟩, .f32, 6, false, .rn, .vec, .vec, .vec, 0⟩) 0x7FC00000 0 true false &&
    predGives (.cmp ⟨⟨⟨1, false⟩, 3, 1, 2, 0⟩, .i32, 2, false, .rn, .vec, .vec, .vec, 0⟩) 0xFFFFFFFF 0 true false &&
    predGives (.pand ⟨⟨⟨1, false⟩, 3, 5, 6, 0⟩, .b32, 0, false, .rn, .vec, .vec, .vec, 0⟩) 0 0 false false &&
    predGives (.por ⟨⟨⟨1, false⟩, 3, 5, 6, 0⟩, .b32, 0, false, .rn, .vec, .vec, .vec, 0⟩) 0 0 true false &&
    predGives (.pxor ⟨⟨⟨1, false⟩, 3, 5, 0, 0⟩, .b32, 0, false, .rn, .vec, .vec, .vec, 0⟩) 0 0 false false &&
    predGives (.pnot ⟨⟨⟨1, false⟩, 3, 6, 0, 0⟩, .b32, 0, false, .rn, .vec, .vec, .vec, 0⟩) 0 0 true false) = true := by
  decide +kernel

/-- Witnesses for LaneArithmetic, LaneMoves and LanePredicates: each list has the instructions tested above. -/
theorem test_witness_lanes :
    (Instr.add (lf .i16 0 true .rn), 0x01) ∈ elemInstrs (lf .i16 0 true .rn) ∧
    (issuer (laneSt 1 2 3) (lf .i16 0 true .rn).r.g).any (fun c =>
      (laneMoves (lf .b32 0 false .rn) c).length == 9 && (lanePreds (lf .b32 0 false .rn) c).length == 5) = true := by
  refine ⟨by simp [elemInstrs], by decide +kernel⟩

/-- IntegerElements: both corners of the types' ranges. FloatMinMaxNaN: each of its three cases. -/
theorem test_witness_elements :
    (Ty.i8.isInt && decide (3 < Ty.i8.lanes) && Ty.u32.bits == 32 && Ty.f16.isFlt && (ffOf .f16).isNaN 0x7E00 &&
      !(ffOf .f16).isNaN 0x7C00 && (elemOp 0x07 .f16 .rn false 0x7E00 0x7C00 0).bits == 0x7C00 &&
      (elemOp 0x08 .f16 .rn false 0x7C00 0xFE00 0).bits == 0x7C00 &&
      (elemOp 0x08 .f16 .rn false 0xFC01 0xFE00 0).bits == 0x7E00) = true := by decide +kernel

/-! ### Scalars and control (R126 to R147) -/

/-- s3 after an instruction on s1, s2 and s4, under a guard that holds in lane 1 alone. -/
def scalarGives (i : Instr) (a b c x : DWord) : Bool :=
  let s := sOf { gA with s := [(1, a), (2, b), (3, 7), (4, c)].filter (fun x => x.2 != 0), p := [(1, 2)] }
  runs i ⟨1, false⟩ s (fun c => c.on == 2) (fun c t =>
    match Map.find t.groups 1 with
    | some g => Map.get 0 g.s 3 == x && g.fpf == 0 && (Map.find g.splits 0).any (fun sp => sp.pc == nextPc c.sp.pc)
    | none => false)

def sf (ty : STy) (fn : BitVec 4) : SFmt := ⟨⟨⟨1, false⟩, 3, 1, 2, 4⟩, ty, fn, .vec, .vec, .vec, 0⟩

theorem test_scalar_arithmetic : (
    scalarGives (.scalarAdd (sf .i32 0)) 0x7FFFFFFF 1 0 0xFFFFFFFF80000000 &&
    scalarGives (.scalarSub (sf .u32 0)) 0 1 0 0xFFFFFFFF &&
    scalarGives (.scalarMul (sf .i64 0)) 0xFFFFFFFFFFFFFFFF 5 0 0xFFFFFFFFFFFFFFFB &&
    scalarGives (.scalarMulhi (sf .u64 0)) 0x8000000000000000 4 0 2 &&
    scalarGives (.scalarMulhi (sf .i64 0)) 0x8000000000000000 4 0 0xFFFFFFFFFFFFFFFE &&
    scalarGives (.div (sf .i64 0)) 0xFFFFFFFFFFFFFFF9 2 0 0xFFFFFFFFFFFFFFFD &&
    scalarGives (.rem (sf .i64 0)) 0xFFFFFFFFFFFFFFF9 2 0 0xFFFFFFFFFFFFFFFF &&
    scalarGives (.scalarMin (sf .i32 0)) 0x80000000 1 0 0xFFFFFFFF80000000 &&
    scalarGives (.scalarMax (sf .u32 0)) 0x80000000 1 0 0x80000000 &&
    scalarGives (.scalarCmp (sf .i64 2)) 0xFFFFFFFFFFFFFFFF 0 0 1 &&
    scalarGives (.scalarCmp (sf .u64 2)) 0xFFFFFFFFFFFFFFFF 0 0 0) = true := by decide +kernel

theorem test_scalar_bits : (
    scalarGives (.scalarAnd (sf .b64 0)) 0xF0F0 0xFF00 0 0xF000 &&
    scalarGives (.scalarOr (sf .b64 0)) 0xF0F0 0xFF00 0 0xFFF0 &&
    scalarGives (.scalarXor (sf .b64 0)) 0xF0F0 0xFF00 0 0x0FF0 &&
    scalarGives (.scalarNot (sf .b64 0)) 0xF0F0 0 0 0xFFFFFFFFFFFF0F0F &&
    scalarGives (.scalarShl (sf .b64 0)) 1 65 0 2 &&
    scalarGives (.scalarShr (sf .u32 0)) 0x180000000 31 0 1 &&
    scalarGives (.scalarSar (sf .i32 0)) 0x80000000 31 0 0xFFFFFFFFFFFFFFFF &&
    scalarGives (.scalarSel (sf .b64 0)) 11 22 0 22 &&
    scalarGives (.scalarSel (sf .b64 0)) 11 22 0x8000000000000000 11 &&
    scalarGives (.scalarMov (sf .i32 0)) 0x80000000 0 0 0xFFFFFFFF80000000 &&
    scalarGives (.scalarPopc (sf .u32 0)) 0xFF0000000F 0 0 4 &&
    scalarGives (.scalarClz (sf .b64 0)) 1 0 0 63 &&
    scalarGives (.scalarBfx (sf .b64 1)) 0x8600 0x0808 0 0xFFFFFFFFFFFFFF86 &&
    scalarGives (.scalarBfi (sf .b64 0)) 0xAB 0x0808 0x12345678 0x1234AB78 &&
    scalarGives (.movp ⟨⟨⟨1, false⟩, 3, 1, 0, 0⟩, .b64, 0, .vec, .vec, .vec, 0⟩) 0 0 0 2) = true := by decide +kernel

/-- Witnesses for ScalarInstructions, both cases, and for the corners and the ordinary case of DivisionCorners. -/
theorem test_witness_scalars : (
    scalarGives (.div (sf .u32 0)) 5 0 0 0xFFFFFFFF && scalarGives (.div (sf .i32 0)) 5 0 0 0xFFFFFFFFFFFFFFFF &&
    scalarGives (.rem (sf .i32 0)) 0x80000005 0 0 0xFFFFFFFF80000005 &&
    scalarGives (.div (sf .i32 0)) 0x80000000 0xFFFFFFFF 0 0xFFFFFFFF80000000 &&
    scalarGives (.rem (sf .i32 0)) 0x80000000 0xFFFFFFFF 0 0 &&
    runs (.scalarAdd ⟨⟨never, 3, 1, 2, 0⟩, .i64, 0, .vec, .vec, .vec, 0⟩) never (sOf { gA with s := [(1, 1)] }) (fun c => c.on == 0)
      (fun _ t => (Map.find t.groups 1).any (fun g => Map.get 0 g.s 3 == 0))) = true := by decide +kernel

/-- PredicateScalarMoves: BALLOT of no lane and of some, and MOVPS outside the split. -/
theorem test_witness_ballot : (
    runs (.ballot ⟨⟨never, 3, 1, 0, 0⟩, .b32, 0, false, .rn, .vec, .vec, .vec, 0⟩) never (sOf { gA with s := [(3, 7)] }) (fun c => c.on == 0)
      (fun _ t => (Map.find t.groups 1).any (fun g => Map.get 0 g.s 3 == 7)) &&
    runs (.ballot ⟨⟨⟨2, false⟩, 3, 1, 0, 0⟩, .b32, 0, false, .rn, .vec, .vec, .vec, 0⟩) ⟨2, false⟩
      (sOf { gA with s := [(3, 7)], p := [(1, 0x80000002), (2, 0xFFFFFFFD)] }) (fun c => c.on != 0)
      (fun _ t => (Map.find t.groups 1).any (fun g => Map.get 0 g.s 3 == 0x80000000)) &&
    runs (.movps ⟨⟨always, 3, 1, 0, 0⟩, .b64, 0, .vec, .vec, .vec, 0⟩) always
      (sOf { gA with s := [(1, 0xFF)], p := [(3, 0xF000)], splits := (gA.splits.map (fun x => (x.1, { x.2 with mask := 0xF }))) }) (fun _ => true)
      (fun _ t => (Map.find t.groups 1).any (fun g => Map.get 0 g.p 3 == 0xF00F))) = true := by decide +kernel

/-- A page table at 0x100000 that maps the first GiB to itself for fetch, the second GiB to the first for reading and writing, and
2 MiB at 0x80000000 to the scratchpad of die 0; lines of code at 0x1040 and 0x1080 whose slots are all targets. -/
def pages : Memory :=
  [(0x107E, 0xF0), (0x107F, 0x01), (0x10BE, 0xF0), (0x10BF, 0x01), (0x100000, 0x01), (0x100002, 0x11), (0x110000, 0x01), (0x110002, 0x12),
   (0x120000, 0x17), (0x120008, 0x0F), (0x120010, 0x01), (0x120012, 0x13), (0x130000, 0x0F), (0x130005, 0x03)]

def ctxA : Ctx := { Ctx.fresh 0 9 with ptroot := 0x100000, ptrootUsed := 0x100000 }

/-- The group issues, with its code and data in memory. -/
def sM (g : Group) : State := { sOf g with mem := pages, ctxs := [(5, ctxA)], svclevel := 1, ports := [(0, ⟨2, 1, 0⟩)] }

def bf (bk : BitVec 4) (slot : BitVec 3) (off : BitVec 20) (rslot : BitVec 3) (roff : BitVec 20) (d a : BitVec 8) (gd : Guard) : BFmt :=
  ⟨⟨gd, d, a, 0, 0⟩, bk, slot, off, rslot, roff⟩

/-- Where split 0 is, and its link. -/
def at0 (t : State) (pc : Nat) (link : Option Nat) : Bool :=
  (Map.find t.groups 1).any (fun g => (Map.find g.splits 0).any (fun sp => sp.pc == pc && sp.link == link))

def targetOk (c : Iss) (s : State) (pc : Nat) : Bool := okIs (targetLine s c.g pc (lowLane c.act)) (fun _ => true)

/-- Transfers: each of the five, to slot 4 of the line before; the code position of slot 4 of line 1 of the code is 8 + 4. -/
theorem test_transfers :
    (let s := sM { gA with v := vOf ((List.range 32).map (fun l => (9, l, 12))) }
     let d := bf 0 4 0xFFFFF 0 0 20 0 always
     let i := bf 0 0 0 0 0 20 9 always
     let ok (k : Instr) (f : BFmt) (w : Bool) : Bool :=
       runs k always s (fun c => c.on != 0 && (transfers f c 0x1070).contains k && targetOk c s 0x1070)
         (fun c t => at0 t 0x1070 none && (Map.find t.groups 1).any (fun g =>
           Map.get 0 g.v (32 * 20 + 31) == if w then codePos c.g 0x108C else 0) && codePos c.g 0x108C == 17)
     ok (.bra d) d false && ok (.call d) d true && ok (.jmpi i) i false && ok (.calli i) i true && ok (.ret i) i false) = true := by
  decide +kernel

/-- What the trap of a step is: cause, MASK and detail of the first origin, and the group parked. -/
def trapIs (t : State) (cause detail : Nat) (mask : Mask) : Bool :=
  match (Map.get Core.reset t.cores 33).trapq with
  | o :: _ => o.cause == cause && o.detail == detail && o.mask == mask && o.gid == 1
  | [] => false

/-- TransferTraps: lanes that differ, a position in slot 5, and a target whose TGT bit is clear. -/
theorem test_transfer_traps :
    (let s := sM { gA with v := vOf [(9, 1, 12), (9, 2, 12), (9, 31, 13)] }
     let f := bf 0 0 0 0 0 20 9 always
     let all5 := sM { gA with v := vOf ((List.range 32).map (fun l => (9, l, 5))) }
     let b := bf 0 0 1 0 0 20 0 always
     runs (.jmpi f) always s (fun _ => true) (fun _ t => trapIs t cIndDiverge 0 0x80000006) &&
     runs (.calli f) always s (fun _ => true) (fun _ t => trapIs t cIndDiverge 0 0x80000006) &&
     runs (.ret f) always all5 (fun c => posPc c.g 5 == none) (fun _ t => trapIs t cBadTarget 0 0xFFFFFFFF) &&
     runs (.bra b) always s (fun c => okIs (peekLine s c.g 0x10C0 true) (fun x => !lwTgt (lineWord x.1) 0) &&
       okIs (peekLine s c.g 0x10C0 false) (fun x => !lwTgt (lineWord x.1) 0)) (fun _ t => trapIs t cBadTarget 0 0xFFFFFFFF) &&
     runs (.call b) always s (fun _ => true) (fun _ t => trapIs t cBadTarget 0 0xFFFFFFFF)) = true := by decide +kernel

/-- TransferTraps, R57, R72: every transfer to slot 0 of the line 0x10C0, which is no target, and to a line that does not translate; a
resumption at that slot. -/
theorem test_no_entry :
    (let lp := { mkRec 1 0x10C0 0xFFFFFFFF none .stack with num := 6 }
     let g := { gA with v := vOf ((List.range 32).map (fun l => (9, l, 24))), s := [(4, 2)], recs := [lp],
                        splits := gA.splits.map (fun x => (x.1, { x.2 with link := some 6 })) }
     let s := sM g
     let out (c : Iss) : Bool := [true, false].all (fun b => okIs (peekLine s c.g 0x10C0 b) (fun x => !lwTgt (lineWord x.1) 0))
     let bad (k : Instr) (f : BFmt) : Bool :=
       runs k always s (fun c => out c && (goesTo f c 0x10C0).contains k) (fun _ t => trapIs t cBadTarget 0 0xFFFFFFFF)
     let far (k : Instr) : Bool := runs k always s (fun _ => true) (fun _ t => trapIs t cTrans 2 0xFFFFFFFF)
     let b (n : BitVec 4) : BFmt := bf n 0 1 0 1 4 9 always
     let z (n : BitVec 4) : BFmt := bf n 0 0x80000 0 1 4 9 always
     let st : State := sM { gA with splits := [], recs := [{ mkRec 0 0x10C0 0 none .stack with num := 6, arr := 0xF0 }] }
     bad (.bra (b 0)) (b 0) && bad (.call (b 0)) (b 0) && bad (.jmpi (b 0)) (b 0) && bad (.calli (b 0)) (b 0) && bad (.ret (b 0)) (b 0) &&
     bad (.loop (b 0)) (b 0) && bad (.brc (b 0)) (b 0) && bad (.brc (b 1)) (b 1) && bad (.cont (b 1)) (b 1) &&
     far (.bra (z 0)) && far (.loop (z 0)) && far (.brc (z 1)) && far (.cont (z 1)) &&
     (match settle st 1 (Map.get gA st.groups 1) (Map.get gA st.groups 1) with
      | .ok t => trapIs t cBadTarget 0 0xF0 && (Map.get gA t.groups 1).recs.all JoinRec.heldRec
      | _ => false)) = true := by decide +kernel

/-- BranchesOpenRecords: a diverging BRC, BRC.BLK and BRC.LPO, and BRC.LPO whose guard fails everywhere. -/
theorem test_branches_open_records :
    (let s := sM { gA with p := [(1, 0x0000FFFF)] }
     let f := bf 0 4 0xFFFFF 0 1 0 0 ⟨1, false⟩
     let rec0 (t : State) (kind rpc : Nat) (exp : Mask) : Bool := (Map.find t.groups 1).any (fun g => match g.recs with
       | [r] => r.kind == kind && r.rpc == rpc && r.exp == exp && r.arr == 0 && r.outer == none
       | _ => false)
     runs (.brc f) ⟨1, false⟩ s (fun c => c.on != 0 && maskMinus c.act c.on != 0 && c.g.freePos == some 1 && targetOk c s 0x1070 &&
         (c.g.newRec (mkRec 0 0x10C0 0xFFFFFFFF none .table)).any (fun x => x.2 == 0))
       (fun _ t => at0 t 0x1070 (some 0) && rec0 t 0 0x10C0 0xFFFFFFFF && (Map.find t.groups 1).any (fun g =>
         (Map.find g.splits 1).any (fun sp => sp.pc == 0x108C && sp.mask == 0xFFFF0000 && sp.link == some 0))) &&
     runs (.brc (bf 2 0 0 0 1 0 0 ⟨1, false⟩)) ⟨1, false⟩ s (fun c => c.on != 0) (fun _ t => at0 t 0x108C (some 0) && rec0 t 2 0x10C0 0xFFFFFFFF) &&
     runs (.brc (bf 3 0 0 0 1 0 0 always)) always s (fun c => c.on != 0) (fun _ t => at0 t 0x108C (some 0) && rec0 t 1 0x10C0 0xFFFFFFFF) &&
     runs (.brc (bf 3 0 0 0 1 0 0 never)) never s (fun c => c.on == 0) (fun _ t => at0 t 0x108C none)) = true := by decide +kernel

/-- A region record that every lane expects. -/
def gR (kind : Nat) : Group :=
  { gA with p := [(1, 0x0000FFFF)], s := [(3, 1), (4, 2)], recs := [{ mkRec kind 0x10C0 0xFFFFFFFF none .stack with num := 6 }],
            splits := gA.splits.map (fun x => (x.1, { x.2 with link := some 6 })) }

/-- BranchesOpenRecords: BRC with every lane and with none, with four live splits, and BRC.LOOP in its loop with lanes left and without. -/
theorem test_branch_forms :
    (let rec1 (t : State) (kind : Nat) (exp arr : Mask) (d : Bool) : Bool := (Map.find t.groups 1).any (fun g => match g.recs with
       | [r] => r.kind == kind && r.exp == exp && r.arr == arr && r.d == d && (!d || r.dpc == 0x108C && r.dmask == 0xF0)
       | _ => false)
     let p1 : Guard := ⟨1, false⟩
     let f (bk : BitVec 4) (g : Guard) : BFmt := bf bk 4 0xFFFFF 0 1 0 0 g
     let loop (p : Mask) := sM { gR 1 with p := [(1, p)] }
     let four := sM { gA with p := [(1, 0x0F)], splits := (gA.splits.map (fun x => (x.1, { x.2 with mask := 0xFF }))) ++
       [(1, Split.start 0 0xF00), (2, Split.start 0 0xF000), (3, Split.start 0 0xF0000)] }
     runs (.brc (f 0 always)) always (sM gA) (fun c => maskMinus c.act c.on == 0) (fun _ t => at0 t 0x1070 none) &&
     runs (.brc (f 1 always)) always (sM gA) (fun c => maskMinus c.act c.on == 0) (fun _ t => at0 t 0x1070 none) &&
     runs (.brc (f 1 never)) never (sM gA) (fun c => c.on == 0) (fun _ t => at0 t 0x108C none) &&
     runs (.brc (f 1 p1)) p1 (sM { gA with p := [(1, 0xFFFF)] }) (fun c => c.g.freePos == some 1) (fun _ t => at0 t 0x1070 (some 0) && rec1 t 1 0xFFFFFFFF 0 false) &&
     runs (.brc (f 0 p1)) p1 four (fun c => c.g.freePos == none) (fun _ t => at0 t 0x1070 (some 0) && rec1 t 0 0xFF 0 true) &&
     runs (.brc (f 1 p1)) p1 (loop 0xFFFF) (fun c => c.on != 0) (fun _ t => at0 t 0x1070 (some 6) && rec1 t 1 0xFFFF 0xFFFF0000 false) &&
     runs (.brc (f 1 p1)) p1 (loop 0) (fun c => c.on == 0) (fun _ t => rec1 t 1 0 0xFFFFFFFF false &&
       (Map.find t.groups 1).any (fun g => g.splits == []))) = true := by decide +kernel

/-- LoopControl: LOOP at its last pass and before it, BRK of some lanes and of all, without a record, CONT in a loop, in a block and
without a record. -/
theorem test_loop_control :
    (let s := sM (gR 1)
     let no := sM gA
     runs (.loop (bf 0 4 0xFFFFF 0 0 3 0 always)) always s (fun c => c.g.rdS c.fc 3 == 1)
       (fun _ t => at0 t 0x108C (some 6) && (Map.find t.groups 1).any (fun g => Map.get 0 g.s 3 == 0)) &&
     runs (.loop (bf 0 4 0xFFFFF 0 0 4 0 always)) always s (fun c => targetOk c s 0x1070)
       (fun _ t => at0 t 0x1070 (some 6) && (Map.find t.groups 1).any (fun g => Map.get 0 g.s 4 == 1)) &&
     runs (.loop (bf 0 4 0xFFFFF 0 0 4 0 never)) never s (fun c => c.on == 0)
       (fun _ t => at0 t 0x108C (some 6) && (Map.find t.groups 1).any (fun g => Map.get 0 g.s 4 == 2)) &&
     runs (.brk (bf 1 0 0 0 0 0 0 ⟨1, false⟩)) ⟨1, false⟩ s (fun c => (c.g.findRec 6).isSome) (fun _ t => at0 t 0x108C (some 6) &&
       (Map.find t.groups 1).any (fun g => g.recs.all (fun r => r.exp == 0xFFFF0000 && r.arr == 0xFFFF) &&
         (Map.find g.splits 0).any (fun sp => sp.mask == 0xFFFF0000))) &&
     runs (.brk (bf 1 0 0 0 0 0 0 always)) always s (fun _ => true) (fun _ t => (Map.find t.groups 1).any (fun g => g.splits == [])) &&
     runs (.brk (bf 1 0 0 0 0 0 0 always)) always no (fun _ => true) (fun _ t => trapIs t cBadTarget 0 0xFFFFFFFF) &&
     runs (.cont (bf 1 4 0xFFFFF 0 0 0 0 always)) always s (fun c => targetOk c s 0x1070) (fun _ t => at0 t 0x1070 (some 6)) &&
     runs (.cont (bf 1 4 0xFFFFF 0 0 0 0 always)) always (sM (gR 2)) (fun _ => true) (fun _ t => trapIs t cBadTarget 0 0xFFFFFFFF) &&
     runs (.cont (bf 1 4 0xFFFFF 0 0 0 0 always)) always no (fun _ => true) (fun _ t => trapIs t cBadTarget 0 0xFFFFFFFF)) = true := by
  decide +kernel

/-- ExitYield. -/
theorem test_exit_yield :
    (runs (.exit (bf 0 0 0 0 0 0 0 ⟨1, false⟩)) ⟨1, false⟩ (sM (gR 0)) (fun _ => true) (fun _ t => (Map.find t.groups 1).any (fun g =>
       g.exited == 0x0000FFFF && g.splits.all (fun p => p.2.mask == 0xFFFF0000) && g.recs.all (fun r => r.exp == 0xFFFF0000))) &&
     runs (.yield (bf 0 0 0 0 0 0 0 always)) always (sM gA) (fun c => c.on != 0) (fun _ t => at0 t 0x108C none &&
       (Map.find t.groups 1).any (fun g => (Map.find g.splits 0).any (fun sp => sp.isDem)))) = true := by decide +kernel

/-- ExitYield, R87: a split demoted in a step waits for the other ready one. -/
theorem test_demotions :
    (let ln := aloneLine 0x920090000000008000000000
     let g := { gA with splits := [(0, { Split.start 0 0xFFFF with isDem := true, demNew := true, line := some ln }),
                                   (1, { Split.start 0 0xFFFF0000 with line := some ln })] }
     (Map.find (demotions (sM g)).groups 1).any (fun h =>
       h.splits.map (fun p => (p.1, p.2.demoted, p.2.demNew)) == [(0, [1], false), (1, [], false)])) = true := by decide +kernel

/-- SystemRegisters: each clause of SRD and SWR. -/
theorem test_system_registers :
    (let r (n : Word) (gd : Guard) : SFmt := ⟨⟨gd, 9, 0, 0, 0⟩, .b64, 0, .imm, .vec, .vec, n⟩
     let w (n : Word) (gd : Guard) : SFmt := ⟨⟨gd, 0, 0, 4, 0⟩, .b64, 0, .imm, .vec, .vec, n⟩
     let u := sM { gA with s := [(4, 0xFF7F)], fpf := 3, role := 2, prio := 5 }
     let v := sM { gA with s := [(4, 0xFFFFFFFFFFFFFFFF)], sup := true }
     let v1 := { v with cores := [(33, { Core.reset with aown := 0x85, acclive := 0xFFFE, tiles := [(0, 7), (1024, 8)] })] }
     let g9 (t : State) : DWord := match Map.find t.groups 1 with | some g => Map.get 0 g.s 9 | none => 0
     runs (.srd (r 6 always)) always u (fun c => sysAccess 6 c.g.sup != 0) (fun _ t => g9 t == 0x52) &&
     runs (.srd (r 0 always)) always u (fun c => !fpfPending u c.gid c.g) (fun _ t => g9 t == 3) &&
     runs (.srd (r 0x20 always)) always u (fun c => sysAccess 0x20 c.g.sup == 0) (fun _ t => trapIs t cIllegal 0x0B 0xFFFFFFFF) &&
     runs (.srd (r 0x20 always)) always v1 (fun c => sysAccess 0x20 c.g.sup == 2) (fun _ t => g9 t == 0x85) &&
     runs (.srd (r 6 never)) never u (fun c => c.on == 0) (fun _ t => g9 t == 0) &&
     runs (.swr (w 0 always)) always u (fun c => c.on != 0) (fun _ t => (Map.find t.groups 1).any (fun g => g.fpf == 31)) &&
     runs (.swr (w 1 always)) always u (fun c => c.on != 0) (fun _ t => (Map.find t.groups 1).any (fun g => g.mxc == 0xFF7F)) &&
     runs (.swr (w 2 always)) always u (fun c => sysAccess 2 c.g.sup != 2) (fun _ t => trapIs t cIllegal 0x0B 0xFFFFFFFF) &&
     runs (.swr (w 0x20 always)) always u (fun c => sysAccess 0x20 c.g.sup != 2) (fun _ t => trapIs t cIllegal 0x0B 0xFFFFFFFF) &&
     runs (.swr (w 0x20 always)) always v1 (fun c => c.g.sup && !tilesNamed v1 c.g.core) (fun _ t => (t.coreAt 33).aown == 0x7F) &&
     runs (.swr (w 0x21 always)) always v1 (fun c => c.g.sup) (fun _ t => (t.coreAt 33).acclive == 0xFFFF && (t.coreAt 33).tiles == [(1024, 8)]) &&
     runs (.swr (w 1 never)) never u (fun c => c.on == 0) (fun _ t => (Map.find t.groups 1).any (fun g => g.mxc == 0))) = true := by
  decide +kernel

/-! ### Memory (R241 to R290) -/

def mf (d a b : BitVec 8) (w : Wid) (sp : Spc) (fs : FlagSel) (vAddr : Bool) (fn : BitVec 6) (ofs : Word) (gd : Guard) : MFmt :=
  ⟨⟨gd, d, a, b, 0⟩, w, sp, .none, .group, fs, vAddr, fn, ofs⟩

/-- Addresses 16, 20, 24 … in v10, and in v12 and v13 those of the second GiB; s1 to s3 name team memory, HBM and scratchpad. -/
def gM : Group :=
  { gA with v := vOf ((List.range 32).flatMap (fun l => [(10, l, 16 + 4 * BitVec.ofNat 32 l), (12, l, 0x40000000 + 8 * BitVec.ofNat 32 l),
                                                       (20, l, 0xAB0 + BitVec.ofNat 32 l)])),
            s := [(1, 0x100), (2, 0x40000200), (3, 0x80000040)], th := [(0, 0x11), (1, 0x22)], p := [(1, 0x80000001)] }

/-- The new entry of group 1. -/
def entry1 (t : State) (p : Group → Entry → Bool) : Bool :=
  (Map.find t.groups 1).any (fun g => match g.entries with | [e] => p g e | _ => false)

/-- The hypothesis `lanesAligned`. -/
def aligned (c : Iss) (f : MFmt) (atomic : Bool) : Bool :=
  (List.range 32).all (fun l => !c.on.getLsbD l || (c.laneAddr f atomic l).toNat % f.wid.bytes == 0)

/-- The hypotheses of the first clause of AccessIssues. -/
def issues1 (i : Instr) (f : MFmt) (acc : Acc) (stores atomic : Bool) (s : State) (c : Iss) : Bool :=
  c.on != 0 && aligned c f atomic &&
  okIs (accessChecks s c.g f.spc acc stores (laneAddrs (c.laneAddr f atomic) c.on) f.wid.bytes f.wid.bytes) (fun _ => true) &&
  !c.g.holds c.sp.word i && okIs (releaseOk c s f) (fun _ => true) &&
  okIs (postHold s c.g (laneAddrs (c.laneAddr f atomic) c.on)) (fun _ => true)

theorem test_access_issues :
    (let s := sM gM
     let ok (i : Instr) (f : MFmt) (acc : Acc) (stores atomic : Bool) (va : DWord) (flag : Option Nat) : Bool :=
       runs i f.r.g s (issues1 i f acc stores atomic s)
         (fun _ t => entry1 t (fun g e => e.mask == 0x80000001 && Map.find e.addr 31 == some va && e.flag == flag && Map.get 0 g.cf 0 ==
           (if flag.isSome then 1 else 0) && (!stores || Map.find e.data 31 == some 0xACF)) && t.mem == pages)
     let g1 : Guard := ⟨1, false⟩
     let ld := mf 5 10 0 .b32 .tm .x true 0 0 g1
     let poll := mf 5 1 0 .b32 .tm .x false 1 4 g1
     let st := mf 0 10 20 .b16 .tm .none true 0 0xFFFFFFFE g1
     let ldf := mf 5 12 0 .b64 .far .x true 0 8 g1
     let stf := mf 0 2 20 .b16 .far .none false 0 0 g1
     let atom := mf 5 12 20 .b32 .far .x true 2 0 g1
     let pt := mf 5 3 0 .b8 .sp .x false 0 0 g1
     ok (.ld ld) ld .r false false 140 (some 0) && ok (.ld poll) poll .r false false 0x180 (some 0) &&
     ok (.st st) st .w true false 138 none && ok (.ldf ldf) ldf .r false false 0x40000100 (some 0) &&
     ok (.stf stf) stf .w true false 0x4000023E none && ok (.atom atom) atom .w true true 0x400000F8 (some 0) &&
     ok (.prestest pt) pt .r false false 0x8000005F (some 0) &&
     runs (.ld { ld with r := { ld.r with g := never } }) never s (fun c => c.on == 0) (fun _ t => at0 t 0x108C none && t.nextId == 10)) =
    true := by decide +kernel

theorem test_line_accesses :
    (let s := sM gM
     let hyp (f : MFmt) (acc : Acc) (stores : Bool) (c : Iss) : Bool := c.on != 0 && (c.laneAddr f false 0).toNat % 64 == 0 &&
       okIs (accessChecks s c.g f.spc acc stores [(lowLane c.act, c.laneAddr f false 0)] 64 64) (fun _ => true) &&
       okIs (postHold s c.g [(lowLane c.act, c.laneAddr f false 0)]) (fun _ => true)
     let one (va : DWord) (t : State) : Bool := entry1 t (fun _ e => e.mask == 1 && Map.find e.addr 0 == some va)
     let thld := mf 2 2 0 .b8 .far .x false 0 64 always
     let thst := mf 0 2 0 .b8 .far .none false 0 0 always
     let pc := mf 0 3 0 .b8 .sp .none false 0 0 always
     let ps := mf 0 3 0 .b8 .sp .none false 1 0 always
     let la := mf 9 2 0 .b8 .far .x false 7 128 always
     runs (.thld thld) always s (hyp thld .r false) (fun _ t => one 0x40000240 t) &&
     runs (.thst thst) always s (hyp thst .w true) (fun _ t => one 0x40000200 t && entry1 t (fun _ e => Map.find e.data 0 == some
       0x220000000000000011)) &&
     runs (.presclr pc) always s (hyp pc .r false) (fun _ t => one 0x80000040 t) &&
     runs (.presclrSet ps) always s (hyp ps .r false) (fun _ t => one 0x80000040 t) &&
     runs (.launch la) always s (fun c => (c.g.rdS c.fc la.r.a.toNat + mOffset la false).toNat % 128 == 0) (fun _ t => one 0x40000280 t)) =
    true := by decide +kernel

/-- AlignmentTraps: exactly the lanes whose address is odd for the width. -/
theorem test_alignment_traps :
    (let s := sM { gM with v := vOf ((List.range 32).map (fun l => (10, l, 2 * BitVec.ofNat 32 l))) }
     let f := mf 5 10 0 .b32 .tm .x true 0 0 always
     runs (.ld f) always s (fun c => decide (c.on != 0) && !aligned c f false) (fun _ t => trapIs t cAlign 0 0xAAAAAAAA &&
         ((t.coreAt 33).trapq.map Origin.lane) == (List.range 16).map (fun n => 2 * n + 1))) = true := by decide +kernel

/-- A log entry of group 1 with lane 1 at an address. -/
def entA (i : Instr) (va : DWord) (data cmp : BitVec 128) : Entry :=
  { id := 8, instr := i, op := .access, pc := 0x1080, pos := 0, mine := true, act := 2, mask := 2, addr := [(1, va)], data := [(1, data)], cmp := [(1, cmp)],
    flag := some 0, logged := true, ref := none, done := 0, sent := 0, fault := 0, outs := [], fpf := 0, fails := false, ready := false }

def sE (e : Entry) : State := sM { gM with entries := [e], cf := [(0, 1)] }

/-- The hypotheses of `lanePending`. -/
def pending1 (s : State) (e : Entry) : Bool :=
  (Map.find s.groups 1).any (fun g => g.entries.find? (fun x => x.id == e.id) == some e && e.op == .access && e.mask.getLsbD 1 &&
    !e.done.getLsbD 1 && e.fault == 0 && !e.sent.getLsbD 1 && !earlierPending s g e 1)

/-- One lane is performed. -/
def performs (i : Instr) (va : DWord) (data cmp : BitVec 128) (prep : State → State) (p : Entry → State → Bool) : Bool :=
  let e := entA i va data cmp
  let s := prep (sE e)
  pending1 s e && nextIs (exec (.memoryAccessPerformed (.lane 1 8 1) 0) s) (fun t => entry1 t (fun _ e' => e'.done == 2 && e'.ready && p e' t))

theorem test_team_accesses :
    (let tm (t : State) : Memory := match Map.find t.teams 2 with | some x => x.mem | none => []
     performs (.st (mf 0 10 20 .b16 .tm .none true 0 0 always)) 0x20 0xABCD1234 0 id
       (fun _ t => tm t == [(0x20, 0x34), (0x21, 0x12)] && t.mem == pages) &&
     performs (.ld (mf 5 10 0 .b64 .tm .x true 0 0 always)) 0x20 0 0
       (fun s => { s with teams := [(2, { tA with mem := [(0x20, 0x34), (0x23, 0x12), (0x27, 0x56)] })] })
       (fun e _ => e.outs == [.v 5 1 0x12000034, .v 6 1 0x56000000])) = true := by decide +kernel

/-- FarAccessesPerformed: a store, an atomic maximum, a CAS that fails, and the three presence instructions. -/
theorem test_far_accesses :
    (let at_ (va : DWord) (a : Acc) (s : State) : Bool := okIs (xlate s 33 5 0x100000 va a) (fun x => match x.1 with
       | .loc pa _ false _ => pa == (if va < 0x80000000 then va.toNat - 0x40000000 else va.toNat - 0x80000000 + 0x030000000000) | _ => false)
     performs (.stf (mf 0 12 20 .b32 .far .none true 0 0 always)) 0x40000300 0x11223344 0 id
       (fun _ t => t.mem.load 0x2FF 6 == [0, 0x44, 0x33, 0x22, 0x11, 0] && t.mem.byte 0x120008 == 0x8F) && at_ 0x40000300 .w (sM gM) &&
     performs (.atom (mf 5 12 20 .b32 .far .x true 2 0x00000000 always)) 0x40000300 0xFFFFFFFF 0
       (fun s => { s with mem := s.mem.put 0x300 5 })
       (fun e t => t.mem.load 0x300 4 == [5, 0, 0, 0] && e.outs == [.v 5 1 5] && !e.fails) &&
     performs (.atom (mf 5 12 20 .b32 .far .x true 7 0x10000000 always)) 0x40000300 9 4
       (fun s => { s with mem := s.mem.put 0x300 5 }) (fun e t => t.mem.byte 0x300 == 5 && e.outs == [.v 5 1 5] && e.fails) &&
     performs (.atom (mf 5 12 20 .b32 .far .x true 7 0x10000000 always)) 0x40000300 9 5
       (fun s => { s with mem := s.mem.put 0x300 5 }) (fun e t => t.mem.byte 0x300 == 9 && e.outs == [.v 5 1 5] && !e.fails) &&
     at_ 0x80000040 .r (sM gM) && spDie 0x030000000040 == some (coreDie 33) &&
     performs (.presclr (mf 0 3 0 .b8 .sp .none false 0 0 always)) 0x80000040 0 0 id (fun _ t => t.absent == [0x030000000040 / 64]) &&
     performs (.presclrSet (mf 0 3 0 .b8 .sp .none false 1 0 always)) 0x80000040 0 0 (fun s => { s with absent := [0x030000000040 / 64] })
       (fun _ t => t.absent == []) &&
     performs (.prestest (mf 5 3 0 .b8 .sp .x false 0 0 always)) 0x8000005F 0 0 (fun s => { s with absent := [0x030000000040 / 64] })
       (fun e _ => e.outs == [.p 5 1 false])) = true := by decide +kernel

/-- TeamAccesses and FarAccessesPerformed: a store with no flag is freed, an access with acquire order refreshes, stores and loads of the own
scratchpad, and far loads from memory, from the cache and from a peer. -/
theorem test_access_forms :
    (let key := farKeyLoc 0x300
     let cached (t : State) : Option Line := Map.find (t.coreAt 33).far key
     let withLine (s : State) : State := s.putCore 33 { s.coreAt 33 with far := [(key, 0xAB)] }
     let put (s : State) : State := { s with mem := (s.mem.put 0x300 5).put 0x030000000040 9 }
     let ldf : Instr := .ldf (mf 5 12 0 .b32 .far .x true 0 0 always)
     let free := { entA (.stf (mf 0 12 20 .b32 .far .none true 0 0 always)) 0x40000300 7 0 with flag := none }
     let acq := { entA ldf 0x40000300 0 0 with ref := some 4 }
     let peer : FabReq := { pkt := { mkPacket (sE acq) 5 0 9 0x40000300 30 with cls := 0 }, gid := 1, core := 33, entry := 8, lanes := 2, posted := false,
                            fresh := true, seen := [], va := 0, copy := none, scribe := none, pc := 0, pos := 0, mask := 2, sent := 0 }
     let asked := { sE { entA ldf 0x40000300 0 0 with sent := 2 } with fabReqs := [(30, peer)] }
     pending1 (sE free) free && nextIs (exec (.memoryAccessPerformed (.lane 1 8 1) 0) (sE free)) (fun t => t.mem.byte 0x300 == 7 &&
       (Map.find t.groups 1).any (fun g => g.entries == [])) &&
     pending1 (withLine (sE acq)) acq && nextIs (exec (.memoryAccessPerformed (.lane 1 8 1) 0) (withLine (sE acq))) (fun t => cached t == none &&
       entry1 t (fun _ e => e.ready && e.outs == [.v 5 1 0xAB])) &&
     performs ldf 0x40000300 0 0 put (fun e t => e.outs == [.v 5 1 5] && cached t == some 5) &&
     performs ldf 0x40000300 0 0 (fun s => withLine (put s)) (fun e t => e.outs == [.v 5 1 0xAB] && cached t == some 0xAB) &&
     performs (.ld (mf 5 3 0 .b32 .sp .x false 0 0 always)) 0x80000040 0 0 put (fun e t => e.outs == [.v 5 1 9] && (t.coreAt 33).far == []) &&
     performs (.st (mf 0 3 20 .b32 .sp .none false 0 0 always)) 0x80000040 0x55 0 put (fun _ t => t.mem.byte 0x030000000040 == 0x55) &&
     linked asked && nextIs (exec (.memoryAccessPerformed (.lane 1 8 1) 0x77) asked) (fun t => t.fabReqs == [] &&
       entry1 t (fun _ e => e.ready && e.outs == [.v 5 1 0x77]))) = true := by decide +kernel

/-- FlaggedCompletion: the registers, the count and FPF. -/
theorem test_flagged_completion :
    (let e := { entA (.ld (mf 5 10 0 .b32 .tm .x true 0 0 always)) 0x20 0 0 with
       done := 2, ready := true, fpf := 2, outs := [.v 5 1 77, .s 9 6, .p 3 31 true] }
     let s := sE e
     (Map.find s.groups 1).any (fun g => g.entries.find? (fun x => x.id == e.id) == some e && g.raced == [] &&
       decide ((e.outs.map RegWrite.key).Nodup)) &&
     nextIs (exec (.flaggedComplete 1 8) s) (fun t => (Map.find t.groups 1).any (fun g => g.entries == [] && Map.get 0 g.cf 0 == 0 &&
       g.fpf == 2 && Map.get 0 g.v 161 == 77 && Map.get 0 g.s 9 == 6 && Map.get 0 g.p 3 == 0x80000000))) = true := by decide +kernel

/-- ReductionIssues: FLUSHRED with an entry held, its completion, and the drain of an entry here, at a peer, on a tagged line and at an
address that does not translate. -/
theorem test_red_drains :
    (let r (va : DWord) : RedEntry := { id := 3, gid := 1, key := [], addr := va, fn := 0, ty := 1, wid := 4, data := 5, pc := 0x1080, pos := 0,
                                        lane := 1, mask := 6, owner := .writer, scope := 0, faulted := false }
     let st (va : DWord) (upTo : Nat) : State := sM { gM with red := [r va], redUpTo := upTo }
     let drains (s : State) (p : Group → State → Bool) : Bool := (Map.find s.groups 1).any (fun g => g.red.all (fun r => !redBehind s g r)) &&
       nextIs (exec (.memoryAccessPerformed (.drain 1) 0) s) (fun t => (Map.find t.groups 1).any (fun g => p g t))
     let f := mf 0 0 0 .b8 .tm .none false 0 0 always
     let fl : Entry := { entA (.flushred f) 0 0 0 with op := .flush }
     let peer : State → State := fun s => { s with
       mem := (((s.mem.put 0x130009 2).put 0x13000A 3).put 0x130008 0x0F),
       ctxs := [(5, { ctxA with job := some ⟨4, [1, 2, 3, 4], 0⟩ })] }
     runs (.flushred f) always (st 0x40000300 0) (fun c => c.g.red != [] && !c.g.holds c.sp.word (.flushred f)) (fun _ t => t.mem.byte 0x300 == 5 &&
       entry1 t (fun g e => e.op == .flush && e.mask == 1 && g.red == [])) &&
     nextIs (exec (.memoryAccessPerformed (.lane 1 8 1) 0) (sE fl)) (fun t => entry1 t (fun _ e => e.ready && e.done == 2)) &&
     drains (st 0x40000300 9) (fun g t => g.red == [] && t.mem.byte 0x300 == 5) &&
     drains (peer (st 0x80200300 9)) (fun g t => g.red == [] && g.acks == 1 && (Map.find t.fabReqs 10).any (fun q => q.pkt.dest == 3 && q.pkt.aty == 1 && q.posted)) &&
     drains { st 0x40000300 9 with tags := [0xC] } (fun g t => g.red == [] && trapIs t cBarOverwrite 0 6 && t.mem.byte 0x300 == 0) &&
     drains (st 0x7000000000000000 9) (fun g t => g.red.map RedEntry.faulted == [true] && ((t.coreAt 33).trapq.map (fun o => (o.cause, o.lane))) == [(cTrans, 1)])) =
    true := by decide +kernel

/-- ReductionIssues: RED of two lanes, FLUSHRED with nothing held, and no active lane. -/
theorem test_reductions :
    (let s := sM gM
     let f := mf 0 12 20 .b32 .far .none true 1 0x10000000 ⟨1, false⟩
     runs (.red f) ⟨1, false⟩ s (fun c => c.on != 0 && !c.g.holds c.sp.word (.red f) && decide (c.g.red.length + laneCount c.on ≤ 64) &&
         aligned c f true)
       (fun _ t => (Map.find t.groups 1).any (fun g => g.red.map RedEntry.lane == [0, 31] && g.red.map RedEntry.data == [0xAB0, 0xACF] &&
         g.red.map RedEntry.addr == [0x40000000, 0x400000F8] && g.red.all (fun r => r.fn == 1 && r.ty == 1))) &&
     runs (.flushred (mf 0 0 0 .b8 .tm .none false 0 0 always)) always s (fun c => c.g.red == [] && !c.g.holds c.sp.word (.flushred (mf 0 0 0 .b8 .tm .none false 0 0 always))) (fun _ t => at0 t 0x108C none) &&
     runs (.flushred (mf 0 0 0 .b8 .tm .none false 0 0 never)) never s (fun c => c.on == 0) (fun _ t => at0 t 0x108C none) &&
     runs (.red { f with r := { f.r with g := never } }) never s (fun c => c.on == 0) (fun _ t => at0 t 0x108C none)) = true := by
  decide +kernel

/-! ### Synchronisation (R291 to R321) -/

def ef (d a b : BitVec 8) (pair bar : BitVec 6) (bv : Bool) (cc : OcClass) (fs : FlagSel) (fn : BitVec 4) (imm : BitVec 16) (gd : Guard) : EFmt :=
  ⟨⟨gd, d, a, b, 0⟩, pair, bv, bar, cc, false, 0, fs, fn, imm⟩

/-- s10 names the object at offset 0x40 of team memory, s1 an address in HBM. -/
def gB : Group := { gA with s := [(1, 0x40000200), (9, 5), (10, 0x40)] }

/-- A barrier object in team memory that expects 2 arrivals and has one, in phase 4. -/
def sB : State :=
  { sM gB with teams := [(2, { tA with mem := Memory.store [] 0x40 (BarObj.bytes ⟨4, 2, 1, 0, 0, 128⟩), tags := [1] })] }

def barOk (c : Iss) (s : State) (valid : Bool) : Bool := okIs (c.barObject s .w (c.g.rdS c.fc 10) valid) (fun x => x.1 == .team 2 0x40)

theorem test_barrier_instructions :
    (let n := ef 0 0 0 0 10 true .copy .none 5 0x0401 always
     let e (fn : BitVec 4) (imm : BitVec 16) (fs : FlagSel) (a : BitVec 8) := ef 4 a 0 0 10 true .copy fs fn imm always
     runs (.barinit n) always (sM gB) (fun c => barOk c (sM gB) false && okIs (c.barCounts n) (fun x => x == (1, 1024)) &&
         !mortValid (sM gB) (.team 2 0x40))
       (fun _ t => barValid t (.team 2 0x40) && barRd t (.team 2 0x40) == ⟨0, 1, 0, 1024, 0, 129⟩) &&
     runs (.barfree (e 3 0 .none 0)) always sB (fun c => barOk c sB true) (fun _ t => !barValid t (.team 2 0x40) &&
       (Map.find t.teams 2).any (fun x => x.tags == [])) &&
     runs (.bararr (e 0 1 .none 0)) always sB (fun c => barOk c sB true) (fun _ t => entry1 t (fun _ e => e.op == .arrive (.team 2 0x40) 1)) &&
     runs (.barwait (e 0 4 .none 0)) always sB (fun c => phaseReached (barRd sB (.team 2 0x40)).phase (c.phaseArg (e 0 4 .none 0)))
       (fun _ t => at0 t 0x108C none && (Map.find t.groups 1).any (fun g => g.splits.all (fun p => p.2.wait == .none))) &&
     runs (.barwait (e 0 0x8000 .none 9)) always sB (fun c => !phaseReached (barRd sB (.team 2 0x40)).phase (c.phaseArg (e 0 0x8000 .none 9)))
       (fun _ t => (Map.find t.groups 1).any (fun g => g.splits.all (fun p => p.2.wait == .phase (.team 2 0x40) 5 .team))) &&
     runs (.bartest (e 0 4 .none 0)) always sB (fun c => c.flag (.bartest (e 0 4 .none 0)) == none)
       (fun _ t => (Map.find t.groups 1).any (fun g => Map.get 0 g.s 4 == 0x100000004))) = true := by decide +kernel

/-- BarrierInstructions, the application: one arrival completes the phase above; five units of three, with one arrival, complete one
phase and carry two. -/
theorem test_barrier_counts :
    (let o : BarObj := ⟨4, 2, 1, 0, 0, 128⟩
     let p : BarObj := ⟨0xFFFFFFFF, 1, 0, 3, 0, 129⟩
     (o.add 1 0).advance == ⟨5, 2, 0, 0, 0, 128⟩ && (p.add 1 5).advance == ⟨0, 1, 0, 3, 2, 129⟩) = true := by decide +kernel

/-- `framesApart`. -/
def apart (s : State) (loc : ObjLoc) : Bool :=
  match loc with
  | .phys pa => match Map.find s.objRep (pa / 64) with | some n => decide (64 ≤ n) | none => true
  | .team _ _ => true

/-- The instruction passes on, its guard in no lane, in whatever state. -/
def passes (s : State) (i : Instr) : Bool := runs i never s (fun c => c.on == 0) (fun _ t => at0 t 0x108C none && t.nextId == s.nextId && t.mem == s.mem)

/-- BarrierInstructions: an arrival applied to its object, which nothing else waits on; the guard in no lane; the BARARR that
waits in the log for an earlier store, and the step that applies it. -/
theorem test_barrier_applied :
    (let loc : ObjLoc := .team 2 0x40
     let f := ef 0 0 0 0 10 true .copy .none 0 1 always
     let e : Entry := { entA (.bararr f) 0 0 0 with op := .arrive loc 1, flag := none, logged := true, addr := [], data := [], cmp := [] }
     let s := { sM { gB with entries := [e] } with teams := sB.teams }
     barValid sB loc && apart sB loc && sB.heldApply.all (fun h => h.loc != loc) && heldRed sB loc == [] && redPlaced sB (.obj loc) &&
     barRd (applyObj sB loc 5 1 0 .none) loc == ⟨5, 2, 0, 0, 0, 128⟩ &&
     (barrierInstrs { f with r := { f.r with g := never } }).all (passes sB) &&
     e.sent == 0 && e.fault == 0 && !e.over && storesDone s 1 { gB with entries := [e] } 8 (barScope 0 loc).code &&
     redDrained { gB with entries := [e] } 8 &&
     nextIs (exec (.memoryAccessPerformed (.lane 1 8 1) 0) s) (fun t => barRd t loc == ⟨5, 2, 0, 0, 0, 128⟩ &&
       (Map.find t.groups 1).any (fun g => g.entries == []))) = true := by decide +kernel

/-- s3 names the line at 0x80000040; s5 to s7 are pegs 0, 1 and 2 of the mortise there, s8 the group 1 of logical core 0. -/
def gQ : Group := { gA with s := [(3, 0x80000040), (5, 0x10000), (6, 0x10001), (7, 0x10002), (8, 0x10000), (11, 0x10007)] }
def gQ2 : Group := { gQ with slot := 1, idx := 1 }

def paQ : Nat := 0x030000000040
/-- An empty mortise; one whose queue holds place 0 with the turn and place 1 waiting, of group 1, and place 2 waiting, of group 7. -/
def mEmpty : Mort := { id := 1, state := 1, turn := 0, tail := 3, count := 0, aband := 0, head := 0xFFFF, last := 0xFFFF }
def mThree : Mort := { id := 1, state := 3, turn := 0, tail := 3, count := 3, aband := 0, head := 3, last := 5 }
def links3 (a b c : Nat) : SMap DWord := [(3, mkLink 0 a 4 33 0 5), (4, mkLink 1 b 5 33 0 5), (5, mkLink 2 c 5 33 1 5)]
def sMort (m : Mort) (l : SMap DWord) : State :=
  { sM gQ with groups := [(1, gQ), (7, gQ2)], mem := pages ++ Memory.store [] paQ m.bytes, tags := [paQ / 64],
               quads := [(0, { Quad.reset with links := l })] }
def sQ : State := sMort mThree (links3 2 1 1)
/-- The same queue with no holder: the background skip has still to advance past place 0, which is abandoned or not. -/
def sAdv (st : Nat) : State := sMort { mThree with state := 5, aband := 1 } (links3 st 1 1)

def mqOf (t : State) : MQ := loadMq t paQ
def status (t : State) (n : DWord) : Bool := (Map.find t.groups 1).any (fun g => g.entries.any (fun e => e.outs.contains (.s 9 n)))
def pf (b c : BitVec 8) (fn : BitVec 6) : MFmt := ⟨⟨always, 9, 3, b, c⟩, .b8, .far, .none, .group, .x, false, fn, 0⟩

theorem test_mortise_init :
    (let fresh := sM gQ
     let ok (s : State) (valid : Bool) (c : Iss) : Bool := okIs (c.mortise s .w (pf 0 0 0) valid) (fun x => x.1 == paQ && !lineHasBar x.2 (.phys x.1))
     runs (.mortinit (pf 0 0 0)) always fresh (ok fresh false) (fun _ t => status t 0 && mortRd t paQ == { mEmpty with tail := 0 } &&
       t.tags == [paQ / 64]) &&
     runs (.mortinit (pf 0 0 0)) always sQ (ok sQ false) (fun _ t => status t 7 && mortRd t paQ == mThree) &&
     runs (.mortinitFree (pf 0 0 1)) always sQ (ok sQ true) (fun _ t => status t 7 && mortRd t paQ == mThree) &&
     runs (.mortinitFree (pf 0 0 1)) always (sMort mEmpty []) (ok (sMort mEmpty []) true) (fun _ t => status t 0 && t.tags == [])) =
    true := by decide +kernel

theorem lowestFree_nil (n a : Nat) (h : 0 < n) : lowestFree [] n a = some a := by
  cases n with
  | zero => omega
  | succ n => rfl

theorem lowestFree_full (used : List Nat) : ∀ (n a : Nat), (∀ k, a ≤ k → k < a + n → used.contains k = true) → lowestFree used n a = none := by
  intro n
  induction n with
  | zero => intro a _; rfl
  | succ n ih =>
    intro a h
    unfold lowestFree
    rw [if_pos (h a (by omega) (by omega))]
    exact ih (a + 1) (fun k h1 h2 => h k (by omega) (by omega))

theorem freeLink_nil (s : State) (q : MQ) (h : q.links = []) : ∃ i, freeLink s q = some i := by
  have hm := Nat.mod_lt (Config.freeWord (s.free * 2 ^ 64)).toNat (show 0 < 16384 by decide)
  refine ⟨(Config.freeWord (s.free * 2 ^ 64)).toNat % 16384, ?_⟩
  simp only [freeLink, h, Map.keys, List.map_nil]
  rw [lowestFree_nil _ _ (by omega)]

theorem freeLink_full (s : State) (q : MQ) (h : ∀ k, k < 16384 → (Map.keys q.links).contains k = true) : freeLink s q = none := by
  have hm := Nat.mod_lt (Config.freeWord (s.free * 2 ^ 64)).toNat (show 0 < 16384 by decide)
  simp only [freeLink]
  rw [lowestFree_full _ _ _ (fun k h1 h2 => h k (by omega)), lowestFree_full _ _ _ (fun k h1 h2 => h k (by omega))]

/-- MortiseInit and MortiseQueue: the guard in no lane, and the frames of the line. -/
theorem test_mortise_passes :
    ((mortiseInstrs (let f := pf 0 0 0; { f with r := { f.r with g := never } })).all (passes sQ) && apart sQ (.phys paQ) && paQ % 64 == 0 &&
     (mqOf sQ).m.count == 3 && gQ.core == 33 && gQ.slot == 0 && gQ.ctx == 5) = true := by decide +kernel

/-- MortiseQueue: a link is free in an empty queue, and none is where all 16,384 are used. -/
theorem test_witness_mortacq :
    (issuer (sMort mEmpty []) always).any (fun c => c.on != 0 && okIs (c.mortise (sMort mEmpty []) .w (pf 1 0 0) true) (fun x => x.1 == paQ)) = true ∧
    (∃ i, freeLink (sMort mEmpty []) (loadMq (sMort mEmpty []) paQ) = some i) ∧
    freeLink sQ { mqOf sQ with links := (List.range 16384).map (fun i => (i, 1)) } = none := by
  refine ⟨by decide +kernel, freeLink_nil _ _ (by decide +kernel), freeLink_full _ _ (fun k hk => ?_)⟩
  rw [List.contains_iff_mem]
  exact List.mem_map.2 ⟨(k, 1), List.mem_map.2 ⟨k, List.mem_range.2 hk, rfl⟩, rfl⟩

/-- MORTACQ of an empty mortise answers sequence number 3 of identifier 1, whatever link it takes. -/
theorem test_mortise_queue :
    (let s7 := { sQ with cur := some (7, 0) }
     let ok (c : Iss) : Bool := okIs (c.mortise sQ .w (pf 6 7 0) true) (fun x => x.1 == paQ)
     runs (.peggive (pf 11 8 0)) always sQ (fun c => ok c && (mqOf sQ).find (c.peg 11) == none) (fun _ t => status t 3) &&
     runs (.peggive (pf 7 8 0)) always sQ (fun c => (mqOf sQ).find (c.peg 7) == some 5 && !heldBy c.g ((mqOf sQ).link 5)) (fun _ t => status t 4) &&
     runs (.peggive (pf 6 8 0)) always sQ (fun c => (mqOf sQ).find (c.peg 6) == some 4 && heldBy c.g ((mqOf sQ).link 4) &&
         (groupNamed sQ c.g (c.g.rdS c.fc 8)).any (fun h => h.slot == 1))
       (fun _ t => status t 0 && (mqOf t).link 4 == mkLink 1 1 5 33 1 5) &&
     runs (.pegswap (pf 6 11 0)) always sQ (fun c => (mqOf sQ).find (c.peg 11) == none) (fun _ t => status t 3) &&
     runs (.pegswap (pf 7 6 0)) always sQ (fun c => (mqOf sQ).find (c.peg 7) == some 5) (fun _ t => status t 4) &&
     runs (.pegswap (pf 5 6 0)) always sQ (fun _ => true) (fun _ t => status t 1) &&
     runs (.pegswap (pf 6 7 0)) always sQ (fun _ => (((mqOf sQ).order.dropWhile (· != 4)).drop 1).contains 5)
       (fun _ t => status t 0 && (mqOf t).order == [3, 5, 4] && (mortRd t paQ).last == 4) && (mqOf s7).order == [3, 4, 5]) = true := by
  decide +kernel

theorem test_peg_instructions :
    (let ok (c : Iss) : Bool := okIs (c.mortise sQ .w (pf 6 0 0) true) (fun x => x.1 == paQ)
     runs (.pegwait (pf 11 0 0)) always sQ ok (fun _ t => status t 3) && runs (.pegwait (pf 5 0 0)) always sQ ok (fun _ t => status t 0) &&
     runs (.pegwait (pf 6 0 0)) always sQ (fun c => lkSt ((mqOf sQ).link 4) != 2 && ok c)
       (fun _ t => (Map.find t.groups 1).any (fun g => g.splits.all (fun p => match p.2.wait with | .peg a 1 _ none => a == paQ | _ => false))) &&
     runs (.pegdrop (pf 11 0 0)) always sQ ok (fun _ t => status t 3) && runs (.mortrel (pf 7 0 0)) always sQ ok (fun _ t => status t 4) &&
     runs (.mortrel (pf 6 0 0)) always sQ ok (fun _ t => status t 6) &&
     runs (.pegdrop (pf 6 0 0)) always sQ ok (fun _ t => status t 0 && lkSt ((mqOf t).link 4) == 3 && (mortRd t paQ).count == 2 &&
       (mortRd t paQ).aband == 1) &&
     runs (.mortrel (pf 5 0 0)) always sQ ok (fun _ t => status t 0 && (mqOf t).order == [4, 5] && lkSt ((mqOf t).link 4) == 2 &&
       (mortRd t paQ).turn == 1 && (mortRd t paQ).count == 2)) = true := by decide +kernel

/-- PegInstructions: a MORTREL with release waits in the log while an earlier store of the group is not performed, and answers at
once with none; the queue names no link twice; a place that waits is abandoned in place, and a place that holds is retired. -/
theorem test_peg_release :
    (let st := entA (.st (mf 0 10 20 .b16 .tm .none true 0 0 always)) 0x20 1 0
     let g := { gQ with entries := [{ st with flag := none }] }
     let busy := { sQ with groups := [(1, g), (7, gQ2)] }
     let rel : MFmt := { pf 5 0 0 with ord := .rel, scope := .team }
     storesDone sQ 1 gQ 10 1 && !storesDone busy 1 g 10 1 &&
     runs (.mortrel rel) always busy (fun c => okIs (c.mortise busy .w rel true) (fun x => x.1 == paQ) && !c.g.holds c.sp.word (.mortrel rel))
       (fun _ t => (Map.find t.groups 1).any (fun g => g.entries.any (fun e => e.op == .mortise paQ 0x10000 false && e.done == 0)) && mqOf t == mqOf busy) &&
     runs (.mortrel rel) always sQ (fun _ => true) (fun _ t => status t 0 && (mqOf t).order == [4, 5]) &&
     (mqOf sQ).order == [3, 4, 5] && lkSt ((mqOf sQ).link 4) == 1 && lkSt ((mqOf sQ).link 3) == 2 &&
     (let t := dropPlace sQ (mqOf sQ) 4; lkSt ((mqOf t).link 4) == 3 && (mqOf t).order == [3, 4, 5] && (mqOf t).m.aband == 1) &&
     ((mqOf sQ).release 3).order == [4, 5] && lkSt (((mqOf sQ).release 3).link 4) == 2 &&
     (let one := sMort { mThree with count := 1, last := 3 } [(3, mkLink 0xFFFF 2 4 33 0 5)]
      ((mqOf one).release 3).order == [] && !((mqOf one).release 3).m.held)) = true := by decide +kernel

theorem test_mortise_skip :
    ((spDie paQ).isSome && mortValid (sAdv 3) (.phys paQ) && (mqOf (sAdv 3)).m.adv && !(mqOf sQ).m.adv &&
     nextIs (exec (.mortiseSkipStep paQ) sQ) (fun t => t == sQ) &&
     nextIs (exec (.mortiseSkipStep paQ) (sAdv 3)) (fun t => (mqOf t).order == [4, 5] && (mortRd t paQ).aband == 0 && (mqOf t).m.adv) &&
     nextIs (exec (.mortiseSkipStep paQ) (sAdv 1)) (fun t => (mqOf t).order == [3, 4, 5] && lkSt ((mqOf t).link 3) == 2 && !(mqOf t).m.adv &&
       (mqOf t).m.held)) = true := by decide +kernel

/-- PublishRefresh. -/
theorem test_publish_refresh :
    (let f (o : Ord) (sc : Scope) : MFmt := ⟨⟨always, 0, 0, 0, 0⟩, .b8, .tm, o, sc, .none, false, 0, 0⟩
     let s := { sM gA with cores := [(33, { Core.reset with far := [(7, 1)], icache := [(5 * 2 ^ 50 + 66, 0), (6 * 2 ^ 50 + 66, 0)] })] }
     let quiet (i : Instr) (c : Iss) : Bool := !c.g.holds c.sp.word i && c.flag i == none && c.g.red == [] && c.g.entries == [] && c.g.acks == 0 &&
       c.g.held == [] && s.frameQ == [] && s.fabReqs.all (fun r => !r.2.seen.contains 1) && c.g.splits.all (fun p => p.2.wait == .none)
     runs (.publish (f .rel .domain)) always s (quiet (.publish (f .rel .domain))) (fun _ t => at0 t 0x108C none && t.mem == pages) &&
     runs (.refresh (f .acq .cluster)) always s (fun c => !c.g.holds c.sp.word (.refresh (f .acq .cluster))) (fun _ t => at0 t 0x108C none &&
       (t.coreAt 33).far == []) &&
     runs (.refresh (f .acq .team)) always s (fun _ => true) (fun _ t => at0 t 0x108C none && (t.coreAt 33).far == [(7, 1)]) &&
     runs (.ifence (f .none .group)) always s (quiet (.ifence (f .none .group))) (fun _ t => at0 t 0x108C none &&
       (t.coreAt 33).icache == [(6 * 2 ^ 50 + 66, 0)])) = true := by decide +kernel

/-- GridArrival: an arrival, one of two splits, and a peer's completion for a job held here or not. -/
theorem test_grid_arrival :
    (let f : SFmt := ⟨⟨always, 0, 0, 0, 0⟩, .i64, 4, .vec, .vec, .vec, 0⟩
     let two := sM { gA with splits := gA.splits ++ gA.splits.map (fun x => (1, { x.2 with mask := 0xFF })) }
     let bound := { sM gA with ctxs := [(5, { ctxA with job := some ⟨77, [0, 1], 0⟩ })] }
     runs (.gridarr f) always (sM gA) (fun c => decide (c.g.splits.length ≤ 1) && !c.g.recs.any JoinRec.d)
       (fun _ t => (Map.find t.groups 1).any (fun g => g.gridCount == 1 && g.splits.all (fun p => p.2.wait == .grid 0 .device 10 0x1080)) &&
         t.gridBars.any (fun b => b.k == 0 && b.launch == 4)) &&
     runs (.gridarr f) always two (fun c => decide (1 < c.g.splits.length)) (fun _ t => trapIs t cIllegal 4 0xFFFFFFFF) &&
     nextIs (exec (.domainBarrierStep 78 1 0) bound) (fun t => ctxOfJob bound 78 == none && t.fabErrs == 1 && t.domainArr == []) &&
     nextIs (exec (.domainBarrierStep 77 1 0) bound) (fun t => ctxOfJob bound 77 != none && t.domainArr == [(77, 1, 0)])) = true := by
  decide +kernel

/-- PublishRefresh: a publish that is held ends once the store it covers is performed, and not before; a refresh at cluster scope
keeps the line asked for before it out of the cache. -/
theorem test_publish_steps :
    (let st := entA (.st (mf 0 10 20 .b16 .tm .none true 0 0 always)) 0x20 1 0
     let waits (g : Group) : Group := { g with splits := gA.splits.map (fun x => (x.1, { x.2 with wait := .publish .team 9 false })) }
     let w (g : Group) : Wait := ((Map.find g.splits 0).map (fun x => x.wait)).getD .none
     let free := { sM gA with groups := [(1, waits gA)] }
     let busy := { sM gA with groups := [(1, waits { gA with entries := [{ st with flag := none }] })] }
     let f : MFmt := ⟨⟨never, 0, 0, 0, 0⟩, .b8, .tm, .rel, .team, .none, false, 0, 0⟩
     [Instr.publish f, .refresh f, .ifence f].all (passes (sM gA)) &&
     (Map.find free.groups 1).any (fun g => publishOk free 1 g .team 9) && (Map.find busy.groups 1).any (fun g => !publishOk busy 1 g .team 9) &&
     (Map.find (stepPublish free 1).groups 1).any (fun g => w g == .none) && stepPublish busy 1 == busy &&
     refreshAt free 33 1 == free && (let s := { free with cores := [(33, { Core.reset with far := [(7, 1)] })] }
       ((refreshAt s 33 2).coreAt 33).far == [] && ((refreshAt s 34 2).coreAt 33).far == [(7, 1)])) = true := by decide +kernel

/-- A RED entry of group 1. -/
def redOf (n : Nat) : RedEntry :=
  { id := n, gid := 1, key := [], addr := 0x40000300, fn := 0, ty := 0, wid := 2, data := 1, pc := 0, pos := 0, lane := 0, mask := 1,
    owner := .writer, scope := 0, faulted := false }

/-- GridArrival: a RED entry before an earlier flush point stays with the group, a later one goes to the barrier; the guard in no
lane; and the barrier of a group alone in its launch completes. -/
theorem test_grid_complete :
    (let f : SFmt := ⟨⟨never, 0, 0, 0, 0⟩, .i64, 2, .vec, .vec, .vec, 0⟩
     let s := sM { gA with red := [redOf 3, redOf 6], redUpTo := 5 }
     let b : GridBar := { launch := 4, k := 0, arrived := [(1, .cluster)], past := [], red := [], bad := [], sent := false, spoilt := [], told := [] }
     let held := { sM { gA with splits := gA.splits.map (fun x => (x.1, { x.2 with wait := .grid 0 .cluster 9 0x1080 })) } with
       gridBars := [b], clusters := [(3, { launch := 4, index := 0, quad := 0, size := 1, teams := [2], names := [33] })] }
     passes (sM gA) (.gridarr f) &&
     runs (.gridarr { f with r := { f.r with g := always } }) always s (fun c => decide (c.g.splits.length ≤ 1))
       (fun _ t => (Map.find t.groups 1).any (fun g => g.red.map (fun x => x.id) == [3]) &&
         t.gridBars.any (fun b => b.red.map (fun x => x.id) == [6])) &&
     findBar held 4 0 == some b && gridFull held b (1, .cluster) && (Map.find (gridTryOne held 4 0 (1, .cluster)).groups 1).any (fun g => g.splits.all (fun p => p.2.wait == .none)) && redPlaced held (.grid 4 0) &&
     (membersOf held 4 1 .cluster).contains 1 &&
     (Map.find (gridTry held b).groups 1).any (fun g => g.splits.all (fun p => p.2.wait == .none))) = true := by decide +kernel

/-- R266: a RED that would overflow the group's 64 entries drains those it holds; where they are at a flush point already it only
waits. -/
theorem test_red_overflow_drains :
    (let f := mf 0 12 20 .b32 .far .none true 1 0x10000000 ⟨1, false⟩
     let r := { redOf 3 with addr := 0x40000300 }
     let s (n : Nat) : State := { sM { gM with red := List.replicate 63 r, redUpTo := n } with nextId := 70, cur := some (1, 0) }
     drainsFirst (.red f) (s 0) && !drainsFirst (.red f) (s 4) &&
     heldAct (.red f) (s 4) (s 4) == s 4) = true := by decide +kernel
/-! ### Planes (R169 to R212) -/

/-- Planes of 4 rows and 8 columns on the grid of the same size: pd0, pd1 and pd2 hold I32 in v8, v12 and v13, and pd3 and pd4 masks
in v16 and v17. v12 holds 100 plus the lane, v13 the lane and v17 its parity. -/
def gP : Group :=
  { gA with pd := [(0, 0x080000080004), (4, 0x0C0000080004), (5, 77), (8, 0x0D0000080004), (12, 0x100A00080004), (16, 0x110A00080004)],
            v := vOf ((List.range 32).flatMap (fun l => [(12, l, 100 + BitVec.ofNat 32 l), (13, l, BitVec.ofNat 32 l),
                                                        (17, l, BitVec.ofNat 32 (l % 2))])) }

def plf (d a b c : BitVec 8) (fn : BitVec 4) (amt : BitVec 8) (edge : Edge) (rop : Rop) (imm : Word) : PFmt :=
  ⟨⟨always, d, a, b, c⟩, fn, false, false, amt, edge, rop, imm⟩

/-- The hypothesis `planeAllowed` on the team's grid. -/
def allowed (op : Nat) (f : PFmt) (s : State) (c : Iss) : Bool :=
  (Map.find s.teams c.g.team).any (fun t => decide (32 * c.g.idx < t.gridH * t.gridW) &&
    okIs (planeCheck op f t.gridH t.gridW c.g.budget (descs op f c)) (fun _ => true) &&
    !(planeFields op f).any (fun x => ((descs op f c x.1).uses t.gridH t.gridW f.set).any (fun r => c.g.planeRegs.contains r)) &&
    !planePoison c.g f t.gridH t.gridW (planeFields op f) (descs op f c))

/-- The destination register's lanes after a plane instruction of one group. -/
def planeGives (i : Instr) (op : Nat) (f : PFmt) (reg : Nat) (l : List (Nat × Word)) : Bool :=
  let s := sM gP
  runs i always s (fun c => (planeInstrs f).contains (i, op) && allowed op f s c && !planeCollective op f 4 8 (descs op f c))
    (fun _ t => at0 t 0x108C none && l.all (fun x => (Map.find t.groups 1).any (fun g => Map.get 0 g.v (32 * reg + x.1) == x.2)))

theorem test_plane_moves :
    (let p (amt : BitVec 8) (imm : Word) : PFmt := plf 0 1 0 0 0 amt .zero .add imm
     planeGives (.pshift (p 1 0)) 3 (p 1 0) 8 [(0, 0), (1, 100), (8, 0), (9, 108)] &&
     planeGives (.prot (p 1 0)) 4 (p 1 0) 8 [(0, 107), (1, 100), (8, 115)] &&
     planeGives (.pspread (p 0 2)) 5 (p 0 2) 8 [(5, 102), (13, 110)] &&
     planeGives (.pfold (p 0 0)) 6 (p 0 0) 8 [(0, 828), (1, 0), (8, 892)] &&
     planeGives (.prefold (p 0 0)) 7 (p 0 0) 8 [(3, 103), (31, 131)] &&
     planeGives (.ptrans (p 0 0)) 8 (p 0 0) 8 [(1, 108), (3, 124), (5, 0), (8, 101)] &&
     planeGives (.pscan (p 0 0)) 13 (p 0 0) 8 [(0, 100), (3, 406), (7, 828)]) = true := by decide +kernel

theorem test_plane_elements :
    (let e2 := plf 0 1 2 0 0 0 .zero .add 0
     let e3 := plf 0 1 2 1 1 0 .zero .add 0
     let ec := plf 0 1 0 0 12 0 .zero .add 1000
     let io := plf 0 0 0 0 0 0 .zero .add 5
     let se := plf 0 1 2 4 0 0 .zero .add 0
     let cm := plf 3 2 1 0 2 0 .zero .add 0
     let fi := plf 0 0 0 0 0 0 .zero .add 9
     planeGives (.pew2 e2) 9 e2 8 [(3, 106)] && planeGives (.pew3 e3) 10 e3 8 [(2, 306)] && planeGives (.pewc ec) 11 ec 8 [(3, 897)] &&
     planeGives (.piota io) 12 io 8 [(0, 5), (9, 6)] && planeGives (.psel se) 14 se 8 [(3, 103), (2, 2)] &&
     planeGives (.pcmp cm) 15 cm 16 [(0, 1), (31, 1)] && planeGives (.pfill fi) 21 fi 8 [(0, 9), (31, 9)]) = true := by decide +kernel

theorem test_plane_masks :
    (let p (fn : BitVec 4) (amt : BitVec 8) (rop : Rop) (imm : Word) : PFmt := plf 3 4 0 0 fn amt .zero rop imm
     planeGives (.ppshift (p 0 1 .add 0)) 16 (p 0 1 .add 0) 16 [(0, 0), (2, 1), (3, 0)] &&
     planeGives (.pprot (p 0 1 .add 0)) 17 (p 0 1 .add 0) 16 [(0, 1), (1, 0)] &&
     planeGives (.ppspread (p 0 0 .add 1)) 18 (p 0 0 .add 1) 16 [(4, 1), (8, 1)] &&
     planeGives (.ppfold (p 0 0 .or 0)) 19 (p 0 0 .or 0) 16 [(0, 1), (1, 0)] &&
     planeGives (.pplog (p 4 0 .add 0)) 20 (p 4 0 .add 0) 16 [(2, 1), (3, 0)]) = true := by decide +kernel

/-- PEXTR of an element and of a place beyond the extents, and a group that is no member. -/
theorem test_plane_extract :
    (let s := sM gP
     let s9 (x : DWord) (t : State) : Bool := (Map.find t.groups 1).any (fun g => Map.get 0 g.s 9 == x)
     let e := plf 9 1 0 0 0 0 .zero .add 0x00020001
     let o := plf 9 1 0 0 0 0 .zero .add 0x00080001
     let out := sM { gP with idx := 1 }
     let f := plf 0 1 0 0 0 1 .zero .add 0
     runs (.pextr e) always s (fun c => allowed 0x16 e s c && c.g.poison == [] && c.g.planeRegs == []) (fun _ t => s9 110 t) && runs (.pextr o) always s (allowed 0x16 o s) (fun _ t => s9 77 t) &&
     runs (.pshift f) always out (fun c => decide (4 * 8 ≤ 32 * c.g.idx)) (fun _ t => at0 t 0x108C none &&
       (Map.find t.groups 1).any (fun g => g.v == gP.v))) = true := by decide +kernel

/-- PlaneDescriptors: PDSET, PDSET.EDGE, PDSET.DIM, PDSET.LIKE and PDGET. -/
theorem test_plane_descriptors :
    (let s := sM { gP with s := [(7, 0x100000005)] }
     let of (i : Instr) (p : State → Bool) : Bool := runs i always s (fun c => (c.grid s).isSome) (fun _ t => at0 t 0x108C none && p t)
     let d (n : Nat) (t : State) (p : PDesc → Bool) : Bool := (Map.find t.groups 1).any (fun g => p (heldDesc g n))
     of (.pdset (plf 5 12 0 0 0 0x36 .zero .add 0x40004)) (fun t => d 5 t (fun x => x.p == 4 && x.q == 4 && x.fmt == 6 && x.fy && x.fx &&
       x.base == 12 && x.nd == 0)) &&
     of (.pdsetEdge (plf 1 0 0 7 1 0 .scal .add 0)) (fun t => d 1 t (fun x => x.edgec == 5 && x.base == 12)) &&
     of (.pdsetEdge (plf 1 0 0 0 1 0 .zero .add 9)) (fun t => d 1 t (fun x => x.edgec == 9)) &&
     of (.pdsetDim (plf 1 0 0 0 2 0 .zero .add 0x01040003)) (fun t => d 1 t (fun x => x.nd == 2 && x.ext == [0, 3, 0, 0] && x.str == [0, 4, 0, 0])) &&
     of (.pdsetLike (plf 5 1 40 0 3 0x10 .zero .add 0)) (fun t => d 5 t (fun x => x.base == 40 && x.edgec == 77 && x.fy && !x.fx && x.q == 8)) &&
     of (.pdget (plf 9 1 0 0 0 0 .zero .add 1)) (fun t => (Map.find t.groups 1).any (fun g => Map.get 0 g.s 9 == 77))) = true := by
  decide +kernel

/-- PlaneMoves: a line of values and neutral positions, and each place a move along X reads. -/
theorem test_witness_plane_moves :
    (let l : List (Option Nat) := [some 0xFFFFFFFF, none, some 2]
     let d := pdescOf (fun w => Map.get 0 gP.pd (4 + w)) false
     let src (i j : Nat) : Option Nat := some (100 + 8 * i + j)
     let f (e : Edge) (amt : BitVec 8) : PFmt := plf 0 1 0 0 0 amt e .add 2
     let mv (k : Nat) (e : Edge) (amt : BitVec 8) (i j : Nat) : Nat := moveElem k (f e amt) d src 0 i j
     decide (l.length ≤ 2 ^ 16) && ((foldTree (combine .add .i32) 17 l).1.getD 0) == 1 && d.p == 4 && d.q == 8 &&
     mv 0 .zero 1 1 1 == 108 && mv 0 .zero 1 1 0 == 0 && mv 0 .rep 1 1 0 == 108 && mv 0 .rep 0xFF 1 7 == 115 && mv 0 .wrap 1 1 0 == 115 &&
     mv 0 .wrap 0xFF 1 7 == 108 && mv 0 .desc 1 0 0 == 77 && mv 1 .zero 1 0 0 == 107 && mv 2 .zero 0 3 7 == 126) = true := by decide +kernel

/-- PlaneCollective: a grid of one row and 64 columns is collective along X; the only other member has exited. -/
def sColl : State :=
  { sM { gP with pd := [(0, 0x080000400001), (4, 0x0C0000400001)] } with teams := [(2, { tA with nGroups := 2, gridH := 1, gridW := 64 })] }

theorem test_plane_collective :
    (let f := plf 0 1 0 0 0 1 .zero .add 0
     let s := sColl
     let a := (issuer s always).map (fun c => c.arrival f)
     let held := (issuer s always).map (fun c => { s with
       groups := [(1, { c.g with planeSeq := 1, splits := c.g.splits.map (fun p => (p.1, { p.2 with wait := .plane 0 [8, 9] })) })],
       teams := s.teams.map (fun t => (t.1, { t.2 with planeOps := [(0, { instr := .pshift f, pd := (c.pdWords f (planeFields 3 f)), arrivals := [c.arrival f], bad := [] })] })) })
     runs (.pshift f) always s (fun c => allowed 3 f s c && planeCollective 3 f 1 64 (descs 3 f c))
       (fun c t => at0 t 0x1080 none && (Map.find t.groups 1).any (fun g => g.planeSeq == 1) &&
         (Map.find t.teams 2).any (fun x => x.planeOps.any (fun o => o.2.arrivals == [c.arrival f]))) &&
     a.any (fun a => held.any (fun u => (Map.find u.teams 2).any (fun t => teamRuns u t) && (planeMembers { tA with nGroups := 2, gridH := 1, gridW := 64 }).all (fun n => a.idx == n || planeExited u 2 n) &&
       nextIs (exec (.collectivePlaneComplete 2 0) u) (fun t => at0 t 0x108C none && (Map.find t.teams 2).any (fun x => x.planeOps == []) &&
         (Map.find t.groups 1).any (fun g => Map.get 0 g.v (32 * 8 + 1) == 100 && Map.get 0 g.v (32 * 8) == 0))))) = true := by decide +kernel

/-- PlaneInstructions and PlaneCollective, every outer plane: the operand and the destination have two outer planes each, v8 and v9 from v12 and v13; the
grid of one row and 64 columns is collective along X, alone in its team but for a member that has exited. -/
theorem test_plane_sets :
    (let pd (q : DWord) : SMap DWord := [(0, 0x080000000000 + q), (4, 0x0C0000000000 + q)]
     let f : PFmt := { plf 0 1 0 0 0 1 .zero .add 0 with set := true }
     let g (q : DWord) : Group := { gP with pd := pd q }
     let dim (d : BitVec 8) : Instr := .pdsetDim (plf d 0 0 0 2 0 .zero .add 0x00010002)
     let two (g : Group) (t : Team) : State :=
       let s := { sM g with teams := [(2, t)] }
       match exec (dim 0) s with
       | .next u => match exec (dim 1) { u with cur := some (1, 0) } with | .next v => { v with cur := some (1, 0) } | _ => s
       | _ => s
     let one := two (g 0x80004) tA
     let wide : Team := { tA with nGroups := 2, gridH := 1, gridW := 64 }
     let coll := two (g 0x400001) wide
     let val (t : State) (r l : Nat) (x : Word) : Bool := (Map.find t.groups 1).any (fun g => Map.get 0 g.v (32 * r + l) == x)
     runs (.pshift f) always one (fun c => allowed 3 f one c && !planeCollective 3 f 4 8 (descs 3 f c))
       (fun _ t => val t 8 0 0 && val t 8 1 100 && val t 9 0 0 && val t 9 1 0 && val t 9 3 2) &&
     runs (.pshift f) always coll (fun c => allowed 3 f coll c && planeCollective 3 f 1 64 (descs 3 f c)) (fun _ t =>
       (Map.find t.teams 2).any (fun x => teamRuns t x && (planeMembers x).all (fun n => n == 0 || planeExited t 2 n)) &&
       nextIs (exec (.collectivePlaneComplete 2 0) t) (fun u => val u 8 0 0 && val u 8 1 100 && val u 9 1 0 && val u 9 3 2))) = true := by
  decide +kernel
/-! ### The matrix engine (R213 to R240) -/

/-- s4 and s5 hold the record of reservation 2: BF16 rows of 64 bytes from unit 1; s6 a gang word, s8 and s9 a request for 4,096 bytes. -/
def gX : Group :=
  { gA with ocMat := 1, v := (List.range 32).map (fun l => (512 + l, 0x4000)) ++ (List.range 32).map (fun l => (6400 + l, 7 + BitVec.ofNat 32 l)),
            s := [(4, 0x8000400700400001), (5, 0x0000000200000000), (6, 0x20005), (8, 0x0000400700400000)], p := [(1, 3)] }

def bayX : Bay :=
  { Bay.reset with resv := [(2, { ctx := 5, w0 := 0x8000400700400001, w1 := 0x0000000200000000, free := false })],
                   buf := [(64, 0x80), (65, 0x3F), (128, 0x80), (129, 0x3F)] }

/-- Core 33 belongs to context 5; its tile 2 holds 1.0 in row 0, column 0, and 9 in row 2, column 1. -/
def coreX : Core := { Core.reset with aown := 0x45, acclive := 4, tiles := [(2048, 0x3F800000), (2113, 9)] }
def sX : State := { sM gX with cores := [(33, coreX)], bays := [(8, bayX)], svclevel := 1 }

def xf (d a b : BitVec 8) (fs : FlagSel) (fn : BitVec 4) (imm : BitVec 16) (gd : Guard) : EFmt := ef d a b 4 0 false .mat fs fn imm gd

/-- The request that the step left in the table. -/
def asked (t : State) (p : MReq → Bool) : Bool :=
  match (t.bayAt 8).reqs with
  | [q] => p q && q.gid == 1 && q.core == 33 && !q.granted && (Map.find t.groups 1).any (fun g => g.ocMat == 2) && at0 t 0x108C none
  | _ => false

theorem test_tile_requests :
    (let g1 : Guard := ⟨1, false⟩
     let free (i : Instr) (f : EFmt) (c : Iss) : Bool := okIs (ownCheck sX c.g) (fun _ => true) && okIs (barAlign c f) (fun _ => true) &&
       okIs (matHold sX c i) (fun _ => true)
     let z := xf 2 0 0 .none 0 0 g1
     let fl := xf 2 200 0 .none 1 0 g1
     let dr := xf 20 2 0 .x 0 0 g1
     let al := xf 0 0 0 .none 0 0x8001 always
     let fr := xf 0 0 0 .none 0 0 always
     runs (.mzero z) g1 sX (free (.mzero z) z) (fun _ t => asked t (fun q => q.op == .zero && q.tiles == 4 && q.rows == 3)) &&
     runs (.mfill fl) g1 sX (free (.mfill fl) fl) (fun _ t => asked t (fun q => q.op == .bcast && q.tiles == 4)) &&
     runs (.mfill { fl with efn := 0 }) g1 sX (free (.mfill fl) fl) (fun _ t => asked t (fun q => q.op == .fill)) &&
     runs (.mdrain dr) g1 sX (free (.mdrain dr) dr) (fun _ t => asked t (fun q => q.op == .drain && q.tiles == 4 && q.flag == some 0)) &&
     runs (.accalloc al) always sX (free (.accalloc al) al) (fun _ t => asked t (fun q => q.op == .alloc && q.tiles == 0x8001)) &&
     runs (.accfree { al with imm := 1 }) always sX (fun _ => true) (fun _ t => asked t (fun q => q.op == .free && q.tiles == 1)) &&
     runs (.accfree fr) always sX (fun _ => fr.imm == 0) (fun _ t => at0 t 0x108C none && (t.bayAt 8).reqs == []) &&
     runs (.mzero { z with r := { z.r with g := never } }) never sX (fun c => c.on == 0) (fun _ t => at0 t 0x108C none)) = true := by
  decide +kernel

theorem test_pass_requests :
    (let rec0 (c : Iss) : Bool := okIs (c.record sX 4) (fun a => a.fmt == passFmt 0 && a.id == 2 && passRange a 0 0 && decide (16 * (passSize 0 + 2) ≤ a.rstr)) &&
       passInService sX 0
     let none0 (c : Iss) : Bool := !okIs (c.record sX 8) (fun _ => true)
     let m := xf 2 0 16 .none 0 0 ⟨1, false⟩
     let bad := ef 2 0 16 8 0 false .mat .none 0 16 always
     runs (.mmaS m) ⟨1, false⟩ sX rec0 (fun _ t => asked t (fun q => q.op == .mma && q.tiles == 4 && q.rows == 3 && q.resvA == some 2 && q.ofs == 0)) &&
     runs (.mspmm { m with imm := 16 }) ⟨1, false⟩ sX rec0 (fun _ t => asked t (fun q => q.op == .spmm && q.e == 16)) &&
     runs (.mmaQ (xf 2 6 16 .none 0 0 never)) never sX rec0 (fun _ t => asked t (fun q => q.op == .gang && q.rows == 0 && q.tag == some (5, 2, 0))) &&
     runs (.mbypass (xf 0 2 0 .none 0 0 always)) always sX (fun c => okIs (c.record sX 4) (fun a => decide (0 + 32 ≤ a.count 0)))
       (fun _ t => asked t (fun q => q.op == .bypass && q.tiles == 4 && q.rows == 0xFFFFFFFF)) &&
     runs (.mmaS bad) always sX none0 (fun _ t => trapIs t cIllegal 4 0xFFFFFFFF) && runs (.mspmm bad) always sX none0 (fun _ t => trapIs t cIllegal 4 0xFFFFFFFF)) =
    true := by decide +kernel

def mreq (op : MOp) (tiles : BitVec 16) (src : SMap Word) : MReq :=
  { id := 8, gid := 1, ctx := 5, core := 33, slot := 0, prio := 0, sup := false, op := op, fmt := 0, sat := false, tiles := tiles, rows := 3,
    resvA := some 2, resvB := none, ofs := 0, e := 0, src := src, dst := 20, bar := none, flag := none, entry := 8, tag := none,
    eligible := some 0, urgent := false, granted := true, arrays := [0], pc := 0x1080, pos := 0, mask := 0xFFFFFFFF }

/-- A granted request completes. -/
def completes (r : MReq) (p : State → Bool) : Bool :=
  let s := { sX with bays := [(8, { bayX with reqs := [r] })] }
  ((s.bayAt 8).reqs.find? (fun x => x.id == 8 && x.granted) == some r) && nextIs (exec (.matrixRequestComplete 8 8) s) (fun t =>
    (t.bayAt 8).reqs == [] && (Map.find t.groups 1).any (fun g => g.ocMat == 0) && p t)

/-- TileEffects: the sum 1.0 + 1.0 × 2.0 is 3.0 in row 0, and row 1 takes 1.0 × 2.0. -/
theorem test_tile_effects :
    (let tile (t : State) (u m n : Nat) : Word := (t.coreAt 33).tile u m n
     completes (mreq .zero 4 []) (fun t => tile t 2 0 0 == 0 && tile t 2 2 1 == 9) &&
     completes (mreq .fill 8 [(33, 5)]) (fun t => tile t 3 1 1 == 5 && (t.coreAt 33).acclive == 0xC && tile t 2 0 0 == 0x3F800000) &&
     completes (mreq .bcast 8 [(1, 5)]) (fun t => tile t 3 1 0 == 5 && tile t 3 1 31 == 5 && tile t 3 0 0 == 0) &&
     completes (mreq .alloc 5 []) (fun t => (t.coreAt 33).acclive == 5 && tile t 2 2 1 == 0) &&
     completes (mreq .free 4 []) (fun t => (t.coreAt 33).acclive == 0) &&
     completes (mreq .mma 4 ((List.range 32).map (fun n => (n, 0x4000)))) (fun t => tile t 2 0 0 == 0x40400000 && tile t 2 1 31 == 0x40000000 &&
       tile t 2 2 1 == 9 && tile t 2 2 0 == 0)) = true := by decide +kernel

/-- TileEffects: MSPMM with one slot a row adds 1.0 × 2.0; MBYPASS writes 1.0 as 0x3F80 at its row and column, and a tiny element
becomes 0 with its flags. -/
theorem test_sparse_and_bypass :
    (let src : SMap Word := (List.range 32).map (fun n => (n, 0x4000))
     completes { mreq .spmm 4 src with e := 1 } (fun t => (t.coreAt 33).tile 2 0 0 == 0x40400000 && (t.coreAt 33).tile 2 1 31 == 0x40000000) &&
     completes { mreq .bypass 4 [] with rows := 0xFFFFFFFF } (fun t => (t.coreAt 33).tile 2 0 0 == 0x3F800000 &&
       Map.get 0 (t.bayAt 8).buf (bypassByte bayX (mreq .bypass 4 []) 0 0 1) == 0x3F && Map.get 0 (t.bayAt 8).buf 129 == 0 &&
       (Map.find t.groups 1).any (fun g => g.fpf != 0))) = true := by decide +kernel

/-- TileEffects: one group supplies a whole gang, and the member with rows takes the product; the MMA.Q that completes a gang of
another format ends it with GERR. -/
theorem test_gangs :
    (let q (n id : Nat) (rows : Mask) : MReq := { mreq .gang 4 ((List.range 32).map (fun n => (n, 0x4000))) with id := id, rows := rows, tag := some (5, n, 0) }
     let b := { bayX with reqs := [q 0 8 3, q 1 9 0, { q 2 10 0 with tiles := 8 }, { q 3 11 0 with tiles := 8 }], gangs := 1 }
     let s := { sX with bays := [(8, b)] }
     (b.gangOf (q 0 8 3)).length == 4 &&
     nextIs (exec (.matrixRequestComplete 8 8) s) (fun t => (t.bayAt 8).reqs == [] && (t.coreAt 33).tile 2 0 0 == 0x40400000 &&
       (Map.find t.groups 1).any (fun g => g.ocMat == 0)) &&
     (let w (n id : Nat) : MReq := { q n id 3 with fmt := 1, granted := false, eligible := none }
      let s2 := { sX with bays := [(8, { bayX with reqs := [w 0 4, w 1 5, w 3 6], gangs := 1 })] }
      runs (.mmaQ (xf 2 6 16 .none 0 0 always)) always s2 (fun c => okIs (matHold s2 c (.mmaQ (xf 2 6 16 .none 0 0 always))) (fun _ => true))
        (fun _ t => (t.bayAt 8).reqs == [] && t.cores == s2.cores && (Map.find t.groups 1).any (fun g => g.gerr == 1 && g.ocMat == 0)))) = true := by
  decide +kernel

/-- TileEffects: two rows credit two units of rows and complete the phase; a name outside team memory leaves a completion origin. -/
theorem test_matrix_credit :
    (let tm (o : BarObj) : SMap Team := [(2, { tA with mem := Memory.store [] 0x40 o.bytes, tags := [1] })]
     let s (o : BarObj) (bar : DWord) : State := { sX with teams := tm o, bays := [(8, { bayX with reqs := [{ mreq .zero 4 [] with bar := some bar }] })] }
     let o : BarObj := ⟨4, 0, 0, 2, 1, 130⟩
     rowsWritten (mreq .zero 4 []) == 2 && barValid (s o 0x40) (.team 2 0x40) &&
     nextIs (exec (.matrixRequestComplete 8 8) (s o 0x40)) (fun t => barRd t (.team 2 0x40) == ⟨5, 0, 0, 2, 1, 130⟩) &&
     nextIs (exec (.matrixRequestComplete 8 8) (s { o with kind := 129 } 0x40)) (fun t => (barRd t (.team 2 0x40)).phase == 4 + 128) &&
     nextIs (exec (.matrixRequestComplete 8 8) (s o 0x400000)) (fun t => t.teams == tm o &&
       (t.coreAt 33).trapq.any (fun x => x.gid == 1 && x.cause == cPerm && x.detail == 6 && x.kind == 2 && x.ref == 8))) = true := by decide +kernel

theorem test_grants :
    (let r := { mreq .zero 4 [] with granted := false }
     let s := { sX with bays := [(8, { bayX with reqs := [r] })], clk := 10240 }
     (s.bayAt 8).first (s.clk / 10) == some r &&
     nextIs (exec (.matrixGrant 8) s) (fun t => (t.bayAt 8).reqs.any (fun q => q.id == 8 && q.granted && q.arrays.length == min 4 r.needs)) &&
     nextIs (exec (.matrixRequestUrgent 8 8) s) (fun t => (t.bayAt 8).reqs == [{ r with urgent := true }])) = true := by decide +kernel

/-- TileEffects: a granted MDRAIN.Z reads its rows and zeroes them; a completed MDRAIN writes what it read. -/
theorem test_drains :
    (let r := { mreq .drainz 4 [] with granted := false }
     let ent (outs : List RegWrite) : Entry := { entA (.mdrain (xf 20 2 0 .x 1 0 always)) 0 0 0 with op := .result, flag := none, addr := [], outs := outs }
     let s (r : MReq) (outs : List RegWrite) : State :=
       { sX with groups := [(1, { gX with entries := [ent outs] })], bays := [(8, { bayX with reqs := [r] })], clk := 10240 }
     let done := { r with granted := true, arrays := [0] }
     let u := s done (drainOuts coreX r)
     ((s r []).bayAt 8).first 1024 == some r &&
     nextIs (exec (.matrixGrant 8) (s r [])) (fun t => (t.bayAt 8).reqs.any (fun q => q.id == 8 && q.granted) &&
       (t.coreAt 33).tile 2 0 0 == 0 && (t.coreAt 33).tile 2 2 1 == 9 &&
       (Map.find t.groups 1).any (fun g => g.entries == [ent (drainOuts coreX r)])) &&
     ((u.bayAt 8).reqs.find? (fun x => x.id == 8 && x.granted) == some done) && gX.raced == [] &&
     nextIs (exec (.matrixRequestComplete 8 8) u) (fun t => (t.bayAt 8).reqs == [] &&
       (Map.find t.groups 1).any (fun g => Map.get 0 g.v (32 * 20) == 0x3F800000 && Map.get 0 g.v (32 * 21 + 2) == 0))) = true := by decide +kernel

theorem test_reservations :
    (let q (pair : BitVec 6) (fs : FlagSel) : EFmt := ef 0 0 0 pair 0 false .mat fs 0 0 always
     let full := { sX with bays := [(8, { bayX with resv := (List.range 64).map (fun k => (k, { ctx := 5, w0 := 0, w1 := 0, free := false })) })] }
     let busy := { sX with bays := [(8, { bayX with reqs := [mreq .release 0 []] })] }
     runs (.mres (q 8 .x)) always sX (fun c => mresOk (c.pair0 (q 8 .x)) (c.pair1 (q 8 .x)) && !c.g.holds c.sp.word (.mres (q 8 .x)))
       (fun _ t => (Map.find (t.bayAt 8).resv 0).any (fun r => mrecOf r.w0 r.w1 == ⟨65, 64, 7, 0, 64, 0, 0, 0⟩) &&
         entry1 t (fun _ e => e.outs == [.s 8 0x8000400700400041, .s 9 0])) &&
     runs (.mres (q 8 .x)) always full (fun c => mresOk (c.pair0 (q 8 .x)) (c.pair1 (q 8 .x)))
       (fun _ t => t.bays == full.bays && entry1 t (fun _ e => e.outs == [.s 8 0x0000400700400000, .s 9 0])) &&
     runs (.mres (q 10 .x)) always sX (fun c => !mresOk (c.pair0 (q 10 .x)) (c.pair1 (q 10 .x))) (fun _ t => trapIs t cIllegal 4 0xFFFFFFFF) &&
     runs (.mrel (q 4 .none)) always sX (fun c => okIs (c.record sX 4) (fun _ => true)) (fun c t => asked t (fun r => r.op == .release && r.resvA == some 2) &&
       (t.bayAt 8).current 5 (c.pair0 (q 4 .none)) (c.pair1 (q 4 .none)) == none) &&
     runs (.mstat (ef 9 0 0 0 0 false .mat .x 0 0 always)) always sX (fun c => !c.g.holds c.sp.word (.mrel (q 4 .none)))
       (fun _ t => entry1 t (fun _ e => e.outs == [.s 9 (64 + 63 * 2 ^ 7 + 32703 * 2 ^ 14 + 4 * 2 ^ 32 + 2 ^ 48)])) &&
     nextIs (exec (.mrelRelease 8 8) busy) (fun t => (t.bayAt 8).resv == [] && (t.bayAt 8).gens == [(2, 1)] && (t.bayAt 8).reqs == [])) = true := by
  decide +kernel

/-- Reservations: the guard in no lane; a release waits while a request names the reservation. -/
theorem test_reservations_wait :
    (let q (pair : BitVec 6) (fs : FlagSel) : EFmt := ef 0 0 0 pair 0 false .mat fs 0 0 never
     let busy := { sX with bays := [(8, { bayX with reqs := [mreq .release 0 [], { mreq .mma 4 [] with id := 9 }] })] }
     passes sX (.mres (q 8 .x)) && passes sX (.mrel (q 4 .none)) && passes sX (.mstat (q 0 .x)) &&
     ((busy.bayAt 8).reqs.find? (fun x => x.id == 8 && x.op == .release)).isSome &&
     nextIs (exec (.mrelRelease 8 8) busy) (fun t => t == busy)) = true := by decide +kernel
/-! ### Copies and triggered commands (R269 to R282, R348 to R355) -/

/-- s4 and s5 load 64 bytes from HBM to team memory; s6 and s7 are no pair; s8 and s9 name rows of 8 bytes to 0x100, s12 and s13 rows
of 512 bytes, s14 and s15 rows of 6; s16 and s17 an extended record at 0x400; s20 is a threshold, s21 the handle of a command. -/
def gC : Group :=
  { gA with s := [(4, 0x1000000040000200), (5, 0x4000000080), (6, 0x3000000000000000), (8, 0x40000000), (9, 0x1000008),
                  (12, 0x40000000), (13, 0x200), (14, 0x40000000), (15, 6), (16, 0x2000000040000400), (20, 100), (21, 0x10003)],
            v := vOf ((List.range 32).map (fun l => (11, l, 3 + BitVec.ofNat 32 l))), p := [(1, 6)] }

/-- The state after a step. -/
def after (i : Instr) (s : State) : State := match exec i s with | .next t => t | _ => State.reset

/-- The one operation that the step left at the engine of core 33. -/
def copying (t : State) (cls : OcClass) (p : CopyOp → Bool) : Bool :=
  match (t.coreAt 33).ops with
  | [o] => o.id == 10 && o.cls == cls && !o.accepted && (Map.find t.groups 1).any (fun g => g.oc cls == 1) && at0 t 0x108C none && p o
  | _ => false

def cf (pair : BitVec 6) (cls : OcClass) (gd : Guard) : EFmt := ef 30 11 0 pair 0 false cls .none 0 0 gd

theorem test_copies_issue :
    (let s := sM gC
     let none1 (i : Instr) (f : EFmt) : Bool := runs i never s (fun c => c.on == 0) (fun _ t => at0 t 0x108C none && (t.coreAt 33).ops == []) &&
       f.r.g == never
     let w := cf 0 .copy always
     let busy := sM { gC with ocCopy := 3 }
     let th := xf 30 11 0 .none 0 16 always
     let sTh := { sX with groups := [(1, { gX with th := [(0, 0x70000)], thType := [(0, 1)] })] }
     none1 (.cpyt (cf 4 .copy never)) (cf 4 .copy never) && none1 (.gath (cf 8 .gath never)) (cf 8 .gath never) &&
     none1 (.scat (cf 8 .gath never)) (cf 8 .gath never) && none1 (.gathTh (cf 8 .gath never)) (cf 8 .gath never) &&
     runs (.cpyt (cf 4 .copy always)) always s (fun c => shapeOk (c.pair0 (cf 4 .copy always)) (c.pair1 (cf 4 .copy always)) .copy &&
         linearFits s c.g (c.pair0 (cf 4 .copy always)) (c.pair1 (cf 4 .copy always)))
       (fun _ t => copying t .copy (fun o => o.word1 == 0x4000000080)) &&
     runs (.cpyt (cf 6 .copy always)) always s (fun c => !shapeOk (c.pair0 (cf 6 .copy always)) (c.pair1 (cf 6 .copy always)) .copy)
       (fun _ t => trapIs t cIllegal 4 0xFFFFFFFF) &&
     runs (.gath (cf 8 .gath ⟨1, false⟩)) ⟨1, false⟩ s (fun c => rowShapeOk (c.pair0 (cf 8 .gath always)) (c.pair1 (cf 8 .gath always)))
       (fun _ t => copying t .gath (fun o => o.idx == [(1, 4), (2, 5)])) &&
     runs (.scat (cf 8 .gath ⟨1, false⟩)) ⟨1, false⟩ s (fun c => rowShapeOk (c.pair0 (cf 8 .gath always)) (c.pair1 (cf 8 .gath always)))
       (fun _ t => copying t .gath (fun o => o.idx == [(1, 4), (2, 5)])) &&
     runs (.gath (cf 12 .gath always)) always s (fun c => rowShapeOk (c.pair0 (cf 12 .gath always)) (c.pair1 (cf 12 .gath always)))
       (fun _ t => trapIs t cPerm 4 0xFFFFFF00) &&
     runs (.scat (cf 14 .gath always)) always s (fun c => !rowShapeOk (c.pair0 (cf 14 .gath always)) (c.pair1 (cf 14 .gath always)))
       (fun _ t => trapIs t cIllegal 4 0xFFFFFFFF) &&
     runs (.gathTh th) always sTh (fun c => okIs (c.record sTh 4) (fun a => a.fmt == 7 && a.blk == 0 && decide (16 * 4 ≤ a.rstr)))
       (fun _ t => copying t .gath (fun o => o.idx.length == 32)) &&
     runs (.waitcnt { w with imm := 3 }) always busy (fun c => decide (c.g.oc .copy ≤ 3)) (fun _ t => at0 t 0x108C none &&
       (Map.find t.groups 1).any (fun g => g.splits.all (fun p => p.2.wait == .none))) &&
     runs (.waitcnt { w with imm := 0x102 }) always busy (fun c => decide (2 < c.g.oc .copy)) (fun _ t =>
       (Map.find t.groups 1).any (fun g => g.splits.all (fun p => p.2.wait == .count .copy 2)))) = true := by decide +kernel

/-- The load of s4 and s5 at the engine, with the bytes 1 to 64 at 0x200; accepted; landed. -/
def sC1 : State := after (.cpyt (cf 4 .copy always)) { sM gC with mem := Memory.store pages 0x200 ((List.range 64).map (fun k => BitVec.ofNat 8 (k + 1))) }
def sC2 : State := after (.copyAccept 33 10 []) sC1
def sC3 : State := after (.copyLineLanded 33 10 0 64 []) sC2

def opIs (s : State) (p : CopyOp → Bool) : Bool := ((s.coreAt 33).findOp 10).any (fun o => !o.held && !o.stopped && !o.abandon && !o.finished && p o)

theorem test_copy_engine :
    (opIs sC1 (fun o => !o.accepted && bits o.word0 63 60 == 1 && !bit o.word0 56) &&
     opIs sC2 (fun o => o.accepted && o.rows == [(0x40000200, 0x80)] && o.dstLen == 64 && o.bar == none && o.dstSps == [.team 2]) &&
     opIs sC2 (fun o => o.pieceOk sC2 33 0 64 && (Map.find sC2.groups 1).any (fun g =>
       okIs (sourceRead sC2 g 33 o 0x40000200 64) (fun x => x.1.length == 64))) &&
     (Map.find sC3.teams 2).any (fun x => x.mem.load 0x7F 4 == [0, 1, 2, 3] && x.mem.load 0xBE 3 == [63, 64, 0] && x.mem.length == 64) &&
     opIs sC3 (fun o => o.landed == [(0, 64)] && o.allLanded) &&
     nextIs (exec (.copyComplete 33 10) sC3) (fun t => (t.coreAt 33).ops == [] && (Map.find t.groups 1).any (fun g => g.oc .copy == 0))) =
    true := by decide +kernel

/-- A 64-byte record of a sum of four I32 elements over two devices of CGID 9, from 0x100 to 0x200 of team memory. -/
def collRec : List Byte :=
  leBytes 2 3 ++ [0, 0, 1, 0, 0, 1] ++ leBytes 8 0x100 ++ leBytes 8 0x200 ++ leBytes 4 4 ++ leBytes 2 9 ++ leBytes 2 0 ++ leBytes 2 2 ++
    leBytes 2 1 ++ leBytes 2 1 ++ List.replicate 26 0

/-- The collective waits on its CGID at the engine; the device is rank 0 of job 7. -/
def sColl1 : State :=
  let s := after (.cpyt (cf 16 .coll always)) { sM gC with mem := Memory.store pages 0x400 collRec,
                                                           ctxs := [(5, { ctxA with job := some ⟨7, [0, 1], 0⟩, cgSeq := [(9, 4)] })] }
  modOp s 33 10 (fun o => { o with coll := some (waitingColl 9) })

theorem test_collectives :
    (let m : CollMsg := { job := 7, cgid := 9, k := 4, member := 1, src := 1, mcount := 1, fmtop := 0, mark := 0, tag := 6, body := .header (hdrOf collRec) }
     opIs sColl1 (fun o => !cgidBehind sColl1 o 9 && (Map.find sColl1.groups 1).any (fun g => okIs (recordOf sColl1 33 g o) (fun x =>
       x.1 == collRec && collRecordOk x.1 0 (teamSize x.2 g)))) &&
     nextIs (exec (.collectiveAccept 33 10) sColl1) (fun t => opIs t (fun o => o.accepted && o.coll.any (fun c => c.begun && c.k == 4 &&
         c.members == [0, 1] && c.me == 0)) && t.out.any (fun o => match o with
         | .coll p x => p == 1 && x.cgid == 9 && x.k == 4 && x.member == 0 && x.body == .header (hdrOf collRec) &&
             (Map.find t.fabReqs x.tag).any (fun q => q.posted && q.copy == some 10)
         | _ => false) &&
       (Map.find t.ctxs 5).any (fun x => Map.get 0 x.cgSeq 9 == 5)) &&
     ctxOfJob sColl1 8 == none && nextIs (exec (.collectiveStep { m with job := 8 }) sColl1) (fun t => t.fabErrs == sColl1.fabErrs + 1 && t.collIn == []) &&
     ctxOfJob sColl1 7 == some 5 && !stepHooked sColl1 m && !stepStale sColl1 m && !jobClosed sColl1 7 &&
     nextIs (exec (.collectiveStep m) sColl1) (fun t => t.collIn == [m] && t.out.contains (.ack 1 6)) &&
     (let shut := { sColl1 with ctxs := sColl1.ctxs.map (fun x => (x.1, { x.2 with lateClosed := true })) }
      jobClosed shut 7 && nextIs (exec (.collectiveStep m) shut) (fun t => t.collIn == [] &&
        t.out.any (fun o => match o with | .nack 1 6 3 _ => true | _ => false))) &&
     (let past : CollMsg := { m with k := 3 }
      stepStale sColl1 past && nextIs (exec (.collectiveStep past) sColl1) (fun t => t.collIn == [] && t.out.contains (.ack 1 6)))) = true := by decide +kernel

/-- A command armed by TRIG of the load, at index 0 with generation 1. -/
def sT1 : State := after (.trig (cf 4 .copy always)) (sM { gC with s := Map.set 0 gC.s 0 100 })

theorem test_triggers :
    (let s := sM gC
     let f := ef 30 0 0 4 0 false .copy .none 0 0 always
     let full := { s with triggers := (List.range 64).flatMap (fun k => sT1.triggers.map (fun t => { t with slot := k })) }
     let can (s : State) (a : BitVec 8) (n : DWord) : Bool := runs (.trigcan (ef 30 a 0 0 0 false .copy .none 0 0 always)) always s
       (fun c => dueTriggers s == [] && !c.g.holds c.sp.word (.trigcan f) && c.on != 0)
       (fun _ t => (Map.find t.groups 1).any (fun g => Map.get 0 g.s 30 == n))
     let due := { sT1 with triggers := sT1.triggers.map (fun t => { t with due := true }) }
     let armed := { sT1 with gtc := 99, gtcf := 0x80000000 }
     runs (.trig f) always s (fun c => dueTriggers s == [] && shapeOk (c.pair0 f) (c.pair1 f) .copy && linearFits s c.g (c.pair0 f) (c.pair1 f) &&
         lowestFree (s.triggers.map Trig.slot) 1024 0 == some 0)
       (fun _ t => t.triggers.map (fun t => (t.slot, t.gen, t.core, t.due)) == [(0, 1, 33, false)] &&
         (Map.find t.groups 1).any (fun g => Map.get 0 g.s 30 == 0x10000 && g.oc .copy == 1) && (t.coreAt 33).ops == []) &&
     runs (.trig f) always full (fun c => dueTriggers full == [] && decide (64 ≤ (full.triggers.filter (fun t => t.op.ctx == c.g.ctx)).length))
       (fun _ t => t.triggers == full.triggers && (Map.find t.groups 1).any (fun g => Map.get 0 g.s 30 == 0xFFFFFFFF && g.oc .copy == 0)) &&
     sT1.triggers.map (fun t => t.time) == [100] &&
     can { sT1 with groups := [(1, { gC with s := [(0, 0x10000)], ocCopy := 1 })] } 0 0 &&
     can { s with fired := [(3, 1, 5)] } 21 1 && can s 21 2 &&
     nextIs (exec .gtcUpdate armed) (fun t => t.gtc == 100 && t.gtcf == 0 && t.tick == 1 && t.triggers.all Trig.due && t.triggers.length == 1) &&
     nextIs (exec (.ptpMessage 0 (-7)) { s with ptpDomain := 0 }) (fun t => t.slew == -7) &&
     nextIs (exec (.ptpMessage 0 500000) { s with ptpDomain := 0 }) (fun t => t.slew == 429496) &&
     nextIs (exec (.ptpMessage 1 5) { s with ptpDomain := 0, slew := 3 }) (fun t => t.slew == 3) &&
     (dueTriggers due).length == 1 && nextIs (exec .triggerFire due) (fun t => t.triggers == [] && t.fired == [(0, 1, 5)] &&
       (t.coreAt 33).ops.length == 1)) = true := by decide +kernel

/-- CopiesIssue and TriggeredCommands: a collective copy issues while its CGID is free and its record can be read, TRIG takes one by
the same record, the guard in no lane passes on, and an earlier due command is handed over first. -/
theorem test_collective_issue :
    (let f := cf 16 .coll always
     let s : State := { sM gC with mem := Memory.store pages 0x400 collRec, ctxs := [(5, { ctxA with job := some ⟨7, [0, 1], 0⟩, cgSeq := [(9, 4)] })] }
     let o (c : Iss) : CopyOp := { c.copyOp f (.trig f) f.cc with window := c.g.rdS c.fc f.trg.toNat, stamp := s.nextId }
     let due := { sT1 with triggers := sT1.triggers.map (fun t => { t with due := true }), groups := (sM gC).groups, cur := some (1, 0) }
     let g := ef 30 0 0 4 0 false .copy .none 0 0 always
     runs (.cpyt f) always s (fun c => shapeOk (c.pair0 f) (c.pair1 f) .coll && linearFits s c.g (c.pair0 f) (c.pair1 f) &&
         !cgidBusy s 5 ((peekRecord s c.g (BitVec.ofNat 64 (bits (c.pair0 f) 55 0))).map (fun r => leAt r 0x1C 2)) && !c.g.holds c.sp.word (.cpyt f))
       (fun _ t => copying t .coll (fun o => o.coll == some (waitingColl 9))) &&
     runs (.trig f) always s (fun c => bits (c.pair0 f) 63 60 == 2 &&
         okIs (copyRead s c.g 33 (o c) (bits (c.pair0 f) 55 0) 64) (fun x => x.1 == collRec && trigRecordOk x.2 33 c.g (o c) x.1 &&
           Map.find x.2.groups c.gid == some c.g))
       (fun _ t => t.triggers.map (fun t => (t.slot, t.op.known == collRec)) == [(0, true)]) &&
     passes s (.trig { f with r := { f.r with g := never } }) && passes s (.trigcan { f with r := { f.r with g := never } }) &&
     passes s (.waitcnt { f with r := { f.r with g := never } }) &&
     runs (.trig g) always due (fun _ => (dueTriggers due).length == 1) (fun _ t => (t.coreAt 33).ops.length == 1 && t.fired == [(0, 1, 5)] &&
       t.triggers.map (fun t => (t.slot, t.gen)) == [(0, 2)])) = true := by decide +kernel
/-! ### Traps, moves and ageing (R72, R85, R96, R289, R382 to R391, R412) -/

def ctxT : Ctx := { ctxA with tvctl := 1, tventry := 0x1000, tvroot := 0x100000, tvstack := 0x50000000 }
def sTr (g : Group) : State := { sM g with ctxs := [(5, ctxT)] }
def trF (a : BitVec 8) (fn : BitVec 4) (imm : Word) (gd : Guard) : SFmt := ⟨⟨gd, 30, a, 0, 0⟩, .i64, fn, .vec, .vec, .vec, imm⟩

theorem test_trap_entry :
    (let g := { gA with s := [(4, 0x1122334455667788)], p := [(1, 0x80000002)] }
     let s := sTr g
     let r : Raiser := ⟨1, 0, 0x1080, 0xFFFFFFFF, 0, 0⟩
     let t : Trap := { cause := cSoft, lanes := 0x80000002, aux := 7 }
     let parkedOf (s : State) : Option (Nat × Nat × Nat) := (Map.find (raiseTrap s r t).ctxs 5).bind Ctx.parked
     let hnd := sTr { g with handler := some 1, sup := true }
     let nobody := s.coreAt 33
     runs (.trap (trF 0 0 0x107 ⟨1, false⟩)) ⟨1, false⟩ s (fun c => c.on == 0x80000002) (fun _ t => trapIs t cSoft 0 0x80000002 &&
       (t.coreAt 33).trapq.map (fun o => (o.lane, o.aux, o.pc, o.kind, o.id)) == [(1, 7, 0x1080, 0, 10), (31, 7, 0x1080, 0, 11)] &&
       (Map.find t.groups 1).any (fun h => h.openOrg == [10, 11] && { h with openOrg := [] } == g) && t.ctxs == s.ctxs) &&
     runs (.syscall (trF 4 0 0x1FFFF always)) always s (fun _ => true) (fun _ t =>
       (t.coreAt 33).trapq.map (fun o => (o.lane, o.aux, o.detail, o.addr, o.mask)) == [(0, 0xFFFF, 1, 0x1122334455667788, 0xFFFFFFFF)]) &&
     runs (.trap (trF 0 0 1 never)) never s (fun c => c.on == 0) (fun _ t => at0 t 0x108C none && t.cores == s.cores) &&
     runs (.syscall (trF 0 0 1 never)) never s (fun c => c.on == 0) (fun _ t => at0 t 0x108C none && t.cores == s.cores) &&
     trapsOn s 5 && parkedOf s == none && !trapsOn (sM g) 5 && parkedOf (sM g) == some (cSoft, 0, 0x1080) &&
     parkedOf hnd == some (cSoft, 0, 0x1080) && (raiseTrap hnd r t).groups == hnd.groups && (raiseTrap hnd r t).coreAt 33 == nobody) = true := by
  decide +kernel

/-- Two origins of group 1 wait on core 33, 64 clocks old; a handler group of slot 2 has them. -/
def sH1 : State := { after (.trap (trF 0 0 7 ⟨1, false⟩)) (sTr { gA with p := [(1, 6)] }) with clk := 640 }
def sH2 : State := { after (.handlerGroupStart 33 2) sH1 with cur := some (12, 0) }
/-- Both are resolved KILL by TRAPRET. -/
def sH3 : State := after (.trapret (trF 0 2 0 always)) sH2

theorem test_handler_groups :
    (let f := trF 0 2 0 always
     handlerFree sH1 33 2 && ((queueHeads (sH1.coreAt 33).trapq).find? (fun h => queueDue sH1 33 (sH1.coreAt 33).trapq h)).any (fun h => h.ctx == 5) &&
     (Map.find sH2.groups 12).any (fun g => g.handler == some 2 && g.sup && g.core == 33 && g.lanes.map (fun o => (o.id, o.lane)) == [(10, 1), (11, 2)] &&
       (Map.find g.splits 0).any (fun sp => sp.pc == 0x1000 && sp.mask == 3) && Map.get 0 g.s 63 == 0x5021C000) &&
     (sH2.coreAt 33).trapq == [] && sH2.mem == pages &&
     runs (.trapret f) always sH2 (fun c => c.on == 3 && c.g.sup && c.g.lanes.all (fun o => o.remote == none) && decide ((c.g.lanes.map Origin.id).Nodup))
       (fun _ t => (Map.find t.groups 12).any (fun g => g.exited == 0xFFFFFFFF && g.served == 3) &&
         (Map.find t.groups 1).any (fun g => g.openOrg == [] && g.resolved.map (fun r => (r.origin.id, r.mode, r.regs.length)) == [(10, 2, 16), (11, 2, 16)])) &&
     runs (.trapret f) always (sTr gA) (fun c => !c.g.sup) (fun _ t => trapIs t cIllegal 0x0A 0xFFFFFFFF) &&
     runs (.trapret f) always (sTr { gA with sup := true }) (fun c => c.g.sup) (fun _ t => trapIs t cIllegal 4 0xFFFFFFFF) &&
     (Map.find (applyResolutions sH3 1).groups 1).any (fun g => g.resolved == [] && g.openOrg == [] && g.exited == 6 &&
       (Map.find g.splits 0).any (fun sp => sp.mask == 0xFFFFFFF9))) = true := by decide +kernel

/-- HandlerGroups: a handler group whose lane 0 serves a peer's request answers it with a refusal under any mode but REPLAY. -/
theorem test_handler_remote :
    (let p : Packet := { (default : Packet) with job := 77, src := 1, tag := 9 }
     let o := (sH1.coreAt 33).trapq.map (fun o => { o with remote := some 1 })
     let s := { sH2 with
       groups := sH2.groups.map (fun g => (g.1, if g.1 == 12 then { g.2 with lanes := o, p := [(1, 1)] } else g.2)),
       remotes := [{ pkt := p, ctx := 5, origin := 10, since := 0, cause := cTrans, detail := 1 }] }
     runs (.trapret (trF 0 2 0 ⟨1, false⟩)) ⟨1, false⟩ s (fun c => c.on == laneBit 0 && c.g.sup && c.g.handler.isSome && !c.g.served.getLsbD 0 &&
         (c.g.lanes[0]?).any (fun o => o.id == 10 && o.remote.isSome))
       (fun _ t => t.out == (s.nack p (nackDetail cTrans) cTrans 1).out && t.out.length == 1 && t.remotes == [] &&
         (Map.find t.groups 12).any (fun g => g.exited.getLsbD 0)) &&
     runs (.migrate (trF 4 0 0 never)) never (sM gA) (fun c => c.on == 0) (fun _ t => at0 t 0x108C none)) = true := by decide +kernel

/-- The team's quadrant accepts; its context has a partition of that quadrant. -/
def sMig (g : Group) (t : Team) : State :=
  { sM g with teams := [(2, t)], quads := [(2, { Quad.reset with accept := 0xFFFF })], svclevel := 1, parts := [(0, ⟨[2], 0, 0⟩)] }

theorem test_team_moves :
    (let f := trF 4 0 0 always
     let toward (core : DWord) : State := sMig { gA with s := [(4, core)] } tA
     let st (core : DWord) (n : Option Nat) : Bool := migrateStatus (toward core) 2 tA core == n
     let two := { toward 34 with teams := [(2, tA), (3, { tA with core := 34 })] }
     let waits := sMig { gA with v := vOf [(9, 3, 77)], stopped := true, splits := gA.splits.map (fun x => (0, { x.2 with wait := .migrate })) }
       { tA with mem := [(5, 6)], migrate := [⟨1, 0, 30, 34⟩] }
     st 48 (some 1) && st 33 (some 0) && st 34 none && st (34 + 256) (some 1) && migrateStatus two 2 tA 34 == some 2 &&
     runs (.migrate f) always (toward 48) (fun _ => true) (fun _ t => (Map.find t.groups 1).any (fun g => Map.get 0 g.s 30 == 1) && at0 t 0x108C none) &&
     runs (.migrate f) always (toward 34) (fun c => c.g.handler == none) (fun _ t => (Map.find t.groups 1).any (fun g => g.stopped &&
         g.splits.all (fun x => x.2.wait == .migrate)) && (Map.find t.teams 2).any (fun x => x.migrate == [⟨1, 0, 30, 34⟩])) &&
     (let mate := { gA with slot := 5, idx := 1 }
      let s2 := { toward 34 with groups := [(1, { gA with s := [(4, 34)] }), (2, mate), (3, { mate with team := 7 })] }
      runs (.migrate f) always s2 (fun c => c.gid == 1) (fun _ t => Map.find t.groups 2 == some { mate with stopped := true } &&
        Map.find t.groups 3 == some { mate with team := 7 } && issuable t { mate with stopped := true } == [])) &&
     (let late := sMig { gA with s := [(30, 9)], stopped := true, splits := gA.splits.map (fun x => (0, { x.2 with wait := .migrate })) } { tA with migrate := [⟨1, 0, 30, 33⟩] }
      nextIs (exec (.migrateMove 2) late) (fun t => Map.find t.teams 2 == some tA && (Map.find t.groups 1).any (fun g => !g.stopped && Map.get 0 g.s 30 == 0))) &&
     decide ((Map.keys waits.groups).Nodup) && teamQuiet waits 2 && waits.groups.all (fun g => g.2.saved.isNone) && (waits.coreAt 34).active.isNone &&
     (let (n, r, m) := teamNeeds (toward 34) 2 tA; fitsOn (toward 34) 5 34 n r m false) && migrateStatus waits 2 { tA with mem := [(5, 6)], migrate := [⟨1, 0, 30, 34⟩] } 34 == none &&
     nextIs (exec (.migrateMove 2) waits) (fun t => (Map.find t.teams 2).any (fun x => x.core == 34 && x.mem == [(5, 6)] && x.migrate == []) &&
       (Map.find t.groups 1).any (fun g => g.core == 34 && !g.stopped && Map.get 0 g.v 291 == 77 && Map.get 0 g.s 30 == 0))) = true := by
  decide +kernel

theorem test_fetch_and_age :
    (let s := sM gA
     let s1 := after (.fetchLine 1 0 true) s
     let old := { sM { gA with splits := gA.splits.map (fun x => (0, { x.2 with line := some (aloneLine 0x920090000000008000000000), pc := 0x1000 })) } with
       clk := 2560 }
     let two := { s with groups := (List.range 3).map (fun k => (k + 1, { gA with slot := k, ocCopy := 5 })), quads := [(2, { Quad.reset with level := 7 })] }
     okIs (peekLine s gA 0x1080 true) (fun x => (Map.find s1.groups 1).any (fun g => (Map.find g.splits 0).any (fun sp => sp.line == some x.1))) &&
     (issuable old ((Map.find old.groups 1).getD gA)) == [0] && nextIs (exec (.groupUrgent 1) old) (fun t => (Map.find t.groups 1).any Group.urgent) &&
     decide ((Map.keys two.groups).Nodup) && nextIs (exec (.throttleReselect 33 0) two) (fun t => Map.get [] (t.coreAt 33).allowed 0 == [1, 2] && t.groups == two.groups) &&
     levelAllows two 33 == 2 && two.groups.all (memoryBound two) && !memoryBound s (1, gA) &&
     (let r : RedEntry := { id := 0, gid := 1, key := [], addr := 0, fn := 0, ty := 0, wid := 0, data := 0, pc := 0, pos := 0, lane := 0, mask := 1, owner := .writer, scope := 4, faulted := false }
      memoryBound { s with barRed := [(.phys 0, 9, (List.range 5).map (fun k => { r with id := k }))] } (1, gA)) &&
     [(3, 0), (4, 1), (7, 1), (8, 2), (15, 2), (16, 3), (23, 3), (24, 4), (31, 4), (32, 5), (39, 5), (40, 6), (51, 6), (52, 7)].all (fun x =>
       nextIs (exec (.congestionWindow 2 x.1) { s with tick := 256 * 5 + 3 }) (fun t => (quadAt t 2).level == x.2 && nextIs (exec (.congestionWindow 2 60) t) (fun u => decide (u = t)))) &&
     nextIs (exec (.congestionWindow 2 60) { s with tick := 255 }) (fun t => (quadAt t 2).level == 0)) = true := by decide +kernel

/-! ### Placement, launches and peers (R28, R34 to R47, R146, R344 to R347, R438) -/

/-- Queue 3 of context 5, enabled, of 16 slots in HBM with 8 stacks; its record launches one cluster of two teams of one group. -/
def qL : LQueue := { LQueue.reset with lqbase := 0x40000800, lqctl := 0x50204, lqtail := 1, lqspill := 0x4000000C, lqspcnt := 8 }
def kL : Kernel := { nGroups := 1, logW := 3, gridH := 4, memSize := 4096, roles := [], budgets := [], entry := 0 }
def recL : List Byte := [1, 0, 0, 0, 1, 0, 0, 0, 0, 0, 0, 0, 2, 0, 0, 0, 0x77] ++ List.replicate 111 0
def sPl : State :=
  { sMig gA tA with groups := [], teams := [], ctxs := [(5, { ctxA with objs := [(1, ⟨0, 0x1000, 256, [kL], [], (0, 0), []⟩)] })], lqs := [(3, qL)],
                    mem := Memory.store pages 0x800 recL }

theorem test_placement :
    (let s1 := (Map.keys sPl.lqs).foldl prepQueue sPl
     (queuePlace s1 3).any (fun x => x.2.2.2.2.2.1 == [32, 33] && x.2.2.2.2.1 == 2) &&
     minBy (fun n => [8 - (s1.lqAt n).prio, (n + 63 - s1.lastQueue) % 64]) ((Map.keys s1.lqs).filter (fun n => (queuePlace s1 n).isSome)) == some 3 &&
     nextIs (exec .placeCluster sPl) (fun t => t.clusters.map (fun c => (c.2.names, c.2.teams.length, c.2.quad, c.2.index)) == [([32, 33], 2, 2, 0)] &&
       t.teams.map (fun x => (x.2.core, x.2.lcore, x.2.memSize, x.2.gridH, x.2.gridW)) == [(32, 0, 4096, 4, 8), (33, 1, 4096, 4, 8)] &&
       t.groups.map (fun g => (Map.find g.2.splits 0).map Split.pc) == [some 0x1000, some 0x1000] &&
       t.groups.map (fun g => (Map.get 0 g.2.s 0, Map.get 0 g.2.s 8, Map.get 0 g.2.s 63)) == [(0x77, 0, 0x40001000), (0x77, 0, 0x40002000)] &&
       (t.lqAt 3).lqhead == 1)) = true := by decide +kernel

theorem test_release :
    (let s := sM { gA with exiting := true }
     let l : Launch := ⟨3, 6, 5, 1, 0, 1, 1, [], none, false, [(0, 1, 1)], false⟩
     let bar := { sM gA with
       groups := [], teams := [], launches := [(4, { l with comp := some 0x80000040 })], tags := [paQ / 64],
       mem := pages ++ Memory.store [] paQ (BarObj.bytes ⟨4, 2, 0, 0, 0, 128⟩), lqs := [(3, { qL with lqdone := 6 })] }
     releasable s 1 { gA with exiting := true } && nextIs (exec (.groupExitRelease 1) s) (fun t => t.groups == [] && t.teams == []) &&
     nextIs (exec (.launchComplete 4) { bar with launches := [(4, l)] }) (fun t => t.launches == [] && (t.lqAt 3).lqdone == 7) &&
     nextIs (exec (.launchComplete 4) { bar with launches := [(4, l)], lqs := [(3, { qL with lqdone := 5 })] }) (fun t => (t.lqAt 3).lqdone == 5) &&
     recordBar bar 5 0x80000040 == some (.phys paQ) && barValid bar (.phys paQ) &&
     nextIs (exec (.launchComplete 4) bar) (fun t => t.launches == [] && barRd t (.phys paQ) == ⟨4, 2, 1, 0, 0, 128⟩)) = true := by decide +kernel

/-- LAUNCH's statuses with the queue in each state, and what it appends; its two lines here lie in two pages. -/
theorem test_launches :
    (let la : MFmt := mf 9 2 0 .b8 .far .x false 3 0 always
     let dev : LQueue := { qL with lqctl := 0x50604, lqtail := 17, lqhead := 2 }
     let st (q : LQueue) (n : DWord) (p : State → Bool) : Bool :=
       performs (.launch la) 0x40000400 0 0 (fun s => { s with lqs := [(3, q)], mem := Memory.store pages 0x400 recL }) (fun e t => e.outs == [.s 9 n] && p t)
     let kept (q : LQueue) (t : State) : Bool := t.lqAt 3 == q && t.mem.load 0x880 4 == [0, 0, 0, 0]
     st { dev with lqctl := 0x60604 } 4 (kept { dev with lqctl := 0x60604 }) && st { dev with lqctl := 0x50204 } 1 (kept { dev with lqctl := 0x50204 }) &&
     st { dev with lqctl := 0x50404 } 2 (kept { dev with lqctl := 0x50404 }) && st { dev with lqstat := 4 } 2 (kept { dev with lqstat := 4 }) &&
     st { dev with lqtail := 18 } 3 (kept { dev with lqtail := 18 }) &&
     performs (.launch la) 0x400 0 0 (fun s => { s with lqs := [(3, { dev with lqbase := 0x7FFFFF40 })], mem := Memory.store pages 0x400 recL })
       (fun e t => e.outs == [.s 9 0] && (t.lqAt 3).lqtail == 18 && t.mem.load 0x3FFFFFC0 17 == recL.take 17) &&
     nextIs (exec (.lqtailWrite 3 0x500000009) { sM gA with lqs := [(3, qL)] }) (fun t => (t.lqAt 3).lqtail == 9) &&
     nextIs (exec (.lqtailWrite 3 9) { sM gA with lqs := [(3, dev)] }) (fun t => t.lqAt 3 == dev) &&
     nextIs (exec (.lqstatErrClear 3) { sM gA with lqs := [(3, { qL with lqstat := 0x45 })] }) (fun t => (t.lqAt 3).lqstat == 0x41)) = true := by
  decide +kernel

/-- Launches: a ring slot at a peer: its first line is asked for, LQTAIL stays, and goes up when both lines are acknowledged. -/
theorem test_launch_peer_ring :
    (let la : MFmt := mf 9 2 0 .b8 .far .x false 3 0 always
     let q : LQueue := { qL with lqbase := 0x80200000, lqctl := 0x50604, lqtail := 17, lqhead := 2 }
     let prep (s : State) : State := { s with
       lqs := [(3, q)], ctxs := [(5, { ctxA with job := some ⟨4, [1, 2, 3, 4], 0⟩ })],
       mem := Memory.store (((pages.put 0x130009 2).put 0x13000A 3).put 0x130008 0x0F) 0x400 recL }
     let e := entA (.launch la) 0x40000400 0 0
     let half := { e with data := [(ringPart, BitVec.ofNat 128 (0x80200080 * 2 ^ 64 + 2))] }
     pending1 (prep (sE e)) e && q.slot == 0x80200080 && launchStatus q 5 == 0 && half.ring == some (q.slot, 2) &&
     nextIs (exec (.memoryAccessPerformed (.lane 1 8 1) 0) (prep (sE e))) (fun t => t.lqAt 3 == q &&
       (Map.find t.fabReqs 10).any (fun r => r.pkt.cls == 1 && r.pkt.dest == 3 && !r.posted && r.va == 0x80200080 &&
         r.pkt.be == BitVec.allOnes 64 && r.pkt.payload == lineOf (recL.take 64))) &&
     nextIs (exec (.memoryAccessPerformed (.lane 1 8 1) 0) (prep (sE half))) (fun t => (t.lqAt 3).lqtail == 18 && t.fabReqs == [] &&
       entry1 t (fun _ x => x.outs == [.s 9 0]))) = true := by decide +kernel

/-- Credential 9 is the supervisor of context 5, and any other than it and the owner's has no right there. -/
theorem sup_of (s : State) (ctx who : Nat) (x : Ctx) (h : Map.find s.ctxs ctx = some x) (hc : x.cred = who) : supOf s who ctx = true := by
  simp [supOf, h, hc]
theorem sup_not (s : State) (ctx who : Nat) (x : Ctx) (h : Map.find s.ctxs ctx = some x) (hc : x.cred ≠ who) (ho : who ≠ Config.ownerCred) :
    supOf s who ctx = false := by
  simp [supOf, h, hc, ho]

/-- Launches: LQCTL of queue 3 of context 5, by its supervisor and by another. -/
theorem lqctl_right (s : State) (q : Nat) (val : DWord) (who : Nat) (p : State → Bool) (hq : q < 64) (h : supOf s who (s.lqAt q).ctx = true)
    (hp : p (s.putLq q { s.lqAt q with lqctl := lqctlNew (s.lqAt q).lqctl val }) = true) : nextIs (exec (.lqctlWrite q ⟨val, who⟩) s) p = true := by
  show nextIs (execLqctlWrite q ⟨val, who⟩ s) p = true
  unfold execLqctlWrite
  rw [if_neg (by simp [ownsQueue, h, hq])]
  exact hp
def sLq (w : DWord) : State := { sM gA with lqs := [(3, { qL with lqctl := w })] }
theorem test_lqctl : nextIs (exec (.lqctlWrite 3 ⟨0xFFFFFFFFFFFFFFF0, 9⟩) (sLq 0x50004)) (fun t => (t.lqAt 3).lqctl == 0x3F07F0) = true :=
  lqctl_right _ _ _ _ _ (by decide) (sup_of _ 5 9 ctxA rfl rfl) (by decide +kernel)
theorem test_lqctl_fields : nextIs (exec (.lqctlWrite 3 ⟨0x50605, 9⟩) (sLq 0x50004)) (fun t => (t.lqAt 3).lqctl == 0x50605) = true :=
  lqctl_right _ _ _ _ _ (by decide) (sup_of _ 5 9 ctxA rfl rfl) (by decide +kernel)
theorem test_lqctl_enabled : nextIs (exec (.lqctlWrite 3 ⟨0x505F0, 9⟩) (sLq 0x50204)) (fun t => (t.lqAt 3).lqctl == 0x501E4) = true :=
  lqctl_right _ _ _ _ _ (by decide) (sup_of _ 5 9 ctxA rfl rfl) (by decide +kernel)
theorem test_witness_lqctl_refused : ∃ (s : State) (who : Nat) (c : Ctx), Map.find s.ctxs (s.lqAt 3).ctx = some c ∧ c.cred ≠ who ∧ who ≠ Config.ownerCred :=
  ⟨{ sLq 0x50004 with ctxs := [(5, { ctxA with cred := Config.ownerCred + 2 })] }, Config.ownerCred + 1, _, rfl, by simp, by simp⟩

def pkt (addr : DWord) (payload : Line) : Packet := { (default : Packet) with job := 77, src := 1, addr := addr, payload := payload, tag := 9 }
def bound : State :=
  { sM gA with ctxs := [(5, { ctxA with job := some ⟨77, [0, 1], 0⟩ })], mem := Memory.store pages 0x200 [5, 0, 0, 0, 6] }

theorem test_peers :
    (let p := pkt 0x40000200 0x44332211
     let x := { ctxA with job := some ⟨77, [0, 1], 0⟩ }
     let closed := { bound with ctxs := [(5, { x with lateClosed := true })] }
     let out (i : Instr) (s : State) (m : OutMsg) (q : State → Bool) : Bool := nextIs (exec i s) (fun t => t.out == [m] && q t)
     let reaches (a : Acc) : Bool := okIs (remoteXlate bound 5 0x40000200 a) (fun y => y.1 == 0x200 && y.2.1 != 0 && !y.2.2.1)
     hookFor bound { p with cls := 0 } 0 == none && ctxOfJob bound 77 == some 5 && reaches .r && reaches .w &&
     out (.remoteRead p) bound (.response 1 9 0x0600000005) (fun t => t.mem == bound.mem) &&
     out (.remoteWrite { p with be := 0xA }) bound (.ack 1 9) (fun t => t.mem.load 0x200 5 == [5, 0x22, 0, 0x44, 6]) &&
     out (.remoteAtomic { p with aop := 0, aty := 1, awid := 4, returning := true }) bound (.response 1 9 5)
       (fun t => t.mem.load 0x200 5 == [0x16, 0x22, 0x33, 0x44, 6]) &&
     out (.remoteAtomic { p with aop := 0, aty := 1, awid := 4 }) bound (.ack 1 9) (fun _ => true) &&
     ctxOfJob bound 78 == none && out (.remoteRead { p with job := 78 }) bound (.nack 1 9 4 ⟨0, 0, 0x40000200, 0, 0⟩) (fun _ => true) &&
     out (.remoteWrite { p with job := 78 }) bound (.nack 1 9 4 ⟨0, 0, 0x40000200, 0, 0⟩) (fun _ => true) && out (.remoteAtomic p) closed (.nack 1 9 3 ⟨0, 0, 0x40000200, 0, 0⟩) (fun _ => true)) =
    true := by decide +kernel

theorem test_answers :
    (let p := pkt 0x40000200 7
     let r : FabReq := { pkt := p, gid := 1, core := 33, entry := 0, lanes := 4, posted := true, fresh := true, seen := [], va := 0x40000208, copy := none, scribe := none, pc := 0x1080, pos := 0,
                         mask := 6, sent := 1000 }
     let s := { sM { gA with acks := 2 } with fabReqs := [(20, r)], tick := 4000999 }
     let waits := { bound with remotes := [⟨p, 5, 30, 1000, cPerm, 2⟩], tick := 2000999 }
     let late := { s with tick := 4001000 }
     nextIs (exec (.ackReceived 20) s) (fun t => t.fabReqs == [] && (Map.find t.groups 1).any (fun g => g.acks == 1)) &&
     nextIs (exec (.nackReceived 20 2) s) (fun t => t.fabReqs == [] && (Map.find t.groups 1).any (fun g => g.acks == 2 &&
       g.held.map (fun h => (h.pkt, h.va, h.detail, h.tag, h.lane, h.mask, h.raised)) == [(p, 0x40000208, 2, 20, 2, 6, false)])) &&
     nextIs (exec (.remoteRequestTimeout 20) s) (fun t => t == s) &&
     nextIs (exec (.remoteRequestTimeout 20) late) (fun t => (Map.find t.groups 1).any (fun g => g.held.map HeldWrite.detail == [3])) &&
     nextIs (exec (.remoteOriginTimeout 30) waits) (fun t => t == waits) &&
     nextIs (exec (.remoteOriginTimeout 30) { waits with tick := 2001000 }) (fun t => t.remotes == [] && t.out == [.nack 1 9 2 ⟨cPerm, 2, 0x40000200, 0, 0⟩])) = true := by
  decide +kernel

/-- Peers: a read of a poisoned word is a MACHINE_CHECK of the context; with every port down nothing arrives and nothing is sent. -/
theorem test_peer_corners :
    (let p := pkt 0x40000200 7
     let bad := { bound with poison := [0x81], ctxs := [(5, { ctxA with tvctl := 1, job := some ⟨77, [0, 1], 0⟩ })] }
     let off := { bound with ports := [(0, ⟨0, 1, 0⟩)] }
     ctxOfJob bad 77 == some 5 && lowestTeamCore bad 5 == some 33 && trapsOn bad 5 && presentIn bad 0x200 64 && poisoned bad.poison 0x200 64 &&
     nextIs (exec (.remoteRead p) bad) (fun t => t.machChk == bad.machChk + 1 && t.mem == bad.mem && t.out == [] &&
       (t.coreAt 33).trapq.any (fun o => o.cause == 14 && o.detail == 2 && o.remote == some 1 && o.ctx == 5)) &&
     !linked off && off.send (.ack 1 9) == off && [Instr.remoteRead p, .remoteWrite p, .remoteAtomic p, .ackReceived 9, .nackReceived 9 1].all (fun i =>
       nextIs (exec i off) (fun t => t == off))) = true := by decide +kernel

/-- A page of 2 MiB at 0x80200000 that is replicated from 0x40000000 on, under PROP 0. -/
def replPages (prop : Byte) : Memory := pages ++ [(0x130008, 0x4F + prop), (0x13000B, 0x40)]

/-- Peers: a device that is no rank of the job; late packets; a message window's unknown class; a write and an atomic in a
replicated page, which their answers wait on under PROP 0. -/
theorem test_peer_rules :
    (let p := pkt 0x80200040 0x44332211
     let x := { ctxA with job := some ⟨77, [0, 1], 0⟩ }
     let late := { bound with ctxs := [(5, { x with lateStart := true })] }
     let s (prop : Byte) : State := { bound with mem := replPages prop }
     let w : Packet := { p with be := 3 }
     let win (cls : DWord) : Packet := { p with addr := 0xFFFFFFFFFFFF0000 + cls * 0x1000 }
     let frame (t : State) (d : Nat) : List Byte := t.mem.load (0x40000040 + d * 0x200000) 2
     let is (i : Instr) (s : State) (q : State → Bool) : Bool := nextIs (exec i s) q
     is (.remoteRead { p with src := 5 }) bound (fun t => t.out == [.nack 5 9 4 ⟨0, 0, 0x80200040, 0, 0⟩]) && !x.mapsRank 5 && x.mapsRank 1 &&
     is (.remoteRead p) late (fun t => t.out == [.nack 1 9 3 ⟨0, 0, 0x80200040, 0, 0⟩]) &&
     is (.remoteWrite w) late (fun t => t.out == [.ack 1 9] && (Map.find t.ctxs 5).any (fun c => c.late == [{ w with cls := 1 }])) &&
     okIs (remoteXlate (s 0) 5 0x80200040 .w) (fun y => y.1 == 0x40000040 && y.2.1 == 0x200000 && y.2.2.1 && !y.2.2.2.1) &&
     is (.remoteWrite w) (s 0x20) (fun t => (List.range 4).all (fun d => frame t d == [0x11, 0x22]) && t.out == [.ack 1 9]) &&
     is (.remoteWrite w) (s 0) (fun t => frame t 0 == [0x11, 0x22] && frame t 1 == [0, 0] && t.out == [] &&
       Map.find t.frameJobs 10 == some (.reply { w with cls := 1 } (.ack 1 9)) && t.frameQ.any (fun u => u.owner == .job 10)) &&
     is (.remoteAtomic { p with aop := 0, aty := 1, awid := 4, returning := true }) (s 0) (fun t => frame t 0 == [0x11, 0x22] && t.out == [] &&
       (Map.find t.frameJobs 10).isSome && t.frameQ.length != 0) &&
     (List.range 6).all (fun k => inWindow (win (BitVec.ofNat 64 k)).addr) && is (.remoteWrite (win 0)) bound (fun t => t.fabErrs == 1 && t.mem == bound.mem) &&
     is (.remoteWrite (win 5)) bound (fun t => t.fabErrs == 1) &&
     is (.remoteWrite { win 1 with job := 78 }) bound (fun t => t.fabErrs == 1)) = true := by decide +kernel
/-! ### Scribe processors (R356 to R376) -/

def lanes3 (a b c : Nat) : Line := BitVec.ofNat 512 (a + b * 2 ^ 32 + c * 2 ^ 64)

/-- A collective step of member 1 of 3 of job 77, for this device, which is rank 0; rank 1 is mapped, rank 9 is not. -/
def stepPkt : Packet :=
  { (default : Packet) with cls := 0x11, job := 77, src := 1, cgid := 6, seqk := 7, member := 1, mcount := 3, chunk := 2, port := 4, plen := 64,
                            payload := lanes3 10 20 30 }

/-- Job 77: flow slots 4 to 13; its records go to 0x40000600 of this device. -/
def jobK : ScribeJob :=
  ⟨77, 5, leBytes 2 77 ++ leBytes 2 0 ++ leBytes 2 4 ++ leBytes 2 100 ++ leBytes 2 4 ++ leBytes 2 10 ++ leBytes 2 0 ++ leBytes 2 0 ++
    leBytes 8 0x80000040 ++ leBytes 8 0x40000600 ++ leBytes 2 8 ++ List.replicate 30 0, 0⟩

/-- Three vectors, k1 = 1, k2 = -2, k3 = 9, and m1 allows lanes 0 and 2. -/
def invK : Invocation :=
  ⟨77, 5, 2, [(1, lanes3 3 5 0x80000000), (2, lanes3 4 6 1), (3, lanes3 0 0x55 0)], [(1, 1), (2, 0xFFFFFFFE), (3, 9)], [(1, 5)], stepPkt, stepPkt, 0,
    123, [], none⟩

/-- The region at slot 2 of the job: member 0 is folded in, the rest are to come. -/
def procK : Scribe :=
  { Scribe.reset with flow := [(6, lanes3 0x70001 0x80000003 0), (7, lanes3 1 2 3)], jobs := [jobK], inv := some invK }

def sK (x : Scribe) : State :=
  { sM gA with ctxs := [(5, { ctxA with job := some ⟨77, [16, 17], 0⟩ })], scribes := [(3, x)], curProc := some 3, cur := none }
def sInv (i : Invocation) : State := sK { procK with inv := some i }

/-- The invocation after a word, whose index is the next one. -/
def goes (i : Instr) (s : State) (p : Invocation → Scribe → Bool) : Bool :=
  (kernelOf s).isSome && nextIs (exec i s) (fun t => (t.scribeAt 3).inv.any (fun v => v.word == 6 && p v (t.scribeAt 3)))

/-- The word traps: the record tells the cause and detail, and the packet goes on. -/
def ktraps (i : Instr) (s : State) (cause detail : Byte) : Bool :=
  (kernelOf s).isSome && nextIs (exec i s) (fun t => (t.scribeAt 3).inv == none && t.mem.load 0x604 2 == [cause, detail] && t.mem.byte 0x608 == 5 &&
    (t.scribeAt 3).jobs.map ScribeJob.q == [1] && t.out.length == 1)

theorem test_scribe_vectors :
    (let s := sK procK
     let z (i : Instr) (a b c : Nat) : Bool := goes i s (fun v x => Map.get 0 v.z 3 == lanes3 a b c && { v with z := [], word := 5 } == { invK with z := [] } &&
       { x with inv := none } == { procK with inv := none })
     z (.vadd 3 1 2 1 0) 7 0x55 0x80000001 && z (.vsub 3 1 2 1 0) 0xFFFFFFFF 0x55 0x7FFFFFFF && z (.vmul 3 1 2 1 0) 12 0x55 0x80000000 &&
     z (.vmin 3 1 2 1 0) 3 0x55 0x80000000 && z (.vmax 3 1 2 1 0) 4 0x55 1 && z (.vand 3 1 2 1) 0 0x55 0 && z (.vor 3 1 2 1) 7 0x55 0x80000001 &&
     z (.vxor 3 1 2 1) 7 0x55 0x80000001 && z (.vshl 3 1 2 1) 48 0x55 0 && z (.vshr 3 1 2 1) 0 0x55 0x40000000 &&
     z (.vsar 3 1 2 1) 0 0x55 0xC0000000 && z (.vbc 3 3 1) 9 0x55 9 && z (.vsel 3 1 2 1) 3 6 0x80000000 && z (.vins 3 3 2) 0 0x55 9 &&
     z (.pld 3) 10 20 30 &&
     goes (.vcmp 2 1 2 1 2 0) s (fun v _ => Map.get 0 v.m 2 == 5) && goes (.vcmp 0 1 2 1 2 0) s (fun v _ => v.m == invK.m)) = true := by decide +kernel

theorem test_scribe_scalars :
    (let s := sK procK
     let k (i : Instr) (d : Nat) (x : Word) : Bool := goes i s (fun v _ => Map.get 0 v.k d == x && { v with k := [], word := 5 } == { invK with k := [] })
     k (.sadd 4 1 2) 4 0xFFFFFFFF && k (.ssub 4 1 2) 4 3 && k (.sand 4 3 2) 4 8 && k (.sor 4 3 2) 4 0xFFFFFFFF && k (.sxor 4 3 2) 4 0xFFFFFFF7 &&
     k (.sshl 4 3 4) 4 0x90 && k (.sshr 4 2 28) 4 0xF && k (.saddi 4 3 0xFFF) 4 8 && k (.smovi 4 0x3FFFFF) 4 0xFFFFFFFF && k (.smovh 3 0x3FF) 3 0xFFC00009 &&
     k (.scmp 4 1 2 1 2) 4 1 && k (.scmp 4 1 2 0 2) 4 0 && k (.vext 4 1 2) 4 0x80000000 && k (.hrd 4 9) 4 3) = true := by decide +kernel

theorem test_scribe_packets :
    (let s := sK procK
     let m (f : Packet → Packet) : State := sInv { invK with pkt := f stepPkt }
     let bad := sK { procK with poison := [6] }
     let racc (s : State) (n : Word) (q : Scribe → Bool) : Bool := goes (.racc 4 5 2) s (fun v x => Map.get 0 v.k 4 == n && q x)
     goes (.hwr 1 3) s (fun v _ => v.pkt == { stepPkt with dest := 1 }) && ktraps (.hwr 3 3) s 4 0 &&
     goes (.hwr 2 12) s (fun v _ => v.pkt == { stepPkt with mark := 0xFFFE }) &&
     goes (.pst 1 1) s (fun v _ => v.pkt == { stepPkt with payload := lanes3 3 20 0x80000000 }) &&
     goes (.pst 1 1) (m (fun p => { p with cls := 0x13 })) (fun v _ => v.pkt.payload == lanes3 10 20 30) &&
     goes (.fld 4 1 2) s (fun v _ => Map.get 0 v.z 4 == lanes3 1 2 3) && ktraps (.fld 4 1 9) s 2 0 && ktraps (.fst 1 1 0 9) s 2 0 && ktraps (.fld 4 1 1) bad 9 0 &&
     goes (.fst 1 2 1 2) s (fun _ x => x.flow == [(6, lanes3 0x70001 0x80000003 0), (7, lanes3 4 2 1)]) &&
     racc s 2 (fun x => Map.get 0 x.flow 7 == lanes3 11 22 33 && Map.get 0 x.flow 6 == lanes3 0x70002 0x80000003 0) &&
     racc (m (fun p => { p with member := 2 })) 1 (fun x => Map.get 0 x.flow 9 == lanes3 10 20 30 && (RCtl.ofSlot (Map.get 0 x.flow 6)).held 2 &&
       (RCtl.ofSlot (Map.get 0 x.flow 6)).next == 1) &&
     ktraps (.racc 4 5 2) bad 9 0 && goes (.racc 4 5 2) (sK { procK with poison := [9] }) (fun v _ => Map.get 0 v.k 4 == 2) &&
     ktraps (.racc 4 5 2) (m (fun p => { p with member := 0 })) 6 2 && ktraps (.racc 4 5 2) (m (fun p => { p with seqk := 8 })) 6 1 &&
     ktraps (.racc 4 5 2) (m (fun p => { p with mcount := 1 })) 6 3 && ktraps (.racc 4 5 8) s 2 0 &&
     goes (.emit 1 1 0) s (fun v _ => v.emits == [{ stepPkt with dest := 1, src := 0, payload := lanes3 3 5 0x80000000 }]) &&
     goes (.emit 1 1 1) s (fun v _ => v.emits.map Packet.member == [0xFFFF]) && ktraps (.emit 1 3 0) s 4 0 &&
     ktraps (.emit 1 1 0) (m (fun p => { p with cls := 0x13 })) 3 2 && ktraps (.emit 1 1 0) (sInv { invK with emits := List.replicate 16 stepPkt }) 5 0) =
    true := by decide +kernel

/-- The fold of the three contributions in member order, the last having come before the second. -/
theorem test_racc_order :
    (let slot (i : Nat) : Line := [lanes3 0x70001 0x80000003 0 ||| (4 <<< 256), lanes3 1 2 3, 0, lanes3 100 200 300].getD i 0
     (match raccStep stepPkt slot with
      | .ok (n, ws) => n == 3 && ws.map Prod.snd == [lanes3 0x70003 3 0, lanes3 111 222 333]
      | .error _ => false)) = true := by decide +kernel

theorem test_scribe_control :
    (let s := sK procK
     let at_ (i : Instr) (w : Nat) : Bool := nextIs (exec i s) (fun t => (t.scribeAt 3).inv.any (fun v => v.word == w))
     at_ (.jmp 3) 8 && at_ (.bnz 1 3) 8 && at_ (.bz 1 3) 6 && at_ (.bz 5 3) 8 && at_ (.bnz 5 3) 6 &&
     goes (.scribeRepeat 3 2 4) s (fun v _ => v.rep == some ⟨3, 0, 4, 6, 7⟩ && Map.get 0 v.k 3 == 0) &&
     nextIs (exec .pass s) (fun t => (t.scribeAt 3).inv == none && t.collIn == [pktStep stepPkt]) &&
     nextIs (exec .drop s) (fun t => (t.scribeAt 3).inv == none && t.collIn == [] && t.out == [.ack 1 0]) && ktraps (.trapk 0x5A) s 7 0x5A) = true := by decide +kernel

theorem test_scribe_events :
    (let q : Queued := ⟨stepPkt, 0, 77, 2⟩
     let s := sK { procK with inv := none, queue := [q, q] }
     let long := sK { procK with inv := none, queue := [{ q with pkt := { stepPkt with plen := 32 } }] }
     let h : Hook := ⟨77, 3, 0, 0, 6, 0, 0, 2⟩
     let p : Packet := { stepPkt with cls := 0x13 }
     let c : MCmd := { (default : MCmd) with a0 := 0x4E0003 }
     !pktMalformed stepPkt && nextIs (exec (.scribeDispatch 3) s) (fun t => (t.scribeAt 3).queue == [q] && (t.scribeAt 3).inv == some
       { invK with word := 2, steps := 0, z := [], k := [], m := [], time := 0 }) &&
     pktMalformed { stepPkt with plen := 32 } && nextIs (exec (.scribeDispatch 3) long) (fun t => (t.scribeAt 3).queue == [] && (t.scribeAt 3).inv == none &&
       t.mem.load 0x604 2 == [3, 1]) &&
     hookFor { s with hooks := [h] } stepPkt 0 == some h && nextIs (exec (.packetAccept stepPkt 0) { s with hooks := [h] }) (fun t =>
       (t.scribeAt 3).queue == [q, q, q]) &&
     nextIs (exec (.drainMarker { p with job := 78 }) s) (fun t => t.fabErrs == 1 && t.out == []) &&
     nextIs (exec (.drainMarker p) s) (fun t => t.out == [.marker { p with dest := 1, src := 0, returning := true }]) &&
     nextIs (exec (.drainMarker { p with returning := true, tag := 7 }) { s with freeze := some ⟨5, 3, 0, 0, 0, [7, 8], [], false⟩ }) (fun t =>
       t.freeze.map FreezeJob.markers == some [8]) &&
     nextIs (exec (.scribeControl c .unbind) s) (fun t => t.fabErrs == 1) && nextIs (exec (.scribeControl c .snap) s) (fun t => t.fabErrs == 1)) = true := by
  decide +kernel

/-- ScribeWords, the last clause: a SCRIBE_CONTROL that binds a job held here comes from the supervisor of its context. -/
theorem test_witness_scribe_control :
    (let s := { sK procK with mem := [(0x300, 77)] }
     s.freeze == none && s.cmdq == [] && ctxOfJob s (leAt (s.cmdRead 0x300 2) 0 2) == some 5) = true ∧ supOf (sK procK) 9 5 = true := by
  refine ⟨by decide +kernel, ?_⟩
  have h : Map.find (sK procK).ctxs 5 = some { ctxA with job := some ⟨77, [16, 17], 0⟩ } := by decide +kernel
  simp [supOf, h, ctxA, Ctx.fresh]

/-! ### The hub (R9, R256, R290, R382, R393 to R396, R400, R417, R420 to R425, R437) -/

/-- A command whose caller has the right ends as one whose right is plain. -/
theorem with_right (op : Nat) (c : MCmd) (right : Bool) (s : State) (f : State → State × Nat) (p : State → Bool) (hr : right = true)
    (h : nextIs (asCommand op c true s f) p = true) : nextIs (asCommand op c right s f) p = true := by
  rw [hr]; exact h

/-- A command of the owner, and one of the supervisor of context 5. -/
def own (ctx : Nat) (a0 a1 a2 a3 : DWord) : MCmd := ⟨Config.ownerCred, false, ctx, a0, a1, a2, a3⟩
def sup (ctx : Nat) (a0 a1 a2 a3 : DWord) : MCmd := ⟨9, false, ctx, a0, a1, a2, a3⟩
theorem owner_right (ctx : Nat) (a0 a1 a2 a3 : DWord) : isOwner (own ctx a0 a1 a2 a3) = true := by simp [isOwner, own]

/-- The command has ended with a status. -/
def ended (t : State) (st : DWord) : Bool := t.mbstat == st * 256 && !bit t.mbcmd 31

def sHub : State := { sM gA with ctxs := [(5, ctxA), (6, { Ctx.fresh 0 9 with frozen := true })], parts := [(0, ⟨[2], 0, 0⟩)] }
theorem hub_sup : supOf sHub 9 5 = true := sup_of sHub 5 9 ctxA (by decide +kernel) rfl

/-- HubRegisters: who may write, and a context that has had a team placed. -/
theorem test_witness_hub_rights :
    Map.find sHub.ctxs 5 = some ctxA ∧ supOf sHub 9 5 = true ∧ ctxA.placedOnce = false ∧
    ∃ s who, Map.find s.ctxs 5 = some { ctxA with cred := who + 1, placedOnce := true } ∧ supOf s who 5 = false := by
  refine ⟨by decide +kernel, hub_sup, rfl, { State.reset with ctxs := [(5, { ctxA with cred := Config.ownerCred + 2, placedOnce := true })] },
    Config.ownerCred + 1, rfl, sup_not _ 5 _ _ rfl ?_ ?_⟩ <;> simp

theorem test_hub_ptroot : nextIs (exec (.registerWrite 0x21028 0x0123456789ABCDEF 9) sHub) (fun t =>
    (Map.find t.ctxs 5).map Ctx.ptroot == some 0x0023456789ABC800) = true := by
  show nextIs (.next (if supOf sHub 9 5 then modCtx sHub 5 (fun c => { c with ptroot := _ }) else sHub)) _ = true
  rw [hub_sup]; decide +kernel

theorem test_ctxsave : nextIs (exec (.ctxsaveWrite 5 ⟨0xFFFFFFFFFFFFFFFF, 9⟩) sHub) (fun t =>
    (Map.find t.ctxs 5).map Ctx.ctxsave == some 0x00FFFFFFFFE00000) = true := by
  show nextIs (.next (modCtx sHub 5 (fun c => if c.placedOnce || !supOf sHub 9 5 then c else { c with ctxsave := _ }))) _ = true
  rw [hub_sup]; decide +kernel

theorem test_hub_registers :
    (let busy := { sHub with mbstat := 1 }
     let shoot := { sHub with
       tlbibusy := true, tlbictl := 0x1C5, ctxs := [(5, { ctxA with ptroot := 0x200000 })],
       tlb := [⟨33, false, 0x100000, 5, 0x40000000, 0x40000000, 0, 0x110000⟩, ⟨33, true, 0x100000, 6, 0x40000000, 0x40000000, 0, 0x110000⟩] }
     let w (off : Nat) (val : DWord) (p : State → Bool) : Bool := nextIs (exec (.registerWrite off val 9) { sHub with mbarg0 := 77 }) p
     w 0x08 7 (fun t => t.mbarg0 == 7) && w 0x10 7 (fun t => t.mbarg1 == 7) && w 0x18 7 (fun t => t.mbarg2 == 7) && w 0x20 7 (fun t => t.mbarg3 == 7) &&
     w 0 0x80000504 (fun t => t.mbcmd == 0x80000504 && t.mbstat == 1 && t.cmdq == [(4, ⟨9, false, 5, 77, 0, 0, 0⟩)]) &&
     (List.range 5).all (fun k => nextIs (exec (.registerWrite (8 * k) 0x80000001 9) busy) (fun t => t == busy)) &&
     nextIs (exec (.tlbictlGo 0x185) sHub) (fun t => t.tlbibusy && t.tlbictl == 0x185) &&
     nextIs (exec (.tlbictlGo 0x105) shoot) (fun t => t.tlbictl == 0x1C5) && nextIs (exec .shootdownComplete sHub) (fun t => t == sHub) &&
     (let waits := { shoot with frameQ := [{ ctx := 5, owner := .writer, pa := 0, bytes := [1], knows := [], pub := [] }] }
      nextIs (exec .shootdownComplete waits) (fun t => t == waits)) &&
     nextIs (exec .shootdownComplete shoot) (fun t => !t.tlbibusy && t.tlb.map Tlb.ctx == [6] && (Map.find t.ctxs 5).map Ctx.ptrootUsed == some 0x200000)) =
    true := by decide +kernel

/-- CommandRights: a command behind another or within a FREEZE, and a caller with no right. -/
theorem test_witness_command_rights :
    ¬ commandsOpen { sHub with cmdq := [(1, default)] } ∧ commandsOpen sHub ∧
    isOwner { own 5 0 0 0 0 with who := Config.ownerCred + 1 } = false := by
  refine ⟨by simp [commandsOpen], ⟨rfl, rfl⟩, by simp [isOwner]⟩

theorem test_command_waits :
    (let s := { sHub with cmdq := [(1, default)] }
     nextIs (exec (.modeset (sup 5 1 0 0 0)) s) (fun t => t.cmdq == [(1, default), (4, sup 5 1 0 0 0)] && t.mode == 0) &&
     nextIs (exec (.modeset (sup 5 1 0 0 0)) { s with mbstat := 1 }) (fun t => t == { s with mbstat := 1 }) &&
     nextIs (exec (.modeset { sup 5 1 0 0 0 with mctp := true }) { s with mbstat := 1 }) (fun t => t.cmdq.length == 2 && t.mbstat == 1) &&
     nextIs (exec (.modeset (sup 5 1 0 0 0)) s) (fun t => t.mbstat == 1) &&
     (surveyRecord sHub).take 16 == [1, 0, 1, 0, 0, 0, 0, 0, 0, 0, 0, 0, 0, 0, 0, 0] && (sup 5 0x200 0 0 0).a1 == 0) = true := by decide +kernel

theorem test_modeset : nextIs (exec (.modeset (own 0 2 0 0 0)) sHub) (fun t => ended t 0 && t.mode == 2) = true := by
  show nextIs (execModeset _ _) _ = true
  exact with_right _ _ _ _ _ _ (owner_right _ _ _ _ _) (by decide +kernel)
theorem test_modeset_refused : nextIs (exec (.modeset (own 0 3 0 0 0)) sHub) (fun t => ended t 1 && t.mode == 0) = true := by
  show nextIs (execModeset _ _) _ = true
  exact with_right _ _ _ _ _ _ (owner_right _ _ _ _ _) (by decide +kernel)

/-- DeviceCommands: each clause of PARTCFG at its least operand. -/
theorem part_right (s : State) (ctx : Nat) (a0 a1 a2 a3 : DWord) : partRight s (own ctx a0 a1 a2 a3) = true := by simp [partRight, isOwner, own]

def sPart : State := { sHub with mem := Memory.store pages 0x300 ((List.range 32).map (fun k => BitVec.ofNat 8 k)) }
theorem test_partcfg_sets : nextIs (exec (.partcfg (own 0 0x10008 0x300 0x101 0)) sPart) (fun t => ended t 0 &&
    t.parts == [(0, ⟨[2], 0, 0⟩), (1, ⟨[3], 1, 25⟩)] && (quadAt t 3).accept == 0x0706) = true := by
  show nextIs (execPartcfg _ _) _ = true
  exact with_right _ _ _ _ _ _ (part_right _ _ _ _ _ _) (by decide +kernel)
theorem test_partcfg_removes : nextIs (exec (.partcfg (own 0 0 0x300 0 0)) { sPart with teams := [], ctxs := [] }) (fun t => ended t 0 && t.parts == []) = true := by
  show nextIs (execPartcfg _ _) _ = true
  exact with_right _ _ _ _ _ _ (part_right _ _ _ _ _ _) (by decide +kernel)
theorem test_partcfg_fields : nextIs (exec (.partcfg (own 0 0x10008 0 0x300 0)) sPart) (fun t => ended t 3) = true := by
  show nextIs (execPartcfg _ _) _ = true
  exact with_right _ _ _ _ _ _ (part_right _ _ _ _ _ _) (by decide +kernel)
theorem test_partcfg_taken : nextIs (exec (.partcfg (own 0 0x10004 0 0 0)) sPart) (fun t => ended t 1) = true := by
  show nextIs (execPartcfg _ _) _ = true
  exact with_right _ _ _ _ _ _ (part_right _ _ _ _ _ _) (by decide +kernel)
theorem test_partcfg_resident : nextIs (exec (.partcfg (own 0 0x0C 0 0 0)) sPart) (fun t => ended t 2) = true := by
  show nextIs (execPartcfg _ _) _ = true
  exact with_right _ _ _ _ _ _ (part_right _ _ _ _ _ _) (by decide +kernel)

/-- ContextCommands. -/
theorem test_ctxcreate : nextIs (exec (.ctxcreate (own 7 0 11 0 0)) sHub) (fun t => ended t 0 && Map.find t.ctxs 7 == some (Ctx.fresh 0 11)) = true := by
  show nextIs (execCtxcreate _ _) _ = true
  exact with_right _ _ _ _ _ _ (owner_right _ _ _ _ _) (by decide +kernel)
theorem test_ctxcreate_used : nextIs (exec (.ctxcreate (own 5 0 11 0 0)) sHub) (fun t => ended t 1) = true := by
  show nextIs (execCtxcreate _ _) _ = true
  exact with_right _ _ _ _ _ _ (owner_right _ _ _ _ _) (by decide +kernel)
theorem test_ctxcreate_partition : nextIs (exec (.ctxcreate (own 7 1 11 0 0)) sHub) (fun t => ended t 2) = true := by
  show nextIs (execCtxcreate _ _) _ = true
  exact with_right _ _ _ _ _ _ (owner_right _ _ _ _ _) (by decide +kernel)

/-- A rank map of two devices at 0x300, and one that names none at 0x400. -/
def sMap : State :=
  { sHub with mem := Memory.store (Memory.store pages 0x300 (leBytes 8 2 ++ leBytes 16 0xA1 ++ leBytes 16 0xB2)) 0x400 (leBytes 8 1) }
theorem map_sup : supOf sMap 9 5 = true := sup_of sMap 5 9 ctxA (by decide +kernel) rfl
theorem test_jobbind : nextIs (exec (.jobbind (sup 5 77 0x300 1 0)) sMap) (fun t => ended t 0 &&
    (Map.find t.ctxs 5).bind Ctx.job == some ⟨77, [0xA1, 0xB2], 1⟩) = true := by
  show nextIs (execJobbind _ _) _ = true
  exact with_right _ _ _ _ _ _ map_sup (by decide +kernel)
theorem test_jobbind_map : nextIs (exec (.jobbind (sup 5 77 0x400 0 0)) sMap) (fun t => ended t 2) = true := by
  show nextIs (execJobbind _ _) _ = true
  exact with_right _ _ _ _ _ _ map_sup (by decide +kernel)
theorem test_jobbind_twice : nextIs (exec (.jobbind (sup 5 77 0x300 1 0)) bound) (fun t => ended t 1) = true := by
  show nextIs (execJobbind _ _) _ = true
  exact with_right _ _ _ _ _ _ (sup_of bound 5 9 { ctxA with job := some ⟨77, [0, 1], 0⟩ } rfl rfl) (by decide +kernel)
theorem test_ctxend : nextIs (exec (.ctxend (sup 5 0 0 0 0)) { sHub with groups := [(1, gA), (7, { gA with ctx := 6 })] }) (fun t => ended t 0 &&
    Map.keys t.ctxs == [6] && Map.keys t.groups == [7] && t.teams == [] && t.mem == pages) = true := by
  show nextIs (execCtxend _ _) _ = true
  exact with_right _ _ _ _ _ _ (sup_of _ 5 9 ctxA rfl rfl) (by decide +kernel)

/-- DIRTYSCAN of a context that maps nothing, into 0x300: no bit of the bitmap changes. -/
def sDirty : State := { sHub with ctxs := [(5, Ctx.fresh 0 9)], mem := [(0x300, 0xFF), (0x301, 0xFF), (0x302, 0xFF)] }
theorem test_dirtyscan : nextIs (exec (.dirtyscan (sup 5 0x40000000 0x90000 0x300 0)) sDirty) (fun t => ended t 0 && t.mem == sDirty.mem) = true := by
  show nextIs (execDirtyscan _ _) _ = true
  unfold execDirtyscan
  rw [if_neg (by rw [show scanHeld sDirty (sup 5 0x40000000 0x90000 0x300 0) = false by decide +kernel]; simp)]
  exact with_right _ _ _ _ _ _ (sup_of _ 5 9 (Ctx.fresh 0 9) rfl rfl) (by decide +kernel)
/-- A dirty page of 2 MiB: its 32 units of 64 KiB are set, and DIRTY is clear. -/
def sDirtyPage : State := { sHub with mem := pages.put 0x130000 0x8F, tlb := [⟨33, false, 0x100000, 5, 0x80000000, 0x200000, 0, 0x130000⟩] }
theorem test_dirtyscan_page :
    (let l : Leaf := { page := 0x80000000, size := 0x200000, loc := 0x130000, word := 0x8F }
     let t := scanLeaf 0x100000 0x80000000 0x200000 0x300 sDirtyPage l
     let u := scanLeaf 0x100000 0x80000000 0x10000 0x300 sDirtyPage l
     t.tlb == [] && t.mem == Memory.store pages 0x300 [0xFF, 0xFF, 0xFF, 0xFF] &&
     u.tlb == sDirtyPage.tlb && u.mem == Memory.store sDirtyPage.mem 0x300 [1]) = true := by decide +kernel
/-- A page fetched from stays translated, by the entry as the scan leaves it; an update queued for a frame holds the scan. -/
theorem test_dirtyscan_fetch :
    (let l : Leaf := { page := 0x80000000, size := 0x200000, loc := 0x130000, word := 0x97 }
     let s : State := { sDirtyPage with mem := pages.put 0x130000 0x97, tlb := [⟨33, true, 0x100000, 5, 0x80000000, 0x200000, 0, 0x130000⟩] }
     (scanLeaf 0x100000 0x80000000 0x200000 0x300 s l).tlb.map (fun t => (t.page, bit t.leaf 7, bit t.leaf 4)) == [(0x80000000, false, true)] &&
     !scanHeld sDirty (sup 5 0x40000000 0x10000 0x300 0) &&
     scanHeld { sDirty with frameQ := [⟨5, .writer, 0, [1], [], []⟩] } (sup 5 0x40000000 0x10000 0x300 0)) = true := by decide +kernel
theorem test_dirtyscan_range : nextIs (exec (.dirtyscan (sup 5 0x40000000 0x90001 0x300 0)) sDirty) (fun t => ended t 2) = true := by
  show nextIs (execDirtyscan _ _) _ = true
  unfold execDirtyscan
  rw [if_neg (by rw [show scanHeld sDirty (sup 5 0x40000000 0x90001 0x300 0) = false by decide +kernel]; simp)]
  exact with_right _ _ _ _ _ _ (sup_of _ 5 9 (Ctx.fresh 0 9) rfl rfl) (by decide +kernel)
theorem test_dirtyscan_missing : nextIs (exec (.dirtyscan (own 4 0x40000000 0x10000 0x300 0)) sDirty) (fun t => ended t 1) = true := by
  show nextIs (execDirtyscan _ _) _ = true
  unfold execDirtyscan
  rw [if_neg (by rw [show scanHeld sDirty (own 4 0x40000000 0x10000 0x300 0) = false by decide +kernel]; simp)]
  exact with_right _ _ _ _ _ _ (by simp [supOf, own]) (by decide +kernel)

/-- An image at 0x1000: the header, a table of the twelve sections that stand once, all empty but the signature's 3389 bytes of
zeros at 256 (R406, R407). -/
def sImage : State :=
  let le (n v : Nat) : List Byte := (List.range n).map (fun k => BitVec.ofNat 8 (v / 256 ^ k))
  let ent (k len : Nat) : List Byte := le 2 k ++ le 2 0 ++ le 4 256 ++ le 8 len
  let hdr := le 4 0x534C5441 ++ le 2 1 ++ le 2 12 ++ le 8 3645 ++ le 24 0 ++ le 4 64 ++ le 20 0
  let tbl := ([1, 2, 7, 8, 9, 10, 11, 12, 13, 14, 15].map (fun k => ent k 0)).flatten ++ ent 16 3389
  { sHub with mem := Memory.store [] 0x1000 (hdr ++ tbl) }

/-- THAW of an image with a malformed header, of one whose signature no enrolled key made, and the hypotheses of its other
clauses. -/
theorem test_witness_thaw :
    atlasOk (sHub.rd (0x300 : DWord).toNat (leNat (sHub.rd ((0x300 : DWord) + 8).toNat 8))) = false ∧
    (let b := sImage.rd (0x1000 : DWord).toNat (leNat (sImage.rd ((0x1000 : DWord) + 8).toNat 8))
     atlasOk b = true ∧ imageSigned sImage b = false) ∧
    Map.find sHub.ctxs 7 = none ∧ ∃ p, Map.find sHub.parts 0 = some p ∧ p.quads ≠ [] :=
  ⟨by decide +kernel, ⟨by decide +kernel, rfl⟩, by decide +kernel, ⟨[2], 0, 0⟩, by decide +kernel, by decide⟩

/-! ### Switching, freezing and moving (R395, R396, R400, R402) -/

/-- Contexts 5 and 6 each have a team on core 33, where 5 is active. -/
def sSw : State :=
  { sHub with ctxs := [(5, ctxA), (6, ctxA)], teams := [(2, tA), (3, { tA with ctx := 6 })], groups := [(1, gA), (7, { gA with ctx := 6, team := 3 })],
              cores := [(33, { Core.reset with active := some 5 })] }
def swCmd (a0 a1 : DWord) : MCmd := ⟨9, false, 6, a0, a1, 0, 0⟩

theorem test_ctxsw :
    (maskCores 0x200000000 0 == [33] && !(holdsCtx sSw 34 6 && holdsCtx sSw 34 5) && maskCores 0 0 == [] && ctxFrozen { sSw with ctxs := sHub.ctxs } 6) = true ∧
    supOf sSw 9 5 = true ∧ supOf sSw 9 6 = true :=
  ⟨by decide +kernel, sup_of _ _ _ ctxA rfl rfl, sup_of _ _ _ ctxA rfl rfl⟩

theorem test_ctxsw_begins : nextIs (exec (.ctxsw (swCmd 0x200000000 5)) sSw) (fun t => t.cmdq == [(0x105, swCmd 0x200000000 5)] &&
    (t.coreAt 33).incoming == some 6 && (t.coreAt 33).active == some 5) = true := by
  rw [show exec (.ctxsw (swCmd 0x200000000 5)) sSw = execCtxsw (swCmd 0x200000000 5) sSw from rfl]
  simp only [execCtxsw]
  rw [show supOf sSw (swCmd 0x200000000 5).who (swCmd 0x200000000 5).ctx = true from sup_of _ _ _ ctxA rfl rfl,
    show supOf sSw (swCmd 0x200000000 5).who (bits (swCmd 0x200000000 5).a1 5 0) = true from sup_of _ _ _ ctxA rfl rfl]
  decide +kernel

theorem test_freeze_begins : nextIs (exec (.freeze (sup 5 0x800 64 0 0)) sHub) (fun t => t.freeze == some ⟨5, 1, 0x800, 64, 0, [], [], false⟩ &&
    (Map.find t.ctxs 5).any Ctx.frozen && bit t.mbstat 0) = true := by
  show nextIs (execFreeze _ _) _ = true
  unfold execFreeze
  rw [show supOf sHub (sup 5 0x800 64 0 0).who (sup 5 0x800 64 0 0).ctx = true from hub_sup]
  decide +kernel

/-- SwitchAndFreeze: a second FREEZE begins at step 6 with the Scribe blocks of the first. -/
theorem test_freeze_again : nextIs (exec (.freeze (sup 6 0x800 64 0 0)) { sHub with ctxs := [(6, { Ctx.fresh 0 9 with frozen := true, snaps := [[1]] })] })
    (fun t => t.freeze == some ⟨6, 6, 0x800, 64, 0, [], [[1]], false⟩) = true := by
  show nextIs (execFreeze _ _) _ = true
  unfold execFreeze
  rw [show supOf { sHub with ctxs := [(6, { Ctx.fresh 0 9 with frozen := true, snaps := [[1]] })] } (sup 6 0x800 64 0 0).who (sup 6 0x800 64 0 0).ctx = true from
    sup_of _ _ _ { Ctx.fresh 0 9 with frozen := true, snaps := [[1]] } rfl rfl]
  decide +kernel

theorem test_freeze_missing : nextIs (exec (.freeze (own 4 0x800 64 0 0)) sHub) (fun t => ended t 1 && t.freeze == none) = true := by
  show nextIs (execFreeze _ _) _ = true
  unfold execFreeze
  rw [show supOf sHub (own 4 0x800 64 0 0).who (own 4 0x800 64 0 0).ctx = true by simp [supOf, own]]
  decide +kernel

theorem test_switch_done :
    (let s := { sSw with cores := [(33, { Core.reset with active := some 5, incoming := some 6 })] }
     let busy := { s with groups := s.groups ++ [(8, { gA with handler := some 1, sup := true })] }
     nextIs (exec (.contextSwitchDone 33) s) (fun t => (t.coreAt 33).active == some 6 && (t.coreAt 33).incoming == none &&
       (Map.find t.groups 1).any (fun g => { g with lastIssue := gA.lastIssue, saved := none } == gA && g.saved.isSome) &&
       (Map.find t.teams 2).any (fun u => { u with saved := none } == tA)) &&
     nextIs (exec (.contextSwitchDone 33) busy) (fun t => t == busy)) = true := by decide +kernel

def sFz (step : Nat) : State := { sHub with groups := [], teams := [], freeze := some ⟨5, step, 0x800, 64, 1000, [7, 8], [], false⟩, tick := 4001000 }
theorem test_freeze_steps :
    (let ends (s : State) (n : Option Nat) : Bool := nextIs (exec .freezeStepEnd s) (fun t => t.freeze.map FreezeJob.step == n)
     let busy := { sFz 2 with groups := [(1, { gA with entries := [entA (.ldf (mf 5 12 0 .b32 .far .x true 0 0 always)) 0x40000000 0 0] })] }
     (sFz 1).freeze.any (stepEnds (sFz 1)) && ends (sFz 1) (some 2) && !busy.freeze.any (stepEnds busy) && nextIs (exec .freezeStepEnd busy) (fun t => t == busy) &&
     (sFz 6).freeze.any (stepEnds (sFz 6)) && !(sFz 3).freeze.any (stepEnds (sFz 3)) &&
     nextIs (exec .freezeDrainTimeout (sFz 3)) (fun t => t.freeze.map FreezeJob.markers == some []) &&
     nextIs (exec .freezeDrainTimeout { sFz 3 with tick := 4000999 }) (fun t => t.freeze.map FreezeJob.markers == some [7, 8]) &&
     nextIs (exec .freezeStepEnd { sFz 6 with ctxs := [], mbarg1 := 7 }) (fun t => t.mbarg1 == 7 && t.freeze == none) &&
     nextIs (exec .freezeStepEnd sHub) (fun t => t == sHub) && nextIs (exec .freezeDrainTimeout sHub) (fun t => t == sHub)) = true := by decide +kernel

/-! ### Scribe commands (R357, R375, R422) -/

theorem k_sup : supOf (sK procK) 9 5 = true := sup_of _ _ _ { ctxA with job := some ⟨77, [16, 17], 0⟩ } rfl rfl
/-- The processor is free, and its queue holds no packet of the job. -/
def sQuiet : State := sK { procK with inv := none }
theorem quiet_sup : supOf sQuiet 9 5 = true := sup_of _ _ _ { ctxA with job := some ⟨77, [16, 17], 0⟩ } rfl rfl

theorem test_witness_scribe_commands :
    (let c := sup 5 0x4D0003 0 2 0x300
     (sK procK).freeze == none && (sK procK).cmdq == [] && (boundJob (sK procK) c).any (fun j => j == jobK) && !between (sK procK) 3 && between sQuiet 3 &&
     snapReady sQuiet 3 77 && !snapReady (sK procK) 3 77 && boundJob (sK procK) (sup 5 0x4E0003 0 0 0) == none && jobK.fcnt == 10 && jobK.limitsOk) = true := by
  decide +kernel

theorem test_scriberead : nextIs (exec (.scriberead (sup 5 0x4D0003 2 2 0x300)) sQuiet) (fun t => ended t 0 &&
    t.mem.load 0x300 12 == leBytes 4 0x70001 ++ leBytes 4 0x80000003 ++ [0, 0, 0, 0] && t.mem.load 0x340 4 == [1, 0, 0, 0]) = true := by
  show nextIs (execScriberead _ _) _ = true
  unfold execScriberead asBetween
  rw [show supOf sQuiet (sup 5 0x4D0003 2 2 0x300).who (sup 5 0x4D0003 2 2 0x300).ctx = true from quiet_sup]
  decide +kernel

theorem test_scribeunbind : nextIs (exec (.scribeunbind (sup 5 0x4D0003 0 0 0)) sQuiet) (fun t => ended t 0 && (t.scribeAt 3).jobs == []) = true := by
  show nextIs (execScribeunbind _ _) _ = true
  unfold execScribeunbind asBetween
  rw [show supOf sQuiet (sup 5 0x4D0003 0 0 0).who (sup 5 0x4D0003 0 0 0).ctx = true from quiet_sup]
  decide +kernel

/-- SCRIBEBIND of the job on processor 4, with its entry at 0x300 and one line of code at 0x400. -/
def sBind : State := { sK procK with mem := Memory.store (Memory.store pages 0x300 (leBytes 2 77 ++ leBytes 2 0 ++ leBytes 2 1 ++ leBytes 2 100 ++
  leBytes 2 4 ++ leBytes 2 10 ++ List.replicate 20 0 ++ leBytes 2 8)) 0x400 (leBytes 4 0xD8000000), scribes := [] }
theorem test_scribebind : nextIs (exec (.scribebind (sup 5 4 0x300 0x400 0x500)) sBind) (fun t => ended t 0 && (t.scribeAt 4).jobs.map ScribeJob.job == [77] &&
    (t.scribeAt 4).code == [(0, 0xD8000000)]) = true := by
  show nextIs (execScribebind _ _) _ = true
  unfold execScribebind
  rw [if_neg (by rw [show rebindHeld sBind (sup 5 4 0x300 0x400 0x500) = false by decide +kernel]; simp)]
  exact with_right _ _ _ _ _ _ (sup_of _ 5 9 { ctxA with job := some ⟨77, [16, 17], 0⟩ } rfl rfl) (by decide +kernel)

/-- ScribeWords, the last clauses: what an unbinding and a snapshot message of a job held here do, and a binding of one that is
already bound, which replaces its entry (R440) once the processor is between invocations. -/
theorem test_scribe_unbind_message : nextIs (exec (.scribeControl (sup 5 0x4D0003 0 0 0) .unbind) sQuiet) (fun t => ended t 0 && (t.scribeAt 3).jobs == []) =
    true := by
  rw [show exec (.scribeControl (sup 5 0x4D0003 0 0 0) .unbind) sQuiet = execScribeControl (sup 5 0x4D0003 0 0 0) .unbind sQuiet from rfl]
  simp only [execScribeControl, asBetween]
  rw [show supOf sQuiet (sup 5 0x4D0003 0 0 0).who (sup 5 0x4D0003 0 0 0).ctx = true from quiet_sup]
  decide +kernel
theorem test_scribe_snap_message : nextIs (exec (.scribeControl (sup 5 0x4D0003 0x40000 0 0) .snap) sQuiet) (fun t => ended t 0 &&
    t.mem.load 0x40000 1 != [0] && t.scribes == sQuiet.scribes) = true := by
  rw [show exec (.scribeControl (sup 5 0x4D0003 0x40000 0 0) .snap) sQuiet = execScribeControl (sup 5 0x4D0003 0x40000 0 0) .snap sQuiet from rfl]
  simp only [execScribeControl]
  rw [show supOf sQuiet (sup 5 0x4D0003 0x40000 0 0).who (sup 5 0x4D0003 0x40000 0 0).ctx = true from quiet_sup]
  decide +kernel

/-- The entry of the job at 0x300, its one line of code at 0x400 and no hook at 0x500, for processor 3, which has the job. -/
def sRebind : State := { sQuiet with mem := sBind.mem }
theorem rebind_sup : supOf sRebind 9 5 = true := sup_of _ _ _ { ctxA with job := some ⟨77, [16, 17], 0⟩ } rfl rfl
theorem test_scribe_rebind : nextIs (exec (.scribebind (sup 5 3 0x300 0x400 0x500)) sRebind) (fun t => ended t 0 &&
    (t.scribeAt 3).jobs.map ScribeJob.cbase == [0] && (t.scribeAt 3).flow == []) = true := by
  show nextIs (execScribebind _ _) _ = true
  unfold execScribebind
  rw [if_neg (by rw [show rebindHeld sRebind (sup 5 3 0x300 0x400 0x500) = false by decide +kernel]; simp)]
  exact with_right _ _ _ _ _ _ rebind_sup (by decide +kernel)
theorem test_scribe_rebind_waits : nextIs (exec (.scribebind (sup 5 3 0x300 0x400 0x500)) { sK procK with mem := sBind.mem }) (fun t =>
    t.cmdq == [(9, sup 5 3 0x300 0x400 0x500)]) = true := by
  show nextIs (execScribebind _ _) _ = true
  unfold execScribebind
  rw [show supOf { sK procK with mem := sBind.mem } (sup 5 3 0x300 0x400 0x500).who (sup 5 3 0x300 0x400 0x500).ctx = true from
    sup_of _ _ _ { ctxA with job := some ⟨77, [16, 17], 0⟩ } rfl rfl]
  decide +kernel

/-- `bindable`. -/
theorem test_witness_bindable :
    (let c := sup 5 3 0x300 0x400 0x500
     let j : ScribeJob := ⟨77, 5, sRebind.rd 0x300 64, 0⟩
     j.limitsOk && leAt j.entry 0 2 == 77 && bits c.a0 63 4 == 0 && sRebind.rd 0x500 8 == List.replicate 8 0 &&
     ((Map.find sRebind.ctxs 5).bind Ctx.job).map JobBinding.job == some 77 && (sRebind.scribeAt 3).jobs.all (fun k => k.job == 77) &&
     sRebind.hooks == [] && (sRebind.scribeAt 3).queue == [] && !rebindHeld sRebind c) = true := by decide +kernel

/-- SwitchAndFreeze: a group that lay in the save area has the registers that it holds; a budget of one register, at the region's
start. -/
theorem test_switch_fills :
    (let a := saveRegion sSw 6 33
     let s := { sSw with
       groups := [(7, { gA with ctx := 6, team := 3, budget := 1, saved := some 0 })], teams := [(3, { tA with ctx := 6 })],
       mem := Memory.store [] (a + 4) [0x4D], cores := [(33, { Core.reset with active := none, incoming := some 6 })] }
     decide (Map.keys s.groups).Nodup && decide (Map.keys s.teams).Nodup &&
     nextIs (exec (.contextSwitchDone 33) s) (fun t => (t.coreAt 33).active == some 6 &&
       (Map.find t.groups 7).any (fun g => g.saved == none && Map.get 0 g.v 1 == 0x4D && Map.get 0 g.v 0 == 0))) = true := by decide +kernel

/-- LOAD: an object of one kernel and one native variant of one line, which its selector always takes. What stands in the signature
is no number that the model knows (log 14). -/
def objW : List Byte :=
  leBytes 4 0x4F504B53 ++ leBytes 2 1 ++ leBytes 2 64 ++ leBytes 2 3 ++ leBytes 2 0 ++ leBytes 4 64 ++ leBytes 8 3773 ++ List.replicate 40 0 ++
  leBytes 2 1 ++ leBytes 2 0 ++ leBytes 4 128 ++ leBytes 8 64 ++ leBytes 2 3 ++ leBytes 2 0 ++ leBytes 4 192 ++ leBytes 8 132 ++
  leBytes 2 5 ++ leBytes 2 0 ++ leBytes 4 384 ++ leBytes 8 3389 ++ List.replicate 16 0 ++
  [0x6B] ++ List.replicate 31 0 ++ leBytes 2 1 ++ [5, 0] ++ leBytes 2 1 ++ leBytes 2 0 ++ leBytes 4 4096 ++ leBytes 4 0xFFFFFFFF ++ List.replicate 12 0 ++
  [8, 0, 0, 0] ++
  leBytes 2 1 ++ leBytes 2 6 ++ leBytes 4 64 ++ leBytes 4 64 ++ leBytes 2 1 ++ leBytes 2 0 ++ leBytes 4 128 ++ List.replicate 12 0 ++ [2, 1, 0, 0, 0, 0] ++
  List.replicate 26 0 ++ List.replicate 60 0 ++ [0, 0, 0xF0, 1] ++ leBytes 4 0 ++ List.replicate 60 0 ++ List.replicate 3389 7

theorem test_witness_object :
    (let sec (k : Nat) : List (List Byte) := (kindOf (objSects objW) k).map (fun y => y.bytes objW)
     let q := quantities sHub (partOf sHub 5)
     objW.length == 3773 && headerOk objW && ((sec 1).headD []).length == 64 && (sec 3).all (fun y => variantOk y 1 && selectorOf q y == some true) &&
     dirOk (sliceB objW 128 64) none && (sec 4).all imageOk && chooseForm { sHub with nativeOk := true } (partOf sHub 5) objW == some 1 &&
     (formCode sHub (partOf sHub 5) objW 1).1.length == 64 && ctxA.ptrootUsed == 0x100000 &&
     (pagesOf 0x10000 64).all (fun p => pageOk sHub 0x100000 p true) && !pageOk sHub 0 0x10000 true) = true := by decide +kernel
/-! ### Events of the device (R4, R244, R392, R419, R420, R424, R425) -/

theorem test_device_events :
    (let s := { sM gA with svclevel := 0, ports := [] }
     let hot := { s with tjmax := 95, therm := 0, tick := 50 }
     let out (i : Instr) (s : State) (p : State → Bool) : Bool := nextIs (exec i s) p
     out (.hostMemAccess true 0x200 7) s (fun t => t.mem.byte 0x200 == 7) && out (.hostMemAccess true 0xC000000000 7) s (fun t => t == s) &&
     out (.hostMemAccess true 0x080000000FFF 7) { s with fitted := { s.fitted with hostBytes := 4096 } } (fun t => t.mem.byte 0x080000000FFF == 7) &&
     out (.hostMemAccess true 0x080000001000 7) { s with fitted := { s.fitted with hostBytes := 4096 } } (fun t => t.mem == s.mem) &&
     out (.hostMemAccess false 0xBFFFFFFFFF 0) s (fun t => t.hostRead == [(0xBFFFFFFFFF, 0)]) && out (.eccScrub (.mem 0x201) false) s (fun t => t.eccCorr == 1 && t.poison == []) &&
     out (.eccScrub (.mem 0x201) true) s (fun t => t.eccUnc == 1 && poisoned t.poison 0x203 1 && !poisoned t.poison 0x204 1) &&
     out (.eccScrub (.reg 1 97) true) s (fun t => (Map.find t.groups 1).any (fun g => g.poison == [97])) &&
     out (.eccScrub (.team 2 5) true) s (fun t => (Map.find t.teams 2).any (fun u => poisoned u.poison 5 1 && !poisoned u.poison 8 1)) &&
     out (.eccScrub (.flow 3 6) true) s (fun t => (t.scribeAt 3).poison == [6] && t.eccUnc == 1) &&
     out (.powerOn s.fitted) s (fun t => t == s) && out (.powerOn s.fitted) { s with powered := false, svclevel := 1 } (fun t => t.powered && t.svclevel == 0 && t.mem == []) &&
     out .powerRemoved { s with cfgStore := [[1]] } (fun t => !t.powered && t.cfgStore == [[1]] && t.groups == []) &&
     out .trainingComplete s (fun t => t.svclevel == 1) && out .trainingComplete { s with cfgOk := false } (fun t => t.svclevel == 0) &&
     out (.thermalSample 96 96) hot (fun t => t.tj == 96 && t.therm == 1 && t.hotSince == some 50 && t.coolSince == none) &&
     out (.thermalSample 95 95) hot (fun t => t.tj == 95 && t.therm == 0 && t.hotSince == none && t.coolSince == none) &&
     out (.thermalSample 85 85) hot (fun t => t.coolSince == some 50) && out (.thermalSample 85 86) hot (fun t => t.coolSince == none) &&
     out .thermalShutdown { hot with therm := 1, hotSince := some 50, tick := 200000049 } (fun t => t.therm == 1) &&
     out .thermalShutdown { hot with therm := 1, hotSince := some 50, tick := 200000050 } (fun t => t.therm == 2 && t.ctxs == [] && t.groups == []) &&
     out .thermalRecover { hot with therm := 1, coolSince := some 50, tick := 2000000049 } (fun t => t.therm == 1) &&
     out .thermalRecover { hot with therm := 1, coolSince := some 50, tick := 2000000050 } (fun t => t.therm == 0) &&
     out (.packagePowerLimit true) s (fun t => t.lowered) && out (.fabricPortStateChange 17 2 0xB2) { s with svclevel := 1 } (fun t =>
       (Map.find t.ports 17).any (fun p => p.st == 2 && p.peer == 0xB2)) && out (.fabricPortStateChange 17 2 0xB2) s (fun t => t == s) &&
     (measureReport s 5).length == 64 && (measureReport s 5).take 2 == [5, 0]) = true := by decide +kernel

/-! ### Steps (R53, R58, R59, R70) -/

/-- Split 0 of group 1 has a line whose slot 0 is MOV.I64 s9, #0; a Scribe processor is at JMP 3; PACKAGE_POWER_LIMIT is next. -/
def sIss : State :=
  { sOf { gA with s := [(9, 5)], splits := gA.splits.map (fun x => (0, { x.2 with pc := 0x1000, line := some (aloneLine 0x920090000000008000000000) })) } with
    agenda := [.issue 1 0] }
def sScr : State := { sK { procK with code := [(5, 0xC8000003)] } with agenda := [.scribe 3], curProc := none }

theorem ok_of {ε α : Type} [DecidableEq α] (x : Except ε α) (b : α) (h : okIs x (fun a => decide (a = b)) = true) : x = .ok b := by
  cases x with
  | error e => simp [okIs] at h
  | ok a => simpa [okIs] using h

/-- StepRunsDecoded: each clause has a state. -/
theorem test_witness_steps :
    (∃ i, mayRun { sIss with agenda := [] } 1 0 (Map.get gA sIss.groups 1) (Map.get (Split.start 0 0) (Map.get gA sIss.groups 1).splits 0)
      (aloneLine 0x920090000000008000000000) i) ∧
    ((sScr.scribeAt 3).inv.any (fun v => decide (v.steps < jobK.slim) && decodeScribe (Map.get 0 (sScr.scribeAt 3).code (16 * jobK.cbase + v.word)).toNat == some (.jmp 3))) =
      true ∧ sScr.powered = true ∧ sScr.agenda = [.scribe 3] ∧ sIss.memWf = true := by
  refine ⟨⟨.scalarMov ⟨⟨⟨0, false⟩, 9, 0, 0, 0⟩, .i64, 0, .imm, .vec, .vec, 0⟩, ?_⟩, by decide +kernel, rfl, rfl, by decide +kernel⟩
  refine ⟨⟨⟨_, rfl, by decide +kernel⟩, ?_, ?_, ?_, ?_⟩, ?_, ?_, ?_, ?_, ?_, ?_, ?_⟩ <;> first | exact ok_of _ _ (by decide +kernel) | decide +kernel

theorem test_steps :
    nextIs (step sIss) (fun t => (Map.find t.groups 1).any (fun g => Map.get 0 g.s 9 == 0 && (Map.find g.splits 0).any (fun sp => sp.pc == 0x1040)) && t.cur == none &&
      t.memWf && t.idle && t.agenda == []) = true ∧
    nextIs (step sScr) (fun t => (t.scribeAt 3).inv.any (fun v => v.word == 8 && v.steps == 3) && t.curProc == none) = true ∧
    nextIs (step { sM gA with agenda := [.event (.packagePowerLimit true)] }) (fun t => t.lowered && t.idle) = true :=
  ⟨by decide +kernel, by decide +kernel, by decide +kernel⟩

/-- DecodeEncode and DecodeSound: a well-formed instruction of each width, and the slot and word it has. -/
theorem test_witness_decode :
    (let i : Instr := .scalarMov ⟨⟨⟨0, false⟩, 9, 0, 0, 0⟩, .i64, 0, .imm, .vec, .vec, 0⟩
     i.width == 96 && i.wf && (Instr.jmp 3).width == 32 && encode (.jmp 3) == 0xC8000003 && encode i == 0x920090000000008000000000 &&
     (match decodeSlot 11 0 (BitVec.ofNat 96 (encode i)) with | .ok j => decide (j = i) | .error _ => false)) = true := by decide +kernel

/-- The two plain definitions that the host reads words with, on a word of each width. -/
theorem test_fetch_words :
    decodeTableWord 96 0x920090000000008000000000 = some (.scalarMov ⟨⟨⟨0, false⟩, 9, 0, 0, 0⟩, .i64, 0, .imm, .vec, .vec, 0⟩) ∧
    nextIs (step (State.reset.withFetchWord 96 0x920090000000008000000000)) (fun t => t.idle) = true ∧
    nextIs (step (State.reset.withFetchWord 32 0xC8000003)) (fun t => (t.scribeAt 0).inv.any (fun v => v.word == 3)) = true :=
  ⟨by decide +kernel, by decide +kernel, by decide +kernel⟩

/-- A line of two slots, its first paired; the second is ADD.I32 v2, v1, #7 or an LDF that marks flag 0. -/
def pairLine (w : Nat) : Line := BitVec.ofNat 512 (0x920090000000008000000000 + w * 2 ^ 96 + (2 ^ 25 + 0x1F * 2 ^ 20) * 2 ^ 480)
def sPair (line : Line) (flag : Nat) : State :=
  { sM { gA with s := [(9, 5)], cf := [(0, flag)], splits := gA.splits.map (fun x => (0, { x.2 with pc := 0x1000, line := some line })) } with
    agenda := [.issue 1 0] }

/-- StepRunsDecoded and FetchAndAge: a pair issues in one step; where its second instruction is held, neither has; a null slot is
passed alone; and a step leaves no more memory-bound groups unthrottled than the level allows. -/
theorem test_steps_held :
    (let ldf := encode (.ldf (mf 5 12 0 .b32 .far .x true 0 0 always))
     let g1 (t : State) (p : Group → Split → Bool) : Bool := (Map.find t.groups 1).any (fun g => (Map.find g.splits 0).any (p g))
     let bound := { sM gA with
       groups := (List.range 3).map (fun k => (k + 1, { gA with slot := k, ocCopy := 5 })), quads := [(2, { Quad.reset with level := 7 })],
       agenda := [.event (.packagePowerLimit true)] }
     nextIs (step (sPair (pairLine 0x010020100000002000000007) 0)) (fun t => g1 t (fun g sp => sp.pc == 0x1040 && Map.get 0 g.s 9 == 0 &&
       Map.get 0 g.v 64 == 7)) &&
     nextIs (step (sPair (pairLine ldf) 63)) (fun t => g1 t (fun g sp => sp.pc == 0x1000 && Map.get 0 g.s 9 == 5 && g.entries == [])) &&
     nextIs (step (sPair (pairLine ldf) 62)) (fun t => g1 t (fun g sp => sp.pc == 0x1040 && g.entries.length == 1)) &&
     nextIs (step (sPair (aloneLine 0) 0)) (fun t => g1 t (fun g sp => sp.pc == 0x1040 && Map.get 0 g.s 9 == 5)) &&
     nextIs (step bound) (fun t => t.groups.map (fun g => g.2.throttled) == [false, false, true] && levelAllows t 33 == 2)) = true := by decide +kernel
end Sys2Proof.Tests
end

section
/-!
What the host's writes of BAR 0 and a shootdown do (R9, R254, R256, R290, R382, R394, R421), and the obligation HubRegisters.
-/
namespace Sys2Proof.Machine
open Sys2Proof.Claims

/-! ### The window that an offset of BAR 0 lies in -/

theorem exec_registerWrite (off : Nat) (val : DWord) (who : Nat) (s : State) :
    exec (.registerWrite off val who) s = execRegisterWrite off val who s := rfl
theorem exec_ctxsaveWrite (ctx : Nat) (w : RegVal) (s : State) :
    exec (.ctxsaveWrite ctx w) s = execCtxsaveWrite ctx w s := rfl
theorem exec_tlbictlGo (val : DWord) (s : State) : exec (.tlbictlGo val) s = execTlbictlGo val s := rfl
theorem exec_shootdownComplete (s : State) : exec .shootdownComplete s = execShootdownComplete s := rfl

section Windows
variable (s : State) (val : DWord) (who : Nat) {o : Nat}

theorem registerWrite_mailbox (h : o < 0x10000) : exec (.registerWrite o val who) s = .next (writeMailbox s o val who) := by
  have hq : o / 0x10000 = 0 := by omega
  have hr : o % 0x10000 = o := by omega
  rw [exec_registerWrite]; unfold execRegisterWrite; simp only [hq, hr]

theorem registerWrite_translation (h : o < 0x10000) :
    exec (.registerWrite (0x20000 + o) val who) s = .next (writeTranslation s o val who) := by
  have hq : (0x20000 + o) / 0x10000 = 2 := by omega
  have hr : (0x20000 + o) % 0x10000 = o := by omega
  rw [exec_registerWrite]; unfold execRegisterWrite; simp only [hq, hr]

theorem registerWrite_noc {k : Nat} (hs : anySup s who = true) (h : k < 4) :
    exec (.registerWrite (0x30000 + 0x100 * k) val who) s =
      .next { s with noccfg := Map.set 0x1801 s.noccfg k (val &&& 0xFF01) } := by
  have hq : (0x30000 + 0x100 * k) / 0x10000 = 3 := by omega
  have hr : (0x30000 + 0x100 * k) % 0x10000 = 0x100 * k := by omega
  have hlt : 0x100 * k < 0x400 := by omega
  have hdiv : 0x100 * k / 0x100 = k := by omega
  rw [exec_registerWrite]; unfold execRegisterWrite
  simp [hq, hr, hlt, hs, hdiv]

/-- The handler window: register `r` of context `ctx`. -/
theorem registerWrite_handler {ctx r : Nat} (hc : ctx < 64) (hr : r < 0x20) :
    exec (.registerWrite (0x40000 + 0x20 * ctx + r) val who) s = .next (writeHandler s ctx r val who) := by
  have hq : (0x40000 + 0x20 * ctx + r) / 0x10000 = 4 := by omega
  have hm : (0x40000 + 0x20 * ctx + r) % 0x10000 = 0x20 * ctx + r := by omega
  have hlt : 0x20 * ctx + r < 0x800 := by omega
  have hdiv : (0x20 * ctx + r) / 0x20 = ctx := by omega
  have hmod : (0x20 * ctx + r) % 0x20 = r := by omega
  rw [exec_registerWrite]; unfold execRegisterWrite
  simp only [hq, hm, hlt, hdiv, hmod, if_true]

end Windows

/-! ### Registers of a context -/

/-- A change of one context that exists is all that the answer changes. -/
theorem ctxBecomes_modCtx {i : Instr} {s : State} {ctx : Nat} {x : Ctx} (f : Ctx → Ctx) (hx : Map.find s.ctxs ctx = some x)
    (hi : exec i s = .next (modCtx s ctx f)) : ctxBecomes i s ctx (f x) := by
  refine ⟨_, hi, ?_, fun k hk => ?_, rfl⟩
  · simp [modCtx, Map.find_modify, hx]
  · simp [modCtx, Map.find_modify, hk]

/-- R254: PTROOT of a context. -/
theorem writeTranslation_ptroot (s : State) (val : DWord) (who : Nat) {ctx : Nat} (hc : ctx < 64) :
    writeTranslation s (0x1000 + 8 * ctx) val who =
      if supOf s who ctx then modCtx s ctx (fun c => { c with ptroot := val &&& 0x00FFFFFFFFFFF800 }) else s := by
  have hlo : 0x1000 ≤ 0x1000 + 8 * ctx := by omega
  have hlt : 0x1000 + 8 * ctx < 0x1200 := by omega
  have hmod : (0x1000 + 8 * ctx) % 8 = 0 := by omega
  have hdiv : (0x1000 + 8 * ctx - 0x1000) / 8 = ctx := by omega
  unfold writeTranslation
  simp [hlt, hmod]

theorem writeHandler_denied (s : State) (ctx off : Nat) (val : DWord) {who : Nat} (h : supOf s who ctx = false) :
    writeHandler s ctx off val who = s := by simp [writeHandler, h]

section Handler
variable {s : State} {ctx who : Nat} (val : DWord) (h : supOf s who ctx = true)
include h

theorem writeHandler_tventry :
    writeHandler s ctx 0x00 val who = modCtx s ctx (fun c => { c with tventry := val &&& 0x00FFFFFFFFFFFFC0 }) := by
  simp [writeHandler, h]
theorem writeHandler_tvroot :
    writeHandler s ctx 0x08 val who = modCtx s ctx (fun c => { c with tvroot := val &&& 0x00FFFFFFFFFFF800 }) := by
  simp [writeHandler, h]
theorem writeHandler_tvstack :
    writeHandler s ctx 0x10 val who = modCtx s ctx (fun c => { c with tvstack := val &&& 0x00FFFFFFFFFF0000 }) := by
  simp [writeHandler, h]
theorem writeHandler_tvctl : writeHandler s ctx 0x18 val who = modCtx s ctx (fun c => { c with tvctl := val &&& 1 }) := by
  simp [writeHandler, h]

end Handler

section ContextRegisters
variable {s : State} {ctx who : Nat} (val : DWord) {x : Ctx}

theorem registerWrite_ptroot (hc : ctx < 64) :
    exec (.registerWrite (0x21000 + 8 * ctx) val who) s =
      .next (if supOf s who ctx then modCtx s ctx (fun c => { c with ptroot := val &&& 0x00FFFFFFFFFFF800 }) else s) := by
  have ho : 0x21000 + 8 * ctx = 0x20000 + (0x1000 + 8 * ctx) := by omega
  rw [ho, registerWrite_translation _ _ _ (by omega), writeTranslation_ptroot _ _ _ hc]

/-- A register of the handler window, where the write of it is a change of its context. -/
theorem handlerRegister_written {r : Nat} {f : Ctx → Ctx} (hx : Map.find s.ctxs ctx = some x) (hc : ctx < 64) (hr : r < 0x20)
    (hw : writeHandler s ctx r val who = modCtx s ctx f) :
    ctxBecomes (.registerWrite (0x40000 + r + 0x20 * ctx) val who) s ctx (f x) := by
  refine ctxBecomes_modCtx f hx ?_
  rw [← hw, Nat.add_right_comm]
  exact registerWrite_handler s val who hc hr

/-- R254, R382: what the supervisor writes is the writable bits of the one register. -/
theorem contextRegisters_written (hx : Map.find s.ctxs ctx = some x) (hc : ctx < 64) (h : supOf s who ctx = true) :
    ctxBecomes (.registerWrite (0x21000 + 8 * ctx) val who) s ctx { x with ptroot := val &&& 0x00FFFFFFFFFFF800 } ∧
    ctxBecomes (.registerWrite (0x40000 + 0x20 * ctx) val who) s ctx { x with tventry := val &&& 0x00FFFFFFFFFFFFC0 } ∧
    ctxBecomes (.registerWrite (0x40008 + 0x20 * ctx) val who) s ctx { x with tvroot := val &&& 0x00FFFFFFFFFFF800 } ∧
    ctxBecomes (.registerWrite (0x40010 + 0x20 * ctx) val who) s ctx { x with tvstack := val &&& 0x00FFFFFFFFFF0000 } ∧
    ctxBecomes (.registerWrite (0x40018 + 0x20 * ctx) val who) s ctx { x with tvctl := val &&& 1 } := by
  refine ⟨?ptroot, ?tventry, ?tvroot, ?tvstack, ?tvctl⟩
  case ptroot =>
    refine ctxBecomes_modCtx (fun c => { c with ptroot := val &&& 0x00FFFFFFFFFFF800 }) hx ?_
    rw [registerWrite_ptroot val hc, if_pos h]
  case tventry => exact handlerRegister_written val hx hc (by decide) (writeHandler_tventry val h)
  case tvroot => exact handlerRegister_written val hx hc (by decide) (writeHandler_tvroot val h)
  case tvstack => exact handlerRegister_written val hx hc (by decide) (writeHandler_tvstack val h)
  case tvctl => exact handlerRegister_written val hx hc (by decide) (writeHandler_tvctl val h)

theorem contextRegisters_denied (hc : ctx < 64) (h : supOf s who ctx = false) :
    exec (.registerWrite (0x21000 + 8 * ctx) val who) s = .next s ∧
    ∀ k, k < 4 → exec (.registerWrite (0x40000 + 0x20 * ctx + 8 * k) val who) s = .next s := by
  constructor
  · rw [registerWrite_ptroot val hc, h]; rfl
  · intro k hk
    rw [registerWrite_handler s val who hc (by omega), writeHandler_denied _ _ _ _ h]

/-- R394: CTXSAVE is taken from the supervisor, until a team of the context has been placed. -/
theorem ctxsave_written (hx : Map.find s.ctxs ctx = some x) :
    ctxBecomes (.ctxsaveWrite ctx ⟨val, who⟩) s ctx
      (if x.placedOnce = true ∨ supOf s who ctx = false then x else { x with ctxsave := val &&& 0x00FFFFFFFFE00000 }) := by
  have h := ctxBecomes_modCtx _ hx (exec_ctxsaveWrite ctx ⟨val, who⟩ s)
  simpa using h

end ContextRegisters

/-! ### The mailbox (R421) -/

theorem writeMailbox_busy {s : State} (h : bit s.mbstat 0 = true) (off : Nat) (val : DWord) (who : Nat) :
    writeMailbox s off val who = s := by simp [writeMailbox, h]

theorem writeMailbox_args {s : State} (h : bit s.mbstat 0 = false) (val : DWord) (who : Nat) :
    writeMailbox s 0x08 val who = { s with mbarg0 := val } ∧ writeMailbox s 0x10 val who = { s with mbarg1 := val } ∧
    writeMailbox s 0x18 val who = { s with mbarg2 := val } ∧ writeMailbox s 0x20 val who = { s with mbarg3 := val } := by
  simp [writeMailbox, h]

theorem writeMailbox_go {s : State} (h : bit s.mbstat 0 = false) {val : DWord} (hgo : bit val 31 = true) (who : Nat) :
    writeMailbox s 0 val who = { s with
      mbcmd := val &&& 0x80003FFF, mbstat := 1,
      cmdq := s.cmdq ++ [(bits val 7 0, ⟨who, false, bits val 13 8, s.mbarg0, s.mbarg1, s.mbarg2, s.mbarg3⟩)] } := by
  simp [writeMailbox, h, hgo, mailboxGo]

/-! ### Shootdowns (R256) -/

/-- What a shootdown waits for: a request translated by its range, an update of a frame of its context, an operation on an object
that was placed before. -/
def shootWaits (s : State) : Prop :=
  (∃ r, r ∈ s.fabReqs ∧ shootPending s r.2 = true) ∨ (∃ u, u ∈ s.frameQ ∧ u.ctx = bits s.tlbictl 5 0) ∨
    namesPending s (bits s.tlbictl 5 0) = true

/-- The translation that a whole-context shootdown puts in use (R254). -/
def shootRoot (s : State) : Nat :=
  let ctx := bits s.tlbictl 5 0
  if bits s.tlbictl 7 6 == 3 then (match Map.find s.ctxs ctx with | some c => c.ptroot.toNat | none => ctxRoot s ctx)
  else ctxRoot s ctx

/-- Whether a translation lies in the range is a comparison of numbers. -/
@[reducible] def decInShootdown (s : State) : DecidablePred (inShootdown s) := fun _ => inferInstanceAs (Decidable (_ ∧ _ ∧ _))

/-- The state without the translations of the range; fetch has taken its own anew (R257). -/
def shotDown (s : State) : State :=
  have := decInShootdown s
  { s with
    tlb := s.tlb.flatMap (fun t => if inShootdown s t then refetch s (ctxRoot s (bits s.tlbictl 5 0)) (shootRoot s) t else [t]),
    tlbibusy := false, tlbictl := s.tlbictl &&& 0xFF }

theorem bits_lt {n : Nat} (w : BitVec n) (hi lo : Nat) : bits w hi lo < 2 ^ (hi + 1 - lo) := Nat.mod_lt _ (by positivity)

theorem shootBytes_eq (s : State) :
    shootBytes s = (match bits s.tlbictl 7 6 with | 0 => 2 ^ 16 | 1 => 2 ^ 21 | 2 => 2 ^ 30 | _ => 2 ^ 56) := by
  have h : bits s.tlbictl 7 6 < 4 := bits_lt _ 7 6
  unfold shootBytes
  generalize bits s.tlbictl 7 6 = k at h
  interval_cases k <;> rfl

theorem shootdown_waits {s : State} (h : s.tlbibusy = false ∨ shootWaits s) : exec .shootdownComplete s = .next s := by
  rw [exec_shootdownComplete]
  unfold execShootdownComplete
  refine if_pos ?_
  rcases h with h | ⟨r, hr, hp⟩ | ⟨u, hu, hc⟩ | h
  · simp [h]
  · have : s.fabReqs.any (fun r => shootPending s r.2) = true := List.any_eq_true.mpr ⟨r, hr, hp⟩
    simp [this]
  · have : s.frameQ.any (fun u => u.ctx == bits s.tlbictl 5 0) = true := List.any_eq_true.mpr ⟨u, hu, by simp [hc]⟩
    simp [this]
  · simp [h]

theorem shootdown_done {s : State} (hb : s.tlbibusy = true) (hw : ¬ shootWaits s) :
    exec .shootdownComplete s = .next (if bits s.tlbictl 7 6 = 3 then
      modCtx (shotDown s) (bits s.tlbictl 5 0) (fun c => { c with ptrootUsed := c.ptroot }) else shotDown s) := by
  simp only [shootWaits, not_or, not_exists, not_and, Bool.not_eq_true] at hw
  obtain ⟨hreq, hframe, hname⟩ := hw
  have h1 : s.fabReqs.any (fun r => shootPending s r.2) = false := by
    simpa using hreq
  have h2 : s.frameQ.any (fun u => u.ctx == bits s.tlbictl 5 0) = false := by
    simpa using hframe
  rw [exec_shootdownComplete]
  unfold execShootdownComplete
  rw [if_neg (by simp [hb, h1, h2, hname])]
  simp only [shotDown, shootRoot, inShootdown, shootBytes_eq, beq_iff_eq, Bool.and_eq_true, decide_eq_true_eq, and_assoc] <;> rfl

/-- What a core's fetch keeps of a discarded translation is the entry of the page as it is now (R257). -/
theorem mem_refetch {s : State} {r0 r1 : Nat} {t e : Tlb} (h : e ∈ refetch s r0 r1 t) :
    e.x = true ∧ ∃ l, walk s e.root (BitVec.ofNat 64 t.page) = .ok l ∧ e.leaf = l.word ∧ e.page = l.page ∧ e.size = l.size ∧
      leafPerm l .x = .ok () := by
  unfold refetch at h
  cases hx : t.x with
  | false => simp [hx] at h
  | true =>
    simp only [hx, Bool.not_true, Bool.false_eq_true, if_false, List.mem_filterMap] at h
    obtain ⟨root, -, h⟩ := h
    split at h
    · rename_i l hl
      split at h
      · rename_i hp
        cases h
        exact ⟨rfl, l, hl, rfl, rfl, rfl, hp⟩
      · cases h
    · cases h

theorem mem_shotDown {s : State} {e : Tlb} :
    e ∈ (shotDown s).tlb ↔ (e ∈ s.tlb ∧ ¬ inShootdown s e) ∨
      ∃ t, t ∈ s.tlb ∧ inShootdown s t ∧ e ∈ refetch s (ctxRoot s (bits s.tlbictl 5 0)) (shootRoot s) t := by
  simp only [shotDown, List.mem_flatMap]
  constructor
  · rintro ⟨t, ht, he⟩
    split at he
    · exact .inr ⟨t, ht, ‹_›, he⟩
    · obtain rfl := List.mem_singleton.mp he
      exact .inl ⟨ht, ‹_›⟩
  · rintro (⟨he, hn⟩ | ⟨t, ht, hin, he⟩)
    · exact ⟨e, he, by simp [hn]⟩
    · exact ⟨t, ht, by simpa [hin] using he⟩

/-- No translation of the range serves an access any more, and no other is lost. -/
theorem mem_shotDown_access {s : State} {e : Tlb} (hx : e.x = false) : e ∈ (shotDown s).tlb ↔ e ∈ s.tlb ∧ ¬ inShootdown s e := by
  rw [mem_shotDown]
  refine or_iff_left ?_
  rintro ⟨t, -, -, he⟩
  exact absurd (mem_refetch he).1 (by simp [hx])

/-- What fetch holds of the range, it holds as the entry is now. -/
theorem mem_shotDown_fresh {s : State} {e : Tlb} (h : e ∈ (shotDown s).tlb) (hnew : e ∉ s.tlb ∨ inShootdown s e) :
    ∃ l p, walk s e.root (BitVec.ofNat 64 p) = .ok l ∧ e.leaf = l.word ∧ e.page = l.page ∧ e.size = l.size ∧
      leafPerm l .x = .ok () := by
  rcases mem_shotDown.mp h with ⟨he, hn⟩ | ⟨t, -, -, he⟩
  · exact absurd hnew (by simp [he, hn])
  · obtain ⟨-, l, hl⟩ := mem_refetch he
    exact ⟨l, t.page, hl⟩

end Sys2Proof.Machine

open Sys2Proof Sys2Proof.Machine Sys2Proof.Claims

/-- Settles O48: each window of BAR 0 by its registers, and a shootdown by the translations that it leaves. -/
theorem hubRegisters : Obligations.HubRegisters := by
  unfold Obligations.HubRegisters
  refine ⟨fun s ctx who val x hx hc => ⟨contextRegisters_written val hx hc, contextRegisters_denied val hc, ctxsave_written val hx⟩,
    ?mailbox, ?busy, fun s val who k hs hk => registerWrite_noc s val who hs hk, ?tlbictl, ?shootdown⟩
  case mailbox =>
    intro s val who h
    obtain ⟨h0, h1, h2, h3⟩ := writeMailbox_args h val who
    have at0 (o : Nat) (ho : o < 0x10000) (t : State) (ht : writeMailbox s o val who = t) :
        exec (.registerWrite o val who) s = .next t := by rw [registerWrite_mailbox s val who ho, ht]
    exact ⟨at0 0x08 (by decide) _ h0, at0 0x10 (by decide) _ h1, at0 0x18 (by decide) _ h2, at0 0x20 (by decide) _ h3,
      fun hgo => at0 0 (by decide) _ (writeMailbox_go h hgo who)⟩
  case busy =>
    intro s val who k h hk
    rw [registerWrite_mailbox _ _ _ (by omega), writeMailbox_busy h]
  case tlbictl =>
    intro s val
    rw [exec_tlbictlGo]
    unfold execTlbictlGo
    split <;> rfl
  case shootdown =>
    intro s
    refine ⟨fun h => shootdown_waits h, fun hb hw => ⟨_, shootdown_done hb hw, ?_⟩⟩
    by_cases hall : bits s.tlbictl 7 6 = 3
    · rw [if_pos hall]
      refine ⟨rfl, fun e hx => mem_shotDown_access hx, fun e he hn => mem_shotDown.mpr (.inl ⟨he, hn⟩),
        fun e he hnew => mem_shotDown_fresh he hnew, fun k x hk => ?_, rfl⟩
      by_cases hkc : k = bits s.tlbictl 5 0
      · subst hkc; simp [modCtx, shotDown, Map.find_modify, hk, hall]
      · simp [modCtx, shotDown, Map.find_modify, hk, hkc]
    · rw [if_neg hall]
      refine ⟨rfl, fun e hx => mem_shotDown_access hx, fun e he hn => mem_shotDown.mpr (.inl ⟨he, hn⟩),
        fun e he hnew => mem_shotDown_fresh he hnew, fun k x hk => ?_, rfl⟩
      simp [shotDown, hk, hall]
end

section
/-!
What ends with a context (R417, R425): CTXEND takes the context out of the table of contexts and leaves every other one there.
-/
namespace Sys2Proof.Machine

/-! ### Operations that leave the contexts and a FREEZE alone -/

/-- Every context is as it was, and so is a FREEZE that runs. -/
def sameContexts (s t : State) : Prop := t.ctxs = s.ctxs ∧ t.freeze = s.freeze

theorem sameContexts.refl (s : State) : sameContexts s s := ⟨rfl, rfl⟩

theorem sameContexts.trans {s t u : State} (h1 : sameContexts s t) (h2 : sameContexts t u) : sameContexts s u :=
  ⟨h2.1.trans h1.1, h2.2.trans h1.2⟩

theorem sameContexts_foldl {α : Type} {f : State → α → State} (h : ∀ s x, sameContexts s (f s x)) (l : List α) (s : State) :
    sameContexts s (l.foldl f s) := by
  induction l generalizing s with
  | nil => exact .refl s
  | cons x t ih => exact (h s x).trans (ih _)

theorem applyFrames_sameContexts (s : State) (pa n : Nat) : sameContexts s (applyFrames s pa n) :=
  sameContexts_foldl (f := fun s (u : FrameUpd) => s.wr u.pa u.bytes) (fun s _ => .refl s) _ s

theorem wrFrame_sameContexts (s : State) (pa : Nat) (bs : List Byte) : sameContexts s (wrFrame s pa bs) :=
  applyFrames_sameContexts s pa bs.length

theorem wrTgt_sameContexts (s : State) (w : Writer) (pa size : Nat) (repl prop : Bool) (bs : List Byte) :
    sameContexts s (wrTgt s w pa size repl prop bs) := by
  unfold wrTgt
  split
  · exact wrFrame_sameContexts ..
  · split
    · exact sameContexts_foldl (fun s a => wrFrame_sameContexts s a bs) _ s
    · exact wrFrame_sameContexts s (pa + w.die * size) bs

theorem atomAt_sameContexts {s t : State} {w : Writer} {pa size : Nat} {repl prop : Bool} {op ety n b c old : Nat}
    (h : atomAt s w pa size repl prop op ety n b c = .ok (old, t)) : sameContexts s t := by
  unfold atomAt at h
  dsimp only at h
  split at h
  · cases h
  · split at h
    · cases h
    · split at h
      · cases h
      · cases h
        exact wrTgt_sameContexts ..

theorem holdLeaf_sameContexts (s : State) (core ctx root : Nat) (l : Leaf) (a : Acc) :
    sameContexts s (holdLeaf s core ctx root l a) := by
  unfold holdLeaf
  dsimp only
  split <;> exact .refl s

theorem xlate_sameContexts {s t : State} {core ctx root : Nat} {va : DWord} {a : Acc} {tg : Tgt}
    (h : xlate s core ctx root va a = .ok (tg, t)) : sameContexts s t := by
  unfold xlate at h
  cases hl : leafFor s core root va a with
  | error e => simp [hl, bind, Except.bind] at h
  | ok l =>
    cases hp : leafPerm l a with
    | error e => simp [hl, hp, bind, Except.bind] at h
    | ok _ =>
      simp only [hl, hp, bind, Except.bind, pure, Except.pure, Except.ok.injEq, Prod.mk.injEq] at h
      rw [← h.2]
      exact holdLeaf_sameContexts ..

theorem farRed_sameContexts (s : State) (gid core key : Nat) : sameContexts s (farRed s gid core key) := by
  unfold farRed
  dsimp only
  split <;> exact .refl s

theorem send_sameContexts (s : State) (m : OutMsg) : sameContexts s (s.send m) := by
  unfold State.send
  split <;> exact .refl s

theorem enqueue_sameContexts {s t : State} {h : Hook} {p : Packet} {dir : Nat} (e : enqueue s h p dir = some t) :
    sameContexts s t := by
  unfold enqueue at e
  dsimp only at e
  split at e
  · cases e
  · cases e
    exact .refl s

theorem sendOut_sameContexts (s : State) (p : Packet) (m : OutMsg) : sameContexts s (sendOut s p m) := by
  unfold sendOut
  split
  · exact send_sameContexts s m
  · split
    · exact enqueue_sameContexts ‹_›
    · exact .refl s

theorem postWrite_sameContexts (s : State) (gid : Nat) (r : FabReq) : sameContexts s (postWrite s gid r) := by
  unfold postWrite
  split
  · exact .refl s
  · split
    · exact sendOut_sameContexts _ r.pkt (.request r.pkt)
    · exact .refl s

/-- The state that performing an access leaves, where it has been performed. -/
def Perf.stateOr (p : Perf) (s : State) : State :=
  match p with
  | .done t _ _ | .sent t | .posted t _ => t
  | _ => s

/-- An atomic that is not performed waits or faults. -/
theorem atomAt_error {s : State} {w : Writer} {pa size : Nat} {repl prop : Bool} {op ety n b c : Nat} {p : Perf}
    (h : atomAt s w pa size repl prop op ety n b c = .error p) (s0 : State) : p.stateOr s0 = s0 := by
  unfold atomAt at h
  dsimp only at h
  split at h
  · cases h; rfl
  · split at h
    · cases h; rfl
    · split at h
      · cases h; rfl
      · cases h

theorem drainOne_sameContexts (s : State) (r : RedEntry) : sameContexts s ((drainOne s r).stateOr s) := by
  unfold drainOne
  split
  · exact .refl s
  · split
    · exact .refl s
    · split
      · exact .refl s
      · rename_i hx
        split
        · rename_i ha
          rw [atomAt_error ha]
          exact .refl s
        · rename_i ha
          exact ((xlate_sameContexts hx).trans (atomAt_sameContexts ha)).trans (farRed_sameContexts ..)
      · rename_i s1 hx
        split
        · exact .refl s
        · have hpost := postWrite_sameContexts { s1 with nextId := s1.nextId + 1 } r.gid
          exact (xlate_sameContexts hx).trans ((hpost _).trans (farRed_sameContexts ..))

/-! ### Dropping a context -/

theorem settleFrames_sameContexts (s : State) (ctx : Nat) : sameContexts s (settleFrames s ctx) :=
  sameContexts_foldl (f := fun s (u : FrameUpd) => applyFrames s u.pa u.bytes.length)
    (fun s u => applyFrames_sameContexts s u.pa u.bytes.length) _ s

theorem drainEnding_sameContexts (s : State) (ctx : Nat) : sameContexts s (drainEnding s ctx) := by
  have hdrain (es : List RedEntry) (s1 : State) :=
    sameContexts_foldl (f := fun s (r : RedEntry) => (drainOne s { r with owner := .writer }).stateOr s)
      (fun s r => drainOne_sameContexts s _) es s1
  unfold drainEnding
  split
  · split
    · exact .refl s
    · exact sameContexts.trans (t := { s with groups := _ }) ⟨rfl, rfl⟩ (hdrain _ _)
  · exact .refl s

theorem dropContext_ctxs (s : State) (ctx : Nat) :
    (dropContext s ctx).ctxs = Map.del s.ctxs ctx ∧ (dropContext s ctx).freeze = s.freeze := by
  have h : sameContexts s (settleFrames (drainEnding (dropLines s ctx) ctx) ctx) :=
    (drainEnding_sameContexts (dropLines s ctx) ctx).trans (settleFrames_sameContexts _ ctx)
  exact ⟨congrArg (Map.del · ctx) h.1, h.2⟩

/-! ### Another context takes its place on a core -/

theorem fillGroup_sameContexts (s : State) (gid : Nat) (g : Group) (at0 : Nat) : sameContexts s (fillGroup s gid g at0) := .refl s

theorem fillTeam_sameContexts (s : State) (tid : Nat) (t : Team) (at0 : Nat) : sameContexts s (fillTeam s tid t at0) := .refl s

theorem fillCore_sameContexts (s : State) (core ctx : Nat) : sameContexts s (fillCore s core ctx) := by
  unfold fillCore
  refine (sameContexts_foldl ?team _ s).trans (sameContexts_foldl ?group _ _)
  case team => intro s t; split; exacts [fillTeam_sameContexts .., .refl s]
  case group => intro s g; split; exacts [fillGroup_sameContexts .., .refl s]

theorem wakeGroups_sameContexts (s : State) (core ctx : Nat) : sameContexts s (wakeGroups s core ctx) :=
  fillCore_sameContexts s core ctx

theorem nextActive_sameContexts (s : State) (core : Nat) : sameContexts s (nextActive s core) := by
  unfold nextActive
  dsimp only
  split
  · exact .refl s
  · split
    · exact .refl s
    · split
      · exact .refl s
      · exact wakeGroups_sameContexts (s.putCore core _) core _

theorem leaveCore_sameContexts (ctx : Nat) (old s : State) (core : Nat) : sameContexts s (leaveCore ctx old s core) := by
  unfold leaveCore
  dsimp only
  refine .trans ?_ (nextActive_sameContexts _ core)
  split
  · split
    · exact wakeGroups_sameContexts s core _
    · exact .refl s
  · exact .refl s

/-! ### Ending contexts -/

/-- R417: the context is gone, every other one is there, and a FREEZE that runs goes on. -/
theorem endContext_ctxs (s : State) (ctx : Nat) :
    (endContext s ctx).ctxs = Map.del s.ctxs ctx ∧ (endContext s ctx).freeze = s.freeze := by
  have hleave : sameContexts (dropContext s ctx) (endContext s ctx) :=
    sameContexts_foldl (fun t core => leaveCore_sameContexts ctx s t core) _ _
  obtain ⟨hctxs, hfreeze⟩ := dropContext_ctxs s ctx
  exact ⟨hleave.1.trans hctxs, hleave.2.trans hfreeze⟩

/-- Contexts that end one after another take away the contexts of their numbers, and those alone. -/
theorem foldl_endContext_ctxs (ks : List Nat) (s : State) :
    (∀ x, x ∈ (ks.foldl endContext s).ctxs ↔ x ∈ s.ctxs ∧ x.1 ∉ ks) ∧ (ks.foldl endContext s).freeze = s.freeze := by
  induction ks generalizing s with
  | nil => simp
  | cons k t ih =>
    obtain ⟨hmem, hfreeze⟩ := ih (endContext s k)
    obtain ⟨hctxs, hfreeze1⟩ := endContext_ctxs s k
    refine ⟨fun x => ?_, hfreeze.trans hfreeze1⟩
    rw [List.foldl_cons, hmem, hctxs]
    simp [Map.del, and_assoc]

/-- R425: when every context that is there ends, none is left. -/
theorem foldl_endContext_all (s : State) :
    ((Map.keys s.ctxs).foldl endContext s).ctxs = [] ∧ ((Map.keys s.ctxs).foldl endContext s).freeze = s.freeze := by
  obtain ⟨hmem, hfreeze⟩ := foldl_endContext_ctxs (Map.keys s.ctxs) s
  refine ⟨List.eq_nil_iff_forall_not_mem.mpr fun x hx => ?_, hfreeze⟩
  obtain ⟨hin, hnot⟩ := (hmem x).mp hx
  exact hnot (List.mem_map_of_mem hin)

end Sys2Proof.Machine
end

section
/-!
What reaches the device from the host and its sensors (R4, R244, R392, R419, R420, R424, R425), and the obligation DeviceEvents.
-/
namespace Sys2Proof.Machine

/-! ### The host's memory path (R243, R420) -/

theorem exec_hostMemAccess (wr : Bool) (addr : Nat) (val : Byte) (s : State) :
    exec (.hostMemAccess wr addr val) s = execHostMemAccess wr addr val s := rfl

/-- R243: the eighth window is the host's, from 0x080000000000 to 0x0FFFFFFFFFFF. -/
theorem windowOf_eq_host (a : Nat) : windowOf a = 8 ↔ 0x080000000000 ≤ a ∧ a ≤ 0x0FFFFFFFFFFF := by
  unfold windowOf
  simp only [Bool.and_eq_true, decide_eq_true_eq]
  split_ifs with hbm tier scratch host
  · omega
  · omega
  · omega
  · exact iff_of_true rfl host
  · exact iff_of_false (by decide) host

/-- What the host reaches: HBM, and its own memory as far as it is fitted. -/
theorem hostReaches_iff (s : State) (a : Nat) : hostReaches s a = true ↔
    a < 768 * 2 ^ 30 ∨ (0x080000000000 ≤ a ∧ a ≤ 0x0FFFFFFFFFFF ∧ a < 0x080000000000 + s.fitted.hostBytes) := by
  unfold hostReaches
  rw [Bool.or_eq_true, decide_eq_true_eq, Bool.and_eq_true, beq_iff_eq, windowOf_eq_host, and_assoc]
  refine or_congr_right (and_congr_right fun hlo => and_congr_right fun hhi => ?_)
  have hpop : populated s a = decide (a - 0x080000000000 < s.fitted.hostBytes) := by
    simp only [populated, (windowOf_eq_host a).mpr ⟨hlo, hhi⟩]
  rw [hpop, decide_eq_true_eq]
  omega

theorem hostMemAccess_outside {s : State} {a : Nat} (h : hostReaches s a = false) (w : Bool) (b : Byte) :
    exec (.hostMemAccess w a b) s = .next s := by
  rw [exec_hostMemAccess]; simp [execHostMemAccess, h]

theorem hostMemAccess_write {s : State} {a : Nat} (h : hostReaches s a = true) (b : Byte) :
    exec (.hostMemAccess true a b) s = .next (s.wr a [b]) := by
  rw [exec_hostMemAccess]; simp [execHostMemAccess, h]

theorem hostMemAccess_read {s : State} {a : Nat} (h : hostReaches s a = true) (b : Byte) :
    ∃ x, exec (.hostMemAccess false a b) s = .next { s with hostRead := s.hostRead ++ [(a, x)] } ∧
      (poisoned s.poison a 1 = false → x = s.mem.byte a) := by
  rw [exec_hostMemAccess]
  unfold execHostMemAccess
  rw [if_neg (by simp [h]), if_neg (by simp)]
  exact ⟨_, rfl, fun hp => by simp [hp]⟩

/-! ### Soft errors (R392) -/

theorem eccScrub_corrected (s : State) (loc : EccLoc) :
    exec (.eccScrub loc false) s = .next { s with eccCorr := s.eccCorr + 1 } := rfl
theorem eccScrub_uncorrectable (s : State) (loc : EccLoc) :
    exec (.eccScrub loc true) s = .next { (markPoison s loc) with eccUnc := s.eccUnc + 1 } := rfl

theorem mem_insNat_self (l : List Nat) (n : Nat) : n ∈ insNat l n := by simp [insNat]

/-- The word of an address is poisoned once it is listed. -/
theorem poisoned_insNat (l : List Nat) (a : Nat) : poisoned (insNat l (a / 4)) a 1 = true := by
  unfold poisoned
  refine List.any_eq_true.mpr ⟨a / 4, mem_insNat_self l _, ?_⟩
  rw [Bool.and_eq_true, decide_eq_true_eq, decide_eq_true_eq]
  omega

@[simp] theorem State.scribeAt_putScribe (s : State) (n : Nat) (x : Scribe) : (s.putScribe n x).scribeAt n = x := by
  simp [State.scribeAt, Map.get]

/-! ### Power (R4, R424) -/

theorem exec_powerOn (fit : Fitted) (s : State) : exec (.powerOn fit) s = execPowerOn fit s := rfl

/-- R437: a configuration record sets none but these fields. -/
theorem bootRecord_frame (s : State) (r : List Byte) :
    { bootRecord s r with ownerKeys := s.ownerKeys, tier2 := s.tier2, machChk := s.machChk, nativeOk := s.nativeOk, tjmax := s.tjmax,
                          ptpDomain := s.ptpDomain, cfgOk := s.cfgOk } = s := by
  unfold bootRecord
  split
  · unfold applyRecord
    dsimp only
    split <;> rfl
  · rfl

theorem boot_frame (rs : List (List Byte)) (s : State) :
    { rs.foldl bootRecord s with ownerKeys := s.ownerKeys, tier2 := s.tier2, machChk := s.machChk, nativeOk := s.nativeOk,
                                 tjmax := s.tjmax, ptpDomain := s.ptpDomain, cfgOk := s.cfgOk } = s := by
  induction rs generalizing s with
  | nil => rfl
  | cons r t ih =>
    have h := congrArg (fun x : State => { x with
      ownerKeys := s.ownerKeys, tier2 := s.tier2, machChk := s.machChk, nativeOk := s.nativeOk, tjmax := s.tjmax,
      ptpDomain := s.ptpDomain, cfgOk := s.cfgOk }) (ih (bootRecord s r))
    exact h.trans (bootRecord_frame s r)

theorem powerOn_powered {s : State} (fit : Fitted) (h : s.powered = true) : exec (.powerOn fit) s = .next s := by
  rw [exec_powerOn]; simp [execPowerOn, h]

/-- The state that boot begins from: nothing but the hub's store has lasted. -/
def bootState (fit : Fitted) (s : State) : State :=
  { State.reset with fitted := fit, cfgStore := s.cfgStore, free := s.free, rotor := s.rotor, agenda := s.agenda }

theorem powerOn_boots {s : State} (fit : Fitted) (h : s.powered = false) :
    exec (.powerOn fit) s = .next (s.cfgStore.foldl bootRecord (bootState fit s)) := by
  rw [exec_powerOn]; simp [execPowerOn, h, bootState]

theorem powerOn_state {s : State} (fit : Fitted) (h : s.powered = false) :
    ∃ t, exec (.powerOn fit) s = .next t ∧ t.powered = true ∧ t.svclevel = 0 ∧ t.mem = [] ∧ t.groups = [] ∧
      t.teams = [] ∧ t.ctxs = [] ∧ t.parts = [] ∧ t.cfgStore = s.cfgStore ∧ t.fitted = fit := by
  have hf := boot_frame s.cfgStore (bootState fit s)
  exact ⟨_, powerOn_boots fit h, congrArg State.powered hf, congrArg State.svclevel hf, congrArg State.mem hf,
    congrArg State.groups hf, congrArg State.teams hf, congrArg State.ctxs hf, congrArg State.parts hf,
    (congrArg State.cfgStore hf).trans rfl, (congrArg State.fitted hf).trans rfl⟩

/-! ### Heat (R425) -/

theorem exec_thermalShutdown (s : State) : exec .thermalShutdown s = execThermalShutdown s := rfl
theorem exec_thermalRecover (s : State) : exec .thermalRecover s = execThermalRecover s := rfl
theorem exec_trainingComplete (s : State) : exec .trainingComplete s = execTrainingComplete s := rfl
theorem exec_thermalSample (tj hot : Nat) (s : State) : exec (.thermalSample tj hot) s = execThermalSample tj hot s := rfl

@[simp] theorem reply_freeze (s : State) (b : Bool) (n : Nat) : (reply s b n).freeze = s.freeze := by unfold reply; split <;> rfl

theorem endFreeze_freeze (s : State) (f : FreezeJob) (status len : Nat) : (endFreeze s f status len).freeze = none := by
  unfold endFreeze
  dsimp only
  split
  · simp
  · split
    · rfl
    · simp

theorem thermalShutdown_waits {s : State} {since : Nat} (hs : s.hotSince = some since)
    (h : s.therm ≠ 1 ∨ s.tick < since + 200000000) : exec .thermalShutdown s = .next s := by
  rw [exec_thermalShutdown]
  unfold execThermalShutdown
  rw [hs]
  refine if_pos ?_
  rw [Bool.or_eq_true, bne_iff_ne, decide_eq_true_eq]
  exact h

/-- The shutdown ends every context and a FREEZE that runs. -/
theorem thermalShutdown_ends {s : State} {since : Nat} (hs : s.hotSince = some since) (h1 : s.therm = 1)
    (ht : since + 200000000 ≤ s.tick) :
    ∃ t, exec .thermalShutdown s = .next t ∧ t.therm = 2 ∧ t.ctxs = [] ∧ t.freeze = none := by
  have hgo : ¬ (s.therm != 1 || decide (s.tick < since + hotLimit)) = true := by
    rw [Bool.or_eq_true, bne_iff_ne, decide_eq_true_eq, not_or, not_lt]
    exact ⟨not_not.mpr h1, ht⟩
  rw [exec_thermalShutdown]
  unfold execThermalShutdown
  rw [hs]
  simp only [hgo, Bool.false_eq_true, if_false]
  cases hf : s.freeze with
  | none =>
    obtain ⟨hc, hz⟩ := foldl_endContext_all s
    exact ⟨_, rfl, rfl, hc, hz.trans hf⟩
  | some f =>
    obtain ⟨hc, hz⟩ := foldl_endContext_all (endFreeze s f 1 0)
    exact ⟨_, rfl, rfl, hc, hz.trans (endFreeze_freeze s f 1 0)⟩

theorem thermalRecover_eq {s : State} {since : Nat} (hs : s.coolSince = some since) : exec .thermalRecover s =
    .next (if s.therm = 1 ∧ since + 2000000000 ≤ s.tick then { s with therm := 0 } else s) := by
  rw [exec_thermalRecover]
  unfold execThermalRecover
  rw [hs]
  have hc : (s.therm == 1 && decide (since + coolLimit ≤ s.tick)) = true ↔ s.therm = 1 ∧ since + 2000000000 ≤ s.tick := by
    rw [Bool.and_eq_true, beq_iff_eq, decide_eq_true_eq]
    rfl
  by_cases h : s.therm = 1 ∧ since + 2000000000 ≤ s.tick
  · simp only [if_pos (hc.mpr h), if_pos h]
  · simp only [if_neg (mt hc.mp h), if_neg h]

theorem trainingComplete_eq (s : State) : exec .trainingComplete s =
    .next (if s.svclevel = 0 ∧ s.cfgOk = true then { s with svclevel := 1 } else s) := by
  rw [exec_trainingComplete]
  simp [execTrainingComplete]

theorem thermalSample_eq (s : State) (tj hot : Nat) : exec (.thermalSample tj hot) s = .next { s with
    tj := tj % 256,
    therm := if s.therm = 0 ∧ s.tjmax < tj then 1 else s.therm,
    hotSince := if s.tjmax < tj then some (s.hotSince.getD s.tick) else none,
    coolSince := if tj + 10 ≤ s.tjmax ∧ hot + 10 ≤ s.tjmax then some (s.coolSince.getD s.tick) else none } := by
  rw [exec_thermalSample]
  simp [execThermalSample, tooHot]

/-! ### Ports and measurements (R419, R423) -/

theorem exec_fabricPortStateChange (port st peer : Nat) (s : State) :
    exec (.fabricPortStateChange port st peer) s = execFabricPortStateChange port st peer s := rfl
theorem exec_getMeasurements (k : Nat) (s : State) : exec (.getMeasurements k) s = execGetMeasurements k s := rfl

/-- R340: a port of the 18 takes its state and its peer, at full service. -/
theorem fabricPort_set {s : State} {port st : Nat} (peer : Nat) (hsvc : s.svclevel ≠ 0) (hport : port < 18) (hst : st ≤ 2) :
    ∃ t p, exec (.fabricPortStateChange port st peer) s = .next t ∧ Map.find t.ports port = some p ∧ p.st = st ∧ p.peer = peer ∧
      (∀ k, k ≠ port → Map.find t.ports k = Map.find s.ports k) ∧ { t with ports := s.ports } = s := by
  rw [exec_fabricPortStateChange]
  unfold execFabricPortStateChange
  rw [if_neg (by simp [hsvc]; omega)]
  exact ⟨_, _, rfl, Map.find_put_self _ _ _, rfl, rfl, fun k hk => Map.find_put_ne _ _ hk, rfl⟩

@[simp] theorem length_sliceB (l : List Byte) (lo n : Nat) : (sliceB l lo n).length = n := by simp [sliceB]

/-- R419: the report of index 1 + ctx, with both signatures. -/
theorem getMeasurements_report (s : State) {k : Nat} (h1 : 1 ≤ k) (h64 : k ≤ 64) : ∃ ed ml, ed.length = 64 ∧ ml.length = 3309 ∧
    exec (.getMeasurements k) s = .next { s with reports := s.reports ++ [measureReport s (k - 1) ++ ed ++ ml] } := by
  rw [exec_getMeasurements]
  unfold execGetMeasurements
  rw [if_neg (by simp; omega)]
  exact ⟨_, _, length_sliceB _ 0 64, length_sliceB _ 0 3309, rfl⟩

end Sys2Proof.Machine

open Sys2Proof Sys2Proof.Machine Sys2Proof.Claims

/-- Settles O54: each event by its equation; that a shutdown leaves no context is the induction over the contexts that end. -/
theorem deviceEvents : Obligations.DeviceEvents := by
  unfold Obligations.DeviceEvents
  refine ⟨fun s a b => ⟨fun h => ?hostIn, fun hlo hhi w => ?hostOut⟩, eccScrub_corrected, fun s pa => ?mem, fun s gid key g hg => ?reg,
    fun s tid off u hu => ?team, fun s proc slot => ?flow, fun s fit => ?power, trainingComplete_eq,
    fun s tj hot => ⟨_, thermalSample_eq s tj hot, rfl, rfl, rfl, rfl, rfl⟩,
    fun s since hs => ⟨thermalShutdown_waits hs, thermalShutdown_ends hs⟩, fun s since hs => thermalRecover_eq hs, fun s on => rfl,
    fun s port st peer => fabricPort_set peer, fun s k => getMeasurements_report s⟩
  case hostIn =>
    have hr := (hostReaches_iff s a).mpr h
    exact ⟨hostMemAccess_write hr b, hostMemAccess_read hr b⟩
  case hostOut =>
    refine hostMemAccess_outside (Bool.not_eq_true _ ▸ fun hr => ?_) w b
    rcases (hostReaches_iff s a).mp hr with h | h <;> omega
  case mem => exact ⟨_, eccScrub_uncorrectable .., poisoned_insNat s.poison pa, rfl⟩
  case reg =>
    refine ⟨_, { g with poison := insNat g.poison key }, eccScrub_uncorrectable .., ?_, mem_insNat_self g.poison key, rfl, rfl, rfl⟩
    simp [markPoison, Map.find_modify, hg]
  case team =>
    refine ⟨_, { u with poison := insNat u.poison (off / 4) }, eccScrub_uncorrectable .., ?_, poisoned_insNat u.poison off, rfl, rfl⟩
    simp [markPoison, Map.find_modify, hu]
  case flow =>
    have hx : ((markPoison s (.flow proc slot)).scribeAt proc) =
        { s.scribeAt proc with poison := insNat (s.scribeAt proc).poison slot } := State.scribeAt_putScribe ..
    refine ⟨_, eccScrub_uncorrectable .., ?_, ?_, rfl⟩
    · exact (congrArg Scribe.poison hx).symm ▸ mem_insNat_self _ slot
    · exact congrArg (fun x : Scribe => { x with poison := (s.scribeAt proc).poison }) hx
  case power =>
    exact ⟨powerOn_powered fit, powerOn_state fit, _, rfl, rfl, rfl, rfl, rfl, rfl⟩
end

section
/-!
CTXEND and the RED entries that a context still holds (R266, R417), and the obligation ContextCommands.
-/
namespace Sys2Proof.Machine
open Sys2Proof.Claims

/-- R417, R436: from the context's supervisor, CTXEND ends the context. -/
theorem ctxend_succeeds {s : State} {c : MCmd} (ho : commandsOpen s) (hs : supOf s c.who c.ctx = true) :
    succeeds (.ctxend c) s c (endContext s c.ctx) := by
  show asCommand 0x0B c (supOf s c.who c.ctx) s (fun s => (endContext s c.ctx, 0)) = _
  rw [hs]
  exact asCommand_applied ho.1 ho.2

/-- The answer to a command tells which memory its effect has left. -/
theorem succeeds_mem_unique {i : Instr} {s t u : State} {c : MCmd} (ht : succeeds i s c t) (hu : succeeds i s c u) : t.mem = u.mem := by
  have h : reply t c.mctp 0 = reply u c.mctp 0 := by
    unfold Claims.succeeds at ht hu
    rw [ht] at hu
    injection hu
  simpa using congrArg State.mem h

/-- A context of supervisor 9 whose tables at 0x10000 map the first GiB on itself, for reads and writes. -/
def redCtx : Ctx := { Ctx.fresh 0 9 with ptroot := 0x10000, ptrootUsed := 0x10000 }

/-- A RED of the context's group 1 has issued, and its entry, an addition of 7 to the word at 0x40, is not drained yet. -/
def redPending : RedEntry :=
  { id := 1, gid := 1, key := [], addr := 0x40, fn := 0, ty := 1, wid := 4, data := 7, pc := 0x1000, pos := 0, lane := 0, mask := 1,
    owner := .writer, scope := 0, faulted := false }

/-- A device on which the context is number 5. -/
def redDevice : State :=
  { State.reset with
    mem := [(0x10000, 0x01), (0x10002, 0x02), (0x20000, 0x01), (0x20002, 0x03), (0x30000, 0x8F)],
    ctxs := [(5, redCtx)], groups := [(1, { Group.fresh 5 33 0 0 64 0x1000 1 with red := [redPending] })] }

/-- CTXEND of context 5 by its supervisor. -/
def redEnd : MCmd := { who := 9, mctp := false, ctx := 5, a0 := 0, a1 := 0, a2 := 0, a3 := 0 }

theorem redEnd_right : supOf redDevice redEnd.who redEnd.ctx = true := by
  have h : (match Map.find redDevice.ctxs redEnd.ctx with | some c => c.cred == redEnd.who | none => false) = true := by decide
  unfold supOf
  rw [Bool.or_eq_true]
  exact .inr h

/-- The entry is drained at the end of its context. -/
theorem redEnd_drains : (endContext redDevice 5).mem.byte 0x40 = 7 ∧ redDevice.mem.byte 0x40 = 0 := by decide +kernel

end Sys2Proof.Machine

open Sys2Proof Sys2Proof.Machine Sys2Proof.Claims

/-- Refutes O51: its clause on CTXEND lets no byte of memory change outside the updates that are queued for frames, and a RED of the
context that has retired with its entry still held (R266) is drained at the end of the context (R417; log entry 42): here the word
at 0x40 becomes 7 while no update is queued. -/
theorem not_contextCommands : ¬ Obligations.ContextCommands := by
  unfold Obligations.ContextCommands
  rintro ⟨hmake, -⟩
  have hopen : commandsOpen redDevice := ⟨rfl, rfl⟩
  obtain ⟨-, hsup⟩ := hmake redDevice redEnd hopen
  obtain ⟨-, -, -, -, t, ht, -, -, -, -, -, -, hmem⟩ := hsup redCtx redEnd_right rfl
  have hkept : t.mem.byte 0x40 = redDevice.mem.byte 0x40 := hmem 0x40 (fun u hu => absurd hu (by simp [redDevice, State.reset]))
  have hend : t.mem = (endContext redDevice 5).mem := succeeds_mem_unique ht (ctxend_succeeds hopen redEnd_right)
  obtain ⟨hdrained, hbefore⟩ := redEnd_drains
  rw [hend, hdrained, hbefore] at hkept
  exact absurd hkept (by decide)
end

section
/-!
A logged access is performed (R55, R260): what the step makes of the entry, whatever the access was.
-/
namespace Sys2Proof.Machine
open Sys2Proof.Claims

/-! ### Publishing and refreshing leave the groups, the queues and memory alone (R319, R320) -/

theorem learn_frame (s : State) (gid scope : Nat) : { learn s gid scope with frameQ := s.frameQ } = s := by
  unfold learn
  split
  · rfl
  · split <;> rfl

theorem refreshAt_frame (s : State) (core scope : Nat) :
    { refreshAt s core scope with cores := s.cores, fabReqs := s.fabReqs } = s := by
  unfold refreshAt
  split <;> rfl

section Frames
variable (s : State) (gid core scope : Nat)

@[simp] theorem learn_groups : (learn s gid scope).groups = s.groups := (congrArg State.groups (learn_frame s gid scope) :)
@[simp] theorem learn_teams : (learn s gid scope).teams = s.teams := (congrArg State.teams (learn_frame s gid scope) :)
@[simp] theorem learn_clusters : (learn s gid scope).clusters = s.clusters := (congrArg State.clusters (learn_frame s gid scope) :)
@[simp] theorem learn_nextId : (learn s gid scope).nextId = s.nextId := (congrArg State.nextId (learn_frame s gid scope) :)
@[simp] theorem learn_cores : (learn s gid scope).cores = s.cores := (congrArg State.cores (learn_frame s gid scope) :)
@[simp] theorem learn_lqs : (learn s gid scope).lqs = s.lqs := (congrArg State.lqs (learn_frame s gid scope) :)
@[simp] theorem learn_mem : (learn s gid scope).mem = s.mem := (congrArg State.mem (learn_frame s gid scope) :)

@[simp] theorem refreshAt_groups : (refreshAt s core scope).groups = s.groups := (congrArg State.groups (refreshAt_frame s core scope) :)
@[simp] theorem refreshAt_teams : (refreshAt s core scope).teams = s.teams := (congrArg State.teams (refreshAt_frame s core scope) :)
@[simp] theorem refreshAt_clusters : (refreshAt s core scope).clusters = s.clusters :=
  (congrArg State.clusters (refreshAt_frame s core scope) :)
@[simp] theorem refreshAt_nextId : (refreshAt s core scope).nextId = s.nextId := (congrArg State.nextId (refreshAt_frame s core scope) :)
@[simp] theorem refreshAt_lqs : (refreshAt s core scope).lqs = s.lqs := (congrArg State.lqs (refreshAt_frame s core scope) :)
@[simp] theorem refreshAt_mem : (refreshAt s core scope).mem = s.mem := (congrArg State.mem (refreshAt_frame s core scope) :)

end Frames

/-! ### One entry of a group's operand log -/

@[simp] theorem modEntry_lqs (s : State) (gid id : Nat) (fn : Entry → Entry) : (modEntry s gid id fn).lqs = s.lqs := rfl
@[simp] theorem modEntry_mem (s : State) (gid id : Nat) (fn : Entry → Entry) : (modEntry s gid id fn).mem = s.mem := rfl
@[simp] theorem modEntry_fabReqs (s : State) (gid id : Nat) (fn : Entry → Entry) : (modEntry s gid id fn).fabReqs = s.fabReqs := rfl

theorem Map.find_modify_some {β : Type} {m : SMap β} {k : Nat} {v : β} (h : Map.find m k = some v) (f : β → β) :
    Map.find (Map.modify m k f) k = some (f v) := by simp [Map.find_modify, h]

theorem modEntry_others (s : State) (gid id : Nat) (fn : Entry → Entry) {k : Nat} (h : k ≠ gid) :
    Map.find (modEntry s gid id fn).groups k = Map.find s.groups k := by
  simp [modEntry, Map.find_modify, h]

/-- The change of one entry that keeps its number is a change of that entry alone. -/
theorem modEntry_entryIs {s : State} {gid : Nat} {g : Group} {e : Entry} (hg : Map.find s.groups gid = some g)
    (he : g.entries.find? (fun x => x.id == e.id) = some e) {fn : Entry → Entry} (hid : ∀ x, (fn x).id = x.id) :
    ∃ g', Map.find (modEntry s gid e.id fn).groups gid = some g' ∧ entryIs g g' (fn e) := by
  refine ⟨_, Map.find_modify_some hg _, ?_, ?_, rfl⟩
  · have hp : ((fun x : Entry => x.id == (fn e).id) ∘ fun x => if x.id == e.id then fn x else x) = fun x => x.id == e.id := by
      funext x
      by_cases hx : x.id = e.id <;> simp [hx, hid]
    rw [List.find?_map, hp, he]
    simp
  · intro x hx
    rw [hid] at hx
    simp only [List.mem_map]
    constructor
    · rintro ⟨y, hy, rfl⟩
      by_cases h : y.id = e.id
      · simp [h, hid] at hx
      · simpa [h] using hy
    · exact fun h => ⟨x, h, by simp [hx]⟩

/-- Two changes of one entry, one after the other. -/
theorem entryIs_trans {g g1 g2 : Group} {e1 e2 : Entry} (h1 : entryIs g g1 e1) (h2 : entryIs g1 g2 e2) (hid : e1.id = e2.id) :
    entryIs g g2 e2 := by
  obtain ⟨-, ho1, hf1⟩ := h1
  obtain ⟨hf, ho2, hf2⟩ := h2
  refine ⟨hf, fun x hx => (ho2 x hx).trans (ho1 x (hid ▸ hx)), ?_⟩
  rw [← hf1, ← hf2]

/-- The entry after its lanes `m` are performed, before it is known whether they are its last. -/
def lanesOver (e : Entry) (m : Mask) (outs : List RegWrite) (fails : Bool) : Entry :=
  { e with done := e.done ||| m, sent := maskMinus e.sent m, fault := maskMinus e.fault m, outs := e.outs ++ outs, fails := e.fails || fails }

theorem laneDone_eq (s : State) (gid : Nat) (e : Entry) (m : Mask) (outs : List RegWrite) (fails : Bool) :
    laneDone s gid e m outs fails = modEntry s gid e.id (fun x => lanesOver x m outs fails) := rfl

theorem over_iff (e : Entry) : e.over = true ↔ maskMinus e.mask e.done = 0 := by simp [Entry.over]

/-- R55: an entry that has lanes left stays as it is. -/
theorem entryOver_left {s : State} {gid id : Nat} {g : Group} {e : Entry} (hg : Map.find s.groups gid = some g)
    (he : g.entries.find? (fun x => x.id == id) = some e) (ho : e.over = false) : entryOver s gid id = s := by
  simp [entryOver, hg, he, ho]

/-- R55, R320: an entry whose lanes are all performed is ready where it chose a flag, and is freed where it chose none; its refresh
comes first, which leaves groups, queues and memory alone. -/
theorem entryOver_last {s : State} {gid id : Nat} {g : Group} {e : Entry} (hg : Map.find s.groups gid = some g)
    (he : g.entries.find? (fun x => x.id == id) = some e) (ho : e.over = true) :
    ∃ s1, s1.groups = s.groups ∧ s1.lqs = s.lqs ∧ s1.mem = s.mem ∧ entryOver s gid id =
      if e.flag.isSome then modEntry s1 gid id (fun x => { x with ready := true })
      else { s1 with groups := Map.modify s1.groups gid (fun g => { g with entries := g.entries.filter (fun x => x.id != id) }) } := by
  cases hr : e.ref with
  | none => exact ⟨s, rfl, rfl, rfl, by simp [entryOver, hg, he, ho, hr]⟩
  | some scope =>
    exact ⟨learn (refreshAt s g.core scope) gid scope, by simp, by simp, by simp, by simp [entryOver, hg, he, ho, hr]⟩

/-- R55, R380: after lanes of an entry are performed, its group is as `entryAfter` says, and no other group, queue or byte of memory
has changed. -/
theorem lanesPerformed {s : State} {gid : Nat} {g g1 : Group} {e : Entry} (hg : Map.find s.groups gid = some g1)
    (hent : g1.entries = g.entries) (he : g.entries.find? (fun x => x.id == e.id) = some e) (m : Mask) (outs : List RegWrite)
    (fails : Bool) :
    ∃ s' g', entryOver (laneDone s gid e m outs fails) gid e.id = s' ∧ Map.find s'.groups gid = some g' ∧
      entryAfter g1 g' (afterLanes e m outs fails) ∧ (∀ k, k ≠ gid → Map.find s'.groups k = Map.find s.groups k) ∧
      s'.lqs = s.lqs ∧ s'.mem = s.mem := by
  obtain ⟨g2, hg2, hold⟩ := modEntry_entryIs hg (hent ▸ he) (fn := fun x => lanesOver x m outs fails) (fun _ => rfl)
  have hothers := fun k hk => modEntry_others s gid e.id (fun x => lanesOver x m outs fails) (k := k) hk
  rw [← laneDone_eq] at hg2 hothers
  obtain ⟨hfind, hmem, hframe⟩ := id hold
  have hover : (lanesOver e m outs fails).over = true ↔ maskMinus e.mask (e.done ||| m) = 0 := over_iff _
  by_cases hz : maskMinus e.mask (e.done ||| m) = 0
  · obtain ⟨s1, h1, hq, hm, heq⟩ := entryOver_last hg2 hfind (hover.mpr hz)
    rw [← h1] at hg2
    have hfl : (lanesOver e m outs fails).flag = e.flag := rfl
    rw [hfl] at heq
    cases hf : e.flag with
    | none =>
      simp only [hf, Option.isSome_none, Bool.false_eq_true, if_false] at heq
      refine ⟨_, _, heq, Map.find_modify_some hg2 _, ⟨?_, fun _ _ => ⟨fun x => ?_, hframe⟩⟩, ?_, hq, hm⟩
      · rintro (h | h)
        · exact absurd hf h
        · exact absurd hz h
      · simp only [List.mem_filter, bne_iff_ne]
        exact and_congr_left (hmem x)
      · intro k hk
        rw [Map.find_modify, if_neg hk, h1]
        exact hothers k hk
    | some fl =>
      simp only [hf, Option.isSome_some, if_true] at heq
      obtain ⟨g3, hg3, hnew⟩ := modEntry_entryIs hg2 hfind (fn := fun x => { x with ready := true }) (fun _ => rfl)
      have hafter : { lanesOver e m outs fails with ready := true } = afterLanes e m outs fails := by
        unfold afterLanes
        rw [if_pos hz]
        rfl
      refine ⟨_, g3, heq, hg3, ⟨fun _ => hafter ▸ entryIs_trans hold hnew rfl, fun h => absurd (hf ▸ h) (by simp)⟩, ?_, hq, hm⟩
      intro k hk
      exact (modEntry_others _ _ _ _ hk).trans ((congrArg (fun gs => Map.find gs k) h1).trans (hothers k hk))
  · have hafter : lanesOver e m outs fails = afterLanes e m outs fails := by
      unfold afterLanes
      rw [if_neg hz]
      rfl
    refine ⟨_, g2, entryOver_left hg2 hfind (Bool.not_eq_true _ ▸ fun h => hz (hover.mp h)), hg2,
      ⟨fun _ => hafter ▸ hold, fun _ h => absurd h hz⟩, hothers, rfl, rfl⟩

/-! ### The event of a pending lane -/

theorem exec_memoryAccessPerformed (gid id l : Nat) (resp : Line) (s : State) :
    exec (.memoryAccessPerformed (.lane gid id l) resp) s = .next (performRef s gid id l resp) := rfl

/-- R260: the access of a pending lane whose bytes are at home, or were written there, is performed. -/
theorem lane_done {s s1 : State} {gid l : Nat} {g : Group} {e : Entry} (h : lanePending s gid g e l) (resp : Line)
    {outs : List RegWrite} {fails : Bool} (hp : performLane s gid g e l (Map.get 0 e.addr l) = .done s1 outs fails) :
    exec (.memoryAccessPerformed (.lane gid e.id l) resp) s = .next (entryOver (laneDone s1 gid e (laneBit l) outs fails) gid e.id) := by
  obtain ⟨hg, he, hop, hm, hd, hf, hs, hb, hpr⟩ := h
  rw [exec_memoryAccessPerformed]
  have hopen : (e.fault != 0 && preciseOpen s g e.id) = false := by
    by_cases h0 : e.fault = 0
    · simp [h0]
    · simp [hpr h0]
  simp only [BitVec.ofNat_eq_ofNat] at hp hopen
  simp [performRef, performEntry, hg, he, hop, hm, hd, hf, hs, hb, hopen, hp]

/-- R345: the access of a pending lane whose request goes to a peer waits for the answer. -/
theorem lane_sent {s s1 : State} {gid l : Nat} {g : Group} {e : Entry} (h : lanePending s gid g e l) (resp : Line)
    (hp : performLane s gid g e l (Map.get 0 e.addr l) = .sent s1) :
    exec (.memoryAccessPerformed (.lane gid e.id l) resp) s = .next s1 := by
  obtain ⟨hg, he, hop, hm, hd, hf, hs, hb, hpr⟩ := h
  rw [exec_memoryAccessPerformed]
  have hopen : (e.fault != 0 && preciseOpen s g e.id) = false := by
    by_cases h0 : e.fault = 0
    · simp [h0]
    · simp [hpr h0]
  simp only [BitVec.ofNat_eq_ofNat] at hp hopen
  simp [performRef, performEntry, hg, he, hop, hm, hd, hf, hs, hb, hopen, hp]

end Sys2Proof.Machine
end

section
/-!
Bit fields of a word: what is read after a field is replaced.
-/
namespace Sys2Proof.Machine

theorem testBit_bits {n : Nat} (w : BitVec n) (hi lo j : Nat) :
    (bits w hi lo).testBit j = (decide (j < hi + 1 - lo) && w.getLsbD (lo + j)) := by
  unfold bits
  rw [Nat.testBit_mod_two_pow, Nat.testBit_div_two_pow, BitVec.testBit_toNat, Nat.add_comm j lo]

/-- Two words with the same bits in a field have the same field. -/
theorem bits_congr {n m : Nat} {w : BitVec n} {v : BitVec m} {hi lo : Nat}
    (h : ∀ k, lo ≤ k → k ≤ hi → w.getLsbD k = v.getLsbD k) : bits w hi lo = bits v hi lo := by
  refine Nat.eq_of_testBit_eq fun j => ?_
  rw [testBit_bits, testBit_bits]
  by_cases hj : j < hi + 1 - lo
  · rw [h (lo + j) (by omega) (by omega)]
  · simp [hj]

/-- A word with a field replaced has the new bits in it and its own elsewhere. -/
theorem getLsbD_setBits {n : Nat} (w : BitVec n) {hi lo : Nat} (h : lo ≤ hi) (v k : Nat) : (setBits w hi lo v).getLsbD k =
    (decide (k < n) && if lo ≤ k ∧ k ≤ hi then v.testBit (k - lo) else w.getLsbD k) := by
  have hlow : w.toNat % 2 ^ lo < 2 ^ lo := Nat.mod_lt _ (by positivity)
  have hsplit : w.toNat = 2 ^ lo * (2 ^ (hi + 1 - lo) * (w.toNat / 2 ^ lo / 2 ^ (hi + 1 - lo)) + bits w hi lo) + w.toNat % 2 ^ lo := by
    unfold bits
    rw [Nat.div_add_mod, Nat.div_add_mod]
  have hnew : w.toNat - bits w hi lo * 2 ^ lo + v % 2 ^ (hi + 1 - lo) * 2 ^ lo =
      2 ^ lo * (2 ^ (hi + 1 - lo) * (w.toNat / 2 ^ lo / 2 ^ (hi + 1 - lo)) + v % 2 ^ (hi + 1 - lo)) + w.toNat % 2 ^ lo := by
    rw [Nat.mul_add] at hsplit ⊢
    rw [Nat.mul_comm (bits w hi lo), Nat.mul_comm (v % _)]
    omega
  unfold setBits
  rw [BitVec.getLsbD_ofNat, hnew, Nat.testBit_two_pow_mul_add _ hlow]
  congr 1
  by_cases h1 : k < lo
  · rw [if_pos h1, if_neg (by omega), Nat.testBit_mod_two_pow, BitVec.testBit_toNat]
    simp [h1]
  · rw [if_neg h1, Nat.testBit_two_pow_mul_add _ (Nat.mod_lt _ (by positivity))]
    by_cases h2 : k ≤ hi
    · rw [if_pos (by omega), if_pos (by omega), Nat.testBit_mod_two_pow]
      simp [show k - lo < hi + 1 - lo by omega]
    · rw [if_neg (by omega), if_neg (by omega), Nat.testBit_div_two_pow, Nat.testBit_div_two_pow, BitVec.testBit_toNat]
      congr 1
      omega

end Sys2Proof.Machine
end

section
/-!
LAUNCH (R146, R147) and the registers of a launch queue (R35, R38, R39, R42, R44), and the obligation Launches.
-/
namespace Sys2Proof.Machine
open Sys2Proof.Claims

/-! ### What translations and writes leave alone: the launch queues (R249 to R251, R323) -/

theorem applyFrames_lqs (s : State) (pa n : Nat) : (applyFrames s pa n).lqs = s.lqs :=
  List.foldlRecOn (motive := fun t : State => t.lqs = s.lqs) _ (fun s (u : FrameUpd) => s.wr u.pa u.bytes) rfl (fun _ h _ _ => h)

theorem wrFrame_lqs (s : State) (pa : Nat) (bs : List Byte) : (wrFrame s pa bs).lqs = s.lqs := applyFrames_lqs s pa bs.length

theorem wrTgt_lqs (s : State) (w : Writer) (pa size : Nat) (repl prop : Bool) (bs : List Byte) :
    (wrTgt s w pa size repl prop bs).lqs = s.lqs := by
  unfold wrTgt
  split
  · exact wrFrame_lqs s pa bs
  · split
    · exact List.foldlRecOn (motive := fun t : State => t.lqs = s.lqs) _ _ rfl (fun t h a _ => (wrFrame_lqs t a bs).trans h)
    · exact wrFrame_lqs s (pa + w.die * size) bs

theorem farUpdate_lqs (s : State) (core key o : Nat) (bs : List Byte) : (farUpdate s core key o bs).lqs = s.lqs := by
  show (farPatch s core key o bs).lqs = s.lqs
  unfold farPatch
  dsimp only
  split <;> rfl

/-- A translation with its checks: the leaf it is made by, and the state that holds that leaf. -/
theorem xlate_ok {s t : State} {core ctx root : Nat} {va : DWord} {a : Acc} {tg : Tgt} (h : xlate s core ctx root va a = .ok (tg, t)) :
    ∃ l, leafFor s core root va a = .ok l ∧ leafPerm l a = .ok () ∧ tg = l.tgt va ∧ t = holdLeaf s core ctx root l a := by
  unfold xlate at h
  cases hl : leafFor s core root va a with
  | error e => simp [hl, bind, Except.bind] at h
  | ok l =>
    cases hp : leafPerm l a with
    | error e => simp [hl, hp, bind, Except.bind] at h
    | ok _ =>
      simp only [hl, hp, bind, Except.bind, pure, Except.pure, Except.ok.injEq, Prod.mk.injEq] at h
      exact ⟨l, rfl, hp, h.1.symm, h.2.symm⟩

theorem xlate_of_leaf {s : State} {core ctx root : Nat} {va : DWord} {a : Acc} {l : Leaf} (hl : leafFor s core root va a = .ok l)
    (hp : leafPerm l a = .ok ()) : xlate s core ctx root va a = .ok (l.tgt va, holdLeaf s core ctx root l a) := by
  simp [xlate, hl, hp, bind, Except.bind, pure, Except.pure]

theorem xlate_lqs {s t : State} {core ctx root : Nat} {va : DWord} {a : Acc} {tg : Tgt} (h : xlate s core ctx root va a = .ok (tg, t)) :
    t.lqs = s.lqs := by
  obtain ⟨l, -, -, -, rfl⟩ := xlate_ok h
  unfold holdLeaf
  dsimp only
  split <;> rfl

theorem walkFrom_putLq (s : State) (n : Nat) (q : LQueue) (va : Nat) (levels : List (Nat × Nat × Nat)) (tbl : Nat) :
    walkFrom (s.putLq n q) va levels tbl = walkFrom s va levels tbl := by
  induction levels generalizing tbl with
  | nil => rfl
  | cons level rest ih =>
    obtain ⟨sh, entries, size⟩ := level
    unfold walkFrom
    dsimp only
    rw [ih]
    rfl

theorem leafFor_putLq (s : State) (n : Nat) (q : LQueue) (core root : Nat) (va : DWord) (a : Acc) :
    leafFor (s.putLq n q) core root va a = leafFor s core root va a := by
  have hw : walk (s.putLq n q) root va = walk s root va := by
    unfold walk
    rw [walkFrom_putLq]
  unfold leafFor
  rw [hw]
  rfl

/-- The registers of a launch queue take no part in a translation. -/
theorem xlate_putLq {s t : State} {n : Nat} {q : LQueue} {core ctx root : Nat} {va : DWord} {a : Acc} {tg : Tgt}
    (h : xlate (s.putLq n q) core ctx root va a = .ok (tg, t)) : ∃ u, xlate s core ctx root va a = .ok (tg, u) := by
  obtain ⟨l, hl, hp, rfl, -⟩ := xlate_ok h
  rw [leafFor_putLq] at hl
  exact ⟨_, xlate_of_leaf hl hp⟩

/-- A write to a peer is posted, or waits. -/
theorem postPeer_ne_done (s : State) (gid : Nat) (g : Group) (e : Entry) (rank : Nat) (lanes : Mask) (bytes : List (Nat × Byte))
    (t : State) (o : List RegWrite) (b : Bool) : postPeer s gid g e rank lanes bytes ≠ .done t o b := by
  unfold postPeer
  split
  · simp
  · split <;> simp

/-- A store that is made at once is made at home, and changes no launch queue. -/
theorem vaWrite_done {s t : State} {gid l : Nat} {g : Group} {e : Entry} {va : DWord} {own : Bool} {bs : List Byte}
    {mates : List (Nat × DWord × List Byte)} {o : List RegWrite} {b : Bool} (h : vaWrite s gid g e l va own bs mates = .done t o b) :
    (∃ pa size repl prop u, xlate s g.core g.ctx (rootOf s g) va .w = .ok (.loc pa size repl prop, u)) ∧ t.lqs = s.lqs := by
  unfold vaWrite at h
  split at h
  case h_1 => cases h
  case h_2 =>
    split at h
    · cases h
    · dsimp only at h
      split at h
      · cases h
      · exact absurd h (postPeer_ne_done _ _ _ _ _ _ _ _ _ _)
  case h_3 pa size repl prop u hx =>
    refine ⟨⟨pa, size, repl, prop, u, hx⟩, ?_⟩
    dsimp only at h
    split at h
    · cases h
    · split at h
      case h_1 s2 o2 b2 hw =>
        unfold writeAt at hw
        dsimp only at hw
        split at hw
        · cases hw
        · split at hw
          · cases hw
          · cases hw
            cases h
            exact (farUpdate_lqs ..).trans ((wrTgt_lqs ..).trans (xlate_lqs hx))
      case h_2 hne => exact absurd h (hne _ _ _)

/-! ### The append (R146, R147) -/

/-- R147: the answer of a queue to an append. -/
theorem launchStatus_eq (q : LQueue) (ctx : Nat) : launchStatus q ctx =
    if q.ctx ≠ ctx then 4 else if q.feed = false then 1 else if q.en = false ∨ q.err = true then 2
    else if (q.lqtail.toNat + 2 ^ 32 - q.lqhead.toNat) % 2 ^ 32 = 2 ^ q.size then 3 else 0 := by
  rw [launchStatus]
  simp only [bne_iff_ne, Bool.not_eq_true', Bool.or_eq_true, beq_iff_eq]
  rfl

/-- R146: the state in which LQTAIL of a queue has gone up by one. -/
def tailUp (s : State) (n : Nat) : State :=
  s.putLq n { s.lqAt n with lqtail := BitVec.ofNat 64 (((s.lqAt n).lqtail.toNat + 1) % 2 ^ 32) }

/-- What a LAUNCH writes into its destination register. -/
def launchOut (f : MFmt) (st : Nat) : List RegWrite := [.s f.r.dst.toNat (BitVec.ofNat 64 st)]

section Append
variable {s s1 : State} {gid : Nat} {g : Group} {e : Entry} {f : MFmt} {va : DWord} {rec : List Byte}
variable (hrec : launchRecord s gid g e va = .ok (rec, s1)) (hbusy : ringBusy s1 gid e.id f.mfn = false)
include hrec hbusy

/-- R147: a queue that refuses the record gives its status, and nothing else changes. -/
theorem launchLane_refused {st : Nat} (hst : launchStatus (s1.lqAt f.mfn.toNat) g.ctx = st) (h0 : st ≠ 0) :
    launchLane s gid g e f va = .done s1 (launchOut f st) false := by
  unfold State.lqAt at hst
  simp [launchLane, hrec, hbusy, hst, h0, launchOut]

/-- R146: once a peer has acknowledged both lines of the record in the slot, LQTAIL goes up. -/
theorem launchLane_acked {st : Nat} (hst : launchStatus (s1.lqAt f.mfn.toNat) g.ctx = st) (h0 : st = 0)
    (hring : e.ring = some ((s1.lqAt f.mfn.toNat).slot, 2)) :
    launchLane s gid g e f va = .done (tailUp s1 f.mfn.toNat) (launchOut f st) false := by
  subst h0
  unfold State.lqAt at hst hring
  simp [launchLane, hrec, hbusy, hst, hring, launchOut, tailUp, State.lqAt, State.putLq]

/-- R146: a slot at home takes the record as two stores of the group's, after LQTAIL went up. -/
theorem launchLane_stored {st : Nat} (hst : launchStatus (s1.lqAt f.mfn.toNat) g.ctx = st) (h0 : st = 0) (hring : e.ring = none)
    {s2 s3 : State}
    (h1 : written (vaWrite (tailUp s1 f.mfn.toNat) gid g e (lowLane e.mask) (BitVec.ofNat 64 (s1.lqAt f.mfn.toNat).slot) false
      (sliceB rec 0 64) []) s2)
    (h2 : written (vaWrite s2 gid g e (lowLane e.mask) (BitVec.ofNat 64 ((s1.lqAt f.mfn.toNat).slot + 64)) false
      (sliceB rec 64 64) []) s3) :
    launchLane s gid g e f va = .done s3 (launchOut f st) false ∧ s3.lqs = (tailUp s1 f.mfn.toNat).lqs := by
  subst h0
  obtain ⟨o1, b1, h1⟩ := h1
  obtain ⟨o2, b2, h2⟩ := h2
  obtain ⟨⟨pa, size, repl, prop, u, hx⟩, hq1⟩ := vaWrite_done h1
  obtain ⟨u', hx'⟩ := xlate_putLq hx
  refine ⟨?_, (vaWrite_done h2).2.trans hq1⟩
  have hroot : rootOf (tailUp s1 f.mfn.toNat) g = rootOf s1 g := rfl
  rw [hroot] at hx'
  simp only [tailUp, State.putLq, State.lqAt] at hst hx' h1 h2
  simp only [launchLane, hrec, hbusy, hst, hring, hx', h1, h2, launchOut, Nat.mul_zero, Nat.add_zero, Nat.mul_one, bne_self_eq_false,
    Bool.false_eq_true, if_false, reduceCtorEq, beq_iff_eq]

/-- R146: the first line of the record goes to a slot of a peer. -/
theorem launchLane_asked {st : Nat} (hst : launchStatus (s1.lqAt f.mfn.toNat) g.ctx = st) (h0 : st = 0) (hring : e.ring = none)
    {rank : Nat} {s2 : State}
    (hx : xlate s1 g.core g.ctx (rootOf s1 g) (BitVec.ofNat 64 (s1.lqAt f.mfn.toNat).slot) .w = .ok (.peer rank, s2)) :
    launchLane s gid g e f va = askRing s2 gid g e rank (s1.lqAt f.mfn.toNat).slot 0 rec := by
  subst h0
  unfold State.lqAt at hst hx ⊢
  simp [launchLane, hrec, hbusy, hst, hring, hx]

end Append

theorem sendOut_frame (s : State) (p : Packet) (m : OutMsg) :
    (sendOut s p m).lqs = s.lqs ∧ (sendOut s p m).mem = s.mem ∧ (sendOut s p m).fabReqs = s.fabReqs := by
  unfold sendOut
  split
  · unfold State.send
    split <;> exact ⟨rfl, rfl, rfl⟩
  · split
    · rename_i h s1 hs
      unfold enqueue at hs
      dsimp only at hs
      split at hs
      · cases hs
      · cases hs
        exact ⟨rfl, rfl, rfl⟩
    · exact ⟨rfl, rfl, rfl⟩

/-- The request that carries the first line of a LAUNCH's record to a peer. -/
def ringRequest (s : State) (gid : Nat) (g : Group) (e : Entry) (rank slot : Nat) (rec : List Byte) : FabReq :=
  let s1 := s.takeId.2
  let pkt := { mkPacket s1 g.ctx 1 rank slot s.nextId with
    plen := 64, payload := lineOf (sliceB rec 0 64), be := BitVec.allOnes 64 }
  { entryReq s1 e g gid pkt e.mask false with va := BitVec.ofNat 64 slot, sent := s.tick }

/-- R146: where the rank has a device and no earlier write to the line is under way, the line is sent, and is a request of its own. -/
theorem askRing_sent {s : State} {gid rank slot : Nat} {g : Group} {e : Entry} (rec : List Byte) (hm : rankMapped s g.ctx rank = true)
    (hl : lineHeld s gid g rank slot = false) : ∃ t, askRing s gid g e rank slot 0 rec = .sent t ∧ t.lqs = s.lqs ∧ t.mem = s.mem ∧
      Map.find t.fabReqs s.nextId = some (ringRequest s gid g e rank slot rec) := by
  refine ⟨_, (if_neg (by simp [hm])).trans (if_neg (by simp [hl])), ?_⟩
  obtain ⟨hq, hmem, hf⟩ := sendOut_frame { s.takeId.2 with fabReqs := Map.put s.fabReqs s.nextId (ringRequest s gid g e rank slot rec) }
    (ringRequest s gid g e rank slot rec).pkt (.request (ringRequest s gid g e rank slot rec).pkt)
  refine ⟨hq, hmem, ?_⟩
  exact (congrArg (fun m => Map.find m s.nextId) hf).trans (Map.find_put_self ..)

/-! ### The registers of a queue -/

theorem exec_lqtailWrite (q : Nat) (val : DWord) (s : State) : exec (.lqtailWrite q val) s = execLqtailWrite q val s := rfl
theorem exec_lqctlWrite (q : Nat) (w : RegVal) (s : State) : exec (.lqctlWrite q w) s = execLqctlWrite q w s := rfl
theorem exec_lqstatErrClear (q : Nat) (s : State) : exec (.lqstatErrClear q) s = execLqstatErrClear q s := rfl

/-- The bits that LQCTL has. -/
theorem getLsbD_lqctlMask {k : Nat} (h : k < 64) : (0x3F07FF : DWord).getLsbD k = decide (k ≤ 10 ∨ 16 ≤ k ∧ k ≤ 21) := by
  revert k
  decide

/-- R35: LQCTL after a write, bit by bit. -/
theorem getLsbD_lqctlNew (old val : DWord) {k : Nat} (h : k < 64) : (lqctlNew old val).getLsbD k =
    if k ≤ 4 then (if bit old 9 = true ∨ bits val 4 0 < 4 ∨ 16 < bits val 4 0 then old else val).getLsbD k
    else if k = 10 then (if bit old 9 = true then old else val).getLsbD k
    else (decide (k ≤ 10 ∨ 16 ≤ k ∧ k ≤ 21) && val.getLsbD k) := by
  have hfeed : (if bit old 9 = true then bits old 10 10 else bits val 10 10) = bits (if bit old 9 = true then old else val) 10 10 := by
    split <;> rfl
  have hsize : (if bit old 9 || bits val 4 0 < 4 || 16 < bits val 4 0 then bits old 4 0 else bits val 4 0) =
      bits (if bit old 9 = true ∨ bits val 4 0 < 4 ∨ 16 < bits val 4 0 then old else val) 4 0 := by
    simp only [Bool.or_eq_true, decide_eq_true_eq, or_assoc]
    split <;> rfl
  unfold lqctlNew
  dsimp only
  rw [hfeed, hsize, getLsbD_setBits _ (by omega), getLsbD_setBits _ (by omega), testBit_bits, testBit_bits, BitVec.getLsbD_and,
    getLsbD_lqctlMask h]
  by_cases h4 : k ≤ 4
  · simp [h, h4, show ¬ (10 ≤ k ∧ k ≤ 10) by omega, show k < 5 by omega]
  · by_cases h10 : k = 10
    · subst h10
      simp
    · simp [h, h4, h10, show ¬ (10 ≤ k ∧ k ≤ 10) by omega, Bool.and_comm]

/-- R35: the fields of LQCTL after a write. -/
theorem lqctlNew_fields (old val : DWord) :
    bits (lqctlNew old val) 7 5 = bits val 7 5 ∧ bit (lqctlNew old val) 8 = bit val 8 ∧ bit (lqctlNew old val) 9 = bit val 9 ∧
    bits (lqctlNew old val) 21 16 = bits val 21 16 ∧ bits (lqctlNew old val) 63 22 = 0 ∧
    bit (lqctlNew old val) 10 = (if bit old 9 = true then bit old 10 else bit val 10) ∧
    bits (lqctlNew old val) 4 0 =
      (if bit old 9 = true ∨ bits val 4 0 < 4 ∨ 16 < bits val 4 0 then bits old 4 0 else bits val 4 0) := by
  have taken : ∀ k, k = 5 ∨ k = 6 ∨ k = 7 ∨ k = 8 ∨ k = 9 ∨ 16 ≤ k ∧ k ≤ 21 → (lqctlNew old val).getLsbD k = val.getLsbD k := by
    intro k hk
    rw [getLsbD_lqctlNew old val (by omega), if_neg (by omega), if_neg (by omega), decide_eq_true (by omega), Bool.true_and]
  refine ⟨bits_congr fun k h1 h2 => taken k (by omega), taken 8 (by omega), taken 9 (by omega), bits_congr fun k h1 h2 => taken k (by omega),
    ?high, ?feed, ?size⟩
  case high =>
    refine (bits_congr (v := 0#64) fun k h1 h2 => ?_).trans rfl
    rw [getLsbD_lqctlNew old val (by omega), if_neg (by omega), if_neg (by omega), decide_eq_false (by omega)]
    simp
  case feed =>
    refine (getLsbD_lqctlNew old val (k := 10) (by omega)).trans ?_
    rw [if_neg (by omega), if_pos rfl]
    split <;> rfl
  case size =>
    have hlow : bits (lqctlNew old val) 4 0 =
        bits (if bit old 9 = true ∨ bits val 4 0 < 4 ∨ 16 < bits val 4 0 then old else val) 4 0 :=
      bits_congr fun k h1 h2 => (getLsbD_lqctlNew old val (by omega)).trans (if_pos h2)
    rw [hlow]
    split <;> rfl

/-- R35: the supervisor of the owning context writes LQCTL. -/
theorem lqctlWrite_owner {s : State} {q who : Nat} (hq : q < 64) {c : Ctx} (hc : Map.find s.ctxs (s.lqAt q).ctx = some c) (hw : c.cred = who)
    (val : DWord) :
    exec (.lqctlWrite q ⟨val, who⟩) s = .next (s.putLq q { s.lqAt q with lqctl := lqctlNew (s.lqAt q).lqctl val }) := by
  rw [exec_lqctlWrite]
  unfold execLqctlWrite
  exact if_neg (by simp [ownsQueue, supOf, hc, hw]; omega)

/-- R35: a write by anybody else but the owner of the device is ignored. -/
theorem lqctlWrite_denied {s : State} {q who : Nat} {c : Ctx} (hc : Map.find s.ctxs (s.lqAt q).ctx = some c) (hw : c.cred ≠ who)
    (ho : who ≠ Config.ownerCred) (val : DWord) : exec (.lqctlWrite q ⟨val, who⟩) s = .next s := by
  rw [exec_lqctlWrite]
  unfold execLqctlWrite
  exact if_pos (by simp [ownsQueue, supOf, hc, hw, ho])

/-- R39: LQTAIL of a host-fed queue takes the low half of what is written. -/
theorem lqtailWrite_hostFed {s : State} {q : Nat} (hq : q < 64) (hf : (s.lqAt q).feed = false) (val : DWord) :
    exec (.lqtailWrite q val) s = .next (s.putLq q { s.lqAt q with lqtail := val &&& 0xFFFFFFFF }) := by
  rw [exec_lqtailWrite]
  unfold execLqtailWrite
  exact if_neg (by simp [hf]; omega)

/-- R44: LQTAIL of a device-fed queue is not the host's to write. -/
theorem lqtailWrite_deviceFed {s : State} {q : Nat} (hf : (s.lqAt q).feed = true) (val : DWord) :
    exec (.lqtailWrite q val) s = .next s := by
  rw [exec_lqtailWrite]
  unfold execLqtailWrite
  exact if_pos (by simp [hf])

/-- R38: a write of 1 to ERR clears that bit and no other. -/
theorem lqstatErrClear_clears {s : State} {q : Nat} (hq : q < 64) : ∃ w,
    exec (.lqstatErrClear q) s = .next (s.putLq q { s.lqAt q with lqstat := w }) ∧ bit w 2 = false ∧
    ∀ k, k ≠ 2 → bit w k = bit (s.lqAt q).lqstat k := by
  refine ⟨setBits (s.lqAt q).lqstat 2 2 0, ?_, ?_, fun k hk => ?_⟩
  · rw [exec_lqstatErrClear]
    unfold execLqstatErrClear
    exact if_neg (by omega)
  · exact (getLsbD_setBits _ (le_refl 2) 0 2).trans (by simp)
  · unfold bit
    rw [getLsbD_setBits _ (le_refl 2), if_neg (by omega)]
    by_cases h : k < 64
    · simp [h]
    · simp [BitVec.getLsbD_of_ge _ _ (Nat.le_of_not_lt h)]

end Sys2Proof.Machine

open Sys2Proof Sys2Proof.Machine Sys2Proof.Claims

/-- Settles O44: the append by the outcome of `launchLane` in each case, and what the entry's step makes of it; the registers bit by bit. -/
theorem launches : Obligations.Launches := by
  unfold Obligations.Launches
  refine ⟨fun s s1 gid l g e f rec resp hp hi hrec hgs hbusy => ?append, fun s q val hq => ⟨fun hf => lqtailWrite_hostFed hq hf val,
    fun hf => lqtailWrite_deviceFed hf val, fun who c hc hw ho => lqctlWrite_denied hc hw ho val, fun who c hc hw =>
    ⟨_, lqctlWrite_owner hq hc hw val, lqctlNew_fields (s.lqAt q).lqctl val⟩, lqstatErrClear_clears hq⟩⟩
  intro q held st out
  have hst : launchStatus q g.ctx = st := launchStatus_eq q g.ctx
  have hlane : performLane s gid g e l (Map.get 0 e.addr l) = launchLane s gid g e f (Map.get 0 e.addr l) := by
    unfold performLane
    rw [hi]
  obtain ⟨hg, he, -⟩ := id hp
  have hg1 : Map.find s1.groups gid = some g := hgs ▸ hg
  refine ⟨fun h0 => ?refused, fun h0 hring => ?stored, fun h0 rank s2 hring hx hm hl => ?asked, fun h0 hring => ?acked⟩
  case refused =>
    obtain ⟨s', g', heq, hg', hafter, -, hq, hmem⟩ := lanesPerformed hg1 rfl he (laneBit l) (launchOut f st) false
    exact ⟨s', heq ▸ lane_done hp resp (hlane.trans (launchLane_refused hrec hbusy hst h0)), ⟨g', hg', hafter⟩, hq, hmem⟩
  case stored =>
    intro slot tail s2 s3 g3 h1 h2 hg3 hent
    obtain ⟨hdone, hq3⟩ := launchLane_stored hrec hbusy hst h0 hring h1 h2
    obtain ⟨s', g', heq, hg', hafter, hothers, hq, hmem⟩ := lanesPerformed hg3 hent he (laneBit l) (launchOut f st) false
    exact ⟨s', g', heq ▸ lane_done hp resp (hlane.trans hdone), hg', hafter, hmem, hq.trans hq3, hothers⟩
  case asked =>
    obtain ⟨t, hsent, hq, hmem, hreq⟩ := askRing_sent rec hm hl
    refine ⟨t, _, lane_sent hp resp (hlane.trans ((launchLane_asked hrec hbusy hst h0 hring hx).trans hsent)), hq.trans (xlate_lqs hx), hmem, hreq,
      rfl, rfl, rfl, rfl, rfl, BitVec.toNat_ofNat .., rfl, rfl⟩
  case acked =>
    obtain ⟨s', g', heq, hg', hafter, -, hq, hmem⟩ := lanesPerformed (s := tailUp s1 f.mfn.toNat) hg1 rfl he (laneBit l) (launchOut f st) false
    exact ⟨s', heq ▸ lane_done hp resp (hlane.trans (launchLane_acked hrec hbusy hst h0 hring)), ⟨g', hg', hafter⟩, hq, hmem⟩
end

section
/-!
The state right after reset (R35, R424), the obligation ResetState.
-/
namespace Sys2Proof.Machine

/-- A queue that no step has written yet has its reset registers. -/
theorem reset_lqAt (q : Nat) : State.reset.lqAt q = LQueue.reset := rfl

/-- R35: EN is 0 at reset. -/
theorem LQueue.reset_disabled : bit LQueue.reset.lqctl 9 = false := by decide

end Sys2Proof.Machine

open Sys2Proof Sys2Proof.Machine Sys2Proof.Claims

/-- Settles O55: each field is as the reset state writes it, and a queue that is not listed has its reset registers. -/
theorem resetState : Obligations.ResetState := by
  unfold Obligations.ResetState
  refine ⟨rfl, rfl, rfl, rfl, rfl, rfl, rfl, rfl, fun q => ?queue, rfl, rfl⟩
  case queue =>
    show bit (State.reset.lqAt q).lqctl 9 = false ∧ (State.reset.lqAt q).lqhead = 0 ∧ (State.reset.lqAt q).lqtail = 0
    rw [reset_lqAt]
    exact ⟨LQueue.reset_disabled, rfl, rfl⟩
end

section
/-!
A group is released after its exit (R141), and a launch completes (R43).
-/
namespace Sys2Proof.Machine
open Sys2Proof.Claims

/-! ### Sparse arrays whose keys are distinct -/

theorem Map.mem_of_find {β : Type} {m : SMap β} {k : Nat} {v : β} (h : Map.find m k = some v) : (k, v) ∈ m := by
  induction m with
  | nil => simp at h
  | cons x t ih =>
    obtain ⟨a, b⟩ := x
    rw [Map.find_cons] at h
    by_cases ha : a = k
    · rw [if_pos ha] at h
      cases h
      simp [ha]
    · rw [if_neg ha] at h
      exact List.mem_cons_of_mem _ (ih h)

theorem Map.find_isSome_iff {β : Type} {m : SMap β} {k : Nat} : (Map.find m k).isSome = true ↔ k ∈ Map.keys m := by
  induction m with
  | nil => simp [Map.keys]
  | cons x t ih =>
    obtain ⟨a, b⟩ := x
    rw [Map.find_cons]
    by_cases ha : a = k
    · simp [ha, Map.keys]
    · rw [if_neg ha, ih]
      simp [Map.keys, Ne.symm ha]

/-- Where no key is listed twice, a listed value is the one that is found. -/
theorem Map.find_of_mem {β : Type} {m : SMap β} (hd : distinctKeys m) {k : Nat} {v : β} (h : (k, v) ∈ m) : Map.find m k = some v := by
  induction m with
  | nil => simp at h
  | cons x t ih =>
    obtain ⟨a, b⟩ := x
    obtain ⟨ha, ht⟩ := List.nodup_cons.mp (show (a :: Map.keys t).Nodup from hd)
    rw [Map.find_cons]
    rcases List.mem_cons.mp h with heq | hmem
    · cases heq
      simp
    · have : a ≠ k := fun e => ha (e ▸ List.mem_map_of_mem (f := Prod.fst) hmem)
      rw [if_neg this]
      exact ih ht hmem

/-- A change of every value that keeps the keys. -/
theorem Map.find_map_values {β : Type} (m : SMap β) (f : Nat × β → Nat × β) (hf : ∀ x, (f x).1 = x.1) (k : Nat) :
    Map.find (m.map f) k = (Map.find m k).map (fun v => (f (k, v)).2) := by
  induction m with
  | nil => rfl
  | cons x t ih =>
    obtain ⟨a, b⟩ := x
    have hfx : f (a, b) = (a, (f (a, b)).2) := Prod.ext (hf (a, b)) rfl
    rw [List.map_cons, hfx, Map.find_cons, Map.find_cons, ih]
    by_cases ha : a = k
    · simp [ha]
    · simp [ha]

theorem distinctKeys_del {β : Type} {m : SMap β} (h : distinctKeys m) (k : Nat) : distinctKeys (Map.del m k) :=
  h.sublist (List.filter_sublist.map _)

/-! ### A context becomes active on a core (R396, R398) -/

/-- Groups at the listed keys alone may have changed, and memory has not. -/
def putsAt (ks : List Nat) (s t : State) : Prop :=
  t.mem = s.mem ∧ (∀ k, k ∉ ks → Map.find t.groups k = Map.find s.groups k) ∧
  ∀ k, (Map.find s.groups k).isSome = true → (Map.find t.groups k).isSome = true

theorem putsAt.refl (ks : List Nat) (s : State) : putsAt ks s s := ⟨rfl, fun _ _ => rfl, fun _ h => h⟩

theorem putsAt.trans {ks : List Nat} {s t u : State} (h1 : putsAt ks s t) (h2 : putsAt ks t u) : putsAt ks s u :=
  ⟨h2.1.trans h1.1, fun k hk => (h2.2.1 k hk).trans (h1.2.1 k hk), fun k hk => h2.2.2 k (h1.2.2 k hk)⟩

theorem putsAt_putG {ks : List Nat} (s : State) {gid : Nat} (h : gid ∈ ks) (g : Group) : putsAt ks s (s.putG gid g) := by
  refine ⟨rfl, fun k hk => ?_, fun k hk => ?_⟩
  · exact Map.find_put_ne _ _ (fun e => hk (e ▸ h))
  · rw [State.putG_groups, Map.find_put]
    split
    · rfl
    · exact hk

/-- R397: a fill of a context on a core changes no memory and no groups but the context's on that core. -/
theorem fillCore_putsAt (s : State) (core ctx : Nat) : putsAt (Map.keys (groupsOn s core ctx)) s (fillCore s core ctx) := by
  unfold fillCore
  dsimp only
  refine List.foldlRecOn (motive := putsAt (Map.keys (groupsOn s core ctx)) s) _ _ ?teams (fun t ht x hx => ht.trans ?groups)
  case teams =>
    refine List.foldlRecOn (motive := putsAt (Map.keys (groupsOn s core ctx)) s) _ _ (.refl _ s) (fun t ht x _ => ht.trans ?_)
    split
    · exact ⟨rfl, fun _ _ => rfl, fun _ h => h⟩
    · exact .refl _ t
  case groups =>
    split
    · exact putsAt_putG t (List.mem_map_of_mem (f := Prod.fst) hx) _
    · exact .refl _ t

/-- No memory has changed, no group has come or gone, and no group of another core has changed. -/
def othersKept (core : Nat) (s t : State) : Prop :=
  t.mem = s.mem ∧ (∀ k, (Map.find t.groups k).isSome = (Map.find s.groups k).isSome) ∧
  (distinctKeys s.groups → ∀ k h, Map.find s.groups k = some h → h.core ≠ core → Map.find t.groups k = some h)

theorem fillCore_othersKept (s : State) (core ctx : Nat) : othersKept core s (fillCore s core ctx) := by
  obtain ⟨hmem, hout, hsome⟩ := fillCore_putsAt s core ctx
  refine ⟨hmem, fun k => ?_, fun hd k h hk hc => (hout k fun hin => ?_).trans hk⟩
  · by_cases hin : k ∈ Map.keys (groupsOn s core ctx)
    · obtain ⟨x, hx, rfl⟩ := List.mem_map.mp hin
      have : (Map.find s.groups x.1).isSome = true :=
        Map.find_isSome_iff.mpr (List.mem_map_of_mem (f := Prod.fst) (List.mem_of_mem_filter hx))
      rw [hsome _ this, this]
    · rw [hout k hin]
  · obtain ⟨⟨k', g⟩, hx, rfl⟩ := List.mem_map.mp hin
    have hg := Map.find_of_mem hd (List.mem_of_mem_filter hx)
    rw [hk] at hg
    cases hg
    have := (List.mem_filter.mp hx).2
    simp only [Bool.and_eq_true, beq_iff_eq] at this
    exact hc this.1.1

theorem wakeGroups_othersKept (s : State) (core ctx : Nat) : othersKept core s (wakeGroups s core ctx) := by
  obtain ⟨hmem, hsome, hkeep⟩ := fillCore_othersKept s core ctx
  have hfind := fun k => Map.find_map_values (fillCore s core ctx).groups (fun g =>
    if g.2.core == core && g.2.ctx == ctx then (g.1, { g.2 with lastIssue := (fillCore s core ctx).clk / 10 - g.2.lastIssue }) else g)
    (fun x => by split <;> rfl) k
  refine ⟨hmem, fun k => ?_, fun hd k h hk hc => ?_⟩
  · exact (congrArg Option.isSome (hfind k)).trans ((Option.isSome_map ..).trans (hsome k))
  · refine (hfind k).trans ?_
    rw [hkeep hd k h hk hc]
    simp [hc]

/-- R398: when a context may have left a core, memory and the groups of other cores stay as they are. -/
theorem nextActive_othersKept (s : State) (core : Nat) : othersKept core s (nextActive s core) := by
  have hsame : ∀ c : Core, othersKept core s (s.putCore core c) := fun c => ⟨rfl, fun _ => rfl, fun _ _ _ h _ => h⟩
  unfold nextActive
  dsimp only
  split
  · exact ⟨rfl, fun _ => rfl, fun _ _ _ h _ => h⟩
  · split
    · exact hsame _
    · split
      · exact hsame _
      · exact wakeGroups_othersKept (s.putCore core _) core _

/-! ### The release of a group (R141) -/

theorem exec_groupExitRelease (gid : Nat) (s : State) : exec (.groupExitRelease gid) s = execGroupExitRelease gid s := rfl

/-- R141: a release takes the group away; then it is over, for a handler group, or the core's banks are looked at. -/
theorem releaseGroup_cases (s : State) (gid : Nat) (g : Group) : ∃ s1, s1.groups = Map.del s.groups gid ∧ s1.mem = s.mem ∧
    (releaseGroup s gid g = s1 ∨ releaseGroup s gid g = nextActive s1 g.core) := by
  unfold releaseGroup
  dsimp only
  split
  · exact ⟨{ s with groups := Map.del s.groups gid }, rfl, rfl, .inl rfl⟩
  · refine ⟨_, ?_, ?_, .inr rfl⟩ <;> split <;> rfl

theorem releaseGroup_othersKept (s : State) (gid : Nat) (g : Group) :
    othersKept g.core { s with groups := Map.del s.groups gid } (releaseGroup s gid g) := by
  obtain ⟨s1, hgs, hmem, h | h⟩ := releaseGroup_cases s gid g
  · rw [h]
    exact ⟨hmem, fun k => by rw [hgs], fun _ k x hx _ => hgs ▸ hx⟩
  · obtain ⟨hm, hsome, hkeep⟩ := nextActive_othersKept s1 g.core
    rw [hgs] at hsome hkeep
    rw [h]
    exact ⟨hm.trans hmem, hsome, hkeep⟩

/-- R141: a group that has nothing outstanding after its exit is released. -/
theorem groupExitRelease_releases {s : State} {gid : Nat} {g : Group} (hg : Map.find s.groups gid = some g) (hr : releasable s gid g = true) :
    ∃ t, exec (.groupExitRelease gid) s = .next t ∧ Map.find t.groups gid = none ∧ t.mem = s.mem ∧
      (∀ k, k ≠ gid → (Map.find t.groups k).isSome = (Map.find s.groups k).isSome) ∧
      (distinctKeys s.groups → ∀ k h, k ≠ gid → Map.find s.groups k = some h → h.core ≠ g.core → Map.find t.groups k = some h) := by
  obtain ⟨hmem, hsome, hkeep⟩ := releaseGroup_othersKept s gid g
  refine ⟨releaseGroup s gid g, by simp [exec_groupExitRelease, execGroupExitRelease, hg, hr], ?_, hmem, fun k hk => ?_,
    fun hd k h hk hf hc => hkeep (distinctKeys_del hd gid) k h ?_ hc⟩
  · exact Option.not_isSome_iff_eq_none.mp (by rw [hsome, Map.find_del_self]; simp)
  · rw [hsome]
    exact congrArg Option.isSome (Map.find_del_ne _ hk)
  · exact (Map.find_del_ne _ hk).trans hf

/-! ### The end of a launch (R35, R43) -/

theorem exec_launchComplete (id : Nat) (s : State) : exec (.launchComplete id) s = execLaunchComplete id s := rfl

/-- The state in which the queue has counted a launch's record, and the launch and its grid barriers are gone. -/
def launchGone (s : State) (id : Nat) (l : Launch) : State :=
  { (s.putLq l.queue ((s.lqAt l.queue).complete l.record)) with
    launches := Map.del s.launches id, gridBars := s.gridBars.filter (fun b => b.launch != id) }

section Completion
variable {s : State} {id : Nat} {l : Launch} (hl : Map.find s.launches id = some l) (hr : ∀ r, r ∈ l.ranges → r.2.2 ≤ r.2.1)
  (ht : ∀ t, t ∈ s.teams → t.2.launch ≠ id) (hu : ∀ u, u ∈ s.frameQ → u.leftBehind s = false)
include hl hr ht hu

omit hl in
/-- Every cluster was placed, every team has left, and what it stored is in every frame: nothing holds the launch's completion. -/
theorem launch_over : (l.ranges.any (fun r => decide (r.2.1 < r.2.2)) || s.teams.any (fun t => t.2.launch == id) ||
    s.frameQ.any (fun u => u.leftBehind s)) = false := by
  simp only [Bool.or_eq_false_iff, List.any_eq_false, decide_eq_true_eq, beq_iff_eq, not_lt]
  exact ⟨⟨fun r h => hr r h, fun t h => ht t h⟩, fun u h => by simp [hu u h]⟩

/-- R43: without a completion barrier. -/
theorem launchComplete_plain (hc : l.comp = none) : exec (.launchComplete id) s = .next (launchGone s id l) := by
  simp [exec_launchComplete, execLaunchComplete, hl, launch_over hr ht hu, hc, launchGone]

/-- R43: the completion barrier receives one arrival. -/
theorem launchComplete_barrier {va : DWord} {loc : ObjLoc} {s2 : State} (hc : l.comp = some va)
    (hb : completionBar (launchGone s id l) l.ctx va.toNat = some (loc, s2)) (hv : barValid s2 loc = true) :
    exec (.launchComplete id) s = .next (applyObj s2 loc l.ctx 1 0 .none) := by
  dsimp only [launchGone] at hb
  simp only [exec_launchComplete, execLaunchComplete, hl, launch_over hr ht hu, hc, hb, hv, Bool.false_eq_true, if_false, if_true]

end Completion

/-- R35: the record that LQDONE stands at is counted. -/
theorem LQueue.complete_oldest {q : LQueue} {rec : Nat} (hf : q.finished = []) (hd : q.lqdone.toNat = rec) (hr : rec + 1 < 2 ^ 32) :
    (q.complete rec).lqdone.toNat = q.lqdone.toNat + 1 ∧ (q.complete rec).finished = [] := by
  have hm : (rec + 1) % 4294967296 = rec + 1 := Nat.mod_eq_of_lt hr
  have hc : countDone [rec] 2 rec = rec + 1 := by simp [countDone, hm]
  simp only [LQueue.complete, hf, hd, List.nil_append, List.length_singleton, Nat.reduceAdd, hc, BitVec.toNat_ofNat]
  exact ⟨Nat.mod_eq_of_lt (by omega), by simp⟩

/-- R35: a later record waits for the earlier ones. -/
theorem LQueue.complete_later {q : LQueue} {rec : Nat} (hf : q.finished = []) (hd : q.lqdone.toNat ≠ rec) :
    (q.complete rec).lqdone = q.lqdone := by
  have hc : countDone [rec] 2 q.lqdone.toNat = q.lqdone.toNat := by simp [countDone, hd]
  simp [LQueue.complete, hf, hc]

end Sys2Proof.Machine
end

section
/-!
A cluster is placed whole (R28, R33, R34, R45, R46), and the obligation Placement.
-/
namespace Sys2Proof.Machine
open Sys2Proof.Claims

/-! ### The cores that are chosen (R38, R46) -/

theorem insertBy_perm {α : Type} (key : α → List Nat) (x : α) (l : List α) : (insertBy key x l).Perm (x :: l) := by
  induction l with
  | nil => exact .refl _
  | cons y t ih =>
    unfold insertBy
    split
    · exact .refl _
    · exact (ih.cons y).trans (.swap x y t)

theorem sortBy_perm {α : Type} (key : α → List Nat) (l : List α) : (sortBy key l).Perm l := by
  have gen : ∀ acc : List α, (l.foldl (fun acc x => insertBy key x acc) acc).Perm (acc ++ l) := by
    induction l with
    | nil => intro acc; simp
    | cons x t ih =>
      intro acc
      exact (ih _).trans (((insertBy_perm key x acc).append_right t).trans List.perm_middle.symm)
  exact gen []

theorem mem_acceptingCores {s : State} {qd c : Nat} (h : c ∈ acceptingCores s qd) :
    c / 16 = qd ∧ (quadAt s qd).accept.getLsbD (c % 16) = true := by
  unfold acceptingCores at h
  split at h
  · simp at h
  · obtain ⟨i, hi, rfl⟩ := List.mem_map.mp h
    obtain ⟨hlt, hacc⟩ := List.mem_filter.mp hi
    rw [List.mem_range] at hlt
    rw [show (16 * qd + i) / 16 = qd by omega, show (16 * qd + i) % 16 = i by omega]
    exact ⟨rfl, hacc⟩

theorem acceptingCores_nodup (s : State) (qd : Nat) : (acceptingCores s qd).Nodup := by
  unfold acceptingCores
  split
  · exact List.nodup_nil
  · exact (List.nodup_range.filter _).map (fun a b h => by simpa using h)

/-- R46: the cores of a cluster are distinct cores of the quadrant that accept placement, one for each team. -/
theorem clusterCores_spec {s : State} {ctx teams qd : Nat} {k : Kernel} {swap : Bool} {cores : List Nat}
    (h : clusterCores s ctx teams k swap qd = some cores) :
    cores.length = teams ∧ cores.Nodup ∧ ∀ c, c ∈ cores → c ∈ acceptingCores s qd := by
  unfold clusterCores at h
  dsimp only at h
  split at h
  · cases h
  · rename_i hlen
    cases h
    have hperm := sortBy_perm (fun c => [residentOn s c, c])
      ((acceptingCores s qd).filter (fun c => fitsOn s ctx c (List.range k.nGroups) k.regBytes k.memSize swap))
    refine ⟨?_, ?_, fun c hc => ?_⟩
    · rw [List.length_take, hperm.length_eq]
      omega
    · exact (hperm.nodup_iff.mpr ((acceptingCores_nodup s qd).filter _)).sublist (List.take_sublist _ _)
    · exact List.mem_of_mem_filter (hperm.mem_iff.mp (List.mem_of_mem_take hc))

/-- R46, R47: whatever the queue's mode, the cores are those that the chosen quadrant has for the cluster. -/
theorem nextPlace_cores {s : State} {q : LQueue} {l : Launch} {k : Kernel} {qd idx : Nat} {cores : List Nat} {ranges : Spans}
    (h : nextPlace s q l k = some (qd, cores, idx, ranges)) :
    clusterCores s l.ctx l.nTeams k ((partOf s l.ctx).rfmode == 1) qd = some cores := by
  unfold nextPlace at h
  dsimp only at h
  split at h
  · cases h
  · split at h
    · split at h
      · split at h
        · cases h
        · obtain ⟨qd', -, hq⟩ := List.exists_of_findSome?_eq_some h
          obtain ⟨cs, hcs, heq⟩ := Option.map_eq_some_iff.mp hq
          cases heq
          exact hcs
      · cases h
    · obtain ⟨x, -, hx⟩ := Option.bind_eq_some_iff.mp h
      obtain ⟨cs, hcs, heq⟩ := Option.map_eq_some_iff.mp hx
      cases heq
      exact hcs

theorem queuePlace_nextPlace {s : State} {n lid qd idx : Nat} {l : Launch} {o : Obj} {k : Kernel} {cores : List Nat} {ranges : Spans}
    (h : queuePlace s n = some (lid, l, o, k, qd, cores, idx, ranges)) :
    nextPlace s (s.lqAt n) l k = some (qd, cores, idx, ranges) := by
  unfold queuePlace at h
  dsimp only at h
  split at h
  · cases h
  · split at h
    · split at h
      · cases h
      · split at h
        · cases h
        · obtain ⟨p, hp, heq⟩ := Option.map_eq_some_iff.mp h
          cases heq
          exact hp
    · cases h

/-! ### What the save area's moves leave alone (R396) -/

/-- The clusters and the next number are as they were. -/
def sameClusters (s t : State) : Prop := t.clusters = s.clusters ∧ t.nextId = s.nextId

theorem sameClusters.refl (s : State) : sameClusters s s := ⟨rfl, rfl⟩

theorem sameClusters.trans {s t u : State} (h1 : sameClusters s t) (h2 : sameClusters t u) : sameClusters s u :=
  ⟨h2.1.trans h1.1, h2.2.trans h1.2⟩

theorem fillCore_sameClusters (s : State) (core ctx : Nat) : sameClusters s (fillCore s core ctx) := by
  unfold fillCore
  dsimp only
  refine List.foldlRecOn (motive := sameClusters s) _ _ ?teams (fun t ht x _ => ht.trans ?_)
  case teams =>
    refine List.foldlRecOn (motive := sameClusters s) _ _ (.refl s) (fun t ht x _ => ht.trans ?_)
    split <;> exact ⟨rfl, rfl⟩
  split <;> exact ⟨rfl, rfl⟩

theorem spillGroup_frame (s : State) (gid : Nat) (g : Group) (at0 : Nat) :
    sameClusters s (spillGroup s gid g at0) ∧ (spillGroup s gid g at0).teams = s.teams := by
  simp [spillGroup, sameClusters]

theorem spillTeam_sameClusters (s : State) (tid : Nat) (t : Team) (at0 : Nat) : sameClusters s (spillTeam s tid t at0) := by
  simp [spillTeam, sameClusters]

/-- A spill moves the context's groups on the core, then its teams there, each to a place of its own. -/
theorem spillCore_eq (s : State) (core ctx : Nat) : ∃ (gp : Nat × Group → Nat) (tp : Nat × Team → Nat), spillCore s core ctx =
    (teamsOn s core ctx).foldl (fun s t => spillTeam s t.1 t.2 (tp t))
      ((groupsOn s core ctx).foldl (fun s g => spillGroup s g.1 g.2 (gp g)) s) := ⟨_, _, rfl⟩

theorem spillCore_sameClusters (s : State) (core ctx : Nat) : sameClusters s (spillCore s core ctx) := by
  obtain ⟨gp, tp, h⟩ := spillCore_eq s core ctx
  rw [h]
  refine List.foldlRecOn (motive := sameClusters s) _ _ ?groups (fun t ht x _ => ht.trans (spillTeam_sameClusters t x.1 x.2 (tp x)))
  case groups =>
    exact List.foldlRecOn (motive := sameClusters s) _ _ (.refl s) (fun t ht x _ => ht.trans (spillGroup_frame t x.1 x.2 (gp x)).1)

theorem saveNew_sameClusters (s : State) (core ctx : Nat) : sameClusters s (saveNew s core ctx) := by
  unfold saveNew
  dsimp only
  split
  · exact .refl s
  · exact (fillCore_sameClusters s core ctx).trans (spillCore_sameClusters _ core ctx)

/-- A team of this number is there, and every listed team of this number is as `P` says. -/
def holdsTeam (P : Team → Prop) (tid : Nat) (s : State) : Prop := (Map.find s.teams tid).isSome = true ∧ ∀ t, (tid, t) ∈ s.teams → P t

theorem holdsTeam.find {P : Team → Prop} {tid : Nat} {s : State} (h : holdsTeam P tid s) : ∃ t, Map.find s.teams tid = some t ∧ P t := by
  obtain ⟨t, ht⟩ := Option.isSome_iff_exists.mp h.1
  exact ⟨t, ht, h.2 t (Map.mem_of_find ht)⟩

theorem holdsTeam_congr {P : Team → Prop} {tid : Nat} {s t : State} (h : t.teams = s.teams) (hs : holdsTeam P tid s) : holdsTeam P tid t := by
  unfold holdsTeam
  rw [h]
  exact hs

/-- A team that is written under a number is as `P` says, or has another number. -/
theorem holdsTeam_put {P : Team → Prop} {tid : Nat} {s t : State} {n : Nat} {x : Team} (hs : holdsTeam P tid s)
    (ht : t.teams = Map.put s.teams n x) (hx : n = tid → P x) : holdsTeam P tid t := by
  unfold holdsTeam
  rw [ht]
  refine ⟨?_, fun y hy => ?_⟩
  · rw [Map.find_put]
    split
    · rfl
    · exact hs.1
  · rcases Map.mem_put hy with heq | hmem
    · cases heq
      exact hx rfl
    · exact hs.2 y hmem

/-- A team that is written under a number is the only one of that number. -/
theorem holdsTeam_new {P : Team → Prop} {s t : State} {n : Nat} {x : Team} (ht : t.teams = Map.put s.teams n x) (hx : P x) :
    holdsTeam P n t := by
  unfold holdsTeam
  rw [ht]
  refine ⟨by simp, fun y hy => ?_⟩
  rcases Map.mem_ins _ _ _ _ hy with heq | hmem
  · cases heq
    exact hx
  · exact absurd (List.mem_filter.mp hmem).2 (by simp)

theorem mem_teamsOn {s : State} {core ctx : Nat} {x : Nat × Team} (h : x ∈ teamsOn s core ctx) : x ∈ s.teams ∧ x.2.core = core := by
  obtain ⟨h1, h2⟩ := List.mem_filter.mp h
  exact ⟨List.mem_of_mem_filter h1, by simpa using h2⟩

/-- A fill leaves a team alone that has no state in the save area, or that is on another core. -/
theorem fillCore_holdsTeam {P : Team → Prop} {tid : Nat} {s : State} {core : Nat} (ctx : Nat) (hP : ∀ t, P t → t.core = core → t.saved = none)
    (hs : holdsTeam P tid s) : holdsTeam P tid (fillCore s core ctx) := by
  unfold fillCore
  dsimp only
  refine List.foldlRecOn (motive := holdsTeam P tid) _ _ ?teams (fun t ht x _ => ?groups)
  case teams =>
    refine List.foldlRecOn (motive := holdsTeam P tid) _ _ hs (fun t ht x hx => ?_)
    obtain ⟨hmem, hcore⟩ := mem_teamsOn hx
    split
    · rename_i a hsaved
      refine holdsTeam_put ht rfl fun hid => ?_
      have := hP x.2 (hs.2 x.2 (hid ▸ hmem)) hcore
      rw [this] at hsaved
      cases hsaved
    · exact ht
  case groups =>
    split
    · exact holdsTeam_congr rfl ht
    · exact ht

/-- A spill of a team's memory keeps the team but for the place of what is saved. -/
theorem spillCore_holdsTeam {P : Team → Prop} {tid : Nat} {s : State} {core : Nat} (ctx : Nat)
    (hP : ∀ t a, P t → t.core = core → P { t with saved := a }) (hs : holdsTeam P tid s) : holdsTeam P tid (spillCore s core ctx) := by
  obtain ⟨gp, tp, h⟩ := spillCore_eq s core ctx
  rw [h]
  refine List.foldlRecOn (motive := holdsTeam P tid) _ _ ?groups (fun t ht x hx => ?teams)
  case groups =>
    exact List.foldlRecOn (motive := holdsTeam P tid) _ _ hs (fun t ht x _ => holdsTeam_congr (spillGroup_frame t x.1 x.2 (gp x)).2 ht)
  case teams =>
    obtain ⟨hmem, hcore⟩ := mem_teamsOn hx
    exact holdsTeam_put ht rfl fun hid => hP x.2 _ (hs.2 x.2 (hid ▸ hmem)) hcore

theorem holdsTeam_mono {P Q : Team → Prop} {tid : Nat} {s : State} (h : ∀ t, P t → Q t) (hs : holdsTeam P tid s) : holdsTeam Q tid s :=
  ⟨hs.1, fun t ht => h t (hs.2 t ht)⟩

/-- Before the context's other teams on the core are saved, a team is as `P` says; afterwards as `Q` says. -/
theorem saveNew_holdsTeam {P Q : Team → Prop} {tid : Nat} {s : State} {core : Nat} (ctx : Nat) (hPQ : ∀ t, P t → Q t)
    (hfill : ∀ t, P t → t.core = core → t.saved = none) (hspill : ∀ t a, Q t → t.core = core → Q { t with saved := a })
    (hs : holdsTeam P tid s) : holdsTeam Q tid (saveNew s core ctx) := by
  unfold saveNew
  dsimp only
  split
  · exact holdsTeam_mono hPQ hs
  · exact spillCore_holdsTeam ctx hspill (holdsTeam_mono hPQ (fillCore_holdsTeam ctx hfill hs))

theorem refreshAt_coreAt (s : State) {core c : Nat} (scope : Nat) (h : c ≠ core) : (refreshAt s core scope).coreAt c = s.coreAt c := by
  unfold refreshAt State.coreAt Map.get
  split
  · rfl
  · simp [Map.find_modify, h]

/-! ### One team (R28, R32, R43) -/

/-- A team as it was placed on a core; where its memory is saved is not said. -/
def placedTeam (lid cl : Nat) (l : Launch) (k : Kernel) (core : Nat) (t : Team) : Prop :=
  t.ctx = l.ctx ∧ t.launch = lid ∧ t.cluster = cl ∧ t.core = core ∧ t.mem = [] ∧ t.memSize = k.memSize ∧ t.gridH = k.gridH ∧
  t.gridW = 2 ^ k.logW

/-- The core's banks are free or hold the context. -/
def hasBank (c : Core) (ctx : Nat) : Prop := c.active = none ∨ c.active = some ctx ∨ c.shadow = some ctx

theorem holdBank_holds {c : Core} {ctx : Nat} (h : hasBank c ctx) (swap : Bool) :
    (holdBank c ctx swap).active = some ctx ∨ (holdBank c ctx swap).shadow = some ctx := by
  unfold holdBank
  rcases h with h | h | h
  · simp [h]
  · simp [h]
  · cases ha : c.active <;> simp [h]

/-- Where the core's banks hold the context nothing is saved. -/
theorem saveNew_held {s : State} {core ctx : Nat} (h : (s.coreAt core).active = some ctx ∨ (s.coreAt core).shadow = some ctx) :
    saveNew s core ctx = s := by
  unfold saveNew
  exact if_pos (by simpa using h)

/-- Only the queued updates of frames may differ. -/
theorem foldl_learn_frame {α : Type} (f : α → Nat) (scope : Nat) (l : List α) (s : State) :
    { l.foldl (fun s x => learn s (f x) scope) s with frameQ := s.frameQ } = s :=
  List.foldlRecOn (motive := fun t : State => { t with frameQ := s.frameQ } = s) l _ rfl
    (fun t ht x _ => (congrArg (fun u : State => { u with frameQ := s.frameQ }) (learn_frame t (f x) scope)).trans ht)

/-- A placement makes the team, lists it in its cluster and takes a bank of the core; then the state of a context that got no bank
goes to the save area, and the core is refreshed. -/
theorem placeTeam_cases (s : State) (lid cl : Nat) (l : Launch) (o : Obj) (k : Kernel) (lcore core : Nat) :
    ∃ s1 tm ctxs, placeTeam s lid cl l o k lcore core = refreshAt { saveNew s1 core l.ctx with ctxs := ctxs } core 4 ∧
      s1.teams = Map.put s.teams s.nextId tm ∧ placedTeam lid cl l k core tm ∧ tm.saved = none ∧
      s1.nextId = s.nextId + 1 + k.nGroups ∧ s1.mem = s.mem ∧
      s1.clusters = Map.modify s.clusters cl (fun c => { c with teams := c.teams ++ [s.nextId], names := c.names ++ [core] }) ∧
      s1.cores = Map.put s.cores core (holdBank (s.coreAt core) l.ctx ((partOf s l.ctx).rfmode == 1)) := by
  refine ⟨_, ⟨l.ctx, lid, cl, lcore, core, k.nGroups, k.gridH, 2 ^ k.logW, k.memSize, [], none, [], [], [], []⟩, _, rfl, ?_,
    ⟨rfl, rfl, rfl, rfl, rfl, rfl, rfl, rfl⟩, rfl, ?_, ?_, ?_, ?_⟩
  · exact (congrArg State.teams (foldl_learn_frame (fun g : Nat × Group => g.1) 4 _ _) :)
  · exact (congrArg State.nextId (foldl_learn_frame (fun g : Nat × Group => g.1) 4 _ _) :)
  · exact (congrArg State.mem (foldl_learn_frame (fun g : Nat × Group => g.1) 4 _ _) :)
  · exact (congrArg State.clusters (foldl_learn_frame (fun g : Nat × Group => g.1) 4 _ _) :)
  · exact (congrArg State.cores (foldl_learn_frame (fun g : Nat × Group => g.1) 4 _ _) :)

/-- R28, R34: the team is listed last in its cluster, under the core's name, and has a number that was free. -/
theorem placeTeam_lists (s : State) (lid cl : Nat) (l : Launch) (o : Obj) (k : Kernel) (lcore core : Nat) :
    (placeTeam s lid cl l o k lcore core).nextId = s.nextId + 1 + k.nGroups ∧
    (placeTeam s lid cl l o k lcore core).clusters =
      Map.modify s.clusters cl (fun c => { c with teams := c.teams ++ [s.nextId], names := c.names ++ [core] }) := by
  obtain ⟨s1, tm, ctxs, heq, -, -, -, hid, -, hcl, -⟩ := placeTeam_cases s lid cl l o k lcore core
  obtain ⟨hsc, hsi⟩ := saveNew_sameClusters s1 core l.ctx
  rw [heq, refreshAt_nextId, refreshAt_clusters]
  exact ⟨hsi.trans hid, hsc.trans hcl⟩

/-- R28, R43: the new team is there. -/
theorem placeTeam_holdsTeam (s : State) (lid cl : Nat) (l : Launch) (o : Obj) (k : Kernel) (lcore core : Nat) :
    holdsTeam (placedTeam lid cl l k core) s.nextId (placeTeam s lid cl l o k lcore core) := by
  obtain ⟨s1, tm, ctxs, heq, hteams, hplaced, hsaved, -⟩ := placeTeam_cases s lid cl l o k lcore core
  have h1 : holdsTeam (fun t => placedTeam lid cl l k core t ∧ t.saved = none) s.nextId s1 := holdsTeam_new hteams ⟨hplaced, hsaved⟩
  rw [heq]
  exact holdsTeam_congr (refreshAt_teams ..)
    (saveNew_holdsTeam l.ctx (fun _ ht => ht.1) (fun _ ht _ => ht.2) (fun _ _ ht _ => ht) h1)

/-- A placement on one core leaves the teams of other cores alone. -/
theorem placeTeam_keepsTeam {P : Team → Prop} {tid : Nat} {s : State} (lid cl : Nat) (l : Launch) (o : Obj) (k : Kernel) (lcore : Nat)
    {core : Nat} (hP : ∀ t, P t → t.core ≠ core) (hid : tid ≠ s.nextId) (hs : holdsTeam P tid s) :
    holdsTeam P tid (placeTeam s lid cl l o k lcore core) := by
  obtain ⟨s1, tm, ctxs, heq, hteams, -⟩ := placeTeam_cases s lid cl l o k lcore core
  have h1 : holdsTeam P tid s1 := holdsTeam_put hs hteams (fun e => absurd e.symm hid)
  rw [heq]
  exact holdsTeam_congr (refreshAt_teams ..) 
    (saveNew_holdsTeam l.ctx (fun _ ht => ht) (fun t ht hc => absurd hc (hP t ht)) (fun t a ht hc => absurd hc (hP t ht)) h1)

/-- Where the core's banks are free or hold the context, no byte of memory changes, and no other core. -/
theorem placeTeam_mem {s : State} (lid cl : Nat) {l : Launch} (o : Obj) (k : Kernel) (lcore : Nat) {core : Nat}
    (hb : hasBank (s.coreAt core) l.ctx) : (placeTeam s lid cl l o k lcore core).mem = s.mem ∧
      ∀ c, c ≠ core → (placeTeam s lid cl l o k lcore core).coreAt c = s.coreAt c := by
  obtain ⟨s1, tm, ctxs, heq, -, -, -, -, hmem, -, hcores⟩ := placeTeam_cases s lid cl l o k lcore core
  have hat : ∀ c, s1.coreAt c = if c = core then holdBank (s.coreAt core) l.ctx ((partOf s l.ctx).rfmode == 1) else s.coreAt c := by
    intro c
    exact (congrArg (fun m => Map.get Core.reset m c) hcores).trans (Map.get_put ..)
  have hsave : saveNew s1 core l.ctx = s1 := saveNew_held (by rw [hat, if_pos rfl]; exact holdBank_holds hb _)
  rw [heq, hsave]
  refine ⟨(refreshAt_mem ..).trans hmem, fun c hc => ?_⟩
  exact (refreshAt_coreAt _ 4 hc).trans ((hat c).trans (if_neg hc))

/-! ### The whole cluster (R33, R34, R45) -/

/-- The cluster `cl` is listed with its launch, index, quadrant and size, its teams on the cores of `names`, in their order, are there. -/
def clusterStands (lid cl idx qd size : Nat) (l : Launch) (k : Kernel) (names : List Nat) (s : State) : Prop :=
  ∃ tids, Map.find s.clusters cl = some { launch := lid, index := idx, quad := qd, size := size, teams := tids, names := names } ∧
    tids.length = names.length ∧
    ∀ tid, tid ∈ tids → tid < s.nextId ∧ ∃ c, c ∈ names ∧ holdsTeam (placedTeam lid cl l k c) tid s

theorem placeTeam_clusterStands {lid cl idx qd size : Nat} {l : Launch} {k : Kernel} {names : List Nat} {s : State} (o : Obj) (lcore : Nat)
    {core : Nat} (hs : clusterStands lid cl idx qd size l k names s) (hc : core ∉ names) :
    clusterStands lid cl idx qd size l k (names ++ [core]) (placeTeam s lid cl l o k lcore core) := by
  obtain ⟨tids, hcl, hlen, hteams⟩ := hs
  obtain ⟨hid, hlist⟩ := placeTeam_lists s lid cl l o k lcore core
  refine ⟨tids ++ [s.nextId], ?_, by simp [hlen], fun tid htid => ?_⟩
  · rw [hlist]
    exact Map.find_modify_some hcl _
  · rw [hid]
    rcases List.mem_append.mp htid with hold | hnew
    · obtain ⟨hlt, c, hcn, hheld⟩ := hteams tid hold
      refine ⟨by omega, c, List.mem_append_left _ hcn, placeTeam_keepsTeam lid cl l o k lcore (fun t ht => ?_) (by omega) hheld⟩
      obtain ⟨-, -, -, hcore, -⟩ := ht
      exact fun e => hc (e ▸ hcore ▸ hcn)
    · rw [List.mem_singleton.mp hnew]
      exact ⟨by omega, core, by simp, placeTeam_holdsTeam s lid cl l o k lcore core⟩

/-- The teams of a cluster are placed, one on each of the cores. -/
def placeTeams (lid cl : Nat) (l : Launch) (o : Obj) (k : Kernel) (xs : List (Nat × Nat)) (s : State) : State :=
  xs.foldl (fun s x => placeTeam s lid cl l o k x.1 x.2) s

theorem placeTeams_clusterStands {lid cl idx qd size : Nat} {l : Launch} {k : Kernel} (o : Obj) (xs : List (Nat × Nat)) {names : List Nat}
    {s : State} (hs : clusterStands lid cl idx qd size l k names s) (hn : (names ++ xs.map Prod.snd).Nodup) :
    clusterStands lid cl idx qd size l k (names ++ xs.map Prod.snd) (placeTeams lid cl l o k xs s) := by
  induction xs generalizing names s with
  | nil => simpa [placeTeams] using hs
  | cons x t ih =>
    rw [List.map_cons, List.append_cons] at hn ⊢
    refine ih (placeTeam_clusterStands o x.1 hs fun hx => ?_) hn
    have := (List.nodup_append.mp hn).1
    exact (List.nodup_append.mp this).2.2 _ hx _ (by simp) rfl

theorem placeTeams_mem {l : Launch} (lid cl : Nat) (o : Obj) (k : Kernel) (xs : List (Nat × Nat)) {s : State}
    (hb : ∀ x, x ∈ xs → hasBank (s.coreAt x.2) l.ctx) (hn : (xs.map Prod.snd).Nodup) : (placeTeams lid cl l o k xs s).mem = s.mem := by
  induction xs generalizing s with
  | nil => rfl
  | cons x t ih =>
    obtain ⟨hx, ht⟩ := List.nodup_cons.mp (List.map_cons (f := Prod.snd) ▸ hn)
    obtain ⟨hmem, hcores⟩ := placeTeam_mem lid cl o k x.1 (hb x (by simp))
    refine (ih (fun y hy => ?_) ht).trans hmem
    rw [hcores y.2 (fun e => hx (e ▸ List.mem_map_of_mem (f := Prod.snd) hy))]
    exact hb y (List.mem_cons_of_mem _ hy)

/-- The teams with their logical cores, in order. -/
def named (cores : List Nat) : List (Nat × Nat) := cores.mapIdx (fun t c => (t, c))

theorem named_cores (cores : List Nat) : (named cores).map Prod.snd = cores := by
  refine List.ext_getElem? fun i => ?_
  simp [named]

/-- The state in which a new cluster without teams is listed under the next number. -/
def newCluster (s : State) (lid idx qd size : Nat) : State :=
  { s.takeId.2 with clusters := Map.put s.clusters s.nextId { launch := lid, index := idx, quad := qd, size := size, teams := [], names := [] } }

/-- A placement lists a cluster and places its teams; the launch and its queue are then brought up to date. -/
theorem placeOne_cases (s : State) (n lid : Nat) (l : Launch) (o : Obj) (k : Kernel) (qd : Nat) (cores : List Nat) (idx : Nat) (ranges : Spans) :
    let t := placeOne s n lid l o k qd cores idx ranges
    let u := placeTeams lid s.nextId l o k (named cores) (newCluster s lid idx qd cores.length)
    t.clusters = u.clusters ∧ t.teams = u.teams ∧ t.nextId = u.nextId ∧ t.mem = u.mem := by
  unfold placeOne
  dsimp only
  split <;> exact ⟨rfl, rfl, rfl, rfl⟩

theorem exec_placeCluster (s : State) : exec .placeCluster s = execPlaceCluster s := rfl

/-- R40, R41, R45: once head records are taken, the queue that is next has its next cluster placed. -/
theorem placeCluster_places {s s1 : State} {n lid qd idx : Nat} {l : Launch} {o : Obj} {k : Kernel} {cores : List Nat} {ranges : Spans}
    (hs : s1 = (Map.keys s.lqs).foldl prepQueue s)
    (hn : minBy (fun n => [8 - (s1.lqAt n).prio, (n + 63 - s1.lastQueue) % 64])
      ((Map.keys s1.lqs).filter (fun n => (queuePlace s1 n).isSome)) = some n)
    (hq : queuePlace s1 n = some (lid, l, o, k, qd, cores, idx, ranges)) :
    exec .placeCluster s = .next (placeOne s1 n lid l o k qd cores idx ranges) := by
  rw [exec_placeCluster]
  unfold execPlaceCluster
  dsimp only
  rw [← hs, hn]
  dsimp only
  rw [hq]

/-- R33, R34, R45: after a placement on distinct cores the new cluster stands whole. -/
theorem placeOne_clusterStands (s : State) (n lid : Nat) (l : Launch) (o : Obj) (k : Kernel) (qd : Nat) {cores : List Nat} (idx : Nat)
    (ranges : Spans) (hn : cores.Nodup) :
    clusterStands lid s.nextId idx qd cores.length l k cores (placeOne s n lid l o k qd cores idx ranges) := by
  obtain ⟨hcl, hteams, hid, -⟩ := placeOne_cases s n lid l o k qd cores idx ranges
  have hnew : clusterStands lid s.nextId idx qd cores.length l k [] (newCluster s lid idx qd cores.length) :=
    ⟨[], Map.find_put_self .., rfl, by simp⟩
  have hstands := placeTeams_clusterStands o (named cores) hnew (by rwa [named_cores])
  rw [named_cores] at hstands
  obtain ⟨tids, hfind, hlen, hheld⟩ := hstands
  refine ⟨tids, hcl ▸ hfind, hlen, fun tid ht => ?_⟩
  obtain ⟨hlt, c, hc, hteam⟩ := hheld tid ht
  exact ⟨hid ▸ hlt, c, hc, holdsTeam_congr hteams hteam⟩

/-- R28: no byte of memory changes where the banks of the cluster's cores are free or hold the context. -/
theorem placeOne_mem {s : State} (n lid : Nat) {l : Launch} (o : Obj) (k : Kernel) (qd : Nat) {cores : List Nat} (idx : Nat)
    (ranges : Spans) (hn : cores.Nodup) (hb : ∀ c, c ∈ cores → hasBank (s.coreAt c) l.ctx) :
    (placeOne s n lid l o k qd cores idx ranges).mem = s.mem := by
  obtain ⟨-, -, -, hmem⟩ := placeOne_cases s n lid l o k qd cores idx ranges
  refine hmem.trans (placeTeams_mem lid s.nextId o k (named cores) (s := newCluster s lid idx qd cores.length) (fun x hx => hb x.2 ?_) ?_)
  · exact named_cores cores ▸ List.mem_map_of_mem (f := Prod.snd) hx
  · rwa [named_cores]

end Sys2Proof.Machine

open Sys2Proof Sys2Proof.Machine Sys2Proof.Claims

/-- Settles O43: the cores by the choice of the quadrant, the cluster by an induction over its teams, the release by what a change of a
core's active context leaves alone, and the completion by its guard. -/
theorem placement : Obligations.Placement := by
  unfold Obligations.Placement
  refine ⟨fun s s1 n lid qd idx l o k cores ranges hs hn hq => ?placed, fun s gid g => groupExitRelease_releases,
    fun s id l hl hr ht hu => ?ended⟩
  case placed =>
    obtain ⟨hlen, hnodup, hacc⟩ := clusterCores_spec (nextPlace_cores (queuePlace_nextPlace hq))
    obtain ⟨tids, hcl, hcount, hheld⟩ := placeOne_clusterStands s1 n lid l o k qd idx ranges hnodup
    refine ⟨_, s1.nextId, _, placeCluster_places hs hn hq, hcl, rfl, rfl, rfl, rfl, rfl, hcount, rfl, hlen, hnodup,
      fun c hc => mem_acceptingCores (hacc c hc), placeOne_mem n lid o k qd idx ranges hnodup, fun tid htid => ?_⟩
    obtain ⟨-, c, -, hteam⟩ := hheld tid htid
    obtain ⟨tm, hfind, hctx, hlaunch, hcluster, -, hmem, hsize, hh, hw⟩ := hteam.find
    exact ⟨tm, hfind, hctx, hlaunch, hcluster, hmem, hsize, hh, hw⟩
  case ended =>
    exact ⟨launchComplete_plain hl hr ht hu, fun va loc s2 => launchComplete_barrier hl hr ht hu, LQueue.complete_oldest,
      LQueue.complete_later⟩
end

section
/-!
The encoder and the decoder agree (R60 to R70, R74, R75, R361, R362): a word is the list of its fields, lowest first, so that what
is read at a field's place is that field; the obligations DecodeEncode, DecodeSound and DecodeWords.
-/
namespace Sys2Proof

/-! ### A word as the list of its fields -/

/-- Fields of a word with their widths, the lowest first. -/
abbrev Fields := List (Σ n, BitVec n)

/-- The number whose fields are these, the lowest first. -/
def pack : Fields → Nat
  | [] => 0
  | ⟨n, v⟩ :: t => v.toNat + 2 ^ n * pack t

@[simp] theorem fld_pack_head {n : Nat} (v : BitVec n) (t : Fields) : fld (pack (⟨n, v⟩ :: t)) 0 n = v.toNat := by
  simp [fld, pack, Nat.mod_eq_of_lt v.isLt]

theorem pack_div {n lo : Nat} (v : BitVec n) (t : Fields) (h : n ≤ lo) :
    pack (⟨n, v⟩ :: t) / 2 ^ lo = pack t / 2 ^ (lo - n) := by
  have hn : 2 ^ lo = 2 ^ n * 2 ^ (lo - n) := by rw [← pow_add]; congr 1; omega
  rw [hn, ← Nat.div_div_eq_div_mul, pack, Nat.add_mul_div_left _ _ (Nat.two_pow_pos n), Nat.div_eq_of_lt v.isLt, Nat.zero_add]

theorem fld_pack_tail {n lo : Nat} (v : BitVec n) (t : Fields) (m : Nat) (h : n ≤ lo) :
    fld (pack (⟨n, v⟩ :: t)) lo m = fld (pack t) (lo - n) m := by
  rw [fld, pack_div v t h, fld]

@[simp] theorem bvf_pack_head {n : Nat} (v : BitVec n) (t : Fields) : bvf (pack (⟨n, v⟩ :: t)) 0 n = v :=
  BitVec.eq_of_toNat_eq (fld_pack_head v t)

theorem bvf_pack_tail {n lo : Nat} (v : BitVec n) (t : Fields) (m : Nat) (h : n ≤ lo) :
    bvf (pack (⟨n, v⟩ :: t)) lo m = bvf (pack t) (lo - n) m := by
  rw [bvf, pack_div v t h, bvf]

@[simp] theorem bitAt_pack_head (b : Bool) (t : Fields) : bitAt (pack (⟨1, BitVec.ofBool b⟩ :: t)) 0 = b := by
  cases b <;> simp [bitAt, pack, Nat.add_mod]

theorem bitAt_pack_tail {n lo : Nat} (v : BitVec n) (t : Fields) (h : n ≤ lo) :
    bitAt (pack (⟨n, v⟩ :: t)) lo = bitAt (pack t) (lo - n) := by
  rw [bitAt, pack_div v t h, bitAt]

/-- These fields are what stands in word `w` from bit `lo` on. -/
def standsFrom (w lo : Nat) (l : Fields) : Prop := pack l = w / 2 ^ lo

theorem standsFrom_cons {w lo n : Nat} {v : BitVec n} {t : Fields} :
    standsFrom w lo (⟨n, v⟩ :: t) ↔ fld w lo n = v.toNat ∧ standsFrom w (lo + n) t := by
  have hv := v.isLt
  rw [standsFrom, standsFrom, fld, pow_add, ← Nat.div_div_eq_div_mul, pack]
  constructor
  · intro h
    rw [← h, Nat.add_mul_mod_self_left, Nat.mod_eq_of_lt hv, Nat.add_mul_div_left _ _ (Nat.two_pow_pos n), Nat.div_eq_of_lt hv,
      Nat.zero_add]
    exact ⟨rfl, rfl⟩
  · rintro ⟨h1, h2⟩
    rw [← h1, h2, Nat.mod_add_div]

theorem standsFrom_nil {w lo : Nat} (h : w < 2 ^ lo) : standsFrom w lo [] := (Nat.div_eq_of_lt h).symm

theorem pack_of_standsFrom {w : Nat} {l : Fields} (h : standsFrom w 0 l) : pack l = w := h.trans (Nat.div_one w)

@[simp] theorem toNat_bvf (w lo n : Nat) : (bvf w lo n).toNat = fld w lo n := BitVec.toNat_ofNat _ _

@[simp] theorem toNat_ofBool_bitAt (w k : Nat) : (BitVec.ofBool (bitAt w k)).toNat = fld w k 1 := by
  rw [bitAt, fld, pow_one, BitVec.toNat_ofBool]
  obtain h | h := Nat.mod_two_eq_zero_or_one (w / 2 ^ k) <;> rw [h] <;> rfl

theorem fld_lt (w lo n : Nat) : fld w lo n < 2 ^ n := Nat.mod_lt _ (Nat.two_pow_pos n)

theorem toNat_ofNat_fld (w lo n : Nat) : (BitVec.ofNat n (fld w lo n)).toNat = fld w lo n :=
  Nat.mod_eq_of_lt (fld_lt w lo n)

/-! ### The codes of the enumerated fields (R63 to R69) -/

theorem Ty.toNat_code (x : Ty) : (BitVec.ofNat 4 x.code).toNat = x.code := by cases x <;> rfl
theorem Ty.ofCode_code (x : Ty) : Ty.ofCode (x.code % 16) = some x := by cases x <;> rfl
theorem Ty.code_of_ofCode {k : Nat} {x : Ty} (h : Ty.ofCode k = some x) : x.code = k := by
  unfold Ty.ofCode at h
  split at h <;> cases h <;> rfl

theorem STy.toNat_code (x : STy) : (BitVec.ofNat 4 x.code).toNat = x.code := by cases x <;> rfl
theorem STy.ofCode_code (x : STy) : STy.ofCode (x.code % 16) = some x := by cases x <;> rfl
theorem STy.code_of_ofCode {k : Nat} {x : STy} (h : STy.ofCode k = some x) : x.code = k := by
  unfold STy.ofCode at h
  split at h <;> cases h <;> rfl

theorem RM.toNat_code (x : RM) : (BitVec.ofNat 3 x.code).toNat = x.code := by cases x <;> rfl
theorem RM.ofCode_code (x : RM) : RM.ofCode (x.code % 8) = some x := by cases x <;> rfl
theorem RM.code_of_ofCode {k : Nat} {x : RM} (h : RM.ofCode k = some x) : x.code = k := by
  unfold RM.ofCode at h
  split at h <;> cases h <;> rfl

theorem Kind.toNat_code (x : Kind) : (BitVec.ofNat 2 x.code).toNat = x.code := by cases x <;> rfl
theorem Kind.ofCode_code (x : Kind) : Kind.ofCode (x.code % 4) = some x := by cases x <;> rfl
theorem Kind.code_of_ofCode {k : Nat} {x : Kind} (h : Kind.ofCode k = some x) : x.code = k := by
  unfold Kind.ofCode at h
  split at h <;> cases h <;> rfl

theorem Edge.toNat_code (x : Edge) : (BitVec.ofNat 3 x.code).toNat = x.code := by cases x <;> rfl
theorem Edge.ofCode_code (x : Edge) : Edge.ofCode (x.code % 8) = some x := by cases x <;> rfl
theorem Edge.code_of_ofCode {k : Nat} {x : Edge} (h : Edge.ofCode k = some x) : x.code = k := by
  unfold Edge.ofCode at h
  split at h <;> cases h <;> rfl

theorem Rop.toNat_code (x : Rop) : (BitVec.ofNat 3 x.code).toNat = x.code := by cases x <;> rfl
theorem Rop.ofCode_code (x : Rop) : Rop.ofCode (x.code % 8) = some x := by cases x <;> rfl
theorem Rop.code_of_ofCode {k : Nat} {x : Rop} (h : Rop.ofCode k = some x) : x.code = k := by
  unfold Rop.ofCode at h
  split at h <;> cases h <;> rfl

theorem Wid.toNat_code (x : Wid) : (BitVec.ofNat 3 x.code).toNat = x.code := by cases x <;> rfl
theorem Wid.ofCode_code (x : Wid) : Wid.ofCode (x.code % 8) = some x := by cases x <;> rfl
theorem Wid.code_of_ofCode {k : Nat} {x : Wid} (h : Wid.ofCode k = some x) : x.code = k := by
  unfold Wid.ofCode at h
  split at h <;> cases h <;> rfl

theorem Spc.toNat_code (x : Spc) : (BitVec.ofNat 3 x.code).toNat = x.code := by cases x <;> rfl
theorem Spc.ofCode_code (x : Spc) : Spc.ofCode (x.code % 8) = some x := by cases x <;> rfl
theorem Spc.code_of_ofCode {k : Nat} {x : Spc} (h : Spc.ofCode k = some x) : x.code = k := by
  unfold Spc.ofCode at h
  split at h <;> cases h <;> rfl

theorem Ord.toNat_code (x : Ord) : (BitVec.ofNat 2 x.code).toNat = x.code := by cases x <;> rfl
theorem Ord.ofCode_code (x : Ord) : Ord.ofCode (x.code % 4) = some x := by cases x <;> rfl
theorem Ord.code_of_ofCode {k : Nat} {x : Ord} (hk : k < 4) (h : Ord.ofCode k = some x) : x.code = k := by
  interval_cases k <;> cases h <;> rfl

theorem Scope.toNat_code (x : Scope) : (BitVec.ofNat 3 x.code).toNat = x.code := by cases x <;> rfl
theorem Scope.ofCode_code (x : Scope) : Scope.ofCode (x.code % 8) = some x := by cases x <;> rfl
theorem Scope.code_of_ofCode {k : Nat} {x : Scope} (h : Scope.ofCode k = some x) : x.code = k := by
  unfold Scope.ofCode at h
  split at h <;> cases h <;> rfl

theorem FlagSel.toNat_code (e : FlagSel) : (BitVec.ofNat 2 e.code).toNat = e.code := by cases e <;> rfl
theorem FlagSel.ofCode_code (e : FlagSel) : FlagSel.ofCode (e.code % 4) = some e := by cases e <;> rfl
theorem FlagSel.code_of_ofCode {k : Nat} {e : FlagSel} (h : FlagSel.ofCode k = some e) : e.code = k := by
  unfold FlagSel.ofCode at h
  split at h <;> cases h <;> rfl

theorem OcClass.toNat_code (x : OcClass) : (BitVec.ofNat 2 x.code).toNat = x.code := by cases x <;> rfl
theorem OcClass.ofCode_code (x : OcClass) : OcClass.ofCode (x.code % 4) = some x := by cases x <;> rfl
theorem OcClass.code_of_ofCode {k : Nat} {x : OcClass} (h : OcClass.ofCode k = some x) : x.code = k := by
  unfold OcClass.ofCode at h
  split at h <;> cases h <;> rfl

/-! ### The fields of each format, lowest first (R60, R63, R65 to R69) -/

/-- Bits [95:52]: the registers, the guard and the primary code. -/
def Regs.fields (r : Regs) (c o : Nat) : Fields :=
  [⟨8, r.c⟩, ⟨8, r.b⟩, ⟨8, r.a⟩, ⟨8, r.dst⟩, ⟨1, BitVec.ofBool r.g.neg⟩, ⟨3, r.g.p⟩, ⟨6, BitVec.ofNat 6 o⟩, ⟨2, BitVec.ofNat 2 c⟩]

def LFmt.fields (f : LFmt) (c o : Nat) : Fields :=
  [⟨32, f.imm⟩, ⟨2, 0#2⟩, ⟨2, BitVec.ofNat 2 f.kc.code⟩, ⟨2, BitVec.ofNat 2 f.kb.code⟩, ⟨2, BitVec.ofNat 2 f.ka.code⟩,
   ⟨3, BitVec.ofNat 3 f.rm.code⟩, ⟨1, BitVec.ofBool f.sat⟩, ⟨4, f.fn⟩, ⟨4, BitVec.ofNat 4 f.ty.code⟩] ++ f.r.fields c o

def PFmt.fields (f : PFmt) (c o : Nat) : Fields :=
  [⟨32, f.imm⟩, ⟨3, BitVec.ofNat 3 f.rop.code⟩, ⟨3, BitVec.ofNat 3 f.edge.code⟩, ⟨8, f.amt⟩, ⟨1, BitVec.ofBool f.yAxis⟩,
   ⟨1, BitVec.ofBool f.set⟩, ⟨4, f.fn⟩] ++ f.r.fields c o

def MFmt.fields (f : MFmt) (c o : Nat) : Fields :=
  [⟨32, f.ofs⟩, ⟨6, f.mfn⟩, ⟨1, BitVec.ofBool f.vAddr⟩, ⟨2, BitVec.ofNat 2 f.fs.code⟩, ⟨3, BitVec.ofNat 3 f.scope.code⟩,
   ⟨2, BitVec.ofNat 2 f.ord.code⟩, ⟨3, BitVec.ofNat 3 f.spc.code⟩, ⟨3, BitVec.ofNat 3 f.wid.code⟩] ++ f.r.fields c o

def BFmt.fields (f : BFmt) (c o : Nat) : Fields :=
  [⟨2, 0#2⟩, ⟨20, f.roff⟩, ⟨3, f.rsl⟩, ⟨20, f.toff⟩, ⟨3, f.tsl⟩, ⟨4, f.bk⟩] ++ f.r.fields c o

def EFmt.fields (f : EFmt) (c o : Nat) : Fields :=
  [⟨16, f.imm⟩, ⟨8, 0#8⟩, ⟨4, f.efn⟩, ⟨2, BitVec.ofNat 2 f.fs.code⟩, ⟨6, f.trg⟩, ⟨1, BitVec.ofBool f.tv⟩,
   ⟨2, BitVec.ofNat 2 f.cc.code⟩, ⟨6, f.bar⟩, ⟨1, BitVec.ofBool f.bv⟩, ⟨6, f.pair⟩] ++ f.r.fields c o

def SFmt.fields (f : SFmt) (c o : Nat) : Fields :=
  [⟨32, f.imm⟩, ⟨2, 0#2⟩, ⟨2, BitVec.ofNat 2 f.kc.code⟩, ⟨2, BitVec.ofNat 2 f.kb.code⟩, ⟨2, BitVec.ofNat 2 f.ka.code⟩,
   ⟨4, 0#4⟩, ⟨4, f.fn⟩, ⟨4, BitVec.ofNat 4 f.ty.code⟩] ++ f.r.fields c o

theorem toNat_ofBool_b2n (b : Bool) : (BitVec.ofBool b).toNat = b2n b := by cases b <;> rfl

section Written
variable {c o : Nat} (hc : c < 4) (ho : o < 64)
include hc ho

theorem pack_regsFields (r : Regs) : 2 ^ 52 * pack (r.fields c o) = regsBits c o r := by
  have h6 : (BitVec.ofNat 6 o).toNat = o := Nat.mod_eq_of_lt ho
  have h2 : (BitVec.ofNat 2 c).toNat = c := Nat.mod_eq_of_lt hc
  simp only [pack, Regs.fields, regsBits, toNat_ofBool_b2n, h6, h2]
  ring

theorem pack_lFields (f : LFmt) : pack (f.fields c o) = regsBits c o f.r + lBits f := by
  rw [← pack_regsFields hc ho]
  simp only [pack, LFmt.fields, List.cons_append, List.nil_append, lBits, Kind.toNat_code, RM.toNat_code, Ty.toNat_code,
    toNat_ofBool_b2n, BitVec.toNat_zero]
  ring

theorem pack_pFields (f : PFmt) : pack (f.fields c o) = regsBits c o f.r + pBits f := by
  rw [← pack_regsFields hc ho]
  simp only [pack, PFmt.fields, List.cons_append, List.nil_append, pBits, Edge.toNat_code, Rop.toNat_code, toNat_ofBool_b2n]
  ring

theorem pack_mFields (f : MFmt) : pack (f.fields c o) = regsBits c o f.r + mBits f := by
  rw [← pack_regsFields hc ho]
  simp only [pack, MFmt.fields, List.cons_append, List.nil_append, mBits, Wid.toNat_code, Spc.toNat_code, Ord.toNat_code,
    Scope.toNat_code, FlagSel.toNat_code, toNat_ofBool_b2n]
  ring

theorem pack_bFields (f : BFmt) : pack (f.fields c o) = regsBits c o f.r + bBits f := by
  rw [← pack_regsFields hc ho]
  simp only [pack, BFmt.fields, List.cons_append, List.nil_append, bBits, BitVec.toNat_zero]
  ring

theorem pack_eFields (f : EFmt) : pack (f.fields c o) = regsBits c o f.r + eBits f := by
  rw [← pack_regsFields hc ho]
  simp only [pack, EFmt.fields, List.cons_append, List.nil_append, eBits, OcClass.toNat_code, FlagSel.toNat_code, toNat_ofBool_b2n,
    BitVec.toNat_zero]
  ring

theorem pack_sFields (f : SFmt) : pack (f.fields c o) = regsBits c o f.r + sBits f := by
  rw [← pack_regsFields hc ho]
  simp only [pack, SFmt.fields, List.cons_append, List.nil_append, sBits, Kind.toNat_code, STy.toNat_code, BitVec.toNat_zero]
  ring

end Written

/-! ### Reading a written word gives its fields back -/

section Read
variable (c o : Nat)

theorem pack_append_div (l t : Fields) : pack (l ++ t) / 2 ^ (l.map Sigma.fst).sum = pack t := by
  induction l with
  | nil => simp
  | cons x l ih => rw [List.map_cons, List.sum_cons, List.cons_append, pack_div _ _ (Nat.le_add_right _ _), Nat.add_sub_cancel_left, ih]

theorem regsOf_pack (r : Regs) (l : Fields) (hl : (l.map Sigma.fst).sum = 52) :
    regsOf (pack (l ++ r.fields c o)) = r := by
  have hw : pack (l ++ r.fields c o) / 2 ^ 52 = pack (r.fields c o) := hl ▸ pack_append_div l _
  have hb (lo n : Nat) : bvf (pack (l ++ r.fields c o)) (52 + lo) n = bvf (pack (r.fields c o)) lo n := by
    rw [← hw, bvf, bvf, Nat.div_div_eq_div_mul, ← pow_add]
  have ha : bitAt (pack (l ++ r.fields c o)) (52 + 32) = bitAt (pack (r.fields c o)) 32 := by
    rw [← hw, bitAt, bitAt, Nat.div_div_eq_div_mul, ← pow_add]
  have hg := hb 33 3
  have hd := hb 24 8
  have hA := hb 16 8
  have hB := hb 8 8
  have hC := hb 0 8
  simp only [Nat.reduceAdd] at hg hd hA hB hC ha
  rw [regsOf, hg, hd, hA, hB, hC, ha]
  simp [Regs.fields, bvf_pack_tail, bitAt_pack_tail]

theorem lOf_pack (f : LFmt) : lOf (pack (f.fields c o)) = some f := by
  have hr : regsOf (pack (f.fields c o)) = f.r := regsOf_pack c o f.r _ rfl
  rw [lOf, hr]
  simp [LFmt.fields, fld_pack_tail, bvf_pack_tail, bitAt_pack_tail, Kind.ofCode_code, RM.ofCode_code, Ty.ofCode_code]

theorem pOf_pack (f : PFmt) : pOf (pack (f.fields c o)) = some f := by
  have hr : regsOf (pack (f.fields c o)) = f.r := regsOf_pack c o f.r _ rfl
  rw [pOf, hr]
  simp [PFmt.fields, fld_pack_tail, bvf_pack_tail, bitAt_pack_tail, Edge.ofCode_code, Rop.ofCode_code]

theorem mOf_pack (f : MFmt) : mOf (pack (f.fields c o)) = some f := by
  have hr : regsOf (pack (f.fields c o)) = f.r := regsOf_pack c o f.r _ rfl
  rw [mOf, hr]
  simp [MFmt.fields, fld_pack_tail, bvf_pack_tail, bitAt_pack_tail, Wid.ofCode_code, Spc.ofCode_code, Ord.ofCode_code,
    Scope.ofCode_code, FlagSel.ofCode_code]

theorem bOf_pack (f : BFmt) : bOf (pack (f.fields c o)) = f := by
  have hr : regsOf (pack (f.fields c o)) = f.r := regsOf_pack c o f.r _ rfl
  rw [bOf, hr]
  simp [BFmt.fields, bvf_pack_tail]

theorem eOf_pack (f : EFmt) : eOf (pack (f.fields c o)) = some f := by
  have hr : regsOf (pack (f.fields c o)) = f.r := regsOf_pack c o f.r _ rfl
  rw [eOf, hr]
  simp [EFmt.fields, fld_pack_tail, bvf_pack_tail, bitAt_pack_tail, OcClass.ofCode_code, FlagSel.ofCode_code]

/-- Format S reads the operand kinds s register and immediate alone (R69). -/
theorem sOf_pack (f : SFmt) (ha : f.ka ≠ .sca) (hb : f.kb ≠ .sca) (hc : f.kc ≠ .sca) : sOf (pack (f.fields c o)) = some f := by
  have hr : regsOf (pack (f.fields c o)) = f.r := regsOf_pack c o f.r _ rfl
  have hk (k : Kind) (h : k ≠ .sca) :
      (if k.code % 4 = 0 then some Kind.vec else if k.code % 4 = 2 then some Kind.imm else none) = some k := by
    cases k with
    | vec => rfl
    | sca => exact absurd rfl h
    | imm => rfl
  rw [sOf, hr]
  simp [SFmt.fields, fld_pack_tail, bvf_pack_tail, hk, ha, hb, hc, STy.ofCode_code]

end Read

/-! ### What is read from a word writes the word back -/

section Reread
variable {w : Nat} (hw : w < 2 ^ 96)
include hw

theorem standsFrom_regsOf : standsFrom w 52 ((regsOf w).fields (fld w 94 2) (fld w 88 6)) := by
  simp only [Regs.fields, regsOf, standsFrom_cons, toNat_bvf, toNat_ofBool_bitAt, toNat_ofNat_fld, Nat.reduceAdd, true_and]
  exact standsFrom_nil hw

theorem pack_lOf {f : LFmt} (h : lOf w = some f) (h0 : fld w 32 2 = 0) : pack (f.fields (fld w 94 2) (fld w 88 6)) = w := by
  simp only [lOf, Option.bind_eq_bind, Option.bind_eq_some_iff, Option.some.injEq] at h
  obtain ⟨ty, hty, rm, hrm, ka, hka, kb, hkb, kc, hkc, rfl⟩ := h
  apply pack_of_standsFrom
  simp only [LFmt.fields, List.cons_append, List.nil_append, standsFrom_cons, toNat_bvf, toNat_ofBool_bitAt, toNat_ofNat_fld,
    Ty.code_of_ofCode hty, RM.code_of_ofCode hrm, Kind.code_of_ofCode hka, Kind.code_of_ofCode hkb,
    Kind.code_of_ofCode hkc, h0, BitVec.toNat_zero, Nat.reduceAdd, Nat.zero_add, true_and]
  exact standsFrom_regsOf hw

theorem pack_pOf {f : PFmt} (h : pOf w = some f) : pack (f.fields (fld w 94 2) (fld w 88 6)) = w := by
  simp only [pOf, Option.bind_eq_bind, Option.bind_eq_some_iff, Option.some.injEq] at h
  obtain ⟨edge, hedge, rop, hrop, rfl⟩ := h
  apply pack_of_standsFrom
  simp only [PFmt.fields, List.cons_append, List.nil_append, standsFrom_cons, toNat_bvf, toNat_ofBool_bitAt, toNat_ofNat_fld,
    Edge.code_of_ofCode hedge, Rop.code_of_ofCode hrop, Nat.reduceAdd, Nat.zero_add, true_and]
  exact standsFrom_regsOf hw

theorem pack_mOf {f : MFmt} (h : mOf w = some f) : pack (f.fields (fld w 94 2) (fld w 88 6)) = w := by
  simp only [mOf, Option.bind_eq_bind, Option.bind_eq_some_iff, Option.some.injEq] at h
  obtain ⟨wid, hwid, spc, hspc, ord, hord, scope, hscope, fs, hfs, rfl⟩ := h
  apply pack_of_standsFrom
  simp only [MFmt.fields, List.cons_append, List.nil_append, standsFrom_cons, toNat_bvf, toNat_ofBool_bitAt, toNat_ofNat_fld,
    Wid.code_of_ofCode hwid, Spc.code_of_ofCode hspc,
    Ord.code_of_ofCode (fld_lt w 44 2) hord, Scope.code_of_ofCode hscope, FlagSel.code_of_ofCode hfs, Nat.reduceAdd, Nat.zero_add,
    true_and]
  exact standsFrom_regsOf hw

theorem pack_eOf {f : EFmt} (h : eOf w = some f) (h0 : fld w 16 8 = 0) : pack (f.fields (fld w 94 2) (fld w 88 6)) = w := by
  simp only [eOf, Option.bind_eq_bind, Option.bind_eq_some_iff, Option.some.injEq] at h
  obtain ⟨cc, hcc, fs, hfs, rfl⟩ := h
  apply pack_of_standsFrom
  simp only [EFmt.fields, List.cons_append, List.nil_append, standsFrom_cons, toNat_bvf, toNat_ofBool_bitAt, toNat_ofNat_fld,
    OcClass.code_of_ofCode hcc, FlagSel.code_of_ofCode hfs, h0, BitVec.toNat_zero, Nat.reduceAdd, Nat.zero_add,
    true_and]
  exact standsFrom_regsOf hw

theorem pack_bOf (h0 : fld w 0 2 = 0) : pack ((bOf w).fields (fld w 94 2) (fld w 88 6)) = w := by
  apply pack_of_standsFrom
  simp only [BFmt.fields, bOf, List.cons_append, List.nil_append, standsFrom_cons, toNat_bvf, h0, BitVec.toNat_zero, Nat.reduceAdd,
    Nat.zero_add, true_and]
  exact standsFrom_regsOf hw

omit hw in
/-- The operand kinds that format S reads (R69). -/
theorem sKind_code {n : Nat} {k : Kind}
    (h : (if (n == 0) = true then some Kind.vec else if (n == 2) = true then some Kind.imm else none) = some k) : k.code = n := by
  split at h
  · next h0 => cases h; exact (beq_iff_eq.1 h0).symm
  · split at h
    · next h2 => cases h; exact (beq_iff_eq.1 h2).symm
    · cases h

theorem pack_sOf {f : SFmt} (h : sOf w = some f) (h4 : fld w 40 4 = 0) (h0 : fld w 32 2 = 0) :
    pack (f.fields (fld w 94 2) (fld w 88 6)) = w := by
  simp only [sOf, Option.bind_eq_bind, Option.bind_eq_some_iff, Option.some.injEq] at h
  obtain ⟨ty, hty, ka, hka, kb, hkb, kc, hkc, rfl⟩ := h
  apply pack_of_standsFrom
  simp only [SFmt.fields, List.cons_append, List.nil_append, standsFrom_cons, toNat_bvf, toNat_ofNat_fld, STy.code_of_ofCode hty,
      sKind_code hka, sKind_code hkb, sKind_code hkc, h4, h0, BitVec.toNat_zero, Nat.reduceAdd, Nat.zero_add, true_and]
  exact standsFrom_regsOf hw

end Reread

/-! ### Primary codes (R74, R75) -/

/-- The class and operation of a format and the number its `Spec` function uses. -/
def codeOf : FmtTag → Nat → Nat × Nat
  | .l, n => (0, n)
  | .p, n => (1, n)
  | .m, n => if n = 0x72 then (2, 0x32) else (3, n)
  | .b, n => (2, n)
  | .e, n => if n < 0x40 then (1, n) else (3, n - 0x40)
  | .s, n => if n < 0x40 then (2, n) else (3, n - 0x40)

theorem codeOf_of_fmtOf {c o n : Nat} {t : FmtTag} (hc : c < 4) (ho : o < 64) (h : fmtOf c o = some (t, n)) : codeOf t n = (c, o) := by
  have all : ∀ c < 4, ∀ o < 64, ∀ x ∈ fmtOf c o, codeOf x.1 x.2 = (c, o) := by decide
  exact all c hc o ho (t, n) h

theorem shape_of_mkL {n : Nat} {f : LFmt} {i : Instr} (h : mkL n f = some i) :
    i.shape = .l (codeOf .l n).1 (codeOf .l n).2 n f := by
  unfold mkL at h
  split at h <;> cases h <;> rfl

theorem shape_of_mkP {n : Nat} {f : PFmt} {i : Instr} (h : mkP n f = some i) :
    i.shape = .p (codeOf .p n).1 (codeOf .p n).2 n f := by
  unfold mkP at h
  split at h
  case h_1 => cases h; split_ifs <;> rfl
  all_goals cases h <;> rfl

theorem shape_of_mkM {n : Nat} {f : MFmt} {i : Instr} (h : mkM n f = some i) :
    i.shape = .m (codeOf .m n).1 (codeOf .m n).2 n f := by
  unfold mkM at h
  split at h
  case h_11 | h_13 => cases h; split_ifs <;> rfl
  all_goals cases h <;> rfl

theorem shape_of_mkB {n : Nat} {f : BFmt} {i : Instr} (h : mkB n f = some i) :
    i.shape = .b (codeOf .b n).1 (codeOf .b n).2 n f := by
  unfold mkB at h
  split at h <;> cases h <;> rfl

theorem shape_of_mkE {n : Nat} {f : EFmt} {i : Instr} (h : mkE n f = some i) :
    i.shape = .e (codeOf .e n).1 (codeOf .e n).2 n f := by
  unfold mkE at h
  split at h
  case h_14 | h_17 => cases h; split_ifs <;> rfl
  all_goals cases h <;> rfl

theorem shape_of_mkS {n : Nat} {f : SFmt} {i : Instr} (h : mkS n f = some i) :
    i.shape = .s (codeOf .s n).1 (codeOf .s n).2 n f := by
  unfold mkS at h
  split at h <;> cases h <;> rfl

section Shapes
variable {i : Instr} {c o n : Nat}

/-- What the table of primary codes says of an instruction that lies in a slot (R74, R75). -/
def coded (c o n : Nat) (t : FmtTag) : Prop := c < 4 ∧ o < 64 ∧ fmtOf c o = some (t, n)

theorem mkL_of_shape {f : LFmt} (h : i.shape = .l c o n f) : mkL n f = some i ∧ coded c o n .l := by
  cases i <;> simp only [Instr.shape, reduceCtorEq] at h <;> cases h <;> exact ⟨rfl, by decide, by decide, rfl⟩

theorem mkP_of_shape {f : PFmt} (h : i.shape = .p c o n f) (hf : i.formOk = true) :
    mkP n f = some i ∧ coded c o n .p := by
  cases i <;> simp only [Instr.shape, reduceCtorEq] at h <;> cases h <;> refine ⟨?_, by decide, by decide, rfl⟩ <;>
    simp_all [mkP, Instr.formOk]

theorem mkM_of_shape {f : MFmt} (h : i.shape = .m c o n f) (hf : i.formOk = true) :
    mkM n f = some i ∧ coded c o n .m := by
  cases i <;> simp only [Instr.shape, reduceCtorEq] at h <;> cases h <;> refine ⟨?_, by decide, by decide, rfl⟩ <;>
    simp_all [mkM, Instr.formOk]

theorem mkB_of_shape {f : BFmt} (h : i.shape = .b c o n f) : mkB n f = some i ∧ coded c o n .b := by
  cases i <;> simp only [Instr.shape, reduceCtorEq] at h <;> cases h <;> exact ⟨rfl, by decide, by decide, rfl⟩

theorem mkE_of_shape {f : EFmt} (h : i.shape = .e c o n f) (hf : i.formOk = true) :
    mkE n f = some i ∧ coded c o n .e := by
  cases i <;> simp only [Instr.shape, reduceCtorEq] at h <;> cases h <;> refine ⟨?_, by decide, by decide, rfl⟩ <;>
    simp_all [mkE, Instr.formOk]

theorem mkS_of_shape {f : SFmt} (h : i.shape = .s c o n f) : mkS n f = some i ∧ coded c o n .s := by
  cases i <;> simp only [Instr.shape, reduceCtorEq] at h <;> cases h <;> exact ⟨rfl, by decide, by decide, rfl⟩

end Shapes

/-! ### The checks of a slot (R70) -/

theorem firstFail_cons_eq_none {b : Bool} {c : Nat} {t : List (Bool × Nat)} :
    firstFail ((b, c) :: t) = none ↔ b = true ∧ firstFail t = none := by
  cases b <;> simp [firstFail]

theorem flagOk_of_flagOk {fx fy w : Bool} {s : FlagSel} (h : flagOk fx fy w s = true) : flagOk true true w s = true := by
  cases s with
  | none => exact h
  | x => rfl
  | y => rfl

theorem mCheck_of_mCheck {fx fy : Bool} {n : Nat} {f : MFmt} (h : mCheck fx fy n f = none) : mCheck true true n f = none := by
  simp only [mCheck, firstFail_cons_eq_none] at h ⊢
  obtain ⟨h1, h2, h3, h4, h5, h6, hflag, hregs⟩ := h
  exact ⟨h1, h2, h3, h4, h5, h6, flagOk_of_flagOk hflag, hregs⟩

theorem eCheck_of_eCheck {fx fy : Bool} {n : Nat} {f : EFmt} (h : eCheck fx fy n f = none) : eCheck true true n f = none := by
  simp only [eCheck, firstFail_cons_eq_none] at h ⊢
  obtain ⟨h1, h2, h3, h4, hflag, hregs⟩ := h
  exact ⟨h1, h2, h3, h4, flagOk_of_flagOk hflag, hregs⟩

theorem Instr.formOk_of_check {fx fy : Bool} {i : Instr} (h : i.check fx fy = none) : i.formOk = true := by
  cases hf : i.formOk with
  | true => rfl
  | false => simp [Instr.check, hf] at h

/-- What passes in a line that names fewer flags passes in one that names both (R54). -/
theorem Instr.wf_of_check {fx fy : Bool} {i : Instr} (h : i.check fx fy = none) : i.wf = true := by
  have hf := Instr.formOk_of_check h
  simp only [Instr.check, hf, Bool.not_true, Bool.false_eq_true, if_false] at h
  simp only [Instr.wf, Instr.check, hf, Bool.not_true, Bool.false_eq_true, if_false, beq_iff_eq]
  cases hs : i.shape with
  | m c o n f => exact mCheck_of_mCheck (by simpa [hs] using h)
  | e c o n f => exact eCheck_of_eCheck (by simpa [hs] using h)
  | row => rfl
  | _ => simpa only [hs] using h

theorem sCheck_kinds {n : Nat} {f : SFmt} (h : sCheck n f = none) : f.ka ≠ .sca ∧ f.kb ≠ .sca ∧ f.kc ≠ .sca := by
  have := (firstFail_cons_eq_none.1 h).1
  simpa [and_assoc] using this

/-! ### A slot that is read, and the instruction it is (R60 to R70) -/

/-- Slot `w` is of format `t` and number `n`, its reserved bits are zero, and its fields are those of `i`. -/
def readsAs (w : Nat) (t : FmtTag) (n : Nat) (i : Instr) : Prop :=
  fmtOf (fld w 94 2) (fld w 88 6) = some (t, n) ∧ reservedOk t n w = true ∧ parse t n w = some i

theorem decodeSlot_eq_ok {fx fy : BitVec 4} {w : Slot} {i : Instr} :
    decodeSlot fx fy w = .ok i ↔ (∃ t n, readsAs w.toNat t n i) ∧ i.check (fx.toNat < 12) (fy.toNat < 12) = none := by
  simp only [decodeSlot, readsAs]
  cases hf : fmtOf (fld w.toNat 94 2) (fld w.toNat 88 6) with
  | none => simp
  | some x =>
    obtain ⟨t, n⟩ := x
    cases hr : reservedOk t n w.toNat with
    | false => simp +contextual [hr]
    | true =>
      cases hp : parse t n w.toNat with
      | none => simp +contextual [hr, hp]
      | some j =>
        have one : (∃ t' n', some (t, n) = some (t', n') ∧ reservedOk t' n' w.toNat = true ∧ parse t' n' w.toNat = some i) ↔ j = i := by
          constructor
          · rintro ⟨_, _, h, -, hi⟩
            cases h
            exact Option.some.inj (hp.symm.trans hi)
          · rintro rfl
            exact ⟨t, n, rfl, hr, hp⟩
        rw [one]
        cases hc : j.check (fx.toNat < 12) (fy.toNat < 12) with
        | none => simpa [hr, hp, hc] using fun h : j = i => h ▸ hc
        | some c => simpa [hr, hp, hc] using fun h : j = i => h ▸ hc ▸ Option.some_ne_none c

theorem width_of_shape {i : Instr} (h : i.width = 96) : (∀ w, i.shape ≠ .scribe w) ∧ i.shape ≠ .row := by
  refine ⟨fun w hw => ?_, fun hr => ?_⟩
  · simp [Instr.width, hw] at h
  · simp [Instr.width, hr] at h

/-- The slot of a decoded instruction is its encoding. -/
theorem encode_of_readsAs {w n : Nat} {t : FmtTag} {i : Instr} (hw : w < 2 ^ 96) (h : readsAs w t n i) :
    i.width = 96 ∧ encode i = w := by
  obtain ⟨hfmt, hres, hparse⟩ := h
  have hc : fld w 94 2 < 4 := fld_lt w 94 2
  have ho : fld w 88 6 < 64 := fld_lt w 88 6
  have hcode := codeOf_of_fmtOf hc ho hfmt
  cases t with
  | l =>
    obtain ⟨f, hf, hmk⟩ := Option.bind_eq_some_iff.1 hparse
    have hs := hcode ▸ shape_of_mkL hmk
    simp only [reservedOk, beq_iff_eq] at hres
    simp only [Instr.width, encode, hs, true_and]
    exact (pack_lFields hc ho f).symm.trans (pack_lOf hw hf hres)
  | p =>
    obtain ⟨f, hf, hmk⟩ := Option.bind_eq_some_iff.1 hparse
    have hs := hcode ▸ shape_of_mkP hmk
    simp only [Instr.width, encode, hs, true_and]
    exact (pack_pFields hc ho f).symm.trans (pack_pOf hw hf)
  | m =>
    obtain ⟨f, hf, hmk⟩ := Option.bind_eq_some_iff.1 hparse
    have hs := hcode ▸ shape_of_mkM hmk
    simp only [Instr.width, encode, hs, true_and]
    exact (pack_mFields hc ho f).symm.trans (pack_mOf hw hf)
  | b =>
    have hs := hcode ▸ shape_of_mkB hparse
    simp only [reservedOk, Bool.and_eq_true, beq_iff_eq] at hres
    simp only [Instr.width, encode, hs, true_and]
    exact (pack_bFields hc ho (bOf w)).symm.trans (pack_bOf hw hres.1)
  | e =>
    obtain ⟨f, hf, hmk⟩ := Option.bind_eq_some_iff.1 hparse
    have hs := hcode ▸ shape_of_mkE hmk
    simp only [reservedOk, beq_iff_eq] at hres
    simp only [Instr.width, encode, hs, true_and]
    exact (pack_eFields hc ho f).symm.trans (pack_eOf hw hf hres)
  | s =>
    obtain ⟨f, hf, hmk⟩ := Option.bind_eq_some_iff.1 hparse
    have hs := hcode ▸ shape_of_mkS hmk
    simp only [reservedOk, Bool.and_eq_true, beq_iff_eq] at hres
    simp only [Instr.width, encode, hs, true_and]
    exact (pack_sFields hc ho f).symm.trans (pack_sOf hw hf hres.1 hres.2)

/-! ### The encoding of an instruction is a slot that is read as it -/

theorem pack_lt (l : Fields) : pack l < 2 ^ (l.map Sigma.fst).sum := by
  induction l with
  | nil => simp [pack]
  | cons x l ih =>
    obtain ⟨n, v⟩ := x
    have hv := v.isLt
    calc v.toNat + 2 ^ n * pack l < 2 ^ n * 1 + 2 ^ n * pack l := by omega
      _ = 2 ^ n * (pack l + 1) := by ring
      _ ≤ 2 ^ n * 2 ^ (l.map Sigma.fst).sum := Nat.mul_le_mul_left _ ih
      _ = 2 ^ (((⟨n, v⟩ :: l : Fields).map Sigma.fst).sum) := by rw [List.map_cons, List.sum_cons, pow_add]

theorem fld_code {c o : Nat} (hc : c < 4) (ho : o < 64) (r : Regs) (l : Fields) (hl : (l.map Sigma.fst).sum = 52) :
    fld (pack (l ++ r.fields c o)) 94 2 = c ∧ fld (pack (l ++ r.fields c o)) 88 6 = o := by
  have hw : pack (l ++ r.fields c o) / 2 ^ 52 = pack (r.fields c o) := hl ▸ pack_append_div l _
  have hfld (lo n : Nat) : fld (pack (l ++ r.fields c o)) (52 + lo) n = fld (pack (r.fields c o)) lo n := by
    rw [← hw, fld, fld, Nat.div_div_eq_div_mul, ← pow_add]
  have h94 := hfld 42 2
  have h88 := hfld 36 6
  simp only [Nat.reduceAdd] at h94 h88
  rw [h94, h88]
  simp [Regs.fields, fld_pack_tail, Nat.mod_eq_of_lt hc, Nat.mod_eq_of_lt ho]

section Slot
variable {c o n : Nat} {i : Instr} {l : Fields} {r : Regs}

theorem readsAs_pack {t : FmtTag} (hl : (l.map Sigma.fst).sum = 52) (hc : coded c o n t)
    (hr : reservedOk t n (pack (l ++ r.fields c o)) = true) (hp : parse t n (pack (l ++ r.fields c o)) = some i) :
    pack (l ++ r.fields c o) < 2 ^ 96 ∧ ∃ t n, readsAs (pack (l ++ r.fields c o)) t n i := by
  obtain ⟨hc4, ho, hfmt⟩ := hc
  obtain ⟨hcls, hop⟩ := fld_code hc4 ho r l hl
  refine ⟨?_, t, n, by rw [hcls, hop, hfmt], hr, hp⟩
  have hlt := pack_lt (l ++ r.fields c o)
  rwa [List.map_append, List.sum_append, hl] at hlt

end Slot

section Reserved
variable (c o n : Nat)

theorem reservedOk_lFields (f : LFmt) : reservedOk .l n (pack (f.fields c o)) = true := by
  simp [reservedOk, LFmt.fields, fld_pack_tail]

theorem reservedOk_bFields (f : BFmt) (h : bCheck n f = none) : reservedOk .b n (pack (f.fields c o)) = true := by
  rw [reservedOk, bOf_pack, h]
  simp [BFmt.fields]

theorem reservedOk_eFields (f : EFmt) : reservedOk .e n (pack (f.fields c o)) = true := by
  simp [reservedOk, EFmt.fields, fld_pack_tail]

theorem reservedOk_sFields (f : SFmt) : reservedOk .s n (pack (f.fields c o)) = true := by
  simp [reservedOk, SFmt.fields, fld_pack_tail]

end Reserved

theorem readsAs_encode {i : Instr} (hw : i.width = 96) (hwf : i.wf = true) : encode i < 2 ^ 96 ∧ ∃ t n, readsAs (encode i) t n i := by
  have hcheck : i.check true true = none := beq_iff_eq.1 hwf
  have hform := Instr.formOk_of_check hcheck
  cases hs : i.shape with
  | l c o n f =>
    obtain ⟨hmk, hcode⟩ := mkL_of_shape hs
    have he : encode i = pack (f.fields c o) := by rw [encode, hs, pack_lFields hcode.1 hcode.2.1]
    rw [he]
    exact readsAs_pack rfl hcode (reservedOk_lFields c o n f) (Option.bind_eq_some_iff.2 ⟨f, lOf_pack c o f, hmk⟩)
  | p c o n f =>
    obtain ⟨hmk, hcode⟩ := mkP_of_shape hs hform
    have he : encode i = pack (f.fields c o) := by rw [encode, hs, pack_pFields hcode.1 hcode.2.1]
    rw [he]
    exact readsAs_pack rfl hcode rfl (Option.bind_eq_some_iff.2 ⟨f, pOf_pack c o f, hmk⟩)
  | m c o n f =>
    obtain ⟨hmk, hcode⟩ := mkM_of_shape hs hform
    have he : encode i = pack (f.fields c o) := by rw [encode, hs, pack_mFields hcode.1 hcode.2.1]
    rw [he]
    exact readsAs_pack rfl hcode rfl (Option.bind_eq_some_iff.2 ⟨f, mOf_pack c o f, hmk⟩)
  | b c o n f =>
    obtain ⟨hmk, hcode⟩ := mkB_of_shape hs
    have he : encode i = pack (f.fields c o) := by rw [encode, hs, pack_bFields hcode.1 hcode.2.1]
    have hb : bCheck n f = none := by simpa [Instr.check, hform, hs] using hcheck
    rw [he]
    exact readsAs_pack rfl hcode (reservedOk_bFields c o n f hb) ((congrArg (mkB n) (bOf_pack c o f)).trans hmk)
  | e c o n f =>
    obtain ⟨hmk, hcode⟩ := mkE_of_shape hs hform
    have he : encode i = pack (f.fields c o) := by rw [encode, hs, pack_eFields hcode.1 hcode.2.1]
    rw [he]
    exact readsAs_pack rfl hcode (reservedOk_eFields c o n f) (Option.bind_eq_some_iff.2 ⟨f, eOf_pack c o f, hmk⟩)
  | s c o n f =>
    obtain ⟨hmk, hcode⟩ := mkS_of_shape hs
    have he : encode i = pack (f.fields c o) := by rw [encode, hs, pack_sFields hcode.1 hcode.2.1]
    have hk : sCheck n f = none := by simpa [Instr.check, hform, hs] using hcheck
    obtain ⟨ha, hb, hc⟩ := sCheck_kinds hk
    rw [he]
    exact readsAs_pack rfl hcode (reservedOk_sFields c o n f) (Option.bind_eq_some_iff.2 ⟨f, sOf_pack c o f ha hb hc, hmk⟩)
  | scribe w => exact absurd hs ((width_of_shape hw).1 w)
  | row => exact absurd hs (width_of_shape hw).2

theorem decodeSlot_encode {i : Instr} {fx fy : BitVec 4} (hw : i.width = 96) (hwf : i.wf = true) (hx : fx.toNat < 12) (hy : fy.toNat < 12) :
    decodeSlot fx fy (BitVec.ofNat 96 (encode i)) = .ok i := by
  obtain ⟨hlt, hread⟩ := readsAs_encode hw hwf
  rw [decodeSlot_eq_ok, BitVec.toNat_ofNat, Nat.mod_eq_of_lt hlt, decide_eq_true hx, decide_eq_true hy]
  exact ⟨hread, beq_iff_eq.1 hwf⟩

theorem decodeSlot_sound {i : Instr} {fx fy : BitVec 4} {w : Slot} (h : decodeSlot fx fy w = .ok i) :
    i.width = 96 ∧ i.wf = true ∧ encode i = w.toNat := by
  obtain ⟨⟨t, n, hread⟩, hcheck⟩ := decodeSlot_eq_ok.1 h
  obtain ⟨hwidth, henc⟩ := encode_of_readsAs w.isLt hread
  exact ⟨hwidth, Instr.wf_of_check hcheck, henc⟩

/-! ### Scribe words (R361, R362) -/

/-- The fields of each Scribe word, lowest first. -/
inductive ScribeWord : Instr → Fields → Prop where
  | vadd d a b m t : ScribeWord (.vadd d a b m t) [⟨4, t⟩, ⟨8, 0#8⟩, ⟨2, m⟩, ⟨4, b⟩, ⟨4, a⟩, ⟨4, d⟩, ⟨6, 0x01#6⟩]
  | vsub d a b m t : ScribeWord (.vsub d a b m t) [⟨4, t⟩, ⟨8, 0#8⟩, ⟨2, m⟩, ⟨4, b⟩, ⟨4, a⟩, ⟨4, d⟩, ⟨6, 0x02#6⟩]
  | vmul d a b m t : ScribeWord (.vmul d a b m t) [⟨4, t⟩, ⟨8, 0#8⟩, ⟨2, m⟩, ⟨4, b⟩, ⟨4, a⟩, ⟨4, d⟩, ⟨6, 0x03#6⟩]
  | vmin d a b m t : ScribeWord (.vmin d a b m t) [⟨4, t⟩, ⟨8, 0#8⟩, ⟨2, m⟩, ⟨4, b⟩, ⟨4, a⟩, ⟨4, d⟩, ⟨6, 0x04#6⟩]
  | vmax d a b m t : ScribeWord (.vmax d a b m t) [⟨4, t⟩, ⟨8, 0#8⟩, ⟨2, m⟩, ⟨4, b⟩, ⟨4, a⟩, ⟨4, d⟩, ⟨6, 0x05#6⟩]
  | vand d a b m : ScribeWord (.vand d a b m) [⟨12, 0#12⟩, ⟨2, m⟩, ⟨4, b⟩, ⟨4, a⟩, ⟨4, d⟩, ⟨6, 0x06#6⟩]
  | vor d a b m : ScribeWord (.vor d a b m) [⟨12, 0#12⟩, ⟨2, m⟩, ⟨4, b⟩, ⟨4, a⟩, ⟨4, d⟩, ⟨6, 0x07#6⟩]
  | vxor d a b m : ScribeWord (.vxor d a b m) [⟨12, 0#12⟩, ⟨2, m⟩, ⟨4, b⟩, ⟨4, a⟩, ⟨4, d⟩, ⟨6, 0x08#6⟩]
  | vshl d a b m : ScribeWord (.vshl d a b m) [⟨12, 0#12⟩, ⟨2, m⟩, ⟨4, b⟩, ⟨4, a⟩, ⟨4, d⟩, ⟨6, 0x09#6⟩]
  | vshr d a b m : ScribeWord (.vshr d a b m) [⟨12, 0#12⟩, ⟨2, m⟩, ⟨4, b⟩, ⟨4, a⟩, ⟨4, d⟩, ⟨6, 0x0A#6⟩]
  | vsar d a b m : ScribeWord (.vsar d a b m) [⟨12, 0#12⟩, ⟨2, m⟩, ⟨4, b⟩, ⟨4, a⟩, ⟨4, d⟩, ⟨6, 0x0B#6⟩]
  | vsel d a b m : ScribeWord (.vsel d a b m) [⟨12, 0#12⟩, ⟨2, m⟩, ⟨4, b⟩, ⟨4, a⟩, ⟨4, d⟩, ⟨6, 0x0C#6⟩]
  | vcmp d a b m r t : ScribeWord (.vcmp d a b m r t) [⟨4, t⟩, ⟨3, r⟩, ⟨5, 0#5⟩, ⟨2, m⟩, ⟨4, b⟩, ⟨4, a⟩, ⟨2, d⟩, ⟨2, 0#2⟩, ⟨6, 0x0D#6⟩]
  | vbc d a m : ScribeWord (.vbc d a m) [⟨12, 0#12⟩, ⟨2, m⟩, ⟨4, 0#4⟩, ⟨4, a⟩, ⟨4, d⟩, ⟨6, 0x0E#6⟩]
  | vext d a l : ScribeWord (.vext d a l) [⟨4, l⟩, ⟨14, 0#14⟩, ⟨4, a⟩, ⟨4, d⟩, ⟨6, 0x0F#6⟩]
  | vins d a l : ScribeWord (.vins d a l) [⟨4, l⟩, ⟨14, 0#14⟩, ⟨4, a⟩, ⟨4, d⟩, ⟨6, 0x10#6⟩]
  | sadd d a b : ScribeWord (.sadd d a b) [⟨14, 0#14⟩, ⟨4, b⟩, ⟨4, a⟩, ⟨4, d⟩, ⟨6, 0x18#6⟩]
  | ssub d a b : ScribeWord (.ssub d a b) [⟨14, 0#14⟩, ⟨4, b⟩, ⟨4, a⟩, ⟨4, d⟩, ⟨6, 0x19#6⟩]
  | sand d a b : ScribeWord (.sand d a b) [⟨14, 0#14⟩, ⟨4, b⟩, ⟨4, a⟩, ⟨4, d⟩, ⟨6, 0x1A#6⟩]
  | sor d a b : ScribeWord (.sor d a b) [⟨14, 0#14⟩, ⟨4, b⟩, ⟨4, a⟩, ⟨4, d⟩, ⟨6, 0x1B#6⟩]
  | sxor d a b : ScribeWord (.sxor d a b) [⟨14, 0#14⟩, ⟨4, b⟩, ⟨4, a⟩, ⟨4, d⟩, ⟨6, 0x1C#6⟩]
  | sshl d a n : ScribeWord (.sshl d a n) [⟨5, n⟩, ⟨13, 0#13⟩, ⟨4, a⟩, ⟨4, d⟩, ⟨6, 0x1D#6⟩]
  | sshr d a n : ScribeWord (.sshr d a n) [⟨5, n⟩, ⟨13, 0#13⟩, ⟨4, a⟩, ⟨4, d⟩, ⟨6, 0x1E#6⟩]
  | saddi d a i : ScribeWord (.saddi d a i) [⟨12, i⟩, ⟨6, 0#6⟩, ⟨4, a⟩, ⟨4, d⟩, ⟨6, 0x1F#6⟩]
  | smovi d i : ScribeWord (.smovi d i) [⟨22, i⟩, ⟨4, d⟩, ⟨6, 0x20#6⟩]
  | smovh d i : ScribeWord (.smovh d i) [⟨10, i⟩, ⟨12, 0#12⟩, ⟨4, d⟩, ⟨6, 0x21#6⟩]
  | scmp d a b u r : ScribeWord (.scmp d a b u r) [⟨3, r⟩, ⟨1, u⟩, ⟨10, 0#10⟩, ⟨4, b⟩, ⟨4, a⟩, ⟨4, d⟩, ⟨6, 0x22#6⟩]
  | hrd d f : ScribeWord (.hrd d f) [⟨4, f⟩, ⟨18, 0#18⟩, ⟨4, d⟩, ⟨6, 0x28#6⟩]
  | hwr a f : ScribeWord (.hwr a f) [⟨4, f⟩, ⟨14, 0#14⟩, ⟨4, a⟩, ⟨4, 0#4⟩, ⟨6, 0x29#6⟩]
  | pld d : ScribeWord (.pld d) [⟨22, 0#22⟩, ⟨4, d⟩, ⟨6, 0x2A#6⟩]
  | pst a m : ScribeWord (.pst a m) [⟨12, 0#12⟩, ⟨2, m⟩, ⟨4, 0#4⟩, ⟨4, a⟩, ⟨4, 0#4⟩, ⟨6, 0x2B#6⟩]
  | fld d a o : ScribeWord (.fld d a o) [⟨12, o⟩, ⟨6, 0#6⟩, ⟨4, a⟩, ⟨4, d⟩, ⟨6, 0x2C#6⟩]
  | fst a b m o : ScribeWord (.fst a b m o) [⟨12, o⟩, ⟨2, m⟩, ⟨4, b⟩, ⟨4, a⟩, ⟨4, 0#4⟩, ⟨6, 0x2D#6⟩]
  | racc d a o : ScribeWord (.racc d a o) [⟨12, o⟩, ⟨6, 0#6⟩, ⟨4, a⟩, ⟨4, d⟩, ⟨6, 0x2E#6⟩]
  | emit a b r : ScribeWord (.emit a b r) [⟨1, r⟩, ⟨13, 0#13⟩, ⟨4, b⟩, ⟨4, a⟩, ⟨4, 0#4⟩, ⟨6, 0x2F#6⟩]
  | bnz a o : ScribeWord (.bnz a o) [⟨12, o⟩, ⟨6, 0#6⟩, ⟨4, a⟩, ⟨4, 0#4⟩, ⟨6, 0x30#6⟩]
  | bz a o : ScribeWord (.bz a o) [⟨12, o⟩, ⟨6, 0#6⟩, ⟨4, a⟩, ⟨4, 0#4⟩, ⟨6, 0x31#6⟩]
  | jmp o : ScribeWord (.jmp o) [⟨12, o⟩, ⟨14, 0#14⟩, ⟨6, 0x32#6⟩]
  | scribeRepeat d b n : ScribeWord (.scribeRepeat d b n) [⟨9, n⟩, ⟨5, 0#5⟩, ⟨8, b⟩, ⟨4, d⟩, ⟨6, 0x33#6⟩]
  | pass : ScribeWord .pass [⟨26, 0#26⟩, ⟨6, 0x38#6⟩]
  | drop : ScribeWord .drop [⟨26, 0#26⟩, ⟨6, 0x39#6⟩]
  | trapk c : ScribeWord (.trapk c) [⟨8, c⟩, ⟨18, 0#18⟩, ⟨6, 0x3A#6⟩]

theorem scribeWord_of_width {i : Instr} (h : i.width = 32) : ∃ l, ScribeWord i l := by
  obtain ⟨w, hs⟩ : ∃ w, i.shape = .scribe w := by
    cases hs : i.shape with
    | scribe w => exact ⟨w, rfl⟩
    | _ => simp [Instr.width, hs] at h
  cases i <;> simp only [Instr.shape, reduceCtorEq] at hs <;> exact ⟨_, by constructor⟩

theorem ScribeWord.encode {i : Instr} {l : Fields} (h : ScribeWord i l) : encode i = pack l := by
  cases h <;> simp only [Sys2Proof.encode, Instr.shape, pack, BitVec.toNat_ofNat] <;> ring

theorem ScribeWord.decode {i : Instr} {l : Fields} (h : ScribeWord i l) : decodeScribe (pack l) = some i := by
  cases h <;> simp [decodeScribe, fld_pack_tail, bvf_pack_tail]

/-- What the decoder reads from a word stands in it. -/
theorem scribeWord_of_decode {w : Nat} {i : Instr} (hw : w < 2 ^ 32) (h : decodeScribe w = some i) :
    ∃ l, ScribeWord i l ∧ standsFrom w 0 l := by
  have hend : standsFrom w 32 [] := standsFrom_nil hw
  unfold decodeScribe at h
  split at h <;>
    simp only [Option.ite_none_right_eq_some, Option.some.injEq, Bool.and_eq_true, beq_iff_eq, reduceCtorEq] at h
  case h_25 =>
    obtain rfl := h
    exact ⟨_, by constructor, by simp [standsFrom_cons, *]⟩
  all_goals
    obtain ⟨hz, rfl⟩ := h
    exact ⟨_, by constructor, by simp [standsFrom_cons, *]⟩

theorem decodeScribe_encode {i : Instr} (h : i.width = 32) : decodeScribe (encode i) = some i := by
  obtain ⟨l, hl⟩ := scribeWord_of_width h
  rw [hl.encode, hl.decode]

theorem ScribeWord.width {i : Instr} {l : Fields} (h : ScribeWord i l) : i.width = 32 := by cases h <;> rfl

theorem decodeScribe_sound {w : Nat} {i : Instr} (hw : w < 2 ^ 32) (h : decodeScribe w = some i) : i.width = 32 ∧ encode i = w := by
  obtain ⟨l, hl, hp⟩ := scribeWord_of_decode hw h
  exact ⟨hl.width, hl.encode.trans (pack_of_standsFrom hp)⟩

end Sys2Proof

/-- Settles O57: the encoding is the list of the instruction's fields, and the decoder reads each at its place. -/
theorem decodeEncode : Obligations.DecodeEncode := by
  unfold Obligations.DecodeEncode
  exact ⟨fun _ _ _ => Sys2Proof.decodeSlot_encode, fun _ => Sys2Proof.decodeScribe_encode⟩

/-- Settles O58: the fields that the decoder reads cover the slot, and its reserved bits are zero. -/
theorem decodeSound : Obligations.DecodeSound := by
  unfold Obligations.DecodeSound
  exact ⟨fun _ _ _ _ => Sys2Proof.decodeSlot_sound, fun _ _ => Sys2Proof.decodeScribe_sound⟩

/-- Settles O59: each word is decoded by evaluation. -/
theorem decodeWords : Obligations.DecodeWords := by
  unfold Obligations.DecodeWords
  decide
end

section
/-!
What the scalar instructions of class 10 write (R62, R126, R127, R129, R130), and the obligation ScalarInstructions.
-/
namespace Sys2Proof.Machine
open Sys2Proof.Claims

/-! ### A scalar instruction writes its value into DST -/

theorem scalarOp_on {s : State} {f : SFmt} {c : Iss} (h : issuer s f.r.g = some c) (h0 : c.on ≠ 0) (fn : Iss → DWord) :
    scalarOp f s fn = .next (c.done s (c.g.wrS f.r.dst.toNat (fn c))) := asOnce_on h h0 _

theorem scalarOp_off {s : State} {f : SFmt} {c : Iss} (h : issuer s f.r.g = some c) (h0 : c.on = 0) (fn : Iss → DWord) :
    scalarOp f s fn = .next (c.done s c.g) := asOnce_off h h0 _

/-! ### The values of the shifts and counts (R127) -/

theorem ofInt_cast (w : Nat) (v : Int) : ((ofInt w v : Nat) : Int) = v % 2 ^ w :=
  Int.toNat_of_nonneg (Int.emod_nonneg v (by positivity))

/-- A result depends on its value modulo 2^w alone. -/
theorem sResult_congr {t : STy} {v w : Int} (h : v % 2 ^ sBitsOf t = w % 2 ^ sBitsOf t) : sResult t v = sResult t w := by
  simp only [sResult, ofInt, h]

theorem toSigned_mod (n v : Nat) : toSigned n (v % 2 ^ n) = toSigned n v := by
  simp only [toSigned, Nat.mod_mod, Int.natCast_mod, Nat.cast_pow, Nat.cast_ofNat, Int.emod_emod_of_dvd _ (dvd_refl _)]

theorem sResult_shl (t : STy) (a b : Nat) : sResult t (shiftElem 0x14 (sBitsOf t) (a % 2 ^ sBitsOf t) b : Nat) =
    sResult t ((a % 2 ^ sBitsOf t * 2 ^ (b % sBitsOf t) : Nat) : Int) := by
  apply sResult_congr
  rw [shiftElem, Int.natCast_mod, Nat.cast_pow, Nat.cast_ofNat, Int.emod_emod_of_dvd _ (dvd_refl _)]

theorem sResult_shr (t : STy) (a b : Nat) : sResult t (shiftElem 0x15 (sBitsOf t) (a % 2 ^ sBitsOf t) b : Nat) =
    sResult t ((a % 2 ^ sBitsOf t / 2 ^ (b % sBitsOf t) : Nat) : Int) := by
  simp [shiftElem]

theorem sResult_sar (t : STy) (a b : Nat) : sResult t (shiftElem 0x16 (sBitsOf t) (a % 2 ^ sBitsOf t) b : Nat) =
    sResult t (toSigned (sBitsOf t) a / 2 ^ (b % sBitsOf t)) := by
  apply sResult_congr
  rw [shiftElem, ofInt_cast, toSigned_mod, Int.emod_emod_of_dvd _ (dvd_refl _)]
  all_goals decide

theorem popcount_eq (w : Nat) : ∀ x : Nat, popcount w x = (List.range w).countP (fun k => x.testBit k) := by
  induction w with
  | zero => intro x; rfl
  | succ n ih =>
    intro x
    have hx : x % 2 = if x.testBit 0 then 1 else 0 := by
      rw [Nat.testBit_zero]; rcases Nat.mod_two_eq_zero_or_one x with h | h <;> simp [h]
    rw [popcount, ih, List.range_succ_eq_map, List.countP_cons, List.countP_map, hx, Nat.add_comm]
    simp [Function.comp_def, Nat.testBit_succ]

theorem popcount_bits (w : Nat) (x : DWord) :
    popcount w (x.toNat % 2 ^ w) = (List.range w).countP (fun k => x.getLsbD k) := by
  rw [popcount_eq]
  refine List.countP_congr fun k hk => ?_
  simp [Nat.testBit_mod_two_pow, List.mem_range.1 hk, BitVec.testBit_toNat]

theorem mod_two_pow_succ (n x : Nat) : x % 2 ^ (n + 1) = x % 2 ^ n + 2 ^ n * (x.testBit n).toNat := by
  rw [Nat.mod_pow_succ, Nat.toNat_testBit]

theorem clz_succ_of_bit {n x : Nat} (h : x.testBit n = true) : clz (n + 1) x = 0 := by
  have hlt : x % 2 ^ n < 2 ^ n := Nat.mod_lt _ (Nat.two_pow_pos n)
  have hlog : Nat.log2 (2 ^ n + x % 2 ^ n) = n := by
    rw [Nat.log2_eq_iff (by positivity), pow_succ]
    omega
  simp [clz, mod_two_pow_succ, h, Nat.add_comm, hlog]

theorem clz_succ_of_not_bit {n x : Nat} (h : x.testBit n = false) : clz (n + 1) x = clz n x + 1 := by
  have hx : x % 2 ^ (n + 1) = x % 2 ^ n := by simp [mod_two_pow_succ, h]
  rw [clz, clz, hx]
  by_cases h0 : x % 2 ^ n = 0
  · simp [h0]
  · have hlog : Nat.log2 (x % 2 ^ n) < n := (Nat.log2_lt h0).2 (Nat.mod_lt _ (Nat.two_pow_pos n))
    simp only [h0, beq_iff_eq, if_false]
    omega

theorem clz_bits (w : Nat) (x : DWord) :
    clz w x.toNat = ((List.range w).reverse.takeWhile (fun k => !x.getLsbD k)).length := by
  induction w with
  | zero => simp [clz]
  | succ n ih =>
    rw [List.range_succ, List.reverse_append, List.reverse_singleton, List.singleton_append]
    cases h : x.getLsbD n with
    | true => simp [h, clz_succ_of_bit (x := x.toNat) h]
    | false => simp [h, clz_succ_of_not_bit (x := x.toNat) h, ih]

theorem scalarInstrs_value (f : SFmt) (c : Iss) (s : State) :
    ∀ p ∈ scalarInstrs f c, ∃ fn, exec p.1 s = scalarOp f s fn ∧ fn c = p.2 := by
  simp only [scalarInstrs, List.forall_mem_cons, List.not_mem_nil, false_implies, implies_true, and_true]
  exact ⟨⟨_, rfl, rfl⟩, ⟨_, rfl, rfl⟩, ⟨_, rfl, rfl⟩, ⟨_, rfl, rfl⟩, ⟨_, rfl, rfl⟩, ⟨_, rfl, rfl⟩, ⟨_, rfl, rfl⟩, ⟨_, rfl, rfl⟩,
    ⟨_, rfl, rfl⟩, ⟨_, rfl, rfl⟩, ⟨_, rfl, sResult_shl _ _ _⟩, ⟨_, rfl, sResult_shr _ _ _⟩, ⟨_, rfl, sResult_sar _ _ _⟩, ⟨_, rfl, rfl⟩,
    ⟨_, rfl, rfl⟩, ⟨_, rfl, rfl⟩, ⟨_, rfl, congrArg _ (popcount_bits _ _)⟩, ⟨_, rfl, congrArg _ (clz_bits _ _)⟩, ⟨_, rfl, rfl⟩,
    ⟨_, rfl, rfl⟩, ⟨_, rfl, rfl⟩⟩

end Sys2Proof.Machine

open Sys2Proof Sys2Proof.Machine Sys2Proof.Claims

/-- Settles O6: each instruction writes one value into DST, and the shifts and counts have the values that R127 gives. -/
theorem scalarInstructions : Obligations.ScalarInstructions := by
  unfold Obligations.ScalarInstructions
  intro s f c i x hi hc
  obtain ⟨fn, hexec, rfl⟩ := scalarInstrs_value f c s (i, x) hi
  refine ⟨fun hon => ⟨_, hexec.trans (scalarOp_on hc hon fn), Group.sameButS_wrS _ _ _, Group.sWritten_wrS _ _ _⟩,
    fun hoff => hexec.trans (scalarOp_off hc hoff fn)⟩
end

section
/-!
Transfers that trap (R57, R72, R139), resumptions that cannot be entered (log 28), and the obligation TransferTraps.
-/
namespace Sys2Proof.Machine
open Sys2Proof.Claims

/-! ### A slot that cannot be entered -/

theorem targetLine_noEntry {s : State} {g : Group} {pc lane : Nat} {t : Trap} (h : noEntry s g pc lane t) :
    targetLine s g pc lane = .error (.trap t) := by
  unfold targetLine
  obtain ⟨l, s1, hline, htgt, rfl⟩ | ⟨e, hline, rfl⟩ := h
  · rw [hline]; simp [htgt]
  · rw [hline]; rfl

/-- The answer of an instruction whose effect is a trap (R71). -/
theorem trapsAs_of_asOnce {i : Instr} {s : State} {gd : Guard} {c : Iss} {t : Trap} {fn : Iss → Res State} (hc : issuer s gd = some c)
    (hon : c.on ≠ 0) (hexec : exec i s = asOnce gd s fn) (h : fn c = .error (.trap t)) : trapsAs i s c t := by
  rw [trapsAs, hexec, asOnce_on hc hon, h]
  rfl

section Transfer
variable {s : State} {f : BFmt} {c : Iss} {pc : Nat} {t : Trap} (hc : issuer s f.r.g = some c) (hon : c.on ≠ 0)

theorem transfer_noEntry (g : Group) (h : noEntry s c.g pc (lowLane c.act) t) : c.transfer s g pc = .error (.trap t) := by
  rw [Iss.transfer, targetLine_noEntry h]
  rfl

/-! ### Indirect transfers (R139) -/

/-- The lanes whose code position is not that of the lowest. -/
def strayLanes (c : Iss) (r : BitVec 8) : Mask :=
  maskOf (fun l => c.act.getLsbD l && c.g.rdV c.fc r.toNat l != c.g.rdV c.fc r.toNat (lowLane c.act))

theorem indirect_diverges {r : BitVec 8} (h : strayLanes c r ≠ 0) :
    c.indirect r = .error (.trap { cause := cIndDiverge, mask := some (strayLanes c r) }) :=
  if_pos (bne_iff_ne.2 h)

theorem indirect_uniform {r : BitVec 8} (h : strayLanes c r = 0) : c.indirect r =
    match posPc c.g (c.g.rdV c.fc r.toNat (lowLane c.act)) with
    | none => .error (.trap { cause := cBadTarget })
    | some pc => .ok pc := by
  exact if_neg (fun hd => bne_iff_ne.1 hd h)

include hc hon

/-- An indirect transfer whose code position is refused traps so. -/
theorem indirect_traps (h : c.indirect f.r.a = .error (.trap t)) : ∀ i ∈ [Instr.jmpi f, .calli f, .ret f], trapsAs i s c t := by
  have hbind (g : Group) : (do c.transfer s g (← c.indirect f.r.a)) = .error (.trap t) := by rw [h]; rfl
  simp only [List.forall_mem_cons, List.not_mem_nil, false_implies, implies_true, and_true]
  exact ⟨trapsAs_of_asOnce hc hon rfl (hbind _), trapsAs_of_asOnce hc hon rfl (hbind _), trapsAs_of_asOnce hc hon rfl (hbind _)⟩

theorem indirect_noEntry (hp : c.indirect f.r.a = .ok pc) (h : noEntry s c.g pc (lowLane c.act) t) :
    ∀ i ∈ [Instr.jmpi f, .ret f, .calli f], trapsAs i s c t := by
  have hbind (g : Group) : (do c.transfer s g (← c.indirect f.r.a)) = .error (.trap t) := by
    rw [hp]; exact transfer_noEntry g h
  simp only [List.forall_mem_cons, List.not_mem_nil, false_implies, implies_true, and_true]
  exact ⟨trapsAs_of_asOnce hc hon rfl (hbind _), trapsAs_of_asOnce hc hon rfl (hbind _), trapsAs_of_asOnce hc hon rfl (hbind _)⟩

/-- The lowest lane of the active mask is one of it where the guard holds in a lane. -/
theorem lowLane_mem : lowLane c.act ∈ lanesOf c.act := by
  obtain ⟨-, -, -, -, hguard, -⟩ := issuer_spec hc
  obtain ⟨l, hl, hbit⟩ : ∃ l, l < 32 ∧ c.on.getLsbD l = true := by
    by_contra hno
    refine hon (BitVec.eq_of_getLsbD_eq fun l hl => ?_)
    simpa using fun hb => hno ⟨l, hl, hb⟩
  have hact : l ∈ lanesOf c.act := (mem_lanesOf _ _).2 ⟨hl, guardOn_sub _ _ _ _ _ (hguard ▸ hbit)⟩
  unfold lowLane
  cases hlanes : lanesOf c.act with
  | nil => rw [hlanes] at hact; exact absurd hact List.not_mem_nil
  | cons x t => exact List.mem_cons_self

/-- Lanes that all read the code position of slot `pc` make an indirect transfer to it. -/
theorem indirect_eq_ok (h : (lanesOf c.act).all (fun l => posPc c.g (c.g.rdV c.fc f.r.a.toNat l) == some pc &&
    c.g.rdV c.fc f.r.a.toNat l == c.g.rdV c.fc f.r.a.toNat (lowLane c.act)) = true) : c.indirect f.r.a = .ok pc := by
  simp only [List.all_eq_true, Bool.and_eq_true, beq_iff_eq] at h
  have hstray : strayLanes c f.r.a = 0 := by
    refine BitVec.eq_of_getLsbD_eq fun l hl => ?_
    rw [strayLanes, getLsbD_maskOf]
    cases hb : c.act.getLsbD l with
    | false => simp
    | true => simp [(h l ((mem_lanesOf _ _).2 ⟨hl, hb⟩)).2]
  rw [indirect_uniform hstray, (h _ (lowLane_mem hc hon)).1]

/-! ### Transfers and branches to a slot that cannot be entered (R57, R72) -/

variable (h : noEntry s c.g pc (lowLane c.act) t)
include h

theorem transfers_noEntry {i : Instr} (hi : i ∈ transfers f c pc) : trapsAs i s c t := by
  obtain hi | hi := List.mem_append.1 hi
  · obtain ⟨rfl, hi⟩ := (List.mem_ite_nil_right ..).1 hi
    have hto (g : Group) := transfer_noEntry g h
    obtain rfl | rfl : i = .bra f ∨ i = .call f := by simpa using hi
    · exact trapsAs_of_asOnce hc hon rfl (hto _)
    · exact trapsAs_of_asOnce hc hon rfl (hto _)
  · obtain ⟨hall, hi⟩ := (List.mem_ite_nil_right ..).1 hi
    exact indirect_noEntry hc hon (indirect_eq_ok hc hon hall) h i hi

theorem loop_noEntry (hx : c.g.rdS c.fc f.r.dst.toNat - 1 ≠ 0) (hpc : c.target f = pc) : trapsAs (.loop f) s c t := by
  refine trapsAs_of_asOnce hc hon rfl ?_
  rw [if_neg (by simpa using hx), hpc]
  exact transfer_noEntry _ h

theorem cont_noEntry (hlen : (c.g.chain f.bk.toNat c.sp.link).length = f.bk.toNat)
    (hkind : (c.g.chain f.bk.toNat c.sp.link).getLast?.map JoinRec.kind = some 1) (hpc : c.target f = pc) : trapsAs (.cont f) s c t := by
  obtain ⟨r, hr, hk⟩ := Option.map_eq_some_iff.1 hkind
  refine trapsAs_of_asOnce hc hon rfl ?_
  simp [hr, hlen, hk, hpc, targetLine_noEntry h]

omit hc in
theorem diverge_noEntry (kind reconv : Nat) : diverge s c kind pc reconv = .error (.trap t) := by
  rw [diverge, if_neg (by simpa using hon)]
  split
  · exact transfer_noEntry _ h
  · rw [targetLine_noEntry h]; rfl

omit hc in
theorem loopEdge_noEntry (j : JoinRec) : loopEdge s c j pc = .error (.trap t) := by
  rw [loopEdge, if_neg (by simpa using hon), targetLine_noEntry h]
  rfl

theorem brc_noEntry (hbk : f.bk.toNat ≤ 1) (hpc : c.target f = pc) : trapsAs (.brc f) s c t := by
  have hexec : exec (.brc f) s = execBrc f s := rfl
  have hdiv (kind : Nat) := diverge_noEntry hon h kind (c.reconv f)
  have trapped {x : Res State} (hx : x = .error (.trap t)) : finishGroup s c x =
      .next (raiseTrap s { gid := c.gid, pos := c.pos, pc := c.sp.pc, act := c.act, kind := 0, ref := 0 } t) := by rw [hx]; rfl
  rw [trapsAs, hexec, execBrc, asGroup_eq hc, hpc]
  apply trapped
  split
  case h_1 => exact hdiv 0
  case h_2 =>
    split
    · split
      · exact loopEdge_noEntry hon h _
      · exact hdiv 1
    · exact hdiv 1
  case h_3 => omega
  case h_4 hno0 hno1 _ =>
    have h0 : f.bk.toNat ≠ 0 := hno0
    have h1 : f.bk.toNat ≠ 1 := hno1
    omega

theorem goesTo_noEntry {i : Instr} (hi : i ∈ goesTo f c pc) : trapsAs i s c t := by
  obtain hi | hi := List.mem_append.1 hi
  · exact transfers_noEntry hc hon h hi
  · obtain ⟨hpc, hi⟩ := (List.mem_ite_nil_right ..).1 hi
    simp only [List.mem_append, List.mem_ite_nil_right, List.mem_singleton, or_assoc] at hi
    obtain ⟨hx, rfl⟩ | ⟨hbk, rfl⟩ | ⟨⟨hlen, hkind⟩, rfl⟩ := hi
    · exact loop_noEntry hc hon h hx hpc
    · exact brc_noEntry hc hon h hbk hpc
    · exact cont_noEntry hc hon h hlen hkind hpc

end Transfer

/-! ### A resumption that cannot be entered (R90, log 28) -/

/-- Fetching reads of a group what its join records are no part of. -/
theorem targetLine_putRec (s : State) (g : Group) (r : JoinRec) (pc lane : Nat) :
    targetLine s (g.putRec r) pc lane = targetLine s g pc lane := rfl

section Resumption
variable {s : State} {g : Group} {r : JoinRec} {pos : Nat} {t : Trap}

theorem formSplit_noEntry (h : noEntry s g r.rpc (lowLane r.arr) t) : formSplit s g r pos =
    .error { pc := r.rpc, pos, mask := r.arr, num := r.num, trap := t } := by
  rw [formSplit, targetLine_noEntry h]

/-- The record that completes innermost forms no split where its slot cannot be entered. -/
theorem rejoin1_noEntry (harr : g.arrival = none) (hr : newest g.recs (fun r => r.exp == 0 && !r.complete) = some r) (h0 : r.arr ≠ 0)
    (hpos : g.freePos = some pos) (h : noEntry s g r.rpc (lowLane r.arr) t) : rejoin1 s g =
    some (.error { pc := r.rpc, pos, mask := r.arr, num := r.num, trap := t }) := by
  have hform : formSplit s (g.putRec { r with complete := true, d := false }) { r with complete := true, d := false } pos =
      .error { pc := r.rpc, pos, mask := r.arr, num := r.num, trap := t } := formSplit_noEntry (r := { r with complete := true, d := false }) h
  simp only [rejoin1, harr, hr, hpos]
  rw [if_neg (by simpa using h0), hform]

theorem settle_trap {s s1 s2 : State} {gid : Nat} {old g g1 g2 : Group} {f : FormTrap} (h1 : afterEvent s gid old g = .ok (g1, s1))
    (hf : rejoin1 s1 g1 = some (.error f)) (h2 : afterEvent s1 gid g1 (g1.holdRec f.num) = .ok (g2, s2)) :
    settle s gid old g = .ok (raiseTrap (s2.putG gid g2)
      { gid, pos := f.pos, pc := f.pc, act := f.mask, kind := 0, ref := 2 ^ 60 + f.num } f.trap) := by
  obtain ⟨n, hn⟩ : ∃ n, 16 * (g1.recs.length + 8) = n + 1 := ⟨16 * (g1.recs.length + 8) - 1, by omega⟩
  simp [settle, h1, hn, rejoin, hf, h2]

end Resumption
end Sys2Proof.Machine

open Sys2Proof Sys2Proof.Machine Sys2Proof.Claims

/-- Settles O10: each transfer asks for its target line before its effect, and a resumption for the line of its reconvergence address. -/
theorem transferTraps : Obligations.TransferTraps := by
  unfold Obligations.TransferTraps
  refine ⟨fun s f c i hc hon hi => ⟨fun hd => indirect_traps hc hon (indirect_diverges hd) i hi, fun hd hpos => ?invalid⟩,
    fun s f c i pc t hc hon hi h => goesTo_noEntry hc hon h hi,
    fun s s1 s2 gid pos old g g1 g2 r t h1 harr hr h0 hpos h h2 => settle_trap h1 (rejoin1_noEntry harr hr h0 hpos h) h2⟩
  case invalid =>
    refine indirect_traps hc hon ?_ i hi
    rw [indirect_uniform hd, hpos]
end

section
/-!
PROOFS. The completion of a flagged instruction (O19): what one of its writes does to each kind of register, what all of them
leave, and the instruction whose results are known at issue.
-/
namespace Sys2Proof.Machine
open Sys2Proof.Claims

/-! ### Tensor handles (R280) -/

theorem getLsbD_foldl_or {n : Nat} (f : Nat → BitVec n) (l : List Nat) (w : BitVec n) (i : Nat) :
    (l.foldl (fun w k => w ||| f k) w).getLsbD i = (w.getLsbD i || l.any (fun k => (f k).getLsbD i)) := by
  induction l generalizing w with
  | nil => simp
  | cons k l ih => rw [List.foldl_cons, ih, BitVec.getLsbD_or, List.any_cons, Bool.or_assoc]

/-- A bit of a tensor handle is a bit of one of its eight words. -/
theorem Group.getLsbD_thNow (g : Group) (r i : Nat) (hi : i < 512) :
    (g.thNow r).getLsbD i = (Map.get 0 g.th (8 * r + i / 64)).getLsbD (i % 64) := by
  have hword (k : Nat) : ((Map.get 0 g.th (8 * r + k)).setWidth 512 <<< (64 * k)).getLsbD i =
      (decide (64 * k ≤ i) && (Map.get 0 g.th (8 * r + k)).getLsbD (i - 64 * k)) := by
    by_cases hk : i < 64 * k
    · simp [hk, Nat.not_le.mpr hk]
    · simp [hi, hk, Nat.not_lt.mp hk]
  unfold Group.thNow
  rw [getLsbD_foldl_or, show BitVec.getLsbD (0 : Line) i = false from BitVec.getLsbD_zero, Bool.false_or, Bool.eq_iff_iff, List.any_eq_true]
  have hdiv : i - 64 * (i / 64) = i % 64 := by omega
  constructor
  · rintro ⟨k, -, hb⟩
    rw [hword k, Bool.and_eq_true, decide_eq_true_eq] at hb
    have hlt : i - 64 * k < 64 := BitVec.lt_of_getLsbD hb.2
    have hk : k = i / 64 := by omega
    rw [← hdiv, ← hk]
    exact hb.2
  · intro hb
    refine ⟨i / 64, List.mem_range.mpr (by omega), ?_⟩
    rw [hword, Bool.and_eq_true, decide_eq_true_eq, hdiv]
    exact ⟨by omega, hb⟩

/-- A value written at each of the first `n` places from `b`. -/
theorem get_foldl_set (b n : Nat) (f : Nat → DWord) (m : SMap DWord) (j : Nat) :
    Map.get 0 ((List.range n).foldl (fun m k => Map.set 0 m (b + k) (f k)) m) j =
      if b ≤ j ∧ j < b + n then f (j - b) else Map.get 0 m j := by
  induction n with
  | zero => simp
  | succ n ih =>
    rw [List.range_succ, List.foldl_append, List.foldl_cons, List.foldl_nil, Map.get_set, ih]
    by_cases hj : j = b + n
    · subst hj; simp
    · have : (b ≤ j ∧ j < b + n) ↔ (b ≤ j ∧ j < b + (n + 1)) := by omega
      simp only [hj, if_false, this]

/-- A word of a tensor handle after a write of one. -/
theorem Group.get_wrTh (g : Group) (r : Nat) (x : Line) (ty j : Nat) :
    Map.get 0 (g.wrTh r x ty).th j =
      if 8 * r ≤ j ∧ j < 8 * r + 8 then BitVec.ofNat 64 (x.toNat / 2 ^ (64 * (j - 8 * r))) else Map.get 0 g.th j := by
  have hth : (g.wrTh r x ty).th = (List.range 8).foldl
      (fun m k => Map.set 0 m (8 * r + k) (BitVec.ofNat 64 (x.toNat / 2 ^ (64 * k)))) g.th :=
    (congrArg Group.th (Group.marks_frame { g with th := _, thType := _ } (keyTh r)) :)
  rw [hth, get_foldl_set]

theorem Group.thType_wrTh (g : Group) (r : Nat) (x : Line) (ty : Nat) :
    (g.wrTh r x ty).thType = Map.set 0 g.thType r ty :=
  (congrArg Group.thType (Group.marks_frame { g with th := _, thType := Map.set 0 g.thType r ty } (keyTh r)) :)

theorem Group.thNow_wrTh_self (g : Group) (r : Nat) (x : Line) (ty : Nat) : (g.wrTh r x ty).thNow r = x := by
  refine BitVec.eq_of_getLsbD_eq fun i hi => ?_
  have h64 : i % 64 < 64 := Nat.mod_lt _ (by omega)
  rw [Group.getLsbD_thNow _ _ _ hi, Group.get_wrTh, if_pos (by omega), Nat.add_sub_cancel_left]
  rw [BitVec.getLsbD_ofNat, Nat.testBit_div_two_pow, ← BitVec.testBit_toNat]
  simp [h64, Nat.mod_add_div]

theorem Group.thNow_wrTh_ne (g : Group) {r q : Nat} (x : Line) (ty : Nat) (h : q ≠ r) : (g.wrTh r x ty).thNow q = g.thNow q := by
  refine BitVec.eq_of_getLsbD_eq fun i hi => ?_
  rw [Group.getLsbD_thNow _ _ _ hi, Group.getLsbD_thNow _ _ _ hi, Group.get_wrTh, if_neg (by omega)]

/-- A write of a tensor handle changes nothing but it, its poison mark and the record of races. -/
theorem Group.wrTh_frame (g : Group) (r : Nat) (x : Line) (ty : Nat) :
    { g.wrTh r x ty with th := g.th, thType := g.thType, raced := g.raced, poison := g.poison } = g := by
  unfold Group.wrTh
  exact congrArg (fun y : Group => { y with th := g.th, thType := g.thType })
    (Group.marks_frame { g with th := _, thType := Map.set 0 g.thType r ty } (keyTh r))

/-! ### One write of a completion -/

/-- The group `g'` is `g` but for its v, s, p and th registers and their poison marks. -/
def sameButOuts (g g' : Group) : Prop :=
  { g' with v := g.v, s := g.s, p := g.p, th := g.th, thType := g.thType, poison := g.poison } = g

theorem sameButOuts_refl (g : Group) : sameButOuts g g := rfl

theorem sameButOuts_trans {a b c : Group} (h1 : sameButOuts a b) (h2 : sameButOuts b c) : sameButOuts a c := by
  have h3 := congrArg (fun y : Group => { y with v := a.v, s := a.s, p := a.p, th := a.th, thType := a.thType, poison := a.poison }) h2
  exact h3.trans h1

theorem sameButOuts_exited {g g' : Group} (h : sameButOuts g g') : g'.exited = g.exited := (congrArg Group.exited h :)

theorem sameButOuts_raced {g g' : Group} (h : sameButOuts g g') : g'.raced = g.raced := (congrArg Group.raced h :)

/-- A write changes registers and their poison marks, and no more but the record of races. -/
theorem sameButOuts_put (g : Group) (o : RegWrite) : sameButOuts g { g.put o with raced := g.raced } := by
  cases o with
  | v r l x => exact congrArg (fun y : Group => { y with s := g.s, p := g.p, th := g.th, thType := g.thType }) (Group.wrV_frame g r l x)
  | s r x => exact congrArg (fun y : Group => { y with v := g.v, p := g.p, th := g.th, thType := g.thType }) (Group.wrS_frame g r x)
  | p r l x => exact congrArg (fun y : Group => { y with v := g.v, s := g.s, th := g.th, thType := g.thType }) (Group.wrP_frame g r l x)
  | th r x ty => exact congrArg (fun y : Group => { y with v := g.v, s := g.s, p := g.p }) (Group.wrTh_frame g r x ty)

/-- A lane of a v register keeps its value where another place is written. -/
theorem Group.put_v_other (g : Group) (o : RegWrite) (k : Nat) (h : ∀ r l x, o = .v r l x → 32 * r + l ≠ k) :
    Map.get 0 (g.put o).v k = Map.get 0 g.v k := by
  cases o with
  | v r l x => exact (Group.get_wrV g r l x k).trans (if_neg fun hk => h r l x rfl hk.2.symm)
  | s r x => exact (congrArg (fun y => Map.get 0 (Group.v y) k) (Group.wrS_frame g r x) :)
  | p r l x => exact (congrArg (fun y => Map.get 0 (Group.v y) k) (Group.wrP_frame g r l x) :)
  | th r x ty => exact (congrArg (fun y => Map.get 0 (Group.v y) k) (Group.wrTh_frame g r x ty) :)

/-- An s register keeps its value where another register is written. -/
theorem Group.put_s_other (g : Group) (o : RegWrite) (k : Nat) (h : ∀ r x, o = .s r x → r ≠ k) :
    Map.get 0 (g.put o).s k = Map.get 0 g.s k := by
  cases o with
  | v r l x => exact (congrArg (fun y => Map.get 0 (Group.s y) k) (Group.wrV_frame g r l x) :)
  | s r x => exact (Group.get_wrS g r x k).trans (if_neg fun hk => h r x rfl hk.symm)
  | p r l x => exact (congrArg (fun y => Map.get 0 (Group.s y) k) (Group.wrP_frame g r l x) :)
  | th r x ty => exact (congrArg (fun y => Map.get 0 (Group.s y) k) (Group.wrTh_frame g r x ty) :)

/-- A lane's bit of a predicate keeps its value where another bit is written. -/
theorem Group.put_p_other (g : Group) (o : RegWrite) (q k : Nat) (hk : k < 32) (h : ∀ r l b, o = .p r l b → ¬ (r = q ∧ l = k)) :
    (Map.get 0 (g.put o).p q).getLsbD k = (Map.get 0 g.p q).getLsbD k := by
  cases o with
  | v r l x => exact (congrArg (fun y => (Map.get 0 (Group.p y) q).getLsbD k) (Group.wrV_frame g r l x) :)
  | s r x => exact (congrArg (fun y => (Map.get 0 (Group.p y) q).getLsbD k) (Group.wrS_frame g r x) :)
  | p r l x => exact (Group.get_wrP g r l x q k hk).trans (if_neg fun hq => h r l x rfl ⟨hq.2.2.1.symm, hq.2.2.2.symm⟩)
  | th r x ty => exact (congrArg (fun y => (Map.get 0 (Group.p y) q).getLsbD k) (Group.wrTh_frame g r x ty) :)

/-- A tensor handle and its TYPE. -/
def Group.handle (g : Group) (q : Nat) : Line × Nat := (g.thNow q, Map.get 0 g.thType q)

/-- A tensor handle keeps its value where another register is written. -/
theorem Group.put_handle_other (g : Group) (o : RegWrite) (q : Nat) (h : ∀ r x ty, o = .th r x ty → r ≠ q) :
    (g.put o).handle q = g.handle q := by
  cases o with
  | v r l x => exact (congrArg (fun y => Group.handle y q) (Group.wrV_frame g r l x) :)
  | s r x => exact (congrArg (fun y => Group.handle y q) (Group.wrS_frame g r x) :)
  | p r l x => exact (congrArg (fun y => Group.handle y q) (Group.wrP_frame g r l x) :)
  | th r x ty =>
    have hq : q ≠ r := fun e => h r x ty rfl e.symm
    show ((g.wrTh r x ty).thNow q, Map.get 0 (g.wrTh r x ty).thType q) = g.handle q
    rw [Group.thNow_wrTh_ne _ _ _ hq, Group.thType_wrTh, Map.get_set_ne _ _ _ hq]
    rfl

theorem Group.handle_wrTh (g : Group) (r : Nat) (x : Line) (ty : Nat) : (g.put (.th r x ty)).handle r = (x, ty) := by
  show ((g.wrTh r x ty).thNow r, Map.get 0 (g.wrTh r x ty).thType r) = (x, ty)
  rw [Group.thNow_wrTh_self, Group.thType_wrTh, Map.get_set_self]

/-! ### All the writes of a completion (R54, R56) -/

/-- One write of a completion: where a later write raced its register and the device keeps that one, nothing. -/
def Group.settleOut (fc id : Nat) (g : Group) (o : RegWrite) : Group :=
  if g.racedBy id o.key && Config.raceKeep fc o.key then g else { (g.put o) with raced := g.raced }

/-- The writes of a completion leave what they make of the registers, and the record of races is emptied with the log. -/
theorem applyOuts_eq (g : Group) (fc id : Nat) (outs : List RegWrite) :
    { applyOuts g fc id outs with raced := g.raced } = { outs.foldl (Group.settleOut fc id) g with raced := g.raced } := by
  show { (if (outs.foldl (Group.settleOut fc id) g).entries.isEmpty then { outs.foldl (Group.settleOut fc id) g with raced := [] }
    else outs.foldl (Group.settleOut fc id) g) with raced := g.raced } = _
  split <;> rfl

theorem sameButOuts_settleOut (fc id : Nat) (g : Group) (o : RegWrite) : sameButOuts g (g.settleOut fc id o) := by
  unfold Group.settleOut
  split
  · exact sameButOuts_refl g
  · exact sameButOuts_put g o

theorem sameButOuts_foldl (fc id : Nat) (outs : List RegWrite) (g : Group) :
    sameButOuts g (outs.foldl (Group.settleOut fc id) g) := by
  induction outs generalizing g with
  | nil => exact sameButOuts_refl g
  | cons o outs ih => exact sameButOuts_trans (sameButOuts_settleOut fc id g o) (ih _)

section
variable {α : Type} {view : Group → α} (hview : ∀ (g : Group) m, view { g with raced := m } = view g)
include hview

/-- What no write touches stays. -/
theorem foldl_settleOut_keeps (fc id : Nat) (outs : List RegWrite) (hkeep : ∀ o ∈ outs, ∀ g : Group, view (g.put o) = view g)
    (g : Group) : view (outs.foldl (Group.settleOut fc id) g) = view g := by
  induction outs generalizing g with
  | nil => rfl
  | cons o outs ih =>
    rw [List.foldl_cons, ih fun o' ho' => hkeep o' (by simp [ho'])]
    unfold Group.settleOut
    split
    · rfl
    · rw [hview, hkeep o (by simp)]

/-- What the only write of its key sets has the value it sets, or, where a later write raced it, may have stayed. -/
theorem foldl_settleOut_lands (fc id : Nat) (outs : List RegWrite) (hn : (outs.map RegWrite.key).Nodup) {o : RegWrite} (ho : o ∈ outs)
    (hother : ∀ o' : RegWrite, o'.key ≠ o.key → ∀ g : Group, view (g.put o') = view g) {x : α} {ex : Mask}
    (hlands : ∀ g : Group, g.exited = ex → view (g.put o) = x) (g : Group) (hex : g.exited = ex) :
    view (outs.foldl (Group.settleOut fc id) g) = x ∨
      (g.racedBy id o.key = true ∧ view (outs.foldl (Group.settleOut fc id) g) = view g) := by
  induction outs generalizing g with
  | nil => simp at ho
  | cons o' outs ih =>
    rw [List.map_cons, List.nodup_cons] at hn
    rw [List.foldl_cons]
    have hstep := sameButOuts_settleOut fc id g o'
    rcases List.mem_cons.mp ho with rfl | hmem
    · have hrest : ∀ o' ∈ outs, ∀ g : Group, view (g.put o') = view g := fun o' ho' =>
        hother o' fun e => hn.1 (e ▸ List.mem_map_of_mem ho')
      rw [foldl_settleOut_keeps hview fc id outs hrest]
      unfold Group.settleOut
      split
      · next hraced => exact .inr ⟨(Bool.and_eq_true_iff.mp hraced).1, rfl⟩
      · exact .inl ((hview _ _).trans (hlands g hex))
    · have hkey : o'.key ≠ o.key := fun e => hn.1 (e ▸ List.mem_map_of_mem hmem)
      have hsame : view (g.settleOut fc id o') = view g := by
        unfold Group.settleOut
        split
        · rfl
        · rw [hview, hother o' hkey]
      have hraced : (g.settleOut fc id o').racedBy id o.key = g.racedBy id o.key := by
        unfold Group.racedBy
        rw [sameButOuts_raced hstep]
      have h := ih hn.2 hmem (g.settleOut fc id o') ((sameButOuts_exited hstep).trans hex)
      rwa [hsame, hraced] at h

end

/-! ### The completion (R54, R55) -/

/-- The group with the entry freed. -/
def Group.freed (g : Group) (e : Entry) : Group := { g with entries := g.entries.filter (fun x => x.id != e.id) }

/-- The group with the entry freed and its writes made. -/
def Group.written (g : Group) (fc : Nat) (e : Entry) : Group := e.outs.foldl (Group.settleOut fc e.id) (g.freed e)

theorem Group.sameButOuts_written (g : Group) (fc : Nat) (e : Entry) : sameButOuts (g.freed e) (g.written fc e) :=
  sameButOuts_foldl fc e.id e.outs (g.freed e)

/-- What MRES and MSTAT take back of oc.mat (R216). -/
def ocMatOf (i : Instr) : Nat :=
  match i with
  | .mres _ | .mstat _ => 1
  | _ => 0

/-- The group when a flagged instruction has completed, but for the split that a failed CAS demotes. -/
def Group.completed (g : Group) (fc : Nat) (e : Entry) : Group :=
  let g1 := applyOuts (g.freed e) fc e.id e.outs
  ({ g1 with fpf := g1.fpf ||| e.fpf, ocMat := g1.ocMat - ocMatOf e.instr }).dropFlag e.flag

theorem exec_flaggedComplete {s : State} {gid : Nat} {g : Group} {e : Entry} (hg : Map.find s.groups gid = some g)
    (he : g.entries.find? (fun x => x.id == e.id) = some e) (hr : e.ready = true) (hf : e.fault = 0) :
    exec (.flaggedComplete gid e.id) s =
      .next (s.putG gid (if e.fails && e.mine then (g.completed s.free e).demote e.pos else g.completed s.free e)) := by
  show execFlaggedComplete gid e.id s = _
  simp only [execFlaggedComplete, hg, he, hr, hf]
  rfl

/-- The completion is the writes, the flag's count, oc.mat and FPF. -/
theorem Group.completed_eq (g : Group) (fc : Nat) (e : Entry) {k : Nat} (hk : e.flag = some k) :
    { g.completed fc e with raced := g.raced } =
      { g.written fc e with raced := g.raced, fpf := g.fpf ||| e.fpf, ocMat := g.ocMat - ocMatOf e.instr,
                            cf := Map.set 0 g.cf k (Map.get 0 g.cf k - 1) } := by
  have hw := applyOuts_eq (g.freed e) fc e.id e.outs
  have hfr := g.sameButOuts_written fc e
  have hfpf : (g.written fc e).fpf = g.fpf := (congrArg Group.fpf hfr :)
  have hmat : (g.written fc e).ocMat = g.ocMat := (congrArg Group.ocMat hfr :)
  have hcf : (g.written fc e).cf = g.cf := (congrArg Group.cf hfr :)
  have h : { g.completed fc e with raced := g.raced } =
      { g.written fc e with raced := g.raced, fpf := (g.written fc e).fpf ||| e.fpf, ocMat := (g.written fc e).ocMat - ocMatOf e.instr,
                            cf := Map.set 0 (g.written fc e).cf k (Map.get 0 (g.written fc e).cf k - 1) } := by
    unfold Group.completed
    rw [hk]
    exact (congrArg (fun y : Group =>
      { y with fpf := y.fpf ||| e.fpf, ocMat := y.ocMat - ocMatOf e.instr, cf := Map.set 0 y.cf k (Map.get 0 y.cf k - 1) }) hw :)
  rwa [hfpf, hmat, hcf] at h

/-- A part of the group that neither the record of races nor the log, a count or FPF bears on is after the completion what
the writes make of it. -/
theorem Group.completed_view (g : Group) (fc : Nat) (e : Entry) {k : Nat} (hk : e.flag = some k) {α : Type} {view : Group → α}
    (hview : ∀ (g : Group) m n c f, view { g with raced := m, ocMat := n, cf := c, fpf := f } = view g) :
    view (g.completed fc e) = view (g.written fc e) := by
  have h := congrArg view (g.completed_eq fc e hk)
  rwa [hview (g.written fc e) g.raced, hview (g.completed fc e) g.raced (g.completed fc e).ocMat (g.completed fc e).cf] at h

/-- The group `y` with all that a completion may change as it stands in `g`. -/
def Group.undone (g y : Group) : Group :=
  { y with v := g.v, s := g.s, p := g.p, th := g.th, thType := g.thType, entries := g.entries, cf := g.cf, fpf := g.fpf,
           ocMat := g.ocMat, raced := g.raced, poison := g.poison }

theorem Group.completed_frame (g : Group) (fc : Nat) (e : Entry) {k : Nat} (hk : e.flag = some k) :
    g.undone (g.completed fc e) = g := by
  have h := congrArg (fun y : Group =>
    { y with entries := g.entries, cf := g.cf, fpf := g.fpf, ocMat := g.ocMat, raced := g.raced }) (g.sameButOuts_written fc e)
  exact (g.completed_view fc e hk (view := g.undone) fun _ _ _ _ _ => rfl).trans h

/-! ### An instruction whose results are known at issue (R54) -/

theorem flagMarked_markFlag (c : Iss) (i : Instr) (g : Group) (h : g.cf = c.g.cf) : flagMarked c i (g.markFlag (c.flag i)) := by
  intro k
  cases hf : c.flag i with
  | none => simp [Group.markFlag, h]
  | some n =>
    by_cases hn : n = k
    · subst hn; simp [Group.markFlag, h]
    · simp [Group.markFlag, h, hn, Map.get_set, Ne.symm hn]

theorem Group.markFlag_frame (g : Group) (n : Option Nat) : { g.markFlag n with cf := g.cf } = g := by
  cases n <;> rfl

theorem Group.advance_cf (g : Group) (pos : Nat) : (g.advance pos).cf = g.cf := (congrArg Group.cf (g.advance_frame pos) :)

theorem answered_postDone (s : State) (c : Iss) (i : Instr) (outs : List RegWrite) : answered i s c outs (postDone s c i outs) := by
  unfold answered postDone
  cases hf : c.flag i with
  | none => exact ⟨fun _ => rfl, fun h => absurd rfl h⟩
  | some k =>
    refine ⟨fun h => by simp at h, fun _ => ?_⟩
    let e : Entry := { mkEntry s.nextId i c .result { on := c.act, addr := [], data := [], cmp := [] } with
      flag := some k, done := c.act, outs := outs, ready := true }
    let g := { c.g.advance c.pos with entries := c.g.entries ++ [e] }
    have hmark : (g.markFlag (some k)).entries = c.g.entries ++ [e] := rfl
    refine ⟨e, ⟨g.markFlag (some k), rfl, hmark, rfl, rfl, hf.symm, rfl, rfl, rfl, rfl, ?_, rfl, ?_⟩, rfl, rfl, rfl, rfl, rfl⟩
    · rw [← hf]
      exact flagMarked_markFlag c i g (c.g.advance_cf c.pos)
    · exact (congrArg (fun y : Group => { y with entries := c.g.entries, cf := c.g.cf }) (c.g.advance_frame c.pos) :)

/-! ### The registers after a completion -/

section
variable (g : Group) (fc : Nat) (e : Entry) {k : Nat} (hk : e.flag = some k)
include hk

/-- What no write of the completion touches stays. -/
theorem Group.completed_keeps {α : Type} {view : Group → α}
    (hview : ∀ (g : Group) m n c f t, view { g with raced := m, ocMat := n, cf := c, fpf := f, entries := t } = view g)
    (hkeep : ∀ o ∈ e.outs, ∀ g : Group, view (g.put o) = view g) : view (g.completed fc e) = view g := by
  have h1 := g.completed_view fc e hk (view := view) fun g m n c f => hview g m n c f g.entries
  have h2 := foldl_settleOut_keeps (view := view) (fun g m => hview g m g.ocMat g.cf g.fpf g.entries) fc e.id e.outs hkeep (g.freed e)
  have h3 : view (g.freed e) = view g := hview g g.raced g.ocMat g.cf g.fpf (g.freed e).entries
  exact h1.trans (h2.trans h3)

/-- What the only write of its key sets has the value it sets, or, where a later write raced it, may have stayed. -/
theorem Group.completed_lands (hn : (e.outs.map RegWrite.key).Nodup) {o : RegWrite} (ho : o ∈ e.outs) {α : Type} {view : Group → α}
    (hview : ∀ (g : Group) m n c f t, view { g with raced := m, ocMat := n, cf := c, fpf := f, entries := t } = view g)
    (hother : ∀ o' : RegWrite, o'.key ≠ o.key → ∀ g : Group, view (g.put o') = view g) {x : α}
    (hlands : ∀ y : Group, y.exited = g.exited → view (y.put o) = x) :
    view (g.completed fc e) = x ∨ (g.racedBy e.id o.key = true ∧ view (g.completed fc e) = view g) := by
  have h1 := g.completed_view fc e hk (view := view) fun g m n c f => hview g m n c f g.entries
  have h2 := foldl_settleOut_lands (view := view) (fun g m => hview g m g.ocMat g.cf g.fpf g.entries) fc e.id e.outs hn ho hother
    hlands (g.freed e) rfl
  have h3 : view (g.freed e) = view g := hview g g.raced g.ocMat g.cf g.fpf (g.freed e).entries
  rw [h3] at h2
  rw [h1]
  exact h2

theorem Group.completed_v (hn : (e.outs.map RegWrite.key).Nodup) (r l : Nat) (x : Word) (ho : RegWrite.v r l x ∈ e.outs)
    (hl : g.exited.getLsbD l = false) : Map.get 0 (g.completed fc e).v (32 * r + l) = x ∨
      (g.racedBy e.id (RegWrite.v r l x).key = true ∧ Map.get 0 (g.completed fc e).v (32 * r + l) = Map.get 0 g.v (32 * r + l)) := by
  refine g.completed_lands fc e hk hn ho (view := fun y => Map.get 0 y.v (32 * r + l)) (fun _ _ _ _ _ _ => rfl) ?_ ?_
  · intro o' hne y
    refine y.put_v_other o' _ ?_
    rintro r' l' x' rfl heq
    exact hne heq
  · intro y hy
    refine (y.get_wrV r l x _).trans (if_pos ⟨?_, rfl⟩)
    rw [hy, hl]

theorem Group.completed_s (hn : (e.outs.map RegWrite.key).Nodup) (r : Nat) (x : DWord) (ho : RegWrite.s r x ∈ e.outs) :
    Map.get 0 (g.completed fc e).s r = x ∨
      (g.racedBy e.id (RegWrite.s r x).key = true ∧ Map.get 0 (g.completed fc e).s r = Map.get 0 g.s r) := by
  refine g.completed_lands fc e hk hn ho (view := fun y => Map.get 0 y.s r) (fun _ _ _ _ _ _ => rfl) ?_ ?_
  · intro o' hne y
    refine y.put_s_other o' _ ?_
    rintro r' x' rfl rfl
    exact hne rfl
  · exact fun y _ => (y.get_wrS r x r).trans (if_pos rfl)

theorem Group.completed_p (hn : (e.outs.map RegWrite.key).Nodup) (r l : Nat) (b : Bool) (ho : RegWrite.p r l b ∈ e.outs)
    (hl32 : l < 32) (hr : r ≠ 0) (hl : g.exited.getLsbD l = false) : (Map.get 0 (g.completed fc e).p r).getLsbD l = b ∨
      (g.racedBy e.id (RegWrite.p r l b).key = true ∧
        (Map.get 0 (g.completed fc e).p r).getLsbD l = (Map.get 0 g.p r).getLsbD l) := by
  refine g.completed_lands fc e hk hn ho (view := fun y => (Map.get 0 y.p r).getLsbD l) (fun _ _ _ _ _ _ => rfl) ?_ ?_
  · intro o' hne y
    refine y.put_p_other o' r l hl32 ?_
    rintro r' l' b' rfl ⟨rfl, rfl⟩
    exact hne rfl
  · intro y hy
    refine (y.get_wrP r l b r l hl32).trans (if_pos ⟨hr, ?_, rfl, rfl⟩)
    rw [hy, hl]

theorem Group.completed_handle (hn : (e.outs.map RegWrite.key).Nodup) (r : Nat) (x : Line) (ty : Nat)
    (ho : RegWrite.th r x ty ∈ e.outs) :
    (g.completed fc e).handle r = (x, ty) ∨ g.racedBy e.id (RegWrite.th r x ty).key = true := by
  refine (g.completed_lands fc e hk hn ho (view := fun y => y.handle r) (x := (x, ty)) (fun _ _ _ _ _ _ => rfl) ?_ ?_).imp_right And.left
  · intro o' hne y
    refine y.put_handle_other o' r ?_
    rintro r' x' ty' rfl rfl
    exact hne rfl
  · exact fun y _ => y.handle_wrTh r x ty

end

end Sys2Proof.Machine

open Sys2Proof Sys2Proof.Machine Sys2Proof.Claims

/-- Settles O19: the writes of a completion are folded one by one; each leaves the registers of other keys as they are. -/
theorem flaggedCompletion : Obligations.FlaggedCompletion := by
  unfold Obligations.FlaggedCompletion
  refine ⟨?_, answered_postDone⟩
  intro s gid g e k hg he hr hf hk hn raced
  have hw := g.sameButOuts_written s.free e
  have hkeepV (r l : Nat) (hno : ∀ x, RegWrite.v r l x ∉ e.outs) (hl : l < 32)
      (hall : ∀ r' l' x, RegWrite.v r' l' x ∈ e.outs → l' < 32) :
      ∀ o ∈ e.outs, ∀ y : Group, Map.get 0 (y.put o).v (32 * r + l) = Map.get 0 y.v (32 * r + l) := by
    intro o ho y
    refine y.put_v_other o _ ?_
    rintro r' l' x rfl heq
    have := hall r' l' x ho
    obtain ⟨rfl, rfl⟩ : r' = r ∧ l' = l := by omega
    exact hno x ho
  have hkeepS (r : Nat) (hno : ∀ x, RegWrite.s r x ∉ e.outs) :
      ∀ o ∈ e.outs, ∀ y : Group, Map.get 0 (y.put o).s r = Map.get 0 y.s r := by
    intro o ho y
    refine y.put_s_other o _ ?_
    rintro r' x rfl rfl
    exact hno x ho
  have hkeepP (r l : Nat) (hno : ∀ b, RegWrite.p r l b ∉ e.outs) (hl : l < 32) :
      ∀ o ∈ e.outs, ∀ y : Group, (Map.get 0 (y.put o).p r).getLsbD l = (Map.get 0 y.p r).getLsbD l := by
    intro o ho y
    refine y.put_p_other o r l hl ?_
    rintro r' l' b rfl ⟨rfl, rfl⟩
    exact hno b ho
  have hkeepT (r : Nat) (hno : ∀ x ty, RegWrite.th r x ty ∉ e.outs) :
      ∀ o ∈ e.outs, ∀ y : Group, (y.put o).handle r = y.handle r := by
    intro o ho y
    refine y.put_handle_other o r ?_
    rintro r' x ty rfl rfl
    exact hno x ty ho
  refine ⟨g.completed s.free e, exec_flaggedComplete hg he hr hf, ?_, ?_, ?_, ?_, ?_, ?_, ?_, ?_, ?_, ?_, ?_, ?_, ?_⟩
  · exact (congrArg Group.entries (g.completed_eq s.free e hk) :).trans (congrArg Group.entries hw :)
  · intro n
    rw [(congrArg Group.cf (g.completed_eq s.free e hk) :), Map.get_set]
    by_cases h : n = k <;> simp [h]
  · exact (congrArg Group.fpf (g.completed_eq s.free e hk) :)
  · exact fun r l x ho _ _ hex => g.completed_v s.free e hk hn r l x ho hex
  · exact fun r l hno hl _ hall => g.completed_keeps s.free e hk (view := fun y => Map.get 0 y.v (32 * r + l)) (fun _ _ _ _ _ _ => rfl)
      (hkeepV r l hno hl hall)
  · exact g.completed_s s.free e hk hn
  · exact fun r hno => g.completed_keeps s.free e hk (view := fun y => Map.get 0 y.s r) (fun _ _ _ _ _ _ => rfl) (hkeepS r hno)
  · exact fun r l b ho hl hr0 _ hex => g.completed_p s.free e hk hn r l b ho hl hr0 hex
  · exact fun r x ty ho => (g.completed_handle s.free e hk hn r x ty ho).imp_left fun h => ⟨congrArg Prod.fst h, congrArg Prod.snd h⟩
  · exact fun r l hno hl _ => g.completed_keeps s.free e hk (view := fun y => (Map.get 0 y.p r).getLsbD l) (fun _ _ _ _ _ _ => rfl)
      (hkeepP r l hno hl)
  · intro r hno
    have h := g.completed_keeps s.free e hk (view := fun y => y.handle r) (fun _ _ _ _ _ _ => rfl) (hkeepT r hno)
    exact ⟨congrArg Prod.fst h, congrArg Prod.snd h⟩
  · exact (congrArg Group.ocMat (g.completed_eq s.free e hk) :)
  · exact g.completed_frame s.free e hk

end

section
/-!
PROOFS. The issue of copies, gathers and scatters, and WAITCNT (O35).
-/
namespace Sys2Proof.Machine
open Sys2Proof.Claims

/-! ### The split of the issuer -/

theorem Iss.find_fall {s : State} {gd : Guard} {c : Iss} (hc : issuer s gd = some c) :
    Map.find (c.g.advance c.pos).splits c.pos = some c.sp.fall := by
  obtain ⟨-, -, hsp, -⟩ := issuer_spec hc
  rw [Group.find_advance, if_pos rfl, hsp]
  rfl

theorem holdAtIssue_ok {c : Iss} {i : Instr} (h : c.g.holds c.sp.word i = false) : holdAtIssue c i = .ok () := by
  unfold holdAtIssue
  rw [h]
  rfl

/-! ### WAITCNT (R270) -/

/-- The writes of copies become the group's own in the record of those on their way, and nowhere else. -/
theorem ownCopies_frame (s : State) (gid : Nat) (cls : OcClass) : { ownCopies s gid cls with frameQ := s.frameQ } = s := by
  unfold ownCopies
  split <;> rfl

theorem ownCopies_of_nil {s : State} (h : s.frameQ = []) (gid : Nat) (cls : OcClass) : ownCopies s gid cls = s := by
  unfold ownCopies
  rw [h]
  rfl

section
variable {s : State} {f : EFmt} {c : Iss} (hc : issuer s f.r.g = some c) (hon : c.on ≠ 0)
include hc hon

theorem waitcnt_passes (h : c.g.oc f.cc ≤ f.imm.toNat % 256) :
    exec (.waitcnt f) s = .next ((ownCopies s c.gid f.cc).putG c.gid (c.g.advance c.pos)) := by
  show asOnce f.r.g s _ = _
  rw [asOnce_on hc hon, if_pos h]
  rfl

theorem waitcnt_holds (h : f.imm.toNat % 256 < c.g.oc f.cc) :
    exec (.waitcnt f) s = .next (s.putG c.gid { c.g.advance c.pos with
      splits := Map.modify (c.g.advance c.pos).splits c.pos (fun sp => { sp with wait := .count f.cc (f.imm.toNat % 256) }) }) := by
  show asOnce f.r.g s _ = _
  rw [asOnce_on hc hon, if_neg (Nat.not_le.2 h)]
  rfl

/-! ### Issue to the engine (R54, R269) -/

end

/-! ### Issue to the engine (R54, R269) -/

/-- The issuer's group when the engine has the operation. -/
def Iss.afterCopy (c : Iss) (i : Instr) (op : CopyOp) (id : Nat) : Group :=
  let g := (c.g.advance c.pos).markFlag op.flag
  { (g.setOc op.cls (g.oc op.cls + 1)) with entries := g.entries ++ c.flagEntry i id }

theorem postCopy_eq (s : State) (c : Iss) (i : Instr) (op : CopyOp) : postCopy s c i op =
    (({ s with nextId := s.nextId + 1 } : State).putG c.gid (c.afterCopy i op s.nextId)).putCore c.g.core
      { s.coreAt c.g.core with ops := (s.coreAt c.g.core).ops ++ [{ op with id := s.nextId, stamp := s.nextId }] } := rfl

theorem Group.oc_setOc (g : Group) (cls : OcClass) (n : Nat) : (g.setOc cls n).oc cls = n := by cases cls <;> rfl

theorem Group.setOc_frame (g : Group) (cls : OcClass) (n : Nat) :
    { g.setOc cls n with ocCopy := g.ocCopy, ocMat := g.ocMat, ocGath := g.ocGath, ocColl := g.ocColl } = g := by cases cls <;> rfl

theorem Group.oc_entries (g : Group) (es : List Entry) (cls : OcClass) : Group.oc { g with entries := es } cls = g.oc cls := by
  cases cls <;> rfl

theorem Iss.oc_afterCopy (c : Iss) (i : Instr) (op : CopyOp) (id : Nat) : (c.afterCopy i op id).oc op.cls = c.g.oc op.cls + 1 := by
  have hold : ((c.g.advance c.pos).markFlag op.flag).oc op.cls = c.g.oc op.cls :=
    (congrArg (fun y : Group => y.oc op.cls) (Group.markFlag_frame _ op.flag) :).trans
      (congrArg (fun y : Group => y.oc op.cls) (c.g.advance_frame c.pos) :)
  have h := Group.oc_setOc ((c.g.advance c.pos).markFlag op.flag) op.cls (((c.g.advance c.pos).markFlag op.flag).oc op.cls + 1)
  rw [hold] at h
  unfold Iss.afterCopy
  rw [Group.oc_entries, hold, h]

/-- The group `y` with its splits, its log, its flags and its counters as they stand in `g`. -/
def Group.unissued (g y : Group) : Group :=
  { y with splits := g.splits, entries := g.entries, cf := g.cf, ocCopy := g.ocCopy, ocMat := g.ocMat, ocGath := g.ocGath,
           ocColl := g.ocColl }

/-- The issue of a copy changes no more of its group. -/
theorem Iss.afterCopy_frame (c : Iss) (i : Instr) (op : CopyOp) (id : Nat) : c.g.unissued (c.afterCopy i op id) = c.g :=
  let g := (c.g.advance c.pos).markFlag op.flag
  calc c.g.unissued (c.afterCopy i op id)
    _ = c.g.unissued g := (congrArg c.g.unissued (g.setOc_frame op.cls (g.oc op.cls + 1)) :)
    _ = c.g.unissued (c.g.advance c.pos) := (congrArg c.g.unissued ((c.g.advance c.pos).markFlag_frame op.flag) :)
    _ = c.g := (congrArg c.g.unissued (c.g.advance_frame c.pos) :)

theorem Iss.cf_afterCopy (c : Iss) (i : Instr) (op : CopyOp) (id : Nat) :
    (c.afterCopy i op id).cf = ((c.g.advance c.pos).markFlag op.flag).cf :=
  (congrArg Group.cf (Group.setOc_frame ((c.g.advance c.pos).markFlag op.flag) op.cls _) :)

theorem Iss.splits_afterCopy (c : Iss) (i : Instr) (op : CopyOp) (id : Nat) :
    (c.afterCopy i op id).splits = (c.g.advance c.pos).splits :=
  (congrArg Group.splits (Group.setOc_frame ((c.g.advance c.pos).markFlag op.flag) op.cls _) :).trans
    (congrArg Group.splits (Group.markFlag_frame (c.g.advance c.pos) op.flag) :)

/-- The operation that is issued has the next number; the group's counter is one higher and its flag is marked. -/
theorem copyIssued_postCopy {s : State} {gd : Guard} {c : Iss} (hc : issuer s gd = some c) {i : Instr} {op : CopyOp}
    (hx : exec i s = .next (postCopy s c i op)) (hgid : op.gid = c.gid) (hctx : op.ctx = c.g.ctx) (hi : op.instr = i)
    (hflag : op.flag = c.flag i) (hacc : op.accepted = false) (hfin : op.finished = false) :
    copyIssued i s c op.cls (postCopy s c i op) { op with id := s.nextId, stamp := s.nextId } := by
  have hg : Map.find (postCopy s c i op).groups c.gid = some (c.afterCopy i op s.nextId) := by simp [postCopy_eq]
  have hops : ((postCopy s c i op).coreAt c.g.core).ops =
      (s.coreAt c.g.core).ops ++ [{ op with id := s.nextId, stamp := s.nextId }] := by
    show (Map.get Core.reset (Map.put s.cores c.g.core _) c.g.core).ops = _
    rw [Map.get_put, if_pos rfl]
    rfl
  refine ⟨hx, hops, rfl, hgid, hctx, hi, rfl, hflag, hacc, hfin, rfl, rfl, rfl, _, hg, c.oc_afterCopy i op _, ?_, ?_, ?_, ?_, ?_⟩
  · exact (congrArg Group.v (c.afterCopy_frame i op s.nextId) :)
  · exact (congrArg Group.s (c.afterCopy_frame i op s.nextId) :)
  · exact (congrArg Group.p (c.afterCopy_frame i op s.nextId) :)
  · have h := flagMarked_markFlag c i (c.g.advance c.pos) (c.g.advance_cf c.pos)
    rwa [flagMarked, ← hflag, ← c.cf_afterCopy i op s.nextId, hflag] at h
  · exact ⟨c.sp.fall, c.splits_afterCopy i op _ ▸ Iss.find_fall hc, rfl, rfl⟩

/-! ### The instructions that issue (R271, R278, R282) -/

section
variable {s : State} {f : EFmt} {c : Iss} (hc : issuer s f.r.g = some c) (hon : c.on ≠ 0)
include hc hon

theorem cpyt_malformed (h : shapeOk (c.pair0 f) (c.pair1 f) f.cc = false) : trapsAs (.cpyt f) s c { cause := cIllegal, detail := 4 } := by
  refine trapsAs_of_asOnce hc hon rfl ?_
  show (if (!shapeOk (c.pair0 f) (c.pair1 f) f.cc) = true then _ else _) = _
  rw [h]
  rfl

theorem cpyt_issues (hshape : shapeOk (c.pair0 f) (c.pair1 f) f.cc = true) (hfits : linearFits s c.g (c.pair0 f) (c.pair1 f) = true)
    (hbar : barAlign c f = .ok ()) (hcc : f.cc ≠ .coll) (hhold : c.g.holds c.sp.word (.cpyt f) = false) :
    exec (.cpyt f) s = .next (postCopy s c (.cpyt f) (c.copyOp f (.cpyt f) f.cc)) := by
  show execCpyt f s = _
  unfold execCpyt
  rw [asOnce_on hc hon]
  simp [Iss.copyOp, hshape, hfits, hbar, holdAtIssue_ok hhold, hcc]
  rfl

theorem cpyt_coll_issues (hshape : shapeOk (c.pair0 f) (c.pair1 f) f.cc = true)
    (hfits : linearFits s c.g (c.pair0 f) (c.pair1 f) = true) (hbar : barAlign c f = .ok ()) (hcc : f.cc = .coll)
    (hhold : c.g.holds c.sp.word (.cpyt f) = false) {cgid : Option Nat}
    (hcgid : (peekRecord s c.g (BitVec.ofNat 64 (bits (c.pair0 f) 55 0))).map (fun r => leAt r 0x1C 2) = cgid)
    (hbusy : cgidBusy s c.g.ctx cgid = false) :
    exec (.cpyt f) s = .next (postCopy s c (.cpyt f) { c.copyOp f (.cpyt f) f.cc with coll := cgid.map waitingColl }) := by
  show execCpyt f s = _
  unfold execCpyt
  rw [asOnce_on hc hon]
  rw [hcc] at hshape
  simp [Iss.copyOp, hshape, hfits, hbar, holdAtIssue_ok hhold, hcc, hcgid, hbusy]
  rfl

/-! ### Rows of a gather or scatter (R278) -/

omit hon in
/-- Where the guard holds in no active lane GATH, SCAT and GATH.TH pass on. -/
theorem rows_pass (h0 : c.on = 0) : ∀ i ∈ [Instr.gath f, .scat f, .gathTh f], completesAs i s c c.g := by
  have hrows (i : Instr) : issueRows f i s = .next (c.done s c.g) := by
    unfold issueRows
    rw [asGroup_eq hc, h0]
    rfl
  have hth : execGathTh f s = .next (c.done s c.g) := by
    unfold execGathTh
    rw [asGroup_eq hc, h0]
    rfl
  simp only [List.forall_mem_cons, List.not_mem_nil, false_implies, implies_true, and_true]
  exact ⟨hrows _, hrows _, hth⟩

/-- The lanes whose row lies beyond the team memory. -/
def rowsBeyond (s : State) (c : Iss) (f : EFmt) : Mask :=
  maskOf (fun l => c.on.getLsbD l &&
    decide (teamSize s c.g < bits (c.pair1 f) 47 16 + l * bits (c.pair1 f) 15 0 + bits (c.pair1 f) 15 0))

omit hc hon in
theorem getLsbD_rowsBeyond {l : Nat} : (rowsBeyond s c f).getLsbD l = true ↔ l < 32 ∧ c.on.getLsbD l = true ∧
    teamSize s c.g < bits (c.pair1 f) 47 16 + l * bits (c.pair1 f) 15 0 + bits (c.pair1 f) 15 0 := by
  simp [rowsBeyond, getLsbD_maskOf]

omit hc hon in
theorem rowsBeyond_eq_zero_iff : rowsBeyond s c f = 0 ↔ ∀ l, l < 32 → c.on.getLsbD l = true →
    ¬ teamSize s c.g < bits (c.pair1 f) 47 16 + l * bits (c.pair1 f) 15 0 + bits (c.pair1 f) 15 0 := by
  constructor
  · intro h0 l hl hon hb
    have := getLsbD_rowsBeyond.2 ⟨hl, hon, hb⟩
    rw [h0] at this
    simp at this
  · intro hin
    refine BitVec.eq_of_getLsbD_eq fun l hl => (Bool.eq_false_iff.2 fun hb => ?_).trans BitVec.getLsbD_zero.symm
    obtain ⟨-, hlon, hbeyond⟩ := getLsbD_rowsBeyond.1 hb
    exact hin l hl hlon hbeyond

/-- The trap of a gather or scatter whose rows lie beyond the team memory. -/
def rowsTrap (s : State) (c : Iss) (f : EFmt) : Trap :=
  { cause := cPerm, detail := 4, lanes := rowsBeyond s c f,
    addr := (lanesOf (rowsBeyond s c f)).map (fun l => (l, BitVec.ofNat 64 (bits (c.pair1 f) 47 16 + l * bits (c.pair1 f) 15 0))) }

/-- A gather or scatter with a malformed pair traps; with rows beyond the team memory it traps in their lanes; else its engine has it. -/
theorem issueRows_eq (i : Instr) : issueRows f i s = finishGroup s c (
    if rowShapeOk (c.pair0 f) (c.pair1 f) = false then .error (.trap { cause := cIllegal, detail := 4 })
    else if rowsBeyond s c f ≠ 0 then .error (.trap (rowsTrap s c f))
    else do
      barAlign c f
      holdAtIssue c i
      return postCopy s c i { c.copyOp f i .gath with
        mask := c.act, idx := (lanesOf c.on).map (fun l => (l, c.g.rdV c.fc f.r.a.toNat l)) }) := by
  unfold issueRows
  rw [asGroup_eq hc]
  congr 1
  rw [if_neg (by simpa using hon)]
  by_cases hshape : rowShapeOk (c.pair0 f) (c.pair1 f) = false
  · rw [if_pos hshape, if_pos (by simpa [Iss.copyOp] using hshape)]
    rfl
  · rw [if_neg hshape, if_neg (by simpa [Iss.copyOp] using hshape)]
    show (if (rowsBeyond s c f != 0) = true then _ else _) = _
    by_cases hout : rowsBeyond s c f = 0
    · rw [if_neg (by simpa using hout), if_neg (by simpa using hout)]
    · rw [if_pos (by simpa using hout), if_pos (by simpa using hout)]
      rfl

/-- The VFMT of a tensor handle (R281). -/
def handleFmt (th : Line) : Nat := th.toNat / 2 ^ 16 % 2 ^ 8

/-- GATH.TH refuses a handle, a record or a window that do not match (R282). -/
def gathThRefused (f : EFmt) (a : MRec) (th : Line) (ty : Nat) (w : DWord) : Bool :=
  ty == 0 || a.fmt != handleFmt th || a.blk != 0 || decide (a.rstr < f.imm.toNat * (vfmtSize (handleFmt th) + 2)) || bits w 63 48 != 0

theorem gathTh_issues {a : MRec} {th : Line} {ty : Nat} (ha : c.record s f.pair.toNat = .ok a)
    (hth : c.g.rdTh c.fc f.r.b.toNat = (th, ty)) (hty : ty ≠ 0) (hfmt : a.fmt = handleFmt th) (hblk : a.blk = 0)
    (hrow : f.imm.toNat * (vfmtSize (handleFmt th) + 2) ≤ a.rstr) (hwin : bits (c.g.rdS c.fc f.r.c.toNat) 63 48 = 0)
    (hbar : barAlign c f = .ok ()) (hhold : c.g.holds c.sp.word (.gathTh f) = false) :
    exec (.gathTh f) s = .next (postCopy s c (.gathTh f) { c.copyOp f (.gathTh f) .gath with
      idx := (lanesOf c.on).map (fun l => (l, c.g.rdV c.fc f.r.a.toNat l)), handle := th,
      window := c.g.rdS c.fc f.r.c.toNat, dstSps := [.buf a.id a.gen], dstLen := f.imm.toNat * (vfmtSize (handleFmt th) + 2),
      rows := (lanesOf c.on).map (fun l => (l, l * a.rstr)) }) := by
  have hok : ¬ gathThRefused f a th ty (c.g.rdS c.fc f.r.c.toNat) = true := by
    simp [gathThRefused, hty, hfmt, hblk, hwin, hrow]
  show execGathTh f s = _
  unfold execGathTh
  rw [asGroup_eq hc, if_neg (by simpa using hon), hth, ha]
  show finishGroup s c (if gathThRefused f a th ty (c.g.rdS c.fc f.r.c.toNat) = true then _ else _) = _
  rw [if_neg hok, hbar, holdAtIssue_ok hhold]
  rfl

end

end Sys2Proof.Machine

open Sys2Proof Sys2Proof.Machine Sys2Proof.Claims

/-- Settles O35: what each instruction leaves of its issuer and its engine. -/
theorem copiesIssue : Obligations.CopiesIssue := by
  unfold Obligations.CopiesIssue
  refine ⟨fun s f c hc => ⟨?_, ?_, ?_⟩, fun s f c hc => ⟨?_, ?_, ?_, ?_, ?_, ?_⟩⟩
  · exact fun h0 => asOnce_off hc h0 _
  · exact fun hon hle => ⟨_, waitcnt_passes hc hon hle, ownCopies_frame s _ _, fun hq => ownCopies_of_nil hq _ _⟩
  · intro hon hlt
    refine ⟨_, _, waitcnt_holds hc hon hlt, ?_, rfl, c.g.advance_frame c.pos, fun p hp => ?_⟩
    · rw [Map.find_modify, if_pos rfl, Iss.find_fall hc]; rfl
    · rw [Map.find_modify, if_neg hp, Group.find_advance, if_neg hp]
  · intro i hi h0
    obtain rfl | hi := List.mem_cons.1 hi
    · exact asOnce_off hc h0 _
    · exact rows_pass hc h0 i hi
  · exact cpyt_malformed hc
  · intro hon hshape hfits hbar hcc hhold
    exact ⟨_, _, copyIssued_postCopy hc (cpyt_issues hc hon hshape hfits hbar hcc hhold) rfl rfl rfl rfl rfl rfl, rfl, rfl, rfl⟩
  · intro cgid hon hshape hfits hbar hcc hhold hbusy
    have h := copyIssued_postCopy hc (cpyt_coll_issues hc hon hshape hfits hbar hcc hhold rfl hbusy) rfl rfl rfl rfl rfl rfl
    exact ⟨_, _, hcc ▸ h, rfl, rfl, rfl, rfl⟩
  · intro i hi hon
    have hx : exec i s = issueRows f i s := by
      obtain rfl | rfl : i = .gath f ∨ i = .scat f := by simpa using hi
      · rfl
      · rfl
    rw [issueRows_eq hc hon] at hx
    refine ⟨fun hbad => ?_, fun hok => ⟨?_, ?_⟩⟩
    · rw [if_pos hbad] at hx
      exact hx
    · rintro ⟨l, hl, hlon, hb⟩
      rw [if_neg (by simp [hok]), if_pos fun h0 => rowsBeyond_eq_zero_iff.1 h0 l hl hlon hb] at hx
      exact ⟨rowsTrap s c f, hx, rfl, rfl, fun l hl => getLsbD_rowsBeyond.trans (and_iff_right hl)⟩
    · intro hin hbar hhold
      rw [if_neg (by simp [hok]), if_neg (not_not.2 (rowsBeyond_eq_zero_iff.2 hin)), hbar, holdAtIssue_ok hhold] at hx
      exact ⟨_, _, copyIssued_postCopy hc hx rfl rfl rfl rfl rfl rfl, rfl, rfl, rfl, rfl⟩
  · intro a hon ha th v hty hfmt hblk hrow hwin hbar hhold
    exact ⟨_, _, copyIssued_postCopy hc (gathTh_issues hc hon ha rfl hty hfmt hblk hrow hwin hbar hhold) rfl rfl rfl rfl rfl rfl,
      rfl, rfl, rfl, rfl⟩

end

section
/-!
PROOFS. Fetch, urgency, congestion and throttling (O42): sorting by a key, the order of choice, what a step's end leaves of the
throttled groups, and the three events.
-/
namespace Sys2Proof.Machine
open Sys2Proof.Claims

/-! ### Sorting by a key -/

section
variable {α : Type} (key : α → List Nat)

/-- No element is before one of a smaller key. -/
def Ordered (l : List α) : Prop := l.Pairwise (fun x y => ¬ key y < key x)

theorem ordered_insertBy (x : α) (l : List α) (h : Ordered key l) : Ordered key (insertBy key x l) := by
  induction l with
  | nil => exact List.pairwise_singleton _ _
  | cons y t ih =>
    obtain ⟨hy, ht⟩ := List.pairwise_cons.1 h
    unfold insertBy
    split
    · next hxy =>
      have hxy := of_decide_eq_true hxy
      refine List.pairwise_cons.2 ⟨fun z hz => ?_, h⟩
      obtain rfl | hz := List.mem_cons.1 hz
      · exact List.lt_asymm hxy
      · exact fun hzx => hy z hz (List.lt_trans hzx hxy)
    · next hxy =>
      have hxy := of_decide_eq_false (Bool.eq_false_iff.2 hxy)
      refine List.pairwise_cons.2 ⟨fun z hz => ?_, ih ht⟩
      obtain rfl | hz := List.mem_cons.1 ((insertBy_perm key x t).mem_iff.1 hz)
      · exact hxy
      · exact hy z hz

theorem ordered_sortBy (l : List α) : Ordered key (sortBy key l) :=
  List.foldlRecOn (motive := Ordered key) l _ .nil (fun acc h x _ => ordered_insertBy key x acc h)

/-- No element past the first `n` in order has a smaller key than one of them. -/
theorem not_lt_of_take (l : List α) (n : Nat) {a b : α} (ha : a ∈ (sortBy key l).take n) (hb : b ∈ l)
    (hn : b ∉ (sortBy key l).take n) : ¬ key b < key a := by
  have hsorted := ordered_sortBy key l
  rw [Ordered, ← List.take_append_drop n (sortBy key l), List.pairwise_append] at hsorted
  have hbl : b ∈ sortBy key l := (sortBy_perm key l).mem_iff.2 hb
  rw [← List.take_append_drop n (sortBy key l), List.mem_append] at hbl
  exact hsorted.2.2 a ha b (hbl.resolve_left hn)

end

/-! ### The groups that a partition chooses (R96) -/

/-- The memory-bound groups of a partition of a core. -/
def boundOn (s : State) (core part : Nat) : List (Nat × Group) :=
  s.groups.filter (fun g => g.2.core == core && g.2.part == part && memoryBound s g)

theorem mem_boundOn {s : State} {core part : Nat} {x : Nat × Group} :
    x ∈ boundOn s core part ↔ x ∈ s.groups ∧ x.2.core = core ∧ x.2.part = part ∧ memoryBound s x = true := by
  simp [boundOn, and_assoc]

/-- The first of them in the order of choice, as many as the level allows. -/
def firstBound (s : State) (core part : Nat) : List (Nat × Group) :=
  (sortBy (fun g => farKey g.2) (boundOn s core part)).take (levelAllows s core)

theorem execThrottleReselect_eq (s : State) (core part : Nat) : exec (.throttleReselect core part) s =
    .next (s.putCore core { s.coreAt core with
      allowed := Map.put (s.coreAt core).allowed part ((firstBound s core part).map Prod.fst) }) := rfl

theorem mem_boundOn_of_firstBound {s : State} {core part : Nat} {x : Nat × Group} (h : x ∈ firstBound s core part) :
    x ∈ boundOn s core part := (sortBy_perm _ _).mem_iff.1 (List.mem_of_mem_take h)

theorem firstBound_length (s : State) (core part : Nat) :
    (firstBound s core part).length = min (levelAllows s core) (boundOn s core part).length := by
  rw [firstBound, List.length_take, (sortBy_perm _ _).length_eq]

theorem firstBound_nodup {s : State} (hd : distinctKeys s.groups) (core part : Nat) : ((firstBound s core part).map Prod.fst).Nodup := by
  have hbound : ((boundOn s core part).map Prod.fst).Nodup := hd.sublist (List.filter_sublist.map _)
  have hsorted := ((sortBy_perm (fun g : Nat × Group => farKey g.2) (boundOn s core part)).map Prod.fst).nodup_iff.2 hbound
  exact hsorted.sublist ((List.take_sublist _ _).map _)

/-- A group whose number is chosen is one of those chosen. -/
theorem mem_firstBound_of_chosen {s : State} (hd : distinctKeys s.groups) {core part a : Nat} {g : Group}
    (hg : Map.find s.groups a = some g) (h : a ∈ (firstBound s core part).map Prod.fst) : (a, g) ∈ firstBound s core part := by
  obtain ⟨⟨k, g'⟩, hx, rfl⟩ := List.mem_map.1 h
  obtain ⟨hmem, -⟩ := mem_boundOn.1 (mem_boundOn_of_firstBound hx)
  have hg' := Map.find_of_mem hd hmem
  rw [hg] at hg'
  cases hg'
  exact hx

/-! ### The throttled groups at the end of a step (R96) -/

/-- A partition's memory-bound groups that are not throttled are among so many as its core allows, and only a memory-bound group is
throttled. -/
def throttlesRight (s : State) : Prop :=
  (∀ core part, ∃ allowed : List Nat, allowed.length ≤ levelAllows s core ∧
    ∀ x ∈ boundOn s core part, x.2.throttled = false → x.1 ∈ allowed) ∧
  ∀ x ∈ s.groups, x.2.throttled = true → memoryBound s x = true

/-- What a group waits for does not depend on whether it is throttled. -/
theorem memoryBound_throttled (s : State) (gs : SMap Group) (k : Nat) (g : Group) (b : Bool) :
    memoryBound { s with groups := gs } (k, { g with throttled := b }) = memoryBound s (k, g) := rfl

theorem throttlesRight_throttleAll (s : State) : throttlesRight (throttleAll s) := by
  unfold throttleAll
  split
  · next hnone =>
    simp only [List.all_eq_true, Bool.and_eq_true, Bool.not_eq_true'] at hnone
    refine ⟨fun core part => ⟨[], Nat.zero_le _, fun x hx _ => ?_⟩, fun x hx ht => ?_⟩
    · obtain ⟨hmem, -, -, hb⟩ := mem_boundOn.1 hx
      rw [(hnone x hmem).1] at hb
      cases hb
    · rw [(hnone x hx).2] at ht
      cases ht
  · refine ⟨fun core part => ⟨allowedNow s core part, ?_, fun x hx hfree => ?_⟩, fun x hx ht => ?_⟩
    · rw [allowedNow, List.length_map]
      exact List.length_take_le _ _
    · obtain ⟨hmem, rfl, rfl, hb⟩ := mem_boundOn.1 hx
      obtain ⟨y, -, rfl⟩ := List.mem_map.1 hmem
      simpa [memoryBound_throttled s _ y.1 y.2 _ ▸ hb] using hfree
    · obtain ⟨y, -, rfl⟩ := List.mem_map.1 hx
      exact (Bool.and_eq_true_iff.1 ht).1

/-- The state `t` is `s` for throttling: the same levels and RED entries that are held elsewhere, and no group that is not one of `s`
but for its splits. -/
def sameThrottles (s t : State) : Prop :=
  t.quads = s.quads ∧ t.barRed = s.barRed ∧ t.gridBars = s.gridBars ∧
    ∀ x ∈ t.groups, ∃ y ∈ s.groups, y.1 = x.1 ∧ { x.2 with splits := y.2.splits } = y.2

theorem sameThrottles_of_groups {s t : State} (hq : t.quads = s.quads) (hb : t.barRed = s.barRed) (hg : t.gridBars = s.gridBars)
    (h : t.groups = s.groups) : sameThrottles s t := ⟨hq, hb, hg, fun x hx => ⟨x, h ▸ hx, rfl, rfl⟩⟩

theorem sameThrottles_trans {s t u : State} (h1 : sameThrottles s t) (h2 : sameThrottles t u) : sameThrottles s u := by
  obtain ⟨hq1, hb1, hg1, hgroups1⟩ := h1
  obtain ⟨hq2, hb2, hg2, hgroups2⟩ := h2
  refine ⟨hq2.trans hq1, hb2.trans hb1, hg2.trans hg1, fun x hx => ?_⟩
  obtain ⟨y, hy, hyx, hsame1⟩ := hgroups2 x hx
  obtain ⟨z, hz, hzy, hsame2⟩ := hgroups1 y hy
  exact ⟨z, hz, hzy.trans hyx, (congrArg (fun g : Group => { g with splits := z.2.splits }) hsame1 :).trans hsame2⟩

theorem memoryBound_congr {s t : State} (hb : t.barRed = s.barRed) (hg : t.gridBars = s.gridBars) {x y : Nat × Group} (hxy : y.1 = x.1)
    (h : { x.2 with splits := y.2.splits } = y.2) : memoryBound t x = memoryBound s y := by
  have hred : redHeld t x.1 x.2 = redHeld s y.1 y.2 := by
    unfold redHeld
    rw [hb, hg, hxy, (congrArg Group.red h.symm :)]
  unfold memoryBound
  rw [hred, (congrArg Group.ocCopy h.symm :), (congrArg Group.ocGath h.symm :), (congrArg Group.ocColl h.symm :),
    (congrArg Group.entries h.symm :)]

theorem throttlesRight_congr {s t : State} (h : sameThrottles s t) (hs : throttlesRight s) : throttlesRight t := by
  obtain ⟨hq, hb, hg, hgroups⟩ := h
  obtain ⟨hfree, honly⟩ := hs
  constructor
  · intro core part
    obtain ⟨allowed, hlen, hin⟩ := hfree core part
    have hlevel : levelAllows t core = levelAllows s core := by rw [levelAllows, quadAt, hq]; rfl
    refine ⟨allowed, hlevel ▸ hlen, fun x hx hth => ?_⟩
    obtain ⟨hmem, hcore, hpart, hbound⟩ := mem_boundOn.1 hx
    obtain ⟨y, hy, hyx, hsame⟩ := hgroups x hmem
    rw [← hyx]
    refine hin y (mem_boundOn.2 ⟨hy, ?_, ?_, ?_⟩) ?_
    · rw [← hcore, ← hsame]
    · rw [← hpart, ← hsame]
    · rw [← hbound, memoryBound_congr hb hg hyx hsame]
    · rw [← hth, ← hsame]
  · intro x hx hth
    obtain ⟨y, hy, hyx, hsame⟩ := hgroups x hx
    rw [memoryBound_congr hb hg hyx hsame]
    refine honly y hy ?_
    rw [← hth, ← hsame]

/-- Of groups with distinct numbers no more are memory-bound and unthrottled than are allowed. -/
theorem unthrottled_le {s : State} (h : throttlesRight s) (hd : distinctKeys s.groups) (core part : Nat) :
    ((boundOn s core part).filter (fun g => !g.2.throttled)).length ≤ levelAllows s core := by
  obtain ⟨allowed, hlen, hin⟩ := h.1 core part
  have hnodup : (((boundOn s core part).filter (fun g => !g.2.throttled)).map Prod.fst).Nodup :=
    hd.sublist ((List.filter_sublist.trans List.filter_sublist).map _)
  have hsub : ((boundOn s core part).filter (fun g => !g.2.throttled)).map Prod.fst ⊆ allowed := by
    intro k hk
    obtain ⟨x, hx, rfl⟩ := List.mem_map.1 hk
    obtain ⟨hx, hth⟩ := List.mem_filter.1 hx
    exact hin x hx (by simpa using hth)
  calc ((boundOn s core part).filter (fun g => !g.2.throttled)).length
    _ = (((boundOn s core part).filter (fun g => !g.2.throttled)).map Prod.fst).length := (List.length_map _).symm
    _ ≤ allowed.length := (hnodup.subperm hsub).length_le
    _ ≤ levelAllows s core := hlen

/-! ### What follows the throttling in a step -/

theorem writeDiff_frame (s : State) (a : Nat) (old new : List Byte) :
    { writeDiff s a old new with mem := s.mem, poison := s.poison } = s := by
  unfold writeDiff
  split
  · rfl
  · split
    · rfl
    · refine List.foldlRecOn (motive := fun t : State => { t with mem := s.mem, poison := s.poison } = s) _ _ rfl fun t ht x _ => ?_
      split
      · exact ht
      · exact ht

/-- The state differs in bytes of memory and their poison alone. -/
def sameButMem (s t : State) : Prop := { t with mem := s.mem, poison := s.poison } = s

theorem sameButMem_trans {s t u : State} (h1 : sameButMem s t) (h2 : sameButMem t u) : sameButMem s u :=
  (congrArg (fun x : State => { x with mem := s.mem, poison := s.poison }) h2 :).trans h1

theorem followGroup_frame (before s : State) (gid : Nat) (g : Group) : sameButMem s (followGroup before s gid g) := by
  unfold followGroup
  split
  · split
    · exact rfl
    · exact sameButMem_trans (sameButMem_trans (writeDiff_frame ..) (writeDiff_frame ..)) (writeDiff_frame ..)
  · exact rfl

theorem followTeam_frame (before s : State) (tid : Nat) (t : Team) : sameButMem s (followTeam before s tid t) := by
  unfold followTeam
  split
  · split
    · exact rfl
    · exact writeDiff_frame ..
  · exact rfl

theorem followSaved_frame (before s : State) : sameButMem s (followSaved before s) := by
  unfold followSaved
  refine List.foldlRecOn (motive := sameButMem s) _ _ ?_ fun t ht x _ => sameButMem_trans ht (followTeam_frame ..)
  exact List.foldlRecOn (motive := sameButMem s) _ _ rfl fun t ht x _ => sameButMem_trans ht (followGroup_frame ..)

theorem throttlesRight_finish (before s : State) : throttlesRight (finish before s) := by
  unfold finish
  extract_lets s1 s2 s3 s4
  have h := followSaved_frame before (throttleAll (stepGrid s4))
  refine throttlesRight_congr ?_ (throttlesRight_throttleAll (stepGrid s4))
  exact sameThrottles_of_groups (congrArg State.quads h :) (congrArg State.barRed h :) (congrArg State.gridBars h :)
    (congrArg State.groups h :)

theorem demotions_sameThrottles (s : State) : sameThrottles s (demotions s) := by
  unfold demotions
  split
  · exact sameThrottles_of_groups rfl rfl rfl rfl
  · refine ⟨rfl, rfl, rfl, fun x hx => ?_⟩
    obtain ⟨y, hy, rfl⟩ := List.mem_map.1 hx
    refine ⟨y, hy, ?_⟩
    dsimp only
    split
    · exact ⟨rfl, rfl⟩
    · exact ⟨rfl, rfl⟩

theorem passOver_sameThrottles (before s : State) (gid pos : Nat) : sameThrottles s (passOver before s gid pos) := by
  unfold passOver
  split
  · exact sameThrottles_of_groups rfl rfl rfl rfl
  · split
    · exact sameThrottles_of_groups rfl rfl rfl rfl
    · refine ⟨rfl, rfl, rfl, fun x hx => ?_⟩
      dsimp only at hx
      unfold Map.modify at hx
      split at hx
      · exact ⟨x, hx, rfl, rfl⟩
      · next g hg =>
        obtain rfl | hx := Map.mem_put hx
        · exact ⟨_, Map.mem_of_find hg, rfl, rfl⟩
        · exact ⟨x, hx, rfl, rfl⟩

/-! ### How a step ends -/

/-- The state is what the end of a step leaves, or what it leaves when a split has issued and passed over others (R87). -/
def endsStep (t : State) : Prop :=
  (∃ a b, t = endStep a b) ∨ ∃ a b u gid pos, t = demotions (passOver u (finish a b) gid pos)

theorem issueOne_next {first : Bool} {gid pos : Nat} {s0 s t : State} (h : issueOne first gid pos s0 s = .next t) :
    ∃ a b, t = finish a b := by
  unfold issueOne at h
  split at h
  · cases h
  · exact ⟨_, _, (Issued.next.inj h).symm⟩
  · split at h
    · split at h
      · cases h
      · exact ⟨_, _, (Issued.next.inj h).symm⟩
    · cases h
    · cases h

theorem issueOne_stop {first : Bool} {gid pos : Nat} {s0 s t : State} : issueOne first gid pos s0 s ≠ .stop (.next t) := by
  unfold issueOne
  split
  · simp
  · simp
  · split
    · split <;> simp
    · simp
    · simp

theorem tryIssue_next {gid pos : Nat} {s t : State} (h : tryIssue gid pos s = .next t) : ∃ a b, t = finish a b := by
  unfold tryIssue at h
  split at h
  · next hfirst =>
    split at h
    · exact issueOne_next h
    · exact Issued.next.inj h ▸ issueOne_next hfirst
  · exact issueOne_next h

theorem tryIssue_stop {gid pos : Nat} {s t : State} : tryIssue gid pos s ≠ .stop (.next t) := by
  unfold tryIssue
  split
  · split
    · exact issueOne_stop
    · simp
  · exact issueOne_stop

theorem runInstr_ends {i : Instr} {s t : State} (h : runInstr i s = .next t) : endsStep t := by
  unfold runInstr at h
  split at h
  · exact .inl ⟨_, _, (Host.Outcome.next.inj h).symm⟩
  · cases h
  · cases h

theorem runIssue_ends {gid pos : Nat} {s t : State} (h : runIssue gid pos s = .next t) : endsStep t := by
  unfold runIssue at h
  split at h
  · exact .inl ⟨_, _, (Host.Outcome.next.inj h).symm⟩
  · exact .inl ⟨_, _, (Host.Outcome.next.inj h).symm⟩
  · next o hstop => exact absurd (h ▸ hstop) tryIssue_stop
  · next s1 hnext =>
    rw [← Host.Outcome.next.inj h, issuedState]
    split
    · exact .inl ⟨_, _, rfl⟩
    · obtain ⟨a, b, hfinish⟩ := tryIssue_next hnext
      exact .inr ⟨a, b, s, gid, pos, by rw [hfinish]⟩

theorem runScribe_ends {proc : Nat} {s t : State} (h : runScribe proc s = .next t) : endsStep t := by
  unfold runScribe at h
  split at h
  · exact .inl ⟨_, _, (Host.Outcome.next.inj h).symm⟩
  · exact .inl ⟨_, _, (Host.Outcome.next.inj h).symm⟩
  · exact .inl ⟨_, _, (Host.Outcome.next.inj h).symm⟩
  · exact runInstr_ends h

theorem runAct_ends {a : Act} {s t : State} (h : runAct a s = .next t) : endsStep t := by
  cases a with
  | issue gid pos => exact runIssue_ends h
  | clock core part =>
    simp only [runAct] at h
    split at h
    · exact runIssue_ends h
    · exact .inl ⟨_, _, (Host.Outcome.next.inj h).symm⟩
  | scribe proc => exact runScribe_ends h
  | command =>
    simp only [runAct] at h
    split at h
    · exact .inl ⟨_, _, (Host.Outcome.next.inj h).symm⟩
    · cases h
    · cases h
  | event i => exact runInstr_ends h

theorem step_ends {s t : State} (h : step s = .next t) : endsStep t := by
  unfold step at h
  split at h
  split at h
  · exact runAct_ends h
  · split at h
    · exact runInstr_ends h
    · cases h

theorem throttlesRight_demotions {s : State} (h : throttlesRight s) : throttlesRight (demotions s) :=
  throttlesRight_congr (demotions_sameThrottles s) h

theorem throttlesRight_passOver {s : State} (h : throttlesRight s) (before : State) (gid pos : Nat) :
    throttlesRight (passOver before s gid pos) := throttlesRight_congr (passOver_sameThrottles before s gid pos) h

theorem throttlesRight_of_endsStep {t : State} (h : endsStep t) : throttlesRight t := by
  obtain ⟨a, b, ht⟩ | ⟨a, b, u, gid, pos, ht⟩ := h
  · rw [ht, endStep]
    exact throttlesRight_demotions (throttlesRight_finish a b)
  · rw [ht]
    exact throttlesRight_demotions (throttlesRight_passOver (throttlesRight_finish a b) u gid pos)

/-! ### Fetch and congestion (R72, R289) -/

/-- The end of a fetch: a line of right parity that is not poisoned is kept in the core's caches. -/
def keepLine (s s1 : State) (g : Group) (key place : Nat) (line : Line) : Except (Nat × Nat) (Line × State) :=
  let core := Map.get Core.reset s.cores g.core
  if !parityOk line then .error (cMachine, 1)
  else if poisoned s.poison place 64 then .error (cMachine, 2)
  else .ok (line, { s1 with cores := Map.put s1.cores g.core { core with icache := Map.put core.icache key line } })

theorem keepLine_ok {s s1 t : State} {g : Group} {key place : Nat} {line x : Line} (hs : { s1 with tlb := s.tlb } = s)
    (h : keepLine s s1 g key place line = .ok (x, t)) : parityOk x = true ∧ sameButFetch s t := by
  unfold keepLine at h
  split at h
  · cases h
  · next hparity =>
    split at h
    · cases h
    · cases h
      refine ⟨by simpa using hparity, (congrArg (fun x : State => { x with cores := s.cores }) hs :), fun k => ?_⟩
      have hcores : s1.cores = s.cores := (congrArg State.cores hs :)
      dsimp only
      rw [Map.get_put, hcores]
      split
      · next hk => rw [hk]
      · rfl

/-- A fetch writes no DIRTY bit (R251). -/
theorem holdLeaf_fetch (s : State) (core ctx root : Nat) (l : Leaf) : { holdLeaf s core ctx root l .x with tlb := s.tlb } = s := rfl

/-- A line that is fetched has right parity, and the fetch changes translations held and lines held alone. -/
theorem peekLine_ok {s s1 : State} {g : Group} {va : Nat} {refill : Bool} {line : Line} (h : peekLine s g va refill = .ok (line, s1)) :
    parityOk line = true ∧ sameButFetch s s1 := by
  unfold peekLine at h
  cases hx : xlate s g.core g.ctx (rootOf s g) (BitVec.ofNat 64 va) .x with
  | error e => rw [hx] at h; cases h
  | ok r =>
    obtain ⟨tg, s2⟩ := r
    rw [hx] at h
    obtain ⟨l, -, -, -, rfl⟩ := xlate_ok hx
    cases tg with
    | peer rank => cases h
    | loc pa size repl page =>
      change keepLine s _ g (lineKey s g va) _ _ = .ok _ at h
      exact keepLine_ok (holdLeaf_fetch s g.core g.ctx (rootOf s g) l) h

theorem congestionWindow_eq {s : State} {quad : Nat} (m : Nat) (hq : quad < 16) (hw : windowEnds s quad = true) :
    exec (.congestionWindow quad m) s =
      .next { s with quads := Map.put s.quads quad { quadAt s quad with level := levelOf m, window := s.tick / 256 } } := by
  show execCongestionWindow quad m s = _
  rw [execCongestionWindow, if_neg (by simp [hq, hw])]

end Sys2Proof.Machine

open Sys2Proof Sys2Proof.Machine Sys2Proof.Claims

/-- Settles O42: the chosen groups are the first in order, and every step ends with the throttling of its groups. -/
theorem fetchAndAge : Obligations.FetchAndAge := by
  unfold Obligations.FetchAndAge
  refine ⟨?_, ?_, ?_, ?_, ?_⟩
  · intro s core part hd bound
    have hbound {a : Nat} {g : Group} (h : bound a g) : (a, g) ∈ boundOn s core part := mem_boundOn.2 ⟨Map.mem_of_find h.1, h.2⟩
    refine ⟨_, _, execThrottleReselect_eq s core part, rfl, ?_, firstBound_nodup hd core part, fun gid hgid => ?_, ?_⟩
    · rw [List.length_map]
      exact firstBound_length s core part
    · obtain ⟨x, hx, rfl⟩ := List.mem_map.1 hgid
      obtain ⟨hmem, hrest⟩ := mem_boundOn.1 (mem_boundOn_of_firstBound hx)
      exact ⟨x.2, Map.find_of_mem hd hmem, hrest⟩
    · intro a b g h ha hb hain hbout
      exact not_lt_of_take (fun g => farKey g.2) (boundOn s core part) (levelAllows s core)
        (mem_firstBound_of_chosen hd ha.1 hain) (hbound hb) fun hmem => hbout (List.mem_map_of_mem hmem)
  · intro s t hstep hd
    have h := throttlesRight_of_endsStep (step_ends hstep)
    refine ⟨fun core part => ?_, h.2⟩
    simpa [boundOn, List.filter_filter, Bool.and_comm] using unthrottled_le h hd core part
  · intro s s1 gid pos refill g sp line hg hsp hline hparked hexit hpeek
    refine ⟨?_, peekLine_ok hpeek⟩
    show execFetchLine gid pos refill s = _
    simp [execFetchLine, hg, hsp, hline, hparked, hexit, hpeek]
  · intro s gid g hg hissue hage
    show execGroupUrgent gid s = _
    have hyoung : ¬ g.age s < 256 := Nat.not_lt.2 hage
    simp [execGroupUrgent, hg, hissue, hyoung]
  · intro s quad m hq hw hclock
    refine ⟨_, congestionWindow_eq m hq ?_, ?_, ?_, rfl⟩
    · simp [windowEnds, hw, hclock]
    · simp [quadAt, Map.get_put]
    · simp only [quadAt, Map.get_put, if_true, levelOf, ← Nat.lt_succ_iff]

end

section
/-!
PROOFS. A step runs the decoded instruction (O56): what a split that stands at a slot prepares, and the step that issues it.
-/
namespace Sys2Proof.Machine
open Sys2Proof.Claims

/-! ### What a split prepares to issue (R53, R59, R70) -/

/-- Reading spilled records back changes no split. -/
theorem refreshSpilled_splits (s : State) (g : Group) : (refreshSpilled s g).splits = g.splits := by
  unfold refreshSpilled
  split <;> rfl

section
variable {s : State} {gid pos : Nat} {g : Group} {sp : Split} {line : Line}

/-- A null slot at which no clause begins has no instruction. -/
theorem next_of_nullSlot (hline : sp.line = some line) (hnull : nullSlot line (slotOf sp.pc) = true)
    (h29 : bit (lineWord line) 29 = false ∨ sp.entered = true) : sp.next = none := by
  have hentry : ¬ (bit (lineWord line) 29 && !sp.entered) = true := by
    obtain h | h := h29
    · simp [h]
    · simp [h]
  unfold Split.next
  rw [hline]
  dsimp only
  rw [if_neg hentry, if_pos hnull]

theorem prepareAt_null (h : standsAt s gid pos g sp line) (hnext : sp.next = none) (first : Bool) :
    prepareAt first s gid pos = .done (s.putG gid (g.setSplit pos sp.fall)) := by
  obtain ⟨⟨g0, hg0, rfl⟩, hsp, hruns, hwait, hline⟩ := h
  have hover : sp.overNull = true := by simp [Split.overNull, hwait, hline, hnext]
  unfold prepareAt
  simp only [hg0, hsp, hruns, hover]
  rfl

variable {i : Instr} (h : mayRun s gid pos g sp line i)
include h

/-- A split may enter or stand in its line where line word bit 29 and the clause WAIT allow it. -/
theorem entry_of_mayRun : (bit (lineWord line) 29 && !sp.entered) = false ∧ (sp.entered || waitClear g (lineWord line)) = true := by
  obtain ⟨-, hentry, -⟩ := h
  obtain h | ⟨hclear, hbit⟩ := hentry
  · simp [h]
  · simp [hclear, hbit]

theorem next_of_mayRun : sp.next = some (.ok i) := by
  have hentry := (entry_of_mayRun h).1
  obtain ⟨⟨-, -, -, -, hline⟩, -, hslot, hdecode, -⟩ := h
  have hempty : (lineSlot line (slotOf sp.pc) == 0) = false := beq_false_of_ne hslot
  have hnonnull : nullSlot line (slotOf sp.pc) = false := by simp only [nullSlot, hempty, Bool.false_and]
  unfold Split.next
  rw [hline]
  dsimp only
  rw [hentry, hnonnull, hempty, hdecode]
  rfl

theorem checkSlot_of_mayRun :
    checkSlot g s.free (sp.only.getD sp.mask) line sp.entered (slotOf sp.pc) = .ok i := by
  have hentry := (entry_of_mayRun h).1
  obtain ⟨-, -, hslot, hdecode, -, hbudget, hpair, hpoison⟩ := h
  have hempty : (lineSlot line (slotOf sp.pc) == 0) = false := beq_false_of_ne hslot
  unfold checkSlot
  dsimp only
  rw [hentry, hempty, hdecode]
  simp [hbudget, hpair, hpoison]

theorem prepareAt_mayRun (first : Bool) : prepareAt first s gid pos = .go i (issuedAt first s gid pos g sp i) := by
  have hcheck := checkSlot_of_mayRun h
  have hnext := next_of_mayRun h
  have hentry := (entry_of_mayRun h).2
  obtain ⟨⟨⟨g0, hg0, rfl⟩, hsp, hruns, hwait, hline⟩, -, -, -, hholds, -⟩ := h
  have hover : sp.overNull = false := by simp [Split.overNull, hnext]
  have hword : sp.word = lineWord line := by simp [Split.word, hline]
  have hready : sp.ready (refreshSpilled s g0) = true := by simp [Split.ready, hwait, hnext, hword, hentry, hword ▸ hholds]
  unfold prepareAt
  simp only [hg0, hsp, hruns, hover, hready, hline, hcheck]
  rfl

/-! ### Its issue -/

theorem issueOne_fault {first : Bool} {s0 : State} {f : Fault} (hx : exec i (issuedAt first s gid pos g sp i) = .fault f) :
    issueOne first gid pos s0 s = .stop (.fault f) := by
  unfold issueOne
  simp only [prepareAt_mayRun h, hx]

theorem issueOne_refused {first : Bool} {s0 : State} {r : Refusal} (hx : exec i (issuedAt first s gid pos g sp i) = .refused r) :
    issueOne first gid pos s0 s = .stop (.refused r) := by
  unfold issueOne
  simp only [prepareAt_mayRun h, hx]

theorem issueOne_held {first : Bool} {s0 t : State} (hx : exec i (issuedAt first s gid pos g sp i) = .next t) (hcur : t.cur = none) :
    issueOne first gid pos s0 s = .held (heldAct i (issuedAt first s gid pos g sp i) s0)
      (drainsFirst i (issuedAt first s gid pos g sp i)) := by
  unfold issueOne
  simp only [prepareAt_mayRun h, hx, hcur]
  rfl

theorem issueOne_issues {first : Bool} {s0 t : State} (hx : exec i (issuedAt first s gid pos g sp i) = .next t) (hcur : t.cur ≠ none) :
    issueOne first gid pos s0 s = .next (finish (issuedAt first s gid pos g sp i) t) := by
  have hsome : t.cur.isNone = false := by simpa [Option.isSome_iff_ne_none] using hcur
  unfold issueOne
  simp only [prepareAt_mayRun h, hx, hsome]
  rfl

end

/-! ### The step (R53, R58, R59) -/

section
variable {s s0 : State} {rest : List Act} {gid pos : Nat} (hpower : s.powered = true) (hagenda : s.agenda = .issue gid pos :: rest)
  (hs0 : s0 = { s with agenda := rest })

/-- The next act of the agenda is what a step does. -/
theorem step_agenda {s : State} {a : Act} {rest : List Act} (hpower : s.powered = true) (hagenda : s.agenda = a :: rest) :
    step s = runAct a { s with agenda := rest } := by
  unfold step nextAct
  rw [hagenda]
  simp [hpower]

include hpower hagenda hs0

theorem step_issue : step s = runIssue gid pos s0 := by
  rw [step_agenda hpower hagenda, hs0]
  rfl

theorem step_stop {o : Host.Outcome State Fault Refusal} (h : tryIssue gid pos s0 = .stop o) : step s = o := by
  rw [step_issue hpower hagenda hs0, runIssue, h]

theorem step_held {u : State} {b : Bool} (h : tryIssue gid pos s0 = .held u b) : step s = .next (endStep s0 u) := by
  rw [step_issue hpower hagenda hs0, runIssue, h]

theorem step_issues {u : State} (h : tryIssue gid pos s0 = .next u) : step s = .next (issuedState s0 u gid pos) := by
  rw [step_issue hpower hagenda hs0, runIssue, h]

end

section
variable {s u : State} {gid pos : Nat}

theorem tryIssue_of_stop {o : Host.Outcome State Fault Refusal} (h : issueOne true gid pos s s = .stop o) :
    tryIssue gid pos s = .stop o := by rw [tryIssue, h]

theorem tryIssue_of_held {b : Bool} (h : issueOne true gid pos s s = .held u b) : tryIssue gid pos s = .held u b := by rw [tryIssue, h]

/-- One instruction that is not the first of a pair issues alone. -/
theorem tryIssue_alone (h : issueOne true gid pos s s = .next u) (hpair : pairNext s u gid pos = false) :
    tryIssue gid pos s = .next u := by
  rw [tryIssue, h]
  dsimp only
  rw [hpair]
  rfl

/-- The second of a pair decides what the first comes to. -/
theorem tryIssue_pair (h : issueOne true gid pos s s = .next u) (hpair : pairNext s u gid pos = true) :
    tryIssue gid pos s = issueOne false gid pos s u := by
  rw [tryIssue, h]
  dsimp only
  rw [if_pos hpair]

end

/-! ### Scribe processors (R361) -/

theorem scribeWord_decodes {s : State} {p : Nat} {x : Scribe} {v : Invocation} {j : ScribeJob} {i : Instr} (hx : x = s.scribeAt p)
    (hinv : x.inv = some v) (hjob : x.jobs.find? (fun j => j.job == v.job) = some j) (hsteps : v.steps < j.slim)
    (hdecode : decodeScribe (Map.get 0 x.code (16 * j.cbase + v.word)).toNat = some i) :
    scribeWord s p = some (.ok (some i,
      { s.putScribe p { x with inv := some { v with steps := v.steps + 1 } } with curProc := some p })) := by
  have hfind : Map.find s.scribes p = some x := by
    cases hf : Map.find s.scribes p with
    | none =>
      have hreset : x = Scribe.reset := by rw [hx, State.scribeAt, Map.get, hf]; rfl
      rw [hreset] at hinv
      cases hinv
    | some y => rw [hx, State.scribeAt, Map.get, hf]; rfl
  have hkernel : kernelOf { s with curProc := some p } = some { proc := p, x := x, inv := v, job := j } := by
    simp [kernelOf, hfind, hinv, hjob]
  unfold scribeWord
  rw [hkernel]
  dsimp only
  rw [if_neg (Nat.not_le.2 hsteps), hdecode]

theorem idle_of_endsStep {t : State} (h : endsStep t) : t.idle = true := by
  obtain ⟨a, b, ht⟩ | ⟨a, b, u, gid, pos, ht⟩ := h
  · rw [ht, endStep_idle]
  · rw [ht, demotions_idle, passOver_idle, finish_idle]

end Sys2Proof.Machine
end

section
/-!
PROOFS. The end of a step never makes a core's accumulators pending (R237, R414): only an instruction that names a row of a core
it does not own raises ACC_NOT_OWNED, so a step in which no instruction executes yields to no other partition's.
-/
namespace Sys2Proof.Machine
open Sys2Proof.Claims

/-! ### AOWN.PEND (R237) -/

/-- No core's AOWN.PEND is set in `t` that is not set in `s`. -/
def noNewPend (s t : State) : Prop := ∀ k, bit (t.coreAt k).aown 7 = true → bit (s.coreAt k).aown 7 = true

theorem noNewPend.refl (s : State) : noNewPend s s := fun _ h => h

theorem noNewPend.trans {s t u : State} (h1 : noNewPend s t) (h2 : noNewPend t u) : noNewPend s u := fun k h => h1 k (h2 k h)

theorem noNewPend_foldl {α : Type} {f : State → α → State} (h : ∀ s x, noNewPend s (f s x)) (l : List α) (s : State) :
    noNewPend s (l.foldl f s) :=
  List.foldlRecOn (motive := noNewPend s) l f (.refl s) (fun t ht x _ => ht.trans (h t x))

theorem raisesPend_of_noNewPend {s t : State} (h : noNewPend s t) (core : Nat) : raisesPend s t core = false := by
  unfold raisesPend
  cases hb : bit (t.coreAt core).aown 7 with
  | false => simp
  | true => simp [h core hb]

theorem coreAt_putCore (s : State) (n k : Nat) (x : Core) : (s.putCore n x).coreAt k = if k = n then x else s.coreAt k :=
  Map.get_put _ _ _ _ _

/-- A core that is put back with its PEND as it was, or clear. -/
theorem noNewPend_putCore (s : State) (n : Nat) {x : Core} (h : bit x.aown 7 = true → bit (s.coreAt n).aown 7 = true) :
    noNewPend s (s.putCore n x) := by
  intro k hk
  rw [coreAt_putCore] at hk
  split at hk
  · next hkn => rw [hkn]; exact h hk
  · exact hk

/-- Cores that are changed each by itself with their AOWN as it was. -/
theorem noNewPend_mapCores {s t : State} {f : Nat × Core → Core} (ht : t.cores = s.cores.map (fun c => (c.1, f c)))
    (hf : ∀ c, (f c).aown = c.2.aown) : noNewPend s t := by
  intro k hk
  have hfind : Map.find t.cores k = (Map.find s.cores k).map (fun v => f (k, v)) := by
    rw [ht]
    exact Map.find_map_values s.cores (fun c => (c.1, f c)) (fun _ => rfl) k
  unfold State.coreAt Map.get at hk ⊢
  rw [hfind] at hk
  cases hs : Map.find s.cores k with
  | none => rw [hs] at hk; exact hk
  | some c => rw [hs] at hk; simpa [hf] using hk

/-- A core that is changed with its AOWN as it was. -/
theorem noNewPend_modifyCore {s t : State} {n : Nat} {f : Core → Core} (ht : t.cores = Map.modify s.cores n f)
    (hf : ∀ c, (f c).aown = c.aown) : noNewPend s t := by
  intro k hk
  unfold State.coreAt Map.get at hk ⊢
  rw [ht, Map.find_modify] at hk
  split at hk
  · next hkn =>
    subst hkn
    cases hs : Map.find s.cores k with
    | none => rw [hs] at hk; exact hk
    | some c => rw [hs] at hk; simpa [hf] using hk
  · exact hk

/-- A trap of any other cause sets no PEND (R414). -/
theorem raiseTrap_noNewPend (s : State) (r : Raiser) {t : Trap} (h : t.cause ≠ cAccNotOwned) : noNewPend s (raiseTrap s r t) := by
  unfold raiseTrap
  split
  · exact .refl s
  · split
    · exact .refl s
    · next g _ _ =>
      have hcore (x : Core) (hx : x.aown = if t.cause == cAccNotOwned then (s.coreAt g.core).aown ||| 0x80 else (s.coreAt g.core).aown) :
          noNewPend s (s.putCore g.core x) := by
        refine noNewPend_putCore s g.core fun hb => ?_
        rwa [hx, if_neg (by simpa using h)] at hb
      dsimp only
      split
      · exact hcore _ rfl
      · exact hcore _ rfl

/-! ### Translations, writes and messages -/

theorem applyFrames_noNewPend (s : State) (pa n : Nat) : noNewPend s (applyFrames s pa n) :=
  noNewPend_foldl (f := fun s (u : FrameUpd) => s.wr u.pa u.bytes) (fun s _ => .refl s) _ s

theorem wrFrame_noNewPend (s : State) (pa : Nat) (bs : List Byte) : noNewPend s (wrFrame s pa bs) :=
  applyFrames_noNewPend s pa bs.length

theorem wrTgt_noNewPend (s : State) (w : Writer) (pa size : Nat) (repl prop : Bool) (bs : List Byte) :
    noNewPend s (wrTgt s w pa size repl prop bs) := by
  unfold wrTgt
  split
  · exact wrFrame_noNewPend _ _ _
  · split
    · exact noNewPend_foldl (fun s a => wrFrame_noNewPend s a bs) _ s
    · exact wrFrame_noNewPend s (pa + w.die * size) bs

theorem xlate_noNewPend {s t : State} {core ctx root : Nat} {va : DWord} {a : Acc} {tg : Tgt}
    (h : xlate s core ctx root va a = .ok (tg, t)) : noNewPend s t := by
  obtain ⟨l, -, -, -, rfl⟩ := xlate_ok h
  unfold holdLeaf
  dsimp only
  split
  · exact .refl s
  · exact .refl s

theorem walkFrom_cause {s : State} {va c d : Nat} {levels : List (Nat × Nat × Nat)} {tbl : Nat}
    (h : walkFrom s va levels tbl = .error (c, d)) : c ≠ cAccNotOwned := by
  induction levels generalizing tbl with
  | nil => cases h; decide
  | cons level rest ih =>
    obtain ⟨sh, n, size⟩ := level
    unfold walkFrom at h
    dsimp only at h
    split at h
    · cases h; decide
    · split at h
      · cases h; decide
      · split at h
        · split at h
          · cases h
          · cases h; decide
        · split at h
          · cases h; decide
          · exact ih h

theorem walk_cause {s : State} {root : Nat} {va : DWord} {c d : Nat} (h : walk s root va = .error (c, d)) : c ≠ cAccNotOwned := by
  unfold walk at h
  split at h
  · cases h; decide
  · exact walkFrom_cause h

theorem leafFor_cause {s : State} {core root : Nat} {va : DWord} {a : Acc} {c d : Nat} (h : leafFor s core root va a = .error (c, d)) :
    c ≠ cAccNotOwned := by
  unfold leafFor at h
  split at h
  · split at h
    · cases h
    · exact walk_cause h
  · exact walk_cause h

theorem leafPerm_cause {l : Leaf} {a : Acc} {c d : Nat} (h : leafPerm l a = .error (c, d)) : c ≠ cAccNotOwned := by
  unfold leafPerm at h
  split at h
  all_goals
    split at h
    · cases h
    · cases h; decide

/-- A translation fails with a cause of its own (R249, R250). -/
theorem xlate_cause {s : State} {core ctx root : Nat} {va : DWord} {a : Acc} {c d : Nat} (h : xlate s core ctx root va a = .error (c, d)) :
    c ≠ cAccNotOwned := by
  unfold xlate at h
  cases hl : leafFor s core root va a with
  | error e =>
    rw [hl] at h
    cases h
    exact leafFor_cause hl
  | ok l =>
    rw [hl] at h
    cases hp : leafPerm l a with
    | error e =>
      simp only [hp, bind, Except.bind] at h
      cases h
      exact leafPerm_cause hp
    | ok _ => simp [hp, bind, Except.bind, pure, Except.pure] at h

theorem send_noNewPend (s : State) (m : OutMsg) : noNewPend s (s.send m) := by
  unfold State.send
  split
  · exact .refl s
  · exact .refl s

theorem nack_noNewPend (s : State) (p : Packet) (detail cause sub : Nat) : noNewPend s (s.nack p detail cause sub) := by
  unfold State.nack
  split
  · exact .refl s
  · exact send_noNewPend _ _

theorem enqueue_noNewPend {s t : State} {h : Hook} {p : Packet} {dir : Nat} (e : enqueue s h p dir = some t) : noNewPend s t := by
  unfold enqueue at e
  dsimp only at e
  split at e
  · cases e
  · cases e
    exact .refl s

theorem sendOut_noNewPend (s : State) (p : Packet) (m : OutMsg) : noNewPend s (sendOut s p m) := by
  unfold sendOut
  split
  · exact send_noNewPend s m
  · split
    · next hq => exact enqueue_noNewPend hq
    · exact .refl s

theorem sendReq_noNewPend (s : State) (r : FabReq) : noNewPend s (sendReq s r) := sendOut_noNewPend _ r.pkt (.request r.pkt)

theorem postWrite_noNewPend (s : State) (gid : Nat) (r : FabReq) : noNewPend s (postWrite s gid r) := by
  unfold postWrite
  split
  · exact .refl s
  · split
    · exact sendOut_noNewPend _ r.pkt (.request r.pkt)
    · exact .refl s

/-! ### Cached lines and objects -/

theorem farRed_noNewPend (s : State) (gid core key : Nat) : noNewPend s (farRed s gid core key) := by
  unfold farRed
  dsimp only
  split
  · exact noNewPend_putCore s core id
  · exact .refl s

theorem farPatch_noNewPend (s : State) (core key o : Nat) (bs : List Byte) : noNewPend s (farPatch s core key o bs) := by
  unfold farPatch
  dsimp only
  split
  · exact .refl s
  · exact noNewPend_putCore s core id

theorem farDrop_noNewPend (s : State) (core key : Nat) : noNewPend s (farDrop s core key) := noNewPend_putCore s core id

theorem farDropAll_noNewPend (s : State) (key : Nat) : noNewPend s (farDropAll s key) :=
  noNewPend_foldl (fun s core => farDrop_noNewPend s core key) _ s

theorem objWr_noNewPend (s : State) (loc : ObjLoc) (o : Nat) (bs : List Byte) : noNewPend s (objWr s loc o bs) := by
  unfold objWr
  split
  · exact .refl s
  · exact noNewPend_foldl (fun s a => wrFrame_noNewPend s (a + o) bs) _ s

theorem objSeen_noNewPend (s : State) (core : Nat) (loc : ObjLoc) (n : Nat) : noNewPend s (objSeen s core loc n) := by
  unfold objSeen
  split
  · exact .refl s
  · exact noNewPend_foldl (fun t a => farPatch_noNewPend t core _ _ _) _ s

theorem barWr_noNewPend (s : State) (loc : ObjLoc) (o : BarObj) (src : ApplySrc) : noNewPend s (barWr s loc o src) := by
  unfold barWr
  dsimp only
  split
  · exact (objWr_noNewPend _ _ _ _).trans (objSeen_noNewPend _ _ _ _)
  · exact objWr_noNewPend _ _ _ _

theorem storeMq_noNewPend (s : State) (q : MQ) : noNewPend s (storeMq s q) := objWr_noNewPend s (.phys q.pa) 0 q.m.bytes

/-! ### Publishing and refreshing -/

theorem refreshAt_noNewPend (s : State) (core scope : Nat) : noNewPend s (refreshAt s core scope) := by
  unfold refreshAt
  split
  · exact .refl s
  · exact noNewPend_modifyCore rfl fun _ => rfl

theorem noNewPend_of_cores {s t : State} (h : t.cores = s.cores) : noNewPend s t := by
  intro k hk
  rwa [State.coreAt, h] at hk

theorem learn_noNewPend (s : State) (gid scope : Nat) : noNewPend s (learn s gid scope) := noNewPend_of_cores (learn_cores s gid scope)

theorem refreshGroup_noNewPend (s : State) (gid scope : Nat) : noNewPend s (refreshGroup s gid scope) := by
  unfold refreshGroup
  split
  · exact .refl s
  · exact (refreshAt_noNewPend (s.putG gid _) _ scope).trans (learn_noNewPend _ _ _)

theorem published_noNewPend (s : State) (gid scope : Nat) : noNewPend s (published s gid scope) := by
  unfold published
  split
  · exact .refl s
  · split
    · exact .refl s
    · exact .refl s

theorem discardLines_noNewPend (s : State) (core ctx : Nat) : noNewPend s (discardLines s core ctx) :=
  noNewPend_modifyCore rfl fun _ => rfl

/-! ### Draining RED entries (R266) -/

/-- What performing an access comes to sets no PEND, and its fault is no ACC_NOT_OWNED. -/
def Perf.setsNoPend (s : State) : Perf → Prop
  | .wait | .faultAt .. => True
  | .done t _ _ | .sent t | .posted t _ => noNewPend s t
  | .fault t c _ _ => noNewPend s t ∧ c ≠ cAccNotOwned

theorem atomAt_noNewPend {s t : State} {w : Writer} {pa size : Nat} {repl prop : Bool} {op ety n b c old : Nat}
    (h : atomAt s w pa size repl prop op ety n b c = .ok (old, t)) : noNewPend s t := by
  unfold atomAt at h
  dsimp only at h
  split at h
  · cases h
  · split at h
    · cases h
    · split at h
      · cases h
      · cases h
        exact wrTgt_noNewPend _ _ _ _ _ _ _

theorem atomAt_error_setsNoPend {s : State} {w : Writer} {pa size : Nat} {repl prop : Bool} {op ety n b c : Nat} {p : Perf}
    (h : atomAt s w pa size repl prop op ety n b c = .error p) : p.setsNoPend s := by
  unfold atomAt at h
  dsimp only at h
  split at h
  · cases h; exact ⟨.refl s, by decide⟩
  · split at h
    · cases h; trivial
    · split at h
      · cases h; exact ⟨.refl s, by decide⟩
      · cases h

theorem Perf.setsNoPend_trans {s t : State} {p : Perf} (h : noNewPend s t) (hp : p.setsNoPend t) : p.setsNoPend s := by
  cases p with
  | wait => trivial
  | faultAt => trivial
  | done => exact h.trans hp
  | sent => exact h.trans hp
  | posted => exact h.trans hp
  | fault => exact ⟨h.trans hp.1, hp.2⟩

theorem drainOne_setsNoPend (s : State) (r : RedEntry) : (drainOne s r).setsNoPend s := by
  unfold drainOne
  split
  · exact .refl s
  · split
    · trivial
    · split
      · next hx => exact ⟨.refl s, xlate_cause hx⟩
      · next hx =>
        split
        · next ha => exact Perf.setsNoPend_trans (xlate_noNewPend hx) (atomAt_error_setsNoPend ha)
        · next ha => exact ((xlate_noNewPend hx).trans (atomAt_noNewPend ha)).trans (farRed_noNewPend _ _ _ _)
      · next s1 hx =>
        split
        · trivial
        · have hpost := postWrite_noNewPend { s1 with nextId := s1.nextId + 1 } r.gid
          exact (xlate_noNewPend hx).trans ((hpost _).trans (farRed_noNewPend _ _ _ _))

theorem drainFault_noNewPend (s : State) (r : RedEntry) {c : Nat} (d aux : Nat) (h : c ≠ cAccNotOwned) :
    noNewPend s (drainFault s r c d aux) := raiseTrap_noNewPend _ _ h

theorem drainList_noNewPend (s : State) (rs : List RedEntry) : noNewPend s (drainList s rs).2 := by
  induction rs generalizing s with
  | nil => exact .refl s
  | cons r t ih =>
    have hone := drainOne_setsNoPend s r
    unfold drainList
    split
    · next hd => rw [hd] at hone; exact hone.trans (ih _)
    · exact .refl s
    · exact .refl s
    · next hd => rw [hd] at hone; exact hone
    · next hd => rw [hd] at hone; exact hone
    · next hd =>
      rw [hd] at hone
      split
      · exact (hone.1.trans (drainFault_noNewPend _ _ _ _ hone.2)).trans (ih _)
      · split
        · exact .refl s
        · exact hone.1.trans (drainFault_noNewPend _ _ _ _ hone.2)

theorem drainGroup_noNewPend (s : State) (gid : Nat) : noNewPend s (drainGroup s gid) := by
  unfold drainGroup
  split
  · exact .refl s
  · exact drainList_noNewPend s _

theorem flushPoint_noNewPend (s : State) (gid : Nat) : noNewPend s (flushPoint s gid) := drainGroup_noNewPend _ gid

theorem releaseRed_noNewPend (s : State) (gid id : Nat) : noNewPend s (releaseRed s gid id) := by
  unfold releaseRed
  dsimp only
  split
  · exact .refl s
  · exact drainGroup_noNewPend _ gid

theorem drainHeld_noNewPend (s : State) (loc : ObjLoc) : noNewPend s (drainHeld s loc) := drainList_noNewPend s _

/-! ### Applications to barrier objects (R293 to R302) -/

theorem entryOver_noNewPend (s : State) (gid id : Nat) : noNewPend s (entryOver s gid id) := by
  unfold entryOver
  split
  · exact .refl s
  · next g _ =>
    split
    · exact .refl s
    · next e _ =>
      split
      · exact .refl s
      · have hread : noNewPend s (match e.ref with | some scope => learn (refreshAt s g.core scope) gid scope | none => s) := by
          split
          · exact (refreshAt_noNewPend s g.core _).trans (learn_noNewPend _ _ _)
          · exact .refl s
        dsimp only
        split
        · exact hread
        · exact hread

theorem applied_noNewPend (s : State) (src : ApplySrc) : noNewPend s (applied s src) := by
  unfold applied
  split
  · split
    · next e _ => exact entryOver_noNewPend (laneDone s _ e e.mask [] false) _ _
    · exact .refl s
  · exact .refl s

theorem arriveFault_noNewPend (s : State) (gid : Nat) (e : Entry) {c : Nat} (d : Nat) (h : c ≠ cAccNotOwned) :
    noNewPend s (arriveFault s gid e c d) := raiseTrap_noNewPend (modEntry s gid e.id _) _ h

theorem applyLost_noNewPend (s : State) (src : ApplySrc) : noNewPend s (applyLost s src) := by
  unfold applyLost
  split
  · split
    · exact arriveFault_noNewPend _ _ _ _ (by decide)
    · exact .refl s
  · exact raiseTrap_noNewPend _ _ (by decide : cPerm ≠ cAccNotOwned)
  · exact .refl s

theorem wakeGroup_noNewPend (s : State) (gid : Nat) (loc : ObjLoc) (phase : Nat) : noNewPend s (wakeGroup s gid loc phase) := by
  unfold wakeGroup
  split
  · exact .refl s
  · refine noNewPend_foldl (fun s p => ?_) _ s
    split
    · split
      · exact refreshGroup_noNewPend { s with groups := _ } gid _
      · exact .refl s
    · exact .refl s

theorem wakeObj_noNewPend (s : State) (loc : ObjLoc) : noNewPend s (wakeObj s loc) :=
  noNewPend_foldl (fun s gid => wakeGroup_noNewPend s gid loc _) _ s

theorem bringRed_noNewPend (s : State) (src : ApplySrc) : noNewPend s (bringRed s src) := by
  unfold bringRed
  split
  · exact .refl s
  · exact .refl s

theorem applyNow_noNewPend (s : State) (loc : ObjLoc) (ctx a u : Nat) (src : ApplySrc) : noNewPend s (applyNow s loc ctx a u src) := by
  unfold applyNow
  split
  · exact applyLost_noNewPend _ _
  · dsimp only
    split
    · exact (bringRed_noNewPend s src).trans ((barWr_noNewPend _ _ _ _).trans (applied_noNewPend _ _))
    · have hheld := (bringRed_noNewPend s src).trans (drainHeld_noNewPend _ loc)
      split
      · exact hheld.trans ((barWr_noNewPend _ _ _ _).trans ((applied_noNewPend _ _).trans (wakeObj_noNewPend _ _)))
      · exact hheld

theorem applyObj_noNewPend (s : State) (loc : ObjLoc) (ctx a u : Nat) (src : ApplySrc) : noNewPend s (applyObj s loc ctx a u src) := by
  unfold applyObj
  split
  · exact .refl s
  · exact applyNow_noNewPend _ _ _ _ _ _

theorem scratchAt_noNewPend {s t : State} {a : Acc} {core ctx root pa : Nat} {va : DWord}
    (h : scratchAt s a core ctx root va = .ok (pa, t)) : noNewPend s t := by
  unfold scratchAt at h
  cases hx : xlate s core ctx root va a with
  | error e => rw [hx] at h; cases h
  | ok r =>
    obtain ⟨tg, s1⟩ := r
    simp only [hx, bind, Except.bind] at h
    cases tg with
    | peer rank => cases h
    | loc pa size repl prop =>
      dsimp only at h
      split at h
      · cases h
        have hs1 : noNewPend s s1 := xlate_noNewPend hx
        exact hs1
      · cases h

theorem placeAt_noNewPend {s t : State} {a : Acc} {core ctx root team : Nat} {name : DWord} {loc : ObjLoc}
    (h : placeAt s a core ctx root team name = .ok (loc, t)) : noNewPend s t := by
  unfold placeAt at h
  split at h
  · cases h
  · split at h
    · split at h
      · cases h
      · split at h
        · cases h
        · next hsc =>
          cases h
          exact scratchAt_noNewPend hsc
    · split at h
      · cases h
      · split at h
        · cases h
        · split at h
          · cases h
          · cases h
            exact .refl s

theorem scratchAt_cause {s : State} {a : Acc} {core ctx root c d : Nat} {va : DWord}
    (h : scratchAt s a core ctx root va = .error (c, d)) : c ≠ cAccNotOwned := by
  unfold scratchAt at h
  cases hx : xlate s core ctx root va a with
  | error e =>
    rw [hx] at h
    cases h
    exact xlate_cause hx
  | ok r =>
    obtain ⟨tg, s1⟩ := r
    simp only [hx, bind, Except.bind] at h
    cases tg with
    | peer rank => cases h; decide
    | loc pa size repl prop =>
      dsimp only at h
      split at h
      · cases h
      · cases h; decide

theorem placeAt_cause {s : State} {a : Acc} {core ctx root team c d : Nat} {name : DWord}
    (h : placeAt s a core ctx root team name = .error (c, d)) : c ≠ cAccNotOwned := by
  unfold placeAt at h
  split at h
  · cases h; decide
  · split at h
    · split at h
      · cases h; decide
      · split at h
        · next hsc =>
          cases h
          exact scratchAt_cause hsc
        · cases h
    · split at h
      · cases h; decide
      · split at h
        · cases h; decide
        · split at h
          · cases h; decide
          · cases h

theorem credit_noNewPend (s : State) (core ctx root team : Nat) (name : DWord) (bytes rows : Nat) (src : ApplySrc) :
    noNewPend s (credit s core ctx root team name bytes rows src).1 := by
  unfold credit
  split
  · exact .refl s
  · next hp =>
    have hplace := placeAt_noNewPend hp
    split
    · exact .refl s
    · split
      · exact .refl s
      · split
        · exact hplace.trans (applyObj_noNewPend _ _ _ _ _ _)
        · exact hplace.trans (applyObj_noNewPend _ _ _ _ _ _)
        · exact hplace.trans (applyObj_noNewPend _ _ _ _ _ _)

/-! ### Requests of peers (R345, R346) -/

theorem creditRecord_noNewPend (s : State) (ctx : Nat) (bar : DWord) : noNewPend s (creditRecord s ctx bar) :=
  credit_noNewPend _ _ _ _ _ _ _ _ _

theorem replyTo_noNewPend (s : State) (ctx : Nat) (p : Packet) (m : OutMsg) : noNewPend s (replyTo s ctx p m) := by
  unfold replyTo
  have hcredit : noNewPend s (match p.credit with | some bar => creditRecord s ctx bar | none => s) := by
    split
    · exact creditRecord_noNewPend _ _ _
    · exact .refl s
  dsimp only
  split
  · exact hcredit
  · exact hcredit.trans (send_noNewPend _ _)

theorem afterFrames_noNewPend {s : State} (n : Nat) (j : FrameJob) {now : State → State} (h : noNewPend s (now s)) :
    noNewPend s (afterFrames s n j now) := by
  unfold afterFrames
  split
  · exact .refl s
  · exact h

theorem remoteXlate_noNewPend {s t : State} {ctx pa size : Nat} {va : DWord} {a : Acc} {repl prop : Bool}
    (h : remoteXlate s ctx va a = .ok (pa, size, repl, prop, t)) : noNewPend s t := by
  unfold remoteXlate at h
  extract_lets root at h
  cases hx : xlate s hubCore ctx root va a with
  | error e => simp [hx, bind, Except.bind] at h
  | ok r =>
    obtain ⟨tg, s1⟩ := r
    simp only [hx, bind, Except.bind] at h
    cases tg with
    | peer rank => cases h
    | loc => cases h; exact xlate_noNewPend hx

/-- A request that is served sets no PEND. -/
def Served.setsNoPend (s : State) : Served → Prop
  | .done t => noNewPend s t
  | _ => True

theorem serveRead_setsNoPend (s : State) (ctx : Nat) (p : Packet) : (serveRead s ctx p).setsNoPend s := by
  unfold serveRead
  dsimp only
  split
  · trivial
  · next hx =>
    split
    · trivial
    · split
      · trivial
      · exact (remoteXlate_noNewPend hx).trans (send_noNewPend _ _)

theorem serveWrite_setsNoPend (s : State) (ctx : Nat) (p : Packet) : (serveWrite s ctx p).setsNoPend s := by
  unfold serveWrite
  dsimp only
  split
  · trivial
  · next pa size repl prop s1 hx =>
    split
    · trivial
    · split
      · trivial
      · have hwrites (w : Writer) := noNewPend_foldl (f := fun s (b : Nat × List Byte) => wrTgt s w (pa + b.1 % 64) size repl prop b.2)
          (fun s b => wrTgt_noNewPend _ _ _ _ _ _ _) (runsOf (beBytes p)) { s1 with nextId := s1.nextId + 1 }
        exact ((remoteXlate_noNewPend hx).trans (hwrites _)).trans (afterFrames_noNewPend _ _ (replyTo_noNewPend _ _ _ _))

theorem serveAtomic_setsNoPend (s : State) (ctx : Nat) (p : Packet) : (serveAtomic s ctx p).setsNoPend s := by
  unfold serveAtomic
  split
  · exact nack_noNewPend _ _ _ _ _
  · split
    · trivial
    · next s1 hx =>
      dsimp only
      split
      · trivial
      · trivial
      · next s3 hatom =>
        have hs3 : noNewPend { s1 with nextId := s1.nextId + 1 } s3 := atomAt_noNewPend hatom
        exact ((remoteXlate_noNewPend hx).trans hs3).trans (afterFrames_noNewPend _ _ (replyTo_noNewPend _ _ _ _))

theorem serve_setsNoPend (s : State) (ctx : Nat) (p : Packet) : (serve s ctx p).setsNoPend s := by
  unfold serve
  split
  · exact serveRead_setsNoPend s ctx p
  · exact serveWrite_setsNoPend s ctx p
  · exact serveAtomic_setsNoPend s ctx p

theorem remoteFault_noNewPend (s : State) (ctx : Nat) (p : Packet) (cause detail : Nat) :
    noNewPend s (remoteFault s ctx p cause detail) := by
  have hmach : noNewPend s (if cause == cMachine then { s with machChk := s.machChk + 1 } else s) := by
    split
    · exact .refl s
    · exact .refl s
  unfold remoteFault
  generalize (if cause == cMachine then { s with machChk := s.machChk + 1 } else s) = s1 at hmach ⊢
  dsimp only
  split
  · next core _ =>
    split
    · exact hmach.trans (noNewPend_putCore { s1 with nextId := s1.nextId + 1 } core id)
    · exact hmach.trans (nack_noNewPend _ _ _ _ _)
  · exact hmach.trans (nack_noNewPend _ _ _ _ _)

theorem serveOrFault_noNewPend (s : State) (ctx : Nat) (p : Packet) : noNewPend s (serveOrFault s ctx p) := by
  have hserve := serve_setsNoPend s ctx p
  unfold serveOrFault
  split
  · next h => rw [h] at hserve; exact hserve
  · exact remoteFault_noNewPend _ _ _ _ _
  · exact .refl s

/-! ### Resolutions (R387) -/

theorem resolveRemote_noNewPend (s : State) (id mode : Nat) : noNewPend s (resolveRemote s id mode) := by
  unfold resolveRemote
  split
  · exact .refl s
  · extract_lets s1
    have h1 : noNewPend s s1 := .refl s
    split
    · exact h1.trans (serveOrFault_noNewPend _ _ _)
    · exact h1.trans (nack_noNewPend _ _ _ _ _)

theorem clearPend_noNewPend (s : State) (o : Origin) : noNewPend s (clearPend s o) := by
  unfold clearPend
  split
  · refine noNewPend_putCore s o.core fun h => ?_
    simp [bit] at h
  · exact .refl s

theorem resolveOrigin_noNewPend (s : State) (o : Origin) (mode : Nat) (regs : List Word) :
    noNewPend s (resolveOrigin s o mode regs) := .refl s

theorem resolveLane_noNewPend (s : State) (g : Group) (mode lane : Nat) : noNewPend s (resolveLane s g mode lane) := by
  unfold resolveLane
  split
  · exact .refl s
  · next o _ =>
    dsimp only
    split
    · exact (clearPend_noNewPend s o).trans (resolveRemote_noNewPend _ _ _)
    · exact (clearPend_noNewPend s o).trans (resolveOrigin_noNewPend _ _ _ _)

theorem resolveLanes_noNewPend (s : State) (gid mode : Nat) (m : Mask) : noNewPend s (resolveLanes s gid mode m) := by
  unfold resolveLanes
  split
  · exact .refl s
  · next g _ => exact noNewPend_foldl (fun s l => resolveLane_noNewPend s g mode l) _ s

theorem resolveExited_noNewPend (s : State) (gid : Nat) : noNewPend s (resolveExited s gid) := by
  unfold resolveExited
  split
  · exact .refl s
  · dsimp only
    split
    · exact resolveLanes_noNewPend _ _ _ _
    · exact .refl s

theorem renameArrive_noNewPend (s : State) (gid id : Nat) : noNewPend s (renameArrive s gid id) := by
  unfold renameArrive
  split
  · split
    · split
      · next hname => exact arriveFault_noNewPend _ _ _ _ (placeAt_cause hname)
      · next s1 hname =>
        have hs1 : noNewPend s s1 := placeAt_noNewPend hname
        exact hs1
    · exact .refl s
  · exact .refl s

theorem applyReplayed_noNewPend (s : State) (gid : Nat) (r : Resolution) : noNewPend s (applyReplayed s gid r) := by
  unfold applyReplayed
  extract_lets s1 s2
  have h2 : noNewPend s s2 := entryOver_noNewPend s1 _ _
  split
  · exact h2.trans (renameArrive_noNewPend _ _ _)
  · exact h2.trans (releaseRed_noNewPend _ _ _)

theorem applyCompletion_noNewPend (s : State) (gid : Nat) (r : Resolution) : noNewPend s (applyCompletion s gid r) := by
  unfold applyCompletion
  split
  · exact .refl s
  · split
    · dsimp only
      split
      · exact .refl s
      · split
        · exact sendReq_noNewPend (s.putG gid _) _
        · exact .refl s
    · exact noNewPend_mapCores rfl fun _ => rfl

theorem applyResolutions_noNewPend (s : State) (gid : Nat) : noNewPend s (applyResolutions s gid) := by
  unfold applyResolutions
  split
  · exact .refl s
  · split
    · exact .refl s
    · next g _ _ =>
      have hall := noNewPend_foldl (f := fun s (r : Resolution) =>
        if r.origin.logged then applyReplayed s gid r else if r.origin.kind == 2 then applyCompletion s gid r else s) (fun s r => by
          split
          · exact applyReplayed_noNewPend _ _ _
          · split
            · exact applyCompletion_noNewPend _ _ _
            · exact .refl s) g.resolved
      exact hall (s.putG gid _)

theorem reportHeld_noNewPend (s : State) (gid : Nat) : noNewPend s (reportHeld s gid) := by
  unfold reportHeld
  split
  · exact .refl s
  · split
    · exact .refl s
    · exact noNewPend_foldl (fun s h => raiseTrap_noNewPend s _ (by decide : cRemote ≠ cAccNotOwned)) _ (s.putG gid _)

/-! ### Waits of a group that end (R270, R301) -/

theorem endPublish_noNewPend (s : State) (gid pos : Nat) (g : Group) (scope : Scope) (fence : Bool) :
    noNewPend s (endPublish s gid pos g scope fence) := by
  unfold endPublish
  dsimp only
  split
  · exact (published_noNewPend s gid scope.code).trans (discardLines_noNewPend { published s gid scope.code with groups := _ } _ _)
  · exact published_noNewPend s gid scope.code

theorem stepPublish_noNewPend (s : State) (gid : Nat) : noNewPend s (stepPublish s gid) := by
  unfold stepPublish
  split
  · exact .refl s
  · refine noNewPend_foldl (fun s p => ?_) _ s
    split
    · split
      · exact endPublish_noNewPend _ _ _ _ _ _
      · exact .refl s
    · exact .refl s

theorem ownCopies_noNewPend (s : State) (gid : Nat) (cls : OcClass) : noNewPend s (ownCopies s gid cls) :=
  noNewPend_of_cores (congrArg State.cores (ownCopies_frame s gid cls) :)

theorem stepCount_noNewPend (s : State) (gid : Nat) : noNewPend s (stepCount s gid) := by
  unfold stepCount
  split
  · exact .refl s
  · refine noNewPend_foldl (fun s p => ?_) _ s
    split
    · split
      · exact ownCopies_noNewPend s gid _
      · exact .refl s
    · exact .refl s

theorem tidyGroup_noNewPend (s : State) (gid : Nat) : noNewPend s (tidyGroup s gid) :=
  ((((resolveExited_noNewPend s gid).trans (applyResolutions_noNewPend _ _)).trans (reportHeld_noNewPend _ _)).trans
    (stepPublish_noNewPend _ _)).trans (stepCount_noNewPend _ _)

/-! ### What waited for every frame (R324, R346, R373) -/

theorem modOp_noNewPend (s : State) (core id : Nat) (f : CopyOp → CopyOp) : noNewPend s (modOp s core id f) :=
  noNewPend_putCore s core fun h => h

theorem linesLand_noNewPend (s : State) (core id : Nat) (ls : List (Nat × Nat)) : noNewPend s (linesLand s core id ls) := by
  refine noNewPend_foldl (fun s l => ?_) _ s
  split
  · exact .refl s
  · split
    · exact modOp_noNewPend s core id _
    · exact modOp_noNewPend s core id _

theorem uncache_noNewPend (o : CopyOp) (s : State) (keys : List Nat) : noNewPend s (o.uncache s keys) := by
  unfold CopyOp.uncache
  split
  · exact noNewPend_foldl farDropAll_noNewPend keys s
  · exact .refl s

theorem creditOp_noNewPend (s : State) (core : Nat) (g : Group) (o : CopyOp) (team bytes rows : Nat) :
    noNewPend s (creditOp s core g o team bytes rows) := by
  unfold creditOp
  split
  · exact .refl s
  · next name _ =>
    split
    · exact .refl s
    · have hcredit := credit_noNewPend s core o.ctx (rootOf s g) team name bytes rows
        (.engine { gid := o.gid, pos := o.pos, pc := o.pc, act := o.mask, kind := 2, ref := o.id } (nameVa name))
      split
      · next h => rw [h] at hcredit; exact hcredit
      · next h => rw [h] at hcredit; exact hcredit.trans (modOp_noNewPend _ _ _ _)

theorem pieceLanded_noNewPend (s : State) (core : Nat) (g : Group) (o : CopyOp) (first n : Nat) (skip : List Nat) (outs : List RegWrite) :
    noNewPend s (pieceLanded s core g o first n skip outs) := by
  have hmod (f : CopyOp → CopyOp) :
      noNewPend s (modOp (modEntry s o.gid o.id (fun e => { e with outs := e.outs ++ outs })) core o.id f) :=
    modOp_noNewPend (modEntry s _ _ _) core o.id f
  unfold pieceLanded
  dsimp only
  split
  · exact hmod _
  · refine (hmod _).trans (noNewPend_foldl (fun s x => ?_) _ _)
    split
    · exact .refl s
    · exact creditOp_noNewPend _ _ _ _ _ _ _

theorem pieceInFrames_noNewPend (s : State) (core op tag : Nat) (lines : List (Nat × Nat)) :
    noNewPend s (pieceInFrames s core op tag lines) := by
  unfold pieceInFrames
  split
  · exact .refl s
  · split
    · exact (modOp_noNewPend s core op _).trans ((uncache_noNewPend _ _ _).trans
        ((linesLand_noNewPend _ _ _ _).trans (pieceLanded_noNewPend _ _ _ _ _ _ _ _)))
    · exact .refl s

theorem endJob_noNewPend (s : State) (n : Nat) (j : FrameJob) : noNewPend s (endJob s n j) := by
  unfold endJob
  split
  · exact .refl s
  · extract_lets s1
    have h1 : noNewPend s s1 := .refl s
    refine h1.trans ?_
    split
    · split
      · exact replyTo_noNewPend _ _ _ _
      · exact send_noNewPend _ _
    · exact creditRecord_noNewPend _ _ _
    · exact pieceInFrames_noNewPend _ _ _ _ _

theorem endJobs_noNewPend (s : State) : noNewPend s (endJobs s) := by
  unfold endJobs
  refine noNewPend_foldl (fun s j => ?_) _ s
  exact endJob_noNewPend s j.1 j.2

/-! ### Fetches and spills of a settling group (R90 to R94) -/

theorem fetch_noNewPend {s t : State} (h : sameButFetch s t) : noNewPend s t := by
  intro k hk
  have haown : (t.coreAt k).aown = (s.coreAt k).aown := (congrArg Core.aown (h.2 k) :)
  rwa [haown] at hk

theorem keepLine_cause {s s1 : State} {g : Group} {key place c d : Nat} {line : Line}
    (h : keepLine s s1 g key place line = .error (c, d)) : c ≠ cAccNotOwned := by
  unfold keepLine at h
  dsimp only at h
  split at h
  · cases h; decide
  · split at h
    · cases h; decide
    · cases h

theorem peekLine_cause {s : State} {g : Group} {va c d : Nat} {refill : Bool} (h : peekLine s g va refill = .error (c, d)) :
    c ≠ cAccNotOwned := by
  unfold peekLine at h
  cases hx : xlate s g.core g.ctx (rootOf s g) (BitVec.ofNat 64 va) .x with
  | error e => rw [hx] at h; cases h; exact xlate_cause hx
  | ok r =>
    obtain ⟨tg, s1⟩ := r
    rw [hx] at h
    cases tg with
    | peer rank => cases h; decide
    | loc pa size repl page =>
      change keepLine s _ g (lineKey s g va) _ _ = .error _ at h
      exact keepLine_cause h

/-- A transfer's target that is entered, or its trap. -/
theorem targetLine_noNewPend {s t : State} {g : Group} {pc lane : Nat} {line : Line} (h : targetLine s g pc lane = .ok (line, t)) :
    noNewPend s t := by
  unfold targetLine at h
  split at h
  · cases h
  · next hpeek =>
    split at h
    · cases h; exact fetch_noNewPend (peekLine_ok hpeek).2
    · cases h

theorem targetLine_cause {s : State} {g : Group} {pc lane : Nat} {t : Trap} (h : targetLine s g pc lane = .error (.trap t)) :
    t.cause ≠ cAccNotOwned := by
  unfold targetLine at h
  split at h
  · next e hpeek => cases h; exact peekLine_cause (c := e.1) (d := e.2) hpeek
  · split at h
    · cases h
    · cases h; exact (by decide : cBadTarget ≠ cAccNotOwned)

/-- A resumption that is formed sets no PEND, and one that traps does so with no ACC_NOT_OWNED. -/
def formsNoPend (s : State) : Except FormTrap (Group × State) → Prop
  | .ok r => noNewPend s r.2
  | .error f => f.trap.cause ≠ cAccNotOwned

theorem formSplit_noPend (s : State) (g : Group) (r : JoinRec) (pos : Nat) : formsNoPend s (formSplit s g r pos) := by
  unfold formSplit
  split
  · next h => exact targetLine_cause h
  · exact (by decide : cBadTarget ≠ cAccNotOwned)
  · next h => exact targetLine_noNewPend h

theorem rejoin1_noPend {s : State} {g : Group} {r : Except FormTrap (Group × State)} (h : rejoin1 s g = some r) : formsNoPend s r := by
  unfold rejoin1 at h
  split at h
  · cases h; exact .refl s
  · split at h
    · dsimp only at h
      split at h
      · split at h
        · cases h; exact .refl s
        · cases h; exact formSplit_noPend _ _ _ _
      · cases h; exact .refl s
    · split at h
      · cases h; exact .refl s
      · split at h
        · split at h
          · cases h; exact formSplit_noPend _ _ _ _
          · cases h; exact .refl s
        · cases h

theorem spillRead_noNewPend {s t : State} {g : Group} {va : DWord} {b : List Byte} (h : spillRead s g va = .ok (b, t)) : noNewPend s t := by
  unfold spillRead at h
  cases hx : xlate s g.core g.ctx (rootOf s g) va .r with
  | error e => rw [hx] at h; cases h
  | ok r =>
    obtain ⟨tg, s1⟩ := r
    simp only [hx, bind, Except.bind] at h
    cases tg with
    | peer rank => cases h
    | loc =>
      dsimp only at h
      split at h
      · cases h
      · cases h; exact xlate_noNewPend hx

theorem spillRead_cause {s : State} {g : Group} {va : DWord} {c d : Nat} (h : spillRead s g va = .error (c, d)) : c ≠ cAccNotOwned := by
  unfold spillRead at h
  cases hx : xlate s g.core g.ctx (rootOf s g) va .r with
  | error e => rw [hx] at h; cases h; exact xlate_cause hx
  | ok r =>
    obtain ⟨tg, s1⟩ := r
    simp only [hx, bind, Except.bind] at h
    cases tg with
    | peer rank => cases h; decide
    | loc =>
      dsimp only at h
      split at h
      · cases h; decide
      · cases h

theorem spillWrite_noNewPend {s t : State} {gid : Nat} {g : Group} {va : DWord} {b : List Byte} (h : spillWrite s gid g va b = .ok t) :
    noNewPend s t := by
  unfold spillWrite at h
  cases hx : xlate s g.core g.ctx (rootOf s g) va .w with
  | error e => rw [hx] at h; cases h
  | ok r =>
    obtain ⟨tg, s1⟩ := r
    simp only [hx, bind, Except.bind] at h
    cases tg with
    | peer rank => cases h
    | loc =>
      dsimp only at h
      split at h
      · cases h
      · cases h; exact (xlate_noNewPend hx).trans (wrTgt_noNewPend _ _ _ _ _ _ _)

theorem spillWrite_cause {s : State} {gid : Nat} {g : Group} {va : DWord} {b : List Byte} {c d : Nat}
    (h : spillWrite s gid g va b = .error (c, d)) : c ≠ cAccNotOwned := by
  unfold spillWrite at h
  cases hx : xlate s g.core g.ctx (rootOf s g) va .w with
  | error e => rw [hx] at h; cases h; exact xlate_cause hx
  | ok r =>
    obtain ⟨tg, s1⟩ := r
    simp only [hx, bind, Except.bind] at h
    cases tg with
    | peer rank => cases h; decide
    | loc =>
      dsimp only at h
      split at h
      · cases h; decide
      · cases h

/-- What a change to a group's records comes to sets no PEND, and its spill fault is no ACC_NOT_OWNED. -/
def spillsNoPend (s : State) : Except SpillFault (Group × State) → Prop
  | .ok r => noNewPend s r.2
  | .error e => e.1 ≠ cAccNotOwned

theorem spillOldest_noPend (s : State) (gid : Nat) (g : Group) (old : JoinRec) : spillsNoPend s (spillOldest s gid g old) := by
  unfold spillOldest
  dsimp only
  split
  · exact (by decide : cMachine ≠ cAccNotOwned)
  · split
    · next h => exact spillWrite_cause h
    · next h => exact spillWrite_noNewPend h

theorem refillStack_noPend (s : State) (g : Group) (r : JoinRec) : spillsNoPend s (refillStack s g r) := by
  unfold refillStack
  dsimp only
  split
  · next h => exact spillRead_cause h
  · next h => exact spillRead_noNewPend h

theorem stack1_noPend {s : State} {gid : Nat} {g : Group} {r : Except SpillFault (Group × State)} (h : stack1 s gid g = some r) :
    spillsNoPend s r := by
  unfold stack1 at h
  dsimp only at h
  split at h
  · split at h
    · split at h
      · cases h; exact spillOldest_noPend _ _ _ _
      · cases h; exact .refl s
    · cases h; exact .refl s
  · split at h
    · split at h
      · cases h; exact .refl s
      · cases h
    · obtain ⟨q, -, rfl⟩ := Option.map_eq_some_iff.1 h
      exact refillStack_noPend _ _ _

theorem spillsNoPend_trans {s t : State} {r : Except SpillFault (Group × State)} (h : noNewPend s t) (hr : spillsNoPend t r) :
    spillsNoPend s r := by
  cases r with
  | ok r => exact h.trans hr
  | error e => exact hr

theorem stackSync_noPend (s : State) (gid : Nat) (g : Group) (n : Nat) : spillsNoPend s (stackSync s gid g n) := by
  induction n generalizing s g with
  | zero => exact .refl s
  | succ n ih =>
    unfold stackSync
    split
    · exact .refl s
    · next h => exact stack1_noPend h
    · next h => exact spillsNoPend_trans (stack1_noPend h) (ih _ _)

/-- A rewriting of spilled records that sets no PEND, or whose fault is no ACC_NOT_OWNED. -/
def writesNoPend (s : State) : Except SpillFault State → Prop
  | .ok t => noNewPend s t
  | .error e => e.1 ≠ cAccNotOwned

theorem rewriteSpilled_noPend (s : State) (gid : Nat) (old g : Group) : writesNoPend s (rewriteSpilled s gid old g) := by
  unfold rewriteSpilled
  refine List.foldlRecOn (motive := writesNoPend s) _ _ (.refl s) fun acc hacc r _ => ?_
  split
  · dsimp only
    split
    · exact hacc
    · split
      · next h => exact spillWrite_cause h
      · next h => exact noNewPend.trans hacc (spillWrite_noNewPend h)
  · exact hacc

theorem afterEvent_noPend (s : State) (gid : Nat) (old g : Group) : spillsNoPend s (afterEvent s gid old g) := by
  unfold afterEvent
  extract_lets g1
  have hrew : writesNoPend s (if g1.spilledCount == 0 then .ok s else rewriteSpilled s gid old g1) := by
    split
    · exact .refl s
    · exact rewriteSpilled_noPend s gid old g1
  split
  · next h => rw [h] at hrew; exact hrew
  · next h => rw [h] at hrew; exact spillsNoPend_trans hrew (stackSync_noPend _ _ _ _)

/-- Reconvergence that sets no PEND: neither its spill fault nor its trap is ACC_NOT_OWNED. -/
def rejoinsNoPend (s : State) : Except (SpillFault × Option Nat) (State × Group × Option FormTrap) → Prop
  | .ok r => noNewPend s r.1 ∧ ∀ f, r.2.2 = some f → f.trap.cause ≠ cAccNotOwned
  | .error e => e.1.1 ≠ cAccNotOwned

theorem rejoinsNoPend_trans {s t : State} {r : Except (SpillFault × Option Nat) (State × Group × Option FormTrap)}
    (h : noNewPend s t) (hr : rejoinsNoPend t r) : rejoinsNoPend s r := by
  cases r with
  | ok r => exact ⟨h.trans hr.1, hr.2⟩
  | error e => exact hr

theorem rejoin_noPend (gid : Nat) (first : SMap Split) (n : Nat) (who : Option Nat) (s : State) (g : Group) :
    rejoinsNoPend s (rejoin gid first n who s g) := by
  induction n generalizing who s g with
  | zero => exact ⟨.refl s, fun _ h => nomatch h⟩
  | succ n ih =>
    unfold rejoin
    dsimp only
    split
    · exact ⟨.refl s, fun _ h => nomatch h⟩
    · next t hjoin =>
      have ht : t.trap.cause ≠ cAccNotOwned := rejoin1_noPend hjoin
      have hev := afterEvent_noPend s gid g (g.holdRec t.num)
      split
      · next h => rw [h] at hev; exact hev
      · next h =>
        rw [h] at hev
        exact ⟨hev, fun f hf => Option.some.inj hf ▸ ht⟩
    · next g1 s1 hjoin =>
      have h1 : noNewPend s s1 := rejoin1_noPend hjoin
      have hev := afterEvent_noPend s1 gid g g1
      split
      · next h => rw [h] at hev; exact hev
      · next h => rw [h] at hev; exact rejoinsNoPend_trans (h1.trans hev) (ih _ _ _)

/-- A settling that sets no PEND, or whose spill fault is no ACC_NOT_OWNED. -/
def settlesNoPend (s : State) : Settled → Prop
  | .ok t => noNewPend s t
  | .spill c _ _ _ => c ≠ cAccNotOwned

theorem settle_noPend (s : State) (gid : Nat) (old g : Group) : settlesNoPend s (settle s gid old g) := by
  unfold settle
  have hev := afterEvent_noPend s gid old g
  split
  · next h => rw [h] at hev; exact hev
  · next g1 s1 h =>
    rw [h] at hev
    have hre := rejoin_noPend gid g1.splits (16 * (g1.recs.length + 8)) none s1 g1
    split
    · next h => rw [h] at hre; exact hre
    · next s2 g2 h =>
      rw [h] at hre
      exact noNewPend.trans hev hre.1
    · next s2 g2 f h =>
      rw [h] at hre
      obtain ⟨hs2, hf⟩ := hre
      have hput : noNewPend s2 (s2.putG gid g2) := .refl s2
      exact noNewPend.trans hev (hs2.trans (hput.trans (raiseTrap_noNewPend _ _ (hf f rfl))))

theorem noNewPend_of_settle {s t : State} {gid : Nat} {old g : Group} (h : settle s gid old g = .ok t) : noNewPend s t := by
  have hset := settle_noPend s gid old g
  rwa [h] at hset

theorem cause_of_settle {s : State} {gid c d : Nat} {old g : Group} {va : DWord} {who : Option Nat}
    (h : settle s gid old g = .spill c d va who) : c ≠ cAccNotOwned := by
  have hset := settle_noPend s gid old g
  rwa [h] at hset

theorem settleFree_noNewPend (s : State) (gid : Nat) : noNewPend s (settleFree s gid) := by
  unfold settleFree
  split
  · exact .refl s
  · split
    · exact .refl s
    · dsimp only
      split
      · next h => exact noNewPend_of_settle h
      · next h =>
        split
        · exact raiseTrap_noNewPend _ _ (cause_of_settle h)
        · exact raiseTrap_noNewPend _ _ (cause_of_settle h)
        · exact .refl s

theorem blameSpill_noNewPend (s : State) (gid pos : Nat) {c : Nat} (d : Nat) (va : DWord) (h : c ≠ cAccNotOwned) :
    noNewPend s (blameSpill s gid pos c d va) := by
  unfold blameSpill
  split
  · exact .refl s
  · exact raiseTrap_noNewPend _ _ h

theorem settleIssuer_noNewPend {before s : State} (h : noNewPend before s) (gid pos : Nat) :
    noNewPend before (settleIssuer before s gid pos) := by
  unfold settleIssuer
  split
  · exact h
  · split
    · exact h
    · dsimp only
      split
      · next hs => exact h.trans (noNewPend_of_settle hs)
      · next hs => exact blameSpill_noNewPend _ _ _ _ _ (cause_of_settle hs)

theorem passNulls_noNewPend (s : State) (gid : Nat) : noNewPend s (passNulls s gid) := by
  unfold passNulls
  split
  · exact .refl s
  · split <;> exact .refl s

theorem slideNulls_noNewPend (n : Nat) (s : State) : noNewPend s (slideNulls n s) := by
  induction n generalizing s with
  | zero => exact .refl s
  | succ n ih =>
    unfold slideNulls
    split
    · exact ((noNewPend_foldl passNulls_noNewPend _ s).trans (noNewPend_foldl settleFree_noNewPend _ _)).trans (ih _)
    · exact .refl s

/-! ### A group that leaves, and the barriers of the grid (R90, R316, R325 to R331) -/

theorem wakePegs_noNewPend (s : State) (pa seq status : Nat) : noNewPend s (wakePegs s pa seq status) := by
  unfold wakePegs
  refine noNewPend_foldl (fun s gid => ?_) _ s
  split
  · exact .refl s
  · refine noNewPend_foldl (fun s p => ?_) _ s
    split
    · split
      · extract_lets done s1
        have h1 : noNewPend s s1 := .refl s
        split
        · exact h1.trans (refreshGroup_noNewPend _ _ _)
        · exact h1
      · exact .refl s
    · exact .refl s

theorem storeTurn_noNewPend (s : State) (q : MQ) : noNewPend s (storeTurn s q) := by
  unfold storeTurn
  dsimp only
  split
  · split
    · exact (storeMq_noNewPend s q).trans (wakePegs_noNewPend _ _ _ _)
    · exact storeMq_noNewPend s q
  · exact storeMq_noNewPend s q

theorem dropPlace_noNewPend (s : State) (q : MQ) (i : Nat) : noNewPend s (dropPlace s q i) := by
  unfold dropPlace
  split
  · exact (storeMq_noNewPend s _).trans (wakePegs_noNewPend _ _ _ _)
  · exact storeTurn_noNewPend _ _

theorem abandonPegs_noNewPend (s : State) (g : Group) : noNewPend s (abandonPegs s g) := by
  unfold abandonPegs
  refine noNewPend_foldl (fun s qd => ?_) _ s
  refine noNewPend_foldl (fun s i => ?_) _ s
  split
  · exact .refl s
  · exact dropPlace_noNewPend _ _ _

theorem beginExit_noNewPend (s : State) (gid : Nat) : noNewPend s (beginExit s gid) := by
  unfold beginExit
  split
  · exact .refl s
  · split
    · exact .refl s
    · extract_lets s1
      have h1 : noNewPend s s1 := .refl s
      split
      · exact h1.trans (flushPoint_noNewPend _ _)
      · exact h1.trans ((flushPoint_noNewPend _ _).trans (abandonPegs_noNewPend _ _))

theorem modBar_noNewPend (s : State) (launch k : Nat) (f : GridBar → GridBar) : noNewPend s (modBar s launch k f) := .refl s

theorem ensureBar_noNewPend (s : State) (launch k : Nat) : noNewPend s (ensureBar s launch k) := by
  unfold ensureBar
  split <;> exact .refl s

theorem gridTrap_noNewPend (s : State) (launch k gid : Nat) : noNewPend s (gridTrap s launch k gid) := by
  unfold gridTrap
  split
  · exact .refl s
  · split
    · exact .refl s
    · extract_lets pc mine same back back1 g1 s1
      have h1 : noNewPend s s1 := .refl s
      exact h1.trans (raiseTrap_noNewPend _ _ (by decide : cCollMismatch ≠ cAccNotOwned))

theorem gridTraps_noNewPend (s : State) (launch k : Nat) : noNewPend s (gridTraps s launch k) := by
  unfold gridTraps
  split
  · exact .refl s
  · refine noNewPend_foldl (fun s a => ?_) _ s
    exact gridTrap_noNewPend s launch k a.1

theorem gridMismatch_noNewPend (s : State) (launch k gid : Nat) (scope : Scope) : noNewPend s (gridMismatch s launch k gid scope) := by
  unfold gridMismatch
  split
  · exact .refl s
  · exact modBar_noNewPend _ _ _ _

theorem gridArrive_noNewPend (s : State) (gid : Nat) : noNewPend s (gridArrive s gid) := by
  unfold gridArrive
  split
  · exact .refl s
  · split
    · exact .refl s
    · next scope _ _ =>
      extract_lets launch here s1
      have h1 : noNewPend s s1 :=
        (published_noNewPend s gid scope.code).trans ((ensureBar_noNewPend _ _ _).trans (gridMismatch_noNewPend _ _ _ _ _))
      split
      · exact .refl s
      · exact h1.trans ((modBar_noNewPend s1 _ _ _).trans (gridTraps_noNewPend _ _ _))

theorem domainOk_noNewPend (s : State) (b : GridBar) (gid : Nat) : noNewPend s (domainOk s b gid).2 := by
  unfold domainOk
  split
  · exact .refl s
  · split
    · exact .refl s
    · dsimp only
      split
      · exact .refl s
      · exact (modBar_noNewPend s _ _ _).trans (noNewPend_foldl (fun s r => send_noNewPend s _) _ _)

theorem gridComplete_noNewPend (s : State) (b : GridBar) (members : List Nat) (scope : Scope) :
    noNewPend s (gridComplete s b members scope).2 := by
  unfold gridComplete
  have hdrain := drainList_noNewPend s (sortBy RedEntry.key (b.red.filter (fun r => members.contains r.gid)))
  split
  next left s1 hd =>
  rw [hd] at hdrain
  extract_lets s2 s3
  have h2 : noNewPend s s2 := hdrain.trans (modBar_noNewPend s1 _ _ _)
  split
  · exact h2
  · have hpub : noNewPend s2 (members.foldl (fun s m => published s m scope.code) s2) :=
      noNewPend_foldl (fun s m => published_noNewPend s m scope.code) _ s2
    have h3 : noNewPend (members.foldl (fun s m => published s m scope.code) s2) s3 := by
      refine noNewPend_foldl (fun s m => ?_) _ _
      split
      · exact .refl s
      · extract_lets g1
        have h1 : noNewPend s (s.putG m g1) := .refl s
        exact h1.trans (refreshGroup_noNewPend _ _ _)
    exact h2.trans (hpub.trans (h3.trans (modBar_noNewPend s3 _ _ _)))

theorem gridTryOne_noNewPend (s : State) (launch k : Nat) (a : Nat × Scope) : noNewPend s (gridTryOne s launch k a) := by
  unfold gridTryOne
  split
  · exact .refl s
  · next b _ =>
    dsimp only
    split
    · have hdom := domainOk_noNewPend s b a.1
      split
      · have hcomp := gridComplete_noNewPend (domainOk s b a.1).2 b (membersOf s b.launch a.1 a.2) a.2
        split
        · exact hdom.trans hcomp
        · exact hdom.trans hcomp
      · exact hdom
    · exact gridComplete_noNewPend _ _ _ _

theorem gridTry_noNewPend (s : State) (b : GridBar) : noNewPend s (gridTry s b) := by
  unfold gridTry
  refine noNewPend_foldl (fun s a => ?_) _ s
  exact gridTryOne_noNewPend _ _ _ _

theorem stepGrid_noNewPend (s : State) : noNewPend s (stepGrid s) := by
  unfold stepGrid
  extract_lets s1 s2
  have h1 : noNewPend s s1 := noNewPend_foldl gridArrive_noNewPend _ s
  split
  · exact h1
  · have h2 : noNewPend s1 s2 := noNewPend_foldl gridTry_noNewPend _ s1
    exact h1.trans h2

theorem throttleAll_noNewPend (s : State) : noNewPend s (throttleAll s) := by
  unfold throttleAll
  split <;> exact .refl s

theorem followSaved_noNewPend (before s : State) : noNewPend s (followSaved before s) :=
  noNewPend_of_cores (congrArg State.cores (followSaved_frame before s) :)

theorem stepOver_noNewPend (s : State) (n : Nat) : noNewPend s { s with cur := none, curProc := none, free := n } := .refl s

/-- The end of a step sets no PEND of its own. -/
theorem finish_noNewPend {before s : State} (h : noNewPend before s) : noNewPend before (finish before s) := by
  unfold finish
  extract_lets s1 s2 s3 s4
  have h1 : noNewPend before s1 := by
    refine noNewPend.trans ?_ (endJobs_noNewPend _)
    split
    · exact settleIssuer_noNewPend h _ _
    · exact h
  have h2 : noNewPend s1 s2 := noNewPend_foldl tidyGroup_noNewPend _ s1
  have h3 : noNewPend s2 s3 := (noNewPend_foldl settleFree_noNewPend _ s2).trans (slideNulls_noNewPend _ _)
  have h4 : noNewPend s3 s4 := noNewPend_foldl beginExit_noNewPend _ s3
  have hgrid : noNewPend s4 (throttleAll (stepGrid s4)) := (stepGrid_noNewPend s4).trans (throttleAll_noNewPend _)
  have hover := (followSaved_noNewPend before (throttleAll (stepGrid s4))).trans (stepOver_noNewPend _ (s.free + 1))
  exact h1.trans (h2.trans (h3.trans (h4.trans (hgrid.trans hover))))

end Sys2Proof.Machine
end

section
/-!
PROOFS. O56: which instruction a step runs, clause by clause.
-/
namespace Sys2Proof.Machine
open Sys2Proof.Claims

/-! ### A null slot that is passed (R59) -/

/-- A state that no core's PEND was set in yields to no other partition's. -/
theorem ownYields_of_noNewPend {s t : State} (h : noNewPend s t) (gid : Nat) : ownYields s t gid = false := by
  unfold ownYields
  split
  · rfl
  · rw [raisesPend_of_noNewPend h, Bool.false_and]

/-- A split that passes a null slot does not pass over the demoted ones. -/
theorem passOver_of_overNull {s t : State} {gid pos : Nat} {g : Group} {sp : Split} (hg : Map.find s.groups gid = some g)
    (hsp : Map.find g.splits pos = some sp) (hover : sp.overNull = true) : passOver s t gid pos = t := by
  have hany : g.splits.any (fun p => p.1 == pos && p.2.overNull) = true :=
    List.any_eq_true.2 ⟨(pos, sp), Map.mem_of_find hsp, by simp [hover]⟩
  unfold passOver
  rw [hg]
  dsimp only
  rw [hany, Bool.or_true, if_pos rfl]

/-- After a slot whose pair bit is clear no second instruction issues. -/
theorem pairNext_of_alone {s t : State} {gid pos : Nat} {g : Group} {sp : Split} (hg : Map.find s.groups gid = some g)
    (hsp : Map.find g.splits pos = some sp) (hpair : lwPair sp.word (slotOf sp.pc) = false) : pairNext s t gid pos = false := by
  unfold pairNext
  rw [hg]
  split
  · next hfind _ =>
    cases hfind
    rw [hsp]
    split
    · next hsp' _ => cases hsp'; rw [hpair]; simp only [Bool.false_and]
    · rfl
  · rfl

section
variable {s s0 : State} {rest : List Act} {gid pos : Nat} {g : Group} {sp : Split} {line : Line}

theorem issueOne_null (hstands : standsAt s gid pos g sp line) (hnext : sp.next = none) (first : Bool) :
    issueOne first gid pos s0 s = .next (finish s (s.putG gid (g.setSplit pos sp.fall))) := by
  unfold issueOne
  rw [prepareAt_null hstands hnext first]

/-- What issues without setting a PEND, from a split at a null slot, is the whole step. -/
theorem issuedState_null {t : State} {g0 : Group} (hg0 : Map.find s0.groups gid = some g0) (hsp : Map.find g0.splits pos = some sp)
    (hover : sp.overNull = true) (ht : noNewPend s0 t) : issuedState s0 t gid pos = demotions t := by
  have hyields : ¬ ownYields s0 t gid = true := by rw [ownYields_of_noNewPend ht]; exact Bool.false_ne_true
  rw [issuedState, if_neg hyields, passOver_of_overNull hg0 hsp hover]

/-- A null slot ends the step with the split at the next slot, and no instruction executes. -/
theorem step_nullSlot (hpower : s.powered = true) (hagenda : s.agenda = .issue gid pos :: rest) (hs0 : s0 = { s with agenda := rest })
    (hstands : standsAt s0 gid pos g sp line) (hnull : nullSlot line (slotOf sp.pc) = true)
    (h29 : bit (lineWord line) 29 = false ∨ sp.entered = true) :
    step s = .next (endStep s0 (s0.putG gid (g.setSplit pos sp.fall))) := by
  have hput : noNewPend s0 (s0.putG gid (g.setSplit pos sp.fall)) := .refl s0
  have hfinish := finish_noNewPend hput
  have ⟨⟨g0, hg0, hg⟩, hsp, _, hwait, hline⟩ := hstands
  have hnext : sp.next = none := next_of_nullSlot hline hnull h29
  have hissue := issueOne_null (s0 := s0) hstands hnext true
  rw [hg, refreshSpilled_splits] at hsp
  have hover : sp.overNull = true := by simp [Split.overNull, hwait, hline, hnext]
  have halone : lwPair sp.word (slotOf sp.pc) = false := by
    obtain ⟨-, hpair⟩ := (Bool.and_eq_true _ _).mp hnull
    simpa [Split.word, hline] using hpair
  have hstep := step_issues hpower hagenda hs0 (tryIssue_alone hissue (pairNext_of_alone hg0 hsp halone))
  rw [hstep, issuedState_null hg0 hsp hover hfinish, endStep]

/-- The instruction at the split's slot is what the step runs, alone or with the second of its pair. -/
theorem step_mayRun {i : Instr} (hpower : s.powered = true) (hagenda : s.agenda = .issue gid pos :: rest)
    (hs0 : s0 = { s with agenda := rest }) (hrun : mayRun s0 gid pos g sp line i) :
    let a := issuedAt true s0 gid pos g sp i
    (∀ f, exec i a = .fault f → step s = .fault f) ∧ (∀ r, exec i a = .refused r → step s = .refused r) ∧
    (∀ t, exec i a = .next t → t.cur = none → step s = .next (endStep s0 (heldAct i a s0))) ∧
    ∀ t, exec i a = .next t → t.cur ≠ none →
      let u := finish a t
      (pairNext s0 u gid pos = false → step s = .next (issuedState s0 u gid pos)) ∧
      ∀ h tp line' j, pairNext s0 u gid pos = true → mayRun u gid pos h tp line' j →
        let b := issuedAt false u gid pos h tp j
        (∀ w, exec j b = .next w → w.cur ≠ none → step s = .next (issuedState s0 (finish b w) gid pos)) ∧
        ∀ w, exec j b = .next w → w.cur = none → step s = .next (endStep s0 (heldAct j b s0)) := by
  intro a
  refine ⟨fun f hx => ?fault, fun r hx => ?refused, fun t hx hcur => ?held, fun t hx hcur => ?issues⟩
  case fault => exact step_stop hpower hagenda hs0 (tryIssue_of_stop (issueOne_fault hrun hx))
  case refused => exact step_stop hpower hagenda hs0 (tryIssue_of_stop (issueOne_refused hrun hx))
  case held => exact step_held hpower hagenda hs0 (tryIssue_of_held (issueOne_held hrun hx hcur))
  case issues =>
    intro u
    have hfirst : issueOne true gid pos s0 s0 = .next u := issueOne_issues hrun hx hcur
    refine ⟨fun hpair => step_issues hpower hagenda hs0 (tryIssue_alone hfirst hpair), fun h tp line' j hpair hrun2 => ?_⟩
    intro b
    have hsecond := tryIssue_pair hfirst hpair
    refine ⟨fun w hw hcurw => ?_, fun w hw hcurw => ?_⟩
    · exact step_issues hpower hagenda hs0 (hsecond.trans (issueOne_issues hrun2 hw hcurw))
    · exact step_held hpower hagenda hs0 (hsecond.trans (issueOne_held hrun2 hw hcurw))

end

/-! ### A partition's clock, a Scribe processor's step, an event -/

theorem step_clock {s : State} {rest : List Act} {core part gid pos : Nat} (hpower : s.powered = true)
    (hagenda : s.agenda = .clock core part :: rest) (hchoose : choose { s with agenda := rest } core part = some (gid, pos)) :
    step s = step { s with agenda := .issue gid pos :: rest } := by
  rw [step_agenda hpower hagenda, step_agenda (s := { s with agenda := .issue gid pos :: rest }) hpower rfl]
  unfold runAct
  dsimp only
  rw [hchoose]

theorem runInstr_eq_stepOf (i : Instr) (s : State) : runInstr i s = stepOf i s := rfl

theorem step_scribe {s : State} {rest : List Act} {p : Nat} {x : Scribe} {v : Invocation} {j : ScribeJob} {i : Instr}
    (hpower : s.powered = true) (hagenda : s.agenda = .scribe p :: rest) (hx : x = s.scribeAt p) (hinv : x.inv = some v)
    (hjob : x.jobs.find? (fun j => j.job == v.job) = some j) (hsteps : v.steps < j.slim)
    (hdecode : decodeScribe (Map.get 0 x.code (16 * j.cbase + v.word)).toNat = some i) :
    step s = stepOf i { (({ s with agenda := rest } : State).putScribe p
      { x with inv := some { v with steps := v.steps + 1 } }) with curProc := some p } := by
  have hword := scribeWord_decodes (s := { s with agenda := rest }) hx hinv hjob hsteps hdecode
  rw [step_agenda hpower hagenda]
  unfold runAct
  dsimp only
  rw [runScribe, hword]
  exact runInstr_eq_stepOf i _

theorem step_event {s : State} {rest : List Act} {i : Instr} (hpower : s.powered = true) (hagenda : s.agenda = .event i :: rest) :
    step s = stepOf i { s with agenda := rest } := by
  rw [step_agenda hpower hagenda]
  exact runInstr_eq_stepOf i _

end Sys2Proof.Machine

open Sys2Proof Sys2Proof.Machine Sys2Proof.Claims

/-- Settles O56: the agenda's next act is what a step does, a split that may run prepares the instruction its slot decodes to, and
the end of a step sets no core's PEND, so that passing a null slot yields to no other issue. -/
theorem stepRunsDecoded : Obligations.StepRunsDecoded := by
  unfold Obligations.StepRunsDecoded
  refine ⟨fun s s0 rest gid pos g sp line hpower hagenda hs0 => ?issue, fun s rest core part gid pos => step_clock,
    fun s rest p x v j i => step_scribe, fun s rest i => step_event, fun s t h => idle_of_endsStep (step_ends h)⟩
  case issue =>
    exact ⟨fun i hrun => step_mayRun hpower hagenda hs0 hrun,
      fun hstands hnull h29 => step_nullSlot hpower hagenda hs0 hstands hnull h29⟩
end

section
/-!
PROOFS. O11: the diverging branch, the back edge of a loop, and the regions that BRC opens.
-/
namespace Sys2Proof.Machine
open Sys2Proof.Claims

/-! ### The lowest free position and the lowest free record number -/

theorem lowestFree_notMem {used : List Nat} {n a k : Nat} (h : lowestFree used n a = some k) : k ∉ used := by
  induction n generalizing a with
  | zero => cases h
  | succ n ih =>
    rw [lowestFree] at h
    split at h
    · exact ih h
    · next hfree => cases h; simpa using hfree

theorem Group.find_freePos {g : Group} {p : Nat} (h : g.freePos = some p) : Map.find g.splits p = none := by
  rw [← Option.not_isSome_iff_eq_none, Map.find_isSome_iff]
  exact lowestFree_notMem h

/-- R93: a new record stands behind the others, under a number that none of them has. -/
theorem Group.newRec_spec {g g1 : Group} {r : JoinRec} {j : Nat} (h : g.newRec r = some (g1, j)) :
    g1 = { g with recs := g.recs ++ [{ r with num := j }] } ∧ ∀ q ∈ g.recs, q.num ≠ j := by
  obtain ⟨n, hn, heq⟩ := Option.map_eq_some_iff.1 h
  cases heq
  exact ⟨rfl, fun q hq hnum => lowestFree_notMem hn (hnum ▸ List.mem_map_of_mem hq)⟩

/-! ### A split that takes a free position (R87, R88) -/

theorem Group.newSplit_entries (g : Group) (p : Nat) (sp : Split) :
    (g.newSplit p sp).entries = g.entries.map (fun e => if e.pos = p then { e with mine := false } else e) := by
  simp [Group.newSplit]

@[simp] theorem Group.find_newSplit_self (g : Group) (p : Nat) (sp : Split) : Map.find (g.newSplit p sp).splits p = some sp :=
  Map.find_put_self _ _ _

/-- Another split waits no more for what an earlier split of the position had in flight. -/
theorem Group.find_newSplit_ne (g : Group) {p k : Nat} (sp : Split) (h : k ≠ p) : Map.find (g.newSplit p sp).splits k =
    (Map.find g.splits k).map (fun q => { q with demoted := q.demoted.filter (· != p) }) := by
  rw [Group.newSplit, Map.find_put_ne _ _ h, Map.find_map_values]
  exact fun _ => rfl

/-! ### The target line (R57, R72) -/

theorem targetLine_sameButFetch {s s1 : State} {g : Group} {pc lane : Nat} {line : Line} (h : targetLine s g pc lane = .ok (line, s1)) :
    sameButFetch s s1 := by
  unfold targetLine at h
  split at h
  · cases h
  · next hpeek =>
    split at h
    · cases h; exact (peekLine_ok hpeek).2
    · cases h

/-! ### The three forms of BRC (R133, R134) -/

section Forms
variable {s : State} {f : BFmt} {c : Iss} (hc : issuer s f.r.g = some c)
include hc

/-- BK 0, and BK 1 outside the loop of the split's own record: the branch diverges. -/
theorem brc_diverges {kind : Nat} (hkind : branchKind f c kind) :
    exec (.brc f) s = finishGroup s c (diverge s c kind (c.target f) (c.reconv f)) := by
  change execBrc f s = _
  rw [execBrc, asGroup_eq hc]
  obtain ⟨hbk, rfl⟩ | ⟨hbk, rfl, hother⟩ := hkind
  · rw [hbk]; rfl
  · rw [hbk]
    cases hr : c.sp.link.bind c.g.findRec with
    | none => rfl
    | some r =>
      obtain ⟨n, hlink, hfind⟩ := Option.bind_eq_some_iff.1 hr
      have hnot : ¬(r.kind == 1 && r.rpc == c.reconv f) = true := by simpa [Iss.reconv] using hother n r hlink hfind
      exact congrArg (finishGroup s c) (if_neg hnot)

/-- BK 1 in the loop whose record the split is linked to: a back edge. -/
theorem brc_closesLoop {n : Nat} {r : JoinRec} (hbk : f.bk = 1) (hlink : c.sp.link = some n) (hfind : c.g.findRec n = some r)
    (hkind : r.kind = 1) (hrpc : r.rpc = c.reconv f) : exec (.brc f) s = finishGroup s c (loopEdge s c r (c.target f)) := by
  change execBrc f s = _
  rw [execBrc, asGroup_eq hc, hbk, hlink]
  simp [hfind, hkind, hrpc]

/-- BK 2 and BK 3: a region. -/
theorem brc_opensRegion {kind : Nat} (hkind : f.bk = 2 ∧ kind = 2 ∨ f.bk = 3 ∧ kind = 1) :
    exec (.brc f) s = finishGroup s c (openRegion s c kind (c.reconv f)) := by
  change execBrc f s = _
  rw [execBrc, asGroup_eq hc]
  obtain ⟨hbk, rfl⟩ | ⟨hbk, rfl⟩ := hkind
  · rw [hbk]; rfl
  · rw [hbk]; rfl

end Forms

/-! ### What each form comes to (R90, R133, R134) -/

section Outcomes
variable {s s1 : State} {c : Iss} {kind target reconv : Nat} {line : Line}

/-- The lanes that take the branch, linked to record `j`. -/
def takenSplit (c : Iss) (target : Nat) (line : Line) (j : Nat) : Split :=
  { transferred c target line with mask := c.on, link := some j }

/-- The lanes that do not take the branch, at the next slot, linked to record `j`. -/
def otherSplit (c : Iss) (j : Nat) : Split :=
  { c.sp.fall with mask := maskMinus c.act c.on, link := some j, demoted := [], isDem := false, demNew := false, passed := 0 }

/-- R90: the record of a branch that diverges, with a split for each side. -/
def branchRec (c : Iss) (kind reconv : Nat) : JoinRec :=
  mkRec kind reconv (c.on ||| maskMinus c.act c.on) c.sp.link .table

/-- R90: the record of a branch that diverges with no free split position: the other lanes are its deferred side. -/
def deferringRec (c : Iss) (kind reconv : Nat) : JoinRec :=
  { mkRec kind reconv (c.on ||| maskMinus c.act c.on) c.sp.link .entering with
    d := true, dpc := nextPc c.sp.pc, dmask := maskMinus c.act c.on }

theorem diverge_off (h0 : c.on = 0) : diverge s c kind target reconv = .ok (c.done s c.g) :=
  if_pos (beq_iff_eq.2 h0)

theorem openRegion_off (h0 : c.on = 0) : openRegion s c kind reconv = .ok (c.done s c.g) :=
  if_pos (beq_iff_eq.2 h0)

theorem transfer_ok (g : Group) (hline : targetLine s c.g target (lowLane c.act) = .ok (line, s1)) :
    c.transfer s g target = .ok (s1.putG c.gid (g.setSplit c.pos (transferred c target line))) := by
  rw [Iss.transfer, hline]
  rfl

/-- R134: the lanes that leave the loop wait at its record. -/
def leavesLoop (c : Iss) (r : JoinRec) : Group :=
  c.g.putRec { r with exp := maskMinus r.exp (maskMinus c.act c.on), arr := r.arr ||| maskMinus c.act c.on }

theorem loopEdge_off {r : JoinRec} (h0 : c.on = 0) :
    loopEdge s c r target = .ok (s.putG c.gid { leavesLoop c r with splits := Map.del c.g.splits c.pos }) :=
  if_pos (beq_iff_eq.2 h0)

variable (hon : c.on ≠ 0)
include hon

theorem openRegion_on {g1 : Group} {j : Nat} (hrec : c.g.newRec (mkRec kind reconv c.act c.sp.link .entering) = some (g1, j)) :
    openRegion s c kind reconv = .ok (s.putG c.gid (g1.setSplit c.pos { c.sp.fall with link := some j })) := by
  rw [openRegion, if_neg (by simpa using hon), hrec]

variable (hline : targetLine s c.g target (lowLane c.act) = .ok (line, s1))
include hline

theorem diverge_all (hall : maskMinus c.act c.on = 0) :
    diverge s c kind target reconv = .ok (s1.putG c.gid (c.g.setSplit c.pos (transferred c target line))) := by
  rw [diverge, if_neg (by simpa using hon), if_pos (by simpa using hall), transfer_ok _ hline]

theorem loopEdge_on (r : JoinRec) : loopEdge s c r target =
    .ok (s1.putG c.gid ((leavesLoop c r).setSplit c.pos { transferred c target line with mask := c.on })) := by
  rw [loopEdge, if_neg (by simpa using hon), hline]
  rfl

variable (hsome : maskMinus c.act c.on ≠ 0) {g1 : Group} {j : Nat}
include hsome

theorem diverge_splits {p : Nat} (hpos : c.g.freePos = some p) (hrec : c.g.newRec (branchRec c kind reconv) = some (g1, j)) :
    diverge s c kind target reconv =
      .ok (s1.putG c.gid ((g1.setSplit c.pos (takenSplit c target line j)).newSplit p (otherSplit c j))) := by
  rw [branchRec] at hrec
  rw [diverge, if_neg (by simpa using hon), if_neg (by simpa using hsome), hline, hpos]
  dsimp only [bind, Except.bind]
  rw [hrec]
  rfl

theorem diverge_defers (hpos : c.g.freePos = none) (hrec : c.g.newRec (deferringRec c kind reconv) = some (g1, j)) :
    diverge s c kind target reconv = .ok (s1.putG c.gid (g1.setSplit c.pos (takenSplit c target line j))) := by
  rw [deferringRec] at hrec
  rw [diverge, if_neg (by simpa using hon), if_neg (by simpa using hsome), hline, hpos]
  dsimp only [bind, Except.bind]
  rw [hrec]
  rfl

end Outcomes

end Sys2Proof.Machine

open Sys2Proof Sys2Proof.Machine Sys2Proof.Claims

/-- Settles O11: each form of BRC by its effect; the position and the record number it takes are free, so no other split and no other
record has them. -/
theorem branchesOpenRecords : Obligations.BranchesOpenRecords := by
  unfold Obligations.BranchesOpenRecords
  refine ⟨fun s s1 f c p j kind g1 line hc hkind hon hsome hpos hrec hline => ?splits,
    fun s s1 f c j kind g1 line hc hkind hon hsome hpos hrec hline => ?defers,
    fun s f c kind hc hkind => ⟨fun h0 => ?none, fun hon hall line s1 hline => ⟨?all, targetLine_sameButFetch hline⟩⟩,
    fun s f c n r hc hbk hlink hfind hkind hrpc =>
      ⟨fun h0 => ?leave, fun hon line s1 hline => ⟨?stay, targetLine_sameButFetch hline⟩⟩,
    fun s f c kind hc hkind => ⟨fun h0 => ?closed, fun hon g1 j hrec => ?region⟩⟩
  case splits =>
    obtain ⟨-, -, hsp, -⟩ := issuer_spec hc
    obtain ⟨rfl, hnum⟩ := Group.newRec_spec hrec
    have hne : c.pos ≠ p := fun heq => by simp [heq, Group.find_freePos hpos] at hsp
    have hexec := (brc_diverges hc hkind).trans (congrArg (finishGroup s c) (diverge_splits hon hline hsome hpos hrec))
    refine ⟨_, hexec, ?_, ⟨_, Group.find_newSplit_self _ _ _, rfl, rfl, rfl⟩, ⟨_, rfl, rfl, rfl, rfl, rfl, rfl, rfl, rfl, hnum⟩,
      Group.newSplit_entries _ _ _, rfl⟩
    rw [Group.find_newSplit_ne _ _ hne, Group.setSplit_splits, Map.find_put_self]
    rfl
  case defers =>
    obtain ⟨rfl, hnum⟩ := Group.newRec_spec hrec
    have hexec := (brc_diverges hc hkind).trans (congrArg (finishGroup s c) (diverge_defers hon hline hsome hpos hrec))
    exact ⟨_, hexec, fun q => Map.find_put _ _ _ _, ⟨_, rfl, rfl, rfl, rfl, rfl, rfl, rfl, rfl, rfl, rfl, hnum⟩, rfl⟩
  case none => exact (brc_diverges hc hkind).trans (congrArg (finishGroup s c) (diverge_off h0))
  case all => exact (brc_diverges hc hkind).trans (congrArg (finishGroup s c) (diverge_all hon hline hall))
  case leave =>
    rw [brc_closesLoop hc hbk hlink hfind hkind hrpc, loopEdge_off h0]
    simp [finishGroup, leavesLoop, Group.putRec]
  case stay =>
    rw [brc_closesLoop hc hbk hlink hfind hkind hrpc, Iss.target, loopEdge_on hon hline]
    simp [finishGroup, leavesLoop, Group.putRec]
  case closed => exact (brc_opensRegion hc hkind).trans (congrArg (finishGroup s c) (openRegion_off h0))
  case region =>
    obtain ⟨rfl, -⟩ := Group.newRec_spec hrec
    have hexec := (brc_opensRegion hc hkind).trans (congrArg (finishGroup s c) (openRegion_on hon hrec))
    exact ⟨_, hexec, Map.find_put_self _ _ _, ⟨_, rfl, rfl, rfl, rfl, rfl, rfl, rfl⟩, rfl⟩
end

section
/-!
PROOFS. The element arithmetic of class 00 on integer types and on whole words (R99, R100, R150, R153, R154), and the obligation
IntegerElements.
-/
namespace Sys2Proof.Machine

/-! ### The elements of a packed register (R99) -/

theorem bits_mul_lanes_le (t : Ty) : t.bits * t.lanes ≤ 32 := Nat.mul_div_le 32 t.bits

theorem packElems_eq_ofDigits (t : Ty) (l : List Nat) :
    packElems t l = BitVec.ofNat 32 (Nat.ofDigits (2 ^ t.bits) (l.map (· % 2 ^ t.bits))) := by
  simp only [packElems, Nat.ofDigits_eq_foldr, List.foldr_map, Nat.mul_comm, Nat.cast_id]

/-- The elements are the digits of the register in base 2^w. -/
theorem elemOf_packElems {t : Ty} {l : List Nat} {k : Nat} (hl : t.bits * l.length ≤ 32) (hk : k < l.length) :
    elemOf t (packElems t l) k = l[k] % 2 ^ t.bits := by
  have hdigit : ∀ d ∈ l.map (· % 2 ^ t.bits), d < 2 ^ t.bits := by
    simp only [List.forall_mem_map]
    exact fun x _ => Nat.mod_lt _ (Nat.two_pow_pos _)
  have hlt : Nat.ofDigits (2 ^ t.bits) (l.map (· % 2 ^ t.bits)) < 2 ^ 32 := by
    refine (Nat.ofDigits_lt_base_pow_length (Nat.one_lt_two_pow (by cases t <;> decide)) hdigit).trans_le ?_
    rw [List.length_map, ← pow_mul]
    exact Nat.pow_le_pow_right (by decide) hl
  have hpow : 2 ^ (k * t.bits) = (2 ^ t.bits) ^ k := by rw [Nat.mul_comm, pow_mul]
  rw [elemOf, packElems_eq_ofDigits, BitVec.toNat_ofNat, Nat.mod_eq_of_lt hlt, hpow,
    Nat.ofDigits_div_pow_eq_ofDigits_drop k (Nat.two_pow_pos _) _ hdigit, List.drop_eq_getElem_cons (by simpa using hk)]
  simp [Nat.ofDigits_cons]

theorem elemOf_regOp {op : Nat} {t : Ty} {rm : RM} {sat : Bool} {a b c : Word} {k : Nat} (hk : k < t.lanes) :
    elemOf t (regOp op t rm sat a b c).1 k =
      (elemOp op t rm sat (elemOf t a k) (elemOf t b k) (elemOf t c k)).bits % 2 ^ t.bits := by
  rw [regOp, elemOf_packElems (by simpa using bits_mul_lanes_le t) (by simpa using hk)]
  simp

/-- An operation that raises no flag on any element raises none on the register. -/
theorem regOp_noFlags {op : Nat} {t : Ty} {rm : RM} {sat : Bool} (h : ∀ x y z, (elemOp op t rm sat x y z).flags = 0)
    (a b c : Word) : (regOp op t rm sat a b c).2 = 0 := by
  simp [regOp, List.foldl_map, h, flOr]

/-! ### Integers modulo 2^w (R100) -/

theorem toSigned_emod (n v : Nat) : toSigned n v % 2 ^ n = (v : Int) % 2 ^ n := by
  unfold toSigned
  split <;> simp

theorem intVal_emod (t : Ty) (x : Nat) : intVal t x % 2 ^ t.bits = (x : Int) % 2 ^ t.bits := by
  unfold intVal
  split
  · exact toSigned_emod t.bits x
  · simp

/-- The integer that the field of a number holds is the number, wrapped. -/
theorem intVal_ofInt_emod (t : Ty) (v : Int) : (intVal t (ofInt t.bits v % 2 ^ t.bits) - v) % 2 ^ t.bits = 0 := by
  refine Int.emod_eq_emod_iff_emod_sub_eq_zero.1 ?_
  rw [intVal_emod, Int.natCast_mod, ofInt_cast]
  simp

/-! ### The integer operations (R150, R153) -/

theorem elemOp_of_isInt {op : Nat} {t : Ty} (hop : op < 0x0F) (ht : t.isInt = true) (rm : RM) (sat : Bool) (x y z : Nat) :
    elemOp op t rm sat x y z = plain (intElem op t sat x y z) := by
  interval_cases op <;> exact if_pos ht

/-- The magnitude that ABS gives is the larger of the number and its negation. -/
theorem intElem_abs (t : Ty) (sat : Bool) (x y z : Nat) : intElem 0x09 t sat x y z =
    ofInt t.bits (if sat then clampInt t (max (intVal t x) (-intVal t x)) else max (intVal t x) (-intVal t x)) := by
  change intRes t sat ((intVal t x).natAbs : Int) = _
  rw [Int.natCast_natAbs]
  rfl

/-- An operation whose element is the field of `v` leaves `v` in that element, wrapped, and raises no flag. -/
theorem regOp_of_isInt {op : Nat} {t : Ty} {rm : RM} {sat : Bool} {a b c : Word} {k : Nat} {v : Int}
    (ht : t.isInt = true) (hk : k < t.lanes) (hv : intElem op t sat (elemOf t a k) (elemOf t b k) (elemOf t c k) = ofInt t.bits v)
    (hop : op < 0x0F := by decide) :
    (intVal t (elemOf t (regOp op t rm sat a b c).1 k) - v) % 2 ^ t.bits = 0 ∧ (regOp op t rm sat a b c).2 = 0 := by
  refine ⟨?_, regOp_noFlags (fun x y z => ?_) a b c⟩
  · rw [elemOf_regOp hk, elemOp_of_isInt hop ht, plain, hv]
    exact intVal_ofInt_emod t v
  · rw [elemOp_of_isInt hop ht, plain]

/-! ### Operations on a whole word (R154) -/

/-- A register of a 32-bit type is one element. -/
theorem regOp_of_bits_eq {t : Ty} (ht : t.bits = 32) (op : Nat) (rm : RM) (sat : Bool) (a b c : Word) : regOp op t rm sat a b c =
    (BitVec.ofNat 32 (elemOp op t rm sat a.toNat b.toNat c.toNat).bits, (elemOp op t rm sat a.toNat b.toNat c.toNat).flags) := by
  have helem (w : Word) : elemOf t w 0 = w.toNat := by simp [elemOf, ht, Nat.mod_eq_of_lt w.isLt]
  simp [regOp, Ty.lanes, ht, helem, packElems, flOr, ← BitVec.toNat_inj]

theorem toSigned_toNat {n : Nat} (w : BitVec n) : toSigned n w.toNat = w.toInt := by
  have hlt : (w.toNat : Int) % 2 ^ n = w.toNat := by
    rw [← Nat.cast_ofNat, ← Nat.cast_pow, ← Int.natCast_mod, Nat.mod_eq_of_lt w.isLt]
  rw [toSigned, hlt, Nat.mod_eq_of_lt w.isLt, BitVec.toInt_eq_toNat_cond]
  by_cases h : 2 * w.toNat < 2 ^ n
  · rw [if_neg (Nat.not_le.2 h), if_pos h]
  · rw [if_pos (Nat.not_lt.1 h), if_neg h, Nat.cast_pow, Nat.cast_ofNat]

theorem ofNat_shiftElem_shl (w : Word) (n : Nat) : BitVec.ofNat 32 (shiftElem 0x14 32 w.toNat n) = w <<< (n % 32) := by
  simp [shiftElem, ← BitVec.toNat_inj, Nat.shiftLeft_eq]

theorem ofNat_shiftElem_shr (w : Word) (n : Nat) : BitVec.ofNat 32 (shiftElem 0x15 32 w.toNat n) = w >>> (n % 32) := by
  simp [shiftElem, ← BitVec.toNat_inj, Nat.shiftRight_eq_div_pow, Nat.mod_eq_of_lt w.isLt,
    Nat.mod_eq_of_lt ((Nat.div_le_self _ _).trans_lt w.isLt)]

theorem ofNat_shiftElem_sar (w : Word) (n : Nat) : BitVec.ofNat 32 (shiftElem 0x16 32 w.toNat n) = w.sshiftRight (n % 32) := by
  have hval : shiftElem 0x16 32 w.toNat n = ofInt 32 (w.toInt / 2 ^ (n % 32)) := by
    rw [← toSigned_toNat]
    rfl
  rw [hval, ← BitVec.toNat_inj, BitVec.sshiftRight, Int.shiftRight_eq_div_pow]
  have hlt : w.toInt / 2 ^ (n % 32) % 2 ^ 32 < 2 ^ 32 := Int.emod_lt_of_pos _ (by decide)
  simpa [ofInt] using hlt

theorem ofNat_complement (w : Word) : BitVec.ofNat 32 (2 ^ 32 - 1 - w.toNat % 2 ^ 32) = ~~~w := by
  rw [← BitVec.toNat_inj, BitVec.toNat_ofNat, BitVec.toNat_not]
  omega

end Sys2Proof.Machine

open Sys2Proof Sys2Proof.Machine Sys2Proof.Claims

/-- Settles O4: each element of an integer type is the field of the exact result, and a 32-bit register is one element. -/
theorem integerElements : Obligations.IntegerElements := by
  unfold Obligations.IntegerElements
  refine ⟨fun t rm sat a b c k ht hk => ?integers, fun t rm sat a b c ht => ?words⟩
  case integers =>
    exact ⟨regOp_of_isInt ht hk rfl, regOp_of_isInt ht hk rfl, regOp_of_isInt ht hk rfl, regOp_of_isInt ht hk rfl,
      regOp_of_isInt ht hk rfl, regOp_of_isInt ht hk rfl, regOp_of_isInt ht hk rfl, regOp_of_isInt ht hk (intElem_abs _ _ _ _ _),
      regOp_of_isInt ht hk rfl, regOp_of_isInt ht hk rfl, regOp_of_isInt ht hk rfl⟩
  case words =>
    simp only [regOp_of_bits_eq ht, elemOp, plain, ht, ofNat_shiftElem_shl, ofNat_shiftElem_shr, ofNat_shiftElem_sar,
      ofNat_complement, Prod.mk.injEq, and_true]
    simp
end

section
/-!
PROOFS. SRD and SWR (R121, R143, R144, R215): the check of the register's name, what each register's write leaves, and the
obligation SystemRegisters.
-/
namespace Sys2Proof.Machine
open Sys2Proof.Claims

/-! ### Access by privilege (R144) -/

theorem sysAccess_le (n : Nat) (sup : Bool) : sysAccess n sup ≤ 2 := by
  unfold sysAccess
  repeat' split
  all_goals decide

theorem sysCheck_ok {g : Group} {n need : Nat} (h : need ≤ sysAccess n g.sup) : sysCheck g n need = .ok () := if_pos h

theorem sysCheck_refused {g : Group} {n need : Nat} (h : sysAccess n g.sup < need) :
    sysCheck g n need = .error (.trap { cause := cIllegal, detail := 0x0B }) := if_neg (Nat.not_le.2 h)

/-! ### What the writes of AOWN and ACCLIVE leave (R215) -/

theorem get_writeAown (s : State) (core : Nat) (x : DWord) (k : Nat) : Map.get Core.reset (writeAown s core x).cores k =
    if k = core then { Map.get Core.reset s.cores core with aown := x &&& 0x7F } else Map.get Core.reset s.cores k :=
  Map.get_put _ _ _ _ _

theorem Map.get_filter_key {β : Type} (d : β) (p : Nat → Bool) (m : SMap β) (k : Nat) :
    Map.get d (m.filter (fun x => p x.1)) k = if p k = true then Map.get d m k else d := by
  rw [Map.get, Map.find_filter_key]
  split <;> rfl

section Acclive
variable (s : State) (core : Nat) (x : DWord)

theorem writeAcclive_acclive : (Map.get Core.reset (writeAcclive s core x).cores core).acclive = x.setWidth 16 := by
  simp [writeAcclive, Map.get_put]

theorem writeAcclive_others {k : Nat} (h : k ≠ core) :
    Map.get Core.reset (writeAcclive s core x).cores k = Map.get Core.reset s.cores k := by
  simp [writeAcclive, Map.get_put, h]

/-- Element `e` of tile `t` is kept where the tile's bit stays, and reads +0 where it changes. -/
theorem writeAcclive_tiles {t e : Nat} (ht : t < 16) (he : e < 1024) :
    Map.get 0 (Map.get Core.reset (writeAcclive s core x).cores core).tiles (1024 * t + e) =
      if (Map.get Core.reset s.cores core).acclive.getLsbD t = x.getLsbD t
      then Map.get 0 (Map.get Core.reset s.cores core).tiles (1024 * t + e) else 0 := by
  have htile : (1024 * t + e) / 1024 = t := by omega
  have hflip : ((Map.get Core.reset s.cores core).acclive ^^^ x.setWidth 16).getLsbD t =
      ((Map.get Core.reset s.cores core).acclive.getLsbD t ^^ x.getLsbD t) := by simp [ht]
  simp only [writeAcclive, Map.get_put, if_true]
  rw [Map.get_filter_key 0 (fun a => !(_ : BitVec 16).getLsbD (a / 1024)), htile, hflip]
  simp

end Acclive

/-! ### What SRD and SWR answer -/

theorem exec_srd (f : SFmt) (s : State) : exec (.srd f) s = execSrd f s := rfl
theorem exec_swr (f : SFmt) (s : State) : exec (.swr f) s = execSwr f s := rfl

section Answers
variable {s : State} {f : SFmt} {c : Iss} (hc : issuer s f.r.g = some c)
include hc

theorem srd_refused (h : sysAccess f.imm.toNat c.g.sup = 0) : trapsAs (.srd f) s c { cause := cIllegal, detail := 0x0B } := by
  rw [trapsAs, exec_srd, execSrd, asGroup_eq hc, sysCheck_refused (by omega)]
  rfl

theorem srd_off (h : sysAccess f.imm.toNat c.g.sup ≠ 0) (hoff : c.on = 0) : completesAs (.srd f) s c c.g := by
  rw [completesAs, exec_srd, execSrd, asGroup_eq hc, sysCheck_ok (by omega), hoff]
  rfl

theorem srd_on (h : sysAccess f.imm.toNat c.g.sup ≠ 0) (hon : c.on ≠ 0) (hfpf : f.imm = 0 → fpfPending s c.gid c.g = false) :
    completesAs (.srd f) s c (c.g.wrS f.r.dst.toNat (sysRead s c.g f.imm.toNat)) := by
  have hready : ¬ (f.imm == 0 && fpfPending s c.gid c.g) = true := by simpa using hfpf
  rw [completesAs, exec_srd, execSrd, asGroup_eq hc, sysCheck_ok (by omega), if_neg (by simpa using hon), if_neg hready]
  rfl

theorem swr_refused (h : sysAccess f.imm.toNat c.g.sup ≠ 2) : trapsAs (.swr f) s c { cause := cIllegal, detail := 0x0B } := by
  have hle := sysAccess_le f.imm.toNat c.g.sup
  rw [trapsAs, exec_swr, execSwr, asGroup_eq hc, sysCheck_refused (by omega)]
  rfl

theorem swr_off (h : sysAccess f.imm.toNat c.g.sup = 2) (hoff : c.on = 0) : completesAs (.swr f) s c c.g := by
  rw [completesAs, exec_swr, execSwr, asGroup_eq hc, sysCheck_ok h.ge, hoff]
  rfl

variable (hon : c.on ≠ 0)
include hon

theorem swr_fpf (hn : f.imm.toNat = 0) (hready : fpfPending s c.gid c.g = false) :
    completesAs (.swr f) s c { c.g with fpf := c.g.rdS c.fc f.r.b.toNat &&& 31 } := by
  rw [completesAs, exec_swr, execSwr, asGroup_eq hc, if_neg (by simpa using hon), hn, sysCheck_ok (Nat.le_refl 2), hready]
  rfl

theorem swr_mxc (hn : f.imm.toNat = 1) : completesAs (.swr f) s c { c.g with mxc := c.g.rdS c.fc f.r.b.toNat } := by
  rw [completesAs, exec_swr, execSwr, asGroup_eq hc, if_neg (by simpa using hon), hn, sysCheck_ok (Nat.le_refl 2)]
  rfl

theorem swr_aown (hn : f.imm.toNat = 0x20) (hsup : c.g.sup = true) (hfree : tilesNamed s c.g.core = false) :
    exec (.swr f) s = .next ((writeAown s c.g.core (c.g.rdS c.fc f.r.b.toNat)).putG c.gid (c.g.advance c.pos)) := by
  rw [exec_swr, execSwr, asGroup_eq hc, if_neg (by simpa using hon), hn, sysCheck_ok (by rw [hsup]; decide), hfree]
  rfl

theorem swr_acclive (hn : f.imm.toNat = 0x21) (hsup : c.g.sup = true) :
    exec (.swr f) s = .next ((writeAcclive s c.g.core (c.g.rdS c.fc f.r.b.toNat)).putG c.gid (c.g.advance c.pos)) := by
  rw [exec_swr, execSwr, asGroup_eq hc, if_neg (by simpa using hon), hn, sysCheck_ok (by rw [hsup]; decide)]
  rfl

end Answers
end Sys2Proof.Machine

open Sys2Proof Sys2Proof.Machine Sys2Proof.Claims

/-- Settles O14: the name is checked first, and each register's write is the update of the one field that holds it. -/
theorem systemRegisters : Obligations.SystemRegisters := by
  unfold Obligations.SystemRegisters
  refine ⟨fun s f c hc => ⟨srd_refused hc, srd_off hc, fun h hon hfpf =>
      ⟨_, srd_on hc h hon hfpf, Group.sameButS_wrS _ _ _, Group.sWritten_wrS _ _ _⟩⟩,
    fun s f c hc => ⟨swr_refused hc, fun hoff h => swr_off hc h hoff, swr_fpf hc, swr_mxc hc,
      fun hon hn hsup hfree => ⟨_, swr_aown hc hon hn hsup hfree, rfl, ?own, fun k hk => ?others⟩,
      fun hon hn hsup => ⟨_, swr_acclive hc hon hn hsup, rfl, writeAcclive_acclive _ _ _, fun t e => writeAcclive_tiles _ _ _,
        fun k => writeAcclive_others _ _ _⟩⟩⟩
  case own => rw [get_writeAown, if_pos rfl]
  case others => rw [get_writeAown, if_neg hk]
end

section
/-!
PROOFS. DIV and REM (R126, R128): which integers a scalar type holds, that a result in its range is kept, and the obligation
DivisionCorners.
-/
namespace Sys2Proof.Machine
open Sys2Proof.Claims

/-! ### The integers of a scalar type (R126) -/

/-- The values that an operand can have under a type. -/
def inScalarRange (t : STy) (v : Int) : Prop :=
  if sSignedOf t then -(2 ^ (sBitsOf t - 1)) ≤ v ∧ v < 2 ^ (sBitsOf t - 1) else 0 ≤ v ∧ v < 2 ^ sBitsOf t

theorem sVal_inScalarRange (t : STy) (x : DWord) : inScalarRange t (sVal t x) := by
  cases t <;> simp only [inScalarRange, sVal, toSigned, sSignedOf, sBitsOf, Bool.false_eq_true, if_true, if_false] <;> omega

theorem sVal_emod (t : STy) (x : DWord) : sVal t x % 2 ^ sBitsOf t = (x.toNat : Int) % 2 ^ sBitsOf t := by
  unfold sVal
  split
  · exact toSigned_emod _ _
  · simp

/-- A result is its value modulo 2^w, however it is extended. -/
theorem sResult_emod (t : STy) (v : Int) : ((sResult t v).toNat : Int) % 2 ^ sBitsOf t = v % 2 ^ sBitsOf t := by
  cases t <;> simp [sResult, sBitsOf, ofInt, toSigned] <;> omega

theorem eq_of_inScalarRange {t : STy} {v w : Int} (hv : inScalarRange t v) (hw : inScalarRange t w)
    (h : v % 2 ^ sBitsOf t = w % 2 ^ sBitsOf t) : v = w := by
  cases t <;> simp only [inScalarRange, sSignedOf, sBitsOf, Bool.false_eq_true, if_true, if_false] at hv hw h <;> omega

/-- A result in the range of its type reads as its value. -/
theorem sVal_sResult {t : STy} {v : Int} (h : inScalarRange t v) : sVal t (sResult t v) = v :=
  eq_of_inScalarRange (sVal_inScalarRange _ _) h ((sVal_emod _ _).trans (sResult_emod _ _))

/-! ### Quotient and remainder (R128) -/

/-- What DIV gives before it is wrapped. -/
def scalarQuot (x y : Int) : Int := if y == 0 then -1 else Int.tdiv x y

/-- What REM gives before it is wrapped. -/
def scalarRem (x y : Int) : Int := if y == 0 then x else Int.tmod x y

theorem exec_div (f : SFmt) (s : State) :
    exec (.div f) s = scalarOp f s (fun c => sResult f.ty (scalarQuot (sVal f.ty (c.sA f)) (sVal f.ty (c.sB f)))) := rfl

theorem exec_rem (f : SFmt) (s : State) :
    exec (.rem f) s = scalarOp f s (fun c => sResult f.ty (scalarRem (sVal f.ty (c.sA f)) (sVal f.ty (c.sB f)))) := rfl

@[simp] theorem scalarQuot_zero (x : Int) : scalarQuot x 0 = -1 := rfl
@[simp] theorem scalarRem_zero (x : Int) : scalarRem x 0 = x := rfl
theorem scalarQuot_of_ne {x y : Int} (h : y ≠ 0) : scalarQuot x y = Int.tdiv x y := if_neg (by simpa using h)
theorem scalarRem_of_ne {x y : Int} (h : y ≠ 0) : scalarRem x y = Int.tmod x y := if_neg (by simpa using h)

theorem sResult_neg_one (t : STy) : sResult t (-1) = if t = .u32 then 0xFFFFFFFF else 0xFFFFFFFFFFFFFFFF := by
  cases t <;> decide

theorem sResult_zero (t : STy) : sResult t 0 = 0 := by
  cases t <;> decide

/-- Signed overflow: the quotient of the lowest value and -1 wraps to the lowest value. -/
theorem sResult_neg_lowest (t : STy) : sResult t (- -(2 ^ (sBitsOf t - 1))) = sResult t (-(2 ^ (sBitsOf t - 1))) := by
  apply sResult_congr
  cases t <;> decide

/-- A quotient is closer to zero than the dividend unless the divisor is 1 or -1. -/
theorem two_mul_natAbs_tdiv_le (x : Int) {y : Int} (h : 2 ≤ y.natAbs) : 2 * (Int.tdiv x y).natAbs ≤ x.natAbs := by
  rw [Int.natAbs_tdiv]
  exact (Nat.mul_le_mul_right _ h).trans (Nat.mul_div_le _ _)

/-- Outside division by zero and signed overflow the quotient needs no wrapping. -/
theorem tdiv_inScalarRange {t : STy} {x y : Int} (hx : inScalarRange t x) (hy : inScalarRange t y) (h0 : y ≠ 0)
    (hov : ¬(sSignedOf t = true ∧ x = -(2 ^ (sBitsOf t - 1)) ∧ y = -1)) : inScalarRange t (Int.tdiv x y) := by
  unfold inScalarRange at hx hy ⊢
  obtain h1 | h1 | h2 : y = 1 ∨ y = -1 ∨ 2 ≤ y.natAbs := by omega
  · simpa [h1] using hx
  · subst h1
    rw [Int.tdiv_neg, Int.tdiv_one]
    cases hs : sSignedOf t with
    | false => simp [hs] at hy
    | true =>
      simp only [hs, true_and, and_true, if_true] at hx hov ⊢
      omega
  · have hle := two_mul_natAbs_tdiv_le x h2
    cases hs : sSignedOf t with
    | false =>
      simp only [hs, Bool.false_eq_true, if_false] at hx hy ⊢
      have hnn := Int.tdiv_nonneg hx.1 hy.1
      omega
    | true =>
      simp only [hs, if_true] at hx ⊢
      omega

/-- The remainder lies between zero and the dividend. -/
theorem tmod_inScalarRange {t : STy} {x : Int} (hx : inScalarRange t x) (y : Int) : inScalarRange t (Int.tmod x y) := by
  have hle : (Int.tmod x y).natAbs ≤ x.natAbs := (Int.natAbs_tmod x y).trans_le (Nat.mod_le _ _)
  have hpos : 0 ≤ x → 0 ≤ Int.tmod x y := Int.tmod_nonneg y
  have hneg : x ≤ 0 → Int.tmod x y ≤ 0 := fun h => by
    have hnn := Int.tmod_nonneg y (Int.neg_nonneg.2 h)
    rw [Int.neg_tmod] at hnn
    omega
  unfold inScalarRange at hx ⊢
  cases hs : sSignedOf t with
  | false =>
    simp only [hs, Bool.false_eq_true, if_false] at hx ⊢
    omega
  | true =>
    simp only [hs, if_true] at hx ⊢
    omega

end Sys2Proof.Machine

open Sys2Proof Sys2Proof.Machine Sys2Proof.Claims

/-- Settles O7: the result of each is one value, wrapped, and only division by zero and signed overflow leave the type's range. -/
theorem divisionCorners : Obligations.DivisionCorners := by
  unfold Obligations.DivisionCorners
  intro s f c hc hon x y
  refine ⟨sResult f.ty (scalarQuot x y), sResult f.ty (scalarRem x y), _, _,
    (exec_div f s).trans (scalarOp_on hc hon _), Group.sWritten_wrS _ _ _, Group.sameButS_wrS _ _ _,
    (exec_rem f s).trans (scalarOp_on hc hon _), Group.sWritten_wrS _ _ _, Group.sameButS_wrS _ _ _,
    fun hy => ?zero, fun hs hx hy => ?overflow, fun hy hov => ?ordinary⟩
  case zero =>
    rw [hy]
    exact ⟨sResult_neg_one _, rfl⟩
  case overflow =>
    have hne : (-1 : Int) ≠ 0 := by decide
    rw [hx, hy, scalarQuot_of_ne hne, scalarRem_of_ne hne, Int.tdiv_neg, Int.tdiv_one, Int.tmod_neg, Int.tmod_one]
    exact ⟨sResult_neg_lowest _, sResult_zero _⟩
  case ordinary =>
    have hx : inScalarRange f.ty x := sVal_inScalarRange _ _
    rw [scalarQuot_of_ne hy, scalarRem_of_ne hy, sVal_sResult (tdiv_inScalarRange hx (sVal_inScalarRange _ _) hy hov),
      sVal_sResult (tmod_inScalarRange hx y)]
    exact ⟨rfl, Int.tmod_def x y⟩
end

section
/-!
PROOFS. BALLOT and MOVPS (R129, R159): writing a predicate in the lanes of a list, and the obligation PredicateScalarMoves.
-/
namespace Sys2Proof.Machine
open Sys2Proof.Claims

/-! ### Writing a predicate in every active lane (R157, R160) -/

theorem writePreds_cons (g : Group) (d : Nat) (fn : Nat → Bool × Nat) (l : Nat) (ls : List Nat) :
    writePreds g d fn (l :: ls) = writePreds ((g.wrP d l (fn l).1).raise (fn l).2) d fn ls := rfl

/-- A lane's bit of a predicate after every lane of a list has been written. -/
theorem get_writePreds (g : Group) (d : Nat) (fn : Nat → Bool × Nat) (ls : List Nat) (hn : ls.Nodup) (r k : Nat) (hk : k < 32) :
    (Map.get 0 (writePreds g d fn ls).p r).getLsbD k =
      if r = d ∧ r ≠ 0 ∧ k ∈ ls ∧ g.exited.getLsbD k = false then (fn k).1 else (Map.get 0 g.p r).getLsbD k := by
  induction ls generalizing g with
  | nil => simp [writePreds]
  | cons l t ih =>
    obtain ⟨hnot, ht⟩ := List.nodup_cons.1 hn
    rw [writePreds_cons, ih _ ht, Group.raise_exited, Group.wrP_exited, Group.raise_p, Group.get_wrP _ _ _ _ _ _ hk]
    by_cases hkl : k = l
    · subst hkl
      simp only [hnot, false_and, and_false, if_false, List.mem_cons, true_or, true_and, and_true]
      by_cases hr : r = d
      · simp [hr]
      · simp [hr]
    · simp only [List.mem_cons, hkl, false_or, and_false, if_false]

theorem Group.wrP_fpf (g : Group) (r l : Nat) (x : Bool) : (g.wrP r l x).fpf = g.fpf :=
  (congrArg Group.fpf (Group.wrP_frame g r l x) :)

theorem writePreds_fpf (g : Group) (d : Nat) (fn : Nat → Bool × Nat) (ls : List Nat) :
    (writePreds g d fn ls).fpf = ls.foldl (fun w l => w ||| fpfBits (fn l).2) g.fpf := by
  induction ls generalizing g with
  | nil => rfl
  | cons l t ih => rw [writePreds_cons, ih, List.foldl_cons, Group.raise_fpf, Group.wrP_fpf]

theorem sameButP.trans {a b c : Group} (h1 : sameButP a b) (h2 : sameButP b c) : sameButP a c :=
  ⟨(congrArg (fun y : Group => { y with p := a.p, fpf := a.fpf, raced := a.raced, poison := a.poison }) h2.1).trans h1.1,
   fun k hk => h1.2 k (h2.2 k hk)⟩

theorem sameButP_lane (g : Group) (d l : Nat) (x : Bool) (n : Nat) : sameButP g ((g.wrP d l x).raise n) :=
  ⟨congrArg (fun y : Group => { y with fpf := g.fpf }) (Group.wrP_frame g d l x), Group.wrP_poison g d l x⟩

theorem writePreds_frame (g : Group) (d : Nat) (fn : Nat → Bool × Nat) (ls : List Nat) : sameButP g (writePreds g d fn ls) := by
  induction ls generalizing g with
  | nil => exact ⟨rfl, fun k hk => hk⟩
  | cons l t ih => rw [writePreds_cons]; exact (sameButP_lane g d l _ _).trans (ih _)

/-- What writing a predicate in the active lanes leaves, in the terms of claims. -/
theorem writePreds_active (c : Iss) (d : Nat) (fn : Nat → Bool × Nat) :
    let g' := writePreds c.g d fn (lanesOf c.on)
    sameButP c.g g' ∧ pWritten c g' d (fun l => (fn l).1) ∧ flagsRaised c g' (fun l => (fn l).2) := by
  refine ⟨writePreds_frame _ _ _ _, fun r l hl => ?_, writePreds_fpf _ _ _ _⟩
  rw [get_writePreds _ _ _ _ (nodup_lanesOf _) _ _ hl]
  simp [mem_lanesOf, hl]

/-! ### Writes that raise no flag -/

@[simp] theorem Group.raise_zero (g : Group) : g.raise 0 = g := by
  simp [Group.raise, fpfBits]

theorem foldl_noFlags (ls : List Nat) (w : DWord) : ls.foldl (fun w _ => w ||| fpfBits 0) w = w := by
  simp [fpfBits]

theorem fpf_of_flagsRaised_zero {c : Iss} {g' : Group} (h : flagsRaised c g' (fun _ => 0)) : g'.fpf = c.g.fpf :=
  h.trans (foldl_noFlags _ _)

/-! ### BALLOT and MOVPS -/

section Moves
variable {s : State} {c : Iss}

/-- R159: the word that BALLOT writes. -/
def ballotWord (c : Iss) (r : Nat) : DWord := (c.on &&& c.g.rdP c.fc r).setWidth 64

theorem getLsbD_ballotWord (c : Iss) (r : Nat) {l : Nat} (hl : l < 32) :
    (ballotWord c r).getLsbD l = (c.on.getLsbD l && (c.g.rdP c.fc r).getLsbD l) := by
  simp [ballotWord, show l < 64 by omega]

theorem getLsbD_ballotWord_high (c : Iss) (r : Nat) {l : Nat} (hl : 32 ≤ l) : (ballotWord c r).getLsbD l = false := by
  simp [ballotWord, BitVec.getLsbD_of_ge _ _ hl]

theorem ballot_off {f : LFmt} (hc : issuer s f.r.g = some c) (h0 : c.on = 0) : completesAs (.ballot f) s c c.g := by
  change execBallot f s = _
  rw [execBallot, asGroup_eq hc, if_pos (beq_iff_eq.2 h0)]
  rfl

theorem ballot_on {f : LFmt} (hc : issuer s f.r.g = some c) (hon : c.on ≠ 0) :
    completesAs (.ballot f) s c (c.g.wrS f.r.dst.toNat (ballotWord c f.r.a.toNat)) := by
  change execBallot f s = _
  rw [execBallot, asGroup_eq hc, if_neg (by simpa using hon)]
  rfl

theorem movps_completes {f : SFmt} (hc : issuer s f.r.g = some c) : completesAs (.movps f) s c
    (writePreds c.g f.r.dst.toNat (fun l => ((c.sA f).getLsbD l, 0)) (lanesOf c.on)) := by
  change execMovps f s = _
  rw [execMovps, asGroup_eq hc]
  simp [finishGroup, Iss.done, writePreds]

end Moves
end Sys2Proof.Machine

open Sys2Proof Sys2Proof.Machine Sys2Proof.Claims

/-- Settles O8: BALLOT is one write of an s register, MOVPS one of a predicate in the active lanes that raises no flag. -/
theorem predicateScalarMoves : Obligations.PredicateScalarMoves := by
  unfold Obligations.PredicateScalarMoves
  refine ⟨fun s f c hc => ?ballot, fun s f c hc => ?movps⟩
  case ballot =>
    by_cases h0 : c.on = 0
    · exact ⟨_, ballot_off hc h0, ⟨rfl, fun _ hk => hk⟩, fun _ => rfl, fun hon => absurd h0 hon⟩
    · exact ⟨_, ballot_on hc h0, Group.sameButS_wrS _ _ _, fun hoff => absurd hoff h0, fun _ =>
        ⟨_, Group.sWritten_wrS _ _ _, fun l => getLsbD_ballotWord _ _, fun l => getLsbD_ballotWord_high _ _⟩⟩
  case movps =>
    obtain ⟨hframe, hpreds, hflags⟩ := writePreds_active c f.r.dst.toNat (fun l => ((c.sA f).getLsbD l, 0))
    exact ⟨_, movps_completes hc, hframe, fpf_of_flagsRaised_zero hflags, hpreds⟩
end

section
/-!
PROOFS. Transfers of a whole split (R132, R139, R140), and the obligation Transfers.
-/
namespace Sys2Proof.Machine
open Sys2Proof.Claims

/-! ### The return position (R140) -/

/-- R140: the position of the slot after a call. -/
def returnPos (c : Iss) : Word := codePos c.g (nextPc c.sp.pc)

/-- The return position is a write of DST in the split's lanes that raises no flag. -/
theorem writeReturn_eq (c : Iss) (r : BitVec 8) :
    c.writeReturn r = writeLanes c.g r.toNat (fun _ => (returnPos c, 0)) (lanesOf c.act) := by
  simp [Iss.writeReturn, writeLanes, returnPos]

theorem writeReturn_frame (c : Iss) (r : BitVec 8) : sameButV c.g (c.writeReturn r) := by
  rw [writeReturn_eq]
  exact writeLanes_frame _ _ _ _

theorem writeReturn_fpf (c : Iss) (r : BitVec 8) : (c.writeReturn r).fpf = c.g.fpf := by
  rw [writeReturn_eq, writeLanes_fpf]
  exact foldl_noFlags _ _

theorem get_writeReturn (c : Iss) (d : BitVec 8) (r : Nat) {l : Nat} (hl : l < 32) : Map.get 0 (c.writeReturn d).v (32 * r + l) =
    if r = d.toNat ∧ c.act.getLsbD l = true ∧ c.g.exited.getLsbD l = false then returnPos c else Map.get 0 c.g.v (32 * r + l) := by
  rw [writeReturn_eq, get_writeLanes _ _ _ _ (nodup_lanesOf _) (fun x hx => ((mem_lanesOf _ _).1 hx).1) _ _ hl]
  simp [mem_lanesOf, hl]

/-! ### What the five transfers come to -/

/-- The group that a transfer leaves but for its split: calls write the return position. -/
def callGroup (f : BFmt) (c : Iss) (i : Instr) : Group :=
  if i = .call f ∨ i = .calli f then c.writeReturn f.r.dst else c.g

section Whole
variable {s : State} {f : BFmt} {c : Iss} {pc : Nat} (hc : issuer s f.r.g = some c) (hon : c.on ≠ 0)
include hc hon

theorem directTransfer (g : Iss → Group) (hto : c.target f = pc) :
    asOnce f.r.g s (fun c => c.transfer s (g c) (c.target f)) = finishGroup s c (c.transfer s (g c) pc) := by
  rw [asOnce_on hc hon, hto]

theorem indirectTransfer (g : Iss → Group) (hto : c.indirect f.r.a = .ok pc) :
    asOnce f.r.g s (fun c => do c.transfer s (g c) (← c.indirect f.r.a)) = finishGroup s c (c.transfer s (g c) pc) := by
  rw [asOnce_on hc hon, hto]
  rfl

/-- The target is named by the instruction, or alike by the code positions of the lanes. -/
theorem exec_transfers {i : Instr} (hi : i ∈ transfers f c pc) :
    exec i s = finishGroup s c (c.transfer s (callGroup f c i) pc) := by
  have hcall (h : i = .call f ∨ i = .calli f) : callGroup f c i = c.writeReturn f.r.dst := if_pos h
  have hother (h : ¬(i = .call f ∨ i = .calli f)) : callGroup f c i = c.g := if_neg h
  obtain hi | hi := List.mem_append.1 hi
  · obtain ⟨hto, hi⟩ := (List.mem_ite_nil_right ..).1 hi
    obtain rfl | rfl : i = .bra f ∨ i = .call f := by simpa using hi
    · rw [hother (by simp)]
      exact directTransfer hc hon Iss.g hto
    · rw [hcall (by simp)]
      exact directTransfer hc hon (fun c => c.writeReturn f.r.dst) hto
  · obtain ⟨hall, hi⟩ := (List.mem_ite_nil_right ..).1 hi
    have hto : c.indirect f.r.a = .ok pc := indirect_eq_ok hc hon hall
    obtain rfl | rfl | rfl : i = .jmpi f ∨ i = .ret f ∨ i = .calli f := by simpa using hi
    · rw [hother (by simp)]
      exact indirectTransfer hc hon Iss.g hto
    · rw [hother (by simp)]
      exact indirectTransfer hc hon Iss.g hto
    · rw [hcall (by simp)]
      exact indirectTransfer hc hon (fun c => c.writeReturn f.r.dst) hto

end Whole

theorem callGroup_frame (f : BFmt) (c : Iss) (i : Instr) : sameButV c.g (callGroup f c i) ∧ (callGroup f c i).fpf = c.g.fpf := by
  unfold callGroup
  split
  · exact ⟨writeReturn_frame _ _, writeReturn_fpf _ _⟩
  · exact ⟨⟨rfl, fun _ hk => hk⟩, rfl⟩

theorem get_callGroup (f : BFmt) (c : Iss) (i : Instr) (r : Nat) {l : Nat} (hl : l < 32) : Map.get 0 (callGroup f c i).v (32 * r + l) =
    if (i = .call f ∨ i = .calli f) ∧ r = f.r.dst.toNat ∧ c.act.getLsbD l = true ∧ c.g.exited.getLsbD l = false
    then codePos c.g (nextPc c.sp.pc) else Map.get 0 c.g.v (32 * r + l) := by
  unfold callGroup
  by_cases hcall : i = .call f ∨ i = .calli f
  · rw [if_pos hcall, get_writeReturn _ _ _ hl]
    simp [hcall, returnPos]
  · simp [hcall]

end Sys2Proof.Machine

open Sys2Proof Sys2Proof.Machine Sys2Proof.Claims

/-- Settles O9: each of the five is one transfer of the split, beside the write of the return position that the calls make. -/
theorem transfers : Obligations.Transfers := by
  unfold Obligations.Transfers
  intro s s1 f c i pc line hc hon hi hline
  obtain ⟨hframe, hfpf⟩ := callGroup_frame f c i
  have hexec := (exec_transfers hc hon hi).trans (congrArg (finishGroup s c) (transfer_ok _ hline))
  exact ⟨_, hexec, targetLine_sameButFetch hline, hframe, hfpf, fun r l => get_callGroup f c i r⟩
end

section
/-!
PROOFS. LOOP, and BRK and CONT of one region (R135 to R137), and the obligation LoopControl.
-/
namespace Sys2Proof.Machine
open Sys2Proof.Claims

/-! ### LOOP (R137) -/

section Loop
variable {s s1 : State} {f : BFmt} {c : Iss} (hc : issuer s f.r.g = some c)

/-- The counter after a pass. -/
def loopCount (f : BFmt) (c : Iss) : DWord := c.g.rdS c.fc f.r.dst.toNat - 1

include hc

theorem loop_off (h0 : c.on = 0) : completesAs (.loop f) s c c.g := asOnce_off hc h0 _

variable (hon : c.on ≠ 0)
include hon

theorem exec_loop : exec (.loop f) s = finishGroup s c
    (if loopCount f c == 0 then .ok (c.done s (c.g.wrS f.r.dst.toNat (loopCount f c)))
     else c.transfer s (c.g.wrS f.r.dst.toNat (loopCount f c)) (c.target f)) := asOnce_on hc hon _

theorem loop_ends (hx : loopCount f c = 0) : completesAs (.loop f) s c (c.g.wrS f.r.dst.toNat 0) := by
  rw [completesAs, exec_loop hc hon, hx]
  rfl

theorem loop_repeats (hx : loopCount f c ≠ 0) {line : Line}
    (hline : targetLine s c.g (c.target f) (lowLane c.act) = .ok (line, s1)) : exec (.loop f) s =
      .next (s1.putG c.gid ((c.g.wrS f.r.dst.toNat (loopCount f c)).setSplit c.pos (transferred c (c.target f) line))) := by
  rw [exec_loop hc hon, if_neg (by simpa using hx), transfer_ok _ hline]
  rfl

end Loop

/-! ### The chain of one region (R90) -/

/-- A region count of 1 names the record of the split's link. -/
theorem chain_of_link {f : BFmt} {c : Iss} (hbk : f.bk = 1) {n : Nat} {r : JoinRec} (hlink : c.sp.link = some n)
    (hfind : c.g.findRec n = some r) : c.g.chain f.bk.toNat c.sp.link = [r] := by
  rw [hbk, hlink]
  simp [Group.chain, hfind]

theorem Group.num_of_findRec {g : Group} {n : Nat} {r : JoinRec} (h : g.findRec n = some r) : r.num = n := by
  simpa using List.find?_some h

/-- Of two replacements of one record the second stands. -/
theorem Group.putRec_putRec (g : Group) {q r : JoinRec} (h : q.num = r.num) : (g.putRec q).putRec r = g.putRec r := by
  simp only [Group.putRec, List.map_map]
  congr 1
  refine List.map_congr_left fun x _ => ?_
  by_cases hx : x.num = r.num
  · simp [h, hx]
  · simp [h, hx]

/-! ### BRK of one region (R135) -/

section Break
variable {s : State} {f : BFmt} {c : Iss} (hc : issuer s f.r.g = some c)

/-- R135: the lanes where the guard holds wait at a record. -/
def breakTo (c : Iss) (r : JoinRec) : Group :=
  c.g.putRec { r with exp := maskMinus r.exp c.on, arr := r.arr ||| c.on }

/-- The split goes on with the lanes that are left, where there are some. -/
def breakGroup (c : Iss) (r : JoinRec) : Group :=
  if maskMinus c.act c.on = 0 then { breakTo c r with splits := Map.del c.g.splits c.pos }
  else (breakTo c r).setSplit c.pos { c.sp.fall with mask := maskMinus c.act c.on }

theorem breakGroup_recs (c : Iss) (r : JoinRec) : (breakGroup c r).recs =
    c.g.recs.map (fun q => if q.num = r.num then { r with exp := maskMinus r.exp c.on, arr := r.arr ||| c.on } else q) := by
  unfold breakGroup
  split <;> simp [breakTo, Group.putRec]

theorem breakGroup_frame (c : Iss) (r : JoinRec) : { breakGroup c r with splits := c.g.splits, recs := c.g.recs } = c.g := by
  unfold breakGroup
  split <;> rfl

theorem find_breakGroup_none {r : JoinRec} (h : maskMinus c.act c.on = 0) : Map.find (breakGroup c r).splits c.pos = none := by
  rw [breakGroup, if_pos h]
  exact Map.find_del_self _ _

theorem find_breakGroup_some {r : JoinRec} (h : maskMinus c.act c.on ≠ 0) :
    Map.find (breakGroup c r).splits c.pos = some { c.sp.fall with mask := maskMinus c.act c.on } := by
  rw [breakGroup, if_neg h]
  exact Map.find_put_self _ _ _

include hc

theorem brk_off (h0 : c.on = 0) : completesAs (.brk f) s c c.g := by
  change execBrk f s = _
  rw [execBrk, asGroup_eq hc, if_pos (beq_iff_eq.2 h0)]
  rfl

variable (hbk : f.bk = 1) (hon : c.on ≠ 0)
include hbk hon

theorem brk_noRecord (hlink : c.sp.link = none) : trapsAs (.brk f) s c { cause := cBadTarget } := by
  change execBrk f s = _
  rw [execBrk, asGroup_eq hc, if_neg (by simpa using hon), hbk, hlink]
  rfl

theorem brk_on {n : Nat} {r : JoinRec} (hlink : c.sp.link = some n) (hfind : c.g.findRec n = some r) :
    exec (.brk f) s = .next (s.putG c.gid (breakGroup c r)) := by
  have hput : (c.g.putRec { r with exp := maskMinus r.exp c.on }).putRec
      { r with exp := maskMinus r.exp c.on, arr := r.arr ||| c.on } = breakTo c r := Group.putRec_putRec _ rfl
  change execBrk f s = _
  rw [execBrk, asGroup_eq hc, if_neg (by simpa using hon), chain_of_link hbk hlink hfind, if_neg (by simp [hbk])]
  simp only [List.foldl_cons, List.foldl_nil, List.getLast?_singleton, hput, beq_iff_eq]
  rfl

end Break

/-! ### CONT of one region (R136) -/

section Continue
variable {s s1 : State} {f : BFmt} {c : Iss} (hc : issuer s f.r.g = some c) (hbk : f.bk = 1) (hon : c.on ≠ 0)
include hc hbk hon

theorem cont_noRecord (hlink : c.sp.link = none) : trapsAs (.cont f) s c { cause := cBadTarget } := by
  refine trapsAs_of_asOnce hc hon rfl ?_
  simp only [hlink, hbk]
  rfl

variable {n : Nat} {r : JoinRec} (hlink : c.sp.link = some n) (hfind : c.g.findRec n = some r)
include hlink hfind

theorem cont_noLoop (hkind : r.kind ≠ 1) : trapsAs (.cont f) s c { cause := cBadTarget } := by
  refine trapsAs_of_asOnce hc hon rfl ?_
  simp [chain_of_link hbk hlink hfind, hkind]

theorem cont_loop (hkind : r.kind = 1) {line : Line} (hline : targetLine s c.g (c.target f) (lowLane c.act) = .ok (line, s1)) :
    exec (.cont f) s = .next (s1.putG c.gid (c.g.setSplit c.pos { transferred c (c.target f) line with link := some n })) := by
  change execCont f s = _
  rw [execCont, asOnce_on hc hon]
  simp only [chain_of_link hbk hlink hfind, List.getLast?_singleton, hline, Group.num_of_findRec hfind]
  rw [if_neg (by simp [hbk, hkind])]
  rfl

end Continue
end Sys2Proof.Machine

open Sys2Proof Sys2Proof.Machine Sys2Proof.Claims

/-- Settles O12: LOOP by its counter, BRK and CONT by the one record that a region count of 1 names. -/
theorem loopControl : Obligations.LoopControl := by
  unfold Obligations.LoopControl
  refine ⟨fun s f c hc => ⟨loop_off hc, fun hon hx => ⟨_, loop_ends hc hon hx, Group.sameButS_wrS _ _ _, Group.sWritten_wrS _ _ _⟩,
      fun hon hx line s1 hline => ⟨_, loop_repeats hc hon hx hline, Group.sameButS_wrS _ _ _, Group.sWritten_wrS _ _ _,
        targetLine_sameButFetch hline⟩⟩,
    fun s f c hc hbk => ⟨brk_off hc, brk_noRecord hc hbk, fun hon n r hlink hfind =>
      ⟨_, brk_on hc hbk hon hlink hfind, breakGroup_recs c r, find_breakGroup_none, find_breakGroup_some, breakGroup_frame c r⟩⟩,
    fun s f c hc hbk hon => ⟨cont_noRecord hc hbk hon, fun n r hlink hfind => ⟨cont_noLoop hc hbk hon hlink hfind,
      fun hkind line s1 hline => ⟨cont_loop hc hbk hon hlink hfind hkind hline, targetLine_sameButFetch hline⟩⟩⟩⟩
end

section
/-!
PROOFS. EXIT and YIELD (R88, R90, R141, R142), the demotions at the end of a step (R87, R88), and the obligation ExitYield.
-/
namespace Sys2Proof.Machine
open Sys2Proof.Claims

/-! ### Lanes that exit (R90, R141) -/

theorem maskMinus_and_self (a m : Mask) : maskMinus a m &&& m = 0 := by
  refine BitVec.eq_of_getLsbD_eq fun l _ => ?_
  rw [BitVec.getLsbD_and, getLsbD_maskMinus]
  simp

/-- A split that is left keeps lanes, and none of those that exit. -/
theorem Group.mem_exitLanes_splits {g : Group} {m : Mask} {p : Nat} {sp : Split} (h : (p, sp) ∈ (g.exitLanes m).splits) :
    sp.mask &&& m = 0 ∧ sp.mask ≠ 0 := by
  obtain ⟨hmem, hlanes⟩ := List.mem_filter.1 h
  obtain ⟨q, -, heq⟩ := List.mem_map.1 hmem
  cases heq
  exact ⟨maskMinus_and_self _ _, by simpa using hlanes⟩

/-- A record expects, holds and defers none of the lanes that exit. -/
theorem Group.mem_exitLanes_recs {g : Group} {m : Mask} {r : JoinRec} (h : r ∈ (g.exitLanes m).recs) :
    r.exp &&& m = 0 ∧ r.arr &&& m = 0 ∧ r.dmask &&& m = 0 := by
  obtain ⟨q, -, rfl⟩ := List.mem_map.1 h
  exact ⟨maskMinus_and_self _ _, maskMinus_and_self _ _, maskMinus_and_self _ _⟩

theorem Group.exitLanes_exited {g : Group} {m : Mask} {l : Nat} (h : m.getLsbD l = true) : (g.exitLanes m).exited.getLsbD l = true := by
  simp [Group.exitLanes, h]

/-- R141: the registers of an exited lane are never written again. -/
theorem Group.wr_of_exited {g : Group} {l : Nat} (h : g.exited.getLsbD l = true) (r : Nat) (x : Word) :
    g.wrV r l x = g ∧ ∀ b, g.wrP r l b = g := by
  simp [Group.wrV, Group.wrP, h]

/-- The group after EXIT. -/
def exitGroup (c : Iss) : Group := (c.g.advance c.pos).exitLanes c.on

theorem exec_exit {s : State} {f : BFmt} {c : Iss} (hc : issuer s f.r.g = some c) :
    exec (.exit f) s = .next (s.putG c.gid (exitGroup c)) := by
  change execExit f s = _
  rw [execExit, asGroup_eq hc]
  rfl

theorem exitGroup_exited (c : Iss) : (exitGroup c).exited = c.g.exited ||| c.on := by
  have hsame : (c.g.advance c.pos).exited = c.g.exited := (congrArg Group.exited (Group.advance_frame c.g c.pos) :)
  exact congrArg (· ||| c.on) hsame

theorem exitGroup_frame (c : Iss) : { exitGroup c with splits := c.g.splits, recs := c.g.recs, exited := c.g.exited } = c.g :=
  (congrArg (fun g : Group => { g with recs := c.g.recs, exited := c.g.exited }) (Group.advance_frame c.g c.pos) :)

/-! ### YIELD (R88, R142) -/

/-- R142: the split is demoted and the group has just issued. -/
def yieldGroup (s : State) (c : Iss) : Group := { c.g.demote c.pos with lastIssue := s.clk / 10, urgent := false }

/-- R88: a split that has just been demoted. -/
def demotedSplit (sp : Split) : Split := { sp with isDem := true, demNew := true, passed := 0 }

theorem yield_completes {s : State} {f : BFmt} {c : Iss} (hc : issuer s f.r.g = some c) (hon : c.on ≠ 0) :
    completesAs (.yield f) s c (yieldGroup s c) := asOnce_on hc hon _

theorem find_yieldGroup_self {s : State} {f : BFmt} {c : Iss} (hc : issuer s f.r.g = some c) :
    Map.find (yieldGroup s c).splits c.pos = some (demotedSplit c.sp) := by
  obtain ⟨-, -, hsp, -⟩ := issuer_spec hc
  exact Map.find_modify_some hsp _

theorem find_yieldGroup_ne (s : State) (c : Iss) {p : Nat} (h : p ≠ c.pos) :
    Map.find (yieldGroup s c).splits p = Map.find c.g.splits p :=
  (Map.find_modify _ _ _ _).trans (if_neg h)

theorem yieldGroup_age (s : State) (c : Iss) : (yieldGroup s c).age s = 0 := Nat.sub_self _

/-! ### The end of a step (R87, R88) -/

/-- The positions of the splits that were demoted in this step. -/
def newlyDemoted (g : Group) : List Nat := (g.splits.filter (fun p => p.2.demNew)).map Prod.fst

theorem mem_newlyDemoted {g : Group} {p : Nat} : p ∈ newlyDemoted g ↔ ∃ q, (p, q) ∈ g.splits ∧ q.demNew = true := by
  simp [newlyDemoted]

/-- The splits of a group once the demotions of the step are known. -/
def settleDemotions (s : State) (gid : Nat) (g : Group) : Group :=
  let fresh := newlyDemoted g
  let ready := (readySplits s gid g).filter (fun p => !fresh.contains p)
  { g with splits := g.splits.map (fun p =>
      (p.1, { p.2 with demoted := if p.2.demNew then ready else p.2.demoted.filter (fun q => !fresh.contains q), demNew := false })) }

/-- A group of the state at the end of a step; one with no new demotion is as it was. -/
def settledGroup (s : State) (x : Nat × Group) : Nat × Group :=
  if (newlyDemoted x.2).isEmpty then x else (x.1, settleDemotions s x.1 x.2)

theorem settledGroup_key (s : State) (x : Nat × Group) : (settledGroup s x).1 = x.1 := by
  unfold settledGroup
  split <;> rfl

section Demotions
variable {s : State} {gid pos : Nat} {g : Group} {sp : Split} (hsp : Map.find g.splits pos = some sp) (hnew : sp.demNew = true)
include hsp hnew

theorem demotions_groups (hg : Map.find s.groups gid = some g) : (demotions s).groups = s.groups.map (settledGroup s) := by
  have hsome : ¬ (s.groups.all fun g => g.2.splits.all fun p => !p.2.demNew) = true := by
    intro hall
    simpa [hnew] using List.all_eq_true.1 (List.all_eq_true.1 hall _ (Map.mem_of_find hg)) _ (Map.mem_of_find hsp)
  rw [demotions, if_neg hsome]
  rfl

theorem find_demotions (hg : Map.find s.groups gid = some g) :
    Map.find (demotions s).groups gid = some (settleDemotions s gid g) := by
  have hne : newlyDemoted g ≠ [] := List.ne_nil_of_mem (mem_newlyDemoted.2 ⟨sp, Map.mem_of_find hsp, hnew⟩)
  rw [demotions_groups hsp hnew hg, Map.find_map_values _ _ (settledGroup_key s), hg, Option.map_some, settledGroup,
    if_neg (by simpa using hne)]

/-- R88: the split waits for the others that are ready now. -/
theorem find_settleDemotions : Map.find (settleDemotions s gid g).splits pos = some { sp with
    demoted := (readySplits s gid g).filter (fun p => !(newlyDemoted g).contains p), demNew := false } := by
  refine (Map.find_map_values g.splits _ (fun x => ?_) pos).trans ?_
  · rfl
  · simp [hsp, hnew]

end Demotions
end Sys2Proof.Machine

open Sys2Proof Sys2Proof.Machine Sys2Proof.Claims

/-- Settles O13: EXIT takes its lanes out of every split and record, YIELD marks its split, and the end of the step finds what the
marked split is passed over for. -/
theorem exitYield : Obligations.ExitYield := by
  unfold Obligations.ExitYield
  refine ⟨fun s f c hc => ?exit, fun s f c hc hon => ?yield, fun s gid pos g sp hg hsp hnew => ?demotions⟩
  case exit =>
    exact ⟨_, exec_exit hc, exitGroup_exited c, fun p sp => Group.mem_exitLanes_splits, fun r => Group.mem_exitLanes_recs,
      fun r l x hl => Group.wr_of_exited (Group.exitLanes_exited hl) r x, exitGroup_frame c⟩
  case yield =>
    exact ⟨_, _, yield_completes hc hon, find_yieldGroup_self hc, rfl, rfl, rfl, yieldGroup_age s c, rfl,
      fun p => find_yieldGroup_ne s c⟩
  case demotions =>
    refine ⟨_, _, find_demotions hsp hnew hg, find_settleDemotions hsp hnew, ?_, fun p => ?_⟩
    · rw [← hnew]
    · simp [← mem_newlyDemoted]
end

section
/-!
PROOFS. The per-lane instructions of class 00 (R148 to R164): each is one write of DST in its active lanes, of registers or of
predicates. The obligations LaneArithmetic, LaneMoves and LanePredicates.
-/
namespace Sys2Proof.Machine
open Sys2Proof.Claims

section Writes
variable {s : State} {f : LFmt} {c : Iss} (hc : issuer s f.r.g = some c) {i : Instr}
include hc

/-- R148: an instruction that is a write of v registers completes with the values of its active lanes and nothing else. -/
theorem laneOp_writes {fn : Iss → Nat → Word × Nat} (hi : exec i s = laneOp f s fn) :
    ∃ g', completesAs i s c g' ∧ sameButV c.g g' ∧
      vWritten c g' f.r.dst.toNat (fun l => (fn c l).1) ∧ flagsRaised c g' (fun l => (fn c l).2) :=
  ⟨_, hi.trans (asGroup_eq hc _), writeLanes_active c f.r.dst.toNat (fn c)⟩

/-- R157, R160: an instruction that is a write of predicates completes with the bits of its active lanes and nothing else. -/
theorem predOp_writes {fn : Iss → Nat → Bool × Nat} (hi : exec i s = predOp f s fn) :
    ∃ g', completesAs i s c g' ∧ sameButP c.g g' ∧
      pWritten c g' f.r.dst.toNat (fun l => (fn c l).1) ∧ flagsRaised c g' (fun l => (fn c l).2) :=
  ⟨_, hi.trans (asGroup_eq hc _), writePreds_active c f.r.dst.toNat (fn c)⟩

end Writes

/-! ### What each instruction writes -/

theorem exec_elemInstrs (f : LFmt) (s : State) : ∀ p ∈ elemInstrs f, exec p.1 s = elemLanes p.2 f s := by
  simp only [elemInstrs, List.forall_mem_cons, List.not_mem_nil, false_implies, implies_true, and_true]
  and_intros <;> rfl

theorem exec_laneMoves (f : LFmt) (c : Iss) (s : State) :
    ∀ p ∈ laneMoves f c, ∃ fn, exec p.1 s = laneOp f s fn ∧ fn c = p.2 := by
  simp only [laneMoves, List.forall_mem_cons, List.not_mem_nil, false_implies, implies_true, and_true]
  exact ⟨⟨_, rfl, rfl⟩, ⟨_, rfl, rfl⟩, ⟨_, rfl, rfl⟩, ⟨_, rfl, rfl⟩, ⟨_, rfl, rfl⟩, ⟨_, rfl, rfl⟩, ⟨_, rfl, rfl⟩, ⟨_, rfl, rfl⟩,
    ⟨_, rfl, rfl⟩⟩

theorem exec_lanePreds (f : LFmt) (c : Iss) (s : State) :
    ∀ p ∈ lanePreds f c, ∃ fn, exec p.1 s = predOp f s fn ∧ fn c = p.2 := by
  simp only [lanePreds, List.forall_mem_cons, List.not_mem_nil, false_implies, implies_true, and_true]
  exact ⟨⟨_, rfl, rfl⟩, ⟨_, rfl, rfl⟩, ⟨_, rfl, rfl⟩, ⟨_, rfl, rfl⟩, ⟨_, rfl, rfl⟩⟩

end Sys2Proof.Machine

open Sys2Proof Sys2Proof.Machine Sys2Proof.Claims

/-- Settles O1: each instruction is one write of registers, of its operation applied element by element to the lane's operands. -/
theorem laneArithmetic : Obligations.LaneArithmetic := by
  unfold Obligations.LaneArithmetic
  intro s f c i op hi hc
  exact laneOp_writes hc (exec_elemInstrs f s (i, op) hi)

/-- Settles O2: each instruction is one write of registers, of a value that the group and the lane determine. -/
theorem laneMoves : Obligations.LaneMoves := by
  unfold Obligations.LaneMoves
  intro s f c i fn hi hc
  obtain ⟨value, hexec, rfl⟩ := exec_laneMoves f c s (i, fn) hi
  exact laneOp_writes hc hexec

/-- Settles O3: each instruction is one write of predicates, which leaves p0 and the other lanes as they were. -/
theorem lanePredicates : Obligations.LanePredicates := by
  unfold Obligations.LanePredicates
  intro s f c i fn hi hc
  obtain ⟨bit, hexec, rfl⟩ := exec_lanePreds f c s (i, fn) hi
  exact predOp_writes hc hexec
end

section
/-!
PROOFS. MIN and MAX of class 00 on floating types (R150, R151), and the obligation FloatMinMaxNaN.
-/
namespace Sys2Proof.Machine

/-! ### The floating operations (R150) -/

theorem Ty.isInt_of_isFlt {t : Ty} (ht : t.isFlt = true) : t.isInt = false := by
  revert ht
  cases t <;> decide

theorem elemOp_of_isFlt {op : Nat} {t : Ty} (hop : op < 0x0F) (ht : t.isFlt = true) (rm : RM) (sat : Bool) (x y z : Nat) :
    elemOp op t rm sat x y z = floatElem op t rm sat x y z := by
  have hint : ¬ t.isInt = true := by simp [Ty.isInt_of_isFlt ht]
  interval_cases op <;> exact if_neg hint

/-! ### MIN and MAX (R151) -/

/-- R151: what MIN and MAX both give where an operand is NaN, and `ordered` where neither is. -/
def nanOr (f : FF) (a b ordered : Nat) : Nat :=
  if f.isNaN a then (if f.isNaN b then f.canon else b) else if f.isNaN b then a else ordered

section NaN
variable {f : FF} {a b : Nat} (n : Nat)

theorem nanOr_left (ha : f.isNaN a = true) (hb : f.isNaN b = false) : nanOr f a b n = b := by simp [nanOr, ha, hb]
theorem nanOr_right (ha : f.isNaN a = false) (hb : f.isNaN b = true) : nanOr f a b n = a := by simp [nanOr, ha, hb]
theorem nanOr_both (ha : f.isNaN a = true) (hb : f.isNaN b = true) : nanOr f a b n = f.canon := by simp [nanOr, ha, hb]

end NaN

/-- MIN and MAX differ in the order of their operands alone. -/
theorem elemOp_minMax {op : Nat} {t : Ty} (hop : op = 0x07 ∨ op = 0x08) (ht : t.isFlt = true) (rm : RM) (sat : Bool) (a b c : Nat) :
    ∃ ordered, elemOp op t rm sat a b c = plain (nanOr (ffOf t) a b ordered) := by
  obtain rfl | rfl := hop
  · exact ⟨_, elemOp_of_isFlt (by decide) ht rm sat a b c⟩
  · exact ⟨_, elemOp_of_isFlt (by decide) ht rm sat a b c⟩

end Sys2Proof.Machine

open Sys2Proof Sys2Proof.Machine Sys2Proof.Claims

/-- Settles O5: MIN and MAX treat NaN operands alike, and their results are plain. -/
theorem floatMinMaxNaN : Obligations.FloatMinMaxNaN := by
  unfold Obligations.FloatMinMaxNaN
  intro t rm sat a b c op ht hop _ _
  obtain ⟨ordered, hres⟩ := elemOp_minMax hop ht rm sat a b c
  rw [hres]
  exact ⟨rfl, nanOr_left ordered, nanOr_right ordered, nanOr_both ordered⟩
end

section
/-!
PROOFS. PDSET in its four forms and PDGET (R171, R192, R194), and the obligation PlaneDescriptors.
-/
namespace Sys2Proof.Machine
open Sys2Proof.Claims

/-! ### The words of descriptors -/

/-- A descriptor word after a write; each descriptor has four. -/
theorem Group.rdPd_wrPd (g : Group) (d k : Nat) {w v : Nat} (x : DWord) (hw : w < 4) (hv : v < 4) :
    (g.wrPd d w x).rdPd k v = if k = d ∧ v = w then x else g.rdPd k v := by
  have hkey : (4 * k + v = 4 * d + w) ↔ k = d ∧ v = w := by omega
  simp only [Group.rdPd, Group.wrPd, Map.get_set, hkey]

@[simp] theorem Group.rdPd_heal (g : Group) (key d w : Nat) : (g.heal key).rdPd d w = g.rdPd d w := by
  unfold Group.heal
  split <;> rfl

theorem sameButPd.trans {a b c : Group} (h1 : sameButPd a b) (h2 : sameButPd b c) : sameButPd a c :=
  ⟨(congrArg (fun y : Group => { y with pd := a.pd, poison := a.poison }) h2.1).trans h1.1, fun k hk => h1.2 k (h2.2 k hk)⟩

theorem sameButPd_wrPd (g : Group) (d w : Nat) (x : DWord) : sameButPd g (g.wrPd d w x) := ⟨rfl, fun _ hk => hk⟩

theorem sameButPd_heal (g : Group) (key : Nat) : sameButPd g (g.heal key) :=
  ⟨congrArg (fun y : Group => { y with pd := g.pd }) (Group.heal_frame g key), fun k hk => Group.heal_poison g key k hk⟩

/-! ### Fields of a word after another field is replaced -/

theorem bits_setBits_self {n : Nat} (w : BitVec n) {hi lo : Nat} (hlo : lo ≤ hi) (hn : hi < n) (v : Nat) :
    bits (setBits w hi lo v) hi lo = v % 2 ^ (hi + 1 - lo) := by
  refine Nat.eq_of_testBit_eq fun j => ?_
  rw [testBit_bits, getLsbD_setBits w hlo, Nat.testBit_mod_two_pow]
  by_cases hj : j < hi + 1 - lo
  · rw [if_pos (by omega), Nat.add_sub_cancel_left, decide_eq_true (show lo + j < n by omega), Bool.true_and]
  · simp [hj]

theorem bits_setBits_ne {n : Nat} (w : BitVec n) {hi lo hi' lo' : Nat} (hlo : lo ≤ hi) (hn : hi' < n) (h : hi' < lo ∨ hi < lo')
    (v : Nat) : bits (setBits w hi lo v) hi' lo' = bits w hi' lo' := by
  refine bits_congr fun k hk1 hk2 => ?_
  rw [getLsbD_setBits w hlo, if_neg (by omega), decide_eq_true (show k < n by omega), Bool.true_and]

theorem bit_setBits_self {n : Nat} (w : BitVec n) {hi lo k : Nat} (hn : hi < n) (h1 : lo ≤ k) (h2 : k ≤ hi) (v : Nat) :
    bit (setBits w hi lo v) k = v.testBit (k - lo) := by
  rw [bit, getLsbD_setBits w (h1.trans h2), if_pos ⟨h1, h2⟩, decide_eq_true (show k < n by omega), Bool.true_and]

theorem bit_setBits_ne {n : Nat} (w : BitVec n) {hi lo k : Nat} (hlo : lo ≤ hi) (hn : k < n) (h : k < lo ∨ hi < k) (v : Nat) :
    bit (setBits w hi lo v) k = bit w k := by
  rw [bit, getLsbD_setBits w hlo, if_neg (by omega), decide_eq_true hn, Bool.true_and, bit]

/-! ### The halves of words 2 and 3: a dimension each (R171) -/

/-- 32 bits of a number, from the `k`-th such place. -/
def half (n k : Nat) : Nat := n / 2 ^ (32 * k) % 2 ^ 32

theorem testBit_half (n k j : Nat) : (half n k).testBit j = (decide (j < 32) && n.testBit (32 * k + j)) := by
  rw [half, Nat.testBit_mod_two_pow, Nat.testBit_div_two_pow, Nat.add_comm j]

/-- The number whose halves are those of `n` below `k`, then `x`, then zero. -/
def cutHalves (n k x : Nat) : Nat := n % 2 ^ (32 * k) + x * 2 ^ (32 * k)

theorem testBit_cutHalves (n k x j : Nat) : (cutHalves n k x).testBit j = if j < 32 * k then n.testBit j else x.testBit (j - 32 * k) := by
  rw [cutHalves, Nat.add_comm, Nat.mul_comm, Nat.testBit_two_pow_mul_add _ (Nat.mod_lt _ (Nat.two_pow_pos _)), Nat.testBit_mod_two_pow]
  split <;> simp [*]

theorem half_cutHalves_below {n k d x : Nat} (h : d < k) : half (cutHalves n k x) d = half n d := by
  refine Nat.eq_of_testBit_eq fun j => ?_
  rw [testBit_half, testBit_half, testBit_cutHalves]
  by_cases hj : j < 32
  · rw [if_pos (by omega)]
  · simp [hj]

theorem half_cutHalves_self {n k x : Nat} (hx : x < 2 ^ 32) : half (cutHalves n k x) k = x := by
  refine Nat.eq_of_testBit_eq fun j => ?_
  rw [testBit_half, testBit_cutHalves, if_neg (by omega), Nat.add_sub_cancel_left]
  by_cases hj : j < 32
  · simp [hj]
  · have hxj : x < 2 ^ j := hx.trans_le (Nat.pow_le_pow_right (by decide) (by omega))
    simp [Nat.testBit_lt_two_pow hxj]

theorem half_cutHalves_above {n k d x : Nat} (hx : x < 2 ^ 32) (h : k < d) : half (cutHalves n k x) d = 0 := by
  refine Nat.eq_of_testBit_eq fun j => ?_
  have hxj : x < 2 ^ (32 * d + j - 32 * k) := hx.trans_le (Nat.pow_le_pow_right (by decide) (by omega))
  rw [testBit_half, testBit_cutHalves, if_neg (by omega), Nat.testBit_lt_two_pow hxj]
  simp

/-- Words 2 and 3 of a descriptor as one number. -/
def outerWords (w : Nat → DWord) : Nat := (w 2).toNat + (w 3).toNat * 2 ^ 64

theorem half_outerWords (w : Nat → DWord) {d : Nat} (hd : d < 4) :
    (w (2 + d / 2)).toNat / 2 ^ (32 * (d % 2)) % 2 ^ 32 = half (outerWords w) d := by
  have h2 := (w 2).isLt
  unfold half outerWords
  interval_cases d <;> simp <;> omega

/-- The fields of a descriptor, its dimensions by the halves of words 2 and 3. -/
theorem pdescOf_eq (w : Nat → DWord) (mask : Bool) : pdescOf w mask =
    { p := bits (w 0) 15 0, q := bits (w 0) 31 16, fmt := bits (w 0) 35 32, fy := bit (w 0) 36, fx := bit (w 0) 37,
      base := bits (w 0) 47 40, nd := bits (w 0) 50 48, edgec := (w 1).setWidth 32,
      ext := (List.range 4).map (fun d => half (outerWords w) d % 2 ^ 16),
      str := (List.range 4).map (fun d => half (outerWords w) d / 2 ^ 16 % 2 ^ 8),
      clean := bits (w 0) 39 38 == 0 && bits (w 0) 63 51 == 0 && bits (w 1) 63 32 == 0 &&
        (List.range 4).all (fun d => half (outerWords w) d / 2 ^ 24 == 0),
      mask := mask } := by
  have hmap {α : Type} (g : Nat → α) : (List.range 4).map (fun d => g ((w (2 + d / 2)).toNat / 2 ^ (32 * (d % 2)) % 2 ^ 32)) =
      (List.range 4).map (fun d => g (half (outerWords w) d)) :=
    List.map_congr_left fun d hd => congrArg g (half_outerWords w (List.mem_range.1 hd))
  have hall : (List.range 4).all (fun d => (w (2 + d / 2)).toNat / 2 ^ (32 * (d % 2)) % 2 ^ 32 / 2 ^ 24 == 0) =
      (List.range 4).all (fun d => half (outerWords w) d / 2 ^ 24 == 0) := by
    rw [Bool.eq_iff_iff, List.all_eq_true, List.all_eq_true]
    exact forall₂_congr fun d hd => by rw [half_outerWords w (List.mem_range.1 hd)]
  simp only [pdescOf, hmap (fun n => n % 2 ^ 16), hmap (fun n => n / 2 ^ 16 % 2 ^ 8), hall]

/-! ### Instructions that write one descriptor (R192) -/

/-- The words of no descriptor but `d` are written, and nothing else but poison marks changes. -/
def onlyDesc (g g' : Group) (d : Nat) : Prop := sameButPd g g' ∧ ∀ k, k ≠ d → ∀ w, w < 4 → g'.rdPd k w = g.rdPd k w

theorem onlyDesc.trans {a b c : Group} {d : Nat} (h1 : onlyDesc a b d) (h2 : onlyDesc b c d) : onlyDesc a c d :=
  ⟨h1.1.trans h2.1, fun k hk w hw => (h2.2 k hk w hw).trans (h1.2 k hk w hw)⟩

theorem onlyDesc_wrPd (g : Group) (d : Nat) {w : Nat} (hw : w < 4) (x : DWord) : onlyDesc g (g.wrPd d w x) d :=
  ⟨sameButPd_wrPd g d w x, fun k hk v hv => by rw [Group.rdPd_wrPd g d k x hw hv, if_neg (fun h => hk h.1)]⟩

theorem onlyDesc_heal (g : Group) (d key : Nat) : onlyDesc g (g.heal key) d :=
  ⟨sameButPd_heal g key, fun k _ w _ => g.rdPd_heal key k w⟩

/-! ### The descriptor that each form leaves (R192) -/

/-- Word 0 as PDSET writes it. -/
def pdsetWord (f : PFmt) : DWord := BitVec.ofNat 64 (f.imm.toNat + f.amt.toNat % 64 * 2 ^ 32 + f.r.a.toNat * 2 ^ 40)

theorem pdsetWord_toNat (f : PFmt) : (pdsetWord f).toNat = f.imm.toNat + f.amt.toNat % 64 * 2 ^ 32 + f.r.a.toNat * 2 ^ 40 := by
  have := f.imm.isLt
  have := f.r.a.isLt
  exact (BitVec.toNat_ofNat _ _).trans (Nat.mod_eq_of_lt (by omega))

theorem bit_pdsetWord (f : PFmt) {k : Nat} (h1 : 32 ≤ k) (h2 : k < 38) : bit (pdsetWord f) k = f.amt.getLsbD (k - 32) := by
  have hbit {n : Nat} (w : BitVec n) (k : Nat) : w.getLsbD k = decide (w.toNat / 2 ^ k % 2 = 1) := by
    rw [← BitVec.testBit_toNat, Nat.testBit_eq_decide_div_mod_eq]
  have := f.imm.isLt
  rw [bit, hbit, hbit, pdsetWord_toNat, decide_eq_decide]
  interval_cases k <;> omega

section Words
variable {v w : Nat → DWord} (mask : Bool)

theorem pdescOf_pdset (f : PFmt) (h0 : w 0 = pdsetWord f) (h1 : w 1 = 0) (h2 : w 2 = 0) (h3 : w 3 = 0) : pdescOf w mask =
    { p := f.imm.toNat % 2 ^ 16, q := f.imm.toNat / 2 ^ 16, fmt := f.amt.toNat % 16, fy := f.amt.getLsbD 4,
      fx := f.amt.getLsbD 5, base := f.r.a.toNat, nd := 0, edgec := 0, ext := [0, 0, 0, 0], str := [0, 0, 0, 0],
      clean := true, mask := mask } := by
  have himm := f.imm.isLt
  have ha := f.r.a.isLt
  have hbits (hi lo : Nat) : bits (pdsetWord f) hi lo =
    (f.imm.toNat + f.amt.toNat % 64 * 2 ^ 32 + f.r.a.toNat * 2 ^ 40) / 2 ^ lo % 2 ^ (hi + 1 - lo) := by rw [bits, pdsetWord_toNat]
  have hp : bits (pdsetWord f) 15 0 = f.imm.toNat % 2 ^ 16 := by rw [hbits]; omega
  have hq : bits (pdsetWord f) 31 16 = f.imm.toNat / 2 ^ 16 := by rw [hbits]; omega
  have hfmt : bits (pdsetWord f) 35 32 = f.amt.toNat % 16 := by rw [hbits]; omega
  have hbase : bits (pdsetWord f) 47 40 = f.r.a.toNat := by rw [hbits]; omega
  have hnd : bits (pdsetWord f) 50 48 = 0 := by rw [hbits]; omega
  have hlow : bits (pdsetWord f) 39 38 = 0 := by rw [hbits]; omega
  have hhigh : bits (pdsetWord f) 63 51 = 0 := by rw [hbits]; omega
  have houter : outerWords w = 0 := by rw [outerWords, h2, h3]; rfl
  rw [pdescOf_eq, houter, h0, h1, hp, hq, hfmt, hbase, hnd, hlow, hhigh, bit_pdsetWord f (by decide) (by decide),
    bit_pdsetWord f (by decide) (by decide)]
  rfl

/-- Word 1 with another edge constant. -/
def edgeWord (w : DWord) (x : Word) : DWord := BitVec.ofNat 64 (bits w 63 32 * 2 ^ 32 + x.toNat)

theorem pdescOf_edge (x : Word) (h0 : v 0 = w 0) (h1 : v 1 = edgeWord (w 1) x) (h2 : v 2 = w 2) (h3 : v 3 = w 3) :
    pdescOf v mask = { pdescOf w mask with edgec := x } := by
  have hx := x.isLt
  have hlt := bits_lt (w 1) 63 32
  have hedge : (edgeWord (w 1) x).setWidth 32 = x := by
    rw [edgeWord, ← BitVec.toNat_inj, BitVec.toNat_setWidth, BitVec.toNat_ofNat]
    omega
  have hhigh : bits (edgeWord (w 1) x) 63 32 = bits (w 1) 63 32 := by
    rw [edgeWord, bits, BitVec.toNat_ofNat]
    omega
  have houter : outerWords v = outerWords w := by rw [outerWords, outerWords, h2, h3]
  rw [pdescOf_eq, pdescOf_eq, houter, h0, h1, hedge, hhigh]

/-- Word 0 of a copy: another base and other foldings. -/
def likeWord (f : PFmt) (w : DWord) : DWord := setBits (setBits w 37 36 (bits f.amt 5 4)) 47 40 f.r.b.toNat

/-- The fields of word 0 that PDSET.LIKE copies. -/
theorem bits_likeWord (f : PFmt) (w : DWord) {hi lo : Nat} (hhi : hi < 64) (h : hi < 36 ∨ 37 < lo ∧ hi < 40 ∨ 47 < lo) :
    bits (likeWord f w) hi lo = bits w hi lo := by
  rw [likeWord, bits_setBits_ne _ (by decide) hhi (by omega), bits_setBits_ne _ (by decide) hhi (by omega)]

theorem bit_likeWord (f : PFmt) (w : DWord) {k : Nat} (h1 : 36 ≤ k) (h2 : k ≤ 37) : bit (likeWord f w) k = f.amt.getLsbD (k - 32) := by
  rw [likeWord, bit_setBits_ne _ (by decide) (by omega) (by omega), bit_setBits_self _ (by decide) h1 h2, testBit_bits,
    decide_eq_true (by omega), Bool.true_and, show 4 + (k - 36) = k - 32 by omega]

theorem pdescOf_like (f : PFmt) (h0 : v 0 = likeWord f (w 0)) (h1 : v 1 = w 1) (h2 : v 2 = w 2) (h3 : v 3 = w 3) : pdescOf v mask =
    { pdescOf w mask with base := f.r.b.toNat, fy := f.amt.getLsbD 4, fx := f.amt.getLsbD 5 } := by
  have hbase : bits (likeWord f (w 0)) 47 40 = f.r.b.toNat := by
    rw [likeWord, bits_setBits_self _ (by decide) (by decide)]
    exact Nat.mod_eq_of_lt f.r.b.isLt
  have houter : outerWords v = outerWords w := by rw [outerWords, outerWords, h2, h3]
  simp (disch := decide) only [pdescOf_eq, houter, h0, h1, hbase, bit_likeWord, bits_likeWord, Nat.reduceSub]

/-- PDSET.DIM keeps every field of words 0 and 1 but ND. -/
theorem pdescOf_dim {n : Nat} (hn : n < 4) (h0 : v 0 = setBits (w 0) 50 48 (n + 1)) (h1 : v 1 = w 1) :
    let o := pdescOf w mask
    let x := pdescOf v mask
    x.p = o.p ∧ x.q = o.q ∧ x.fmt = o.fmt ∧ x.fy = o.fy ∧ x.fx = o.fx ∧ x.base = o.base ∧ x.edgec = o.edgec ∧ x.nd = n + 1 := by
  have hbits {hi lo : Nat} (h : hi < 48) : bits (v 0) hi lo = bits (w 0) hi lo := by
    rw [h0]
    exact bits_setBits_ne (w 0) (by decide) (by omega) (.inl h) _
  have hbit {k : Nat} (h : k < 48) : bit (v 0) k = bit (w 0) k := by
    rw [h0]
    exact bit_setBits_ne (w 0) (by decide) (by omega) (.inl h) _
  have hnd : bits (v 0) 50 48 = n + 1 := by
    rw [h0, bits_setBits_self (w 0) (by decide) (by decide)]
    exact Nat.mod_eq_of_lt (by omega)
  simp only [pdescOf_eq]
  exact ⟨hbits (by decide), hbits (by decide), hbits (by decide), hbit (by decide), hbit (by decide), hbits (by decide),
    by rw [h1], hnd⟩

/-- The outer dimensions of a descriptor, by the halves of words 2 and 3. -/
theorem pdescOf_dims {d : Nat} (hd : d < 4) : (pdescOf w mask).ext.getD d 0 = half (outerWords w) d % 2 ^ 16 ∧
    (pdescOf w mask).str.getD d 0 = half (outerWords w) d / 2 ^ 16 % 2 ^ 8 := by
  have hget (g : Nat → Nat) : ((List.range 4).map g).getD d 0 = g d := by simp [hd]
  simp only [pdescOf_eq, hget, and_self]

end Words

/-- A number written to words 2 and 3. -/
theorem outerWords_of {w : Nat → DWord} {n : Nat} (hn : n < 2 ^ 128) (h2 : w 2 = BitVec.ofNat 64 n)
    (h3 : w 3 = BitVec.ofNat 64 (n / 2 ^ 64)) : outerWords w = n := by
  rw [outerWords, h2, h3, BitVec.toNat_ofNat, BitVec.toNat_ofNat]
  omega

theorem cutHalves_lt {n k x : Nat} (hk : k < 4) (hx : x < 2 ^ 32) : cutHalves n k x < 2 ^ 128 := by
  calc cutHalves n k x < 2 ^ (32 * k) + x * 2 ^ (32 * k) := Nat.add_lt_add_right (Nat.mod_lt _ (Nat.two_pow_pos _)) _
    _ = (x + 1) * 2 ^ (32 * k) := by ring
    _ ≤ 2 ^ 32 * 2 ^ (32 * k) := Nat.mul_le_mul_right _ hx
    _ = 2 ^ (32 + 32 * k) := (pow_add ..).symm
    _ ≤ 2 ^ 128 := Nat.pow_le_pow_right (by decide) (by omega)

/-- The number that PDSET.DIM puts in the half of its dimension: the extent and the stride of its immediate. -/
def dimHalf (f : PFmt) : Nat := bits f.imm 8 0 + bits f.imm 23 16 * 2 ^ 16

theorem dimHalf_spec (f : PFmt) : dimHalf f < 2 ^ 32 ∧ dimHalf f % 2 ^ 16 = f.imm.toNat % 2 ^ 9 ∧
    dimHalf f / 2 ^ 16 % 2 ^ 8 = f.imm.toNat / 2 ^ 16 % 2 ^ 8 := by
  unfold dimHalf bits
  omega

/-- Another last dimension, and none above it. -/
theorem pdescOf_cutDims {v w : Nat → DWord} (mask : Bool) (f : PFmt) {n : Nat} (hn : n < 4)
    (hv : outerWords v = cutHalves (outerWords w) n (dimHalf f)) :
    let o := pdescOf w mask
    let x := pdescOf v mask
    (∀ k, k < n → x.ext.getD k 0 = o.ext.getD k 0 ∧ x.str.getD k 0 = o.str.getD k 0) ∧
    x.ext.getD n 0 = f.imm.toNat % 2 ^ 9 ∧ x.str.getD n 0 = f.imm.toNat / 2 ^ 16 % 2 ^ 8 ∧
    (∀ k, n < k → k < 4 → x.ext.getD k 0 = 0 ∧ x.str.getD k 0 = 0) := by
  obtain ⟨hlt, hext, hstr⟩ := dimHalf_spec f
  have hdims {k : Nat} (hk : k < 4) := pdescOf_dims (w := v) mask hk
  rw [hv] at hdims
  refine ⟨fun k hk => ?below, ?ext, ?str, fun k hk hk4 => ?above⟩
  case below =>
    have hd := hdims (hk.trans hn)
    rw [half_cutHalves_below hk] at hd
    obtain ⟨he, hs⟩ := pdescOf_dims (w := w) mask (hk.trans hn)
    exact ⟨hd.1.trans he.symm, hd.2.trans hs.symm⟩
  case ext => rw [(hdims hn).1, half_cutHalves_self hlt, hext]
  case str => rw [(hdims hn).2, half_cutHalves_self hlt, hstr]
  case above =>
    have hd := hdims hk4
    rw [half_cutHalves_above hlt hk] at hd
    exact hd

/-! ### Writing a descriptor, and a dimension of one -/

/-- A descriptor whose four words are written. -/
def Group.setDesc (g : Group) (d : Nat) (w0 w1 w2 w3 : DWord) : Group := (((g.wrPd d 0 w0).wrPd d 1 w1).wrPd d 2 w2).wrPd d 3 w3

theorem onlyDesc_setDesc (g : Group) (d : Nat) (w0 w1 w2 w3 : DWord) : onlyDesc g (g.setDesc d w0 w1 w2 w3) d :=
  (((onlyDesc_wrPd _ _ (by decide) _).trans (onlyDesc_wrPd _ _ (by decide) _)).trans (onlyDesc_wrPd _ _ (by decide) _)).trans
    (onlyDesc_wrPd _ _ (by decide) _)

theorem Group.rdPd_setDesc (g : Group) (d : Nat) (w0 w1 w2 w3 : DWord) : (g.setDesc d w0 w1 w2 w3).rdPd d 0 = w0 ∧
    (g.setDesc d w0 w1 w2 w3).rdPd d 1 = w1 ∧ (g.setDesc d w0 w1 w2 w3).rdPd d 2 = w2 ∧ (g.setDesc d w0 w1 w2 w3).rdPd d 3 = w3 := by
  simp [Group.setDesc, Group.rdPd_wrPd]

/-- A descriptor with another last dimension `n`, whose half is `x`. -/
def Group.setDim (g : Group) (d n x : Nat) : Group :=
  let new := cutHalves (outerWords (g.rdPd d)) n x
  ((g.wrPd d 0 (setBits (g.rdPd d 0) 50 48 (n + 1))).wrPd d 2 (BitVec.ofNat 64 new)).wrPd d 3 (BitVec.ofNat 64 (new / 2 ^ 64))

theorem onlyDesc_setDim (g : Group) (d n x : Nat) : onlyDesc g (g.setDim d n x) d :=
  ((onlyDesc_wrPd _ _ (by decide) _).trans (onlyDesc_wrPd _ _ (by decide) _)).trans (onlyDesc_wrPd _ _ (by decide) _)

theorem Group.rdPd_setDim (g : Group) (d n x : Nat) :
    (g.setDim d n x).rdPd d 0 = setBits (g.rdPd d 0) 50 48 (n + 1) ∧ (g.setDim d n x).rdPd d 1 = g.rdPd d 1 := by
  simp [Group.setDim, Group.rdPd_wrPd]

theorem Group.outerWords_setDim (g : Group) (d : Nat) {n x : Nat} (hn : n < 4) (hx : x < 2 ^ 32) :
    outerWords ((g.setDim d n x).rdPd d) = cutHalves (outerWords (g.rdPd d)) n x :=
  outerWords_of (cutHalves_lt hn hx) (by simp [Group.setDim, Group.rdPd_wrPd]) (by simp [Group.setDim, Group.rdPd_wrPd])

/-! ### What each form completes with -/

/-- The edge constant that PDSET.EDGE writes. -/
def edgeConst (f : PFmt) (c : Iss) : Word := if f.edge = .scal then (c.g.rdS c.fc f.r.c.toNat).setWidth 32 else f.imm

section Forms
variable {s : State} {f : PFmt} {c : Iss} (hc : issuer s f.r.g = some c) (hon : c.on ≠ 0) (hgrid : (c.grid s).isSome = true)
include hc hon hgrid

/-- A per-group descriptor instruction of a member group completes with its effect. -/
theorem pdOnce_member (fn : Iss → Group) : pdOnce f s fn = .next (c.done s (fn c)) := by
  obtain ⟨grid, hsome⟩ := Option.isSome_iff_exists.1 hgrid
  rw [pdOnce, asOnce_on hc hon, hsome]
  rfl

theorem pdset_completes : completesAs (.pdset f) s c ((c.g.setDesc f.r.dst.toNat (pdsetWord f) 0 0 0).heal (keyPd f.r.dst.toNat)) :=
  pdOnce_member hc hon hgrid _

theorem pdsetEdge_completes : completesAs (.pdsetEdge f) s c
    (c.g.wrPd f.r.dst.toNat 1 (edgeWord (c.g.rdPd f.r.dst.toNat 1) (edgeConst f c))) := by
  refine (pdOnce_member hc hon hgrid _).trans ?_
  simp only [edgeConst, beq_iff_eq]
  rfl

theorem pdsetDim_completes : completesAs (.pdsetDim f) s c
    (c.g.setDim f.r.dst.toNat (f.imm.toNat / 2 ^ 24 % 4) (dimHalf f)) := pdOnce_member hc hon hgrid _

theorem pdsetLike_completes : completesAs (.pdsetLike f) s c ((c.g.setDesc f.r.dst.toNat (likeWord f (c.g.rdPd f.r.a.toNat 0))
    (c.g.rdPd f.r.a.toNat 1) (c.g.rdPd f.r.a.toNat 2) (c.g.rdPd f.r.a.toNat 3)).heal (keyPd f.r.dst.toNat)) :=
  pdOnce_member hc hon hgrid _

theorem pdget_completes : completesAs (.pdget f) s c (c.g.wrS f.r.dst.toNat (c.g.rdPd f.r.a.toNat (f.imm.toNat % 4))) :=
  pdOnce_member hc hon hgrid _

end Forms

end Sys2Proof.Machine

open Sys2Proof Sys2Proof.Machine Sys2Proof.Claims

/-- Settles O27: each form of PDSET writes words of one descriptor, and PDGET one s register. -/
theorem planeDescriptors : Obligations.PlaneDescriptors := by
  unfold Obligations.PlaneDescriptors
  intro s f c hc hon hgrid d kept
  refine ⟨?pdset, ?edge, ?dim, ?like, ?pdget⟩
  case pdset =>
    obtain ⟨h0, h1, h2, h3⟩ := c.g.rdPd_setDesc d (pdsetWord f) 0 0 0
    exact ⟨_, pdset_completes hc hon hgrid, (onlyDesc_setDesc ..).trans (onlyDesc_heal ..),
      pdescOf_pdset false f (by rwa [Group.rdPd_heal]) (by rwa [Group.rdPd_heal]) (by rwa [Group.rdPd_heal])
        (by rwa [Group.rdPd_heal])⟩
  case edge =>
    refine ⟨_, pdsetEdge_completes hc hon hgrid, onlyDesc_wrPd _ d (by decide) _, pdescOf_edge false _ ?_ ?_ ?_ ?_⟩ <;>
      simp [Group.rdPd_wrPd, d, edgeConst]
  case dim =>
    have hn : f.imm.toNat / 2 ^ 24 % 4 < 4 := Nat.mod_lt _ (by decide)
    obtain ⟨hlt, -⟩ := dimHalf_spec f
    obtain ⟨h0, h1⟩ := c.g.rdPd_setDim d (f.imm.toNat / 2 ^ 24 % 4) (dimHalf f)
    obtain ⟨hp, hq, hfmt, hfy, hfx, hbase, hedge, hnd⟩ := pdescOf_dim false hn h0 h1
    exact ⟨_, pdsetDim_completes hc hon hgrid, onlyDesc_setDim .., hp, hq, hfmt, hfy, hfx, hbase, hedge, hnd,
      pdescOf_cutDims false f hn (c.g.outerWords_setDim d hn hlt)⟩
  case like =>
    obtain ⟨h0, h1, h2, h3⟩ := c.g.rdPd_setDesc d (likeWord f (c.g.rdPd f.r.a.toNat 0)) (c.g.rdPd f.r.a.toNat 1)
      (c.g.rdPd f.r.a.toNat 2) (c.g.rdPd f.r.a.toNat 3)
    exact ⟨_, pdsetLike_completes hc hon hgrid, (onlyDesc_setDesc ..).trans (onlyDesc_heal ..),
      pdescOf_like false f (by rwa [Group.rdPd_heal]) (by rwa [Group.rdPd_heal]) (by rwa [Group.rdPd_heal])
        (by rwa [Group.rdPd_heal])⟩
  case pdget => exact ⟨_, pdget_completes hc hon hgrid, Group.sameButS_wrS _ _ _, Group.sWritten_wrS _ _ _⟩
end

section
/-!
PROOFS. The fold tree over a line of integers (R176, R177), the places that a shift, a rotation or a spread reads (R175, R195), and
the obligation PlaneMoves.
-/
namespace Sys2Proof.Machine

/-! ### The tree over a line of integers (R176, R177) -/

/-- ADD of two integers is their sum, wrapped. -/
theorem combine_add_of_isInt {t : Ty} (ht : t.isInt = true) (x y : Nat) : (combine .add t x y).bits = (x + y) % 2 ^ t.bits := by
  have hsum : (combine .add t x y).bits = ofInt t.bits (intVal t x + intVal t y) := by
    rw [combine, elemOp_of_isInt (by decide) ht]
    rfl
  have hmod : (intVal t x + intVal t y) % 2 ^ t.bits = ((x : Int) + y) % 2 ^ t.bits := by
    rw [Int.add_emod, intVal_emod, intVal_emod, ← Int.add_emod]
  rw [hsum]
  zify
  rw [ofInt_cast, hmod]

/-- The sum of a line, whose neutral positions supply nothing. -/
def lineSum (l : List (Option Nat)) : Nat := (l.map (fun x => x.getD 0)).sum

@[simp] theorem lineSum_nil : lineSum [] = 0 := rfl
@[simp] theorem lineSum_cons (a : Option Nat) (l : List (Option Nat)) : lineSum (a :: l) = a.getD 0 + lineSum l := List.sum_cons

/-- Every element of the line is a field of modulus `m`. -/
def lineBelow (m : Nat) (l : List (Option Nat)) : Prop := ∀ x, some x ∈ l → x < m

theorem lineBelow_cons {m : Nat} {a : Option Nat} {l : List (Option Nat)} :
    lineBelow m (a :: l) ↔ (∀ x, a = some x → x < m) ∧ lineBelow m l := by
  simp [lineBelow, or_imp, forall_and, eq_comm]

/-- What two neighbours of a line leave in the level above. -/
def pairOf (comb : Nat → Nat → FRes) : Option Nat → Option Nat → Option Nat
  | some x, some y => some (comb x y).bits
  | some x, none => some x
  | none, y => y

theorem pairUp_cons_cons (comb : Nat → Nat → FRes) (a b : Option Nat) (t : List (Option Nat)) :
    (pairUp comb (a :: b :: t)).1 = pairOf comb a b :: (pairUp comb t).1 := by
  cases a <;> cases b <;> rfl

/-- A level has half the positions of the one below, rounded up. -/
theorem length_pairUp (comb : Nat → Nat → FRes) : ∀ l : List (Option Nat), (pairUp comb l).1.length = (l.length + 1) / 2
  | [] => rfl
  | [_] => by simp [pairUp]
  | a :: b :: t => by
    rw [pairUp_cons_cons, List.length_cons, length_pairUp comb t, List.length_cons, List.length_cons]
    omega

section Tree
variable {comb : Nat → Nat → FRes} {m : Nat} (hadd : ∀ x y, (comb x y).bits = (x + y) % m) (hm : 0 < m)
include hadd

theorem pairOf_sum (a b : Option Nat) : (pairOf comb a b).getD 0 % m = (a.getD 0 + b.getD 0) % m := by
  cases a <;> cases b <;> simp [pairOf, hadd]

/-- One level of the tree leaves the sum as it was, modulo `m`. -/
theorem lineSum_pairUp : ∀ l : List (Option Nat), lineSum (pairUp comb l).1 % m = lineSum l % m
  | [] => rfl
  | [_] => rfl
  | a :: b :: t => by
    rw [pairUp_cons_cons, lineSum_cons, lineSum_cons, lineSum_cons, Nat.add_mod, pairOf_sum hadd, lineSum_pairUp t, ← Nat.add_mod,
      Nat.add_assoc]

include hm

theorem pairOf_below : ∀ {a b : Option Nat}, (∀ x, a = some x → x < m) → (∀ x, b = some x → x < m) →
    ∀ x, pairOf comb a b = some x → x < m
  | some x, some y, _, _ => by simp [pairOf, hadd, Nat.mod_lt _ hm]
  | some _, none, ha, _ => ha
  | none, _, _, hb => hb

theorem lineBelow_pairUp : ∀ {l : List (Option Nat)}, lineBelow m l → lineBelow m (pairUp comb l).1
  | [], h => h
  | [_], h => h
  | a :: b :: t, h => by
    rw [lineBelow_cons, lineBelow_cons] at h
    obtain ⟨ha, hb, ht⟩ := h
    rw [pairUp_cons_cons, lineBelow_cons]
    exact ⟨pairOf_below hadd hm ha hb, lineBelow_pairUp ht⟩

/-- A tree of enough levels for its line gives the line's sum, modulo `m`. -/
theorem foldTree_sum {n : Nat} {l : List (Option Nat)} (hl : l.length ≤ 2 ^ n) (hb : lineBelow m l) :
    (foldTree comb n l).1.getD 0 = lineSum l % m := by
  have hsingle : ∀ {l : List (Option Nat)}, l.length ≤ 1 → lineBelow m l → (l.headD none).getD 0 = lineSum l % m := by
    intro l hl hb
    match l, hl with
    | [], _ => simp
    | [none], _ => simp
    | [some x], _ => simp [Nat.mod_eq_of_lt (hb x (by simp))]
  induction n generalizing l with
  | zero => exact hsingle hl hb
  | succ n ih =>
    rw [foldTree]
    split
    next h1 => exact hsingle h1 hb
    next h1 =>
      have hhalf : (pairUp comb l).1.length ≤ 2 ^ n := by
        rw [length_pairUp]
        omega
      exact (ih hhalf (lineBelow_pairUp hadd hm hb)).trans (lineSum_pairUp hadd l)

end Tree

/-! ### The place that a move reads (R175, R195) -/

/-- A coordinate within the extent is read whatever the mode. -/
theorem edgeCoord_inside (e : Edge) {c : Int} {m : Nat} (h0 : 0 ≤ c) (hm : c < m) : edgeCoord e c m = some c.toNat := if_pos ⟨h0, hm⟩

theorem edgeCoord_rep_below {c : Int} (m : Nat) (h : c < 0) : edgeCoord .rep c m = some 0 := by
  rw [edgeCoord, if_neg (by omega)]
  exact congrArg some (if_pos h)

theorem edgeCoord_rep_above {c : Int} {m : Nat} (h : m ≤ c) : edgeCoord .rep c m = some (m - 1) := by
  rw [edgeCoord, if_neg (by omega)]
  exact congrArg some (if_neg (by omega))

theorem edgeCoord_wrap {c : Int} {m : Nat} (h : c < 0 ∨ m ≤ c) : edgeCoord .wrap c m = some (c % m).toNat := if_neg (by omega)

/-- Beyond the extent the other modes read no element. -/
theorem edgeCoord_fill {e : Edge} {c : Int} {m : Nat} (h : c < 0 ∨ m ≤ c) (he : e = .zero ∨ e = .desc) : edgeCoord e c m = none := by
  unfold edgeCoord
  rw [if_neg (by omega)]
  obtain rfl | rfl := he <;> rfl

section Moves
variable {kind : Nat} {f : PFmt} {d : PDesc} {src : Nat → Nat → Option Nat} {fill : Word} {i j : Nat} (hx : f.yAxis = false)
include hx

/-- A move along X whose place is read takes the element at it. -/
theorem moveElem_reads {x : Nat} (hc : edgeCoord f.edge (moveCoord kind f j d.q) d.q = some x) (hs : (src i x).isSome = true) :
    moveElem kind f d src fill i j = (src i x).getD 0 := by
  obtain ⟨v, hv⟩ := Option.isSome_iff_exists.1 hs
  simp [moveElem, hx, hc, hv]

/-- A move along X whose place is not read takes the fill. -/
theorem moveElem_fills (hc : edgeCoord f.edge (moveCoord kind f j d.q) d.q = none) :
    moveElem kind f d src fill i j = edgeFill f d fill := by
  simp [moveElem, hx, hc]

end Moves
end Sys2Proof.Machine

open Sys2Proof Sys2Proof.Machine Sys2Proof.Claims

/-- Settles O29: each level of the tree keeps the sum, and the place that each move reads is computed by its edge mode. -/
theorem planeMoves : Obligations.PlaneMoves := by
  unfold Obligations.PlaneMoves
  refine ⟨fun t l ht hl hb => ?fold, fun f d src fill i j hx hi hj hs => ?moves⟩
  case fold =>
    exact foldTree_sum (combine_add_of_isInt ht) (Nat.two_pow_pos _) (hl.trans (by decide)) hb
  case moves =>
    intro a at_
    have hread {kind : Nat} {c : Int} (hq : c.toNat < d.q)
        (hc : edgeCoord f.edge (moveCoord kind f j d.q) d.q = some c.toNat) : moveElem kind f d src fill i j = at_ c :=
      moveElem_reads hx hc (hs i c.toNat hi hq)
    have hfill (h : (j : Int) - a < 0 ∨ (d.q : Int) ≤ (j : Int) - a) (he : f.edge = .zero ∨ f.edge = .desc) :
        moveElem 0 f d src fill i j = edgeFill f d fill := moveElem_fills hx (edgeCoord_fill h he)
    have hmod0 : 0 ≤ ((j : Int) - a) % d.q := Int.emod_nonneg _ (by omega)
    have hmod : ((j : Int) - a) % d.q < d.q := Int.emod_lt_of_pos _ (by omega)
    refine ⟨fun h0 hq => ?inside, fun h he => ?below, fun h he => ?above, fun h he => ?wrap, fun h he => ?zero, fun h he => ?desc,
      ?rotate, fun h => ?spread⟩
    case inside => exact hread (by omega) (edgeCoord_inside _ h0 hq)
    case below => exact hread (c := 0) (by simp; omega) (he ▸ edgeCoord_rep_below d.q h)
    case above => exact hread (c := (d.q : Int) - 1) (by omega) (he ▸ (edgeCoord_rep_above h).trans (congrArg some (by omega)))
    case wrap => exact hread (by omega) (he ▸ edgeCoord_wrap h)
    case zero => rw [hfill h (.inl he), edgeFill, he]
    case desc => rw [hfill h (.inr he), edgeFill, he]
    case rotate => exact hread (by omega) (edgeCoord_inside _ hmod0 hmod)
    case spread => exact hread h (edgeCoord_inside _ (Int.natCast_nonneg _) (Int.ofNat_lt.2 h))
end

section
/-!
PROOFS. Plane operations (R174, R179, R180, R191): what an operation gathers for a member group, what applying it leaves of the group,
what a plane instruction that passes its checks comes to, PEXTR (R205), and the obligation PlaneInstructions.
-/
namespace Sys2Proof.Machine
open Sys2Proof.Claims

/-! ### What a view holds after an operation -/

/-- What an arrival supplies, before an operation. -/
def viewOf (a : PlaneArrival) : PView := { arr := a, outs := [], fl := 0 }

/-- The same member, but for the registers that an operation has written. -/
def PView.sameSource (v u : PView) : Prop := ∃ x, u.arr = { v.arr with v := x }

theorem PView.sameSource.refl (v : PView) : v.sameSource v := ⟨_, rfl⟩

theorem PView.sameSource.trans {a b c : PView} (h1 : a.sameSource b) (h2 : b.sameSource c) : a.sameSource c := by
  obtain ⟨x, hx⟩ := h1
  obtain ⟨y, hy⟩ := h2
  exact ⟨y, by rw [hy, hx]⟩

theorem PView.sameSource.place {v u : PView} (h : v.sameSource u) : u.arr.gid = v.arr.gid ∧ u.arr.pos = v.arr.pos := by
  obtain ⟨x, hx⟩ := h
  rw [hx]
  exact ⟨rfl, rfl⟩

section Fold
variable {α : Type} {step : PView → α → PView}

theorem sameSource_foldl (h : ∀ v k, PView.sameSource v (step v k)) (ks : List α) (v : PView) : v.sameSource (ks.foldl step v) := by
  induction ks generalizing v with
  | nil => exact .refl v
  | cons k t ih => exact (h v k).trans (ih _)

/-- Writes that are gathered one step after another. -/
theorem outs_foldl {w : α → List (Nat × Nat × Word)} (h : ∀ v k, (step v k).outs = v.outs ++ w k) (ks : List α) (v : PView) :
    (ks.foldl step v).outs = v.outs ++ ks.flatMap w := by
  induction ks generalizing v with
  | nil => simp
  | cons k t ih => rw [List.foldl_cons, ih, h, List.flatMap_cons, List.append_assoc]

end Fold

/-- The lanes in which a member receives elements: active, not exited, on the grid (R179). -/
def PView.lanes (v : PView) (h w : Nat) : List Nat :=
  (lanesOf (maskMinus v.arr.act v.arr.exited)).filter (fun l => decide (32 * v.arr.idx + l < h * w))

theorem PView.mem_lanes (v : PView) (h w l : Nat) : l ∈ v.lanes h w ↔
    l < 32 ∧ v.arr.act.getLsbD l = true ∧ v.arr.exited.getLsbD l = false ∧ 32 * v.arr.idx + l < h * w := by
  simp [PView.lanes, mem_lanesOf, getLsbD_maskMinus, and_assoc]

section View
variable (vs : List PView) (op : Nat) (f : PFmt) (h w : Nat) (desc : Nat → PDesc) (base : Nat → Nat) (v : PView)

/-- What an operation writes to register `r` of lane `l` of a member. -/
def viewWord (r l : Nat) : Word :=
  (destWord (desc 0) h w (32 * v.arr.idx + l) (r - base 0) (Map.get 0 v.arr.v (32 * r + l))
    (planeElem op f desc (fun n i j => srcElem vs h w (desc n) (base n) i j) v.arr.fill)).1

/-- The writes to one lane. -/
def viewOuts (l : Nat) : List (Nat × Nat × Word) :=
  (List.range ((desc 0).regs h w)).flatMap (fun k => [(base 0 + k, l, viewWord vs op f h w desc base v (base 0 + k) l)])

theorem viewPlane_outs : (viewPlane vs op f h w desc base v).outs =
    v.outs ++ (v.lanes h w).flatMap (viewOuts vs op f h w desc base v) := by
  refine outs_foldl (fun o l => ?_) _ v
  refine outs_foldl (w := fun k => [(base 0 + k, l, viewWord vs op f h w desc base v (base 0 + k) l)]) (fun o k => ?_) _ o
  simp only [viewWord, Nat.add_sub_cancel_left]

theorem viewPlane_sameSource : v.sameSource (viewPlane vs op f h w desc base v) := by
  refine sameSource_foldl (fun o l => ?_) _ v
  refine sameSource_foldl (fun o k => ?_) _ o
  exact ⟨_, rfl⟩

theorem mem_viewPlane_outs {v : PView} (hv : v.outs = []) (o : Nat × Nat × Word) : o ∈ (viewPlane vs op f h w desc base v).outs ↔
    o.2.1 ∈ v.lanes h w ∧ base 0 ≤ o.1 ∧ o.1 < base 0 + (desc 0).regs h w ∧ o.2.2 = viewWord vs op f h w desc base v o.1 o.2.1 := by
  obtain ⟨r, l, x⟩ := o
  rw [viewPlane_outs, hv, List.nil_append, List.mem_flatMap]
  simp only [viewOuts, List.mem_flatMap, List.mem_range, List.mem_singleton, Prod.mk.injEq]
  constructor
  · rintro ⟨l', hl, k, hk, rfl, rfl, rfl⟩
    exact ⟨hl, Nat.le_add_right _ _, Nat.add_lt_add_left hk _, rfl⟩
  · rintro ⟨hl, h1, h2, rfl⟩
    have hr : base 0 + (r - base 0) = r := Nat.add_sub_cancel' h1
    exact ⟨l, hl, r - base 0, by omega, hr.symm, rfl, by rw [hr]⟩

end View

/-! ### A group after its writes (R179, R191) -/

theorem sameButV_foldl_wrV (os : List (Nat × Nat × Word)) (g : Group) :
    sameButV g (os.foldl (fun g o => g.wrV o.1 o.2.1 o.2.2) g) := by
  induction os generalizing g with
  | nil => exact ⟨rfl, fun _ hk => hk⟩
  | cons o t ih =>
    exact sameButV.trans ⟨congrArg (fun y : Group => { y with fpf := g.fpf }) (g.wrV_frame _ _ _), g.wrV_poison _ _ _⟩ (ih _)

theorem PView.apply_frame (v : PView) (g : Group) : sameButV g (v.apply g) :=
  (sameButV_foldl_wrV v.outs g).trans ⟨rfl, fun _ hk => hk⟩

theorem PView.apply_splits (v : PView) (g : Group) : (v.apply g).splits = g.splits := (congrArg Group.splits (v.apply_frame g).1 :)

theorem sameButV_foldl_apply (vs : List PView) (g : Group) : sameButV g (vs.foldl (fun g v => v.apply g) g) := by
  induction vs generalizing g with
  | nil => exact ⟨rfl, fun _ hk => hk⟩
  | cons v t ih => exact (v.apply_frame g).trans (ih _)

/-- A register after writes that agree on it. -/
theorem get_foldl_wrV (os : List (Nat × Nat × Word)) (g : Group) {r l : Nat} {x : Word} (hl : l < 32)
    (hos : ∀ o ∈ os, o.2.1 < 32 ∧ (o.1 = r → o.2.1 = l → o.2.2 = x)) :
    Map.get 0 (os.foldl (fun g o => g.wrV o.1 o.2.1 o.2.2) g).v (32 * r + l) =
      if (r, l, x) ∈ os ∧ g.exited.getLsbD l = false then x else Map.get 0 g.v (32 * r + l) := by
  induction os generalizing g with
  | nil => simp
  | cons o t ih =>
    obtain ⟨r', l', x'⟩ := o
    obtain ⟨hl', hx'⟩ := hos _ List.mem_cons_self
    rw [List.foldl_cons, ih _ (fun o ho => hos o (List.mem_cons_of_mem _ ho)), Group.wrV_exited, Group.get_wrV]
    by_cases heq : r' = r ∧ l' = l
    · obtain ⟨rfl, rfl⟩ := heq
      obtain rfl : x' = x := hx' rfl rfl
      cases g.exited.getLsbD l' <;> simp
    · have hkey : ¬ 32 * r + l = 32 * r' + l' := fun h => heq (by dsimp only at hl'; omega)
      have hne : (r, l, x) ≠ (r', l', x') := fun h => heq (by simp_all)
      simp only [List.mem_cons, hne, false_or, hkey, and_false, if_false]

/-- R174, R179: a register of a member group after an operation on one outer plane. -/
theorem get_apply_viewPlane (vs : List PView) (op : Nat) (f : PFmt) (h w : Nat) (desc : Nat → PDesc) (base : Nat → Nat) {v : PView}
    (hv : v.outs = []) (g : Group) (r : Nat) {l : Nat} (hl : l < 32) :
    Map.get 0 ((viewPlane vs op f h w desc base v).apply g).v (32 * r + l) =
      if base 0 ≤ r ∧ r < base 0 + (desc 0).regs h w ∧ v.arr.act.getLsbD l = true ∧ v.arr.exited.getLsbD l = false ∧
        g.exited.getLsbD l = false ∧ 32 * v.arr.idx + l < h * w
      then viewWord vs op f h w desc base v r l else Map.get 0 g.v (32 * r + l) := by
  have hmem := mem_viewPlane_outs vs op f h w desc base hv
  have hos : ∀ o ∈ (viewPlane vs op f h w desc base v).outs,
      o.2.1 < 32 ∧ (o.1 = r → o.2.1 = l → o.2.2 = viewWord vs op f h w desc base v r l) := by
    intro o ho
    obtain ⟨hlane, -, -, hx⟩ := (hmem o).1 ho
    exact ⟨((v.mem_lanes h w _).1 hlane).1, fun h1 h2 => by rw [hx, h1, h2]⟩
  have hcond : (r, l, viewWord vs op f h w desc base v r l) ∈ (viewPlane vs op f h w desc base v).outs ∧
      g.exited.getLsbD l = false ↔
        base 0 ≤ r ∧ r < base 0 + (desc 0).regs h w ∧ v.arr.act.getLsbD l = true ∧ v.arr.exited.getLsbD l = false ∧
          g.exited.getLsbD l = false ∧ 32 * v.arr.idx + l < h * w := by
    rw [hmem, PView.mem_lanes]
    tauto
  rw [PView.apply, Group.raise_v, get_foldl_wrV _ g hl hos]
  simp only [hcond]

/-! ### Every outer plane in order (R180) -/

/-- An operation on one plane is one pass over its members. -/
theorem planeRun_single {f : PFmt} (hset : f.set = false) (op h w : Nat) (desc : Nat → PDesc) (vs : List PView) :
    planeRun op f h w desc vs = vs.map (viewPlane vs op f h w desc (fun n => (desc n).base)) := by
  simp [planeRun, PDesc.bases, hset, List.range_one]

/-- The members of an operation stay the same in every pass. -/
theorem planeRun_sources (op : Nat) (f : PFmt) (h w : Nat) (desc : Nat → PDesc) (vs : List PView) :
    List.Forall₂ PView.sameSource vs (planeRun op f h w desc vs) := by
  have hpass (ts : List Nat) : ∀ us : List PView, List.Forall₂ PView.sameSource vs us → List.Forall₂ PView.sameSource vs
      (ts.foldl (fun us t => us.map (viewPlane us op f h w desc (fun n => ((desc n).bases f.set).getD t (desc n).base))) us) := by
    induction ts with
    | nil => exact fun us hus => hus
    | cons t ts ih =>
      intro us hus
      refine ih _ (List.forall₂_map_right_iff.2 (hus.imp fun a b hab => hab.trans (viewPlane_sameSource ..)))
  exact hpass _ vs (List.forall₂_same.2 fun _ _ => .refl _)

/-! ### Plane instructions that work on whole planes -/

theorem exec_planeInstrs (f : PFmt) (s : State) : ∀ p ∈ planeInstrs f, exec p.1 s = planeInstr p.1 f s := by
  simp only [planeInstrs, List.forall_mem_cons, List.not_mem_nil, false_implies, implies_true, and_true]
  and_intros <;> rfl

theorem shape_planeInstrs (f : PFmt) : ∀ p ∈ planeInstrs f, p.1.shape = .p 1 p.2 p.2 f := by
  simp only [planeInstrs, List.forall_mem_cons, List.not_mem_nil, false_implies, implies_true, and_true]
  and_intros <;> rfl

/-- What a plane instruction of a member comes to where it passes its checks. -/
def planeEffect (s : State) (c : Iss) (i : Instr) (op : Nat) (f : PFmt) (t : Team) : State :=
  if planeCollective op f t.gridH t.gridW (descs op f c) then
    planeArrive s c i f t (c.pdWords f (planeFields op f)) ((descs op f c 0).uses t.gridH t.gridW f.set)
  else
    c.done s ((planeRun op f t.gridH t.gridW (descs op f c) [viewOf (c.arrival f)]).foldl
      (fun g v => v.apply g) c.g)

section Issue
variable {s : State} {f : PFmt} {c : Iss} {t : Team} {i : Instr} {op : Nat} (hi : (i, op) ∈ planeInstrs f)
  (hc : issuer s f.r.g = some c)
include hi hc

/-- R169: a group that is no member passes on. -/
theorem planeInstr_nonMember (ht : Map.find s.teams c.g.team = some t) (hout : t.gridH * t.gridW ≤ 32 * c.g.idx) :
    completesAs i s c c.g := by
  have hshape := shape_planeInstrs f _ hi
  rw [completesAs, exec_planeInstrs f s _ hi, planeInstr, asGroup_eq hc]
  simp only [hshape, ht, if_pos hout]
  rfl

theorem planeInstr_allowed (h : planeAllowed s c op f t) : exec i s = .next (planeEffect s c i op f t) := by
  obtain ⟨ht, hmem, hcheck, hfree, hclean⟩ := h
  have hshape := shape_planeInstrs f _ hi
  rw [exec_planeInstrs f s _ hi, planeInstr, asGroup_eq hc]
  have hdescs : descOf (c.pdWords f (planeFields op f)) (planeFields op f) = descs op f c := rfl
  simp only [hshape, ht, if_neg (Nat.not_le.2 hmem), hdescs, hcheck, hfree, hclean, Bool.false_eq_true, if_false, planeEffect]
  split <;> rfl

/-- A plane instruction that is not collective completes with the writes of the issuing group. -/
theorem planeInstr_alone (h : planeAllowed s c op f t) (hcoll : planeCollective op f t.gridH t.gridW (descs op f c) = false) :
    completesAs i s c ((planeRun op f t.gridH t.gridW (descs op f c) [viewOf (c.arrival f)]).foldl
      (fun g v => v.apply g) c.g) := by
  rw [completesAs, planeInstr_allowed hi hc h, planeEffect, hcoll]
  rfl

end Issue

/-! ### PEXTR (R205) -/

theorem pextr_completes {s : State} {f : PFmt} {c : Iss} {t : Team} (hc : issuer s f.r.g = some c) (hon : c.on ≠ 0)
    (hpoison : c.g.poison = []) (hregs : c.g.planeRegs = []) (ht : Map.find s.teams c.g.team = some t)
    (hmem : 32 * c.g.idx < t.gridH * t.gridW) (hcheck : planeCheck 0x16 f t.gridH t.gridW c.g.budget (descs 0x16 f c) = .ok ()) :
    let d := descs 0x16 f c 1
    let i := f.imm.toNat % 2 ^ 16
    let j := f.imm.toNat / 2 ^ 16
    completesAs (.pextr f) s c (c.g.wrS f.r.dst.toNat (BitVec.ofNat 64
      (if i < d.p ∧ j < d.q then (ownElem c f t.gridH t.gridW d i j).getD (d.edgec.toNat % 2 ^ d.bits)
       else d.edgec.toNat % 2 ^ d.bits))) := by
  intro d i j
  have hi : bits f.imm 15 0 = i := by simp [bits, i]
  have hj : bits f.imm 31 16 = j := Nat.mod_eq_of_lt (Nat.div_lt_of_lt_mul f.imm.isLt)
  have hgrid : c.grid s = some (t.gridH, t.gridW) := by
    rw [Iss.grid, ht]
    exact if_neg (Nat.not_le.2 hmem)
  unfold descs at hcheck
  change execPextr f s = _
  rw [execPextr, asGroup_eq hc]
  simp only [hgrid, hcheck, hi, hj, hpoison, hregs, List.contains_nil, Bool.and_false, Bool.false_eq_true, if_false,
    beq_iff_eq, if_neg hon]
  change finishGroup s c (.ok () >>= fun _ => if (decide (d.p ≤ i) || decide (d.q ≤ j)) = true then _ else _) = _
  by_cases hin : i < d.p ∧ j < d.q
  · rw [if_pos hin, if_neg (by simpa using hin)]
    rfl
  · rw [if_neg hin, if_pos (by simpa [Classical.or_iff_not_imp_left] using hin)]
    rfl

end Sys2Proof.Machine

open Sys2Proof Sys2Proof.Machine Sys2Proof.Claims

/-- Settles O28: PEXTR is one write of an s register, and an operation that is not collective is the writes of its only member. -/
theorem planeInstructions : Obligations.PlaneInstructions := by
  unfold Obligations.PlaneInstructions
  refine ⟨fun s f c t hc hon hpoison hregs ht hmem hcheck => ?extract, fun s f c t i op hi hc =>
    ⟨fun ht hout => ?outside, ?single, ?set⟩⟩
  case extract =>
    exact ⟨_, pextr_completes hc hon hpoison hregs ht hmem hcheck, Group.sameButS_wrS _ _ _, Group.sWritten_wrS _ _ _⟩
  case outside => exact planeInstr_nonMember hi hc ht hout
  case single =>
    intro hallow hcoll hset
    refine ⟨_, planeInstr_alone hi hc hallow hcoll, sameButV_foldl_apply _ _, fun r l hl => ?_⟩
    rw [planeRun_single hset]
    refine (get_apply_viewPlane _ op f _ _ _ _ rfl c.g r hl).trans ?_
    simp only [viewOf, Iss.arrival, and_self_left]
    rfl
  case set =>
    intro hallow hcoll _
    exact ⟨_, planeInstr_alone hi hc hallow hcoll, sameButV_foldl_apply _ _, rfl⟩
end

section
/-!
PROOFS. Collective plane operations (R181 to R185): an arrival, the completion of every member's part, and the obligation
PlaneCollective.
-/
namespace Sys2Proof.Machine
open Sys2Proof.Claims

/-! ### The pending operation of a team -/

theorem putPlaneOp_put (s : State) (team k : Nat) {o : PlaneOp} (h : o.arrivals ≠ []) : putPlaneOp s team k o =
    { s with teams := Map.modify s.teams team (fun t => { t with planeOps := Map.put t.planeOps k o }) } := by
  simp [putPlaneOp, h]

theorem putPlaneOp_del (s : State) (team k : Nat) {o : PlaneOp} (h : o.arrivals = []) (hbad : o.bad = []) : putPlaneOp s team k o =
    { s with teams := Map.modify s.teams team (fun t => { t with planeOps := Map.del t.planeOps k }) } := by
  simp [putPlaneOp, h, hbad]

/-! ### Arrival (R181) -/

/-- The arriving group: its split is held and its sequence number passes on. -/
def Iss.arrived (c : Iss) (k : Nat) (regs : List Nat) : Group :=
  { (c.g.setSplit c.pos { c.sp with wait := .plane k regs }) with planeSeq := k + 1 }

/-- The arrivals before it agree with an instruction, and none makes group `idx` trap (R185). -/
def PlaneOp.agrees (o : PlaneOp) (i : Instr) (pd : SMap DWord) (idx : Nat) : Prop :=
  o.bad.contains idx = false ∧ (o.arrivals ≠ [] → planeSig o.instr = planeSig i ∧ o.pd = pd)

/-- The operation pending under a number, or one that nobody has arrived at. -/
def Team.pendingOp (t : Team) (k : Nat) (i : Instr) (pd : SMap DWord) : PlaneOp :=
  (Map.find t.planeOps k).getD { instr := i, pd := pd, arrivals := [], bad := [] }

theorem pendingOp_agrees {t : Team} {k idx : Nat} {i : Instr} {pd : SMap DWord}
    (h : ∀ o, Map.find t.planeOps k = some o → o.agrees i pd idx) : (t.pendingOp k i pd).agrees i pd idx := by
  unfold Team.pendingOp
  cases hfind : Map.find t.planeOps k with
  | none => exact ⟨rfl, fun hne => absurd rfl hne⟩
  | some o => exact h o hfind

theorem pendingOp_arrivals (t : Team) (k : Nat) (i : Instr) (pd : SMap DWord) :
    (t.pendingOp k i pd).arrivals = ((Map.find t.planeOps k).map PlaneOp.arrivals).getD [] := by
  unfold Team.pendingOp
  cases Map.find t.planeOps k <;> rfl

/-- An operation with one more arrival; the first brings its instruction and descriptors. -/
def PlaneOp.join (o : PlaneOp) (i : Instr) (pd : SMap DWord) (a : PlaneArrival) : PlaneOp :=
  let o1 : PlaneOp := if o.arrivals.isEmpty then { instr := i, pd := pd, arrivals := [], bad := o.bad } else o
  { o1 with arrivals := o1.arrivals ++ [a] }

theorem PlaneOp.join_spec {o : PlaneOp} {i : Instr} {pd : SMap DWord} {idx : Nat} (h : o.agrees i pd idx) (a : PlaneArrival) :
    (o.join i pd a).arrivals = o.arrivals ++ [a] ∧ (o.join i pd a).pd = pd ∧ planeSig (o.join i pd a).instr = planeSig i := by
  obtain ⟨-, hsame⟩ := h
  by_cases he : o.arrivals = []
  · simp [PlaneOp.join, he]
  · obtain ⟨hsig, hpd⟩ := hsame he
    simp [PlaneOp.join, he, hsig, hpd]

/-- An arrival that agrees with those before it is added to the operation, and its split is held. -/
theorem planeArrive_agrees {s : State} {c : Iss} {i : Instr} {f : PFmt} {t : Team} {pd : SMap DWord} (regs : List Nat)
    (h : (t.pendingOp (planeNext t c.g) i pd).agrees i pd c.g.idx) :
    planeArrive s c i f t pd regs = putPlaneOp (s.putG c.gid (c.arrived (planeNext t c.g) regs)) c.g.team (planeNext t c.g)
      ((t.pendingOp (planeNext t c.g) i pd).join i pd (c.arrival f)) := by
  obtain ⟨hbad, hsame⟩ := h
  have hfits : ¬ (!(t.pendingOp (planeNext t c.g) i pd).arrivals.isEmpty &&
      (planeSig (t.pendingOp (planeNext t c.g) i pd).instr != planeSig i || (t.pendingOp (planeNext t c.g) i pd).pd != pd)) = true := by
    by_cases he : (t.pendingOp (planeNext t c.g) i pd).arrivals = []
    · simp [he]
    · obtain ⟨hsig, hpd⟩ := hsame he
      simp [hsig, hpd]
  exact (if_neg (ne_true_of_eq_false hbad)).trans ((if_neg hfits).trans rfl)

theorem Iss.arrived_frame (c : Iss) (k : Nat) (regs : List Nat) :
    { c.arrived k regs with planeSeq := c.g.planeSeq, splits := c.g.splits } = c.g := rfl

theorem Iss.find_arrived_self (c : Iss) (k : Nat) (regs : List Nat) :
    Map.find (c.arrived k regs).splits c.pos = some { c.sp with wait := .plane k regs } := Map.find_put_self _ _ _

theorem Iss.find_arrived_ne (c : Iss) (k : Nat) (regs : List Nat) {p : Nat} (h : p ≠ c.pos) :
    Map.find (c.arrived k regs).splits p = Map.find c.g.splits p := Map.find_put_ne _ _ h

/-- The state after an arrival: the group's split is held, and the operation is pending under number `k`. -/
def planeArrived (s : State) (c : Iss) (k : Nat) (regs : List Nat) (o : PlaneOp) : State :=
  { s.putG c.gid (c.arrived k regs) with
    teams := Map.modify s.teams c.g.team (fun t => { t with planeOps := Map.put t.planeOps k o }) }

theorem find_planeArrived_team {s : State} {c : Iss} {t : Team} (ht : Map.find s.teams c.g.team = some t) (k : Nat) (regs : List Nat)
    (o : PlaneOp) : Map.find (planeArrived s c k regs o).teams c.g.team = some { t with planeOps := Map.put t.planeOps k o } := by
  rw [planeArrived, Map.find_modify, if_pos rfl, ht]
  rfl

theorem find_planeArrived_team_ne (s : State) (c : Iss) (k : Nat) (regs : List Nat) (o : PlaneOp) {j : Nat} (h : j ≠ c.g.team) :
    Map.find (planeArrived s c k regs o).teams j = Map.find s.teams j := by
  rw [planeArrived, Map.find_modify, if_neg h]

theorem find_planeArrived_group (s : State) (c : Iss) (k : Nat) (regs : List Nat) (o : PlaneOp) :
    Map.find (planeArrived s c k regs o).groups c.gid = some (c.arrived k regs) := Map.find_put_self _ _ _

theorem find_planeArrived_group_ne (s : State) (c : Iss) (k : Nat) (regs : List Nat) (o : PlaneOp) {j : Nat} (h : j ≠ c.gid) :
    Map.find (planeArrived s c k regs o).groups j = Map.find s.groups j := Map.find_put_ne _ _ h

/-- A collective plane instruction arrives at its team's operation. -/
theorem planeInstr_arrives {s : State} {f : PFmt} {c : Iss} {t : Team} {i : Instr} {op : Nat} (hi : (i, op) ∈ planeInstrs f)
    (hc : issuer s f.r.g = some c) (hallow : planeAllowed s c op f t)
    (hcoll : planeCollective op f t.gridH t.gridW (descs op f c) = true) {pd : SMap DWord} (hpd : c.pdWords f (planeFields op f) = pd)
    (hfits : (t.pendingOp (planeNext t c.g) i pd).agrees i pd c.g.idx) :
    exec i s = .next (planeArrived s c (planeNext t c.g) ((descs op f c 0).uses t.gridH t.gridW f.set)
      ((t.pendingOp (planeNext t c.g) i pd).join i pd (c.arrival f))) := by
  obtain ⟨harrivals, -⟩ := PlaneOp.join_spec hfits (c.arrival f)
  rw [planeInstr_allowed hi hc hallow, planeEffect, if_pos hcoll, hpd, planeArrive_agrees _ hfits,
    putPlaneOp_put _ _ _ (by simp [harrivals])]
  rfl

/-! ### A member goes on (R182) -/

/-- A group after the completion of an operation: its writes, and its split at the next slot. -/
def PView.receive (v : PView) (g : Group) : Group :=
  { v.apply g with splits := Map.modify (v.apply g).splits v.arr.pos (fun sp => { sp.fall with wait := .none }) }

theorem planeReceive_eq (s : State) (v : PView) :
    planeReceive s v = { s with groups := Map.modify s.groups v.arr.gid v.receive } := rfl

theorem PView.receive_frame (v : PView) (g : Group) : { v.receive g with splits := g.splits } = v.apply g := by
  rw [← v.apply_splits g]
  rfl

theorem PView.find_receive_self (v : PView) {g : Group} {sp : Split} (h : Map.find g.splits v.arr.pos = some sp) :
    Map.find (v.receive g).splits v.arr.pos = some { sp.fall with wait := .none } := by
  rw [PView.receive, v.apply_splits, Map.find_modify, if_pos rfl, h]
  rfl

theorem PView.find_receive_ne (v : PView) (g : Group) {p : Nat} (h : p ≠ v.arr.pos) :
    Map.find (v.receive g).splits p = Map.find g.splits p := by
  rw [PView.receive, v.apply_splits, Map.find_modify, if_neg h]

theorem foldl_planeReceive_frame (vs : List PView) (s : State) : { vs.foldl planeReceive s with groups := s.groups } = s := by
  induction vs generalizing s with
  | nil => rfl
  | cons v t ih => exact congrArg (fun y : State => { y with groups := s.groups }) (ih (planeReceive s v))

theorem foldl_planeReceive_teams (vs : List PView) (s : State) : (vs.foldl planeReceive s).teams = s.teams :=
  (congrArg State.teams (foldl_planeReceive_frame vs s) :)

theorem find_foldl_planeReceive_ne {vs : List PView} (s : State) {k : Nat} (h : ∀ v ∈ vs, v.arr.gid ≠ k) :
    Map.find (vs.foldl planeReceive s).groups k = Map.find s.groups k := by
  induction vs generalizing s with
  | nil => rfl
  | cons v t ih =>
    rw [List.foldl_cons, ih _ (fun u hu => h u (List.mem_cons_of_mem _ hu)), planeReceive_eq, Map.find_modify,
      if_neg (h v List.mem_cons_self).symm]

/-- Each member receives once. -/
theorem find_foldl_planeReceive {vs : List PView} {s : State} (hn : (vs.map (fun v => v.arr.gid)).Nodup) {v : PView} (hv : v ∈ vs)
    {g : Group} (hg : Map.find s.groups v.arr.gid = some g) :
    Map.find (vs.foldl planeReceive s).groups v.arr.gid = some (v.receive g) := by
  induction vs generalizing s with
  | nil => cases hv
  | cons u t ih =>
    obtain ⟨hnot, hn⟩ := List.nodup_cons.1 hn
    rw [List.foldl_cons]
    rcases List.mem_cons.1 hv with rfl | hv
    · rw [find_foldl_planeReceive_ne _ (fun x hx he => hnot (List.mem_map.2 ⟨x, hx, he⟩)), planeReceive_eq,
        Map.find_modify, if_pos rfl, hg]
      rfl
    · have hne : v.arr.gid ≠ u.arr.gid := fun he => hnot (List.mem_map.2 ⟨v, hv, he⟩)
      exact ih hn hv (by rw [planeReceive_eq, Map.find_modify, if_neg hne, hg])

/-! ### Completion (R182, R184) -/

section Completion
variable (op : Nat) (f : PFmt) (h w : Nat) (desc : Nat → PDesc) (as : List PlaneArrival)

theorem planeRun_gids : (planeRun op f h w desc (as.map viewOf)).map (fun v => v.arr.gid) = as.map PlaneArrival.gid := by
  have hsame := (planeRun_sources op f h w desc (as.map viewOf)).imp (S := fun v u => v.arr.gid = u.arr.gid)
    (fun _ _ h => h.place.1.symm)
  have heq : List.Forall₂ (· = ·) ((as.map viewOf).map (fun v => v.arr.gid))
      ((planeRun op f h w desc (as.map viewOf)).map (fun v => v.arr.gid)) := by
    rwa [List.forall₂_map_left_iff, List.forall₂_map_right_iff]
  rw [List.forall₂_eq_eq_eq] at heq
  rw [← heq, List.map_map]
  rfl

/-- Every arrival has its view among the completed ones. -/
theorem exists_view {a : PlaneArrival} (ha : a ∈ as) : ∃ v ∈ planeRun op f h w desc (as.map viewOf), (viewOf a).sameSource v ∧
    (f.set = false → v = viewPlane (as.map viewOf) op f h w desc (fun n => (desc n).base) (viewOf a)) := by
  by_cases hset : f.set = false
  · refine ⟨viewPlane (as.map viewOf) op f h w desc (fun n => (desc n).base) (viewOf a), ?_, viewPlane_sameSource .., fun _ => rfl⟩
    rw [planeRun_single hset]
    exact List.mem_map_of_mem (List.mem_map_of_mem ha)
  · obtain ⟨k, hk, rfl⟩ := List.getElem_of_mem ha
    have hrun := planeRun_sources op f h w desc (as.map viewOf)
    have hlen := hrun.length_eq
    rw [List.length_map] at hlen
    have hkth := hrun.get (by simpa using hk) (hlen ▸ hk)
    exact ⟨_, List.getElem_mem (hlen ▸ hk), by simpa using hkth, fun hs => absurd hs hset⟩

end Completion

/-- The state after the completion of an operation. -/
def planeCompleted (s : State) (team seq : Nat) (vs : List PView) : State :=
  { vs.foldl planeReceive s with
    teams := Map.modify s.teams team (fun t => { t with planeOps := Map.del t.planeOps seq }) }

theorem planeComplete_eq {s : State} {team seq op : Nat} {t : Team} {o : PlaneOp} {f : PFmt} (hi : (o.instr, op) ∈ planeInstrs f)
    (ht : Map.find s.teams team = some t) (ho : Map.find t.planeOps seq = some o) (hne : o.arrivals ≠ []) (hruns : teamRuns s t = true)
    (hall : ∀ n, n ∈ planeMembers t → (∃ a, a ∈ o.arrivals ∧ a.idx = n) ∨ planeExited s team n = true) :
    exec (.collectivePlaneComplete team seq) s = .next (planeCompleted s team seq
      (planeRun op f t.gridH t.gridW (descOf o.pd (planeFields op f)) (o.arrivals.map viewOf))) := by
  have hshape := shape_planeInstrs f _ hi
  have hgo : (!teamRuns s t || o.arrivals.isEmpty ||
      !(planeMembers t).all (fun n => o.arrivals.any (fun a => a.idx == n) || planeExited s team n)) = false := by
    simpa [hruns, hne] using hall
  change execCollectivePlaneComplete team seq s = _
  unfold execCollectivePlaneComplete
  simp only [ht, ho, hgo, hshape, Bool.false_eq_true, if_false]
  rw [putPlaneOp_del _ _ _ rfl rfl, foldl_planeReceive_teams]
  rfl

section Completed
variable (s : State) (team seq : Nat) (vs : List PView)

theorem planeCompleted_frame : { planeCompleted s team seq vs with groups := s.groups, teams := s.teams } = s :=
  congrArg (fun y : State => { y with teams := s.teams }) (foldl_planeReceive_frame vs s)

theorem find_planeCompleted_team {t : Team} (ht : Map.find s.teams team = some t) :
    Map.find (planeCompleted s team seq vs).teams team = some { t with planeOps := Map.del t.planeOps seq } := by
  rw [planeCompleted, Map.find_modify, if_pos rfl, ht]
  rfl

theorem find_planeCompleted_team_ne {j : Nat} (h : j ≠ team) :
    Map.find (planeCompleted s team seq vs).teams j = Map.find s.teams j := by
  rw [planeCompleted, Map.find_modify, if_neg h]

end Completed

end Sys2Proof.Machine

open Sys2Proof Sys2Proof.Machine Sys2Proof.Claims

/-- Settles O30: an arrival adds itself to the pending operation, and the completion is one pass over the arrivals, each of another
group. -/
theorem planeCollective : Obligations.PlaneCollective := by
  unfold Obligations.PlaneCollective
  refine ⟨fun s f c t i op hi hc hallow hcoll => ?arrival,
    fun s team seq t o i op f hi ht ho hinstr hne hruns hall hnodup => ?completion⟩
  case arrival =>
    intro k pd hagree before
    have hfits : (t.pendingOp k i pd).agrees i pd c.g.idx := pendingOp_agrees hagree
    obtain ⟨harr, hpd, hsig⟩ := PlaneOp.join_spec hfits (c.arrival f)
    rw [pendingOp_arrivals] at harr
    have hteam := hallow.1
    exact ⟨_, _, _, _, planeInstr_arrives hi hc hallow hcoll rfl hfits, find_planeArrived_group .., rfl, c.find_arrived_self ..,
      fun p hp => c.find_arrived_ne _ _ hp, c.arrived_frame .., find_planeArrived_team hteam .., rfl, Map.find_put_self _ _ _,
      harr, hpd, hsig, fun j hj => Map.find_put_ne _ _ hj, rfl, fun j hj => find_planeArrived_group_ne _ _ _ _ _ hj,
      fun j hj => find_planeArrived_team_ne _ _ _ _ _ hj⟩
  case completion =>
    subst hinstr
    intro h w desc views
    have hgids := planeRun_gids op f h w desc o.arrivals
    refine ⟨_, _, planeComplete_eq hi ht ho hne hruns hall, find_planeCompleted_team s team seq _ ht, Map.find_del_self _ _,
      fun j hj => Map.find_del_ne _ hj, rfl, planeCompleted_frame .., fun j hj => find_planeCompleted_team_ne _ _ _ _ hj,
      fun j hj => find_foldl_planeReceive_ne s ?others, fun a g sp ha hg hsp => ?member⟩
    case others =>
      intro v hv
      have hmem : v.arr.gid ∈ o.arrivals.map PlaneArrival.gid := hgids ▸ List.mem_map_of_mem hv
      obtain ⟨a, ha, hgid⟩ := List.mem_map.1 hmem
      exact hgid ▸ hj a ha
    case member =>
      obtain ⟨v, hv, hsrc, hsingle⟩ := exists_view op f h w desc o.arrivals ha
      obtain ⟨hgid, hpos⟩ := hsrc.place
      change v.arr.gid = a.gid at hgid
      change v.arr.pos = a.pos at hpos
      rw [← hgid] at hg
      rw [← hpos] at hsp
      have hgroup := find_foldl_planeReceive (hgids ▸ hnodup) hv hg
      rw [← hgid, ← hpos]
      refine ⟨v.receive g, hgroup, v.find_receive_self hsp, fun p hp => v.find_receive_ne g hp,
        (v.receive_frame g).symm ▸ v.apply_frame g, fun hset r l hl => ?single, fun hset => ⟨v, hv, rfl, rfl⟩⟩
      rw [hsingle hset]
      exact get_apply_viewPlane (v := viewOf a) _ op f h w desc _ rfl g r hl
end

section
/-!
PROOFS. Requests of the matrix engine at issue (R216, R222, R226 to R235): the acceptance of a request, and the obligations
TileRequests and PassRequests.
-/
namespace Sys2Proof.Machine
open Sys2Proof.Claims

/-! ### The bay of a state -/

theorem State.bayAt_putBay (s : State) (n k : Nat) (b : Bay) : (s.putBay n b).bayAt k = if k = n then b else s.bayAt k :=
  Map.get_put _ _ _ _ _

@[simp] theorem State.bayAt_putBay_self (s : State) (n : Nat) (b : Bay) : (s.putBay n b).bayAt n = b := by
  rw [State.bayAt_putBay, if_pos rfl]

@[simp] theorem State.bayAt_putG (s : State) (n k : Nat) (g : Group) : (s.putG n g).bayAt k = s.bayAt k := rfl

/-! ### Stamping (R218) -/

/-- A request as `stamp` leaves it. -/
def Bay.stamped (b : Bay) (clk : Nat) (r : MReq) : MReq :=
  if r.eligible.isNone && b.mayRun r then { r with eligible := some clk } else r

/-- Stamping changes nothing of a request but when it became eligible. -/
theorem Bay.stamped_frame (b : Bay) (clk : Nat) (r : MReq) : { b.stamped clk r with eligible := r.eligible } = r := by
  unfold Bay.stamped
  split <;> rfl

theorem Bay.stamp_reqs (b : Bay) (clk : Nat) : (b.stamp clk).reqs = b.reqs.map (b.stamped clk) := rfl

theorem Bay.stamp_frame (b : Bay) (clk : Nat) : { b.stamp clk with reqs := b.reqs } = b := rfl

theorem Bay.mem_stamp {b : Bay} {clk : Nat} {q : MReq} (h : q ∈ (b.stamp clk).reqs) :
    ∃ r ∈ b.reqs, { q with eligible := r.eligible } = r := by
  obtain ⟨r, hr, rfl⟩ := List.mem_map.1 h
  exact ⟨r, hr, b.stamped_frame clk r⟩

/-! ### Acceptance (R54, R216) -/

/-- A request is the issuer's own, of the instruction `i`. -/
def Iss.asks (c : Iss) (i : Instr) (r : MReq) : Prop :=
  r.gid = c.gid ∧ r.core = c.g.core ∧ r.ctx = c.g.ctx ∧ r.granted = false ∧ r.flag = c.flag i

/-- The issuer's group when its request has been accepted under the number `id`. -/
def Iss.afterAccept (c : Iss) (i : Instr) (r : MReq) (id : Nat) : Group :=
  let e := { mkEntry id i c .result { on := c.act, addr := [], data := [], cmp := [] } with done := c.act }
  let g := (c.g.advance c.pos).markFlag r.flag
  { g with ocMat := g.ocMat + 1, entries := g.entries ++ (if r.flag.isSome then [e] else []) }

/-- The bay when a request has been accepted under the number `id`. -/
def Bay.accepted (b : Bay) (r : MReq) (id clk : Nat) : Bay :=
  { b with reqs := b.reqs ++ [{ r with id := id, entry := id }] }.stamp clk

theorem accept_eq (s : State) (c : Iss) (i : Instr) (r : MReq) : accept s c i r =
    (({ s with nextId := s.nextId + 1 } : State).putG c.gid (c.afterAccept i r s.nextId)).putBay (coreBay c.g.core)
      ((s.bayAt (coreBay c.g.core)).accepted r s.nextId (s.clk / 10)) := rfl

/-- The group changes in its split, its flag, its log and oc.mat alone. -/
theorem Iss.afterAccept_frame (c : Iss) (i : Instr) (r : MReq) (id : Nat) :
    { c.afterAccept i r id with splits := c.g.splits, cf := c.g.cf, entries := c.g.entries, ocMat := c.g.ocMat } = c.g :=
  (congrArg (fun y : Group => { y with splits := c.g.splits, cf := c.g.cf, entries := c.g.entries, ocMat := c.g.ocMat })
    (Group.markFlag_frame (c.g.advance c.pos) r.flag) :).trans
    (congrArg (fun y : Group => { y with cf := c.g.cf, entries := c.g.entries, ocMat := c.g.ocMat }) (c.g.advance_frame c.pos) :)

theorem Iss.afterAccept_ocMat (c : Iss) (i : Instr) (r : MReq) (id : Nat) : (c.afterAccept i r id).ocMat = c.g.ocMat + 1 := by
  have h : ((c.g.advance c.pos).markFlag r.flag).ocMat = c.g.ocMat :=
    (congrArg Group.ocMat (Group.markFlag_frame (c.g.advance c.pos) r.flag) :).trans (congrArg Group.ocMat (c.g.advance_frame c.pos) :)
  exact congrArg (· + 1) h

theorem Iss.afterAccept_splits (c : Iss) (i : Instr) (r : MReq) (id : Nat) :
    (c.afterAccept i r id).splits = (c.g.advance c.pos).splits :=
  (congrArg Group.splits (Group.markFlag_frame (c.g.advance c.pos) r.flag) :)

/-- The new request stands in its bay's table. -/
theorem Bay.exists_accepted (b : Bay) (r : MReq) (id clk : Nat) :
    ∃ q ∈ (b.accepted r id clk).reqs, { q with eligible := r.eligible } = { r with id := id, entry := id } := by
  let b1 : Bay := { b with reqs := b.reqs ++ [{ r with id := id, entry := id }] }
  exact ⟨_, List.mem_map_of_mem (List.mem_append_right _ (List.mem_singleton_self _)),
    b1.stamped_frame clk { r with id := id, entry := id }⟩

/-- R216: an instruction that ends in the acceptance of the issuer's request has had it accepted; the bay may have been changed
before, and no other part of the state. -/
theorem requestAccepted_accept {s s1 : State} {gd : Guard} {c : Iss} (hc : issuer s gd = some c) {i : Instr} {r : MReq}
    (hx : exec i s = .next (accept s1 c i r)) (hs : { s1 with bays := s.bays } = s) (hr : c.asks i r) :
    ∃ t q, requestAccepted i s c t q ∧ t = accept s1 c i r ∧ { q with id := r.id, entry := r.entry, eligible := r.eligible } = r := by
  obtain ⟨hgid, hcore, hctx, hgr, hflag⟩ := hr
  obtain ⟨q, hq, heq⟩ := Bay.exists_accepted (s1.bayAt (coreBay c.g.core)) r s1.nextId (s1.clk / 10)
  have hid : s1.nextId = s.nextId := (congrArg State.nextId hs :)
  have hframe := c.afterAccept_frame i r s1.nextId
  refine ⟨accept s1 c i r, q, ⟨hx, ?_, ?_, ?_, ?_, ?_, ?_, ?_, (congrArg State.cores hs :), (congrArg State.mem hs :),
    (congrArg State.teams hs :), c.afterAccept i r s1.nextId, ?_, c.afterAccept_ocMat i r _, (congrArg Group.v hframe :),
    (congrArg Group.s hframe :), (congrArg Group.p hframe :), c.sp.fall, ?_, rfl⟩, rfl, ?_⟩
  · rwa [accept_eq, State.bayAt_putBay_self]
  · exact (congrArg MReq.id heq :).trans hid
  · exact (congrArg MReq.gid heq :).trans hgid
  · exact (congrArg MReq.core heq :).trans hcore
  · exact (congrArg MReq.ctx heq :).trans hctx
  · exact (congrArg MReq.granted heq :).trans hgr
  · exact (congrArg MReq.flag heq :).trans hflag
  · rw [accept_eq]
    exact Map.find_put_self _ _ _
  · rw [c.afterAccept_splits]
    exact Iss.find_fall hc
  · exact (congrArg (fun y : MReq => { y with id := r.id, entry := r.entry }) heq :)

/-! ### Registers as read at issue (R227, R233) -/

/-- Where every step of a fold either sets what is viewed to one value or leaves it, and one step sets it, it has that value. -/
theorem foldl_lands {α β γ : Type} {f : β → α → β} {view : β → γ} {v : γ} {l : List α}
    (hsome : ∃ x ∈ l, ∀ b, view (f b x) = v) (hall : ∀ x ∈ l, (∀ b, view (f b x) = v) ∨ ∀ b, view (f b x) = view b) (b : β) :
    view (l.foldl f b) = v := by
  have hstays : ∀ (l : List α) (b : β), (∀ x ∈ l, (∀ b, view (f b x) = v) ∨ ∀ b, view (f b x) = view b) → view b = v →
      view (l.foldl f b) = v := by
    intro l
    induction l with
    | nil => exact fun _ _ hb => hb
    | cons x l ih =>
      refine fun b h hb => ih (f b x) (fun y hy => h y (List.mem_cons_of_mem _ hy)) ?_
      exact (h x List.mem_cons_self).elim (fun hx => hx b) fun hx => (hx b).trans hb
  induction l generalizing b with
  | nil => simp at hsome
  | cons x l ih =>
    obtain ⟨y, hy, hyv⟩ := hsome
    have hrest : ∀ z ∈ l, (∀ b, view (f b z) = v) ∨ ∀ b, view (f b z) = view b := fun z hz => hall z (List.mem_cons_of_mem _ hz)
    rcases List.mem_cons.1 hy with rfl | hy
    · exact hstays l _ hrest (hyv b)
    · exact ih ⟨y, hy, hyv⟩ hrest _

/-- What no step of a fold changes stays. -/
theorem foldl_keeps {α β γ : Type} {f : β → α → β} {view : β → γ} {l : List α} (h : ∀ x ∈ l, ∀ b, view (f b x) = view b) (b : β) :
    view (l.foldl f b) = view b := by
  induction l generalizing b with
  | nil => rfl
  | cons x l ih => exact (ih (fun y hy => h y (List.mem_cons_of_mem _ hy)) _).trans (h x List.mem_cons_self b)

/-- A place that a fold of writes reaches holds the value that all writes of it agree on. -/
theorem Map.get_foldl_set_of_key {α β : Type} [DecidableEq β] {d : β} {key : α → Nat} {val : α → β} {l : List α} {j : Nat} {v : β}
    (hsome : ∃ x ∈ l, key x = j) (hval : ∀ x ∈ l, key x = j → val x = v) (m : SMap β) :
    Map.get d (l.foldl (fun m x => Map.set d m (key x) (val x)) m) j = v := by
  have hset : ∀ x ∈ l, key x = j → ∀ m : SMap β, Map.get d (Map.set d m (key x) (val x)) j = v := by
    rintro x hx rfl m
    rw [Map.get_set_self, hval x hx rfl]
  obtain ⟨x, hx, hkey⟩ := hsome
  refine foldl_lands (view := fun m : SMap β => Map.get d m j) ⟨x, hx, hset x hx hkey⟩ (fun y hy => ?_) m
  by_cases hy' : key y = j
  · exact .inl (hset y hy hy')
  · exact .inr fun m => Map.get_set_ne _ _ _ (Ne.symm hy')

theorem Map.get_foldl_set_of_noKey {α β : Type} [DecidableEq β] {d : β} {key : α → Nat} {val : α → β} {l : List α} {j : Nat}
    (h : ∀ x ∈ l, key x ≠ j) (m : SMap β) : Map.get d (l.foldl (fun m x => Map.set d m (key x) (val x)) m) j = Map.get d m j :=
  foldl_keeps (view := fun m : SMap β => Map.get d m j) (fun x hx _ => Map.get_set_ne _ _ _ (Ne.symm (h x hx))) m

/-- A register of a request is as it was read at issue, in a lane that has not exited. -/
theorem Iss.get_srcRegs (c : Iss) (r : Nat) {n k l : Nat} (hk : k < n) (hl : l < 32) (hex : c.g.exited.getLsbD l = false) :
    Map.get 0 (c.srcRegs r n) (32 * k + l) = c.g.rdV c.fc (r + k) l := by
  have hlane : l ∈ lanesOf (~~~c.g.exited) := (mem_lanesOf _ _).2 ⟨hl, by rw [BitVec.getLsbD_not, hex]; simp [hl]⟩
  have hown : ∀ m : SMap Word, Map.get 0 ((lanesOf (~~~c.g.exited)).foldl
      (fun m l => Map.set 0 m (32 * k + l) (c.g.rdV c.fc (r + k) l)) m) (32 * k + l) = c.g.rdV c.fc (r + k) l :=
    Map.get_foldl_set_of_key ⟨l, hlane, rfl⟩ fun l' _ he => by rw [Nat.add_left_cancel he]
  refine foldl_lands (view := fun m : SMap Word => Map.get 0 m (32 * k + l)) ⟨k, List.mem_range.2 hk, hown⟩ (fun j _ => ?_) []
  by_cases hj : j = k
  · subst hj
    exact .inl hown
  · refine .inr (Map.get_foldl_set_of_noKey fun l' hl' he => hj ?_)
    have := ((mem_lanesOf _ _).1 hl').1
    omega

/-! ### Tile moves and tile requests (R233, R235) -/

section
variable {s : State} {f : EFmt} {c : Iss} {i : Instr} (hc : issuer s f.r.g = some c) (hfree : requestFree s c f i)
include hc hfree

theorem tileMove_off (h0 : c.on = 0) (r : Iss → MReq) : tileMove f i s r = .next (c.done s c.g) := by
  obtain ⟨hown, hbar, -⟩ := hfree
  unfold tileMove
  rw [asGroup_eq hc, hown, hbar, h0]
  rfl

theorem tileMove_on (h0 : c.on ≠ 0) (r : Iss → MReq) : tileMove f i s r = .next (accept s c i (r c)) := by
  obtain ⟨hown, hbar, hhold⟩ := hfree
  have hon : (c.on == 0) = false := beq_false_of_ne h0
  unfold tileMove
  rw [asGroup_eq hc, hown, hbar, hon, hhold]
  rfl

theorem tileMask_off (h0 : c.on = 0 ∨ f.imm = 0) (op : MOp) : tileMask f i op s = .next (c.done s c.g) := by
  have hoff : (c.on == 0 || f.imm == 0) = true := by simpa using h0
  unfold tileMask
  rw [asGroup_eq hc, hfree.1, hoff]
  rfl

theorem tileMask_on (h0 : c.on ≠ 0) (himm : f.imm ≠ 0) (op : MOp) :
    tileMask f i op s = .next (accept s c i { c.request f i op with tiles := f.imm }) := by
  obtain ⟨hown, -, hhold⟩ := hfree
  have hon : (c.on == 0 || f.imm == 0) = false := by rw [beq_false_of_ne h0, beq_false_of_ne himm]; rfl
  unfold tileMask
  rw [asGroup_eq hc, hown, hon, hhold]
  rfl

end

/-- The request of a tile instruction. -/
def Iss.tileRequest (c : Iss) (f : EFmt) : Instr → MReq
  | .mzero _ => { c.request f (.mzero f) .zero with tiles := tileBit f.r.dst }
  | .mfill _ => { c.request f (.mfill f) (if f.efn == 1 then .bcast else .fill) with
      tiles := tileBit f.r.dst, src := c.srcRegs f.r.a.toNat (if f.efn == 1 then 1 else 32) }
  | .mdrain _ => { c.request f (.mdrain f) (if f.efn == 1 then .drainz else .drain) with tiles := tileBit f.r.a, dst := f.r.dst.toNat }
  | .accalloc _ => { c.request f (.accalloc f) .alloc with tiles := f.imm }
  | i => { c.request f i .free with tiles := f.imm }

section
variable {s : State} {f : EFmt} {c : Iss} {i : Instr} {op : MOp} {tiles : BitVec 16} (hi : (i, op, tiles) ∈ tileInstrs f)
include hi

/-- It is the issuer's, for the operation and the tiles of the instruction, with the lanes where the guard holds. -/
theorem tileRequest_fields : c.asks i (c.tileRequest f i) ∧ (c.tileRequest f i).op = op ∧ (c.tileRequest f i).tiles = tiles ∧
    (c.tileRequest f i).rows = c.on := by
  simp only [tileInstrs, List.mem_cons, Prod.mk.injEq, List.not_mem_nil, or_false] at hi
  rcases hi with ⟨rfl, rfl, rfl⟩ | ⟨rfl, rfl, rfl⟩ | ⟨rfl, rfl, rfl⟩ | ⟨rfl, rfl, rfl⟩ | ⟨rfl, rfl, rfl⟩
  all_goals exact ⟨⟨rfl, rfl, rfl, rfl, rfl⟩, by simp [Iss.tileRequest, Iss.request], rfl, rfl⟩

/-- MFILL takes its 32 registers as read at issue. -/
theorem tileRequest_src (hop : op = .fill) : (c.tileRequest f i).src = c.srcRegs f.r.a.toNat 32 := by
  subst hop
  simp only [tileInstrs, List.mem_cons, Prod.mk.injEq, List.not_mem_nil, or_false, reduceCtorEq, false_and, and_false, false_or] at hi
  rcases hi with ⟨rfl, hefn, -⟩ | ⟨-, hefn, -⟩
  · have hne : (f.efn == 1) = false := by
      by_contra hcon
      simp [beq_iff_eq.1 (Bool.not_eq_false _ ▸ hcon)] at hefn
    simp only [Iss.tileRequest, hne, Bool.false_eq_true, if_false]
  · split at hefn <;> cases hefn

variable (hc : issuer s f.r.g = some c) (hfree : requestFree s c f i)
include hc hfree

theorem tileInstr_off (h0 : c.on = 0) : completesAs i s c c.g := by
  simp only [tileInstrs, List.mem_cons, Prod.mk.injEq, List.not_mem_nil, or_false] at hi
  rcases hi with ⟨rfl, -⟩ | ⟨rfl, -⟩ | ⟨rfl, -⟩ | ⟨rfl, -⟩ | ⟨rfl, -⟩
  · exact tileMove_off hc hfree h0 _
  · exact tileMove_off hc hfree h0 _
  · exact tileMove_off hc hfree h0 _
  · exact tileMask_off hc hfree (.inl h0) _
  · exact tileMask_off hc hfree (.inl h0) _

theorem tileInstr_on (h0 : c.on ≠ 0) (ht : tiles ≠ 0) : exec i s = .next (accept s c i (c.tileRequest f i)) := by
  simp only [tileInstrs, List.mem_cons, Prod.mk.injEq, List.not_mem_nil, or_false] at hi
  rcases hi with ⟨rfl, -⟩ | ⟨rfl, -⟩ | ⟨rfl, -⟩ | ⟨rfl, -, rfl⟩ | ⟨rfl, -, rfl⟩
  · exact tileMove_on hc hfree h0 _
  · exact tileMove_on hc hfree h0 _
  · exact tileMove_on hc hfree h0 _
  · exact tileMask_on hc hfree h0 ht _
  · exact tileMask_on hc hfree h0 ht _

end

end Sys2Proof.Machine

open Sys2Proof Sys2Proof.Machine Sys2Proof.Claims

/-- Settles O31: each instruction is one tile move or one tile request, and ends in the acceptance of its request. -/
theorem tileRequests : Obligations.TileRequests := by
  unfold Obligations.TileRequests
  intro s f c i op tiles hi hc hfree
  refine ⟨tileInstr_off hi hc hfree, ?_, fun h0 ht => ?_⟩
  · rintro (rfl | rfl) himm
    · exact tileMask_off hc hfree (.inr himm) _
    · exact tileMask_off hc hfree (.inr himm) _
  · obtain ⟨hasks, hop, htiles, hrows⟩ := tileRequest_fields (c := c) hi
    obtain ⟨t, q, hq, -, hreq⟩ := requestAccepted_accept hc (tileInstr_on hi hc hfree h0 ht) rfl hasks
    refine ⟨t, q, hq, (congrArg MReq.op hreq :).trans hop, (congrArg MReq.tiles hreq :).trans htiles,
      (congrArg MReq.rows hreq :).trans hrows, fun hfill k l hk hl hex => ?_⟩
    have hsrc : q.src = c.srcRegs f.r.a.toNat 32 := (congrArg MReq.src hreq :).trans (tileRequest_src hi hfill)
    rw [hsrc]
    exact c.get_srcRegs _ hk hl hex
end

section
/-!
PROOFS. Matrix passes at issue (R222, R228 to R231, R234), and the obligation PassRequests.
-/
namespace Sys2Proof.Machine
open Sys2Proof.Claims

/-- The request that MMA.S makes, with its B from registers. -/
def Iss.mmaRequest (c : Iss) (f : EFmt) (a : MRec) : MReq :=
  { c.request f (.mmaS f) .mma with
    tiles := tileBit f.r.dst, resvA := some a.id, resvB := none, src := c.srcRegs f.r.b.toNat 16 }

/-- The request that MSPMM makes. -/
def Iss.spmmRequest (c : Iss) (f : EFmt) (a : MRec) : MReq :=
  { c.request f (.mspmm f) .spmm with
    tiles := tileBit f.r.dst, resvA := some a.id, src := c.srcRegs f.r.b.toNat 16, ofs := 0, e := f.imm.toNat % 256 }

/-- The request that MMA.Q makes for a quarter of the gang `k`. -/
def Iss.quarterRequest (c : Iss) (f : EFmt) (a : MRec) (k : Nat) : MReq :=
  let w := c.g.rdS c.fc f.r.a.toNat
  { c.request f (.mmaQ f) .gang with
    tiles := tileBit f.r.dst, resvA := some a.id, resvB := none, src := c.srcRegs f.r.b.toNat 4,
    tag := some (bits w 15 0, bits w 17 16, k) }

/-- The request that MBYPASS makes. -/
def Iss.bypassRequest (c : Iss) (f : EFmt) (a : MRec) : MReq :=
  { c.request f (.mbypass f) .bypass with
    tiles := tileBit f.r.a, resvA := some a.id, sat := decide (8 ≤ f.efn.toNat), rows := BitVec.allOnes 32 }

/-- The gang that the issuer's quarter joins (R229). -/
def Iss.gang (c : Iss) (s : State) (f : EFmt) : Nat :=
  let w := c.g.rdS c.fc f.r.a.toNat
  (s.bayAt (coreBay c.g.core)).joinGang c.g.ctx (bits w 15 0) (bits w 17 16)

/-- The state when a quarter's gang has its number. -/
def withGang (s : State) (bay k : Nat) : State :=
  s.putBay bay { s.bayAt bay with gangs := if k == (s.bayAt bay).gangs then k + 1 else (s.bayAt bay).gangs }

/-- A request is a quarter of the gang `k`. -/
def MReq.inGang (k : Nat) (m : MReq) : Bool :=
  match m.tag with
  | some (_, _, j) => j == k
  | none => false

/-- The members of a gang. -/
def Bay.members (b : Bay) (k : Nat) : List MReq := b.reqs.filter (MReq.inGang k)

/-- The state when the quarter has joined its gang. -/
def Iss.joined (c : Iss) (s : State) (f : EFmt) (a : MRec) : State :=
  accept (withGang s (coreBay c.g.core) (c.gang s f)) c (.mmaQ f) (c.quarterRequest f a (c.gang s f))

/-- The gang with the quarter that joined it. -/
def Iss.gangJoined (c : Iss) (s : State) (f : EFmt) (a : MRec) : List MReq :=
  ((c.joined s f a).bayAt (coreBay c.g.core)).members (c.gang s f)

section
variable {s : State} {f : EFmt} {c : Iss} {a : MRec} (hc : issuer s f.r.g = some c) (hown : ownCheck s c.g = .ok ())

section
variable (hrec : c.record s f.pair.toNat = .ok a) (hfmt : a.fmt = passFmt f.efn.toNat) (hbar : barAlign c f = .ok ())

section
variable (hsvc : passInService s f.efn.toNat = true)
include hrec hfmt hsvc

theorem passRecord_ok : c.passRecord s f = .ok a := by
  have hf : (a.fmt != passFmt f.efn.toNat) = false := by simp [hfmt]
  unfold Iss.passRecord
  rw [hsvc, hrec]
  show (if (a.fmt != passFmt f.efn.toNat) = true then _ else _) = _
  rw [hf]
  rfl

omit hrec hfmt hsvc in
theorem operandB_regs (hefn : f.efn ≠ 6) (n : Nat) : c.operandB s f a n = .ok (c.srcRegs f.r.b.toNat n, none) := by
  have hf : (f.efn == 6) = false := beq_false_of_ne hefn
  unfold Iss.operandB
  rw [hf]
  rfl

include hc hown hbar

theorem mmaS_issues (hon : c.on ≠ 0) (hrange : passRange a f.efn.toNat f.imm.toNat = true) (hefn : f.efn ≠ 6)
    (hhold : matHold s c (.mmaS f) = .ok ()) : exec (.mmaS f) s = .next (accept s c (.mmaS f) (c.mmaRequest f a)) := by
  show execMmaS f s = _
  unfold execMmaS
  rw [asGroup_eq hc]
  simp only [hown, passRecord_ok hrec hfmt hsvc, operandB_regs hefn, bind, Except.bind, hrange, hbar, hhold, beq_false_of_ne hon]
  rfl

theorem mspmm_issues (hon : c.on ≠ 0) (h1 : 1 ≤ f.imm.toNat % 256) (h64 : f.imm.toNat % 256 ≤ 64)
    (hfits : f.imm.toNat % 256 * (passSize f.efn.toNat + 2) ≤ a.rstr) (hhold : matHold s c (.mspmm f) = .ok ()) :
    exec (.mspmm f) s = .next (accept s c (.mspmm f) (c.spmmRequest f a)) := by
  have hslots : (f.imm.toNat % 256 == 0 || decide (64 < f.imm.toNat % 256) ||
      decide (a.rstr < f.imm.toNat % 256 * (passSize f.efn.toNat + 2))) = false := by
    simp
    omega
  show execMspmm f s = _
  unfold execMspmm
  rw [asGroup_eq hc, hown, passRecord_ok hrec hfmt hsvc]
  simp only [bind, Except.bind, hslots, hbar, hhold, beq_false_of_ne hon]
  rfl

/-- MMA.Q joins its gang; where that makes four members that do not agree, the gang fails (R229, R230). -/
theorem mmaQ_joins (hrange : passRange a f.efn.toNat f.imm.toNat = true) (hefn : f.efn ≠ 6)
    (hword : bits (c.g.rdS c.fc f.r.a.toNat) 63 18 = 0) (hhold : matHold s c (.mmaQ f) = .ok ()) :
    exec (.mmaQ f) s = .next (
      if (c.gangJoined s f a).length == 4 && gangBad ((c.joined s f a).bayAt (coreBay c.g.core)) (c.gangJoined s f a)
      then gangFail (c.joined s f a) (coreBay c.g.core) (c.gangJoined s f a) else c.joined s f a) := by
  have hw : (bits (c.g.rdS c.fc f.r.a.toNat) 63 18 != 0) = false := by simp [hword]
  show execMmaQ f s = _
  unfold execMmaQ
  rw [asGroup_eq hc]
  simp only [hown, passRecord_ok hrec hfmt hsvc, operandB_regs hefn, bind, Except.bind, hw, hrange, hbar, hhold]
  show finishGroup s c (if ((c.gangJoined s f a).length == 4 &&
    gangBad ((c.joined s f a).bayAt (coreBay c.g.core)) (c.gangJoined s f a)) = true then _ else _) = _
  split <;> rfl

end

include hc hown hrec hfmt hbar in
theorem mbypass_issues (hon : c.on ≠ 0) (hefn : f.efn.toNat < 6) (hfits : f.imm.toNat + 32 ≤ a.count f.efn.toNat)
    (hhold : matHold s c (.mbypass f) = .ok ()) : exec (.mbypass f) s = .next (accept s c (.mbypass f) (c.bypassRequest f a)) := by
  have hmod : f.efn.toNat % 8 = f.efn.toNat := Nat.mod_eq_of_lt (by omega)
  have hshape : (a.fmt != passFmt (f.efn.toNat % 8) || decide (a.count (f.efn.toNat % 8) < f.imm.toNat + 32)) = false := by
    rw [hmod]
    simp [hfmt, hfits]
  show execMbypass f s = _
  unfold execMbypass
  rw [asGroup_eq hc, hown, hrec]
  simp only [bind, Except.bind, hshape, hbar, hhold, beq_false_of_ne hon]
  rfl

end

include hc hown in
/-- R222: a pass whose record is not current traps. -/
theorem pass_notCurrent (hrec : c.record s f.pair.toNat = .error (illegal 4)) (hsvc : passInService s f.efn.toNat = true) :
    ∀ i ∈ [Instr.mmaS f, .mspmm f], trapsAs i s c { cause := cIllegal, detail := 4 } := by
  have hpass : c.passRecord s f = .error (illegal 4) := by
    unfold Iss.passRecord
    rw [hsvc, hrec]
    rfl
  intro i hi
  simp only [List.mem_cons, List.not_mem_nil, or_false] at hi
  rcases hi with rfl | rfl
  · show execMmaS f s = _
    unfold execMmaS
    rw [asGroup_eq hc, hown, hpass]
    rfl
  · show execMspmm f s = _
    unfold execMspmm
    rw [asGroup_eq hc, hown, hpass]
    rfl

end

/-- A request of an empty table is the only one. -/
theorem Bay.length_members_accepted {b : Bay} (h : b.reqs = []) (r : MReq) (id clk k : Nat) :
    ((b.accepted r id clk).members k).length ≤ 1 := by
  refine (List.length_filter_le _ _).trans ?_
  simp [Bay.accepted, Bay.stamp_reqs, h]

end Sys2Proof.Machine

open Sys2Proof Sys2Proof.Machine Sys2Proof.Claims

/-- Settles O32: each pass that meets its checks ends in the acceptance of its request, and a record that is not current stops it. -/
theorem passRequests : Obligations.PassRequests := by
  unfold Obligations.PassRequests
  intro s f c a hc hown
  refine ⟨fun hrec hfmt hsvc hbar => ⟨?mma, ?spmm, ?quarter, ?bypass⟩, pass_notCurrent hc hown⟩
  case mma =>
    intro hon hrange hefn hhold
    obtain ⟨t, q, hq, -, hr⟩ := requestAccepted_accept hc (mmaS_issues hc hown hrec hfmt hbar hsvc hon hrange hefn hhold) rfl
      ⟨rfl, rfl, rfl, rfl, rfl⟩
    exact ⟨t, q, hq, (congrArg MReq.op hr :), (congrArg MReq.tiles hr :), (congrArg MReq.rows hr :), (congrArg MReq.resvA hr :),
      (congrArg MReq.ofs hr :)⟩
  case spmm =>
    intro hon h1 h64 hfits hhold
    obtain ⟨t, q, hq, -, hr⟩ := requestAccepted_accept hc (mspmm_issues hc hown hrec hfmt hbar hsvc hon h1 h64 hfits hhold) rfl
      ⟨rfl, rfl, rfl, rfl, rfl⟩
    exact ⟨t, q, hq, (congrArg MReq.op hr :), (congrArg MReq.tiles hr :), (congrArg MReq.rows hr :), (congrArg MReq.resvA hr :),
      (congrArg MReq.e hr :)⟩
  case quarter =>
    intro hrange hefn hword hempty hhold
    have hx := mmaQ_joins hc hown hrec hfmt hbar hsvc hrange hefn hword hhold
    have hfew : (c.gangJoined s f a).length ≤ 1 := by
      rw [Iss.gangJoined, Iss.joined, accept_eq, State.bayAt_putBay_self]
      refine Bay.length_members_accepted ?_ _ _ _ _
      rw [withGang, State.bayAt_putBay_self]
      exact hempty
    have hopen : ((c.gangJoined s f a).length == 4) = false := beq_false_of_ne (by omega)
    rw [hopen, Bool.false_and] at hx
    obtain ⟨t, q, hq, -, hr⟩ := requestAccepted_accept hc hx rfl ⟨rfl, rfl, rfl, rfl, rfl⟩
    exact ⟨t, q, hq, (congrArg MReq.op hr :), (congrArg MReq.rows hr :), (congrArg MReq.resvA hr :), _, (congrArg MReq.tag hr :)⟩
  case bypass =>
    intro hon hefn hfits hhold
    obtain ⟨t, q, hq, -, hr⟩ := requestAccepted_accept hc (mbypass_issues hc hown hrec hfmt hbar hon hefn hfits hhold) rfl
      ⟨rfl, rfl, rfl, rfl, rfl⟩
    exact ⟨t, q, hq, (congrArg MReq.op hr :), (congrArg MReq.tiles hr :), (congrArg MReq.resvA hr :)⟩
end

section
/-!
PROOFS. What the end of a request leaves (R54, R216, R223), the reservations of the operand buffer (R221 to R223), the fields of
MSTAT (R236), and the obligation Reservations.
-/
namespace Sys2Proof.Machine
open Sys2Proof.Claims

/-! ### The end of a request in its group (R54, R216) -/

/-- The group when a request of it is over, with the writes of the request made. -/
def Group.closed (g : Group) (fc : Nat) (r : MReq) (outs : List RegWrite) : Group :=
  let g1 := applyOuts { g with entries := g.entries.filter (fun e => e.id != r.entry) } fc r.entry outs
  { g1.dropFlag r.flag with ocMat := g1.ocMat - 1 }

theorem matDone_eq (s : State) (r : MReq) (outs : List RegWrite) :
    matDone s r outs = { s with groups := Map.modify s.groups r.gid (fun g => g.closed s.free r outs) } := rfl

theorem Group.dropFlag_frame (g : Group) (n : Option Nat) : { g.dropFlag n with cf := g.cf } = g := by
  cases n <;> rfl

section
variable (g : Group) (fc : Nat) (r : MReq) (outs : List RegWrite)

/-- The writes of the request, over the group with its entry freed. -/
def Group.closedRegs : Group :=
  outs.foldl (Group.settleOut fc r.entry) { g with entries := g.entries.filter (fun e => e.id != r.entry) }

/-- What neither the record of races nor a counter bears on is what the writes make of it. -/
theorem Group.closed_view {α : Type} {view : Group → α} (hview : ∀ (g : Group) m n c, view { g with raced := m, ocMat := n, cf := c } = view g) :
    view (g.closed fc r outs) = view (g.closedRegs fc r outs) := by
  have happly := congrArg view (applyOuts_eq { g with entries := g.entries.filter (fun e => e.id != r.entry) } fc r.entry outs)
  let g1 := applyOuts { g with entries := g.entries.filter (fun e => e.id != r.entry) } fc r.entry outs
  have hflag := congrArg view (Group.dropFlag_frame g1 r.flag)
  calc view (g.closed fc r outs)
    _ = view { g1.dropFlag r.flag with cf := g1.cf } :=
        (hview _ (g.closed fc r outs).raced (g1.dropFlag r.flag).ocMat g1.cf).symm
    _ = view g1 := hflag
    _ = view { g1 with raced := g.raced } := (hview g1 g.raced g1.ocMat g1.cf).symm
    _ = view { g.closedRegs fc r outs with raced := g.raced } := happly
    _ = view (g.closedRegs fc r outs) := hview _ g.raced (g.closedRegs fc r outs).ocMat (g.closedRegs fc r outs).cf

/-- The group `y` with what the end of a request may change as it stands in `g`. -/
def Group.unclosed (g y : Group) : Group :=
  { y with v := g.v, s := g.s, p := g.p, th := g.th, thType := g.thType, entries := g.entries, cf := g.cf, ocMat := g.ocMat,
           raced := g.raced, poison := g.poison }

theorem Group.closed_frame : g.unclosed (g.closed fc r outs) = g :=
  (g.closed_view fc r outs (view := g.unclosed) fun _ _ _ _ => rfl).trans
    (congrArg (fun y : Group => { y with entries := g.entries, cf := g.cf, ocMat := g.ocMat, raced := g.raced })
      (sameButOuts_foldl fc r.entry outs { g with entries := g.entries.filter (fun e => e.id != r.entry) }) :)

theorem Group.closed_ocMat : (g.closed fc r outs).ocMat = g.ocMat - 1 := by
  let g0 : Group := { g with entries := g.entries.filter (fun e => e.id != r.entry) }
  have h1 : (applyOuts g0 fc r.entry outs).ocMat = g.ocMat :=
    (congrArg Group.ocMat (applyOuts_eq g0 fc r.entry outs) :).trans (congrArg Group.ocMat (sameButOuts_foldl fc r.entry outs g0) :)
  exact congrArg (· - 1) h1

/-- A request that writes no register leaves them. -/
theorem Group.closed_nil : (g.closed fc r []).v = g.v ∧ (g.closed fc r []).s = g.s ∧ (g.closed fc r []).p = g.p :=
  ⟨g.closed_view fc r [] (view := Group.v) fun _ _ _ _ => rfl, g.closed_view fc r [] (view := Group.s) fun _ _ _ _ => rfl,
   g.closed_view fc r [] (view := Group.p) fun _ _ _ _ => rfl⟩

/-- Where no register was raced, the only write of a lane of a v register sets it. -/
theorem Group.closed_v (hraced : g.raced = []) (hn : (outs.map RegWrite.key).Nodup) {d l : Nat} {x : Word}
    (ho : RegWrite.v d l x ∈ outs) (hex : g.exited.getLsbD l = false) : Map.get 0 (g.closed fc r outs).v (32 * d + l) = x := by
  rw [g.closed_view fc r outs (view := fun y => Map.get 0 y.v (32 * d + l)) fun _ _ _ _ => rfl]
  have hland := foldl_settleOut_lands (view := fun y : Group => Map.get 0 y.v (32 * d + l)) (fun _ _ => rfl) fc r.entry outs hn ho
    (x := x) (ex := g.exited) ?_ ?_ { g with entries := g.entries.filter (fun e => e.id != r.entry) } rfl
  · refine hland.resolve_right fun h => ?_
    simp [Group.racedBy, hraced] at h
  · intro o' hne y
    refine y.put_v_other o' _ ?_
    rintro d' l' x' rfl heq
    exact hne heq
  · intro y hy
    refine (y.get_wrV d l x _).trans (if_pos ⟨?_, rfl⟩)
    rw [hy, hex]

end

/-! ### Requests that leave the table -/

theorem dropReqs_eq (s : State) (bay : Nat) (ids : List Nat) : dropReqs s bay ids = s.putBay bay
    ({ s.bayAt bay with reqs := (s.bayAt bay).reqs.filter (fun r => !ids.contains r.id) }.stamp (s.clk / 10)) := rfl

theorem bayAt_dropReqs_frame (s : State) (bay : Nat) (ids : List Nat) :
    { (dropReqs s bay ids).bayAt bay with reqs := (s.bayAt bay).reqs } = s.bayAt bay := by
  rw [dropReqs_eq, State.bayAt_putBay_self]
  rfl

/-- A request that stays has none of the numbers. -/
theorem notMem_of_mem_dropReqs {s : State} {bay : Nat} {ids : List Nat} {q : MReq} (h : q ∈ ((dropReqs s bay ids).bayAt bay).reqs) :
    q.id ∉ ids := by
  rw [dropReqs_eq, State.bayAt_putBay_self] at h
  obtain ⟨r, hr, heq⟩ := Bay.mem_stamp h
  have hid : q.id = r.id := (congrArg MReq.id heq :)
  rw [hid]
  simpa using (List.mem_filter.1 hr).2

/-! ### The run that is reserved (R221) -/

/-- A run of `len` units from `a` lies in the buffer and meets none of the ranges. -/
def runClear (l : List (Nat × Nat)) (len a : Nat) : Prop := a + len ≤ 32768 ∧ ∀ x, x ∈ l → x.1 + x.2 ≤ a ∨ a + len ≤ x.1

theorem runClear_cons (b n : Nat) (l : List (Nat × Nat)) (len a : Nat) :
    runClear ((b, n) :: l) len a ↔ (b + n ≤ a ∨ a + len ≤ b) ∧ runClear l len a := by
  simp only [runClear, List.mem_cons, forall_eq_or_imp]
  tauto

/-- Of ranges in order of their starts, the search finds the lowest clear run from `at0`, or none where there is none. -/
theorem firstRun_eq_some_iff {len at0 a : Nat} {l : List (Nat × Nat)} (hs : l.Pairwise (fun x y => x.1 ≤ y.1))
    (hb : ∀ x ∈ l, x.1 ≤ 32768) : firstRun len at0 l = some a ↔ IsLeast {k | at0 ≤ k ∧ runClear l len k} a := by
  induction l generalizing at0 with
  | nil =>
    have hset : ∀ k, k ∈ {k | at0 ≤ k ∧ runClear [] len k} ↔ at0 ≤ k ∧ k + len ≤ 32768 := fun k => by simp [runClear]
    unfold firstRun
    constructor
    · intro h
      split at h
      · next hfits =>
        cases h
        exact ⟨(hset _).2 ⟨Nat.le_refl _, hfits⟩, fun k hk => ((hset k).1 hk).1⟩
      · cases h
    · rintro ⟨ha, hle⟩
      have ha := (hset a).1 ha
      have hleast := hle ((hset at0).2 ⟨Nat.le_refl _, by omega⟩)
      rw [if_pos (by omega)]
      congr 1
      omega
  | cons x l ih =>
    obtain ⟨b, n⟩ := x
    obtain ⟨hfirst, hs⟩ := List.pairwise_cons.1 hs
    have hb0 : b ≤ 32768 := hb (b, n) List.mem_cons_self
    unfold firstRun
    by_cases hfits : at0 + len ≤ b
    · have hclear : at0 ∈ {k | at0 ≤ k ∧ runClear ((b, n) :: l) len k} := by
        refine ⟨Nat.le_refl _, by omega, fun y hy => .inr ?_⟩
        rcases List.mem_cons.1 hy with rfl | hy
        · exact hfits
        · exact hfits.trans (hfirst y hy)
      have hleast : IsLeast {k | at0 ≤ k ∧ runClear ((b, n) :: l) len k} at0 := ⟨hclear, fun k hk => hk.1⟩
      rw [if_pos hfits, Option.some_inj]
      exact ⟨fun h => h ▸ hleast, fun h => hleast.unique h⟩
    · have hset : {k | at0 ≤ k ∧ runClear ((b, n) :: l) len k} = {k | max at0 (b + n) ≤ k ∧ runClear l len k} := by
        ext k
        simp only [Set.mem_ofPred_eq, runClear_cons]
        constructor
        · rintro ⟨h1, h2, h3⟩
          exact ⟨by omega, h3⟩
        · rintro ⟨h1, h2⟩
          exact ⟨by omega, by omega, h2⟩
      rw [if_neg hfits, hset]
      exact ih hs fun y hy => hb y (List.mem_cons_of_mem _ hy)

theorem firstRun_eq_none {len at0 : Nat} {l : List (Nat × Nat)} (hs : l.Pairwise (fun x y => x.1 ≤ y.1)) (hb : ∀ x ∈ l, x.1 ≤ 32768)
    (h : firstRun len at0 l = none) (k : Nat) (hk : at0 ≤ k) : ¬ runClear l len k := by
  intro hclear
  have hne : {k | at0 ≤ k ∧ runClear l len k}.Nonempty := ⟨k, hk, hclear⟩
  have hleast : IsLeast {k | at0 ≤ k ∧ runClear l len k} (sInf {k | at0 ≤ k ∧ runClear l len k}) :=
    ⟨Nat.sInf_mem hne, fun j hj => Nat.sInf_le hj⟩
  rw [(firstRun_eq_some_iff hs hb).2 hleast] at h
  cases h

theorem longestRun_le {at0 : Nat} {l : List (Nat × Nat)} (hb : ∀ x ∈ l, x.1 ≤ 32768) : longestRun at0 l ≤ 32768 := by
  induction l generalizing at0 with
  | nil => exact Nat.sub_le _ _
  | cons x l ih =>
    have hx : x.1 ≤ 32768 := hb x List.mem_cons_self
    exact Nat.max_le.2 ⟨(Nat.sub_le _ _).trans hx, ih fun y hy => hb y (List.mem_cons_of_mem _ hy)⟩

theorem lowestFree_lt {used : List Nat} {n a k : Nat} (h : lowestFree used n a = some k) : k < a + n := by
  induction n generalizing a with
  | zero => cases h
  | succ n ih =>
    rw [lowestFree] at h
    split at h
    · have := ih h
      omega
    · cases h
      omega

theorem lowestFree_eq_none {used : List Nat} {n a : Nat} (h : lowestFree used n a = none) {k : Nat} (h1 : a ≤ k) (h2 : k < a + n) :
    k ∈ used := by
  induction n generalizing a with
  | zero => omega
  | succ n ih =>
    rw [lowestFree] at h
    split at h
    · next hused =>
      rcases Nat.eq_or_lt_of_le h1 with rfl | hlt
      · simpa using hused
      · exact ih h hlt (by omega)
    · cases h

/-! ### The ranges of a bay -/

section
variable (b : Bay)

theorem Bay.mem_ranges {x : Nat × Nat} : x ∈ b.ranges ↔ ∃ r ∈ b.resv, ((mrecOf r.2.w0 r.2.w1).base, (mrecOf r.2.w0 r.2.w1).len) = x := by
  unfold Bay.ranges
  rw [(sortBy_perm _ _).mem_iff, List.mem_map]

theorem Bay.ranges_start_lt : ∀ x ∈ b.ranges, x.1 ≤ 32768 := by
  intro x hx
  obtain ⟨r, -, rfl⟩ := b.mem_ranges.1 hx
  have h : (mrecOf r.2.w0 r.2.w1).base < 2 ^ 15 := bits_lt r.2.w0 14 0
  exact Nat.le_of_lt h

theorem Bay.ranges_sorted : b.ranges.Pairwise (fun x y => x.1 ≤ y.1) := by
  refine (ordered_sortBy (fun x : Nat × Nat => [x.1]) _).imp fun h => ?_
  by_contra hlt
  exact h (List.Lex.rel (Nat.lt_of_not_le hlt))

end

/-! ### The record that is written back (R221) -/

/-- The two words of a record with its base, number, generation and VALID replaced. -/
def recordWords (w0 w1 : DWord) (base id gen : Nat) (valid : Bool) : DWord × DWord :=
  (setBits (setBits w0 14 0 base) 63 63 (if valid then 1 else 0), setBits (setBits w1 37 32 id) 55 40 gen)

theorem mrecOf_recordWords (w0 w1 : DWord) (base id gen : Nat) (valid : Bool) :
    mrecOf (recordWords w0 w1 base id gen valid).1 (recordWords w0 w1 base id gen valid).2 =
      { mrecOf w0 w1 with base := base % 2 ^ 15, id := id % 2 ^ 6, gen := gen % 2 ^ 16 } := by
  simp only [mrecOf, recordWords, MRec.mk.injEq]
  refine ⟨?_, ?_, ?_, ?_, ?_, ?_, ?_, ?_⟩
  · rw [bits_setBits_ne _ (by omega) (by omega) (by omega), bits_setBits_self _ (by omega) (by omega)]
  · rw [bits_setBits_ne _ (by omega) (by omega) (by omega), bits_setBits_ne _ (by omega) (by omega) (by omega)]
  · rw [bits_setBits_ne _ (by omega) (by omega) (by omega), bits_setBits_ne _ (by omega) (by omega) (by omega)]
  · rw [bits_setBits_ne _ (by omega) (by omega) (by omega), bits_setBits_ne _ (by omega) (by omega) (by omega)]
  · rw [bits_setBits_ne _ (by omega) (by omega) (by omega), bits_setBits_ne _ (by omega) (by omega) (by omega)]
  · rw [bits_setBits_ne _ (by omega) (by omega) (by omega), bits_setBits_ne _ (by omega) (by omega) (by omega)]
  · rw [bits_setBits_ne _ (by omega) (by omega) (by omega), bits_setBits_self _ (by omega) (by omega)]
  · rw [bits_setBits_self _ (by omega) (by omega)]

theorem bit_recordWords (w0 w1 : DWord) (base id gen : Nat) (valid : Bool) :
    bit (recordWords w0 w1 base id gen valid).1 63 = valid := by
  rw [recordWords, bit_setBits_self _ (by omega) (by omega) (by omega)]
  cases valid <;> rfl

/-- R221: the buffer reserves the lowest clear run under the lowest free number, or changes nothing. -/
theorem Bay.reserve_cases (b : Bay) (ctx : Nat) (w0 w1 : DWord) :
    (∃ id base, lowestFree (Map.keys b.resv) 64 0 = some id ∧ firstRun (mrecOf w0 w1).len 0 b.ranges = some base ∧
      let x := recordWords w0 w1 base id (Map.get 0 b.gens id) true
      ∃ buf, b.reserve ctx w0 w1 =
        ({ b with resv := Map.put b.resv id { ctx := ctx, w0 := x.1, w1 := x.2, free := false }, buf := buf }, x.1, x.2)) ∨
    ((lowestFree (Map.keys b.resv) 64 0 = none ∨ firstRun (mrecOf w0 w1).len 0 b.ranges = none) ∧
      b.reserve ctx w0 w1 = (b, (recordWords w0 w1 0 0 0 false).1, (recordWords w0 w1 0 0 0 false).2)) := by
  unfold Bay.reserve
  dsimp only
  cases hid : lowestFree (Map.keys b.resv) 64 0 with
  | none => exact .inr ⟨.inl rfl, rfl⟩
  | some id =>
    cases hrun : firstRun (mrecOf w0 w1).len 0 b.ranges with
    | none => exact .inr ⟨.inr rfl, rfl⟩
    | some base => exact .inl ⟨id, base, rfl, rfl, _, rfl⟩

/-- A record is current for what it has reserved (R222). -/
theorem Bay.current_put {b : Bay} {ctx : Nat} {w0 w1 : DWord} {id : Nat} (hid : (mrecOf w0 w1).id = id) (hv : bit w0 63 = true)
    (h : Map.find b.resv id = some { ctx := ctx, w0 := w0, w1 := w1, free := false }) : b.current ctx w0 w1 = some (mrecOf w0 w1) := by
  unfold Bay.current
  simp only [hid, h, hv]
  simp

/-! ### MRES, MREL and MSTAT at issue -/

section
variable {s : State} {f : EFmt} {c : Iss} (hc : issuer s f.r.g = some c)
include hc

theorem mres_malformed (h : mresOk (c.pair0 f) (c.pair1 f) = false) : trapsAs (.mres f) s c { cause := cIllegal, detail := 4 } := by
  show execMres f s = _
  unfold execMres
  rw [asGroup_eq hc]
  simp only [h]
  rfl

theorem mres_off (h : mresOk (c.pair0 f) (c.pair1 f) = true) (h0 : c.on = 0) : completesAs (.mres f) s c c.g := by
  show execMres f s = _
  unfold execMres
  rw [asGroup_eq hc]
  simp only [h, h0]
  rfl

theorem mres_answers (h : mresOk (c.pair0 f) (c.pair1 f) = true) (h0 : c.on ≠ 0) (hhold : c.g.holds c.sp.word (.mres f) = false)
    {b' : Bay} {x0 x1 : DWord} (hres : (s.bayAt (coreBay c.g.core)).reserve c.g.ctx (c.pair0 f) (c.pair1 f) = (b', x0, x1)) :
    exec (.mres f) s = .next (bufferDone (s.putBay (coreBay c.g.core) b') c (.mres f) [.s f.pair.toNat x0, .s (f.pair.toNat + 1) x1]) := by
  show execMres f s = _
  unfold execMres
  rw [asGroup_eq hc]
  simp only [h, beq_false_of_ne h0, holdAtIssue_ok hhold, hres]
  rfl

theorem mrel_off {a : MRec} (ha : c.record s f.pair.toNat = .ok a) (h0 : c.on = 0) : completesAs (.mrel f) s c c.g := by
  show execMrel f s = _
  unfold execMrel
  rw [asGroup_eq hc, ha, h0]
  rfl

/-- The bay when the reservation `id` is to be released. -/
def Bay.releasing (b : Bay) (id : Nat) : Bay := { b with resv := Map.modify b.resv id (fun x => { x with free := true }) }

theorem mrel_accepts {a : MRec} (ha : c.record s f.pair.toNat = .ok a) (h0 : c.on ≠ 0) (hhold : c.g.holds c.sp.word (.mrel f) = false) :
    exec (.mrel f) s = .next (accept (s.putBay (coreBay c.g.core) ((s.bayAt (coreBay c.g.core)).releasing a.id)) c (.mrel f)
      { c.request f (.mrel f) .release with resvA := some a.id }) := by
  show execMrel f s = _
  unfold execMrel
  rw [asGroup_eq hc, ha, beq_false_of_ne h0, holdAtIssue_ok hhold]
  rfl

theorem mstat_answers (h0 : c.on ≠ 0) (hhold : c.g.holds c.sp.word (.mstat f) = false) :
    exec (.mstat f) s = .next (bufferDone s c (.mstat f) [.s f.r.dst.toNat (mstatWord s c.g)]) := by
  show execMstat f s = _
  unfold execMstat
  rw [asOnce_on hc h0, holdAtIssue_ok hhold]
  rfl

end

theorem record_eq_ok {s : State} {c : Iss} {r : Nat} {a : MRec} (h : c.record s r = .ok a) :
    (s.bayAt (coreBay c.g.core)).current c.g.ctx (c.g.rdS c.fc r) (c.g.rdS c.fc (r + 1)) = some a := by
  unfold Iss.record at h
  split at h
  · next hcur => cases h; exact hcur
  · cases h

/-- R222: a record that is current is one of a reservation, under its number. -/
theorem Bay.current_eq_some {b : Bay} {ctx : Nat} {w0 w1 : DWord} {a : MRec} (h : b.current ctx w0 w1 = some a) :
    a = mrecOf w0 w1 ∧ ∃ x, Map.find b.resv a.id = some x := by
  unfold Bay.current at h
  dsimp only at h
  split at h
  · cases h
  · next x hx =>
    split at h
    · cases h
      exact ⟨rfl, x, hx⟩
    · cases h

/-- R223: a reservation that is to be released has no current record. -/
theorem Bay.current_releasing {b : Bay} {ctx : Nat} {w0 w1 : DWord} {a : MRec} (h : b.current ctx w0 w1 = some a) :
    (b.releasing a.id).current ctx w0 w1 = none := by
  obtain ⟨rfl, x, hx⟩ := Bay.current_eq_some h
  have hfree : Map.find (b.releasing (mrecOf w0 w1).id).resv (mrecOf w0 w1).id = some { x with free := true } :=
    Map.find_modify_some hx _
  unfold Bay.current
  simp [hfree]

theorem Bay.current_congr {b b' : Bay} (h : b'.resv = b.resv) (ctx : Nat) (w0 w1 : DWord) : b'.current ctx w0 w1 = b.current ctx w0 w1 := by
  unfold Bay.current
  rw [h]

/-! ### The word of MSTAT (R236) -/

/-- The fields of a word that is the sum of them in their places. -/
theorem bits_mstat {entries numbers run live own gerr : Nat} (h1 : entries < 2 ^ 7) (h2 : numbers < 2 ^ 7) (h3 : run < 2 ^ 16)
    (h4 : live < 2 ^ 16) (h5 : own < 2) (h6 : gerr < 2 ^ 8) :
    let w : DWord := BitVec.ofNat 64 (entries + numbers * 2 ^ 7 + run * 2 ^ 14 + (live * 2 ^ 32 + own * 2 ^ 48) + gerr * 2 ^ 56)
    bits w 6 0 = entries ∧ bits w 13 7 = numbers ∧ bits w 29 14 = run ∧ bits w 31 30 = 0 ∧ bits w 47 32 = live ∧ bits w 48 48 = own ∧
      bits w 55 49 = 0 ∧ bits w 63 56 = gerr := by
  simp only [bits, BitVec.toNat_ofNat]
  omega

section
variable (s : State) (g : Group)

/-- The tiles that MSTAT shows as live: those of a core that belongs to the context. -/
def mstatLive : Nat :=
  if bit (s.coreAt g.core).aown 6 = true ∧ bits (s.coreAt g.core).aown 5 0 = g.ctx then (s.coreAt g.core).acclive.toNat else 0

/-- Whether the core belongs to the context, as MSTAT shows it. -/
def mstatOwn : Nat := if bit (s.coreAt g.core).aown 6 = true ∧ bits (s.coreAt g.core).aown 5 0 = g.ctx then 1 else 0

theorem mstatWord_eq : mstatWord s g =
    let b := s.bayAt (coreBay g.core)
    BitVec.ofNat 64 ((64 - b.used) + (64 - b.resv.length) * 2 ^ 7 + longestRun 0 b.ranges * 2 ^ 14 +
      (mstatLive s g * 2 ^ 32 + mstatOwn s g * 2 ^ 48) + min 255 g.gerr * 2 ^ 56) := by
  unfold mstatWord mstatLive mstatOwn
  by_cases h : bit (s.coreAt g.core).aown 6 = true ∧ bits (s.coreAt g.core).aown 5 0 = g.ctx
  · simp [h]
  · have hb : (bit (s.coreAt g.core).aown 6 && bits (s.coreAt g.core).aown 5 0 == g.ctx) = false := by
      simpa [Bool.and_eq_false_iff] using fun h1 h2 => h ⟨h1, h2⟩
    simp [h, hb]

theorem bits_mstatWord :
    let w := mstatWord s g
    let b := s.bayAt (coreBay g.core)
    bits w 6 0 = 64 - b.used ∧ bits w 13 7 = 64 - b.resv.length ∧ bits w 29 14 = longestRun 0 b.ranges ∧ bits w 31 30 = 0 ∧
      bits w 47 32 = mstatLive s g ∧ bits w 48 48 = mstatOwn s g ∧ bits w 55 49 = 0 ∧ bits w 63 56 = min 255 g.gerr := by
  have hrun := longestRun_le (at0 := 0) (s.bayAt (coreBay g.core)).ranges_start_lt
  have hlive : mstatLive s g < 2 ^ 16 := by
    unfold mstatLive
    split
    · exact BitVec.isLt _
    · decide
  have hown : mstatOwn s g < 2 := by
    unfold mstatOwn
    split <;> decide
  dsimp only
  rw [mstatWord_eq]
  exact bits_mstat (by omega) (by omega) (by omega) hlive hown (by omega)

end

/-! ### The release (R223) -/

section
variable {s : State} {bay req id : Nat} {r : MReq} (hr : (s.bayAt bay).reqs.find? (fun x => x.id == req && x.op == .release) = some r)
  (hid : r.resvA = some id)
include hr hid

theorem mrelRelease_waits (h : ∃ q, q ∈ (s.bayAt bay).reqs ∧ q.op ≠ .release ∧ (q.resvA = some id ∨ q.resvB = some id)) :
    exec (.mrelRelease bay req) s = .next s := by
  have hany : (s.bayAt bay).reqs.any (fun q => q.op != .release && (q.resvA == some id || q.resvB == some id)) = true := by
    obtain ⟨q, hq, hop, hres⟩ := h
    exact List.any_eq_true.2 ⟨q, hq, by simpa [hop] using hres⟩
  show execMrelRelease bay req s = _
  unfold execMrelRelease
  simp only [hr, hid, Option.getD_some, hany, if_true]

/-- The bay with the reservation's number and range free and its generation advanced. -/
def Bay.freed (b : Bay) (id : Nat) : Bay :=
  { b with resv := Map.del b.resv id, gens := Map.set 0 b.gens id ((Map.get 0 b.gens id + 1) % 2 ^ 16) }

theorem mrelRelease_frees (h : ∀ q, q ∈ (s.bayAt bay).reqs → q.op ≠ .release → q.resvA ≠ some id ∧ q.resvB ≠ some id) :
    exec (.mrelRelease bay req) s = .next (dropReqs (matDone (s.putBay bay ((s.bayAt bay).freed id)) r []) bay [r.id]) := by
  have hany : (s.bayAt bay).reqs.any (fun q => q.op != .release && (q.resvA == some id || q.resvB == some id)) = false := by
    refine List.any_eq_false.2 fun q hq => ?_
    simpa using h q hq
  show execMrelRelease bay req s = _
  unfold execMrelRelease
  simp only [hr, hid, Option.getD_some, hany]
  rfl

end

end Sys2Proof.Machine

open Sys2Proof Sys2Proof.Machine Sys2Proof.Claims

/-- Settles O34: the first free number and the lowest clear run are searched for in order, and the record's fields are written back;
a release frees the number once no request names it. -/
theorem reservations : Obligations.Reservations := by
  unfold Obligations.Reservations
  refine ⟨fun s f c hc => ⟨mres_malformed hc, mres_off hc, ?mres, fun a ha => mrel_off hc ha, ?mrel, ?mstatOff, ?mstat, ?word⟩,
    fun s bay req id r hr hid => ⟨mrelRelease_waits hr hid, ?release⟩⟩
  case mres =>
    intro hok h0 hhold
    have hsorted := (s.bayAt (coreBay c.g.core)).ranges_sorted
    have hbound := (s.bayAt (coreBay c.g.core)).ranges_start_lt
    rcases (s.bayAt (coreBay c.g.core)).reserve_cases c.g.ctx (c.pair0 f) (c.pair1 f) with
      ⟨id, base, hfree, hrun, buf, hres⟩ | ⟨hnone, hres⟩
    · have hleast := (firstRun_eq_some_iff hsorted hbound).1 hrun
      have hid : id < 64 := (lowestFree_lt hfree).trans_eq (Nat.zero_add 64)
      have hnew := mrecOf_recordWords (c.pair0 f) (c.pair1 f) base id (Map.get 0 (s.bayAt (coreBay c.g.core)).gens id) true
      have hvalid := bit_recordWords (c.pair0 f) (c.pair1 f) base id (Map.get 0 (s.bayAt (coreBay c.g.core)).gens id) true
      have hlen : 1 ≤ (mrecOf (c.pair0 f) (c.pair1 f)).len := by
        simp only [mresOk, Bool.and_eq_true, decide_eq_true_eq] at hok
        tauto
      have hfits : base + (mrecOf (c.pair0 f) (c.pair1 f)).len ≤ 32768 := hleast.1.2.1
      have hbase : base % 2 ^ 15 = base := Nat.mod_eq_of_lt (by omega)
      have hnum : id % 2 ^ 6 = id := Nat.mod_eq_of_lt hid
      refine ⟨_, _, _, _, mres_answers hc hok h0 hhold hres, hres, rfl, ?_, ?_, fun _ => ?_⟩
      · rw [hnew]
      · rw [hvalid]
        exact fun h => by cases h
      · simp only [hnew, hbase, hnum]
        refine ⟨hleast.1.2, fun a ha => hleast.2 ⟨Nat.zero_le a, ha⟩, hid, ?_, ?_, fun n hn => Map.find_put_ne _ _ hn, trivial⟩
        · rw [← Option.not_isSome_iff_eq_none, Map.find_isSome_iff]
          exact lowestFree_notMem hfree
        · refine (Bay.current_put (id := id) ?_ hvalid (Map.find_put_self _ _ _)).trans ?_
          · rw [hnew]
            exact hnum
          · rw [hnew, hbase, hnum]
    · have hnew := mrecOf_recordWords (c.pair0 f) (c.pair1 f) 0 0 0 false
      have hvalid := bit_recordWords (c.pair0 f) (c.pair1 f) 0 0 0 false
      refine ⟨_, _, _, _, mres_answers hc hok h0 hhold hres, hres, rfl, ?_, fun _ => ?_, ?_⟩
      · rw [hnew]
      · simp only [hnew]
        refine ⟨trivial, rfl, rfl, rfl, hnone.imp (fun h n hn => ?_) fun h a => firstRun_eq_none hsorted hbound h a (Nat.zero_le a)⟩
        exact Map.find_isSome_iff.2 (lowestFree_eq_none h (Nat.zero_le n) (by omega))
      · rw [hvalid]
        exact fun h => by cases h
  case mrel =>
    intro a ha h0 hhold
    obtain ⟨t, q, hq, rfl, hreq⟩ := requestAccepted_accept hc (mrel_accepts hc ha h0 hhold) rfl ⟨rfl, rfl, rfl, rfl, rfl⟩
    refine ⟨_, q, hq, (congrArg MReq.op hreq :), (congrArg MReq.resvA hreq :), ?_⟩
    rw [accept_eq, State.bayAt_putBay_self, State.bayAt_putBay_self]
    exact (Bay.current_congr rfl _ _ _).trans (Bay.current_releasing (record_eq_ok ha))
  case mstatOff => exact fun h0 => asOnce_off hc h0 _
  case mstat => exact fun h0 hhold => ⟨_, mstat_answers hc h0 hhold, rfl⟩
  case word =>
    obtain ⟨h1, h2, h3, h4, hlive, hown, h7, h8⟩ := bits_mstatWord s c.g
    exact ⟨h1, h2, h3, h4, fun h => ⟨hlive.trans (if_pos h), hown.trans (if_pos h)⟩,
      fun h => ⟨hlive.trans (if_neg h), hown.trans (if_neg h)⟩, h7, h8⟩
  case release =>
    intro hnot
    have hframe := bayAt_dropReqs_frame (matDone (s.putBay bay ((s.bayAt bay).freed id)) r []) bay [r.id]
    have hbay : (matDone (s.putBay bay ((s.bayAt bay).freed id)) r []).bayAt bay = (s.bayAt bay).freed id := State.bayAt_putBay_self _ _ _
    rw [hbay] at hframe
    have hresv := (congrArg Bay.resv hframe :)
    have hgens := (congrArg Bay.gens hframe :)
    refine ⟨_, mrelRelease_frees hr hid hnot, hresv, ?_, fun x hx => ?_, ?_, fun k hk => ⟨?_, ?_⟩, fun q hq => ?_, rfl, fun g hg => ?_⟩
    · rw [hresv]
      exact Map.find_del_self _ _
    · obtain ⟨y, hy, rfl⟩ := (Bay.mem_ranges _).1 hx
      rw [hresv] at hy
      exact (Bay.mem_ranges _).2 ⟨y, List.mem_of_mem_filter hy, rfl⟩
    · rw [hgens]
      exact Map.get_set_self _ _ _ _
    · rw [hresv]
      exact Map.find_del_ne _ hk
    · rw [hgens]
      exact Map.get_set_ne _ _ _ hk
    · simpa using notMem_of_mem_dropReqs hq
    · obtain ⟨hv, hsr, hp⟩ := g.closed_nil s.free r
      exact ⟨g.closed s.free r [], Map.find_modify_some hg _, g.closed_ocMat s.free r [], hv, hsr, hp,
        (congrArg Group.splits (g.closed_frame s.free r []) :)⟩
end

section
/-!
PROOFS. Tiles and the operand buffer after the effects of requests (R214, R228, R233 to R235).
-/
namespace Sys2Proof.Machine
open Sys2Proof.Claims

/-! ### Words of a tile (R214) -/

/-- The core with the rows of a tile written, the word of row `m` and column `n` by `f m n`. -/
def Core.rowsWritten (c : Core) (t : Nat) (rows : Mask) (f : Nat → Nat → Word) : Core :=
  c.tileWrite t ((lanesOf rows).flatMap (fun m => lanes32.map (fun n => (m, n, f m n))))

theorem tileKey_inj {t r n u m k : Nat} (hr : r < 32) (hn : n < 32) (hm : m < 32) (hk : k < 32) (h : tileKey t r n = tileKey u m k) :
    t = u ∧ r = m ∧ n = k := by
  unfold tileKey at h
  omega

theorem mem_rowWords {rows : Mask} {f : Nat → Nat → Word} {x : Nat × Nat × Word} :
    x ∈ (lanesOf rows).flatMap (fun m => lanes32.map (fun n => (m, n, f m n))) ↔
      x.1 < 32 ∧ rows.getLsbD x.1 = true ∧ x.2.1 < 32 ∧ x.2.2 = f x.1 x.2.1 := by
  obtain ⟨m, n, w⟩ := x
  simp only [List.mem_flatMap, List.mem_map, mem_lanesOf, lanes32, List.mem_range, Prod.mk.injEq]
  constructor
  · rintro ⟨m', ⟨hm, hrow⟩, n', hn, rfl, rfl, rfl⟩
    exact ⟨hm, hrow, hn, rfl⟩
  · rintro ⟨hm, hrow, hn, rfl⟩
    exact ⟨m, ⟨hm, hrow⟩, n, hn, rfl, rfl, rfl⟩

theorem Core.tile_rowsWritten (c : Core) (t : Nat) (rows : Mask) (f : Nat → Nat → Word) (u : Nat) {m n : Nat} (hm : m < 32) (hn : n < 32) :
    (c.rowsWritten t rows f).tile u m n = if u = t ∧ rows.getLsbD m = true then f m n else c.tile u m n := by
  split
  · next hrow =>
    obtain ⟨rfl, hrow⟩ := hrow
    refine Map.get_foldl_set_of_key ⟨(m, n, f m n), mem_rowWords.2 ⟨hm, hrow, hn, rfl⟩, rfl⟩ (fun x hx hkey => ?_) c.tiles
    obtain ⟨hx1, -, hx2, hxw⟩ := mem_rowWords.1 hx
    obtain ⟨-, h1, h2⟩ := tileKey_inj hx1 hx2 hm hn hkey
    rw [hxw, h1, h2]
  · next hrow =>
    refine Map.get_foldl_set_of_noKey (fun x hx hkey => hrow ?_) c.tiles
    obtain ⟨hx1, hx, hx2, -⟩ := mem_rowWords.1 hx
    obtain ⟨h0, h1, -⟩ := tileKey_inj hx1 hx2 hm hn hkey
    exact ⟨h0.symm, h1 ▸ hx⟩

theorem Core.tile_tilesDrop (c : Core) (mask : BitVec 16) (u : Nat) {m n : Nat} (hm : m < 32) (hn : n < 32) :
    (c.tilesDrop mask).tile u m n = if mask.getLsbD u = true then 0 else c.tile u m n := by
  have hkey : tileKey u m n / 1024 = u := by
    unfold tileKey
    omega
  show (Map.find (c.tiles.filter _) (tileKey u m n)).getD 0 = _
  rw [Map.find_filter_key (fun k => !mask.getLsbD (k / 1024)), hkey]
  cases mask.getLsbD u <;> rfl

theorem Core.acclive_tilesZero (c : Core) (mask : BitVec 16) : (c.tilesZero mask).acclive = c.acclive ||| mask := by
  show c.acclive &&& ~~~mask ||| mask = c.acclive ||| mask
  ext k hk
  simp only [BitVec.getElem_or, BitVec.getElem_and, BitVec.getElem_not]
  cases c.acclive[k] <;> cases mask[k] <;> rfl

theorem MReq.tile_lt (r : MReq) : r.tile < 16 := by
  unfold MReq.tile
  cases h : (List.range 16).find? (fun t => r.tiles.getLsbD t) with
  | none => exact Nat.zero_lt_succ _
  | some t => exact List.mem_range.1 (List.mem_of_find?_eq_some h)

/-- A word of a pass reads its tile's own word alone. -/
theorem passWord_congr {c c' : Core} {r : MReq} {m n : Nat} (h : c'.tile r.tile m n = c.tile r.tile m n) (b : Bay) (bk : Nat → Nat → Val) :
    passWord b c' r bk m n = passWord b c r bk m n := by
  unfold passWord
  rw [h]

/-! ### Bytes of the operand buffer -/

theorem Bay.get_wr (b : Bay) (a j : Nat) (bs : List Byte) :
    Map.get 0 (b.wr a bs).buf j = if a ≤ j ∧ j < a + bs.length then bs.getD (j - a) 0 else Map.get 0 b.buf j := by
  have hmem (x : Nat × Byte) : x ∈ bs.mapIdx (fun k x => (a + k, x)) ↔ ∃ k, ∃ hk : k < bs.length, x = (a + k, bs[k]) := by
    rw [List.mem_mapIdx]
    exact exists_congr fun k => exists_congr fun hk => eq_comm
  split
  · next hj =>
    have hlt : j - a < bs.length := by omega
    refine Map.get_foldl_set_of_key ⟨(j, bs[j - a]), (hmem _).2 ⟨j - a, hlt, by rw [Nat.add_sub_cancel' hj.1]⟩, rfl⟩ (fun x hx he => ?_) b.buf
    obtain ⟨k, hk, rfl⟩ := (hmem x).1 hx
    obtain rfl : a + k = j := he
    rw [Nat.add_sub_cancel_left, List.getD_eq_getElem _ _ hk]
  · next hj =>
    refine Map.get_foldl_set_of_noKey (fun x hx he => hj ?_) b.buf
    obtain ⟨k, hk, rfl⟩ := (hmem x).1 hx
    obtain rfl : a + k = j := he
    omega

@[simp] theorem length_leBytes (n w : Nat) : (leBytes n w).length = n := by
  induction n generalizing w with
  | zero => rfl
  | succ n ih => simp [leBytes, ih]

theorem getD_leBytes {n j : Nat} (h : j < n) (w : Nat) : (leBytes n w).getD j 0 = BitVec.ofNat 8 (w / 256 ^ j) := by
  induction n generalizing w j with
  | zero => omega
  | succ n ih =>
    cases j with
    | zero => simp [leBytes]
    | succ j =>
      rw [leBytes, List.getD_cons_succ, ih (by omega), Nat.div_div_eq_div_mul, Nat.pow_succ']

/-- The bytes of elements of `z` bytes each, one after another. -/
theorem length_elemBytes (z : Nat) (l : List FRes) : (l.flatMap (fun x => leBytes z x.bits)).length = l.length * z := by
  induction l with
  | nil => simp
  | cons x l ih => rw [List.flatMap_cons, List.length_append, ih, length_leBytes, List.length_cons, Nat.succ_mul, Nat.add_comm]

theorem getD_elemBytes {z n j : Nat} (hj : j < z) (l : List FRes) (h : n < l.length) :
    (l.flatMap (fun x => leBytes z x.bits)).getD (n * z + j) 0 = BitVec.ofNat 8 (l[n].bits / 256 ^ j) := by
  induction l generalizing n with
  | nil => exact absurd h (Nat.not_lt_zero n)
  | cons x l ih =>
    rw [List.flatMap_cons]
    cases n with
    | zero =>
      rw [Nat.zero_mul, Nat.zero_add, List.getD_append _ _ _ _ (by simpa using hj), getD_leBytes hj]
      rfl
    | succ n =>
      rw [List.getD_append_right _ _ _ _ (by rw [length_leBytes, Nat.succ_mul]; omega), length_leBytes,
        show (n + 1) * z + j - z = n * z + j by rw [Nat.succ_mul]; omega, ih (Nat.lt_of_succ_lt_succ h)]
      rfl

/-! ### What every effect leaves (R219, R228, R233 to R235) -/

/-- The state `t` is `s` but for the core of the request, the bays, and MXC and FPF of its group; only MBYPASS touches a bay or FPF. -/
structure EffectFrame (s : State) (r : MReq) (t : State) : Prop where
  rest   : { t with cores := s.cores, groups := s.groups, bays := s.bays } = s
  cores  : ∀ k, k ≠ r.core → t.coreAt k = s.coreAt k
  groups : ∀ gid g, Map.find s.groups gid = some g → ∃ g1, Map.find t.groups gid = some g1 ∧
    { g1 with mxc := g.mxc, fpf := g.fpf } = g ∧ (r.op ≠ .bypass → g1.fpf = g.fpf)
  bays   : r.op ≠ .bypass → t.bays = s.bays

theorem effectFrame_refl (s : State) (r : MReq) : EffectFrame s r s :=
  ⟨rfl, fun _ _ => rfl, fun _ g hg => ⟨g, hg, rfl, fun _ => rfl⟩, fun _ => rfl⟩

theorem effectFrame_putCore (s : State) (r : MReq) (c : Core) : EffectFrame s r (s.putCore r.core c) :=
  ⟨rfl, fun k hk => by rw [coreAt_putCore, if_neg hk], fun _ g hg => ⟨g, hg, rfl, fun _ => rfl⟩, fun _ => rfl⟩

theorem moveEff_frame (s : State) (r : MReq) : EffectFrame s r (moveEff s r).st := by
  unfold moveEff
  dsimp only
  split
  · exact effectFrame_putCore s r _
  · exact effectFrame_putCore s r _
  · exact effectFrame_putCore s r _
  · exact effectFrame_refl s r
  · exact effectFrame_putCore s r _
  · exact effectFrame_putCore s r _
  · exact effectFrame_putCore s r _
  · exact effectFrame_refl s r

theorem Group.countMxc_frame (g : Group) (inv ovf unf wrap : Nat) : { g.countMxc inv ovf unf wrap with mxc := g.mxc } = g := by
  unfold Group.countMxc
  rfl

section
variable (s : State) (bay : Nat) (r : MReq) (bk : Nat → Nat → Val)

/-- The core of a request after its pass. -/
def passCore : Core := (s.coreAt r.core).rowsWritten r.tile r.rows (passWord (s.bayAt bay) (s.coreAt r.core) r bk)

theorem passEff_none (h : r.rows = 0) : passEff s bay r bk = { st := s, outs := [], rows := 0 } := by
  unfold passEff
  rw [h]
  rfl

theorem passCore_eq : passCore s bay r bk = (s.coreAt r.core).tileWrite r.tile
    (((s.bayAt bay).pass (s.coreAt r.core) r bk).map (fun x => (x.1, x.2.1, BitVec.ofNat 32 x.2.2.word))) := by
  simp only [passCore, Core.rowsWritten, Bay.pass, List.map_flatMap, List.map_map]
  rfl

/-- How many elements of a pass have a mark. -/
def passCount (p : PassRes → Bool) : Nat := (((s.bayAt bay).pass (s.coreAt r.core) r bk).filter (fun x => p x.2.2)).length

/-- The group of a request after the elements of its pass are counted (R122). -/
def passGroup (g : Group) : Group :=
  g.countMxc (passCount s bay r bk PassRes.inv) (passCount s bay r bk PassRes.ovf) (passCount s bay r bk PassRes.unf)
    (passCount s bay r bk PassRes.wrap)

theorem passGroup_frame (g : Group) : { passGroup s bay r bk g with mxc := g.mxc } = g := by
  unfold passGroup
  exact Group.countMxc_frame g _ _ _ _

/-- A pass writes the words of its rows and counts in MXC of its group. -/
theorem passEff_rows (h : r.rows ≠ 0) : passEff s bay r bk =
    { st := { s.putCore r.core (passCore s bay r bk) with groups := Map.modify s.groups r.gid (passGroup s bay r bk) },
      outs := [], rows := laneCount r.rows } := by
  unfold passEff
  rw [if_neg (by simpa using h), passCore_eq]
  rfl

theorem passEff_frame : EffectFrame s r (passEff s bay r bk).st := by
  by_cases h0 : r.rows = 0
  · rw [passEff_none _ _ _ _ h0]
    exact effectFrame_refl s r
  · rw [passEff_rows _ _ _ _ h0]
    refine ⟨rfl, fun k hk => (coreAt_putCore s r.core k _).trans (if_neg hk), fun gid g hg => ?_, fun _ => rfl⟩
    by_cases hgid : gid = r.gid
    · subst hgid
      have hframe := passGroup_frame s bay r bk g
      exact ⟨passGroup s bay r bk g, Map.find_modify_some hg _, (congrArg (fun y : Group => { y with fpf := g.fpf }) hframe :),
        fun _ => (congrArg Group.fpf hframe :)⟩
    · exact ⟨g, by rw [Map.find_modify, if_neg hgid, hg], rfl, fun _ => rfl⟩

theorem passEff_outs : (passEff s bay r bk).outs = [] := by
  unfold passEff
  split <;> rfl

theorem passEff_rowCount : (passEff s bay r bk).rows = laneCount r.rows := by
  by_cases h0 : r.rows = 0
  · rw [passEff_none _ _ _ _ h0, h0]
    rfl
  · rw [passEff_rows _ _ _ _ h0]

/-- A word of any tile after a pass. -/
theorem passEff_tile (k u : Nat) {m n : Nat} (hm : m < 32) (hn : n < 32) : ((passEff s bay r bk).st.coreAt k).tile u m n =
    if k = r.core ∧ u = r.tile ∧ r.rows.getLsbD m = true then passWord (s.bayAt bay) (s.coreAt r.core) r bk m n
    else (s.coreAt k).tile u m n := by
  by_cases h0 : r.rows = 0
  · rw [passEff_none _ _ _ _ h0, h0, if_neg (by simp)]
  · rw [passEff_rows _ _ _ _ h0]
    show ((s.putCore r.core (passCore s bay r bk)).coreAt k).tile u m n = _
    rw [coreAt_putCore]
    by_cases hk : k = r.core
    · subst hk
      rw [if_pos rfl, passCore, Core.tile_rowsWritten _ _ _ _ _ hm hn]
      simp only [true_and]
    · rw [if_neg hk, if_neg fun h => hk h.1]

end

/-! ### MBYPASS (R234) -/

section
variable (s : State) (bay : Nat) (r : MReq)

/-- The elements of a row as MBYPASS converts them. -/
def bypassRow (m : Nat) : List FRes := lanes32.map (fun n => bypassElem r.fmt r.sat ((s.coreAt r.core).tile r.tile m n))

/-- A bay after MBYPASS has written a row. -/
def bypassStep (b : Bay) (m : Nat) : Bay :=
  let rec0 := (s.bayAt bay).recOf r.resvA
  b.wr (64 * rec0.base + m * rec0.rstr + r.ofs * passSize r.fmt) ((bypassRow s r m).flatMap (fun x => leBytes (passSize r.fmt) x.bits))

/-- The bay after MBYPASS. -/
def bypassBay : Bay := lanes32.foldl (bypassStep s bay r) (s.bayAt bay)

/-- The flags that MBYPASS raises. -/
def bypassFlags : Nat := lanes32.foldl (fun a m => (bypassRow s r m).foldl (fun a x => flOr a x.flags) a) 0

theorem bypassEff_eq : bypassEff s bay r =
    { st := { s.putBay bay (bypassBay s bay r) with groups := Map.modify s.groups r.gid (fun g => g.raise (bypassFlags s r)) },
      outs := [], rows := 32 } := rfl

theorem bypassBay_frame : { bypassBay s bay r with buf := (s.bayAt bay).buf } = s.bayAt bay :=
  foldl_keeps (f := bypassStep s bay r) (view := fun b : Bay => { b with buf := (s.bayAt bay).buf }) (fun _ _ _ => rfl) (s.bayAt bay)

theorem bypassEff_frame (h : r.op = .bypass) : EffectFrame s r (bypassEff s bay r).st := by
  rw [bypassEff_eq]
  refine ⟨rfl, fun _ _ => rfl, fun gid g hg => ?_, fun hne => absurd h hne⟩
  by_cases hgid : gid = r.gid
  · subst hgid
    exact ⟨_, Map.find_modify_some hg _, rfl, fun hne => absurd h hne⟩
  · exact ⟨g, by rw [Map.find_modify, if_neg hgid, hg], rfl, fun _ => rfl⟩

theorem length_bypassRow (m : Nat) : (bypassRow s r m).length = 32 := by simp [bypassRow, lanes32]

theorem length_bypassBytes (m : Nat) :
    ((bypassRow s r m).flatMap (fun x => leBytes (passSize r.fmt) x.bits)).length = 32 * passSize r.fmt := by
  rw [length_elemBytes, length_bypassRow]

section
variable (hfits : r.ofs + 32 ≤ ((s.bayAt bay).recOf r.resvA).count r.fmt) (hfmt : r.fmt < 6)
include hfits hfmt

/-- The elements of a row lie in the record's row. -/
theorem bypass_rowFits : (r.ofs + 32) * passSize r.fmt ≤ ((s.bayAt bay).recOf r.resvA).rstr := by
  have hne : (r.fmt == 6) = false := beq_false_of_ne (by omega)
  rw [MRec.count, hne] at hfits
  exact (Nat.mul_le_mul_right _ hfits).trans (Nat.div_mul_le_self _ _)

/-- A byte of the element of row `m` and column `n` is that of the element's conversion. -/
theorem get_bypassBay {m n j : Nat} (hm : m < 32) (hn : n < 32) (hj : j < passSize r.fmt) :
    Map.get 0 (bypassBay s bay r).buf (bypassByte (s.bayAt bay) r m n j) =
      BitVec.ofNat 8 ((bypassElem r.fmt r.sat ((s.coreAt r.core).tile r.tile m n)).bits / 256 ^ j) := by
  have hrow := bypass_rowFits s bay r hfits hfmt
  have hcol : n * passSize r.fmt + j < 32 * passSize r.fmt := by
    have := Nat.mul_le_mul_right (passSize r.fmt) (Nat.succ_le_of_lt hn)
    rw [Nat.succ_mul] at this
    omega
  rw [Nat.add_mul] at hrow
  have hbyte (m : Nat) : bypassByte (s.bayAt bay) r m n j = 64 * ((s.bayAt bay).recOf r.resvA).base +
      m * ((s.bayAt bay).recOf r.resvA).rstr + r.ofs * passSize r.fmt + (n * passSize r.fmt + j) := by
    rw [bypassByte, Nat.add_mul]
    omega
  have hown (b : Bay) : Map.get 0 (bypassStep s bay r b m).buf (bypassByte (s.bayAt bay) r m n j) =
      BitVec.ofNat 8 ((bypassElem r.fmt r.sat ((s.coreAt r.core).tile r.tile m n)).bits / 256 ^ j) := by
    rw [bypassStep, hbyte, Bay.get_wr, if_pos ⟨Nat.le_add_right _ _, by rw [length_bypassBytes]; omega⟩, Nat.add_sub_cancel_left,
      getD_elemBytes hj _ (by rw [length_bypassRow]; exact hn)]
    simp [bypassRow, lanes32]
  refine foldl_lands (view := fun b : Bay => Map.get 0 b.buf (bypassByte (s.bayAt bay) r m n j)) ⟨m, List.mem_range.2 hm, hown⟩
    (fun m' _ => ?_) (s.bayAt bay)
  by_cases he : m' = m
  · subst he
    exact .inl hown
  · refine .inr fun b => ?_
    rw [bypassStep, hbyte, Bay.get_wr, if_neg]
    rw [length_bypassBytes]
    rcases Nat.lt_or_gt_of_ne he with hlt | hgt
    · have := Nat.mul_le_mul_right ((s.bayAt bay).recOf r.resvA).rstr (Nat.succ_le_of_lt hlt)
      rw [Nat.succ_mul] at this
      omega
    · have := Nat.mul_le_mul_right ((s.bayAt bay).recOf r.resvA).rstr (Nat.succ_le_of_lt hgt)
      rw [Nat.succ_mul] at this
      omega

end

/-- A byte of no element stays. -/
theorem get_bypassBay_other {a : Nat} (h : ∀ m n j, m < 32 → n < 32 → j < passSize r.fmt → a ≠ bypassByte (s.bayAt bay) r m n j) :
    Map.get 0 (bypassBay s bay r).buf a = Map.get 0 (s.bayAt bay).buf a := by
  refine foldl_keeps (view := fun b : Bay => Map.get 0 b.buf a) (fun m hm b => ?_) (s.bayAt bay)
  rw [bypassStep, Bay.get_wr, if_neg]
  rw [length_bypassBytes]
  rintro ⟨hlo, hhi⟩
  obtain ⟨d, rfl⟩ := Nat.exists_eq_add_of_le hlo
  have hd : d < 32 * passSize r.fmt := by omega
  have hz : 0 < passSize r.fmt := Nat.pos_of_lt_mul_left hd
  refine h m (d / passSize r.fmt) (d % passSize r.fmt) (List.mem_range.1 hm) ((Nat.div_lt_iff_lt_mul hz).2 hd) (Nat.mod_lt _ hz) ?_
  have hdm := Nat.div_add_mod d (passSize r.fmt)
  rw [Nat.mul_comm] at hdm
  rw [bypassByte, Nat.add_mul]
  omega

theorem testBit_foldl_or {α : Type} (f : α → Nat) (l : List α) (a k : Nat) :
    (l.foldl (fun a x => flOr a (f x)) a).testBit k = true ↔ a.testBit k = true ∨ ∃ x ∈ l, (f x).testBit k = true := by
  induction l generalizing a with
  | nil => simp
  | cons x l ih =>
    rw [List.foldl_cons, ih]
    simp [flOr, or_assoc]

theorem testBit_bypassFlags (k : Nat) : (bypassFlags s r).testBit k = true ↔
    ∃ m n, m < 32 ∧ n < 32 ∧ (bypassElem r.fmt r.sat ((s.coreAt r.core).tile r.tile m n)).flags.testBit k = true := by
  have hrows : ∀ (l : List Nat) (a : Nat), (l.foldl (fun a m => (bypassRow s r m).foldl (fun a x => flOr a x.flags) a) a).testBit k = true ↔
      a.testBit k = true ∨ ∃ m ∈ l, ∃ x ∈ bypassRow s r m, x.flags.testBit k = true := by
    intro l
    induction l with
    | nil => simp
    | cons m l ih =>
      intro a
      rw [List.foldl_cons, ih, testBit_foldl_or]
      simp [or_assoc]
  rw [bypassFlags, hrows]
  simp only [Nat.zero_testBit, Bool.false_eq_true, false_or, bypassRow, lanes32, List.mem_range, List.mem_map, exists_exists_and_eq_and]
  constructor
  · rintro ⟨m, hm, n, hn, h⟩
    exact ⟨m, n, hm, hn, h⟩
  · rintro ⟨m, n, hm, hn, h⟩
    exact ⟨m, hm, n, hn, h⟩

/-- R121: a bit of FPF after flags are raised. -/
theorem getLsbD_raise (g : Group) (fl k : Nat) :
    (g.raise fl).fpf.getLsbD k = true ↔ g.fpf.getLsbD k = true ∨ k < 5 ∧ fl.testBit k = true := by
  have hbits : (fpfBits fl).getLsbD k = (decide (k < 64) && (decide (k < 5) && fl.testBit k)) := by
    rw [fpfBits, BitVec.getLsbD_ofNat, show (32 : Nat) = 2 ^ 5 from rfl, Nat.testBit_mod_two_pow]
  show (g.fpf ||| fpfBits fl).getLsbD k = true ↔ _
  rw [BitVec.getLsbD_or, hbits]
  simp only [Bool.or_eq_true, Bool.and_eq_true, decide_eq_true_eq]
  constructor
  · exact Or.imp_right fun h => h.2
  · exact Or.imp_right fun h => ⟨by omega, h⟩

end

/-! ### The effect of a request -/

section
variable (s : State) (bay : Nat) (gang : List MReq) (r : MReq)

theorem reqEff_frame : EffectFrame s r (reqEff s bay gang r).st := by
  unfold reqEff
  split
  · exact passEff_frame s bay r _
  · exact passEff_frame s bay r _
  · exact passEff_frame s bay r _
  · next h => exact bypassEff_frame s bay r h
  · exact effectFrame_refl s r
  · exact effectFrame_refl s r
  · exact moveEff_frame s r

theorem reqEff_rows : (reqEff s bay gang r).rows = rowsWritten r := by
  unfold reqEff rowsWritten
  cases h : r.op
  case mma | spmm | gang => exact passEff_rowCount s bay r _
  case zero | fill | bcast | alloc | free | release => simp only [moveEff, h]
  all_goals rfl

variable {s bay gang r}

/-- R214: MZERO, MFILL and the passes of single requests write the rows of their row set and make their tile live. -/
theorem reqEff_core (f : Nat → Nat → Word) (h : (r.op = .zero ∧ f = fun _ _ => 0) ∨ (r.op = .fill ∧ f = fun m n => Map.get 0 r.src (32 * n + m)) ∨
    (r.op = .bcast ∧ f = fun m _ => Map.get 0 r.src m) ∨
    ((r.op = .mma ∨ r.op = .spmm) ∧ r.rows ≠ 0 ∧ f = passWord (s.bayAt bay) (s.coreAt r.core) r ((s.bayAt bay).bPart r))) :
    (reqEff s bay gang r).st.coreAt r.core = (s.coreAt r.core).rowsWritten r.tile r.rows f := by
  have hput (c : Core) : (s.putCore r.core c).coreAt r.core = c := (coreAt_putCore s r.core r.core c).trans (if_pos rfl)
  have hpass (h0 : r.rows ≠ 0) : (passEff s bay r ((s.bayAt bay).bPart r)).st.coreAt r.core = passCore s bay r ((s.bayAt bay).bPart r) := by
    rw [passEff_rows _ _ _ _ h0]
    exact hput _
  unfold reqEff
  rcases h with ⟨hop, rfl⟩ | ⟨hop, rfl⟩ | ⟨hop, rfl⟩ | ⟨hop | hop, h0, rfl⟩
  · simp only [hop, moveEff]
    exact hput _
  · simp only [hop, moveEff]
    exact hput _
  · simp only [hop, moveEff]
    exact hput _
  · simp only [hop]
    exact hpass h0
  · simp only [hop]
    exact hpass h0

theorem reqEff_bypass (h : r.op = .bypass) : reqEff s bay gang r = bypassEff s bay r := by
  unfold reqEff
  rw [h]

theorem reqEff_gang (h : r.op = .gang) : reqEff s bay gang r = passEff s bay r ((s.bayAt bay).gangB gang r.fmt) := by
  unfold reqEff
  rw [h]

theorem reqEff_drain (h : r.op = .drain ∨ r.op = .drainz) :
    reqEff s bay gang r = { st := s, outs := drained s r, rows := laneCount r.rows } := by
  unfold reqEff
  rcases h with h | h <;> rw [h]

theorem reqEff_alloc (h : r.op = .alloc) : (reqEff s bay gang r).st.coreAt r.core = (s.coreAt r.core).tilesZero r.tiles := by
  unfold reqEff
  simp only [h, moveEff]
  exact (coreAt_putCore s r.core r.core _).trans (if_pos rfl)

theorem reqEff_free (h : r.op = .free) : (reqEff s bay gang r).st.coreAt r.core = (s.coreAt r.core).tilesDrop r.tiles := by
  unfold reqEff
  simp only [h, moveEff]
  exact (coreAt_putCore s r.core r.core _).trans (if_pos rfl)

end

end Sys2Proof.Machine
end

section
/-!
PROOFS. Grants (R218, R233), and the completion of a request and of a gang (R214, R219, R228 to R235).
-/
namespace Sys2Proof.Machine
open Sys2Proof.Claims

/-! ### The grant (R218) -/

theorem mem_of_minBy {α : Type} {key : α → List Nat} {l : List α} {a : α} (h : minBy key l = some a) : a ∈ l := by
  induction l generalizing a with
  | nil => cases h
  | cons x l ih =>
    unfold minBy at h
    split at h
    · cases h
      exact List.mem_cons_self
    · next b hb =>
      split at h
      · cases h
        exact List.mem_cons_of_mem _ (ih hb)
      · cases h
        exact List.mem_cons_self

theorem Bay.mem_of_first {b : Bay} {clk : Nat} {r : MReq} (h : b.first clk = some r) : r ∈ b.reqs :=
  List.mem_of_mem_filter (mem_of_minBy h)

theorem Bay.mem_gangOf {b : Bay} {r : MReq} (h : r ∈ b.reqs) : r ∈ b.gangOf r := by
  unfold Bay.gangOf
  split
  · next tag q k ht => exact List.mem_filter.2 ⟨h, by simp [ht]⟩
  · exact List.mem_singleton_self r

/-- R219: as many arrays are taken as the request needs, of the four there are. -/
theorem length_takeArrays (b : Bay) (n : Nat) : (takeArrays b n).2.length = min 4 n := by
  unfold takeArrays
  dsimp only
  split
  · next hn =>
    have hfree : ((List.range 4).filter (fun a => !(b.reqs.flatMap (fun r => r.arrays)).contains a)).length ≤ 4 :=
      (List.length_filter_le _ _).trans_eq List.length_range
    rw [List.length_take]
    omega
  · rw [List.length_take, List.length_range]
    exact Nat.min_comm n 4

theorem mem_takeArrays {b : Bay} (n : Nat) {r : MReq} (h : r ∈ b.reqs) : ∃ q ∈ (takeArrays b n).1.reqs, q.id = r.id := by
  unfold takeArrays
  dsimp only
  split
  · exact ⟨r, h, rfl⟩
  · exact ⟨{ r with arrays := [] }, List.mem_map_of_mem h, rfl⟩

/-- The bay with a request and its gang granted. -/
def Bay.granted (b : Bay) (r : MReq) : Bay :=
  { (takeArrays b r.needs).1 with reqs := (takeArrays b r.needs).1.reqs.map (fun q =>
      if ((b.gangOf r).map MReq.id).contains q.id
      then { q with granted := true, arrays := if q.id == r.id then (takeArrays b r.needs).2 else [] } else q) }

theorem exec_matrixGrant {s : State} {bay : Nat} {r : MReq} (h : (s.bayAt bay).first (s.clk / 10) = some r) :
    exec (.matrixGrant bay) s = .next (grantDrain (s.putBay bay ((s.bayAt bay).granted r)) r) := by
  show execMatrixGrant bay s = _
  unfold execMatrixGrant
  simp only [h]
  rfl

theorem Bay.exists_granted {b : Bay} {r : MReq} (h : r ∈ b.reqs) :
    ∃ q, q ∈ (b.granted r).reqs ∧ q.id = r.id ∧ q.granted = true ∧ q.arrays.length = min 4 r.needs := by
  obtain ⟨q, hq, hid⟩ := mem_takeArrays r.needs h
  have hgang : ((b.gangOf r).map MReq.id).contains q.id = true := by
    rw [hid, List.contains_iff_mem]
    exact List.mem_map_of_mem (Bay.mem_gangOf h)
  refine ⟨_, List.mem_map_of_mem hq, ?_⟩
  rw [if_pos hgang, hid, if_pos (beq_self_eq_true _)]
  exact ⟨rfl, rfl, length_takeArrays b r.needs⟩

/-! ### A granted MDRAIN (R233) -/

theorem moveEff_groups (s : State) (r : MReq) : (moveEff s r).st.groups = s.groups := by
  unfold moveEff
  dsimp only
  split <;> rfl

theorem grantDrain_other {s : State} {r : MReq} (h1 : r.op ≠ .drain) (h2 : r.op ≠ .drainz) : grantDrain s r = s := by
  unfold grantDrain
  simp [h1, h2]

section
variable {s : State} {r : MReq} (h : r.op = .drain ∨ r.op = .drainz)
include h

theorem grantDrain_eq : grantDrain s r =
    modEntry (moveEff s r).st r.gid r.entry (fun x => { x with outs := drainOuts (s.coreAt r.core) r }) := by
  unfold grantDrain
  rcases h with h | h
  · simp only [h, moveEff]
    rfl
  · simp only [h, moveEff]
    rfl

theorem grantDrain_frame : { grantDrain s r with groups := s.groups, cores := s.cores } = s := by
  rw [grantDrain_eq h]
  unfold moveEff
  rcases h with h | h <;> rw [h] <;> rfl

/-- The rows of the tile are zeroed under .Z, and no other word of the core changes. -/
theorem drainEff_tile (u : Nat) {m n : Nat} (hm : m < 32) (hn : n < 32) : ((moveEff s r).st.coreAt r.core).tile u m n =
    if r.op = .drainz ∧ u = r.tile ∧ r.rows.getLsbD m = true then 0 else (s.coreAt r.core).tile u m n := by
  rcases h with h | h
  · simp only [h, moveEff, reduceCtorEq, false_and, if_false]
  · have hcore : (moveEff s r).st.coreAt r.core = (s.coreAt r.core).rowsWritten r.tile r.rows (fun _ _ => 0) := by
      simp only [h, moveEff]
      exact (coreAt_putCore s r.core r.core _).trans (if_pos rfl)
    rw [hcore, Core.tile_rowsWritten _ _ _ _ _ hm hn]
    simp only [h, true_and]

theorem grantDrain_coreAt (k : Nat) : (grantDrain s r).coreAt k = (moveEff s r).st.coreAt k := by
  rw [grantDrain_eq h]
  rfl

theorem grantDrain_others {k : Nat} (hk : k ≠ r.gid) : Map.find (grantDrain s r).groups k = Map.find s.groups k := by
  rw [grantDrain_eq h, modEntry_others _ _ _ _ hk, moveEff_groups]

/-- What the MDRAIN has read stands in its entry. -/
theorem grantDrain_entry {g : Group} {e : Entry} (hg : Map.find s.groups r.gid = some g)
    (he : g.entries.find? (fun x => x.id == r.entry) = some e) :
    ∃ g', Map.find (grantDrain s r).groups r.gid = some g' ∧ { g' with entries := g.entries } = g ∧
      g'.entries.find? (fun x => x.id == r.entry) = some { e with outs := drainOuts (s.coreAt r.core) r } := by
  have hid : e.id = r.entry := by simpa using List.find?_some he
  rw [← moveEff_groups s r] at hg
  rw [← hid] at he
  obtain ⟨g', hg', hfind, -, hframe⟩ := modEntry_entryIs hg he (fn := fun x => { x with outs := drainOuts (s.coreAt r.core) r }) (fun _ => rfl)
  rw [grantDrain_eq h, ← hid]
  exact ⟨g', hg', hframe, hfind⟩

end

theorem grantDrain_bays (s : State) (r : MReq) : (grantDrain s r).bays = s.bays := by
  by_cases hop : r.op = .drain ∨ r.op = .drainz
  · exact (congrArg State.bays (grantDrain_frame (s := s) hop) :)
  · rw [grantDrain_other (fun h => hop (.inl h)) fun h => hop (.inr h)]

/-! ### Urgency (R218) -/

/-- A request eligible for 1,024 clocks is urgent in the table. -/
theorem urgent_mem {s : State} {bay : Nat} {r : MReq} {k : Nat} (hr : r ∈ (s.bayAt bay).reqs) (hk : r.eligible = some k)
    (hlong : k + 1024 ≤ s.clk / 10) : ∃ t, exec (.matrixRequestUrgent bay r.id) s = .next t ∧
      { r with urgent := true } ∈ (t.bayAt bay).reqs ∧ { t with bays := s.bays } = s := by
  refine ⟨_, rfl, ?_, rfl⟩
  rw [State.bayAt_putBay_self]
  refine List.mem_map.2 ⟨r, hr, ?_⟩
  simp [hk, hlong]

/-! ### A completion (R219, R229) -/

/-- The state when the requests of a gang have completed, one after another. -/
def gangDone (s : State) (bay : Nat) (ms : List MReq) : State :=
  dropReqs (ms.foldl (fun u m => finishReq u bay ms m) s) bay (ms.map MReq.id)

theorem exec_matrixRequestComplete {s : State} {bay req : Nat} {r : MReq}
    (h : (s.bayAt bay).reqs.find? (fun x => x.id == req && x.granted) = some r) :
    exec (.matrixRequestComplete bay req) s = .next (gangDone s bay ((s.bayAt bay).gangOf r)) := by
  show execMatrixRequestComplete bay req s = _
  unfold execMatrixRequestComplete
  simp only [h]
  rfl

theorem Bay.gangOf_single {r : MReq} (h : r.tag = none) (b : Bay) : b.gangOf r = [r] := by
  unfold Bay.gangOf
  rw [h]

theorem matCredit_noName {r : MReq} (h : r.bar = none) (s : State) (rows : Nat) : matCredit s r rows = s := by
  unfold matCredit
  rw [h]

/-- The state when the effect and the end of a request are made. -/
def requestEnded (s : State) (bay : Nat) (gang : List MReq) (r : MReq) : State :=
  matDone (reqEff s bay gang r).st r (reqEff s bay gang r).outs

theorem finishReq_eq (s : State) (bay : Nat) (gang : List MReq) (r : MReq) :
    finishReq s bay gang r = matCredit (requestEnded s bay gang r) r (rowsWritten r) := by
  rw [← reqEff_rows s bay gang r]
  rfl

section
variable (s : State) (bay : Nat) (gang : List MReq) (r : MReq)

theorem requestEnded_coreAt (k : Nat) : (requestEnded s bay gang r).coreAt k = (reqEff s bay gang r).st.coreAt k := rfl

theorem requestEnded_bays : (requestEnded s bay gang r).bays = (reqEff s bay gang r).st.bays := rfl

/-- The end of a request changes cores, groups and bays alone. -/
theorem requestEnded_frame : { requestEnded s bay gang r with cores := s.cores, groups := s.groups, bays := s.bays } = s :=
  (reqEff_frame s bay gang r).rest

/-- The group of a request after its end: counted in MXC and, by MBYPASS alone, raised in FPF, and then closed. -/
theorem requestEnded_group {g : Group} (hg : Map.find s.groups r.gid = some g) :
    ∃ g1, Map.find (reqEff s bay gang r).st.groups r.gid = some g1 ∧ { g1 with mxc := g.mxc, fpf := g.fpf } = g ∧
      (r.op ≠ .bypass → g1.fpf = g.fpf) ∧
      Map.find (requestEnded s bay gang r).groups r.gid = some (g1.closed s.free r (reqEff s bay gang r).outs) := by
  have hframe := reqEff_frame s bay gang r
  obtain ⟨g1, hg1, hsame, hfpf⟩ := hframe.groups r.gid g hg
  have hfree : (reqEff s bay gang r).st.free = s.free := (congrArg State.free hframe.rest :)
  refine ⟨g1, hg1, hsame, hfpf, ?_⟩
  rw [requestEnded, matDone_eq, hfree]
  exact Map.find_modify_some hg1 _

end

/-! ### A request that is no gang (R219) -/

/-- The state when a request that is no gang and names no barrier has completed. -/
def singleDone (s : State) (bay : Nat) (r : MReq) : State := dropReqs (requestEnded s bay [r] r) bay [r.id]

theorem exec_single {s : State} {bay req : Nat} {r : MReq} (h : (s.bayAt bay).reqs.find? (fun x => x.id == req && x.granted) = some r)
    (htag : r.tag = none) (hbar : r.bar = none) : exec (.matrixRequestComplete bay req) s = .next (singleDone s bay r) := by
  rw [exec_matrixRequestComplete h, Bay.gangOf_single htag]
  show Host.Outcome.next (dropReqs (finishReq s bay [r] r) bay [r.id]) = _
  rw [finishReq_eq, matCredit_noName hbar]
  rfl

section
variable (s : State) (bay : Nat) (r : MReq)

theorem singleDone_coreAt (k : Nat) : (singleDone s bay r).coreAt k = (reqEff s bay [r] r).st.coreAt k := rfl

theorem singleDone_mem : (singleDone s bay r).mem = s.mem := (congrArg State.mem (requestEnded_frame s bay [r] r) :)

theorem singleDone_buf : ((singleDone s bay r).bayAt bay).buf = ((reqEff s bay [r] r).st.bayAt bay).buf :=
  (congrArg Bay.buf (bayAt_dropReqs_frame (requestEnded s bay [r] r) bay [r.id]) :)

theorem singleDone_bay_of_ne (h : r.op ≠ .bypass) : ((singleDone s bay r).bayAt bay).buf = (s.bayAt bay).buf := by
  have hbays : (reqEff s bay [r] r).st.bays = s.bays := (reqEff_frame s bay [r] r).bays h
  rw [singleDone_buf, State.bayAt, hbays]
  rfl

theorem notMem_singleDone {q : MReq} (h : q ∈ ((singleDone s bay r).bayAt bay).reqs) : q.id ≠ r.id := by
  simpa using notMem_of_mem_dropReqs h

end

/-! ### The writes of MDRAIN (R233) -/

theorem nodup_drainOuts (x : Core) (r : MReq) : ((drainOuts x r).map RegWrite.key).Nodup := by
  have hkeys : (drainOuts x r).map RegWrite.key = (lanesOf r.rows).flatMap (fun m => lanes32.map (fun k => 32 * (r.dst + k) + m)) := by
    simp only [drainOuts, List.map_flatMap, List.map_map]
    rfl
  rw [hkeys, List.nodup_flatMap]
  refine ⟨fun m _ => List.Nodup.map (fun a b hab => ?_) List.nodup_range, ?_⟩
  · omega
  · refine (nodup_lanesOf r.rows).imp_of_mem fun {m m'} hm hm' hne => ?_
    intro k hk hk'
    obtain ⟨a, -, rfl⟩ := List.mem_map.1 hk
    obtain ⟨b, -, hb⟩ := List.mem_map.1 hk'
    have h1 := ((mem_lanesOf _ _).1 hm).1
    have h2 := ((mem_lanesOf _ _).1 hm').1
    omega

theorem mem_drainOuts {x : Core} {r : MReq} {m n : Nat} (hm : m < 32) (hn : n < 32) (hrow : r.rows.getLsbD m = true) :
    RegWrite.v (r.dst + n) m (x.tile r.tile m n) ∈ drainOuts x r :=
  List.mem_flatMap.2 ⟨m, (mem_lanesOf _ _).2 ⟨hm, hrow⟩, List.mem_map.2 ⟨n, List.mem_range.2 hn, rfl⟩⟩

theorem drained_eq {s : State} {r : MReq} {g : Group} {e : Entry} (hg : Map.find s.groups r.gid = some g)
    (he : g.entries.find? (fun y => y.id == r.entry) = some e) : drained s r = e.outs := by
  unfold drained
  rw [hg]
  show (match g.entries.find? (fun y => y.id == r.entry) with | some e => e.outs | none => []) = _
  rw [he]

/-! ### What ends the requests of a group (R216) -/

/-- The group `g'` is `g` with `n` requests of it over that write no register. -/
def requestsOver (n : Nat) (g g' : Group) : Prop :=
  g'.ocMat = g.ocMat - n ∧ g'.gerr = g.gerr ∧ g'.fpf = g.fpf ∧ g'.v = g.v ∧ g'.s = g.s ∧ g'.p = g.p

theorem requestsOver_zero (g : Group) : requestsOver 0 g g := ⟨rfl, rfl, rfl, rfl, rfl, rfl⟩

theorem requestsOver_trans {m n : Nat} {a b c : Group} (h1 : requestsOver m a b) (h2 : requestsOver n b c) : requestsOver (m + n) a c := by
  obtain ⟨hm, he, hf, hv, hs, hp⟩ := h1
  obtain ⟨hn, he', hf', hv', hs', hp'⟩ := h2
  exact ⟨by rw [hn, hm, Nat.sub_sub], he'.trans he, hf'.trans hf, hv'.trans hv, hs'.trans hs, hp'.trans hp⟩

theorem requestsOver_closed (g : Group) (fc : Nat) (r : MReq) : requestsOver 1 g (g.closed fc r []) := by
  obtain ⟨hv, hs, hp⟩ := g.closed_nil fc r
  exact ⟨g.closed_ocMat fc r [], (congrArg Group.gerr (g.closed_frame fc r []) :), (congrArg Group.fpf (g.closed_frame fc r []) :), hv, hs, hp⟩

/-- The state `t` is `s` with the request `m` over. -/
def endsOne (s t : State) (m : MReq) : Prop :=
  ∀ gid g, Map.find s.groups gid = some g →
    ∃ g', Map.find t.groups gid = some g' ∧ requestsOver (if m.gid = gid then 1 else 0) g g'

theorem endsOne_matDone (s : State) (m : MReq) : endsOne s (matDone s m []) m := by
  intro gid g hg
  by_cases hgid : m.gid = gid
  · subst hgid
    rw [if_pos rfl]
    exact ⟨_, Map.find_modify_some hg _, requestsOver_closed g s.free m⟩
  · rw [if_neg hgid]
    refine ⟨g, ?_, requestsOver_zero g⟩
    rw [matDone_eq, Map.find_modify, if_neg (Ne.symm hgid), hg]

theorem endsOne_foldl {f : State → MReq → State} {ms : List MReq} (h : ∀ m ∈ ms, ∀ s, endsOne s (f s m) m) {s : State} {gid : Nat}
    {g : Group} (hg : Map.find s.groups gid = some g) : ∃ g', Map.find (ms.foldl f s).groups gid = some g' ∧
      requestsOver (ms.countP (fun m => m.gid == gid)) g g' := by
  induction ms generalizing s g with
  | nil => exact ⟨g, hg, requestsOver_zero g⟩
  | cons m ms ih =>
    obtain ⟨g1, hg1, h1⟩ := h m List.mem_cons_self s gid g hg
    obtain ⟨g2, hg2, h2⟩ := ih (fun x hx => h x (List.mem_cons_of_mem _ hx)) hg1
    refine ⟨g2, hg2, ?_⟩
    have hcount : (m :: ms).countP (fun m => m.gid == gid) = (if m.gid = gid then 1 else 0) + ms.countP (fun m => m.gid == gid) := by
      rw [List.countP_cons, Nat.add_comm]
      simp
    rw [hcount]
    exact requestsOver_trans h1 h2

/-! ### A gang (R229) -/

section
variable {bay : Nat} {gang : List MReq} {m : MReq} (hop : m.op = .gang) (hbar : m.bar = none) (s : State)
include hop hbar

theorem finishReq_gang : finishReq s bay gang m = matDone (passEff s bay m ((s.bayAt bay).gangB gang m.fmt)).st m [] := by
  rw [finishReq_eq, matCredit_noName hbar, requestEnded, reqEff_gang hop, passEff_outs]

theorem finishReq_gang_endsOne : endsOne s (finishReq s bay gang m) m := by
  rw [finishReq_gang hop hbar]
  intro gid g hg
  obtain ⟨g1, hg1, hsame, hfpf⟩ := (passEff_frame s bay m ((s.bayAt bay).gangB gang m.fmt)).groups gid g hg
  obtain ⟨g2, hg2, hmat, herr, hf, hv, hs, hp⟩ := endsOne_matDone _ m gid g1 hg1
  have hmat1 : g1.ocMat = g.ocMat := (congrArg Group.ocMat hsame :)
  exact ⟨g2, hg2, by rw [hmat, hmat1], herr.trans (congrArg Group.gerr hsame :), hf.trans (hfpf (by rw [hop]; decide)),
    hv.trans (congrArg Group.v hsame :), hs.trans (congrArg Group.s hsame :), hp.trans (congrArg Group.p hsame :)⟩

theorem finishReq_gang_frame : (finishReq s bay gang m).bays = s.bays ∧ (finishReq s bay gang m).mem = s.mem := by
  rw [finishReq_gang hop hbar]
  have hframe := passEff_frame s bay m ((s.bayAt bay).gangB gang m.fmt)
  exact ⟨hframe.bays (by rw [hop]; decide), (congrArg State.mem hframe.rest :)⟩

/-- A member writes the rows of its row set in its own tile. -/
theorem finishReq_gang_tile (k u : Nat) {i n : Nat} (hi : i < 32) (hn : n < 32) : ((finishReq s bay gang m).coreAt k).tile u i n =
    if k = m.core ∧ u = m.tile ∧ m.rows.getLsbD i = true
    then passWord (s.bayAt bay) (s.coreAt m.core) m ((s.bayAt bay).gangB gang m.fmt) i n else (s.coreAt k).tile u i n := by
  rw [finishReq_gang hop hbar]
  exact passEff_tile s bay m _ k u hi hn

end

/-- The states agree in the bays, in memory and in a tile. -/
def agreeOnTile (core u : Nat) (s t : State) : Prop :=
  t.bays = s.bays ∧ t.mem = s.mem ∧ ∀ i n, i < 32 → n < 32 → (t.coreAt core).tile u i n = (s.coreAt core).tile u i n

/-- Members of other tiles leave a tile. -/
theorem foldl_finishReq_other {bay core u : Nat} {gang ms : List MReq} (h : ∀ m ∈ ms, m.op = .gang ∧ m.bar = none)
    (hother : ∀ m ∈ ms, m.core ≠ core ∨ m.tile ≠ u) (s : State) :
    agreeOnTile core u s (ms.foldl (fun s m => finishReq s bay gang m) s) := by
  induction ms generalizing s with
  | nil => exact ⟨rfl, rfl, fun _ _ _ _ => rfl⟩
  | cons m ms ih =>
    obtain ⟨hop, hbar⟩ := h m List.mem_cons_self
    obtain ⟨hbays, hmem⟩ := finishReq_gang_frame (gang := gang) (bay := bay) hop hbar s
    obtain ⟨hbays', hmem', htile⟩ := ih (fun x hx => h x (List.mem_cons_of_mem _ hx)) (fun x hx => hother x (List.mem_cons_of_mem _ hx))
      (finishReq s bay gang m)
    refine ⟨hbays'.trans hbays, hmem'.trans hmem, fun i n hi hn => (htile i n hi hn).trans ?_⟩
    rw [finishReq_gang_tile hop hbar s core u hi hn, if_neg]
    rintro ⟨hc, hu, -⟩
    exact (hother m List.mem_cons_self).elim (fun hne => hne hc.symm) fun hne => hne hu.symm

theorem foldl_finishReq_frame {bay : Nat} {gang ms : List MReq} (h : ∀ m ∈ ms, m.op = .gang ∧ m.bar = none) (s : State) :
    (ms.foldl (fun s m => finishReq s bay gang m) s).bays = s.bays ∧ (ms.foldl (fun s m => finishReq s bay gang m) s).mem = s.mem := by
  induction ms generalizing s with
  | nil => exact ⟨rfl, rfl⟩
  | cons m ms ih =>
    obtain ⟨hop, hbar⟩ := h m List.mem_cons_self
    obtain ⟨hbays, hmem⟩ := finishReq_gang_frame (gang := gang) (bay := bay) hop hbar s
    obtain ⟨hbays', hmem'⟩ := ih (fun x hx => h x (List.mem_cons_of_mem _ hx)) (finishReq s bay gang m)
    exact ⟨hbays'.trans hbays, hmem'.trans hmem⟩

/-- R229: a member whose tile no other member has takes its product with the B of the whole gang. -/
theorem foldl_finishReq_tile {bay : Nat} {gang l₁ l₂ : List MReq} {m : MReq} (h : ∀ x ∈ l₁ ++ m :: l₂, x.op = .gang ∧ x.bar = none)
    (hother : ∀ x ∈ l₁ ++ l₂, x.core ≠ m.core ∨ x.tile ≠ m.tile) (s : State) {i n : Nat} (hi : i < 32) (hn : n < 32) :
    (((l₁ ++ m :: l₂).foldl (fun s m => finishReq s bay gang m) s).coreAt m.core).tile m.tile i n =
      if m.rows.getLsbD i = true then passWord (s.bayAt bay) (s.coreAt m.core) m ((s.bayAt bay).gangB gang m.fmt) i n
      else (s.coreAt m.core).tile m.tile i n := by
  obtain ⟨hop, hbar⟩ := h m (by simp)
  rw [List.foldl_append, List.foldl_cons]
  obtain ⟨hbays, -, htile⟩ := foldl_finishReq_other (bay := bay) (gang := gang) (fun x hx => h x (List.mem_append_left _ hx))
    (fun x hx => hother x (List.mem_append_left _ hx)) s
  obtain ⟨-, -, hafter⟩ := foldl_finishReq_other (bay := bay) (gang := gang) (core := m.core) (u := m.tile)
    (fun x hx => h x (List.mem_append_right _ (List.mem_cons_of_mem _ hx))) (fun x hx => hother x (List.mem_append_right _ hx))
    (finishReq (l₁.foldl (fun s m => finishReq s bay gang m) s) bay gang m)
  rw [hafter i n hi hn, finishReq_gang_tile hop hbar _ _ _ hi hn]
  have hb : (l₁.foldl (fun s m => finishReq s bay gang m) s).bayAt bay = s.bayAt bay := by
    unfold State.bayAt
    rw [hbays]
  rw [hb, passWord_congr (htile i n hi hn), htile i n hi hn]
  simp only [true_and]

end Sys2Proof.Machine
end

section
/-!
PROOFS. The gang whose members differ (R230), and the credit of a completed request to a barrier object of team memory (R232, R293).
-/
namespace Sys2Proof.Machine
open Sys2Proof.Claims

/-! ### A gang that fails (R230) -/

/-- The groups of the members, each once. -/
def memberGids (ms : List MReq) : List Nat := ms.foldl (fun l m => if l.contains m.gid then l else l ++ [m.gid]) []

theorem memberGids_spec (ms : List MReq) : (memberGids ms).Nodup ∧ ∀ k, k ∈ memberGids ms ↔ ∃ m ∈ ms, m.gid = k := by
  have gen : ∀ acc : List Nat, acc.Nodup → (ms.foldl (fun l m => if l.contains m.gid then l else l ++ [m.gid]) acc).Nodup ∧
      ∀ k, k ∈ ms.foldl (fun l m => if l.contains m.gid then l else l ++ [m.gid]) acc ↔ k ∈ acc ∨ ∃ m ∈ ms, m.gid = k := by
    induction ms with
    | nil => exact fun acc h => ⟨h, fun k => by simp⟩
    | cons m ms ih =>
      intro acc h
      rw [List.foldl_cons]
      by_cases hm : m.gid ∈ acc
      · rw [if_pos (by simpa using hm)]
        obtain ⟨hn, hk⟩ := ih acc h
        refine ⟨hn, fun k => (hk k).trans ?_⟩
        simp only [List.mem_cons, exists_eq_or_imp]
        constructor
        · exact Or.imp_right .inr
        · rintro (h | rfl | h)
          · exact .inl h
          · exact .inl hm
          · exact .inr h
      · rw [if_neg (by simpa using hm)]
        obtain ⟨hn, hk⟩ := ih (acc ++ [m.gid]) (List.nodup_append.2 ⟨h, List.nodup_singleton _, fun a ha b hb => by
          rintro rfl
          exact hm (List.mem_singleton.1 hb ▸ ha)⟩)
        refine ⟨hn, fun k => (hk k).trans ?_⟩
        simp only [List.mem_append, List.mem_cons, List.not_mem_nil, false_or, exists_eq_or_imp, or_assoc, eq_comm (a := k)]
  obtain ⟨hn, hk⟩ := gen [] List.nodup_nil
  exact ⟨hn, fun k => (hk k).trans (or_iff_right List.not_mem_nil)⟩

/-- A change of the groups at keys that are listed once each. -/
theorem find_foldl_modify (fn : Group → Group) {ks : List Nat} (hn : ks.Nodup) (s : State) (k : Nat) :
    Map.find (ks.foldl (fun s j => ({ s with groups := Map.modify s.groups j fn } : State)) s).groups k =
      if k ∈ ks then (Map.find s.groups k).map fn else Map.find s.groups k := by
  induction ks generalizing s with
  | nil => simp
  | cons j ks ih =>
    obtain ⟨hj, hn⟩ := List.nodup_cons.1 hn
    rw [List.foldl_cons, ih hn, Map.find_modify]
    by_cases hk : k = j
    · subst hk
      simp [hj]
    · simp [hk]

/-- The state when the members have ended with no pass. -/
def gangEnded (s : State) (ms : List MReq) : State := ms.foldl (fun s m => matDone s m []) s

/-- One more mismatch is counted in a group. -/
def Group.gangError (g : Group) : Group := { g with gerr := min 255 (g.gerr + 1) }

theorem gangFail_eq (s : State) (bay : Nat) (ms : List MReq) : gangFail s bay ms = dropReqs ((memberGids ms).foldl
    (fun s j => { s with groups := Map.modify s.groups j Group.gangError }) (gangEnded s ms)) bay (ms.map MReq.id) := rfl

theorem gangEnded_frame (s : State) (ms : List MReq) : { gangEnded s ms with groups := s.groups } = s :=
  foldl_keeps (f := fun s m => matDone s m []) (view := fun t : State => { t with groups := s.groups }) (fun _ _ _ => rfl) s

/-- The state before the members leave the table is as it was but for groups. -/
theorem gangCounted_frame (s : State) (ms : List MReq) : { (memberGids ms).foldl
    (fun s j => { s with groups := Map.modify s.groups j Group.gangError }) (gangEnded s ms) with groups := s.groups } = s :=
  (foldl_keeps (f := fun (s : State) j => { s with groups := Map.modify s.groups j Group.gangError })
    (view := fun t : State => { t with groups := s.groups }) (fun _ _ _ => rfl) (gangEnded s ms)).trans (gangEnded_frame s ms)

theorem gangFail_frame (s : State) (bay : Nat) (ms : List MReq) : { gangFail s bay ms with groups := s.groups, bays := s.bays } = s := by
  have h := congrArg (fun y : State => { y with bays := s.bays }) (gangCounted_frame s ms)
  exact h

theorem gangFail_buf (s : State) (bay : Nat) (ms : List MReq) : ((gangFail s bay ms).bayAt bay).buf = (s.bayAt bay).buf := by
  have hbays := (congrArg State.bays (gangCounted_frame s ms) :)
  rw [gangFail_eq]
  refine (congrArg Bay.buf (bayAt_dropReqs_frame _ bay _) :).trans ?_
  unfold State.bayAt
  rw [← hbays]

/-- R230: each group of a member has its requests over and counts one mismatch. -/
theorem gangFail_group {s : State} {bay : Nat} {ms : List MReq} {gid : Nat} {g : Group} (hg : Map.find s.groups gid = some g)
    (hm : ∃ m ∈ ms, m.gid = gid) : ∃ g', Map.find (gangFail s bay ms).groups gid = some g' ∧ g'.gerr = min 255 (g.gerr + 1) ∧
      g'.ocMat = g.ocMat - ms.countP (fun m => m.gid == gid) := by
  obtain ⟨hn, hmem⟩ := memberGids_spec ms
  obtain ⟨g1, hg1, hmat, herr, -⟩ := endsOne_foldl (f := fun s m => matDone s m []) (fun m _ s => endsOne_matDone s m) hg
  refine ⟨g1.gangError, ?_, ?_, hmat⟩
  · refine (find_foldl_modify Group.gangError hn (gangEnded s ms) gid).trans ?_
    rw [if_pos ((hmem gid).2 hm), gangEnded, hg1]
    rfl
  · show min 255 (g1.gerr + 1) = _
    rw [herr]

theorem gangBad_of_ne {b : Bay} {ms : List MReq} {m x : MReq} (hm : m ∈ ms) (hx : x ∈ ms) (h : m.fmt ≠ x.fmt) : gangBad b ms = true := by
  refine List.any_eq_true.2 ⟨m, hm, List.any_eq_true.2 ⟨x, hx, ?_⟩⟩
  rw [bne_iff_ne.2 h]
  rfl

/-! ### The quarter that completes a gang (R229, R230) -/

section
variable (s : State) (f : EFmt) (c : Iss) (a : MRec)

/-- The gang's members and the new quarter, each as it is stamped. -/
theorem Iss.gangJoined_eq : ∃ st : MReq → MReq, (∀ x, { st x with eligible := x.eligible } = x) ∧
    c.gangJoined s f a = ((s.bayAt (coreBay c.g.core)).members (c.gang s f) ++
      [{ c.quarterRequest f a (c.gang s f) with id := s.nextId, entry := s.nextId }]).map st := by
  let b1 : Bay := (withGang s (coreBay c.g.core) (c.gang s f)).bayAt (coreBay c.g.core)
  let q : MReq := { c.quarterRequest f a (c.gang s f) with id := s.nextId, entry := s.nextId }
  let st := Bay.stamped { b1 with reqs := b1.reqs ++ [q] } (s.clk / 10)
  have hst : ∀ x, { st x with eligible := x.eligible } = x := Bay.stamped_frame _ _
  have hreqs : b1.reqs = (s.bayAt (coreBay c.g.core)).reqs := (congrArg Bay.reqs (State.bayAt_putBay_self _ _ _) :)
  have htag : MReq.inGang (c.gang s f) ∘ st = MReq.inGang (c.gang s f) := by
    funext x
    have hx : (st x).tag = x.tag := (congrArg MReq.tag (hst x) :)
    simp only [Function.comp_apply, MReq.inGang, hx]
  refine ⟨st, hst, ?_⟩
  have hbay : (c.joined s f a).bayAt (coreBay c.g.core) = b1.accepted (c.quarterRequest f a (c.gang s f)) s.nextId (s.clk / 10) :=
    State.bayAt_putBay_self _ _ _
  have hlast : [q].filter (MReq.inGang (c.gang s f)) = [q] :=
    List.filter_eq_self.2 fun x hx => List.mem_singleton.1 hx ▸ beq_self_eq_true (c.gang s f)
  rw [Iss.gangJoined, hbay]
  show ((b1.reqs ++ [q]).map st).filter (MReq.inGang (c.gang s f)) = _
  rw [List.filter_map, htag, List.filter_append, hlast, hreqs]
  rfl

variable {s f c a}

/-- R230: the fourth member of a gang that has another format than one of the three makes the gang fail. -/
theorem gangJoined_fails (h3 : ((s.bayAt (coreBay c.g.core)).members (c.gang s f)).length = 3)
    (hbad : ∃ m ∈ (s.bayAt (coreBay c.g.core)).members (c.gang s f), m.fmt ≠ f.efn.toNat % 8) :
    ((c.gangJoined s f a).length == 4 && gangBad ((c.joined s f a).bayAt (coreBay c.g.core)) (c.gangJoined s f a)) = true := by
  obtain ⟨st, hst, heq⟩ := c.gangJoined_eq s f a
  obtain ⟨m, hm, hfmt⟩ := hbad
  have hlen : (c.gangJoined s f a).length = 4 := by rw [heq]; simp [h3]
  have hstamped (x : MReq) : (st x).fmt = x.fmt := (congrArg MReq.fmt (hst x) :)
  rw [hlen]
  refine gangBad_of_ne (m := st m) (x := st { c.quarterRequest f a (c.gang s f) with id := s.nextId, entry := s.nextId }) ?_ ?_ ?_
  · rw [heq]
    exact List.mem_map_of_mem (List.mem_append_left _ hm)
  · rw [heq]
    exact List.mem_map_of_mem (List.mem_append_right _ (List.mem_singleton_self _))
  · rw [hstamped, hstamped]
    exact hfmt

theorem gangJoined_ids : (c.gangJoined s f a).map MReq.id =
    ((s.bayAt (coreBay c.g.core)).members (c.gang s f)).map MReq.id ++ [s.nextId] := by
  obtain ⟨st, hst, heq⟩ := c.gangJoined_eq s f a
  have hid : MReq.id ∘ st = MReq.id := funext fun x => (congrArg MReq.id (hst x) :)
  rw [heq, List.map_map, hid, List.map_append]
  rfl

theorem gangJoined_countP (gid : Nat) : (c.gangJoined s f a).countP (fun m => m.gid == gid) =
    ((s.bayAt (coreBay c.g.core)).members (c.gang s f)).countP (fun m => m.gid == gid) + if c.gid = gid then 1 else 0 := by
  obtain ⟨st, hst, heq⟩ := c.gangJoined_eq s f a
  have hgid : ((fun m : MReq => m.gid == gid) ∘ st) = fun m => m.gid == gid :=
    funext fun x => (congrArg (fun y : MReq => y.gid == gid) (hst x) :)
  rw [heq, List.countP_map, hgid, List.countP_append, List.countP_singleton]
  simp [Iss.quarterRequest, Iss.request]

theorem gangJoined_gid {gid : Nat}
    (h : c.gid = gid ∨ ∃ m ∈ (s.bayAt (coreBay c.g.core)).members (c.gang s f), m.gid = gid) : ∃ m ∈ c.gangJoined s f a, m.gid = gid := by
  have hpos : 0 < (c.gangJoined s f a).countP (fun m => m.gid == gid) := by
    rw [gangJoined_countP]
    rcases h with h | ⟨m, hm, h⟩
    · rw [if_pos h]
      exact Nat.succ_pos _
    · have : 0 < ((s.bayAt (coreBay c.g.core)).members (c.gang s f)).countP (fun m => m.gid == gid) :=
        List.countP_pos_iff.2 ⟨m, hm, by simpa using h⟩
      omega
  obtain ⟨m, hm, h⟩ := List.countP_pos_iff.1 hpos
  exact ⟨m, hm, by simpa using h⟩

end

/-! ### Numbers in bytes (R48, R292) -/

theorem leNat_lt : ∀ l : List Byte, leNat l < 256 ^ l.length
  | [] => Nat.one_pos
  | b :: l => by
    have hl := leNat_lt l
    have hb : b.toNat < 256 := b.isLt
    rw [leNat, List.length_cons, Nat.pow_succ]
    omega

theorem leAt_lt (l : List Byte) (lo n : Nat) : leAt l lo n < 256 ^ n := by
  have h := leNat_lt (sliceB l lo n)
  rwa [length_sliceB] at h

/-! ### The fields of a barrier object (R292, R293) -/

/-- Each field lies in its width. -/
def BarObj.fits (o : BarObj) : Prop :=
  o.phase < 2 ^ 32 ∧ o.expa < 2 ^ 16 ∧ o.rcva < 2 ^ 16 ∧ o.expu < 2 ^ 32 ∧ o.rcvu < 2 ^ 32 ∧ o.kind < 2 ^ 8

theorem barRd_fits (s : State) (loc : ObjLoc) : (barRd s loc).fits :=
  ⟨leAt_lt _ 0 4, leAt_lt _ 4 2, leAt_lt _ 6 2, leAt_lt _ 8 4, leAt_lt _ 12 4, leAt_lt _ 16 1⟩

theorem BarObj.fits_add {o : BarObj} (h : o.fits) (a u : Nat) : (o.add a u).fits := by
  obtain ⟨hp, hea, hra, heu, hru, hk⟩ := h
  refine ⟨hp, hea, ?_, heu, ?_, hk⟩
  · unfold BarObj.add
    dsimp only
    split <;> omega
  · unfold BarObj.add
    dsimp only
    split <;> omega

theorem BarObj.fits_advance {o : BarObj} (h : o.fits) : o.advance.fits := by
  obtain ⟨-, hea, hra, heu, hru, hk⟩ := h
  exact ⟨Nat.mod_lt _ (by decide), hea, (Nat.sub_le _ _).trans_lt hra, heu, (Nat.sub_le _ _).trans_lt hru, hk⟩

/-- Where no phase is complete nothing advances. -/
theorem BarObj.advance_of_turns {o : BarObj} (h : o.fits) (h0 : o.turns = 0) : o.advance = o := by
  unfold BarObj.advance
  simp only [h0, Nat.zero_mul, Nat.sub_zero, Nat.add_zero, Nat.mod_eq_of_lt h.1]

@[simp] theorem BarObj.length_bytes (o : BarObj) : o.bytes.length = 17 := by simp [BarObj.bytes]

theorem BarObj.of_bytes {o : BarObj} (h : o.fits) :
    ({ phase := leAt o.bytes 0 4, expa := leAt o.bytes 4 2, rcva := leAt o.bytes 6 2, expu := leAt o.bytes 8 4,
       rcvu := leAt o.bytes 12 4, kind := leAt o.bytes 16 1 } : BarObj) = o := by
  obtain ⟨phase, expa, rcva, expu, rcvu, kind⟩ := o
  obtain ⟨hp, hea, hra, heu, hru, hk⟩ := h
  simp only [BarObj.mk.injEq]
  dsimp only at hp hea hra heu hru hk
  simp [BarObj.bytes, leBytes, leAt, sliceB, List.range_succ, leNat]
  omega

/-! ### Objects of team memory -/

section
variable {s t : State} (h : t.teams = s.teams) (team off : Nat)
include h

theorem barRd_congr : barRd t (.team team off) = barRd s (.team team off) := by
  unfold barRd objRd
  rw [h]

theorem barValid_congr : barValid t (.team team off) = barValid s (.team team off) := by
  unfold barValid objTagged objRd
  rw [h]

theorem objPoisoned_congr : objPoisoned t (.team team off) = objPoisoned s (.team team off) := by
  unfold objPoisoned
  rw [h]

end

/-- Reading back an object that was written. -/
theorem barRd_objWr {s : State} {team off : Nat} {x : Team} (ht : Map.find s.teams team = some x) {o : BarObj} (ho : o.fits) :
    barRd (objWr s (.team team off) 0 o.bytes) (.team team off) = o := by
  have hbytes : objRd (objWr s (.team team off) 0 o.bytes) (.team team off) 0 17 = o.bytes := by
    simp only [objRd, objWr, Map.find_modify_some ht]
    have h := Memory.load_store x.mem (off + 0) o.bytes
    rwa [o.length_bytes] at h
  unfold barRd
  rw [hbytes]
  exact BarObj.of_bytes ho

/-! ### Waking and draining leave the teams -/

theorem refreshGroup_teams (s : State) (gid scope : Nat) : (refreshGroup s gid scope).teams = s.teams := by
  unfold refreshGroup
  split
  · rfl
  · simp

theorem wakeGroup_teams (s : State) (gid : Nat) (loc : ObjLoc) (phase : Nat) : (wakeGroup s gid loc phase).teams = s.teams := by
  unfold wakeGroup
  split
  · rfl
  · refine foldl_keeps (view := State.teams) (fun p _ t => ?_) s
    split
    · split
      · exact refreshGroup_teams _ _ _
      · rfl
    · rfl

theorem wakeObj_teams (s : State) (loc : ObjLoc) : (wakeObj s loc).teams = s.teams :=
  foldl_keeps (view := State.teams) (fun gid _ t => wakeGroup_teams t gid loc _) s

theorem heldRed_congr {s t : State} (h : t.barRed = s.barRed) (loc : ObjLoc) : heldRed t loc = heldRed s loc := by
  unfold heldRed
  rw [h]

theorem redPlaced_congr {s t : State} (h : t.frameQ = s.frameQ) (owner : FrameOwner) : redPlaced t owner = redPlaced s owner := by
  unfold redPlaced
  rw [h]

/-- Where nothing is held for an object, nothing is drained, and nothing is held after. -/
theorem drainHeld_nil {s : State} {loc : ObjLoc} (h : heldRed s loc = []) :
    { drainHeld s loc with barRed := s.barRed } = s ∧ heldRed (drainHeld s loc) loc = [] := by
  have heq : drainHeld s loc = { s with barRed := s.barRed.filter (fun b => !(b.1 == loc && b.2.1 == 0)) } := by
    unfold drainHeld
    rw [h]
    rfl
  rw [heq]
  refine ⟨rfl, ?_⟩
  have hnone : (s.barRed.filter (fun b => !(b.1 == loc && b.2.1 == 0))).filter (fun b => b.1 == loc && b.2.1 == 0) = [] := by
    rw [List.filter_filter]
    refine List.filter_eq_nil_iff.2 fun b _ => ?_
    cases (b.1 == loc && b.2.1 == 0) <;> simp
  unfold heldRed
  rw [hnone]
  rfl

/-! ### An engine's credit (R232, R275, R293) -/

section
variable {s : State} {team off : Nat} {x : Team} (ht : Map.find s.teams team = some x)
include ht

/-- R293: a credit that is applied counts in the object, whose phases advance as far as it completes them. -/
theorem barRd_applyNow (hvalid : barValid s (.team team off) = true) (hheld : heldRed s (.team team off) = [])
    (hplaced : redPlaced s (.obj (.team team off)) = true) (ctx u : Nat) (me : Raiser) (va : DWord) :
    barRd (applyNow s (.team team off) ctx 0 u (.engine me va)) (.team team off) = ((barRd s (.team team off)).add 0 u).advance := by
  have hfits := BarObj.fits_add (barRd_fits s (.team team off)) 0 u
  unfold applyNow
  rw [hvalid]
  by_cases hturn : ((barRd s (.team team off)).add 0 u).turns = 0
  · simp only [Bool.not_true, Bool.false_eq_true, if_false, beq_iff_eq, hturn, if_true]
    exact (barRd_objWr ht hfits).trans (BarObj.advance_of_turns hfits hturn).symm
  · obtain ⟨hframe, hnone⟩ := drainHeld_nil hheld
    have hplaced' : redPlaced (drainHeld s (.team team off)) (.obj (.team team off)) = true :=
      (redPlaced_congr (congrArg State.frameQ hframe :) _).trans hplaced
    have ht' : Map.find (drainHeld s (.team team off)).teams team = some x :=
      (congrArg (fun y : State => Map.find y.teams team) hframe :).trans ht
    simp only [Bool.not_true, Bool.false_eq_true, if_false, beq_iff_eq, hturn]
    show barRd (if ((heldRed (drainHeld s (.team team off)) (.team team off)).isEmpty &&
      redPlaced (drainHeld s (.team team off)) (.obj (.team team off))) = true then _ else _) _ = _
    rw [hnone, hplaced']
    exact (barRd_congr (wakeObj_teams _ _) team off).trans (barRd_objWr ht' (BarObj.fits_advance hfits))

variable (hoff : off < 2 ^ 32) (halign : off % 32 = 0)
include hoff halign

/-- R291: where a name of team memory leads. -/
theorem placeAt_team (a : Acc) (core ctx root : Nat) : placeAt s a core ctx root team (BitVec.ofNat 64 off) =
    if x.memSize < off + 32 then .error (cPerm, 6) else .ok (.team team off, s) := by
  have hnat : (BitVec.ofNat 64 off).toNat = off := by
    rw [BitVec.toNat_ofNat]
    omega
  have h63 : bit (BitVec.ofNat 64 off) 63 = false := by
    rw [bit, BitVec.getLsbD_ofNat, Nat.testBit_lt_two_pow (hoff.trans (by decide))]
    rfl
  have hhigh : bits (BitVec.ofNat 64 off) 62 32 = 0 := by
    rw [bits, hnat]
    omega
  have hlow : bits (BitVec.ofNat 64 off) 31 0 = off := by
    rw [bits, hnat]
    omega
  unfold placeAt
  simp only [hnat, halign, h63, hhigh, hlow, ht]
  rfl

variable (core ctx root bytes rows : Nat) (src : ApplySrc)

theorem credit_lost (h : x.memSize < off + 32 ∨ barValid s (.team team off) = false) :
    credit s core ctx root team (BitVec.ofNat 64 off) bytes rows src = (s, some (cPerm, 6)) := by
  unfold credit
  rw [placeAt_team ht hoff halign]
  by_cases hsize : x.memSize < off + 32
  · rw [if_pos hsize]
    rfl
  · rw [if_neg hsize]
    simp [h.resolve_left hsize]

theorem credit_applies (hsize : off + 32 ≤ x.memSize) (hvalid : barValid s (.team team off) = true)
    (hpoison : objPoisoned s (.team team off) = false) : credit s core ctx root team (BitVec.ofNat 64 off) bytes rows src =
      (applyObj s (.team team off) ctx 0 (if (barRd s (.team team off)).kind % 4 = 1 then bytes
        else if (barRd s (.team team off)).kind % 4 = 2 then rows else 0) src, none) := by
  unfold credit
  rw [placeAt_team ht hoff halign, if_neg (Nat.not_lt.2 hsize)]
  simp only [hvalid, hpoison, Bool.not_true, Bool.false_eq_true, if_false]
  split
  · next h => rw [if_pos h]
  · next h => rw [if_neg (by omega), if_pos h]
  · next h1 h2 => rw [if_neg h1, if_neg h2]

end

/-! ### The origin of a lost credit (R291, R378, R383) -/

theorem mem_queueOrigin (q : List Origin) (o : Origin) : o ∈ queueOrigin q o :=
  List.mem_append_right _ List.mem_cons_self

/-- R383: a trap of a group that is no handler, which speaks for its split, is an origin in the queue of the group's core. -/
theorem raiseTrap_queued {s : State} {r : Raiser} {t : Trap} {g : Group} (hg : Map.find s.groups r.gid = some g) (hh : g.handler = none)
    (hcause : t.cause ≠ cAccNotOwned) (hlanes : t.lanes = 0) : ∃ o ∈ ((raiseTrap s r t).coreAt g.core).trapq,
      o.gid = r.gid ∧ o.cause = t.cause ∧ o.detail = t.detail ∧ o.kind = r.kind ∧ o.ref = r.ref := by
  have hkind : (t.cause == cAccNotOwned) = false := beq_false_of_ne hcause
  have horigins : t.originLanes r.act = [lowLane r.act] := by
    unfold Trap.originLanes
    simp [hkind, hlanes]
  let o := mkOrigin s r g t (s.nextId + 0) (lowLane r.act)
  have hq : o ∈ ((raiseTrap s r t).coreAt g.core).trapq := by
    unfold raiseTrap
    simp only [hg, hh, Option.isSome_none, Bool.false_eq_true, if_false, horigins]
    split
    · simp only [State.coreAt, Map.get_put, if_true, List.mapIdx_cons, List.mapIdx_nil, List.foldl_cons, List.foldl_nil]
      exact mem_queueOrigin _ _
    · simp only [State.coreAt, parkCtx, Map.get_put, if_true, List.mapIdx_cons, List.mapIdx_nil, List.foldl_cons, List.foldl_nil]
      exact mem_queueOrigin _ _
  refine ⟨o, hq, rfl, rfl, rfl, ?_, rfl⟩
  show (if (t.cause == cAccNotOwned && _) = true then 3 else r.kind) = _
  rw [hkind]
  rfl

/-! ### The credit of a completed request (R232) -/

section
variable (s : State) (bay : Nat) (r : MReq)

/-- The state when a request that is no gang has completed with its credit. -/
def creditedDone : State := dropReqs (matCredit (requestEnded s bay [r] r) r (rowsWritten r)) bay [r.id]

theorem exec_credited {s : State} {bay req : Nat} {r : MReq} (h : (s.bayAt bay).reqs.find? (fun x => x.id == req && x.granted) = some r)
    (htag : r.tag = none) : exec (.matrixRequestComplete bay req) s = .next (creditedDone s bay r) := by
  rw [exec_matrixRequestComplete h, Bay.gangOf_single htag]
  show Host.Outcome.next (dropReqs (finishReq s bay [r] r) bay [r.id]) = _
  rw [finishReq_eq]
  rfl

theorem requestEnded_teams : (requestEnded s bay [r] r).teams = s.teams := (congrArg State.teams (requestEnded_frame s bay [r] r) :)

/-- A request that writes no row makes no credit. -/
theorem matCredit_noRows (s : State) (r : MReq) : matCredit s r 0 = s := by
  unfold matCredit
  split <;> rfl

variable {s bay r} {g : Group} {x : Team} {off : Nat} (hg : Map.find s.groups r.gid = some g) (ht : Map.find s.teams g.team = some x)
  (hbar : r.bar = some (BitVec.ofNat 64 off)) (hoff : off < 2 ^ 32) (halign : off % 32 = 0) (hrows : rowsWritten r ≠ 0)
include hg

/-- The group of a request keeps its place when the request ends. -/
theorem requestEnded_place : ∃ g2, Map.find (requestEnded s bay [r] r).groups r.gid = some g2 ∧ g2.team = g.team ∧ g2.core = g.core ∧
    g2.handler = g.handler := by
  obtain ⟨g1, -, hsame, -, hg2⟩ := requestEnded_group s bay [r] r hg
  have hframe := g1.closed_frame s.free r (reqEff s bay [r] r).outs
  exact ⟨_, hg2, (congrArg Group.team hframe :).trans (congrArg Group.team hsame :),
    (congrArg Group.core hframe :).trans (congrArg Group.core hsame :),
    (congrArg Group.handler hframe :).trans (congrArg Group.handler hsame :)⟩

include ht hbar hoff halign hrows

/-- R232, R293: the rows are credited by the object's unit kind, in bytes or in rows. -/
theorem barRd_creditedDone (hsize : off + 32 ≤ x.memSize) (hvalid : barValid s (.team g.team off) = true)
    (hpoison : objPoisoned s (.team g.team off) = false) (happly : ∀ h, h ∈ s.heldApply → h.loc ≠ .team g.team off)
    (hheld : heldRed s (.team g.team off) = []) (hplaced : redPlaced s (.obj (.team g.team off)) = true) :
    let o := barRd s (.team g.team off)
    barRd (creditedDone s bay r) (.team g.team off) =
      (o.add 0 (if o.kind % 4 = 1 then 128 * rowsWritten r else if o.kind % 4 = 2 then rowsWritten r else 0)).advance := by
  obtain ⟨g2, hg2, hteam, -, -⟩ := requestEnded_place (bay := bay) hg
  have hframe := requestEnded_frame s bay [r] r
  have hteams := requestEnded_teams s bay r
  have hfree : (requestEnded s bay [r] r).heldApply.any (fun h => h.loc == .team g.team off) = false := by
    have hsame : (requestEnded s bay [r] r).heldApply = s.heldApply := (congrArg State.heldApply hframe :)
    rw [hsame]
    exact List.any_eq_false.2 fun h hh => by simpa using happly h hh
  have happly := credit_applies (s := requestEnded s bay [r] r) (hteams ▸ ht) hoff halign r.core r.ctx
    (rootOf (requestEnded s bay [r] r) g2) (128 * rowsWritten r) (rowsWritten r)
    (.engine { gid := r.gid, pos := r.pos, pc := r.pc, act := r.mask, kind := 2, ref := r.id } (nameVa (BitVec.ofNat 64 off))) hsize
    ((barValid_congr hteams _ _).trans hvalid) ((objPoisoned_congr hteams _ _).trans hpoison)
  rw [barRd_congr hteams] at happly
  intro o
  have hcredit : matCredit (requestEnded s bay [r] r) r (rowsWritten r) = applyNow (requestEnded s bay [r] r) (.team g.team off) r.ctx 0
      (if o.kind % 4 = 1 then 128 * rowsWritten r else if o.kind % 4 = 2 then rowsWritten r else 0)
      (.engine { gid := r.gid, pos := r.pos, pc := r.pc, act := r.mask, kind := 2, ref := r.id } (nameVa (BitVec.ofNat 64 off))) := by
    unfold matCredit
    simp only [hbar, hg2, beq_false_of_ne hrows, hteam, happly]
    unfold applyObj
    rw [hfree]
    rfl
  refine (barRd_congr (t := creditedDone s bay r) (s := matCredit (requestEnded s bay [r] r) r (rowsWritten r)) rfl _ _).trans ?_
  rw [hcredit, barRd_applyNow (hteams ▸ ht) ((barValid_congr hteams _ _).trans hvalid)
    ((heldRed_congr (congrArg State.barRed hframe :) _).trans hheld) ((redPlaced_congr (congrArg State.frameQ hframe :) _).trans hplaced),
    barRd_congr hteams]

/-- R232, R291: a name that leads to no valid object leaves an origin of the completed request. -/
theorem creditedDone_lost (hlost : x.memSize < off + 32 ∨ barValid s (.team g.team off) = false) (hh : g.handler = none) :
    (creditedDone s bay r).teams = s.teams ∧ ∃ o, o ∈ ((creditedDone s bay r).coreAt g.core).trapq ∧ o.gid = r.gid ∧ o.cause = cPerm ∧
      o.detail = 6 ∧ o.kind = 2 ∧ o.ref = r.id := by
  obtain ⟨g2, hg2, hteam, hcore, hhandler⟩ := requestEnded_place (bay := bay) hg
  have hteams := requestEnded_teams s bay r
  have hfault := credit_lost (s := requestEnded s bay [r] r) (hteams ▸ ht) hoff halign r.core r.ctx (rootOf (requestEnded s bay [r] r) g2)
    (128 * rowsWritten r) (rowsWritten r)
    (.engine { gid := r.gid, pos := r.pos, pc := r.pc, act := r.mask, kind := 2, ref := r.id } (nameVa (BitVec.ofNat 64 off)))
    (hlost.imp_right ((barValid_congr hteams _ _).trans ·))
  have hcredit : matCredit (requestEnded s bay [r] r) r (rowsWritten r) = raiseTrap (requestEnded s bay [r] r)
      { gid := r.gid, pos := r.pos, pc := r.pc, act := r.mask, kind := 2, ref := r.id }
      { cause := cPerm, detail := 6, addr := [(lowLane r.mask, nameVa (BitVec.ofNat 64 off))] } := by
    unfold matCredit
    simp only [hbar, hg2, beq_false_of_ne hrows, hteam, hfault]
    rfl
  have hqueued := raiseTrap_queued (t := { cause := cPerm, detail := 6, addr := [(lowLane r.mask, nameVa (BitVec.ofNat 64 off))] })
    (r := { gid := r.gid, pos := r.pos, pc := r.pc, act := r.mask, kind := 2, ref := r.id }) hg2 (hhandler.trans hh) (show cPerm ≠ cAccNotOwned by decide) rfl
  rw [hcore, ← hcredit] at hqueued
  refine ⟨?_, hqueued⟩
  show (matCredit (requestEnded s bay [r] r) r (rowsWritten r)).teams = _
  rw [hcredit, (raiseTrap_mem _ _ _).2, hteams]

end

end Sys2Proof.Machine
end

section
/-!
PROOFS. The obligation TileEffects: grants, completions, gangs and credits together.
-/
namespace Sys2Proof.Machine
open Sys2Proof.Claims

/-! ### A completed request, by its operation (R214, R219, R233 to R235) -/

section
variable {s : State} {bay : Nat} {r : MReq} {g g1 : Group}

/-- MZERO, MFILL and the passes write the rows of their row set. -/
theorem singleDone_rows (h : r.op = .zero ∨ r.op = .fill ∨ r.op = .bcast ∨ ((r.op = .mma ∨ r.op = .spmm) ∧ r.rows ≠ 0)) :
    (singleDone s bay r).coreAt r.core = (s.coreAt r.core).rowsWritten r.tile r.rows (fun m n =>
      if r.op = .zero then 0 else if r.op = .fill then Map.get 0 r.src (32 * n + m) else if r.op = .bcast then Map.get 0 r.src m
      else passWord (s.bayAt bay) (s.coreAt r.core) r ((s.bayAt bay).bPart r) m n) := by
  rw [singleDone_coreAt]
  refine reqEff_core _ ?_
  rcases h with h | h | h | ⟨h | h, h0⟩
  · exact .inl ⟨h, by simp [h]⟩
  · exact .inr (.inl ⟨h, by simp [h]⟩)
  · exact .inr (.inr (.inl ⟨h, by simp [h]⟩))
  · exact .inr (.inr (.inr ⟨.inl h, h0, by simp [h]⟩))
  · exact .inr (.inr (.inr ⟨.inr h, h0, by simp [h]⟩))

/-- MBYPASS leaves the core, and the bay has its bytes. -/
theorem singleDone_bypass (h : r.op = .bypass) : (singleDone s bay r).coreAt r.core = s.coreAt r.core ∧
    ((singleDone s bay r).bayAt bay).buf = (bypassBay s bay r).buf := by
  rw [singleDone_coreAt, singleDone_buf, reqEff_bypass h, bypassEff_eq]
  exact ⟨rfl, (congrArg Bay.buf (State.bayAt_putBay_self s bay (bypassBay s bay r)) :)⟩

/-- The group of an MBYPASS has the flags of the conversions. -/
theorem bypass_group (h : r.op = .bypass) (hg : Map.find s.groups r.gid = some g)
    (hg1 : Map.find (reqEff s bay [r] r).st.groups r.gid = some g1) : g1 = g.raise (bypassFlags s r) := by
  rw [reqEff_bypass h, bypassEff_eq] at hg1
  exact Option.some.inj (hg1.symm.trans (Map.find_modify_some hg _))

/-- MDRAIN writes what it had read to the registers of its lanes. -/
theorem singleDone_drain (h : r.op = .drain ∨ r.op = .drainz) (hg : Map.find s.groups r.gid = some g) (hraced : g.raced = [])
    (hg1 : Map.find (reqEff s bay [r] r).st.groups r.gid = some g1) {e : Entry} {x : Core}
    (he : g.entries.find? (fun y => y.id == r.entry) = some e) (hx : e.outs = drainOuts x r) {m n : Nat} (hm : m < 32) (hn : n < 32)
    (hrow : r.rows.getLsbD m = true) (hex : g.exited.getLsbD m = false) :
    Map.get 0 (g1.closed s.free r (reqEff s bay [r] r).outs).v (32 * (r.dst + n) + m) = x.tile r.tile m n := by
  rw [reqEff_drain h] at hg1 ⊢
  obtain rfl : g = g1 := Option.some.inj (hg.symm.trans hg1)
  have houts : drained s r = drainOuts x r := (drained_eq hg he).trans hx
  show Map.get 0 (g.closed s.free r (drained s r)).v _ = _
  rw [houts]
  exact g.closed_v s.free r _ hraced (nodup_drainOuts x r) (mem_drainOuts hm hn hrow) hex

end

end Sys2Proof.Machine

open Sys2Proof Sys2Proof.Machine Sys2Proof.Claims

/-- Settles O33: a completion is the request's effect on its core, its bay and its group, then its end in the group, then its
credit; a gang is the completions of its members one after another, and a gang that fails ends without them. -/
theorem tileEffects : Obligations.TileEffects := by
  unfold Obligations.TileEffects
  refine ⟨fun s bay => ⟨fun r hr => ?grant, ?urgent⟩, fun s bay req r g hr htag hbar hg hraced => ?single,
    fun s bay req r => ?gang, fun s f c a hc hown => ?mismatch, fun s bay req off r g x hr htag hoff halign hbar hg ht => ?credit⟩
  case grant =>
    obtain ⟨q, hq, hid, hgr, hlen⟩ := Bay.exists_granted (Bay.mem_of_first hr)
    let u := s.putBay bay ((s.bayAt bay).granted r)
    refine ⟨_, exec_matrixGrant hr, ⟨q, ?_, hid, hgr, hlen⟩, fun h1 h2 => ?_, fun hop => ⟨?_, fun k hk => ?_, fun k hk => ?_,
      fun v m n hm hn => ?_, fun g e hg he => grantDrain_entry (s := u) hop hg he⟩⟩
    · have hbay : (grantDrain u r).bayAt bay = (s.bayAt bay).granted r := by
        rw [State.bayAt, grantDrain_bays]
        exact State.bayAt_putBay_self s bay _
      show q ∈ ((grantDrain u r).bayAt bay).reqs
      rwa [hbay]
    · rw [grantDrain_other h1 h2]
      rfl
    · exact (congrArg (fun y : State => { y with bays := s.bays }) (grantDrain_frame (s := u) hop) :)
    · rw [grantDrain_coreAt hop]
      exact (moveEff_frame u r).cores k hk
    · exact grantDrain_others (s := u) hop hk
    · rw [grantDrain_coreAt hop]
      exact drainEff_tile (s := u) hop v hm hn
  case urgent =>
    rintro req r k hr rfl hk hlong
    exact urgent_mem hr hk hlong
  case single =>
    obtain ⟨g1, hg1, hsame, hfpf, hg'⟩ := requestEnded_group s bay [r] r hg
    have hframe := g1.closed_frame s.free r (reqEff s bay [r] r).outs
    have hclosed : (g1.closed s.free r (reqEff s bay [r] r).outs).fpf = g1.fpf := (congrArg Group.fpf hframe :)
    have hmat : g1.ocMat = g.ocMat := (congrArg Group.ocMat hsame :)
    refine ⟨singleDone s bay r, g1.closed s.free r (reqEff s bay [r] r).outs, exec_single hr htag hbar, hg', ?_,
      fun q hq => notMem_singleDone s bay r hq, singleDone_mem s bay r, (reqEff_frame s bay [r] r).cores,
      fun hop => ⟨singleDone_bay_of_ne s bay r hop, hclosed.trans (hfpf hop)⟩, fun hop => ?_, fun hop => ?_, fun hop => ?_,
      fun hop => ?_, fun hop => ?_⟩
    · rw [Group.closed_ocMat, hmat]
    · have hcore := singleDone_rows (s := s) (bay := bay) hop
      refine ⟨r.tile_lt, (congrArg Core.acclive hcore :), fun u m n hm hn => ?_⟩
      rw [hcore, Core.tile_rowsWritten _ _ _ _ _ hm hn]
    · obtain ⟨hcore, hbuf⟩ := singleDone_bypass (s := s) (bay := bay) hop
      refine ⟨hcore, fun k => ?_, fun hfmt hfits => ⟨fun m n j hm hn hj => ?_, fun b hb => ?_⟩⟩
      · rw [hclosed, bypass_group hop hg hg1, getLsbD_raise, testBit_bypassFlags]
      · rw [hbuf]
        exact get_bypassBay s bay r hfits hfmt hm hn hj
      · rw [hbuf]
        exact get_bypassBay_other s bay r hb
    · refine ⟨?_, fun e x he hx m n hm hn hrow hex => singleDone_drain hop hg hraced hg1 he hx hm hn hrow hex⟩
      rw [singleDone_coreAt, reqEff_drain hop]
    · have hcore : (singleDone s bay r).coreAt r.core = (s.coreAt r.core).tilesZero r.tiles := reqEff_alloc hop
      refine ⟨(congrArg Core.acclive hcore :).trans (Core.acclive_tilesZero _ _), fun u m n _ hm hn => ?_⟩
      rw [hcore]
      exact (s.coreAt r.core).tile_tilesDrop r.tiles u hm hn
    · have hcore : (singleDone s bay r).coreAt r.core = (s.coreAt r.core).tilesDrop r.tiles := reqEff_free hop
      refine ⟨(congrArg Core.acclive hcore :), fun u m n _ hm hn hout => ?_⟩
      rw [hcore, Core.tile_tilesDrop _ _ _ hm hn, if_neg (by rw [hout]; exact Bool.false_ne_true)]
  case gang =>
    intro b ms hr hms
    obtain ⟨hbays, hmem⟩ := foldl_finishReq_frame (bay := bay) (gang := ms) hms s
    refine ⟨gangDone s bay ms, exec_matrixRequestComplete hr, hmem, ?_, fun q hq m hm hid => ?_, fun gid g hg => ?_,
      fun m l₁ l₂ hsplit hother k n hk hn => ?_⟩
    · refine (congrArg Bay.buf (bayAt_dropReqs_frame _ bay _) :).trans ?_
      rw [State.bayAt, hbays]
      rfl
    · exact notMem_of_mem_dropReqs hq (hid ▸ List.mem_map_of_mem hm)
    · obtain ⟨g', hg', hmat, -, hfpf, hv, hsr, hp⟩ := endsOne_foldl (f := fun u m => finishReq u bay ms m) (ms := ms)
        (fun m hm u => finishReq_gang_endsOne (hms m hm).1 (hms m hm).2 u) hg
      exact ⟨g', hg', hmat, hfpf, hv, hsr, hp⟩
    · have htile := foldl_finishReq_tile (bay := bay) (gang := ms) (hsplit ▸ hms) hother s hk hn
      rw [← hsplit] at htile
      exact htile
  case mismatch =>
    intro bay w k ms hrec hfmt hsvc hbar hrange hefn hword hhold h3 hbad
    have hx := mmaQ_joins hc hown hrec hfmt hbar hsvc hrange hefn hword hhold
    rw [if_pos (gangJoined_fails h3 hbad)] at hx
    have hframe := gangFail_frame (c.joined s f a) bay (c.gangJoined s f a)
    have hids := gangJoined_ids (s := s) (f := f) (c := c) (a := a)
    have hissuer : Map.find (c.joined s f a).groups c.gid = some (c.afterAccept (.mmaQ f) (c.quarterRequest f a k) s.nextId) :=
      Map.find_put_self _ _ _
    refine ⟨_, hx, (congrArg State.cores hframe :), (congrArg State.mem hframe :), ?_, fun q hq => ?_, ?_, fun m g hm hne hg => ?_⟩
    · refine (gangFail_buf _ bay _).trans ?_
      rw [Iss.joined, accept_eq, State.bayAt_putBay_self]
      exact (congrArg Bay.buf (State.bayAt_putBay_self s bay _) :)
    · have hnot := notMem_of_mem_dropReqs hq
      rw [hids] at hnot
      refine ⟨fun h => hnot (List.mem_append_right _ (List.mem_singleton.2 h)), fun m hm h => hnot (List.mem_append_left _ ?_)⟩
      rw [h]
      exact List.mem_map_of_mem hm
    · obtain ⟨g', hg', herr, hmat⟩ := gangFail_group (bay := bay) hissuer (gangJoined_gid (a := a) (.inl rfl))
      have hgerr : (c.afterAccept (.mmaQ f) (c.quarterRequest f a k) s.nextId).gerr = c.g.gerr :=
        (congrArg Group.gerr (c.afterAccept_frame (.mmaQ f) _ s.nextId) :)
      refine ⟨g', hg', by rw [herr, hgerr], ?_⟩
      rw [hmat, Iss.afterAccept_ocMat, gangJoined_countP, if_pos rfl]
      rfl
    · have hother : Map.find (c.joined s f a).groups m.gid = some g := (Map.find_put_ne _ _ hne).trans hg
      obtain ⟨g', hg', herr, hmat⟩ := gangFail_group (bay := bay) hother (gangJoined_gid (a := a) (.inr ⟨m, hm, rfl⟩))
      refine ⟨g', hg', herr, ?_⟩
      rw [hmat, gangJoined_countP, if_neg (Ne.symm hne)]
      rfl
  case credit =>
    intro loc
    refine ⟨creditedDone s bay r, exec_credited hr htag, fun h0 => ?_, fun hrows hsize hvalid hpoison happly hheld hplaced => ?_,
      fun hrows hlost hh => ?_⟩
    · refine Eq.trans ?_ (requestEnded_teams s bay r)
      show (matCredit (requestEnded s bay [r] r) r (rowsWritten r)).teams = _
      rw [h0, matCredit_noRows]
    · exact barRd_creditedDone hg ht hbar hoff halign hrows hsize hvalid hpoison happly hheld hplaced
    · exact creditedDone_lost hg ht hbar hoff halign hrows hlost hh
end

section
/-!
PROOFS. Every step keeps every memory in its canonical form (O60). A memory is written only by byte writes, by a copy or a filter of
one, and by a change of a listed team; all three keep the form, and everything else a function of the state does leaves the memories.
So there is one lemma a function, in the model's order: from a state that keeps the form of a first state it makes one that does.
-/
namespace Sys2Proof.Machine
open Sys2Proof.Claims

/-! ### A state that keeps the form of another, and what results say of the states in them -/

def keepsForm (s t : State) : Prop := s.memWf = true → t.memWf = true

theorem keepsForm.refl (s : State) : keepsForm s s := fun h => h

theorem keepsForm.trans {s t u : State} (h1 : keepsForm s t) (h2 : keepsForm t u) : keepsForm s u := fun h => h2 (h1 h)

theorem keepsForm.foldl {α : Type} {s0 s : State} {f : State → α → State} {l : List α} (hf : ∀ t x, keepsForm s0 t → keepsForm s0 (f t x))
    (h : keepsForm s0 s) : keepsForm s0 (l.foldl f s) :=
  List.foldlRecOn (motive := keepsForm s0) l f h fun t ht x _ => hf t x ht

theorem keepsForm.foldlMem {α : Type} {s0 s : State} {f : State → α → State} {l : List α}
    (hf : ∀ t x, x ∈ l → keepsForm s0 t → keepsForm s0 (f t x)) (h : keepsForm s0 s) : keepsForm s0 (l.foldl f s) :=
  List.foldlRecOn (motive := keepsForm s0) l f h fun t ht x hx => hf t x hx ht

theorem keepsForm.congr {s0 s t : State} (h : keepsForm s0 s) (hm : t.mem = s.mem) (ht : t.teams = s.teams) : keepsForm s0 t :=
  fun h0 => (State.memWf_congr hm ht).trans (h h0)

/-- A byte of memory is written. -/
theorem keepsForm.putByte {s0 s : State} (h : keepsForm s0 s) (a : Nat) (b : Byte) :
    keepsForm s0 { s with mem := s.mem.put a b } := by
  intro h0
  have hs := h h0
  rw [State.memWf_iff] at hs ⊢
  exact ⟨Memory.wf_put hs.1 a b, hs.2⟩

/-- A team takes its place whose memory is in form. -/
theorem keepsForm.putTeam {s0 s : State} (h : keepsForm s0 s) (n : Nat) {t : Team} (ht : s.memWf = true → t.mem.wf = true) :
    keepsForm s0 { s with teams := Map.put s.teams n t } :=
  fun h0 => State.memWf_putTeam (h h0) n t (ht (h h0))

/-- A team that is listed has its memory in form. -/
theorem memWf_of_find {s : State} (h : s.memWf = true) {n : Nat} {t : Team} (ht : Map.find s.teams n = some t) : t.mem.wf = true :=
  ((State.memWf_iff s).mp h).2 _ (Map.mem_of_find ht)

/-- A listed team is changed, with its memory in form. -/
theorem keepsForm.modTeam {s0 s : State} (h : keepsForm s0 s) (n : Nat) {f : Team → Team}
    (hf : ∀ t, t.mem.wf = true → (f t).mem.wf = true) : keepsForm s0 { s with teams := Map.modify s.teams n f } := by
  unfold Map.modify
  split
  · exact h
  · next t ht => exact h.putTeam n fun hs => hf t (memWf_of_find hs ht)

/-- Memories of the teams that a state in form lists. -/
theorem memWf_of_mem {s : State} (h : s.memWf = true) {t : Nat × Team} (ht : t ∈ s.teams) : t.2.mem.wf = true :=
  ((State.memWf_iff s).mp h).2 _ ht

/-- The teams of a core are listed. -/
theorem mem_teams_of_mem_teamsOn {s : State} {core ctx : Nat} {x : Nat × Team} (hx : x ∈ teamsOn s core ctx) : x ∈ s.teams :=
  (List.mem_filter.mp (List.mem_filter.mp hx).1).1

section
variable {s0 s t : State}
/-- A team takes its place whose memory was in form at the start. -/
theorem keepsForm.setTeam (h : keepsForm s0 s) {n : Nat} {x : Team} (hx : s0.memWf = true → x.mem.wf = true) :
    keepsForm s0 { s with teams := Map.put s.teams n x } :=
  fun h0 => State.memWf_putTeam (h h0) n x (hx h0)

theorem keepsForm.modTeams (h : keepsForm s0 s) {n : Nat} {f : Team → Team} (hm : t.mem = s.mem)
    (ht : t.teams = Map.modify s.teams n f) (hf : ∀ x, x.mem.wf = true → (f x).mem.wf = true) : keepsForm s0 t :=
  .congr (h.modTeam n hf) hm ht

theorem keepsForm.putTeams (h : keepsForm s0 s) {n : Nat} {x : Team} (hm : t.mem = s.mem)
    (ht : t.teams = Map.put s.teams n x) (hx : s.memWf = true → x.mem.wf = true) : keepsForm s0 t :=
  .congr (h.putTeam n hx) hm ht

theorem keepsForm.setMem (h : keepsForm s0 s) {m : Memory} (hm : t.mem = m) (ht : t.teams = s.teams)
    (hw : s.mem.wf = true → m.wf = true) : keepsForm s0 t := by
  intro h0
  have hs := h h0
  rw [State.memWf_iff] at hs ⊢
  rw [hm, ht]
  exact ⟨hw hs.1, hs.2⟩

theorem keepsForm.filterTeams (h : keepsForm s0 s) {p : Nat × Team → Bool} (hm : t.mem = s.mem)
    (ht : t.teams = s.teams.filter p) : keepsForm s0 t := by
  intro h0
  have hs := h h0
  rw [State.memWf_iff] at hs ⊢
  rw [hm, ht]
  exact ⟨hs.1, fun x hx => hs.2 x (List.mem_filter.mp hx).1⟩
end

def nextForm (s : State) (r : Host.Outcome State Fault Refusal) : Prop := ∀ t, r = .next t → keepsForm s t

theorem nextForm.next {s t : State} (h : keepsForm s t) : nextForm s (.next t) := fun _ e => by cases e; exact h
theorem nextForm.fault {s : State} {f : Fault} : nextForm s (.fault f) := fun _ e => nomatch e
theorem nextForm.refused {s : State} {r : Refusal} : nextForm s (.refused r) := fun _ e => nomatch e

def okForm {ε α : Type} (s : State) (st : α → State) (r : Except ε α) : Prop := ∀ a, r = .ok a → keepsForm s (st a)

section
variable {ε α β : Type} {s : State} {st : α → State}
theorem okForm.ok {a : α} (h : keepsForm s (st a)) : okForm (ε := ε) s st (.ok a) := fun _ e => by cases e; exact h
theorem okForm.error {e : ε} : okForm s st (.error e) := fun _ h => nomatch h
theorem okForm.bind {x : Except ε β} {f : β → Except ε α} (h : ∀ b, x = .ok b → okForm s st (f b)) : okForm s st (x >>= f) := by
  cases x with
  | error e => exact .error
  | ok b => exact h b rfl
end

def someForm {α : Type} (s : State) (st : α → State) (r : Option α) : Prop := ∀ a, r = some a → keepsForm s (st a)
section
variable {α β : Type} {s : State} {st : α → State}
theorem someForm.some {a : α} (h : keepsForm s (st a)) : someForm s st (.some a) := fun _ e => by cases e; exact h
theorem someForm.getD {x : Option State} {d : State} (h : someForm s (fun t => t) x) (hd : keepsForm s d) : keepsForm s (x.getD d) := by
  cases x with
  | none => exact hd
  | some t => exact h t rfl
theorem someForm.none : someForm s st none := fun _ h => nomatch h
end

def Perf.keeps (s : State) : Perf → Prop
  | .wait => True
  | .done t _ _ | .sent t | .posted t _ | .fault t _ _ _ | .faultAt t _ _ _ _ => keepsForm s t

section
variable {s t : State} {p : Perf}
theorem Perf.keeps.done {o b} (h : p.keeps s) (hp : p = .done t o b) : keepsForm s t := by subst hp; exact h
theorem Perf.keeps.sent (h : p.keeps s) (hp : p = .sent t) : keepsForm s t := by subst hp; exact h
theorem Perf.keeps.posted {m} (h : p.keeps s) (hp : p = .posted t m) : keepsForm s t := by subst hp; exact h
theorem Perf.keeps.fault {c d a} (h : p.keeps s) (hp : p = .fault t c d a) : keepsForm s t := by subst hp; exact h
theorem Perf.keeps.faultAt {v c d a} (h : p.keeps s) (hp : p = .faultAt t v c d a) : keepsForm s t := by subst hp; exact h
theorem keepsForm.snd {α : Type} {p : α × State} {a : α} (h : keepsForm s p.2) (hp : p = (a, t)) : keepsForm s t := by subst hp; exact h
theorem keepsForm.ofSnd {α : Type} {p : α × State} {a : α} (hp : p = (a, t)) (h : keepsForm s p.2) : keepsForm s t := by subst hp; exact h
theorem keepsForm.fst {α : Type} {p : State × α} {a : α} (h : keepsForm s p.1) (hp : p = (t, a)) : keepsForm s t := by subst hp; exact h
end

def Served.keeps (s : State) : Served → Prop
  | .done t => keepsForm s t
  | _ => True

theorem Served.keeps.done {s t : State} {r : Served} (h : r.keeps s) (hr : r = .done t) : keepsForm s t := by subst hr; exact h

def Settled.keeps (s : State) : Settled → Prop
  | .ok t => keepsForm s t
  | _ => True

theorem Settled.keeps.ok {s t : State} {r : Settled} (h : r.keeps s) (hr : r = .ok t) : keepsForm s t := by subst hr; exact h

def Prep.keeps (s : State) : Prep → Prop
  | .done t | .go _ t => keepsForm s t
  | _ => True

theorem Prep.keeps.done {s t : State} {r : Prep} (h : r.keeps s) (hr : r = .done t) : keepsForm s t := by subst hr; exact h
theorem Prep.keeps.go {s t : State} {i : Instr} {r : Prep} (h : r.keeps s) (hr : r = .go i t) : keepsForm s t := by subst hr; exact h

def Issued.keeps (s : State) : Issued → Prop
  | .held t _ | .next t => keepsForm s t
  | .stop o => nextForm s o
  | _ => True

theorem Issued.keeps.held {s t : State} {b : Bool} {r : Issued} (h : r.keeps s) (hr : r = .held t b) : keepsForm s t := by subst hr; exact h
theorem Issued.keeps.next {s t : State} {r : Issued} (h : r.keeps s) (hr : r = .next t) : keepsForm s t := by subst hr; exact h
theorem Issued.keeps.stop {s : State} {o} {r : Issued} (h : r.keeps s) (hr : r = .stop o) : nextForm s o := by subst hr; exact h

def CStop.keeps (s : State) : CStop → Prop
  | .wait => True
  | .ask t | .fault t _ _ _ _ => keepsForm s t

theorem CStop.keeps.ask {s t : State} {r : CStop} (h : r.keeps s) (hr : r = .ask t) : keepsForm s t := by subst hr; exact h
theorem CStop.keeps.fault {s t : State} {c d a v} {r : CStop} (h : r.keeps s) (hr : r = .fault t c d a v) : keepsForm s t := by
  subst hr; exact h

def cresForm {α : Type} (s : State) (st : α → State) : Except CStop α → Prop
  | .ok a => keepsForm s (st a)
  | .error p => p.keeps s

section
variable {α : Type} {s : State} {st : α → State} {x : Except CStop α}
theorem cresForm.ok {a : α} (h : cresForm s st x) (hx : x = .ok a) : keepsForm s (st a) := by subst hx; exact h
theorem cresForm.error {p : CStop} (h : cresForm s st x) (hx : x = .error p) : p.keeps s := by subst hx; exact h
end

def perfForm {α : Type} (s : State) (st : α → State) : Except Perf α → Prop
  | .ok a => keepsForm s (st a)
  | .error p => p.keeps s

section
variable {α β : Type} {s : State} {st : α → State} {x : Except Perf α}
theorem perfForm.ok {a : α} (h : perfForm s st x) (hx : x = .ok a) : keepsForm s (st a) := by subst hx; exact h
theorem perfForm.bind {st' : β → State} {f : α → Except Perf β} (h : perfForm s st x) (hf : ∀ a, keepsForm s (st a) → perfForm s st' (f a)) :
    perfForm s st' (x >>= f) := by
  cases x with
  | error p => exact h
  | ok a => exact hf a h
theorem perfForm.error {p : Perf} (h : perfForm s st x) (hx : x = .error p) : p.keeps s := by subst hx; exact h
end

/-! ### State -/

theorem reset_keeps {s0 : State} : keepsForm s0 State.reset := fun _ => rfl

/-! ### Ops -/

theorem State.wr_keeps {s0 s : State} {pa : Nat} {bs : List Byte} (h : keepsForm s0 s) : keepsForm s0 (s.wr pa bs) :=
  fun h0 => State.memWf_wr (h h0) pa bs

theorem holdLeaf_keeps {s0 s : State} {core ctx root : Nat} {l : Leaf} {a : Acc} (h : keepsForm s0 s) :
    keepsForm s0 (holdLeaf s core ctx root l a) := by
  unfold holdLeaf
  extract_lets dirty word held s1
  split
  · exact keepsForm.putByte (s := s1) h l.loc _
  · exact h

theorem xlate_keeps {s0 s : State} {core ctx root : Nat} {va : DWord} {a : Acc} (h : keepsForm s0 s) :
    okForm s0 (fun r => r.2) (xlate s core ctx root va a) := by
  unfold xlate
  exact .bind fun a ha => .bind fun a ha => .ok (holdLeaf_keeps h)

theorem applyFrames_keeps {s0 s : State} {pa n : Nat} (h : keepsForm s0 s) :
    keepsForm s0 (applyFrames s pa n) := .congr (.foldl (fun _ _ h => State.wr_keeps h) h) rfl rfl

theorem wrFrame_keeps {s0 s : State} {pa : Nat} {bs : List Byte} (h : keepsForm s0 s) :
    keepsForm s0 (wrFrame s pa bs) := State.wr_keeps (applyFrames_keeps h)

theorem wrTgt_keeps {s0 s : State} {w : Writer} {pa size : Nat} {repl prop : Bool} {bs : List Byte} (h : keepsForm s0 s) :
    keepsForm s0 (wrTgt s w pa size repl prop bs) := by
  unfold wrTgt
  split
  · exact wrFrame_keeps h
  · split
    · exact .foldl (fun _ _ h => wrFrame_keeps h) h
    · exact .congr (wrFrame_keeps h) rfl rfl

theorem State.putG_keeps {s0 s : State} {gid : Nat} {g : Group} (h : keepsForm s0 s) :
    keepsForm s0 (State.putG s gid g) := .congr h rfl rfl

theorem Iss.done_keeps {s0 : State} {c : Iss} {s : State} {g : Group} (h : keepsForm s0 s) :
    keepsForm s0 (Iss.done c s g) := State.putG_keeps h

theorem parkCtx_keeps {s0 s : State} {ctx cause detail pc : Nat} (h : keepsForm s0 s) :
    keepsForm s0 (parkCtx s ctx cause detail pc) := .congr h rfl rfl

theorem raiseTrap_keeps {s0 s : State} {r : Raiser} {t : Trap} (h : keepsForm s0 s) : keepsForm s0 (raiseTrap s r t) := by
  unfold raiseTrap
  split
  · exact h
  · split
    · exact h
    · extract_lets os core g1 s1
      split
      · exact h
      · exact h

theorem finishGroup_keeps {s0 s : State} {c : Iss} {r : Res State} (h : keepsForm s0 s) (hr : okForm s0 (fun t => t) r) :
    nextForm s0 (finishGroup s c r) := by
  unfold finishGroup
  split
  · exact .next (hr _ rfl)
  · exact .next h
  · exact .next (raiseTrap_keeps h)

theorem asGroup_keeps {s0 s : State} {gd : Guard} {f : Iss → Res State} (h : keepsForm s0 s)
    (hf : ∀ c, okForm s0 (fun t => t) (f c)) : nextForm s0 (asGroup gd s f) := by
  unfold asGroup
  split
  · exact .fault
  · exact finishGroup_keeps h (hf _)

theorem asOnce_keeps {s0 s : State} {gd : Guard} {f : Iss → Res State} (h : keepsForm s0 s)
    (hf : ∀ c, okForm s0 (fun t => t) (f c)) : nextForm s0 (asOnce gd s f) := by
  refine asGroup_keeps h fun c => ?_
  split
  · exact .ok h
  · exact hf c

theorem resolveOrigin_keeps {s0 s : State} {o : Origin} {mode : Nat} {regs : List Word} (h : keepsForm s0 s) :
    keepsForm s0 (resolveOrigin s o mode regs) := .congr h rfl rfl

/-! ### Fetch -/

theorem peekLine_keeps {s0 s : State} {g : Group} {va : Nat} {refill : Bool} (h : keepsForm s0 s) :
    okForm s0 (fun r => r.2) (peekLine s g va refill) := by
  unfold peekLine
  refine .bind fun a ha => ?_
  split
  · next s1 =>
    have hs1 : keepsForm s0 s1 := xlate_keeps h _ ha
    split
    · exact .error
    · extract_lets at64 fromMem core first line
      split
      · exact .error
      · split
        · exact .error
        · exact .ok (.congr hs1 rfl rfl)

theorem targetLine_keeps {s0 s : State} {g : Group} {pc lane : Nat} (h : keepsForm s0 s) :
    okForm s0 (fun r => r.2) (targetLine s g pc lane) := by
  unfold targetLine
  split
  · exact .error
  · next hx =>
    split
    · exact .ok (peekLine_keeps h _ hx)
    · exact .error

/-! ### Diverge -/

theorem formSplit_keeps {s0 s : State} {g : Group} {r : JoinRec} {pos : Nat} (h : keepsForm s0 s) :
    okForm s0 (fun r => r.2) (formSplit s g r pos) := by
  unfold formSplit
  split
  · exact .error
  · exact .error
  · next hx => exact .ok (targetLine_keeps h _ hx)

theorem rejoin1_keeps {s0 s : State} {g : Group} (h : keepsForm s0 s) (r : Except FormTrap (Group × State))
    (hr : rejoin1 s g = some r) : okForm s0 (fun r => r.2) r := by
  unfold rejoin1 at hr
  split at hr
  · cases hr; exact .ok h
  · split at hr
    · dsimp only at hr
      split at hr
      · split at hr
        · cases hr; exact .ok h
        · cases hr; exact formSplit_keeps h
      · cases hr; exact .ok h
    · split at hr
      · cases hr; exact .ok h
      · split at hr
        · split at hr
          · cases hr; exact formSplit_keeps h
          · cases hr; exact .ok h
        · cases hr

theorem spillRead_keeps {s0 s : State} {g : Group} {va : DWord} (h : keepsForm s0 s) :
    okForm s0 (fun r => r.2) (spillRead s g va) := by
  unfold spillRead
  refine .bind fun a ha => ?_
  split
  · split
    · exact .error
    · split
      · exact .error
      · exact .ok (xlate_keeps h _ ha)

theorem spillWrite_keeps {s0 s : State} {gid : Nat} {g : Group} {va : DWord} {bs : List Byte} (h : keepsForm s0 s) :
    okForm s0 (fun t => t) (spillWrite s gid g va bs) := by
  unfold spillWrite
  refine .bind fun a ha => ?_
  split
  · split
    · exact .error
    · split
      · exact .error
      · exact .ok (wrTgt_keeps (xlate_keeps h _ ha))

theorem rewriteSpilled_keeps {s0 s : State} {gid : Nat} {old g : Group} (h : keepsForm s0 s) :
    okForm s0 (fun t => t) (rewriteSpilled s gid old g) := by
  unfold rewriteSpilled
  refine List.foldlRecOn (motive := okForm s0 (fun t => t)) _ _ (.ok h) fun acc hacc r _ => ?_
  split
  · dsimp only
    split
    · exact hacc
    · split
      · exact .error
      · next hx => exact .ok (spillWrite_keeps (hacc _ rfl) _ hx)
  · exact hacc

theorem spillOldest_keeps {s0 s : State} {gid : Nat} {g : Group} {old : JoinRec} (h : keepsForm s0 s) :
    okForm s0 (fun r => r.2) (spillOldest s gid g old) := by
  unfold spillOldest
  extract_lets sp va s21
  split
  · exact .error
  · split
    · exact .error
    · next hx1 => exact .ok (spillWrite_keeps h _ hx1)

theorem refillStack_keeps {s0 s : State} {g : Group} {r : JoinRec} (h : keepsForm s0 s) :
    okForm s0 (fun r => r.2) (refillStack s g r) := by
  unfold refillStack
  extract_lets sp
  split
  · exact .error
  · next hx => exact .ok (spillRead_keeps h _ hx)

theorem stack1_keeps {s0 s : State} {gid : Nat} {g : Group} (h : keepsForm s0 s) (r : Except SpillFault (Group × State))
    (hr : stack1 s gid g = some r) : okForm s0 (fun r => r.2) r := by
  unfold stack1 at hr
  dsimp only at hr
  split at hr
  · split at hr
    · split at hr
      · cases hr; exact spillOldest_keeps h
      · cases hr; exact .ok h
    · cases hr; exact .ok h
  · split at hr
    · split at hr
      · cases hr; exact .ok h
      · cases hr
    · obtain ⟨q, -, rfl⟩ := Option.map_eq_some_iff.1 hr
      exact refillStack_keeps h

theorem stackSync_keeps {s0 s : State} {gid : Nat} {g : Group} {n : Nat} (h : keepsForm s0 s) :
    okForm s0 (fun r => r.2) (stackSync s gid g n) := by
  induction n generalizing s g with
  | zero => exact .ok h
  | succ n ih =>
    unfold stackSync
    split
    · exact .ok h
    · exact .error
    · next hx => exact ih (stack1_keeps h _ hx _ rfl)

theorem afterEvent_keeps {s0 s : State} {gid : Nat} {old g : Group} (h : keepsForm s0 s) :
    okForm s0 (fun r => r.2) (afterEvent s gid old g) := by
  unfold afterEvent
  extract_lets g1
  have hrew : okForm s0 (fun t => t) (if g1.spilledCount == 0 then .ok s else rewriteSpilled s gid old g1) := by
    split
    · exact .ok h
    · exact rewriteSpilled_keeps h
  split
  · exact .error
  · next hx => exact stackSync_keeps (hrew _ hx)

theorem rejoin_keeps {s0 s : State} {gid : Nat} {first : SMap Split} {n : Nat} {who : Option Nat} {g : Group} (h : keepsForm s0 s) :
    okForm s0 (fun r => r.1) (rejoin gid first n who s g) := by
  induction n generalizing who s g with
  | zero => exact .ok h
  | succ n ih =>
    unfold rejoin
    dsimp only
    split
    · exact .ok h
    · split
      · exact .error
      · next hx => exact .ok (afterEvent_keeps h _ hx)
    · next hj =>
      split
      · exact .error
      · next hx => exact ih (afterEvent_keeps (rejoin1_keeps h _ hj _ rfl) _ hx)

theorem settle_keeps {s0 s : State} {gid : Nat} {old g : Group} (h : keepsForm s0 s) : (settle s gid old g).keeps s0 := by
  unfold settle
  split
  · trivial
  · next hx =>
    have h1 := afterEvent_keeps h _ hx
    split
    · trivial
    · next hr => exact (rejoin_keeps h1 _ hr :)
    · next hr => exact raiseTrap_keeps (rejoin_keeps h1 _ hr :)

/-! ### Ready -/

theorem State.takeId_keeps {s0 s : State} (h : keepsForm s0 s) : keepsForm s0 (State.takeId s).2 := .congr h rfl rfl

/-! ### Sys -/

theorem execSrd_keeps {s0 : State} {f : SFmt} {s : State} (h : keepsForm s0 s) : nextForm s0 (execSrd f s) := by
  unfold execSrd
  refine asGroup_keeps h fun c => ?_
  refine .bind fun a ha => ?_
  split
  · exact .ok h
  · split
    · exact .error
    · exact .ok h

theorem execSwr_keeps {s0 : State} {f : SFmt} {s : State} (h : keepsForm s0 s) : nextForm s0 (execSwr f s) := by
  unfold execSwr
  refine asGroup_keeps h fun c => ?_
  refine .bind fun a ha => ?_
  split
  · exact .ok h
  · extract_lets x s11
    split
    · split
      · exact .error
      · exact .ok h
    · exact .ok h
    · split
      · exact .error
      · exact .ok h
    · exact .ok h

/-! ### Access -/

theorem published_keeps {s0 s : State} {gid scope : Nat} (h : keepsForm s0 s) : keepsForm s0 (published s gid scope) := by
  unfold published
  split
  · exact h
  · split
    · exact h
    · exact h

theorem learn_keeps {s0 s : State} {gid scope : Nat} (h : keepsForm s0 s) : keepsForm s0 (learn s gid scope) := by
  unfold learn
  split
  · exact h
  · split
    · exact h
    · exact h

theorem refreshAt_keeps {s0 s : State} {core scope : Nat} (h : keepsForm s0 s) : keepsForm s0 (refreshAt s core scope) := by
  unfold refreshAt
  split
  · exact h
  · exact h

theorem refreshGroup_keeps {s0 s : State} {gid scope : Nat} (h : keepsForm s0 s) : keepsForm s0 (refreshGroup s gid scope) := by
  unfold refreshGroup
  split
  · exact h
  · exact learn_keeps (refreshAt_keeps h)

theorem State.putCore_keeps {s0 s : State} {c : Nat} {x : Core} (h : keepsForm s0 s) :
    keepsForm s0 (State.putCore s c x) := .congr h rfl rfl

theorem staleFills_keeps {s0 s : State} {core key : Nat} (h : keepsForm s0 s) :
    keepsForm s0 (staleFills s core key) := .congr h rfl rfl

theorem farPatch_keeps {s0 s : State} {core key o : Nat} {bs : List Byte} (h : keepsForm s0 s) :
    keepsForm s0 (farPatch s core key o bs) := by
  unfold farPatch
  extract_lets c
  split
  · exact h
  · exact h

theorem farUpdate_keeps {s0 s : State} {core key o : Nat} {bs : List Byte} (h : keepsForm s0 s) :
    keepsForm s0 (farUpdate s core key o bs) := staleFills_keeps (farPatch_keeps h)

theorem farDrop_keeps {s0 s : State} {core key : Nat} (h : keepsForm s0 s) :
    keepsForm s0 (farDrop s core key) := staleFills_keeps (State.putCore_keeps h)

theorem farDropAll_keeps {s0 s : State} {key : Nat} (h : keepsForm s0 s) : keepsForm s0 (farDropAll s key) := .foldl (fun _ _ h => h) h

theorem farRed_keeps {s0 s : State} {gid core key : Nat} (h : keepsForm s0 s) : keepsForm s0 (farRed s gid core key) := by
  unfold farRed
  extract_lets c
  split
  · exact h
  · exact h

theorem State.putScribe_keeps {s0 s : State} {n : Nat} {x : Scribe} (h : keepsForm s0 s) :
    keepsForm s0 (State.putScribe s n x) := .congr h rfl rfl

theorem enqueue_keeps {s0 s : State} {a1 : Hook} {p : Packet} {dir : Nat} (h : keepsForm s0 s) :
    someForm s0 (fun t => t) (enqueue s a1 p dir) := by
  unfold enqueue
  extract_lets x
  split
  · exact .none
  · exact .some h

theorem State.send_keeps {s0 s : State} {m : OutMsg} (h : keepsForm s0 s) : keepsForm s0 (State.send s m) := by
  unfold State.send
  split
  · exact h
  · exact h

theorem sendOut_keeps {s0 s : State} {p : Packet} {m : OutMsg} (h : keepsForm s0 s) : keepsForm s0 (sendOut s p m) := by
  unfold sendOut
  split
  · exact State.send_keeps h
  · split
    · next hx1 => exact enqueue_keeps h _ hx1
    · exact h

theorem sendReq_keeps {s0 s : State} {r : FabReq} (h : keepsForm s0 s) : keepsForm s0 (sendReq s r) := sendOut_keeps h

theorem writeAt_keeps {s0 s : State} {w : Writer} {pa size : Nat} {repl prop : Bool} {bs : List Byte} (h : keepsForm s0 s) :
    (writeAt s w pa size repl prop bs).keeps s0 := by
  unfold writeAt
  extract_lets fs
  split
  · exact h
  · split
    · exact trivial
    · exact wrTgt_keeps h

theorem atomAt_keeps {s0 s : State} {w : Writer} {pa size : Nat} {repl prop : Bool} {op ety n b c : Nat} (h : keepsForm s0 s) :
    perfForm s0 (fun r => r.2) (atomAt s w pa size repl prop op ety n b c) := by
  unfold atomAt
  extract_lets fs old new
  split
  · exact h
  · split
    · exact trivial
    · split
      · exact h
      · exact wrTgt_keeps h

theorem postWrite_keeps {s0 s : State} {gid : Nat} {r : FabReq} (h : keepsForm s0 s) : keepsForm s0 (postWrite s gid r) := by
  unfold postWrite
  split
  · exact h
  · split
    · exact sendReq_keeps h
    · exact h

theorem drainOne_keeps {s0 s : State} {r : RedEntry} (h : keepsForm s0 s) : (drainOne s r).keeps s0 := by
  unfold drainOne
  split
  · exact h
  · split
    · exact trivial
    · split
      · exact h
      · next s1 hx2 =>
        have hs1 : keepsForm s0 s1 := xlate_keeps h _ hx2
        split
        · next hx3 => exact (atomAt_keeps hs1).error hx3
        · next s2 hx3 =>
          have hs2 : keepsForm s0 s2 := (atomAt_keeps hs1).ok hx3
          exact farRed_keeps hs2
      · next s1 hx2 =>
        have hs1 : keepsForm s0 s1 := xlate_keeps h _ hx2
        split
        · exact trivial
        · exact farRed_keeps (postWrite_keeps (.congr hs1 rfl rfl))

theorem drainList_keeps {s0 s : State} {rs : List RedEntry} (h : keepsForm s0 s) : keepsForm s0 (drainList s rs).2 := by
  induction rs generalizing s with
  | nil => exact h
  | cons r t ih =>
    have hone := drainOne_keeps (r := r) h
    unfold drainList
    split
    · next hd => exact ih (hone.done hd)
    · exact h
    · exact h
    · next hd => exact hone.sent hd
    · next hd => exact hone.posted hd
    · next hd =>
      split
      · exact ih (raiseTrap_keeps (hone.fault hd))
      · split
        · exact h
        · exact raiseTrap_keeps (hone.fault hd)

theorem drainGroup_keeps {s0 s : State} {gid : Nat} (h : keepsForm s0 s) : keepsForm s0 (drainGroup s gid) := by
  unfold drainGroup
  split
  · exact h
  · exact .congr (drainList_keeps h) rfl rfl

theorem flushPoint_keeps {s0 s : State} {gid : Nat} (h : keepsForm s0 s) : keepsForm s0 (flushPoint s gid) := drainGroup_keeps h

/-! ### Mem -/

theorem released_keeps {s0 s : State} {gid : Nat} {i : Instr} (h : keepsForm s0 s) : keepsForm s0 (released s gid i) := by
  unfold released
  split
  · split
    · exact published_keeps h
    · exact h
  · exact h

theorem post_keeps {s0 s : State} {c : Iss} {i : Instr} {op : HomeOp} {r : AccReq} (h : keepsForm s0 s) :
    keepsForm s0 (post s c i op r) := State.putG_keeps (.congr h rfl rfl)

theorem issueLanes_keeps {s0 : State} {i : Instr} {f : MFmt} {acc : Acc} {tags atomic : Bool} {s : State} (h : keepsForm s0 s) :
    nextForm s0 (issueLanes i f acc tags atomic s) := by
  unfold issueLanes
  refine asGroup_keeps h fun c => ?_
  split
  · exact .ok (Iss.done_keeps h)
  · extract_lets w a dat jp
    have hjp : ∀ u, okForm s0 (fun t => t) (jp u) := by
      intro u
      exact .ok (post_keeps (released_keeps h))
    refine .bind fun a ha => ?_
    refine .bind fun a ha => ?_
    refine .bind fun a ha => ?_
    split
    · exact .bind fun a ha => hjp a
    · exact hjp ()

theorem issueOnce_keeps {s0 : State} {i : Instr} {f : MFmt} {acc : Acc} {tags : Bool} {w : Nat} {data : Iss → SMap (BitVec 128)}
    {s : State} (h : keepsForm s0 s) :
    nextForm s0 (issueOnce i f acc tags w data s) := by
  unfold issueOnce
  refine asOnce_keeps h fun c => ?_
  extract_lets l va jp
  have hjp : ∀ u, okForm s0 (fun t => t) (jp u) := by
    intro u
    exact .ok (post_keeps (released_keeps h))
  refine .bind fun a ha => ?_
  refine .bind fun a ha => ?_
  refine .bind fun a ha => ?_
  split
  · exact .bind fun a ha => hjp a
  · exact hjp ()

theorem execLd_keeps {s0 : State} {f : MFmt} {s : State} (h : keepsForm s0 s) : nextForm s0 (execLd f s) := by
  unfold execLd
  split
  · next s1 hx =>
    have hs1 : keepsForm s0 s1 := issueLanes_keeps h _ hx
    split
    · split
      · exact .next hs1
      · exact .next (.congr hs1 rfl rfl)
    · exact .next hs1
  · exact issueLanes_keeps h

theorem execSt_keeps {s0 : State} {f : MFmt} {s : State} (h : keepsForm s0 s) : nextForm s0 (execSt f s) := issueLanes_keeps h

theorem execLdf_keeps {s0 : State} {f : MFmt} {s : State} (h : keepsForm s0 s) : nextForm s0 (execLdf f s) := issueLanes_keeps h

theorem execStf_keeps {s0 : State} {f : MFmt} {s : State} (h : keepsForm s0 s) : nextForm s0 (execStf f s) := issueLanes_keeps h

theorem execAtom_keeps {s0 : State} {f : MFmt} {s : State} (h : keepsForm s0 s) : nextForm s0 (execAtom f s) := issueLanes_keeps h

theorem execThld_keeps {s0 : State} {f : MFmt} {s : State} (h : keepsForm s0 s) : nextForm s0 (execThld f s) := issueOnce_keeps h

theorem execThst_keeps {s0 : State} {f : MFmt} {s : State} (h : keepsForm s0 s) : nextForm s0 (execThst f s) := issueOnce_keeps h

theorem execPresclr_keeps {s0 : State} {f : MFmt} {s : State} (h : keepsForm s0 s) : nextForm s0 (execPresclr f s) := issueOnce_keeps h

theorem execPresclrSet_keeps {s0 : State} {f : MFmt} {s : State} (h : keepsForm s0 s) :
    nextForm s0 (execPresclrSet f s) := issueOnce_keeps h

theorem execPrestest_keeps {s0 : State} {f : MFmt} {s : State} (h : keepsForm s0 s) :
    nextForm s0 (execPrestest f s) := issueLanes_keeps h

theorem execLaunch_keeps {s0 : State} {f : MFmt} {s : State} (h : keepsForm s0 s) : nextForm s0 (execLaunch f s) := by
  unfold execLaunch
  refine asOnce_keeps h fun c => ?_
  extract_lets va jp
  have hjp : ∀ u, okForm s0 (fun t => t) (jp u) := by
    intro u
    exact .bind fun a ha => .bind fun a ha => .ok (post_keeps (released_keeps h))
  split
  · exact .bind fun a ha => hjp a
  · exact hjp ()

theorem execRed_keeps {s0 : State} {f : MFmt} {s : State} (h : keepsForm s0 s) : nextForm s0 (execRed f s) := by
  unfold execRed
  refine asGroup_keeps h fun c => ?_
  split
  · exact .ok h
  · extract_lets mis s11 jp jp1
    have hjp : ∀ u, okForm s0 (fun t => t) (jp u) := by
      intro u
      exact .ok h
    have hjp1 : ∀ u, okForm s0 (fun t => t) (jp1 u) := by
      intro u
      refine .bind fun a ha => ?_
      split
      · exact .bind fun a ha => hjp a
      · exact hjp ()
    split
    · exact .bind fun a ha => hjp1 a
    · exact hjp1 ()

theorem execFlushred_keeps {s0 : State} {f : MFmt} {s : State} (h : keepsForm s0 s) : nextForm s0 (execFlushred f s) := by
  unfold execFlushred
  refine asOnce_keeps h fun c => ?_
  refine .bind fun a ha => ?_
  split
  · exact .ok h
  · exact .ok (flushPoint_keeps h)

theorem teamPerf_keeps {s0 s : State} {g : Group} {fn : Team → Except (Nat × Nat) (Team × List RegWrite)} (h : keepsForm s0 s)
    (hfn : ∀ t r, fn t = .ok r → t.mem.wf = true → r.1.mem.wf = true) : (teamPerf s g fn).keeps s0 := by
  unfold teamPerf
  split
  · exact h
  · next hx =>
    split
    · exact h
    · next ho => exact .putTeam h _ fun hs => hfn _ _ ho (memWf_of_find hs hx)

theorem modEntry_keeps {s0 s : State} {gid id : Nat} {fn : Entry → Entry} (h : keepsForm s0 s) :
    keepsForm s0 (modEntry s gid id fn) := .congr h rfl rfl

theorem askPeer_keeps {s0 s : State} {gid : Nat} {g : Group} {e : Entry} {rank va : Nat} {lanes : Mask} {mk : Packet → Packet}
    (h : keepsForm s0 s) : (askPeer s gid g e rank va lanes mk).keeps s0 := by
  unfold askPeer
  split
  · exact h
  · split
    · trivial
    · split
      next tag s1 hx =>
      have h1 : keepsForm s0 s1 := .ofSnd hx (State.takeId_keeps h)
      exact modEntry_keeps (sendReq_keeps h1)

theorem postPeer_keeps {s0 s : State} {gid : Nat} {g : Group} {e : Entry} {rank : Nat} {lanes : Mask} {bytes : List (Nat × Byte)}
    (h : keepsForm s0 s) :
    (postPeer s gid g e rank lanes bytes).keeps s0 := by
  unfold postPeer
  split
  · exact h
  · split
    · exact trivial
    · exact postWrite_keeps h

theorem farRead_keeps {s0 s : State} {gid : Nat} {g : Group} {pa size : Nat} {repl : Bool} {n : Nat} (h : keepsForm s0 s) :
    perfForm s0 (fun r => r.2) (farRead s gid g pa size repl n) := by
  unfold farRead
  extract_lets at_
  split
  · split
    · exact trivial
    · split
      · exact h
      · exact h
  · split
    · exact h
    · split
      · exact trivial
      · split
        · exact h
        · exact h

theorem seeLine_keeps {s0 s : State} {gid core rank va : Nat} (h : keepsForm s0 s) : keepsForm s0 (seeLine s gid core rank va) := by
  unfold seeLine
  extract_lets line of kept
  split
  · exact h
  · exact h

theorem vaRead_keeps {s0 s : State} {gid : Nat} {g : Group} {e : Entry} {l : Nat} {va : DWord} {n : Nat} {own : Bool}
    {outs : List Byte → List RegWrite} (h : keepsForm s0 s) :
    (vaRead s gid g e l va n own outs).keeps s0 := by
  unfold vaRead
  split
  · exact h
  · next hx =>
    split
    · exact h
    · split
      · exact seeLine_keeps (xlate_keeps h _ hx)
      · exact askPeer_keeps (xlate_keeps h _ hx)
  · next hx =>
    split
    · exact h
    · split
      · next hx2 => exact (farRead_keeps (xlate_keeps h _ hx)).error hx2
      · next hx2 => exact (farRead_keeps (xlate_keeps h _ hx)).ok hx2

theorem vaWrite_keeps {s0 s : State} {gid : Nat} {g : Group} {e : Entry} {l : Nat} {va : DWord} {own : Bool} {bs : List Byte}
    {mates : List (Nat × DWord × List Byte)} (h : keepsForm s0 s) :
    (vaWrite s gid g e l va own bs mates).keeps s0 := by
  unfold vaWrite
  split
  · exact h
  · next hx =>
    split
    · exact h
    · extract_lets ws
      split
      · next hx2 => exact .foldl (fun _ _ h => farUpdate_keeps h) ((postPeer_keeps (xlate_keeps h _ hx)).posted hx2)
      · exact postPeer_keeps (xlate_keeps h _ hx)
  · next hx =>
    extract_lets at_
    split
    · exact h
    · split
      · next hx2 => exact farUpdate_keeps ((writeAt_keeps (xlate_keeps h _ hx)).done hx2)
      · exact writeAt_keeps (xlate_keeps h _ hx)

theorem atomLane_keeps {s0 s : State} {gid : Nat} {g : Group} {e : Entry} {f : MFmt} {l : Nat} {va : DWord} (h : keepsForm s0 s) :
    (atomLane s gid g e f l va).keeps s0 := by
  unfold atomLane
  extract_lets n b c ety
  split
  · exact h
  · next s1 hx =>
    have hs1 : keepsForm s0 s1 := xlate_keeps h _ hx
    exact askPeer_keeps hs1
  · next s1 hx =>
    have hs1 : keepsForm s0 s1 := xlate_keeps h _ hx
    split
    · next hx1 => exact (atomAt_keeps hs1).error hx1
    · next s2 hx1 =>
      have hs2 : keepsForm s0 s2 := (atomAt_keeps hs1).ok hx1
      exact farDrop_keeps hs2

theorem launchPeer_keeps {s0 s : State} {gid : Nat} {g : Group} {e : Entry} {rank va k : Nat} (h : keepsForm s0 s) :
    perfForm s0 (fun r => r.2) (launchPeer s gid g e rank va k) := by
  unfold launchPeer
  split
  · exact h
  · split
    · exact seeLine_keeps h
    · exact askPeer_keeps h

theorem launchRecord_keeps {s0 s : State} {gid : Nat} {g : Group} {e : Entry} {va : DWord} (h : keepsForm s0 s) :
    perfForm s0 (fun r => r.2) (launchRecord s gid g e va) := by
  unfold launchRecord
  split
  · exact h
  · next hx =>
    refine .bind (farRead_keeps (xlate_keeps h _ hx)) fun r hr => ?_
    exact .bind (farRead_keeps hr) fun r hr => hr
  · next hx =>
    refine .bind (launchPeer_keeps (xlate_keeps h _ hx)) fun r hr => ?_
    exact .bind (launchPeer_keeps hr) fun r hr => hr

theorem askRing_keeps {s0 s : State} {gid : Nat} {g : Group} {e : Entry} {rank slot k : Nat} {rec128 : List Byte}
    (h : keepsForm s0 s) : (askRing s gid g e rank slot k rec128).keeps s0 := by
  unfold askRing
  extract_lets va
  split
  · exact h
  · split
    · trivial
    · split
      next tag s1 hx =>
      have h1 : keepsForm s0 s1 := .ofSnd hx (State.takeId_keeps h)
      exact modEntry_keeps (sendReq_keeps h1)

theorem ringAcked_keeps {s0 s : State} {tag : Nat} {r : FabReq} (h : keepsForm s0 s) : keepsForm s0 (ringAcked s tag r) := by
  unfold ringAcked
  exact modEntry_keeps (farUpdate_keeps (.congr h rfl rfl))

theorem launchLane_keeps {s0 s : State} {gid : Nat} {g : Group} {e : Entry} {f : MFmt} {va : DWord} (h : keepsForm s0 s) :
    (launchLane s gid g e f va).keeps s0 := by
  unfold launchLane
  split
  · next hx => exact (launchRecord_keeps h).error hx
  · next hx =>
    have h1 := (launchRecord_keeps h).ok hx
    extract_lets n q st outs next half
    have hnext : keepsForm s0 next := .congr h1 rfl rfl
    clear_value next
    have hhalf : ∀ t k, keepsForm s0 t → (half t k).keeps s0 := by
      intro t k ht
      dsimp only [half]
      split
      · next hw => exact (vaWrite_keeps ht).done hw
      · exact ht
      · trivial
    split
    · trivial
    · split
      · exact h1
      · split
        · exact hnext
        · split
          · exact h
          · next hp => exact askRing_keeps (xlate_keeps h1 _ hp)
          · split
            · next hd =>
              have h2 := (hhalf _ 0 hnext).done hd
              split
              · exact h
              · exact hhalf _ 1 h2
            · exact h
            · exact hhalf _ 0 hnext

theorem presenceLane_keeps {s0 s : State} {g : Group} {va : DWord} {fn : State → Nat → Perf} (h : keepsForm s0 s)
    (hfn : ∀ t n, keepsForm s0 t → (fn t n).keeps s0) : (presenceLane s g va fn).keeps s0 := by
  unfold presenceLane
  split
  · exact h
  · exact h
  · next hx =>
    dsimp only
    split
    · exact h
    · exact hfn _ _ (xlate_keeps h _ hx)

theorem performLane_keeps {s0 s : State} {gid : Nat} {g : Group} {e : Entry} {l : Nat} {va : DWord} (h : keepsForm s0 s) :
    (performLane s gid g e l va).keeps s0 := by
  unfold performLane
  split
  · split
    · refine teamPerf_keeps h fun t r hr ht => ?_
      split at hr
      · cases hr
      · cases hr; exact ht
    · exact vaRead_keeps h
  · split
    · refine teamPerf_keeps h fun t r hr ht => ?_
      split at hr
      · cases hr
      · cases hr; exact Memory.wf_store ht _ _
    · exact vaWrite_keeps h
  · exact vaRead_keeps h
  · exact vaWrite_keeps h
  · exact atomLane_keeps h
  · exact vaRead_keeps h
  · exact vaWrite_keeps h
  · exact presenceLane_keeps h fun _ _ ht => ht
  · exact presenceLane_keeps h fun _ _ ht => ht
  · exact presenceLane_keeps h fun _ _ ht => ht
  · exact launchLane_keeps h
  · exact h

theorem laneDone_keeps {s0 s : State} {gid : Nat} {e : Entry} {m : Mask} {outs : List RegWrite} {fails : Bool} (h : keepsForm s0 s) :
    keepsForm s0 (laneDone s gid e m outs fails) := modEntry_keeps h

theorem entryOver_keeps {s0 s : State} {gid id : Nat} (h : keepsForm s0 s) : keepsForm s0 (entryOver s gid id) := by
  unfold entryOver
  split
  · exact h
  · split
    · exact h
    · split
      · exact h
      · extract_lets s1
        have hs1 : keepsForm s0 s1 := by
          unfold s1
          split
          · exact learn_keeps (refreshAt_keeps h)
          · exact h
        split
        · exact hs1
        · exact hs1

theorem entryFault_keeps {s0 s : State} {gid : Nat} {e : Entry} {kind : Nat} {m : Mask} {addr : SMap DWord} {cause detail aux : Nat}
    {mask : Mask} (h : keepsForm s0 s) :
    keepsForm s0 (entryFault s gid e kind m addr cause detail aux mask) := raiseTrap_keeps h

theorem laneFault_keeps {s0 s : State} {gid : Nat} {e : Entry} {l : Nat} {va : DWord} {cause detail aux : Nat} (h : keepsForm s0 s) :
    keepsForm s0 (laneFault s gid e l va cause detail aux) := by
  unfold laneFault
  split
  · exact h
  · exact entryFault_keeps h

theorem answerLine_keeps {s0 s : State} {gid core : Nat} {r : FabReq} {resp : Line} (h : keepsForm s0 s) :
    keepsForm s0 (answerLine s gid core r resp).2 := by
  unfold answerLine
  split
  · dsimp only
    split
    · exact seeLine_keeps h
    · exact h
  · dsimp only
    split
    · exact seeLine_keeps h
    · exact h

theorem answerEntry_keeps {s0 s : State} {gid : Nat} {g : Group} {e : Entry} {tag : Nat} {r : FabReq} {resp : Line}
    (h : keepsForm s0 s) : keepsForm s0 (answerEntry s gid g e tag r resp) := by
  unfold answerEntry
  extract_lets s1 base
  have h1 : keepsForm s0 s1 := h
  split
  · split
    next hx => exact modEntry_keeps (.snd (answerLine_keeps h1) hx)
  · exact entryOver_keeps (farDrop_keeps (laneDone_keeps h1))
  · split
    next line s2 hx =>
    have h2 : keepsForm s0 s2 := .snd (answerLine_keeps h1) hx
    exact entryOver_keeps (laneDone_keeps h2)

theorem preciseFault_keeps {s0 s : State} {gid : Nat} {g : Group} {e : Entry} {cause detail : Nat} (h : keepsForm s0 s) :
    keepsForm s0 (preciseFault s gid g e cause detail) := entryFault_keeps h

theorem performEntry_keeps {s0 s : State} {gid : Nat} {g : Group} {e : Entry} {l : Nat} {resp : Line} (h : keepsForm s0 s) :
    keepsForm s0 (performEntry s gid g e l resp) := by
  unfold performEntry
  split
  · exact h
  · split
    · split
      · exact h
      · split
        · split
          · exact h
          · exact answerEntry_keeps h
        · exact h
    · split
      · exact h
      · split
        · exact h
        · next s1 hx3 =>
          have hs1 : keepsForm s0 s1 := (performLane_keeps h).sent hx3
          exact hs1
        · next s1 _ _ _ hx3 =>
          have hs1 : keepsForm s0 s1 := (performLane_keeps h).fault hx3
          split
          · exact preciseFault_keeps h
          · exact laneFault_keeps hs1
        · next s1 _ _ _ _ hx3 =>
          have hs1 : keepsForm s0 s1 := (performLane_keeps h).faultAt hx3
          exact laneFault_keeps hs1
        · next s1 _ hx3 =>
          have hs1 : keepsForm s0 s1 := (performLane_keeps h).posted hx3
          exact entryOver_keeps (laneDone_keeps hs1)
        · next s1 _ _ hx3 =>
          have hs1 : keepsForm s0 s1 := (performLane_keeps h).done hx3
          exact entryOver_keeps (laneDone_keeps hs1)

theorem execFlaggedComplete_keeps {s0 : State} {gid id : Nat} {s : State} (h : keepsForm s0 s) :
    nextForm s0 (execFlaggedComplete gid id s) := by
  unfold execFlaggedComplete
  split
  · exact .next h
  · split
    · exact .next h
    · split
      · exact .next h
      · exact .next h

/-! ### Object -/

theorem postDoneAs_keeps {s0 s : State} {c : Iss} {i : Instr} {flag : Option Nat} {outs : List RegWrite} (h : keepsForm s0 s) :
    keepsForm s0 (postDoneAs s c i flag outs) := by
  unfold postDoneAs
  split
  · exact h
  · exact h

theorem postDone_keeps {s0 s : State} {c : Iss} {i : Instr} {outs : List RegWrite} (h : keepsForm s0 s) :
    keepsForm s0 (postDone s c i outs) := postDoneAs_keeps h

theorem postWait_keeps {s0 s : State} {c : Iss} {i : Instr} {w : Nat → Wait} (h : keepsForm s0 s) :
    keepsForm s0 (postWait s c i w) := State.putG_keeps (.congr h rfl rfl)

theorem objWr_keeps {s0 s : State} {loc : ObjLoc} {o : Nat} {bs : List Byte} (h : keepsForm s0 s) :
    keepsForm s0 (objWr s loc o bs) := by
  unfold objWr
  split
  · exact h.modTeam _ fun t ht => Memory.wf_store ht _ _
  · exact .foldl (fun _ _ h => wrFrame_keeps h) h

theorem objSeen_keeps {s0 s : State} {core : Nat} {loc : ObjLoc} {n : Nat} (h : keepsForm s0 s) :
    keepsForm s0 (objSeen s core loc n) := by
  unfold objSeen
  split
  · exact h
  · exact .foldl (fun _ _ h => farPatch_keeps h) h

theorem objTag_keeps {s0 s : State} {loc : ObjLoc} {on : Bool} (h : keepsForm s0 s) : keepsForm s0 (objTag s loc on) := by
  unfold objTag
  split
  · exact .modTeams h rfl rfl fun _ ht => ht
  · exact h

theorem wakeGroup_keeps {s0 s : State} {gid : Nat} {loc : ObjLoc} {phase : Nat} (h : keepsForm s0 s) :
    keepsForm s0 (wakeGroup s gid loc phase) := by
  unfold wakeGroup
  split
  · exact h
  · refine .foldl (fun s x h => ?_) h
    split
    · split
      · exact refreshGroup_keeps h
      · exact h
    · exact h

theorem wakeObj_keeps {s0 s : State} {loc : ObjLoc} (h : keepsForm s0 s) :
    keepsForm s0 (wakeObj s loc) := .foldl (fun _ _ h => wakeGroup_keeps h) h

theorem drainHeld_keeps {s0 s : State} {loc : ObjLoc} (h : keepsForm s0 s) :
    keepsForm s0 (drainHeld s loc) := .congr (drainList_keeps h) rfl rfl

theorem applied_keeps {s0 s : State} {src : ApplySrc} (h : keepsForm s0 s) : keepsForm s0 (applied s src) := by
  unfold applied
  split
  · split
    · exact entryOver_keeps h
    · exact h
  · exact h

theorem barWr_keeps {s0 s : State} {loc : ObjLoc} {o : BarObj} {src : ApplySrc} (h : keepsForm s0 s) :
    keepsForm s0 (barWr s loc o src) := by
  unfold barWr
  extract_lets s1
  split
  · exact objSeen_keeps (objWr_keeps h)
  · exact objWr_keeps h

theorem arriveFault_keeps {s0 s : State} {gid : Nat} {e : Entry} {cause detail : Nat} (h : keepsForm s0 s) :
    keepsForm s0 (arriveFault s gid e cause detail) := raiseTrap_keeps h

theorem applyLost_keeps {s0 s : State} {src : ApplySrc} (h : keepsForm s0 s) : keepsForm s0 (applyLost s src) := by
  unfold applyLost
  split
  · split
    · exact arriveFault_keeps h
    · exact h
  · exact raiseTrap_keeps h
  · exact h

theorem bringRed_keeps {s0 s : State} {src : ApplySrc} (h : keepsForm s0 s) : keepsForm s0 (bringRed s src) := by
  unfold bringRed
  split
  · exact h
  · exact h

theorem applyNow_keeps {s0 s : State} {loc : ObjLoc} {ctx a u : Nat} {src : ApplySrc} (h : keepsForm s0 s) :
    keepsForm s0 (applyNow s loc ctx a u src) := by
  unfold applyNow
  split
  · exact applyLost_keeps h
  · extract_lets o s01 s1
    have hs01 : keepsForm s0 s01 := bringRed_keeps h
    have hs1 : keepsForm s0 s1 := drainHeld_keeps hs01
    split
    · exact applied_keeps (barWr_keeps hs01)
    · split
      · exact wakeObj_keeps (applied_keeps (barWr_keeps hs1))
      · exact .congr hs1 rfl rfl

theorem applyObj_keeps {s0 s : State} {loc : ObjLoc} {ctx a u : Nat} {src : ApplySrc} (h : keepsForm s0 s) :
    keepsForm s0 (applyObj s loc ctx a u src) := by
  unfold applyObj
  split
  · exact h
  · exact applyNow_keeps h

theorem retryHeld_keeps {s0 s : State} {loc : ObjLoc} (h : keepsForm s0 s) :
    keepsForm s0 (retryHeld s loc) := .foldl (fun _ _ h => applyObj_keeps h) h

theorem noteRep_keeps {s0 s : State} {pa size : Nat} {repl : Bool} (h : keepsForm s0 s) :
    keepsForm s0 (noteRep s pa size repl) := .congr h rfl rfl

theorem scratchAt_keeps {s0 s : State} {a : Acc} {core ctx root : Nat} {va : DWord} (h : keepsForm s0 s) :
    okForm s0 (fun r => r.2) (scratchAt s a core ctx root va) := by
  unfold scratchAt
  refine .bind fun a ha => ?_
  split
  · next s1 =>
    have hs1 : keepsForm s0 s1 := xlate_keeps h _ ha
    split
    · exact .error
    · split
      · exact .ok (noteRep_keeps hs1)
      · exact .error

theorem placeAt_keeps {s0 s : State} {a : Acc} {core ctx root team : Nat} {name : DWord} (h : keepsForm s0 s) :
    okForm s0 (fun r => r.2) (placeAt s a core ctx root team name) := by
  unfold placeAt
  split
  · exact .error
  · split
    · split
      · exact .error
      · split
        · exact .error
        · next hx3 => exact .ok (scratchAt_keeps h _ hx3)
    · split
      · exact .error
      · split
        · exact .error
        · split
          · exact .error
          · exact .ok h

theorem nameAt_keeps {s0 s : State} {a : Acc} {g : Group} {name : DWord} (h : keepsForm s0 s) :
    okForm s0 (fun r => r.2) (nameAt s a g name) := placeAt_keeps h

theorem Iss.barObject_keeps {s0 : State} {c : Iss} {s : State} {a : Acc} {name : DWord} {valid : Bool} (h : keepsForm s0 s) :
    okForm s0 (fun r => r.2) (Iss.barObject c s a name valid) := by
  unfold Iss.barObject
  split
  · exact .error
  · next hx =>
    split
    · exact .error
    · split
      · exact .error
      · split
        · exact .error
        · exact .ok (nameAt_keeps h _ hx)

theorem credit_keeps {s0 s : State} {core ctx root team : Nat} {name : DWord} {bytes rows : Nat} {src : ApplySrc}
    (h : keepsForm s0 s) :
    keepsForm s0 (credit s core ctx root team name bytes rows src).1 := by
  unfold credit
  split
  · exact h
  · next hx =>
    split
    · exact h
    · split
      · exact h
      · split
        · exact applyObj_keeps (placeAt_keeps h _ hx)
        · exact applyObj_keeps (placeAt_keeps h _ hx)
        · exact applyObj_keeps (placeAt_keeps h _ hx)

/-! ### Matrix -/

theorem State.putBay_keeps {s0 s : State} {b : Nat} {x : Bay} (h : keepsForm s0 s) :
    keepsForm s0 (State.putBay s b x) := .congr h rfl rfl

theorem passEff_keeps {s0 s : State} {bay : Nat} {r : MReq} {bk : Nat → Nat → Val} (h : keepsForm s0 s) :
    keepsForm s0 (passEff s bay r bk).st := by
  unfold passEff
  split
  · exact h
  · exact h

theorem bypassEff_keeps {s0 s : State} {bay : Nat} {r : MReq} (h : keepsForm s0 s) : keepsForm s0 (bypassEff s bay r).st := h

theorem moveEff_keeps {s0 s : State} {r : MReq} (h : keepsForm s0 s) : keepsForm s0 (moveEff s r).st := by
  unfold moveEff
  dsimp only
  split
  all_goals exact h

theorem matDone_keeps {s0 s : State} {r : MReq} {outs : List RegWrite} (h : keepsForm s0 s) :
    keepsForm s0 (matDone s r outs) := .congr h rfl rfl

theorem matCredit_keeps {s0 s : State} {r : MReq} {rows : Nat} (h : keepsForm s0 s) : keepsForm s0 (matCredit s r rows) := by
  unfold matCredit
  split
  · split
    · exact h
    · extract_lets me
      split
      · next hx3 => exact .fst (credit_keeps h) hx3
      · next hx3 => exact raiseTrap_keeps (.fst (credit_keeps h) hx3)
  · exact h

theorem reqEff_keeps {s0 s : State} {bay : Nat} {gang : List MReq} {r : MReq} (h : keepsForm s0 s) :
    keepsForm s0 (reqEff s bay gang r).st := by
  unfold reqEff
  split
  · exact passEff_keeps h
  · exact passEff_keeps h
  · exact passEff_keeps h
  · exact bypassEff_keeps h
  · exact h
  · exact h
  · exact moveEff_keeps h

theorem finishReq_keeps {s0 s : State} {bay : Nat} {gang : List MReq} {r : MReq} (h : keepsForm s0 s) :
    keepsForm s0 (finishReq s bay gang r) := by
  unfold finishReq
  exact matCredit_keeps (matDone_keeps (reqEff_keeps h))

theorem grantDrain_keeps {s0 s : State} {r : MReq} (h : keepsForm s0 s) : keepsForm s0 (grantDrain s r) := by
  unfold grantDrain
  split
  · exact modEntry_keeps (moveEff_keeps h)
  · exact h

theorem execMatrixGrant_keeps {s0 : State} {bay : Nat} {s : State} (h : keepsForm s0 s) : nextForm s0 (execMatrixGrant bay s) := by
  unfold execMatrixGrant
  extract_lets b
  split
  · exact .next h
  · exact .next (grantDrain_keeps h)

theorem execMatrixRequestUrgent_keeps {s0 : State} {bay req : Nat} {s : State} (h : keepsForm s0 s) :
    nextForm s0 (execMatrixRequestUrgent bay req s) := .next h

theorem dropReqs_keeps {s0 s : State} {bay : Nat} {ids : List Nat} (h : keepsForm s0 s) :
    keepsForm s0 (dropReqs s bay ids) := State.putBay_keeps h

theorem execMatrixRequestComplete_keeps {s0 : State} {bay req : Nat} {s : State} (h : keepsForm s0 s) :
    nextForm s0 (execMatrixRequestComplete bay req s) := by
  unfold execMatrixRequestComplete
  extract_lets b
  split
  · exact .next h
  · exact .next (dropReqs_keeps (.foldl (fun _ _ h => finishReq_keeps h) h))

theorem execMrelRelease_keeps {s0 : State} {bay req : Nat} {s : State} (h : keepsForm s0 s) :
    nextForm s0 (execMrelRelease bay req s) := by
  unfold execMrelRelease
  extract_lets b
  split
  · exact .next h
  · extract_lets id b1
    split
    · exact .next h
    · exact .next h

theorem execMmaS_keeps {s0 : State} {f : EFmt} {s : State} (h : keepsForm s0 s) : nextForm s0 (execMmaS f s) := by
  unfold execMmaS
  refine asGroup_keeps h fun c => ?_
  refine .bind fun a ha => ?_
  refine .bind fun a ha => ?_
  extract_lets s01 jp
  have hjp : ∀ u, okForm s0 (fun t => t) (jp u) := by
    intro u
    refine .bind fun a ha => ?_
    split
    · refine .bind fun a ha => ?_
      split
      · exact .ok h
      · exact .bind fun a ha => .ok h
  split
  · exact .bind fun a ha => hjp a
  · exact hjp ()

theorem execMspmm_keeps {s0 : State} {f : EFmt} {s : State} (h : keepsForm s0 s) : nextForm s0 (execMspmm f s) := by
  unfold execMspmm
  refine asGroup_keeps h fun c => ?_
  refine .bind fun a ha => ?_
  refine .bind fun a ha => ?_
  extract_lets e s11 jp
  have hjp : ∀ u, okForm s0 (fun t => t) (jp u) := by
    intro u
    refine .bind fun a ha => ?_
    split
    · exact .ok h
    · exact .bind fun a ha => .ok h
  split
  · exact .bind fun a ha => hjp a
  · exact hjp ()

theorem gangFail_keeps {s0 s : State} {bay : Nat} {ms : List MReq} (h : keepsForm s0 s) : keepsForm s0 (gangFail s bay ms) := by
  unfold gangFail
  extract_lets s1 gids s2
  have h1 : keepsForm s0 s1 := .foldl (fun _ _ h => matDone_keeps h) h
  have h2 : keepsForm s0 s2 := .foldl (fun _ _ h => .congr h rfl rfl) h1
  exact dropReqs_keeps h2

theorem execMmaQ_keeps {s0 : State} {f : EFmt} {s : State} (h : keepsForm s0 s) : nextForm s0 (execMmaQ f s) := by
  unfold execMmaQ
  refine asGroup_keeps h fun c => ?_
  refine .bind fun a ha => ?_
  extract_lets w bay b q k s51 jp
  have hjp : ∀ u, okForm s0 (fun t => t) (jp u) := by
    intro u
    refine .bind fun a ha => ?_
    extract_lets jp1
    have hjp1 : ∀ u, okForm s0 (fun t => t) (jp1 u) := by
      intro u
      refine .bind fun a ha => ?_
      split
      · refine .bind fun a ha => ?_
        refine .bind fun a ha => ?_
        extract_lets s11 ms
        split
        · exact .ok (gangFail_keeps h)
        · exact .ok h
    split
    · exact .bind fun a ha => hjp1 a
    · exact hjp1 ()
  split
  · exact .bind fun a ha => hjp a
  · exact hjp ()

theorem tileMove_keeps {s0 : State} {f : EFmt} {i : Instr} {s : State} {r : Iss → MReq} (h : keepsForm s0 s) :
    nextForm s0 (tileMove f i s r) := by
  unfold tileMove
  refine asGroup_keeps h fun c => ?_
  refine .bind fun a ha => ?_
  refine .bind fun a ha => ?_
  split
  · exact .ok h
  · exact .bind fun a ha => .ok h

theorem execMzero_keeps {s0 : State} {f : EFmt} {s : State} (h : keepsForm s0 s) : nextForm s0 (execMzero f s) := tileMove_keeps h

theorem execMfill_keeps {s0 : State} {f : EFmt} {s : State} (h : keepsForm s0 s) : nextForm s0 (execMfill f s) := tileMove_keeps h

theorem execMdrain_keeps {s0 : State} {f : EFmt} {s : State} (h : keepsForm s0 s) : nextForm s0 (execMdrain f s) := tileMove_keeps h

theorem execMbypass_keeps {s0 : State} {f : EFmt} {s : State} (h : keepsForm s0 s) : nextForm s0 (execMbypass f s) := by
  unfold execMbypass
  refine asGroup_keeps h fun c => ?_
  refine .bind fun a ha => ?_
  extract_lets efn s11
  refine .bind fun a ha => ?_
  extract_lets jp
  have hjp : ∀ u, okForm s0 (fun t => t) (jp u) := by
    intro u
    refine .bind fun a ha => ?_
    split
    · exact .ok h
    · exact .bind fun a ha => .ok h
  split
  · exact .bind fun a ha => hjp a
  · exact hjp ()

theorem tileMask_keeps {s0 : State} {f : EFmt} {i : Instr} {op : MOp} {s : State} (h : keepsForm s0 s) :
    nextForm s0 (tileMask f i op s) := by
  unfold tileMask
  refine asGroup_keeps h fun c => ?_
  refine .bind fun a ha => ?_
  split
  · exact .ok h
  · exact .bind fun a ha => .ok h

theorem execAccalloc_keeps {s0 : State} {f : EFmt} {s : State} (h : keepsForm s0 s) :
    nextForm s0 (execAccalloc f s) := tileMask_keeps h

theorem execAccfree_keeps {s0 : State} {f : EFmt} {s : State} (h : keepsForm s0 s) : nextForm s0 (execAccfree f s) := tileMask_keeps h

theorem bufferDone_keeps {s0 s : State} {c : Iss} {i : Instr} {outs : List RegWrite} (h : keepsForm s0 s) :
    keepsForm s0 (bufferDone s c i outs) := .congr (postDone_keeps h) rfl rfl

theorem execMres_keeps {s0 : State} {f : EFmt} {s : State} (h : keepsForm s0 s) : nextForm s0 (execMres f s) := by
  unfold execMres
  refine asGroup_keeps h fun c => ?_
  extract_lets w0 w1 bay jp
  have hjp : ∀ u, okForm s0 (fun t => t) (jp u) := by
    intro u
    dsimp only [jp]
    split
    · exact .ok (Iss.done_keeps h)
    · exact .bind fun a ha => .ok (bufferDone_keeps (State.putBay_keeps h))
  split
  · exact .bind fun a ha => hjp a
  · exact hjp ()

theorem execMrel_keeps {s0 : State} {f : EFmt} {s : State} (h : keepsForm s0 s) : nextForm s0 (execMrel f s) := by
  unfold execMrel
  refine asGroup_keeps h fun c => ?_
  refine .bind fun a ha => ?_
  split
  · exact .ok h
  · exact .bind fun a ha => .ok h

theorem execMstat_keeps {s0 : State} {f : EFmt} {s : State} (h : keepsForm s0 s) : nextForm s0 (execMstat f s) := by
  unfold execMstat
  exact asOnce_keeps h fun c => .bind fun a ha => .ok (bufferDone_keeps h)

/-! ### Remote -/

theorem State.nack_keeps {s0 s : State} {p : Packet} {detail cause sub : Nat} (h : keepsForm s0 s) :
    keepsForm s0 (State.nack s p detail cause sub) := by
  unfold State.nack
  split
  · exact h
  · exact State.send_keeps h

theorem remoteXlate_keeps {s0 s : State} {ctx : Nat} {va : DWord} {a : Acc} (h : keepsForm s0 s) :
    okForm s0 (fun r => r.2.2.2.2) (remoteXlate s ctx va a) := by
  unfold remoteXlate
  extract_lets root
  refine .bind fun a ha => ?_
  split
  · split
    · exact .error
    · exact .ok (xlate_keeps h _ ha)

theorem serveRead_keeps {s0 s : State} {ctx : Nat} {p : Packet} (h : keepsForm s0 s) : (serveRead s ctx p).keeps s0 := by
  unfold serveRead
  extract_lets va
  split
  · exact trivial
  · next hx =>
    split
    · exact trivial
    · split
      · exact trivial
      · exact State.send_keeps (remoteXlate_keeps h _ hx)

theorem afterFrames_keeps {s0 s : State} {n : Nat} {j : FrameJob} {now : State → State} (h : keepsForm s0 s)
    (hnow : keepsForm s0 (now s)) : keepsForm s0 (afterFrames s n j now) := by
  unfold afterFrames
  split
  · exact h
  · exact hnow

theorem creditRecord_keeps {s0 s : State} {ctx : Nat} {bar : DWord} (h : keepsForm s0 s) :
    keepsForm s0 (creditRecord s ctx bar) := credit_keeps h

theorem replyTo_keeps {s0 s : State} {ctx : Nat} {p : Packet} {m : OutMsg} (h : keepsForm s0 s) :
    keepsForm s0 (replyTo s ctx p m) := by
  unfold replyTo
  extract_lets s1
  have hs1 : keepsForm s0 s1 := by
    unfold s1
    split
    · exact creditRecord_keeps h
    · exact h
  split
  · exact hs1
  · exact State.send_keeps hs1

theorem serveWrite_keeps {s0 s : State} {ctx : Nat} {p : Packet} (h : keepsForm s0 s) : (serveWrite s ctx p).keeps s0 := by
  unfold serveWrite
  extract_lets base m
  split
  · exact trivial
  · next s1 hx =>
    have hs1 : keepsForm s0 s1 := remoteXlate_keeps h _ hx
    extract_lets fs
    split
    · exact trivial
    · split
      · exact trivial
      · change keepsForm s0 _
        refine afterFrames_keeps ?_ ?_
        · exact .foldl (fun _ _ h => wrTgt_keeps h) (.congr hs1 rfl rfl)
        · exact replyTo_keeps (.foldl (fun _ _ h => wrTgt_keeps h) (.congr hs1 rfl rfl))

theorem serveAtomic_keeps {s0 s : State} {ctx : Nat} {p : Packet} (h : keepsForm s0 s) : (serveAtomic s ctx p).keeps s0 := by
  unfold serveAtomic
  split
  · exact State.nack_keeps h
  · split
    · exact trivial
    · next s1 hx1 =>
      have hs1 : keepsForm s0 s1 := remoteXlate_keeps h _ hx1
      extract_lets n2
      split
      · next s2 hx2 =>
        have hs2 : keepsForm s0 s2 := .snd (State.takeId_keeps hs1) hx2
        split
        · exact trivial
        · exact trivial
        · next s3 hx3 =>
          have hs3 : keepsForm s0 s3 := (atomAt_keeps hs2).ok hx3
          extract_lets m
          change keepsForm s0 _
          refine afterFrames_keeps ?_ ?_
          · exact hs3
          · exact replyTo_keeps hs3

theorem serve_keeps {s0 s : State} {ctx : Nat} {p : Packet} (h : keepsForm s0 s) : (serve s ctx p).keeps s0 := by
  unfold serve
  split
  · exact serveRead_keeps h
  · exact serveWrite_keeps h
  · exact serveAtomic_keeps h

theorem remoteFault_keeps {s0 a0 : State} {ctx : Nat} {p : Packet} {cause detail : Nat} (h : keepsForm s0 a0) :
    keepsForm s0 (remoteFault a0 ctx p cause detail) := by
  unfold remoteFault
  extract_lets s
  have hs : keepsForm s0 s := by
    unfold s
    split
    · exact h
    · exact h
  split
  · split
    · exact hs
    · exact State.nack_keeps hs
  · exact State.nack_keeps hs

theorem serveOrFault_keeps {s0 s : State} {ctx : Nat} {p : Packet} (h : keepsForm s0 s) : keepsForm s0 (serveOrFault s ctx p) := by
  unfold serveOrFault
  split
  · next hx => exact (serve_keeps h).done hx
  · exact remoteFault_keeps h
  · exact h

theorem remoteRequest_keeps {s0 s : State} {p : Packet} (h : keepsForm s0 s) : keepsForm s0 (remoteRequest s p) := by
  unfold remoteRequest
  split
  · exact h
  · extract_lets s01
    split
    · exact State.nack_keeps h
    · split
      · exact State.nack_keeps h
      · split
        · exact State.nack_keeps h
        · split
          · exact State.nack_keeps h
          · split
            · split
              · exact State.nack_keeps h
              · exact State.send_keeps h
            · exact serveOrFault_keeps h

theorem resolveRemote_keeps {s0 s : State} {id mode : Nat} (h : keepsForm s0 s) : keepsForm s0 (resolveRemote s id mode) := by
  unfold resolveRemote
  split
  · exact h
  · extract_lets s1
    split
    · exact serveOrFault_keeps h
    · exact State.nack_keeps h

theorem arrive_keeps {s0 s : State} {p : Packet} (h : keepsForm s0 s) : keepsForm s0 (arrive s p) := by
  unfold arrive
  split
  · exact remoteRequest_keeps h
  · extract_lets q
    split
    · exact h
    · split
      · exact State.nack_keeps h
      · split
        · exact remoteRequest_keeps h
        · split
          · next hx4 => exact enqueue_keeps h _ hx4
          · exact h

theorem execRemoteRead_keeps {s0 : State} {p : Packet} {s : State} (h : keepsForm s0 s) :
    nextForm s0 (execRemoteRead p s) := .next (arrive_keeps h)

theorem windowWrite_keeps {s0 s : State} {p : Packet} (h : keepsForm s0 s) : keepsForm s0 (windowWrite s p) := by
  unfold windowWrite
  extract_lets cls
  split
  · exact h
  · exact h

theorem execRemoteWrite_keeps {s0 : State} {p : Packet} {s : State} (h : keepsForm s0 s) : nextForm s0 (execRemoteWrite p s) := by
  unfold execRemoteWrite
  refine .next ?_
  split
  · split
    · exact windowWrite_keeps h
    · exact h
  · exact arrive_keeps h

theorem execRemoteAtomic_keeps {s0 : State} {p : Packet} {s : State} (h : keepsForm s0 s) :
    nextForm s0 (execRemoteAtomic p s) := .next (arrive_keeps h)

theorem execRemoteOriginTimeout_keeps {s0 : State} {tag : Nat} {s : State} (h : keepsForm s0 s) :
    nextForm s0 (execRemoteOriginTimeout tag s) := by
  unfold execRemoteOriginTimeout
  split
  · exact .next h
  · split
    · exact .next h
    · exact .next (resolveRemote_keeps h)

/-! ### Copy -/

theorem modOp_keeps {s0 s : State} {core id : Nat} {f : CopyOp → CopyOp} (h : keepsForm s0 s) :
    keepsForm s0 (modOp s core id f) := State.putCore_keeps h

theorem postCopy_keeps {s0 s : State} {c : Iss} {i : Instr} {op : CopyOp} (h : keepsForm s0 s) :
    keepsForm s0 (postCopy s c i op) := State.putCore_keeps (State.putG_keeps (.congr h rfl rfl))

theorem holdColl_keeps {s0 s : State} {c : Iss} {op : CopyOp} {cgid : Option Nat} (h : keepsForm s0 s) :
    keepsForm s0 (holdColl s c op cgid) := State.putCore_keeps (State.putG_keeps (.congr h rfl rfl))

theorem execCpyt_keeps {s0 : State} {f : EFmt} {s : State} (h : keepsForm s0 s) : nextForm s0 (execCpyt f s) := by
  unfold execCpyt
  refine asOnce_keeps h fun c => ?_
  extract_lets op cgid jp jp1
  have hjp : ∀ u, okForm s0 (fun t => t) (jp u) := by
    intro u
    refine .bind fun a ha => ?_
    refine .bind fun a ha => ?_
    split
    · split
      · exact .ok (holdColl_keeps h)
      · exact .ok (postCopy_keeps h)
    · exact .ok (postCopy_keeps h)
  have hjp1 : ∀ u, okForm s0 (fun t => t) (jp1 u) := by
    intro u
    dsimp only [jp1]
    split
    · exact .bind fun a ha => hjp a
    · exact hjp ()
  split
  · exact .bind fun a ha => hjp1 a
  · exact hjp1 ()

theorem issueRows_keeps {s0 : State} {f : EFmt} {i : Instr} {s : State} (h : keepsForm s0 s) : nextForm s0 (issueRows f i s) := by
  unfold issueRows
  refine asGroup_keeps h fun c => ?_
  split
  · exact .ok (Iss.done_keeps h)
  · extract_lets op rb t out jp jp1
    have hjp : ∀ u, okForm s0 (fun t => t) (jp u) := by
      intro u
      exact .bind fun a ha => .bind fun a ha => .ok (postCopy_keeps h)
    have hjp1 : ∀ u, okForm s0 (fun t => t) (jp1 u) := by
      intro u
      dsimp only [jp1]
      split
      · exact .bind fun a ha => hjp a
      · exact hjp ()
    split
    · exact .bind fun a ha => hjp1 a
    · exact hjp1 ()

theorem execGath_keeps {s0 : State} {f : EFmt} {s : State} (h : keepsForm s0 s) : nextForm s0 (execGath f s) := issueRows_keeps h

theorem execScat_keeps {s0 : State} {f : EFmt} {s : State} (h : keepsForm s0 s) : nextForm s0 (execScat f s) := issueRows_keeps h

theorem execGathTh_keeps {s0 : State} {f : EFmt} {s : State} (h : keepsForm s0 s) : nextForm s0 (execGathTh f s) := by
  unfold execGathTh
  refine asGroup_keeps h fun c => ?_
  split
  · exact .ok h
  · extract_lets op w
    split
    · extract_lets v n1
      refine .bind fun a ha => ?_
      extract_lets jp
      have hjp : ∀ u, okForm s0 (fun t => t) (jp u) := by
        intro u
        exact .bind fun a ha => .bind fun a ha => .ok h
      split
      · exact .bind fun a ha => hjp a
      · exact hjp ()

theorem ownCopies_keeps {s0 s : State} {gid : Nat} {cls : OcClass} (h : keepsForm s0 s) : keepsForm s0 (ownCopies s gid cls) := by
  unfold ownCopies
  split
  · exact h
  · exact h

theorem execWaitcnt_keeps {s0 : State} {f : EFmt} {s : State} (h : keepsForm s0 s) : nextForm s0 (execWaitcnt f s) := by
  unfold execWaitcnt
  refine asOnce_keeps h fun c => ?_
  extract_lets n g
  split
  · exact .ok (Iss.done_keeps (ownCopies_keeps h))
  · exact .ok (State.putG_keeps h)

theorem copyTrap_keeps {s0 s : State} {o : CopyOp} {cause detail aux : Nat} {va : DWord} (h : keepsForm s0 s) :
    keepsForm s0 (copyTrap s o cause detail aux va) := raiseTrap_keeps h

theorem stopCopy_keeps {s0 s : State} {core : Nat} {o : CopyOp} {cause detail aux : Nat} {va : DWord} (h : keepsForm s0 s) :
    keepsForm s0 (stopCopy s core o cause detail aux va) := raiseTrap_keeps h

theorem copyLine_keeps {s0 s : State} {g : Group} {core : Nat} {o : CopyOp} {va n : Nat} (h : keepsForm s0 s) :
    cresForm s0 (fun r => r.2) (copyLine s g core o va n) := by
  unfold copyLine
  extract_lets x
  split
  · exact h
  · next s1 hx =>
    have hs1 : keepsForm s0 s1 := xlate_keeps h _ hx
    extract_lets at_
    split
    · exact trivial
    · split
      · exact trivial
      · split
        · exact h
        · exact hs1
  · next s1 hx =>
    have hs1 : keepsForm s0 s1 := xlate_keeps h _ hx
    split
    · exact hs1
    · split
      · exact h
      · split
        · exact trivial
        · split
          · exact trivial
          · exact sendReq_keeps (.congr hs1 rfl rfl)

theorem copyParts_keeps {s0 : State} {g : Group} {core : Nat} {o : CopyOp} {ps : List (Nat × Nat)} {s : State} (h : keepsForm s0 s) :
    cresForm s0 (fun r => r.2) (copyParts g core o ps s) := by
  induction ps generalizing s with
  | nil => exact h
  | cons p t ih =>
    unfold copyParts
    split
    · next hx => exact (copyLine_keeps h).error hx
    · next s1 hx =>
      have h1 : keepsForm s0 s1 := (copyLine_keeps h).ok hx
      split
      · next hx1 => exact (ih h1).error hx1
      · next hx1 =>
        have h2 := (ih h1).ok hx1
        exact h2

theorem copyRead_keeps {s0 s : State} {g : Group} {core : Nat} {o : CopyOp} {va n : Nat} (h : keepsForm s0 s) :
    cresForm s0 (fun r => r.2) (copyRead s g core o va n) := copyParts_keeps h

theorem teamRead_keeps {s0 s : State} {g : Group} {o : CopyOp} {a n : Nat} (h : keepsForm s0 s) :
    cresForm s0 (fun r => r.2) (teamRead s g o a n) := by
  unfold teamRead
  split
  · exact trivial
  · split
    · exact h
    · split
      · exact h
      · exact h

theorem sourceRead_keeps {s0 s : State} {g : Group} {core : Nat} {o : CopyOp} {a n : Nat} (h : keepsForm s0 s) :
    cresForm s0 (fun r => r.2) (sourceRead s g core o a n) := by
  unfold sourceRead
  split
  · exact teamRead_keeps h
  · exact copyRead_keeps h

theorem thEntries_keeps {s0 : State} {g : Group} {core : Nat} {o : CopyOp} {crd vals z k0 kp : Nat} {ps : List Nat} {s : State}
    (h : keepsForm s0 s) : cresForm s0 (fun r => r.2) (thEntries g core o crd vals z k0 kp ps s) := by
  induction ps generalizing s with
  | nil => exact h
  | cons p t ih =>
    unfold thEntries
    split
    · next hx => exact (copyRead_keeps h).error hx
    · next s1 hx =>
      have h1 : keepsForm s0 s1 := (copyRead_keeps h).ok hx
      dsimp only
      split
      · next hx1 => exact (ih h1).error hx1
      · next hx1 =>
        have h2 := (ih h1).ok hx1
        exact h2

theorem thValues_keeps {s0 : State} {g : Group} {core : Nat} {o : CopyOp} {z : Nat} {ps : List (Nat × Nat)} {s : State}
    (h : keepsForm s0 s) : cresForm s0 (fun r => r.2) (thValues g core o z ps s) := by
  induction ps generalizing s with
  | nil => exact h
  | cons p t ih =>
    unfold thValues
    split
    · next hx => exact (copyRead_keeps h).error hx
    · next s1 hx =>
      have h1 : keepsForm s0 s1 := (copyRead_keeps h).ok hx
      split
      · next hx1 => exact (ih h1).error hx1
      · next hx1 =>
        have h2 := (ih h1).ok hx1
        exact h2

theorem thRow_keeps {s0 s : State} {g : Group} {core : Nat} {o : CopyOp} {lane : Nat} (h : keepsForm s0 s) :
    cresForm s0 (fun r => r.2.2) (thRow s g core o lane) := by
  unfold thRow
  extract_lets hd z kp k0 sk e r found
  have hf : cresForm s0 (fun r => r.2) found := by
    unfold found
    split
    · exact h
    · split
      · exact h
      · split
        · next hx => exact (copyRead_keeps h).error hx
        · next hx => exact thEntries_keeps ((copyRead_keeps h).ok hx)
  clear_value found
  split
  · exact hf
  · next es s1 =>
    have h1 : keepsForm s0 s1 := hf
    dsimp only
    split
    · next hx => exact (thValues_keeps h1).error hx
    · next hx => exact (thValues_keeps h1).ok hx

theorem acceptLines_keeps {s0 s : State} {core : Nat} {g : Group} {o : CopyOp} (h : keepsForm s0 s) :
    keepsForm s0 (acceptLines s core g o) := by
  unfold acceptLines
  extract_lets m
  split
  · exact h
  · exact h

theorem pieceData_keeps {s0 s : State} {g : Group} {core : Nat} {o : CopyOp} {row off n : Nat} (h : keepsForm s0 s) :
    cresForm s0 (fun r => r.2.2) (pieceData s g core o row off n) := by
  unfold pieceData
  extract_lets r
  split
  · exact thRow_keeps h
  · split
    · split
      · next hx2 => exact (sourceRead_keeps h).error hx2
      · next hx2 => exact (sourceRead_keeps h).ok hx2

theorem landTeam_keeps {s0 s : State} {t a : Nat} {bs : List Byte} (h : keepsForm s0 s) :
    someForm s0 (fun t => t) (landTeam s t a bs) := by
  unfold landTeam
  split
  · exact .none
  · next hx =>
    split
    · exact .none
    · exact .some (.putTeam h _ fun hs => Memory.wf_store (memWf_of_find hs hx) _ _)

theorem landBuf_keeps {s0 s : State} {core : Nat} {o : CopyOp} {rid gen row off : Nat} {bs : List Byte} (h : keepsForm s0 s) :
    someForm s0 (fun t => t) (landBuf s core o rid gen row off bs) := by
  unfold landBuf
  split
  · exact .none
  · extract_lets b dst base blk b1
    split
    · exact .some h
    · exact .some h

theorem linesLand_keeps {s0 s : State} {core id : Nat} {ls : List (Nat × Nat)} (h : keepsForm s0 s) :
    keepsForm s0 (linesLand s core id ls) := by
  unfold linesLand
  refine .foldl (fun s x h => ?_) h
  split
  · exact h
  · split
    · exact h
    · exact h

theorem creditOp_keeps {s0 s : State} {core : Nat} {g : Group} {o : CopyOp} {team bytes rows : Nat} (h : keepsForm s0 s) :
    keepsForm s0 (creditOp s core g o team bytes rows) := by
  unfold creditOp
  split
  · exact h
  · split
    · exact h
    · split
      · next s1 hx2 =>
        have hs1 : keepsForm s0 s1 := .fst (credit_keeps h) hx2
        exact hs1
      · next s1 _ _ hx2 =>
        have hs1 : keepsForm s0 s1 := .fst (credit_keeps h) hx2
        exact modOp_keeps hs1

theorem pieceLanded_keeps {s0 s : State} {core : Nat} {g : Group} {o : CopyOp} {first n : Nat} {skip : List Nat}
    {outs : List RegWrite} (h : keepsForm s0 s) :
    keepsForm s0 (pieceLanded s core g o first n skip outs) := by
  unfold pieceLanded
  extract_lets row s1
  split
  · exact h
  · extract_lets whole
    refine .foldl (fun s x h => ?_) h
    split
    · exact h
    · exact creditOp_keeps h

theorem CopyOp.uncache_keeps {s0 : State} {o : CopyOp} {s : State} {keys : List Nat} (h : keepsForm s0 s) :
    keepsForm s0 (CopyOp.uncache o s keys) := by
  unfold CopyOp.uncache
  split
  · exact .foldl (fun _ _ h => farDropAll_keeps h) h
  · exact h

theorem destParts_keeps {s0 : State} {g : Group} {ps : List (Nat × Nat)} {s : State} (h : keepsForm s0 s) :
    cresForm s0 (fun r => r.2) (destParts g ps s) := by
  induction ps generalizing s with
  | nil => exact h
  | cons p t ih =>
    unfold destParts
    split
    · exact h
    · next s1 hx =>
      have h1 : keepsForm s0 s1 := xlate_keeps h _ hx
      split
      · next hx1 => exact (ih h1).error hx1
      · next hx1 =>
        have h2 := (ih h1).ok hx1
        exact h2

theorem writeParts_keeps {s0 s : State} {w : Writer} {ps : List (Tgt × Nat × Nat)} {bs : List Byte} (h : keepsForm s0 s) :
    keepsForm s0 (writeParts s w ps bs) := by
  induction ps generalizing s bs with
  | nil => exact h
  | cons p t ih =>
    unfold writeParts
    refine ih ?_
    split
    · exact wrTgt_keeps h
    · exact h

theorem claimLines_keeps {s0 s : State} {core : Nat} {g : Group} {o : CopyOp} {lines : List Nat} (h : keepsForm s0 s) :
    someForm s0 (fun t => t) (claimLines s core g o lines) := by
  unfold claimLines
  extract_lets new m
  split
  · exact .some h
  · split
    · exact .none
    · exact .some h

theorem landPeer_keeps {s0 s : State} {core : Nat} {g : Group} {o : CopyOp} {rank va first : Nat} {bs : List Byte}
    (h : keepsForm s0 s) :
    cresForm s0 (fun t => t) (landPeer s core g o rank va first bs) := by
  unfold landPeer
  split
  · exact h
  · split
    · exact trivial
    · exact modOp_keeps (sendReq_keeps (.congr h rfl rfl))

theorem landVa_keeps {s0 s : State} {core : Nat} {g : Group} {o : CopyOp} {first : Nat} {bs : List Byte} (h : keepsForm s0 s) :
    keepsForm s0 (landVa s core g o first bs) := by
  unfold landVa
  extract_lets va die
  split
  · exact stopCopy_keeps h
  · exact h
  · next ps s1 hx =>
    have h1 : keepsForm s0 s1 := (destParts_keeps h).ok hx
    split
    · split
      · next s2 hx2 =>
        have h2 : keepsForm s0 s2 := (landPeer_keeps h1).ok hx2
        exact h2
      · exact stopCopy_keeps h
      · exact h
    · extract_lets fs lines new
      split
      · exact pieceLanded_keeps (linesLand_keeps (modOp_keeps h1))
      · split
        · exact h
        · split
          · exact h
          · next sc hsc =>
            have hc : keepsForm s0 sc := claimLines_keeps h1 _ hsc
            split
            · exact stopCopy_keeps h
            · split
              next tag sd hd =>
              have hd : keepsForm s0 sd := .ofSnd hd (State.takeId_keeps hc)
              extract_lets s2 s3 late s4
              have h3 : keepsForm s0 s3 := modOp_keeps (writeParts_keeps hd)
              clear_value s3
              split
              · exact .congr h3 rfl rfl
              · exact pieceLanded_keeps (linesLand_keeps (CopyOp.uncache_keeps (.congr h3 rfl rfl)))

theorem pieceInFrames_keeps {s0 s : State} {core op tag : Nat} {lines : List (Nat × Nat)} (h : keepsForm s0 s) :
    keepsForm s0 (pieceInFrames s core op tag lines) := by
  unfold pieceInFrames
  split
  · exact h
  · split
    · exact pieceLanded_keeps (linesLand_keeps (CopyOp.uncache_keeps h))
    · exact h

theorem landHere_keeps {s0 s : State} {core : Nat} {g : Group} {o : CopyOp} {first : Nat} {bs : List Byte} {outs : List RegWrite}
    (h : keepsForm s0 s) : keepsForm s0 (landHere s core g o first bs outs) := by
  unfold landHere
  dsimp only
  refine pieceLanded_keeps ?_
  refine List.foldlRecOn (motive := fun r : State × List Nat => keepsForm s0 r.1) _ _ h fun acc hacc x _ => ?_
  split
  · split
    · next hx => exact landTeam_keeps hacc _ hx
    · exact hacc
  · split
    · next hx => exact landBuf_keeps hacc _ hx
    · exact hacc
  · exact hacc

theorem landBytes_keeps {s0 s : State} {core : Nat} {g : Group} {o : CopyOp} {first : Nat} {bs : List Byte} {outs : List RegWrite}
    (h : keepsForm s0 s) :
    keepsForm s0 (landBytes s core g o first bs outs) := by
  unfold landBytes
  split
  · exact landVa_keeps h
  · exact landHere_keeps h

theorem retire_keeps {s0 s : State} {core gid : Nat} {cls : OcClass} (h : keepsForm s0 s) : keepsForm s0 (retire s core gid cls) := by
  unfold retire
  extract_lets c mine armed done s1
  have hs1 : keepsForm s0 s1 := State.putCore_keeps h
  exact .congr hs1 rfl rfl

theorem finishCopy_keeps {s0 s : State} {core : Nat} {o : CopyOp} (h : keepsForm s0 s) : keepsForm s0 (finishCopy s core o) := by
  unfold finishCopy
  extract_lets c s1 s2 sf s3 s4
  have h2 : keepsForm s0 s2 := State.putCore_keeps (.congr h rfl rfl)
  have hf : keepsForm s0 sf := .foldl (fun _ _ h => farDrop_keeps h) h2
  have h3 : keepsForm s0 s3 := .congr hf rfl rfl
  have h4 : keepsForm s0 s4 := .foldl (fun _ _ h => copyTrap_keeps h) h3
  exact retire_keeps h4

/-! ### Lane -/

theorem laneOp_keeps {s0 : State} {f : LFmt} {s : State} {fn : Iss → Nat → Word × Nat} (h : keepsForm s0 s) :
    nextForm s0 (laneOp f s fn) := by
  unfold laneOp
  exact asGroup_keeps h fun c => .ok h

theorem predOp_keeps {s0 : State} {f : LFmt} {s : State} {fn : Iss → Nat → Bool × Nat} (h : keepsForm s0 s) :
    nextForm s0 (predOp f s fn) := by
  unfold predOp
  exact asGroup_keeps h fun c => .ok h

theorem execAdd_keeps {s0 : State} {f : LFmt} {s : State} (h : keepsForm s0 s) : nextForm s0 (execAdd f s) := laneOp_keeps h

theorem execSub_keeps {s0 : State} {f : LFmt} {s : State} (h : keepsForm s0 s) : nextForm s0 (execSub f s) := laneOp_keeps h

theorem execMul_keeps {s0 : State} {f : LFmt} {s : State} (h : keepsForm s0 s) : nextForm s0 (execMul f s) := laneOp_keeps h

theorem execMulhi_keeps {s0 : State} {f : LFmt} {s : State} (h : keepsForm s0 s) : nextForm s0 (execMulhi f s) := laneOp_keeps h

theorem execMad_keeps {s0 : State} {f : LFmt} {s : State} (h : keepsForm s0 s) : nextForm s0 (execMad f s) := laneOp_keeps h

theorem execFma_keeps {s0 : State} {f : LFmt} {s : State} (h : keepsForm s0 s) : nextForm s0 (execFma f s) := laneOp_keeps h

theorem execMin_keeps {s0 : State} {f : LFmt} {s : State} (h : keepsForm s0 s) : nextForm s0 (execMin f s) := laneOp_keeps h

theorem execMax_keeps {s0 : State} {f : LFmt} {s : State} (h : keepsForm s0 s) : nextForm s0 (execMax f s) := laneOp_keeps h

theorem execAbs_keeps {s0 : State} {f : LFmt} {s : State} (h : keepsForm s0 s) : nextForm s0 (execAbs f s) := laneOp_keeps h

theorem execNeg_keeps {s0 : State} {f : LFmt} {s : State} (h : keepsForm s0 s) : nextForm s0 (execNeg f s) := laneOp_keeps h

theorem execClamp_keeps {s0 : State} {f : LFmt} {s : State} (h : keepsForm s0 s) : nextForm s0 (execClamp f s) := laneOp_keeps h

theorem execAddmin_keeps {s0 : State} {f : LFmt} {s : State} (h : keepsForm s0 s) : nextForm s0 (execAddmin f s) := laneOp_keeps h

theorem execFrnd_keeps {s0 : State} {f : LFmt} {s : State} (h : keepsForm s0 s) : nextForm s0 (execFrnd f s) := laneOp_keeps h

theorem execMov_keeps {s0 : State} {f : LFmt} {s : State} (h : keepsForm s0 s) : nextForm s0 (execMov f s) := laneOp_keeps h

theorem execAnd_keeps {s0 : State} {f : LFmt} {s : State} (h : keepsForm s0 s) : nextForm s0 (execAnd f s) := laneOp_keeps h

theorem execOr_keeps {s0 : State} {f : LFmt} {s : State} (h : keepsForm s0 s) : nextForm s0 (execOr f s) := laneOp_keeps h

theorem execXor_keeps {s0 : State} {f : LFmt} {s : State} (h : keepsForm s0 s) : nextForm s0 (execXor f s) := laneOp_keeps h

theorem execNot_keeps {s0 : State} {f : LFmt} {s : State} (h : keepsForm s0 s) : nextForm s0 (execNot f s) := laneOp_keeps h

theorem execShl_keeps {s0 : State} {f : LFmt} {s : State} (h : keepsForm s0 s) : nextForm s0 (execShl f s) := laneOp_keeps h

theorem execShr_keeps {s0 : State} {f : LFmt} {s : State} (h : keepsForm s0 s) : nextForm s0 (execShr f s) := laneOp_keeps h

theorem execSar_keeps {s0 : State} {f : LFmt} {s : State} (h : keepsForm s0 s) : nextForm s0 (execSar f s) := laneOp_keeps h

theorem execPopc_keeps {s0 : State} {f : LFmt} {s : State} (h : keepsForm s0 s) : nextForm s0 (execPopc f s) := laneOp_keeps h

theorem execClz_keeps {s0 : State} {f : LFmt} {s : State} (h : keepsForm s0 s) : nextForm s0 (execClz f s) := laneOp_keeps h

theorem execBrev_keeps {s0 : State} {f : LFmt} {s : State} (h : keepsForm s0 s) : nextForm s0 (execBrev f s) := laneOp_keeps h

theorem execRcp_keeps {s0 : State} {f : LFmt} {s : State} (h : keepsForm s0 s) : nextForm s0 (execRcp f s) := laneOp_keeps h

theorem execRsq_keeps {s0 : State} {f : LFmt} {s : State} (h : keepsForm s0 s) : nextForm s0 (execRsq f s) := laneOp_keeps h

theorem execExp2_keeps {s0 : State} {f : LFmt} {s : State} (h : keepsForm s0 s) : nextForm s0 (execExp2 f s) := laneOp_keeps h

theorem execLog2_keeps {s0 : State} {f : LFmt} {s : State} (h : keepsForm s0 s) : nextForm s0 (execLog2 f s) := laneOp_keeps h

theorem execSin_keeps {s0 : State} {f : LFmt} {s : State} (h : keepsForm s0 s) : nextForm s0 (execSin f s) := laneOp_keeps h

theorem execCos_keeps {s0 : State} {f : LFmt} {s : State} (h : keepsForm s0 s) : nextForm s0 (execCos f s) := laneOp_keeps h

theorem execDot2_keeps {s0 : State} {f : LFmt} {s : State} (h : keepsForm s0 s) : nextForm s0 (execDot2 f s) := laneOp_keeps h

theorem execBfx_keeps {s0 : State} {f : LFmt} {s : State} (h : keepsForm s0 s) : nextForm s0 (execBfx f s) := laneOp_keeps h

theorem execBfi_keeps {s0 : State} {f : LFmt} {s : State} (h : keepsForm s0 s) : nextForm s0 (execBfi f s) := laneOp_keeps h

theorem execPack_keeps {s0 : State} {f : LFmt} {s : State} (h : keepsForm s0 s) : nextForm s0 (execPack f s) := laneOp_keeps h

theorem execCmp_keeps {s0 : State} {f : LFmt} {s : State} (h : keepsForm s0 s) : nextForm s0 (execCmp f s) := predOp_keeps h

theorem execSel_keeps {s0 : State} {f : LFmt} {s : State} (h : keepsForm s0 s) : nextForm s0 (execSel f s) := laneOp_keeps h

theorem execBallot_keeps {s0 : State} {f : LFmt} {s : State} (h : keepsForm s0 s) : nextForm s0 (execBallot f s) := by
  unfold execBallot
  refine asGroup_keeps h fun c => ?_
  split
  · exact .ok h
  · exact .ok h

theorem execLshf_keeps {s0 : State} {f : LFmt} {s : State} (h : keepsForm s0 s) : nextForm s0 (execLshf f s) := laneOp_keeps h

theorem execPand_keeps {s0 : State} {f : LFmt} {s : State} (h : keepsForm s0 s) : nextForm s0 (execPand f s) := predOp_keeps h

theorem execPor_keeps {s0 : State} {f : LFmt} {s : State} (h : keepsForm s0 s) : nextForm s0 (execPor f s) := predOp_keeps h

theorem execPxor_keeps {s0 : State} {f : LFmt} {s : State} (h : keepsForm s0 s) : nextForm s0 (execPxor f s) := predOp_keeps h

theorem execPnot_keeps {s0 : State} {f : LFmt} {s : State} (h : keepsForm s0 s) : nextForm s0 (execPnot f s) := predOp_keeps h

theorem execRand_keeps {s0 : State} {f : LFmt} {s : State} (h : keepsForm s0 s) : nextForm s0 (execRand f s) := laneOp_keeps h

theorem execCvt_keeps {s0 : State} {f : LFmt} {s : State} (h : keepsForm s0 s) : nextForm s0 (execCvt f s) := laneOp_keeps h

/-! ### Trap -/

theorem execTrap_keeps {s0 : State} {f : SFmt} {s : State} (h : keepsForm s0 s) : nextForm s0 (execTrap f s) := by
  unfold execTrap
  refine asGroup_keeps h fun c => ?_
  split
  · exact .ok h
  · exact .error

theorem execSyscall_keeps {s0 : State} {f : SFmt} {s : State} (h : keepsForm s0 s) : nextForm s0 (execSyscall f s) := by
  unfold execSyscall
  exact asOnce_keeps h fun c => .error

theorem clearPend_keeps {s0 s : State} {o : Origin} (h : keepsForm s0 s) : keepsForm s0 (clearPend s o) := by
  unfold clearPend
  split
  · exact h
  · exact h

theorem resolveLane_keeps {s0 s : State} {g : Group} {mode lane : Nat} (h : keepsForm s0 s) :
    keepsForm s0 (resolveLane s g mode lane) := by
  unfold resolveLane
  split
  · exact h
  · extract_lets s1
    have hs1 : keepsForm s0 s1 := clearPend_keeps h
    split
    · exact resolveRemote_keeps hs1
    · exact resolveOrigin_keeps hs1

theorem resolveLanes_keeps {s0 s : State} {gid mode : Nat} {m : Mask} (h : keepsForm s0 s) :
    keepsForm s0 (resolveLanes s gid mode m) := by
  unfold resolveLanes
  split
  · exact h
  · exact .congr (.foldl (fun _ _ h => resolveLane_keeps h) h) rfl rfl

theorem execTrapret_keeps {s0 : State} {f : SFmt} {s : State} (h : keepsForm s0 s) : nextForm s0 (execTrapret f s) := by
  unfold execTrapret
  refine asGroup_keeps h fun c => ?_
  split
  · exact .error
  · split
    · exact .error
    · exact .ok (.congr (resolveLanes_keeps h) rfl rfl)

theorem releaseRed_keeps {s0 s : State} {gid id : Nat} (h : keepsForm s0 s) : keepsForm s0 (releaseRed s gid id) := by
  unfold releaseRed
  extract_lets mine
  split
  · exact h
  · exact flushPoint_keeps h

theorem renameArrive_keeps {s0 s : State} {gid id : Nat} (h : keepsForm s0 s) : keepsForm s0 (renameArrive s gid id) := by
  unfold renameArrive
  split
  · split
    · split
      · exact arriveFault_keeps h
      · next s1 hx3 =>
        have hs1 : keepsForm s0 s1 := nameAt_keeps h _ hx3
        exact .congr hs1 rfl rfl
    · exact h
  · exact h

theorem applyReplayed_keeps {s0 s : State} {gid : Nat} {r : Resolution} (h : keepsForm s0 s) :
    keepsForm s0 (applyReplayed s gid r) := by
  unfold applyReplayed
  extract_lets s1 s2
  split
  · exact renameArrive_keeps (entryOver_keeps h)
  · exact releaseRed_keeps (entryOver_keeps h)

theorem applyCompletion_keeps {s0 s : State} {gid : Nat} {r : Resolution} (h : keepsForm s0 s) :
    keepsForm s0 (applyCompletion s gid r) := by
  unfold applyCompletion
  split
  · exact h
  · split
    · extract_lets g1
      split
      · exact h
      · split
        · exact sendReq_keeps h
        · exact h
    · exact h

theorem applyResolutions_keeps {s0 s : State} {gid : Nat} (h : keepsForm s0 s) : keepsForm s0 (applyResolutions s gid) := by
  unfold applyResolutions
  split
  · exact h
  · split
    · exact h
    · refine .congr (.foldl (fun s x h => ?_) (State.putG_keeps h)) rfl rfl
      split
      · exact applyReplayed_keeps h
      · split
        · exact applyCompletion_keeps h
        · exact h

theorem resolveExited_keeps {s0 s : State} {gid : Nat} (h : keepsForm s0 s) : keepsForm s0 (resolveExited s gid) := by
  unfold resolveExited
  split
  · exact h
  · extract_lets m
    split
    · exact resolveLanes_keeps h
    · exact h

theorem execHandlerGroupStart_keeps {s0 : State} {core slot : Nat} {s : State} (h : keepsForm s0 s) :
    nextForm s0 (execHandlerGroupStart core slot s) := by
  unfold execHandlerGroupStart
  split
  · exact .next h
  · extract_lets c
    split
    · exact .next h
    · split
      · exact .next h
      · exact .next (learn_keeps (refreshAt_keeps h))

/-! ### Sync -/

theorem execBarinit_keeps {s0 : State} {f : EFmt} {s : State} (h : keepsForm s0 s) : nextForm s0 (execBarinit f s) := by
  unfold execBarinit
  refine asOnce_keeps h fun c => ?_
  refine .bind fun a ha => ?_
  extract_lets name kind
  refine .bind fun a ha => ?_
  split
  · extract_lets o jp
    have hjp : ∀ u, okForm s0 (fun t => t) (jp u) := by
      intro u
      refine .bind fun a ha => ?_
      split
      · extract_lets s2 jp1
        have hjp1 : ∀ u, okForm s0 (fun t => t) (jp1 u) := by
          intro u
          exact .ok (wakeObj_keeps (postDoneAs_keeps (objSeen_keeps (objTag_keeps (objWr_keeps (Iss.barObject_keeps h _ ha))))))
        split
        · exact .bind fun a ha => hjp1 a
        · exact hjp1 ()
    split
    · exact .bind fun a ha => hjp a
    · exact hjp ()

theorem execBarfree_keeps {s0 : State} {f : EFmt} {s : State} (h : keepsForm s0 s) : nextForm s0 (execBarfree f s) := by
  unfold execBarfree
  refine asOnce_keeps h fun c => ?_
  refine .bind fun a ha => ?_
  refine .bind fun a ha => ?_
  split
  · extract_lets s2 s3
    have hs3 : keepsForm s0 s3 := by
      unfold s3
      split
      · exact objSeen_keeps (objWr_keeps (Iss.barObject_keeps h _ ha))
      · exact objTag_keeps (objSeen_keeps (objWr_keeps (Iss.barObject_keeps h _ ha)))
    exact .ok (postDoneAs_keeps hs3)

theorem execBararr_keeps {s0 : State} {f : EFmt} {s : State} (h : keepsForm s0 s) : nextForm s0 (execBararr f s) := by
  unfold execBararr
  refine asOnce_keeps h fun c => ?_
  refine .bind fun a ha => ?_
  extract_lets name
  refine .bind fun a ha => ?_
  split
  · next s1 =>
    have hs1 : keepsForm s0 s1 := Iss.barObject_keeps h _ ha
    extract_lets id red s2
    have hs2 : keepsForm s0 s2 := post_keeps hs1
    exact .ok (.congr hs2 rfl rfl)

theorem execBarwait_keeps {s0 : State} {f : EFmt} {s : State} (h : keepsForm s0 s) : nextForm s0 (execBarwait f s) := by
  unfold execBarwait
  refine asOnce_keeps h fun c => ?_
  refine .bind fun a ha => ?_
  refine .bind fun a ha => ?_
  split
  · next s1 =>
    have hs1 : keepsForm s0 s1 := Iss.barObject_keeps h _ ha
    extract_lets scope
    split
    · exact .ok (refreshGroup_keeps (postDone_keeps hs1))
    · exact .ok (postWait_keeps hs1)

theorem execBartest_keeps {s0 : State} {f : EFmt} {s : State} (h : keepsForm s0 s) : nextForm s0 (execBartest f s) := by
  unfold execBartest
  refine asOnce_keeps h fun c => ?_
  refine .bind fun a ha => ?_
  refine .bind fun a ha => ?_
  split
  · next s1 =>
    have hs1 : keepsForm s0 s1 := Iss.barObject_keeps h _ ha
    extract_lets phase ok s2
    have hs2 : keepsForm s0 s2 := postDone_keeps hs1
    refine .ok ?_
    split
    · exact refreshGroup_keeps hs2
    · exact .congr hs2 rfl rfl

theorem applyArrive_keeps {s0 s : State} {gid : Nat} {g : Group} {e : Entry} {loc : ObjLoc} {n : Nat} (h : keepsForm s0 s) :
    keepsForm s0 (applyArrive s gid g e loc n) := by
  unfold applyArrive
  split
  · exact h
  · exact applyObj_keeps (modEntry_keeps (published_keeps h))

theorem discardLines_keeps {s0 s : State} {core ctx : Nat} (h : keepsForm s0 s) :
    keepsForm s0 (discardLines s core ctx) := .congr h rfl rfl

theorem endPublish_keeps {s0 a0 : State} {gid pos : Nat} {g : Group} {scope : Scope} {fence : Bool} (h : keepsForm s0 a0) :
    keepsForm s0 (endPublish a0 gid pos g scope fence) := by
  unfold endPublish
  extract_lets s s1
  have hs : keepsForm s0 s := published_keeps h
  have hs1 : keepsForm s0 s1 := .congr hs rfl rfl
  split
  · exact discardLines_keeps hs1
  · exact hs1

theorem stepPublish_keeps {s0 s : State} {gid : Nat} (h : keepsForm s0 s) : keepsForm s0 (stepPublish s gid) := by
  unfold stepPublish
  split
  · exact h
  · refine .foldl (fun s x h => ?_) h
    split
    · split
      · exact endPublish_keeps h
      · exact h
    · exact h

theorem publish_keeps {s0 : State} {i : Instr} {gd : Guard} {scope : Scope} {fence : Bool} {s : State} (h : keepsForm s0 s) :
    nextForm s0 (publish i gd scope fence s) := by
  unfold publish
  exact asOnce_keeps h fun c => .bind fun a ha => .ok (stepPublish_keeps (flushPoint_keeps h))

theorem execPublish_keeps {s0 : State} {f : MFmt} {s : State} (h : keepsForm s0 s) : nextForm s0 (execPublish f s) := publish_keeps h

theorem execRefresh_keeps {s0 : State} {f : MFmt} {s : State} (h : keepsForm s0 s) : nextForm s0 (execRefresh f s) := by
  unfold execRefresh
  exact asOnce_keeps h fun c => .bind fun a ha => .ok (refreshGroup_keeps (postDoneAs_keeps h))

theorem execIfence_keeps {s0 : State} {f : MFmt} {s : State} (h : keepsForm s0 s) : nextForm s0 (execIfence f s) := publish_keeps h

theorem reportHeld_keeps {s0 s : State} {gid : Nat} (h : keepsForm s0 s) : keepsForm s0 (reportHeld s gid) := by
  unfold reportHeld
  split
  · exact h
  · split
    · exact h
    · exact .foldl (fun _ _ h => raiseTrap_keeps h) h

theorem modBar_keeps {s0 s : State} {launch k : Nat} {fn : GridBar → GridBar} (h : keepsForm s0 s) :
    keepsForm s0 (modBar s launch k fn) := .congr h rfl rfl

theorem ensureBar_keeps {s0 s : State} {launch k : Nat} (h : keepsForm s0 s) : keepsForm s0 (ensureBar s launch k) := by
  unfold ensureBar
  split
  · exact h
  · exact h

theorem gridTrap_keeps {s0 s : State} {launch k gid : Nat} (h : keepsForm s0 s) : keepsForm s0 (gridTrap s launch k gid) := by
  unfold gridTrap
  split
  · exact h
  · split
    · exact h
    · exact raiseTrap_keeps h

theorem gridMismatch_keeps {s0 s : State} {launch k gid : Nat} {scope : Scope} (h : keepsForm s0 s) :
    keepsForm s0 (gridMismatch s launch k gid scope) := by
  unfold gridMismatch
  split
  · exact h
  · exact h

theorem gridTraps_keeps {s0 s : State} {launch k : Nat} (h : keepsForm s0 s) : keepsForm s0 (gridTraps s launch k) := by
  unfold gridTraps
  split
  · exact h
  · exact .foldl (fun _ _ h => gridTrap_keeps h) h

theorem gridArrive_keeps {s0 s : State} {gid : Nat} (h : keepsForm s0 s) : keepsForm s0 (gridArrive s gid) := by
  unfold gridArrive
  split
  · exact h
  · split
    · exact h
    · extract_lets launch here s11
      have hs11 : keepsForm s0 s11 := gridMismatch_keeps (ensureBar_keeps (published_keeps h))
      split
      · exact h
      · exact gridTraps_keeps (modBar_keeps hs11)

theorem domainOk_keeps {s0 s : State} {b : GridBar} {gid : Nat} (h : keepsForm s0 s) : keepsForm s0 (domainOk s b gid).2 := by
  unfold domainOk
  split
  · exact h
  · split
    · exact h
    · split
      · exact h
      · exact .foldl (fun _ _ h => State.send_keeps h) h

theorem gridComplete_keeps {s0 s : State} {b : GridBar} {members : List Nat} {scope : Scope} (h : keepsForm s0 s) :
    keepsForm s0 (gridComplete s b members scope).2 := by
  unfold gridComplete
  split
  next left s1 hd =>
  have h1 : keepsForm s0 s1 := .snd (drainList_keeps h) hd
  extract_lets s2 s3
  split
  · exact h1
  · have h2 : keepsForm s0 (members.foldl (fun s m => published s m scope.code) s2) := .foldl (fun _ _ h => published_keeps h) h1
    have h3 : keepsForm s0 s3 := by
      refine .foldl (fun s x h => ?_) h2
      split
      · exact h
      · exact refreshGroup_keeps h
    exact h3

theorem gridTryOne_keeps {s0 s : State} {launch k : Nat} {a : Nat × Scope} (h : keepsForm s0 s) :
    keepsForm s0 (gridTryOne s launch k a) := by
  unfold gridTryOne
  split
  · exact h
  · extract_lets members job
    split
    · split
      · next s1 hx2 =>
        have hs1 : keepsForm s0 s1 := .snd (domainOk_keeps h) hx2
        split
        · split
          · next s2 hx4 =>
            have hs2 : keepsForm s0 s2 := .snd (gridComplete_keeps hs1) hx4
            split
            · exact .congr hs2 rfl rfl
            · exact hs2
        · exact hs1
    · exact gridComplete_keeps h

theorem gridTry_keeps {s0 s : State} {b : GridBar} (h : keepsForm s0 s) :
    keepsForm s0 (gridTry s b) := .foldl (fun _ _ h => gridTryOne_keeps h) h

theorem stepGrid_keeps {s0 s : State} (h : keepsForm s0 s) : keepsForm s0 (stepGrid s) := by
  unfold stepGrid
  extract_lets s1 s2
  have hs1 : keepsForm s0 s1 := .foldl (fun _ _ h => gridArrive_keeps h) h
  have hs2 : keepsForm s0 s2 := .foldl (fun _ _ h => gridTry_keeps h) hs1
  split
  · exact hs1
  · exact .congr hs2 rfl rfl

theorem execGridarr_keeps {s0 : State} {f : SFmt} {s : State} (h : keepsForm s0 s) : nextForm s0 (execGridarr f s) := by
  unfold execGridarr
  refine asOnce_keeps h fun c => ?_
  split
  · exact .error
  · exact .ok (modBar_keeps (ensureBar_keeps (State.putG_keeps h)))

theorem execDomainBarrierStep_keeps {s0 : State} {job rank k : Nat} {s : State} (h : keepsForm s0 s) :
    nextForm s0 (execDomainBarrierStep job rank k s) := by
  unfold execDomainBarrierStep
  split
  · exact .next h
  · split
    · exact .next h
    · refine .next ?_
      split
      · exact h
      · exact h

/-! ### Mortise -/

theorem storeMq_keeps {s0 s : State} {q : MQ} (h : keepsForm s0 s) : keepsForm s0 (storeMq s q) := .congr (objWr_keeps h) rfl rfl

theorem wakePegs_keeps {s0 s : State} {pa seq status : Nat} (h : keepsForm s0 s) : keepsForm s0 (wakePegs s pa seq status) := by
  unfold wakePegs
  refine .foldl (fun s x h => ?_) h
  split
  · exact h
  · refine .foldl (fun s x h => ?_) h
    split
    · split
      · extract_lets done s1
        split
        · exact refreshGroup_keeps h
        · exact h
      · exact h
    · exact h

theorem storeTurn_keeps {s0 s : State} {q : MQ} (h : keepsForm s0 s) : keepsForm s0 (storeTurn s q) := by
  unfold storeTurn
  extract_lets s1
  split
  · split
    · exact wakePegs_keeps (storeMq_keeps h)
    · exact storeMq_keeps h
  · exact storeMq_keeps h

theorem dropPlace_keeps {s0 s : State} {q : MQ} {i : Nat} (h : keepsForm s0 s) : keepsForm s0 (dropPlace s q i) := by
  unfold dropPlace
  split
  · exact wakePegs_keeps (storeMq_keeps h)
  · exact storeTurn_keeps h

theorem execMortiseSkipStep_keeps {s0 : State} {pa : Nat} {s : State} (h : keepsForm s0 s) :
    nextForm s0 (execMortiseSkipStep pa s) := by
  unfold execMortiseSkipStep
  split
  · exact .next h
  · extract_lets q
    split
    · exact .next h
    · split
      · exact .next (storeMq_keeps h)
      · exact .next (storeTurn_keeps h)

theorem abandonPegs_keeps {s0 s : State} {g : Group} (h : keepsForm s0 s) : keepsForm s0 (abandonPegs s g) := by
  unfold abandonPegs
  extract_lets ms
  refine .foldl (fun s x h => ?_) h
  extract_lets mine
  refine .foldl (fun s x h => ?_) h
  split
  · exact h
  · exact dropPlace_keeps h

theorem Iss.mortise_keeps {s0 : State} {c : Iss} {s : State} {a : Acc} {f : MFmt} {valid : Bool} (h : keepsForm s0 s) :
    okForm s0 (fun r => r.2) (Iss.mortise c s a f valid) := by
  unfold Iss.mortise
  extract_lets va
  split
  · exact .error
  · split
    · exact .error
    · next hx1 =>
      split
      · exact .error
      · split
        · exact .error
        · split
          · exact .error
          · exact .ok (scratchAt_keeps h _ hx1)

theorem execMortinit_keeps {s0 : State} {f : MFmt} {s : State} (h : keepsForm s0 s) : nextForm s0 (execMortinit f s) := by
  unfold execMortinit
  refine asOnce_keeps h fun c => ?_
  refine .bind fun a ha => ?_
  refine .bind fun p hp => ?_
  have h1 : keepsForm s0 p.2 := Iss.mortise_keeps h _ hp
  split
  extract_lets va m s2 jp
  have h2 : keepsForm s0 s2 := objSeen_keeps (objTag_keeps (objWr_keeps h1))
  clear_value s2
  have hjp : ∀ u, okForm s0 (fun t => t) (jp u) := by
    intro u
    dsimp only [jp]
    split
    · exact .ok (postDone_keeps h1)
    · exact .ok (postDone_keeps h2)
  clear_value jp
  split
  · exact .bind fun b _ => hjp b
  · exact hjp ()

theorem execMortinitFree_keeps {s0 : State} {f : MFmt} {s : State} (h : keepsForm s0 s) : nextForm s0 (execMortinitFree f s) := by
  unfold execMortinitFree
  refine asOnce_keeps h fun c => ?_
  refine .bind fun a ha => ?_
  refine .bind fun a ha => ?_
  split
  · extract_lets m s2
    split
    · exact .ok (postDoneAs_keeps (Iss.mortise_keeps h _ ha))
    · exact .ok (postDoneAs_keeps (objSeen_keeps (objTag_keeps (objWr_keeps (Iss.mortise_keeps h _ ha)))))

theorem execMortacq_keeps {s0 : State} {f : MFmt} {s : State} (h : keepsForm s0 s) : nextForm s0 (execMortacq f s) := by
  unfold execMortacq
  refine asOnce_keeps h fun c => ?_
  refine .bind fun a ha => ?_
  refine .bind fun a ha => ?_
  split
  · extract_lets q setP seq only
    split
    · exact .ok (postDoneAs_keeps (Iss.mortise_keeps h _ ha))
    · exact .ok (postDoneAs_keeps (objSeen_keeps (storeMq_keeps (Iss.mortise_keeps h _ ha))))

theorem execPegwait_keeps {s0 : State} {f : MFmt} {s : State} (h : keepsForm s0 s) : nextForm s0 (execPegwait f s) := by
  unfold execPegwait
  refine asOnce_keeps h fun c => ?_
  refine .bind fun a ha => ?_
  refine .bind fun a ha => ?_
  split
  · next s1 =>
    have hs1 : keepsForm s0 s1 := Iss.mortise_keeps h _ ha
    extract_lets q now acq
    split
    · refine .ok ?_
      dsimp only [now]
      split
      · exact refreshGroup_keeps (postDone_keeps hs1)
      · exact postDone_keeps hs1
    · split
      · refine .ok ?_
        dsimp only [now]
        split
        · exact refreshGroup_keeps (postDone_keeps hs1)
        · exact postDone_keeps hs1
      · exact .ok (postWait_keeps hs1)

theorem execPeggive_keeps {s0 : State} {f : MFmt} {s : State} (h : keepsForm s0 s) : nextForm s0 (execPeggive f s) := by
  unfold execPeggive
  refine asOnce_keeps h fun c => ?_
  refine .bind fun a ha => ?_
  refine .bind fun a ha => ?_
  split
  · extract_lets q answer
    split
    · exact .ok (postDoneAs_keeps (Iss.mortise_keeps h _ ha))
    · split
      · exact .ok (postDoneAs_keeps (Iss.mortise_keeps h _ ha))
      · split
        · exact .ok (postDoneAs_keeps (Iss.mortise_keeps h _ ha))
        · exact .ok (postDoneAs_keeps (objSeen_keeps (storeMq_keeps (Iss.mortise_keeps h _ ha))))

theorem execPegswap_keeps {s0 : State} {f : MFmt} {s : State} (h : keepsForm s0 s) : nextForm s0 (execPegswap f s) := by
  unfold execPegswap
  refine asOnce_keeps h fun c => ?_
  refine .bind fun a ha => ?_
  refine .bind fun a ha => ?_
  split
  · extract_lets q answer
    split
    · split
      · exact .ok (postDoneAs_keeps (Iss.mortise_keeps h _ ha))
      · split
        · exact .ok (postDoneAs_keeps (Iss.mortise_keeps h _ ha))
        · split
          · exact .ok (postDoneAs_keeps (Iss.mortise_keeps h _ ha))
          · exact .ok (postDoneAs_keeps (objSeen_keeps (storeMq_keeps (Iss.mortise_keeps h _ ha))))
    · exact .ok (postDoneAs_keeps (Iss.mortise_keeps h _ ha))

theorem leavePlace_keeps {s0 s : State} {g : Group} {pa peg : Nat} {drop : Bool} (h : keepsForm s0 s) :
    keepsForm s0 (leavePlace s g pa peg drop).2 := by
  unfold leavePlace
  dsimp only
  split
  · exact h
  · split
    · exact h
    · split
      · exact h
      · exact objSeen_keeps (dropPlace_keeps h)

theorem leave_keeps {s0 : State} {i : Instr} {f : MFmt} {drop : Bool} {s : State} (h : keepsForm s0 s) :
    nextForm s0 (leave i f drop s) := by
  unfold leave
  refine asOnce_keeps h fun c => ?_
  refine .bind fun a ha => ?_
  refine .bind fun a ha => ?_
  split
  · next s1 =>
    have hs1 : keepsForm s0 s1 := Iss.mortise_keeps h _ ha
    split
    · exact .ok (post_keeps hs1)
    · split
      · next s2 hx1 =>
        have hs2 : keepsForm s0 s2 := .snd (leavePlace_keeps (released_keeps hs1)) hx1
        split
        · exact .ok hs2
        · exact .ok (postDone_keeps hs2)

theorem execPegdrop_keeps {s0 : State} {f : MFmt} {s : State} (h : keepsForm s0 s) : nextForm s0 (execPegdrop f s) := leave_keeps h

theorem execMortrel_keeps {s0 : State} {f : MFmt} {s : State} (h : keepsForm s0 s) : nextForm s0 (execMortrel f s) := leave_keeps h

theorem applyLeave_keeps {s0 s : State} {gid : Nat} {g : Group} {e : Entry} {pa peg : Nat} {drop : Bool} (h : keepsForm s0 s) :
    keepsForm s0 (applyLeave s gid g e pa peg drop) := by
  unfold applyLeave
  split
  · exact h
  · split
    · exact h
    · split
      next n s1 hx =>
      have h1 : keepsForm s0 s1 := by
        refine .ofSnd hx ?_
        split
        · exact leavePlace_keeps (released_keeps h)
        · exact h
      exact entryOver_keeps (laneDone_keeps h1)

theorem performRef_keeps {s0 s : State} {gid id lane : Nat} {resp : Line} (h : keepsForm s0 s) :
    keepsForm s0 (performRef s gid id lane resp) := by
  unfold performRef
  split
  · exact h
  · split
    · exact h
    · split
      · exact performEntry_keeps h
      · split
        · exact h
        · exact applyArrive_keeps h
      · split
        · exact h
        · exact applyLeave_keeps h
      · split
        · exact entryOver_keeps h
        · exact h
      · exact h

theorem performFrame_keeps {s0 s : State} {i : Nat} (h : keepsForm s0 s) : keepsForm s0 (performFrame s i) := by
  unfold performFrame
  split
  · exact h
  · split
    · exact h
    · exact .congr (State.wr_keeps h) rfl rfl

theorem execMemoryAccessPerformed_keeps {s0 : State} {ref : AccessRef} {resp : Line} {s : State} (h : keepsForm s0 s) :
    nextForm s0 (execMemoryAccessPerformed ref resp s) := by
  unfold execMemoryAccessPerformed
  refine .next ?_
  split
  · exact performRef_keeps h
  · exact performFrame_keeps h
  · exact retryHeld_keeps h
  · exact drainGroup_keeps h

/-! ### Issue -/

theorem prepareAt_keeps {s0 : State} {first : Bool} {s : State} {gid pos : Nat} (h : keepsForm s0 s) :
    (prepareAt first s gid pos).keeps s0 := by
  unfold prepareAt
  split
  · exact trivial
  · extract_lets g1
    split
    · exact trivial
    · split
      · exact trivial
      · split
        · exact h
        · split
          · exact trivial
          · split
            · exact trivial
            · extract_lets act s11
              split
              · change keepsForm s0 _
                split
                · exact h
                · exact h
              · extract_lets s2
                have hs2 : keepsForm s0 s2 := by
                  unfold s2
                  split
                  · exact h
                  · exact h
                exact raiseTrap_keeps hs2

theorem execFetchLine_keeps {s0 : State} {gid pos : Nat} {refill : Bool} {s : State} (h : keepsForm s0 s) :
    nextForm s0 (execFetchLine gid pos refill s) := by
  unfold execFetchLine
  split
  · exact .next h
  · split
    · exact .next h
    · split
      · exact .next h
      · split
        · next s2 hx3 =>
          have hs2 : keepsForm s0 s2 := peekLine_keeps h _ hx3
          exact .next (State.putG_keeps hs2)
        · exact .next (raiseTrap_keeps h)

theorem execGroupUrgent_keeps {s0 : State} {gid : Nat} {s : State} (h : keepsForm s0 s) : nextForm s0 (execGroupUrgent gid s) := by
  unfold execGroupUrgent
  split
  · exact .next h
  · split
    · exact .next h
    · exact .next h

theorem execThrottleReselect_keeps {s0 : State} {core part : Nat} {s : State} (h : keepsForm s0 s) :
    nextForm s0 (execThrottleReselect core part s) := .next h

theorem throttleAll_keeps {s0 s : State} (h : keepsForm s0 s) : keepsForm s0 (throttleAll s) := by
  unfold throttleAll
  split
  · exact h
  · exact h

theorem execCongestionWindow_keeps {s0 : State} {quad m : Nat} {s : State} (h : keepsForm s0 s) :
    nextForm s0 (execCongestionWindow quad m s) := by
  unfold execCongestionWindow
  split
  · exact .next h
  · exact .next h

/-! ### Save -/

theorem spillGroup_keeps {s0 s : State} {gid : Nat} {g : Group} {at0 : Nat} (h : keepsForm s0 s) :
    keepsForm s0 (spillGroup s gid g at0) := by
  unfold spillGroup
  exact State.putG_keeps (State.wr_keeps (State.wr_keeps (State.wr_keeps h)))

theorem spillTeam_keeps {s0 s : State} {tid : Nat} {t : Team} {at0 : Nat} (h : keepsForm s0 s) (ht : s0.memWf = true → t.mem.wf = true) :
    keepsForm s0 (spillTeam s tid t at0) :=
  .setTeam (State.wr_keeps h) ht

theorem spillCore_keeps {s0 s : State} {core ctx : Nat} (h : keepsForm s0 s) : keepsForm s0 (spillCore s core ctx) := by
  unfold spillCore
  refine .foldlMem (fun t x hx ht => spillTeam_keeps ht fun h0 => memWf_of_mem (h h0) (mem_teams_of_mem_teamsOn hx)) ?_
  exact .foldl (fun _ _ h => spillGroup_keeps h) h

theorem fillGroup_keeps {s0 s : State} {gid : Nat} {g : Group} {at0 : Nat} (h : keepsForm s0 s) :
    keepsForm s0 (fillGroup s gid g at0) := h

theorem fillTeam_keeps {s0 s : State} {tid : Nat} {t : Team} {at0 : Nat} (h : keepsForm s0 s) (ht : s0.memWf = true → t.mem.wf = true) :
    keepsForm s0 (fillTeam s tid t at0) := by
  unfold fillTeam
  refine .setTeam h fun h0 => ?_
  dsimp only
  split
  · exact ht h0
  · exact Memory.wf_store (ht h0) _ _

theorem fillCore_keeps {s0 s : State} {core ctx : Nat} (h : keepsForm s0 s) : keepsForm s0 (fillCore s core ctx) := by
  unfold fillCore
  refine .foldl (fun s x h => ?_) (.foldlMem (fun t x hx ht => ?_) h)
  · split
    · exact fillGroup_keeps h
    · exact h
  · split
    · exact fillTeam_keeps ht fun h0 => memWf_of_mem (h h0) (mem_teams_of_mem_teamsOn hx)
    · exact ht

theorem saveNew_keeps {s0 s : State} {core ctx : Nat} (h : keepsForm s0 s) : keepsForm s0 (saveNew s core ctx) := by
  unfold saveNew
  extract_lets c
  split
  · exact h
  · exact spillCore_keeps (fillCore_keeps h)

theorem writeDiff_keeps {s0 s : State} {a : Nat} {old new : List Byte} (h : keepsForm s0 s) :
    keepsForm s0 (writeDiff s a old new) := by
  unfold writeDiff
  split
  · exact h
  · split
    · exact State.wr_keeps h
    · refine .foldl (fun s x h => ?_) h
      split
      · exact h
      · exact State.wr_keeps h

theorem followGroup_keeps {s0 before s : State} {gid : Nat} {g : Group} (hs : keepsForm s0 s) :
    keepsForm s0 (followGroup before s gid g) := by
  unfold followGroup
  split
  · split
    · exact hs
    · exact writeDiff_keeps (writeDiff_keeps (writeDiff_keeps hs))
  · exact hs

theorem followTeam_keeps {s0 before s : State} {tid : Nat} {t : Team} (hs : keepsForm s0 s) :
    keepsForm s0 (followTeam before s tid t) := by
  unfold followTeam
  split
  · split
    · exact hs
    · exact writeDiff_keeps hs
  · exact hs

theorem followSaved_keeps {s0 before s : State} (h : keepsForm s0 s) : keepsForm s0 (followSaved before s) :=
  .foldl (fun _ _ h => followTeam_keeps h) (.foldl (fun _ _ h => followGroup_keeps h) h)

/-! ### Finish -/

theorem stepCount_keeps {s0 s : State} {gid : Nat} (h : keepsForm s0 s) : keepsForm s0 (stepCount s gid) := by
  unfold stepCount
  split
  · exact h
  · refine .foldl (fun s x h => ?_) h
    split
    · split
      · exact .congr (ownCopies_keeps h) rfl rfl
      · exact h
    · exact h

theorem beginExit_keeps {s0 s : State} {gid : Nat} (h : keepsForm s0 s) : keepsForm s0 (beginExit s gid) := by
  unfold beginExit
  split
  · exact h
  · split
    · exact h
    · extract_lets s1
      split
      · exact flushPoint_keeps h
      · exact abandonPegs_keeps (flushPoint_keeps h)

theorem tidyGroup_keeps {s0 s : State} {gid : Nat} (h : keepsForm s0 s) :
    keepsForm s0 (tidyGroup s gid) :=
  stepCount_keeps (stepPublish_keeps (reportHeld_keeps (applyResolutions_keeps (resolveExited_keeps h))))

theorem settleFree_keeps {s0 s : State} {gid : Nat} (h : keepsForm s0 s) : keepsForm s0 (settleFree s gid) := by
  unfold settleFree
  split
  · exact h
  · split
    · exact h
    · extract_lets g1
      split
      · next hx2 => exact (settle_keeps h).ok hx2
      · split
        · exact raiseTrap_keeps h
        · exact raiseTrap_keeps h
        · exact h

theorem blameSpill_keeps {s0 before : State} {gid pos c d : Nat} {va : DWord} (h : keepsForm s0 before) :
    keepsForm s0 (blameSpill before gid pos c d va) := by
  unfold blameSpill
  split
  · exact h
  · exact raiseTrap_keeps h

theorem settleIssuer_keeps {s0 before s : State} {gid pos : Nat} (h : keepsForm s0 before) (hs : keepsForm s0 s) :
    keepsForm s0 (settleIssuer before s gid pos) := by
  unfold settleIssuer
  split
  · exact hs
  · split
    · exact hs
    · extract_lets old moved g1
      split
      · next hx2 => exact (settle_keeps hs).ok hx2
      · exact blameSpill_keeps h

theorem passNulls_keeps {s0 s : State} {gid : Nat} (h : keepsForm s0 s) : keepsForm s0 (passNulls s gid) := by
  unfold passNulls
  split
  · exact h
  · split
    · exact h
    · exact h

theorem slideNulls_keeps {s0 s : State} {n : Nat} (h : keepsForm s0 s) : keepsForm s0 (slideNulls n s) := by
  induction n generalizing s with
  | zero => exact h
  | succ n ih =>
    unfold slideNulls
    split
    · exact ih (.foldl (fun _ _ h => settleFree_keeps h) (.foldl (fun _ _ h => passNulls_keeps h) h))
    · exact h

theorem endJob_keeps {s0 s : State} {n : Nat} {j : FrameJob} (h : keepsForm s0 s) : keepsForm s0 (endJob s n j) := by
  unfold endJob
  split
  · exact h
  · extract_lets s1
    split
    · split
      · exact replyTo_keeps h
      · exact State.send_keeps h
    · exact creditRecord_keeps h
    · exact pieceInFrames_keeps h

theorem endJobs_keeps {s0 s : State} (h : keepsForm s0 s) : keepsForm s0 (endJobs s) := .foldl (fun _ _ h => endJob_keeps h) h

theorem finish_keeps {s0 before s : State} (h : keepsForm s0 before) (hs : keepsForm s0 s) : keepsForm s0 (finish before s) := by
  unfold finish
  extract_lets s1 s2 s3 s4
  have h1 : keepsForm s0 s1 := by
    refine endJobs_keeps ?_
    split
    · exact settleIssuer_keeps h hs
    · exact hs
  have h2 : keepsForm s0 s2 := .foldl (fun _ _ h => tidyGroup_keeps h) h1
  have h3 : keepsForm s0 s3 := slideNulls_keeps (.foldl (fun _ _ h => settleFree_keeps h) h2)
  have h4 : keepsForm s0 s4 := .foldl (fun _ _ h => beginExit_keeps h) h3
  clear_value s4
  have h5 : keepsForm s0 (followSaved before (throttleAll (stepGrid s4))) := followSaved_keeps (throttleAll_keeps (stepGrid_keeps h4))
  exact .congr h5 rfl rfl

/-! ### Launch -/

theorem State.putLq_keeps {s0 s : State} {n : Nat} {q : LQueue} (h : keepsForm s0 s) :
    keepsForm s0 (State.putLq s n q) := .congr h rfl rfl

theorem readRecord_keeps {s0 s : State} {q : LQueue} (h : keepsForm s0 s) : someForm s0 (fun r => r.2) (readRecord s q) := by
  unfold readRecord
  extract_lets va
  split
  · next hx => exact .some (xlate_keeps h _ hx)
  · exact .none

theorem recordBarAt_keeps {s0 s : State} {a : Acc} {ctx va : Nat} (h : keepsForm s0 s) :
    someForm s0 (fun r => r.2) (recordBarAt s a ctx va) := by
  unfold recordBarAt
  split
  · exact .none
  · split
    · next hx1 =>
      split
      · exact .some (scratchAt_keeps h _ hx1)
      · exact .none
    · exact .none

theorem completionBar_keeps {s0 s : State} {ctx va : Nat} (h : keepsForm s0 s) :
    someForm s0 (fun r => r.2) (completionBar s ctx va) := by
  unfold completionBar
  split
  · next hx => exact .some (recordBarAt_keeps h _ hx)
  · exact recordBarAt_keeps h

theorem prepQueue_keeps {s0 s : State} {n : Nat} (h : keepsForm s0 s) : keepsForm s0 (prepQueue s n) := by
  unfold prepQueue
  extract_lets q s11 s21
  split
  · exact h
  · split
    · exact .congr h rfl rfl
    · split
      · exact .congr h rfl rfl
      · split
        · exact h
        · split
          · exact .congr h rfl rfl
          · next s1 hx4 =>
            have hs1 : keepsForm s0 s1 := readRecord_keeps h _ hx4
            extract_lets code d0 d1 total l1
            split
            · exact .congr hs1 rfl rfl
            · split
              · exact .congr hs1 rfl rfl
              · split
                · exact .congr hs1 rfl rfl
                · exact .congr hs1 rfl rfl

theorem placeTeam_keeps {s0 s : State} {lid cl : Nat} {l : Launch} {o : Obj} {k : Kernel} {lcore core : Nat} (h : keepsForm s0 s) :
    keepsForm s0 (placeTeam s lid cl l o k lcore core) := by
  unfold placeTeam
  extract_lets swap q
  split
  next tid s1 hid =>
  have h1 : keepsForm s0 s1 := .ofSnd hid (State.takeId_keeps h)
  clear hid
  refine refreshAt_keeps (.congr (saveNew_keeps (.foldl (fun _ _ h => learn_keeps h) (State.putCore_keeps (State.putLq_keeps ?_)))) rfl rfl)
  exact .putTeams h1 rfl rfl fun _ => (Memory.wf_nil :)

theorem placeOne_keeps {s0 s : State} {n lid : Nat} {l : Launch} {o : Obj} {k : Kernel} {qd : Nat} {cores : List Nat} {idx : Nat}
    {ranges : List (Nat × Nat × Nat)} (h : keepsForm s0 s) : keepsForm s0 (placeOne s n lid l o k qd cores idx ranges) := by
  unfold placeOne
  split
  next cl s1 hx =>
  have h1 : keepsForm s0 s1 := .ofSnd hx (State.takeId_keeps h)
  extract_lets s2 s3 s4
  have h2 : keepsForm s0 s2 := .congr h1 rfl rfl
  have h3 : keepsForm s0 s3 := .foldl (fun _ _ h => placeTeam_keeps h) h2
  have h4 : keepsForm s0 s4 := .congr h3 rfl rfl
  split
  · exact State.putLq_keeps h4
  · exact h4

theorem execPlaceCluster_keeps {s0 s : State} (h : keepsForm s0 s) : nextForm s0 (execPlaceCluster s) := by
  unfold execPlaceCluster
  extract_lets s1 ready
  have h1 : keepsForm s0 s1 := .foldl (fun _ _ h => prepQueue_keeps h) h
  clear_value s1
  split
  · exact .next h1
  · split
    · exact .next h1
    · exact .next (placeOne_keeps h1)

theorem wakeGroups_keeps {s0 a0 : State} {core ctx : Nat} (h : keepsForm s0 a0) :
    keepsForm s0 (wakeGroups a0 core ctx) := .congr (fillCore_keeps h) rfl rfl

theorem nextActive_keeps {s0 s : State} {core : Nat} (h : keepsForm s0 s) : keepsForm s0 (nextActive s core) := by
  unfold nextActive
  extract_lets c has
  split
  · exact h
  · split
    · exact h
    · split
      · exact h
      · exact wakeGroups_keeps h

theorem releaseGroup_keeps {s0 s : State} {gid : Nat} {g : Group} (h : keepsForm s0 s) : keepsForm s0 (releaseGroup s gid g) := by
  unfold releaseGroup
  extract_lets s1 q s2 last cl cs s3
  have hs3 : keepsForm s0 s3 := by
    unfold s3
    split
    · exact h
    · exact .filterTeams h rfl rfl
  split
  · exact h
  · exact nextActive_keeps hs3

theorem execGroupExitRelease_keeps {s0 : State} {gid : Nat} {s : State} (h : keepsForm s0 s) :
    nextForm s0 (execGroupExitRelease gid s) := by
  unfold execGroupExitRelease
  split
  · exact .next h
  · split
    · exact .next (releaseGroup_keeps h)
    · exact .next h

theorem execLaunchComplete_keeps {s0 : State} {launch : Nat} {s : State} (h : keepsForm s0 s) :
    nextForm s0 (execLaunchComplete launch s) := by
  unfold execLaunchComplete
  split
  · exact .next h
  · split
    · exact .next h
    · extract_lets q s2 s1
      have h1 : keepsForm s0 s1 := .congr h rfl rfl
      clear_value s1
      split
      · exact .next h1
      · split
        · next s2 hx =>
          have h2 : keepsForm s0 s2 := completionBar_keeps h1 _ hx
          split
          · exact .next (applyObj_keeps h2)
          · exact .next h1
        · exact .next h1

theorem execLqtailWrite_keeps {s0 : State} {q : Nat} {val : DWord} {s : State} (h : keepsForm s0 s) :
    nextForm s0 (execLqtailWrite q val s) := by
  unfold execLqtailWrite
  extract_lets x
  split
  · exact .next h
  · exact .next h

theorem execLqstatErrClear_keeps {s0 : State} {q : Nat} {s : State} (h : keepsForm s0 s) : nextForm s0 (execLqstatErrClear q s) := by
  unfold execLqstatErrClear
  extract_lets x
  split
  · exact .next h
  · exact .next h

/-! ### Scribe -/

theorem takeStep_keeps {s0 s : State} {m : CollMsg} (h : keepsForm s0 s) : keepsForm s0 (takeStep s m) := by
  unfold takeStep
  split
  · exact h
  · split
    · exact State.send_keeps h
    · split
      · exact State.send_keeps h
      · exact State.send_keeps h

theorem returnMarker_keeps {s0 s : State} {p : Packet} (h : keepsForm s0 s) : keepsForm s0 (returnMarker s p) := by
  unfold returnMarker
  split
  · exact h
  · exact State.send_keeps h

theorem forward_keeps {s0 s : State} {p : Packet} {dir : Nat} (h : keepsForm s0 s) : keepsForm s0 (forward s p dir) := by
  unfold forward
  split
  · split
    · exact takeStep_keeps h
    · split
      · exact returnMarker_keeps h
      · exact remoteRequest_keeps h
  · split
    · exact State.send_keeps h
    · split
      · exact State.send_keeps h
      · exact State.send_keeps h

theorem discard_keeps {s0 s : State} {p : Packet} {dir : Nat} (h : keepsForm s0 s) : keepsForm s0 (discard s p dir) := by
  unfold discard
  split
  · exact State.nack_keeps h
  · split
    · exact forward_keeps h
    · exact State.send_keeps h

theorem sendEmits_keeps {s0 s : State} {proc : Nat} {ps : List Packet} (h : keepsForm s0 s) :
    keepsForm s0 (sendEmits s proc ps) := .foldl (fun _ _ h => forward_keeps h) h

theorem recordHere_keeps {s0 s : State} {ctx : Nat} {va bar : DWord} {bs : List Byte} (h : keepsForm s0 s) :
    keepsForm s0 (recordHere s ctx va bar bs) := by
  unfold recordHere
  split
  · exact .congr h rfl rfl
  · next s1 hx =>
    have hs1 : keepsForm s0 s1 := remoteXlate_keeps h _ hx
    split
    · exact .congr h rfl rfl
    · split
      · next s2 hx2 =>
        have hs2 : keepsForm s0 s2 := .snd (State.takeId_keeps hs1) hx2
        extract_lets s3
        have hs3 : keepsForm s0 s3 := wrTgt_keeps hs2
        refine afterFrames_keeps ?_ ?_
        · exact hs3
        · exact creditRecord_keeps hs3

theorem sendRecord_keeps {s0 s : State} {proc : Nat} {j : ScribeJob} {cause detail word steps : Nat} {p : Packet}
    (h : keepsForm s0 s) :
    keepsForm s0 (sendRecord s proc j cause detail word steps p) := by
  unfold sendRecord
  extract_lets bs va bar x s1 rank o
  split
  · exact recordHere_keeps h
  · exact State.send_keeps h

theorem scribeCheck_keeps {s0 s : State} {ctx : Nat} (h : keepsForm s0 s) : keepsForm s0 (scribeCheck s ctx) := by
  unfold scribeCheck
  extract_lets s01
  have hs01 : keepsForm s0 s01 := .congr h rfl rfl
  split
  · exact parkCtx_keeps hs01
  · split
    · next s1 hx1 =>
      have hs1 : keepsForm s0 s1 := .snd (State.takeId_keeps hs01) hx1
      extract_lets o1 c s2
      have hs2 : keepsForm s0 s2 := State.putCore_keeps hs1
      split
      · exact hs2
      · exact parkCtx_keeps hs2

theorem scribeTrap_keeps {s0 s : State} {c : Kn} {cause detail : Nat} (h : keepsForm s0 s) :
    keepsForm s0 (scribeTrap s c cause detail) := by
  unfold scribeTrap
  extract_lets p s11 s1 s2
  have hs2 : keepsForm s0 s2 := by
    unfold s2
    split
    · exact sendRecord_keeps (scribeCheck_keeps h)
    · exact sendRecord_keeps h
  split
  · exact discard_keeps hs2
  · exact forward_keeps hs2

theorem asScribe_keeps {s0 s : State} {f : Kn → Except (Nat × Nat) (Scribe × Invocation)} (h : keepsForm s0 s) :
    nextForm s0 (asScribe s f) := by
  unfold asScribe
  split
  · exact .fault
  · split
    · exact .next h
    · exact .next (scribeTrap_keeps h)

theorem scribeReg_keeps {s0 s : State} {f : Kn → Invocation} (h : keepsForm s0 s) : nextForm s0 (scribeReg s f) := asScribe_keeps h

theorem vecLanes_keeps {s0 : State} {d a b : BitVec 4} {m : BitVec 2} {s : State} {f : Word → Word → Word} (h : keepsForm s0 s) :
    nextForm s0 (vecLanes d a b m s f) := scribeReg_keeps h

theorem vecElem_keeps {s0 : State} {op : Nat} {d a b : BitVec 4} {m : BitVec 2} {t : BitVec 4} {s : State} (h : keepsForm s0 s) :
    nextForm s0 (vecElem op d a b m t s) := vecLanes_keeps h

theorem execVadd_keeps {s0 : State} {d a b : BitVec 4} {m : BitVec 2} {t : BitVec 4} {s : State} (h : keepsForm s0 s) :
    nextForm s0 (execVadd d a b m t s) := vecElem_keeps h

theorem execVsub_keeps {s0 : State} {d a b : BitVec 4} {m : BitVec 2} {t : BitVec 4} {s : State} (h : keepsForm s0 s) :
    nextForm s0 (execVsub d a b m t s) := vecElem_keeps h

theorem execVmul_keeps {s0 : State} {d a b : BitVec 4} {m : BitVec 2} {t : BitVec 4} {s : State} (h : keepsForm s0 s) :
    nextForm s0 (execVmul d a b m t s) := vecElem_keeps h

theorem execVmin_keeps {s0 : State} {d a b : BitVec 4} {m : BitVec 2} {t : BitVec 4} {s : State} (h : keepsForm s0 s) :
    nextForm s0 (execVmin d a b m t s) := by
  unfold execVmin
  exact vecElem_keeps h

theorem execVmax_keeps {s0 : State} {d a b : BitVec 4} {m : BitVec 2} {t : BitVec 4} {s : State} (h : keepsForm s0 s) :
    nextForm s0 (execVmax d a b m t s) := by
  unfold execVmax
  exact vecElem_keeps h

theorem execVand_keeps {s0 : State} {d a b : BitVec 4} {m : BitVec 2} {s : State} (h : keepsForm s0 s) :
    nextForm s0 (execVand d a b m s) := by
  unfold execVand
  exact vecLanes_keeps h

theorem execVor_keeps {s0 : State} {d a b : BitVec 4} {m : BitVec 2} {s : State} (h : keepsForm s0 s) :
    nextForm s0 (execVor d a b m s) := by
  unfold execVor
  exact vecLanes_keeps h

theorem execVxor_keeps {s0 : State} {d a b : BitVec 4} {m : BitVec 2} {s : State} (h : keepsForm s0 s) :
    nextForm s0 (execVxor d a b m s) := by
  unfold execVxor
  exact vecLanes_keeps h

theorem execVshl_keeps {s0 : State} {d a b : BitVec 4} {m : BitVec 2} {s : State} (h : keepsForm s0 s) :
    nextForm s0 (execVshl d a b m s) := by
  unfold execVshl
  exact vecLanes_keeps h

theorem execVshr_keeps {s0 : State} {d a b : BitVec 4} {m : BitVec 2} {s : State} (h : keepsForm s0 s) :
    nextForm s0 (execVshr d a b m s) := by
  unfold execVshr
  exact vecLanes_keeps h

theorem execVsar_keeps {s0 : State} {d a b : BitVec 4} {m : BitVec 2} {s : State} (h : keepsForm s0 s) :
    nextForm s0 (execVsar d a b m s) := by
  unfold execVsar
  exact vecLanes_keeps h

theorem execVsel_keeps {s0 : State} {d a b : BitVec 4} {m : BitVec 2} {s : State} (h : keepsForm s0 s) :
    nextForm s0 (execVsel d a b m s) := by
  unfold execVsel
  exact scribeReg_keeps h

theorem execVcmp_keeps {s0 : State} {d : BitVec 2} {a b : BitVec 4} {m : BitVec 2} {r : BitVec 3} {t : BitVec 4} {s : State}
    (h : keepsForm s0 s) :
    nextForm s0 (execVcmp d a b m r t s) := by
  unfold execVcmp
  exact scribeReg_keeps h

theorem execVbc_keeps {s0 : State} {d a : BitVec 4} {m : BitVec 2} {s : State} (h : keepsForm s0 s) :
    nextForm s0 (execVbc d a m s) := by
  unfold execVbc
  exact scribeReg_keeps h

theorem execVext_keeps {s0 : State} {d a l : BitVec 4} {s : State} (h : keepsForm s0 s) : nextForm s0 (execVext d a l s) := by
  unfold execVext
  exact scribeReg_keeps h

theorem execVins_keeps {s0 : State} {d a l : BitVec 4} {s : State} (h : keepsForm s0 s) : nextForm s0 (execVins d a l s) := by
  unfold execVins
  exact scribeReg_keeps h

theorem scalarK_keeps {s0 : State} {d a b : BitVec 4} {s : State} {f : Word → Word → Word} (h : keepsForm s0 s) :
    nextForm s0 (scalarK d a b s f) := scribeReg_keeps h

theorem execSadd_keeps {s0 : State} {d a b : BitVec 4} {s : State} (h : keepsForm s0 s) :
    nextForm s0 (execSadd d a b s) := scalarK_keeps h

theorem execSsub_keeps {s0 : State} {d a b : BitVec 4} {s : State} (h : keepsForm s0 s) :
    nextForm s0 (execSsub d a b s) := scalarK_keeps h

theorem execSand_keeps {s0 : State} {d a b : BitVec 4} {s : State} (h : keepsForm s0 s) :
    nextForm s0 (execSand d a b s) := scalarK_keeps h

theorem execSor_keeps {s0 : State} {d a b : BitVec 4} {s : State} (h : keepsForm s0 s) :
    nextForm s0 (execSor d a b s) := scalarK_keeps h

theorem execSxor_keeps {s0 : State} {d a b : BitVec 4} {s : State} (h : keepsForm s0 s) :
    nextForm s0 (execSxor d a b s) := scalarK_keeps h

theorem execSshl_keeps {s0 : State} {d a : BitVec 4} {n : BitVec 5} {s : State} (h : keepsForm s0 s) :
    nextForm s0 (execSshl d a n s) := scribeReg_keeps h

theorem execSshr_keeps {s0 : State} {d a : BitVec 4} {n : BitVec 5} {s : State} (h : keepsForm s0 s) :
    nextForm s0 (execSshr d a n s) := scribeReg_keeps h

theorem execSaddi_keeps {s0 : State} {d a : BitVec 4} {i : BitVec 12} {s : State} (h : keepsForm s0 s) :
    nextForm s0 (execSaddi d a i s) := scribeReg_keeps h

theorem execSmovi_keeps {s0 : State} {d : BitVec 4} {i : BitVec 22} {s : State} (h : keepsForm s0 s) :
    nextForm s0 (execSmovi d i s) := scribeReg_keeps h

theorem execSmovh_keeps {s0 : State} {d : BitVec 4} {i : BitVec 10} {s : State} (h : keepsForm s0 s) :
    nextForm s0 (execSmovh d i s) := scribeReg_keeps h

theorem execScmp_keeps {s0 : State} {d a b : BitVec 4} {u : BitVec 1} {r : BitVec 3} {s : State} (h : keepsForm s0 s) :
    nextForm s0 (execScmp d a b u r s) := scribeReg_keeps h

theorem execHrd_keeps {s0 : State} {d f : BitVec 4} {s : State} (h : keepsForm s0 s) : nextForm s0 (execHrd d f s) := scribeReg_keeps h

theorem execHwr_keeps {s0 : State} {a f : BitVec 4} {s : State} (h : keepsForm s0 s) : nextForm s0 (execHwr a f s) := asScribe_keeps h

theorem execPld_keeps {s0 : State} {d : BitVec 4} {s : State} (h : keepsForm s0 s) : nextForm s0 (execPld d s) := scribeReg_keeps h

theorem execPst_keeps {s0 : State} {a : BitVec 4} {m : BitVec 2} {s : State} (h : keepsForm s0 s) :
    nextForm s0 (execPst a m s) := scribeReg_keeps h

theorem execFld_keeps {s0 : State} {d a : BitVec 4} {o : BitVec 12} {s : State} (h : keepsForm s0 s) :
    nextForm s0 (execFld d a o s) := asScribe_keeps h

theorem execFst_keeps {s0 : State} {a b : BitVec 4} {m : BitVec 2} {o : BitVec 12} {s : State} (h : keepsForm s0 s) :
    nextForm s0 (execFst a b m o s) := asScribe_keeps h

theorem execRacc_keeps {s0 : State} {d a : BitVec 4} {o : BitVec 12} {s : State} (h : keepsForm s0 s) :
    nextForm s0 (execRacc d a o s) := asScribe_keeps h

theorem execEmit_keeps {s0 : State} {a b : BitVec 4} {r : BitVec 1} {s : State} (h : keepsForm s0 s) :
    nextForm s0 (execEmit a b r s) := asScribe_keeps h

theorem branchK_keeps {s0 : State} {o : BitVec 12} {s : State} {f : Kn → Bool} (h : keepsForm s0 s) :
    nextForm s0 (branchK o s f) := asScribe_keeps h

theorem execBnz_keeps {s0 : State} {a : BitVec 4} {o : BitVec 12} {s : State} (h : keepsForm s0 s) :
    nextForm s0 (execBnz a o s) := branchK_keeps h

theorem execBz_keeps {s0 : State} {a : BitVec 4} {o : BitVec 12} {s : State} (h : keepsForm s0 s) :
    nextForm s0 (execBz a o s) := branchK_keeps h

theorem execJmp_keeps {s0 : State} {o : BitVec 12} {s : State} (h : keepsForm s0 s) : nextForm s0 (execJmp o s) := branchK_keeps h

theorem execScribeRepeat_keeps {s0 : State} {d : BitVec 4} {b : BitVec 8} {n : BitVec 9} {s : State} (h : keepsForm s0 s) :
    nextForm s0 (execScribeRepeat d b n s) := asScribe_keeps h

theorem endKernel_keeps {s0 s : State} {f : State → Kn → State} (h : keepsForm s0 s)
    (hf : ∀ t c, keepsForm s0 t → keepsForm s0 (f t c)) : nextForm s0 (endKernel s f) := by
  unfold endKernel
  split
  · exact .fault
  · exact .next (hf _ _ (sendEmits_keeps h))

theorem execPass_keeps {s0 s : State} (h : keepsForm s0 s) : nextForm s0 (execPass s) := by
  unfold execPass
  refine endKernel_keeps h fun t k ht => ?_
  exact forward_keeps ht

theorem execDrop_keeps {s0 s : State} (h : keepsForm s0 s) : nextForm s0 (execDrop s) := by
  unfold execDrop
  refine endKernel_keeps h fun t k ht => ?_
  exact discard_keeps ht

theorem execTrapk_keeps {s0 : State} {k : BitVec 8} {s : State} (h : keepsForm s0 s) : nextForm s0 (execTrapk k s) := asScribe_keeps h

theorem execScribeDispatch_keeps {s0 : State} {proc : Nat} {s : State} (h : keepsForm s0 s) :
    nextForm s0 (execScribeDispatch proc s) := by
  unfold execScribeDispatch
  extract_lets x s1
  split
  · split
    · exact .next h
    · extract_lets i x1
      split
      · exact .next (forward_keeps h)
      · split
        · exact .next (scribeTrap_keeps h)
        · exact .next h
  · exact .next h

theorem execPacketAccept_keeps {s0 : State} {p : Packet} {dir : Nat} {s : State} (h : keepsForm s0 s) :
    nextForm s0 (execPacketAccept p dir s) := by
  unfold execPacketAccept
  split
  · extract_lets q
    split
    · exact .next h
    · split
      · exact .next (State.nack_keeps h)
      · split
        · exact .next (forward_keeps h)
        · exact .next ((enqueue_keeps h).getD h)
  · split
    · extract_lets s1
      have h1 : keepsForm s0 s1 := h
      split
      · exact .next (forward_keeps h1)
      · exact .next ((enqueue_keeps h1).getD h1)
    · exact .next h

/-! ### Collect -/

theorem sendHeader_keeps {s0 s : State} {core : Nat} {o : CopyOp} {c : Coll} {dest : Nat} (h : keepsForm s0 s) :
    keepsForm s0 (sendHeader s core o c dest) := sendOut_keeps h

theorem sendKilled_keeps {s0 s : State} {o : CopyOp} {c : Coll} (h : keepsForm s0 s) :
    keepsForm s0 (sendKilled s o c) := .foldl (fun _ _ h => State.send_keeps h) h

theorem sendChunk_keeps {s0 s : State} {core : Nat} {o : CopyOp} {c : Coll} {dest idx : Nat} {data : Line} (h : keepsForm s0 s) :
    keepsForm s0 (sendChunk s core o c dest idx data) := sendOut_keeps h

theorem absorb_keeps {s0 s : State} {core : Nat} {o : CopyOp} (h : keepsForm s0 s) : keepsForm s0 (absorb s core o) := by
  unfold absorb
  split
  · exact h
  · split
    · exact h
    · exact h

theorem beginColl_keeps {s0 s : State} {core : Nat} {g : Group} {o : CopyOp} {r : List Byte} (h : keepsForm s0 s) :
    keepsForm s0 (beginColl s core g o r) := by
  unfold beginColl
  extract_lets h1 rank ms cgid k c
  split
  · extract_lets o1 s1 s2
    have hs1 : keepsForm s0 s1 := acceptLines_keeps h
    have hs2 : keepsForm s0 s2 := .congr hs1 rfl rfl
    split
    · exact h
    · exact .foldl (fun _ _ h => sendHeader_keeps h) hs2

theorem acceptColl_keeps {s0 s : State} {core : Nat} {g : Group} {o : CopyOp} {r : List Byte} (h : keepsForm s0 s) :
    keepsForm s0 (acceptColl s core g o r) := by
  unfold acceptColl
  split
  · exact h
  · split
    · exact h
    · exact beginColl_keeps h

theorem recordOf_keeps {s0 s : State} {core : Nat} {g : Group} {o : CopyOp} (h : keepsForm s0 s) :
    cresForm s0 (fun r => r.2) (recordOf s core g o) := by
  unfold recordOf
  split
  · exact copyRead_keeps h
  · exact h

theorem acceptOp_keeps {s0 s : State} {core : Nat} {g : Group} {o : CopyOp} (h : keepsForm s0 s) :
    keepsForm s0 (acceptOp s core g o) := by
  unfold acceptOp
  extract_lets ext
  split
  · exact acceptLines_keeps h
  · split
    · exact h
    · next hx1 => exact ((recordOf_keeps h).error hx1).ask rfl
    · exact stopCopy_keeps h
    · next hx1 =>
      split
      · exact acceptColl_keeps ((recordOf_keeps h).ok hx1)
      · exact acceptLines_keeps ((recordOf_keeps h).ok hx1)

theorem deliver_keeps {s0 s : State} {core : Nat} {o : CopyOp} {data : List Byte} (h : keepsForm s0 s) :
    keepsForm s0 (deliver s core o data) := by
  unfold deliver
  split
  · exact h
  · split
    · exact h
    · exact h

theorem unholdColl_keeps {s0 s : State} {core : Nat} {g : Group} {o : CopyOp} (h : keepsForm s0 s) :
    keepsForm s0 (unholdColl s core g o) := by
  unfold unholdColl
  split
  · exact h
  · exact h

theorem forgetOp_keeps {s0 s : State} {core op : Nat} (h : keepsForm s0 s) : keepsForm s0 (forgetOp s core op) := State.putCore_keeps h

theorem faultHeld_keeps {s0 s : State} {core : Nat} {g : Group} {o : CopyOp} {cause detail aux : Nat} {va : DWord}
    (h : keepsForm s0 s) :
    keepsForm s0 (faultHeld s core g o cause detail aux va) := by
  unfold faultHeld
  extract_lets s1
  split
  · split
    · exact unholdColl_keeps h
    · exact stopCopy_keeps (unholdColl_keeps h)
  · exact unholdColl_keeps h

theorem readHeld_keeps {s0 s : State} {core : Nat} {g : Group} {o : CopyOp} (h : keepsForm s0 s) :
    keepsForm s0 (readHeld s core g o) := by
  unfold readHeld
  split
  · exact h
  · split
    · exact forgetOp_keeps h
    · split
      · exact h
      · next s1 hx2 =>
        have hs1 : keepsForm s0 s1 := ((recordOf_keeps h).error hx2).ask rfl
        exact hs1
      · next s1 hx2 =>
        have hs1 : keepsForm s0 s1 := (recordOf_keeps h).ok hx2
        exact modOp_keeps hs1
      · next s1 _ _ _ _ hx2 =>
        have hs1 : keepsForm s0 s1 := ((recordOf_keeps h).error hx2).fault rfl
        exact faultHeld_keeps hs1

theorem execCollectiveAccept_keeps {s0 : State} {core op : Nat} {s : State} (h : keepsForm s0 s) :
    nextForm s0 (execCollectiveAccept core op s) := by
  unfold execCollectiveAccept
  split
  · exact .next h
  · split
    · split
      · exact .next h
      · split
        · exact .next (acceptOp_keeps h)
        · split
          · exact .next h
          · split
            · exact .next h
            · extract_lets s1
              split
              · split
                · exact .next (unholdColl_keeps h)
                · exact .next (acceptOp_keeps (unholdColl_keeps h))
              · exact .next (unholdColl_keeps h)
    · exact .next h

theorem streamChunk_keeps {s0 s : State} {core : Nat} {g : Group} {o : CopyOp} {c : Coll} {i : Nat} (h : keepsForm s0 s) :
    keepsForm s0 (streamChunk s core g o c i) := by
  unfold streamChunk
  split
  · exact h
  · extract_lets len
    split
    · exact h
    · next s1 hx1 =>
      have hs1 : keepsForm s0 s1 := ((sourceRead_keeps h).error hx1).ask rfl
      exact hs1
    · exact stopCopy_keeps h
    · next s1 hx1 =>
      have hs1 : keepsForm s0 s1 := (sourceRead_keeps h).ok hx1
      extract_lets line s2
      have hs2 : keepsForm s0 s2 := modOp_keeps hs1
      split
      · exact sendChunk_keeps hs2
      · exact .foldl (fun _ _ h => sendChunk_keeps h) hs2

theorem retell_keeps {s0 s : State} {core : Nat} {o : CopyOp} {c : Coll} (h : keepsForm s0 s) : keepsForm s0 (retell s core o c) := by
  unfold retell
  split
  · exact h
  · exact modOp_keeps (sendHeader_keeps h)

theorem collLand_keeps {s0 a0 : State} {core : Nat} {o0 : CopyOp} {first n : Nat} (h : keepsForm s0 a0) :
    keepsForm s0 (collLand a0 core o0 first n) := by
  unfold collLand
  extract_lets s
  split
  · exact absorb_keeps h
  · split
    · split
      · exact absorb_keeps h
      · split
        · exact retell_keeps (absorb_keeps h)
        · split
          · exact absorb_keeps h
          · split
            · exact streamChunk_keeps (absorb_keeps h)
            · split
              · exact absorb_keeps h
              · split
                · exact absorb_keeps h
                · exact landBytes_keeps (absorb_keeps h)
    · exact absorb_keeps h

theorem copyLand_keeps {s0 s : State} {core : Nat} {o : CopyOp} {first n : Nat} (h : keepsForm s0 s) :
    keepsForm s0 (copyLand s core o first n) := by
  unfold copyLand
  split
  · exact h
  · extract_lets row
    split
    · exact h
    · split
      · exact h
      · next s1 hx2 =>
        have hs1 : keepsForm s0 s1 := ((pieceData_keeps h).error hx2).ask rfl
        exact hs1
      · exact stopCopy_keeps h
      · next s1 hx2 =>
        have hs1 : keepsForm s0 s1 := (pieceData_keeps h).ok hx2
        exact landBytes_keeps (modOp_keeps hs1)

theorem execCopyLineLanded_keeps {s0 : State} {core op first count : Nat} {data : List Byte} {s : State} (h : keepsForm s0 s) :
    nextForm s0 (execCopyLineLanded core op first count data s) := by
  unfold execCopyLineLanded
  split
  · exact .next h
  · extract_lets s1
    split
    · exact .next (deliver_keeps h)
    · split
      · exact .next (deliver_keeps h)
      · split
        · exact .next (collLand_keeps (deliver_keeps h))
        · exact .next (copyLand_keeps (deliver_keeps h))

theorem completeColl_keeps {s0 s : State} {core : Nat} {o : CopyOp} {c : Coll} (h : keepsForm s0 s) :
    keepsForm s0 (completeColl s core o c) := by
  unfold completeColl
  split
  · exact finishCopy_keeps h
  · split
    · exact finishCopy_keeps h
    · split
      · exact finishCopy_keeps (sendKilled_keeps h)
      · split
        · exact finishCopy_keeps h
        · exact h

theorem execCopyComplete_keeps {s0 : State} {core op : Nat} {s : State} (h : keepsForm s0 s) :
    nextForm s0 (execCopyComplete core op s) := by
  unfold execCopyComplete
  split
  · exact .next h
  · extract_lets s1
    split
    · exact .next (absorb_keeps h)
    · split
      · exact .next (absorb_keeps h)
      · split
        · split
          · exact .next (completeColl_keeps (absorb_keeps h))
          · split
            · exact .next (finishCopy_keeps (absorb_keeps h))
            · exact .next (absorb_keeps h)
        · split
          · exact .next (finishCopy_keeps (absorb_keeps h))
          · exact .next (absorb_keeps h)

/-! ### Trigger -/

theorem arm_keeps {s0 s : State} {core : Nat} {o : CopyOp} (h : keepsForm s0 s) : keepsForm s0 (arm s core o).2 := by
  unfold arm
  split
  · exact h
  · split
    · next s1 hx1 =>
      have hs1 : keepsForm s0 s1 := .snd (State.takeId_keeps h) hx1
      dsimp only
      split
      · exact h
      · exact .congr hs1 rfl rfl

theorem fireDue_keeps {s0 s : State} (h : keepsForm s0 s) : keepsForm s0 (fireDue s) := .foldl (fun _ _ h => h) h

theorem execTriggerFire_keeps {s0 s : State} (h : keepsForm s0 s) : nextForm s0 (execTriggerFire s) := by
  unfold execTriggerFire
  split
  · exact .next h
  · exact .next h

theorem armNow_keeps {s0 s : State} {c : Iss} {i : Instr} {o : CopyOp} (h : keepsForm s0 s) : keepsForm s0 (armNow s c i o) := by
  unfold armNow
  extract_lets s01 dst
  split
  · next hx =>
    split
    · exact postDoneAs_keeps (.snd (arm_keeps (fireDue_keeps h)) hx)
    · exact .snd (arm_keeps (fireDue_keeps h)) hx

theorem holdTrig_keeps {s0 s : State} {c : Iss} {o : CopyOp} (h : keepsForm s0 s) :
    keepsForm s0 (holdTrig s c o) := State.putCore_keeps (State.putG_keeps (.congr h rfl rfl))

theorem execTrig_keeps {s0 : State} {f : EFmt} {s : State} (h : keepsForm s0 s) : nextForm s0 (execTrig f s) := by
  unfold execTrig
  refine asOnce_keeps h fun c => ?_
  extract_lets i s11 o jp jp1
  have hjp : ∀ u, okForm s0 (fun t => t) (jp u) := by
    intro u
    refine .bind fun a ha => ?_
    refine .bind fun a ha => ?_
    split
    · exact .ok (armNow_keeps h)
    · split
      · next s1 hx1 =>
        have hs1 : keepsForm s0 s1 := (copyRead_keeps h).ok hx1
        split
        · exact .ok (armNow_keeps hs1)
        · exact .error
      · exact .error
      · exact .error
      · exact .ok (holdTrig_keeps h)
  have hjp1 : ∀ u, okForm s0 (fun t => t) (jp1 u) := by
    intro u
    dsimp only [jp1]
    split
    · exact .bind fun a ha => hjp a
    · exact hjp ()
  split
  · exact .bind fun a ha => hjp1 a
  · exact hjp1 ()

theorem unholdTrig_keeps {s0 s : State} {core : Nat} {o : CopyOp} (h : keepsForm s0 s) : keepsForm s0 (unholdTrig s core o) := by
  unfold unholdTrig
  extract_lets k s1
  have hs1 : keepsForm s0 s1 := State.putCore_keeps h
  exact .congr hs1 rfl rfl

theorem trapTrig_keeps {s0 s : State} {core : Nat} {o : CopyOp} {cause detail aux : Nat} {va : DWord} (h : keepsForm s0 s) :
    keepsForm s0 (trapTrig s core o cause detail aux va) := raiseTrap_keeps h

theorem readTrig_keeps {s0 s : State} {core : Nat} {o : CopyOp} (h : keepsForm s0 s) : keepsForm s0 (readTrig s core o) := by
  unfold readTrig
  split
  · exact unholdTrig_keeps h
  · split
    · exact unholdTrig_keeps h
    · split
      · exact unholdTrig_keeps h
      · split
        · exact h
        · next s2 hx3 =>
          have hs2 : keepsForm s0 s2 := ((copyRead_keeps h).error hx3).ask rfl
          exact hs2
        · exact trapTrig_keeps h
        · next s2 hx3 =>
          have hs2 : keepsForm s0 s2 := (copyRead_keeps h).ok hx3
          split
          · exact trapTrig_keeps hs2
          · split
            · exact h
            · extract_lets s21
              have hs21 : keepsForm s0 s21 := unholdTrig_keeps hs2
              split
              · exact armNow_keeps hs21
              · exact hs21

theorem execCopyAccept_keeps {s0 : State} {core op : Nat} {data : List Byte} {s : State} (h : keepsForm s0 s) :
    nextForm s0 (execCopyAccept core op data s) := by
  unfold execCopyAccept
  split
  · exact .next h
  · extract_lets s1
    split
    · exact .next (deliver_keeps h)
    · split
      · exact .next (deliver_keeps h)
      · split
        · split
          · exact .next (readTrig_keeps (deliver_keeps h))
          · exact .next (readHeld_keeps (deliver_keeps h))
        · split
          · exact .next (deliver_keeps h)
          · exact .next (acceptOp_keeps (deliver_keeps h))

theorem execTrigcan_keeps {s0 : State} {f : EFmt} {s : State} (h : keepsForm s0 s) : nextForm s0 (execTrigcan f s) := by
  unfold execTrigcan
  refine asOnce_keeps h fun c => ?_
  refine .bind fun a ha => ?_
  extract_lets hd out s1
  have h1 : keepsForm s0 s1 := fireDue_keeps h
  clear_value s1
  split
  · exact .ok (retire_keeps (State.putCore_keeps (postDone_keeps (.congr h1 rfl rfl))))
  · exact .ok (postDone_keeps h1)

theorem markDue_keeps {s0 s : State} (h : keepsForm s0 s) : keepsForm s0 (markDue s) := .congr h rfl rfl

theorem execGtcUpdate_keeps {s0 s : State} (h : keepsForm s0 s) :
    nextForm s0 (execGtcUpdate s) := .next (markDue_keeps (.congr (fireDue_keeps h) rfl rfl))

theorem execPtpMessage_keeps {s0 : State} {domain : Nat} {rate : ℤ} {s : State} (h : keepsForm s0 s) :
    nextForm s0 (execPtpMessage domain rate s) := by
  unfold execPtpMessage
  split
  · exact .next h
  · exact .next h

theorem ackReq_keeps {s0 s : State} {tag : Nat} {r : FabReq} (h : keepsForm s0 s) : keepsForm s0 (ackReq s tag r) := by
  unfold ackReq
  extract_lets s1
  split
  · split
    · split
      · exact pieceLanded_keeps (CopyOp.uncache_keeps h)
      · exact h
    · exact h
  · exact h
  · exact h

theorem execAckReceived_keeps {s0 : State} {req : Nat} {s : State} (h : keepsForm s0 s) : nextForm s0 (execAckReceived req s) := by
  unfold execAckReceived
  split
  · exact .next h
  · split
    · exact .next h
    · split
      · exact .next (ackReq_keeps h)
      · split
        · exact .next (ringAcked_keeps h)
        · exact .next h

theorem nackScribe_keeps {s0 s : State} {r : FabReq} {proc what detail : Nat} (h : keepsForm s0 s) :
    keepsForm s0 (nackScribe s r proc what detail) := by
  unfold nackScribe
  split
  · exact h
  · split
    · exact h
    · exact sendRecord_keeps h

theorem nackReq_keeps {s0 s : State} {tag : Nat} {r : FabReq} {detail : Nat} (h : keepsForm s0 s) :
    keepsForm s0 (nackReq s tag r detail) := by
  unfold nackReq
  extract_lets s1 va
  split
  · split
    · exact h
    · split
      · split
        · exact trapTrig_keeps h
        · split
          · split
            · exact faultHeld_keeps h
            · exact h
          · exact h
      · split
        · exact h
        · exact stopCopy_keeps h
  · exact nackScribe_keeps h
  · split
    · exact sendReq_keeps h
    · split
      · exact h
      · split
        · exact h
        · exact .foldl (fun _ _ h => laneFault_keeps h) h

theorem execNackReceived_keeps {s0 : State} {req detail : Nat} {s : State} (h : keepsForm s0 s) :
    nextForm s0 (execNackReceived req detail s) := by
  unfold execNackReceived
  split
  · exact .next h
  · split
    · exact .next h
    · exact .next (nackReq_keeps h)

theorem execRemoteRequestTimeout_keeps {s0 : State} {req : Nat} {s : State} (h : keepsForm s0 s) :
    nextForm s0 (execRemoteRequestTimeout req s) := by
  unfold execRemoteRequestTimeout
  split
  · exact .next h
  · split
    · exact .next h
    · exact .next (nackReq_keeps h)

theorem execCollectiveStep_keeps {s0 : State} {m : CollMsg} {s : State} (h : keepsForm s0 s) :
    nextForm s0 (execCollectiveStep m s) := by
  unfold execCollectiveStep
  refine .next ?_
  split
  · exact h
  · exact takeStep_keeps h

/-! ### Command -/

theorem modCtx_keeps {s0 s : State} {ctx : Nat} {f : Ctx → Ctx} (h : keepsForm s0 s) :
    keepsForm s0 (modCtx s ctx f) := .congr h rfl rfl

theorem writeMailbox_keeps {s0 s : State} {off : Nat} {val : DWord} {who : Nat} (h : keepsForm s0 s) :
    keepsForm s0 (writeMailbox s off val who) := by
  unfold writeMailbox
  split
  · exact h
  · split
    · extract_lets s1
      split
      · exact h
      · exact h
    · exact h
    · exact h
    · exact h
    · exact h
    · exact h

theorem execLqctlWrite_keeps {s0 : State} {q : Nat} {w : RegVal} {s : State} (h : keepsForm s0 s) :
    nextForm s0 (execLqctlWrite q w s) := by
  unfold execLqctlWrite
  extract_lets x
  split
  · exact .next h
  · exact .next h

theorem writeQueue_keeps {s0 s : State} {q off : Nat} {val : DWord} {who : Nat} (h : keepsForm s0 s) :
    keepsForm s0 (writeQueue s q off val who) := by
  unfold writeQueue
  extract_lets x put size keep
  split
  · exact h
  · split
    · exact h
    · exact h
    · exact h
    · exact h

theorem writeTranslation_keeps {s0 s : State} {off : Nat} {val : DWord} {who : Nat} (h : keepsForm s0 s) :
    keepsForm s0 (writeTranslation s off val who) := by
  unfold writeTranslation
  split
  · split
    · exact h
    · exact h
  · split
    · extract_lets ctx
      split
      · exact h
      · exact h
    · exact h

theorem writeHandler_keeps {s0 s : State} {ctx off : Nat} {val : DWord} {who : Nat} (h : keepsForm s0 s) :
    keepsForm s0 (writeHandler s ctx off val who) := by
  unfold writeHandler
  split
  · exact h
  · split
    · exact h
    · exact h
    · exact h
    · exact h
    · exact h

theorem execRegisterWrite_keeps {s0 : State} {off : Nat} {val : DWord} {who : Nat} {s : State} (h : keepsForm s0 s) :
    nextForm s0 (execRegisterWrite off val who s) := by
  unfold execRegisterWrite
  extract_lets o
  refine .next ?_
  split
  · exact writeMailbox_keeps h
  · split
    · exact writeQueue_keeps h
    · exact h
  · exact writeTranslation_keeps h
  · split
    · exact h
    · exact h
  · split
    · exact writeHandler_keeps h
    · exact h
  · exact h

theorem execCtxsaveWrite_keeps {s0 : State} {ctx : Nat} {w : RegVal} {s : State} (h : keepsForm s0 s) :
    nextForm s0 (execCtxsaveWrite ctx w s) := .next h

theorem execTlbictlGo_keeps {s0 : State} {val : DWord} {s : State} (h : keepsForm s0 s) : nextForm s0 (execTlbictlGo val s) := by
  unfold execTlbictlGo
  split
  · exact .next h
  · exact .next h

theorem execShootdownComplete_keeps {s0 s : State} (h : keepsForm s0 s) : nextForm s0 (execShootdownComplete s) := by
  unfold execShootdownComplete
  extract_lets ctx all root0 root1 size lo hit s1
  split
  · exact .next h
  · refine .next ?_
    split
    · exact h
    · exact h

theorem reply_keeps {s0 s : State} {mctp : Bool} {status : Nat} (h : keepsForm s0 s) : keepsForm s0 (reply s mctp status) := by
  unfold reply
  split
  · exact h
  · exact h

theorem queueCommand_keeps {s0 s : State} {op : Nat} {c : MCmd} (h : keepsForm s0 s) : keepsForm s0 (queueCommand s op c) := by
  unfold queueCommand
  split
  · exact h
  · split
    · exact h
    · exact h

theorem asCommand_keeps {s0 s : State} {op : Nat} {c : MCmd} {right : Bool} {f : State → State × Nat} (h : keepsForm s0 s)
    (hf : keepsForm s0 (f s).1) : nextForm s0 (asCommand op c right s f) := by
  unfold asCommand
  split
  · exact .next (queueCommand_keeps h)
  · split
    · exact .next (reply_keeps h)
    · exact .next (reply_keeps hf)

theorem holdCommand_keeps {s0 s : State} {op : Nat} {c : MCmd} (h : keepsForm s0 s) :
    keepsForm s0 (holdCommand s op c) := .congr h rfl rfl

theorem State.cmdWrite_keeps {s0 s : State} {a : DWord} {bs : List Byte} (h : keepsForm s0 s) :
    keepsForm s0 (State.cmdWrite s a bs) := State.wr_keeps h

theorem settleFrames_keeps {s0 s : State} {ctx : Nat} (h : keepsForm s0 s) :
    keepsForm s0 (settleFrames s ctx) := .foldl (fun _ _ h => applyFrames_keeps h) h

theorem dropLines_keeps {s0 s : State} {ctx : Nat} (h : keepsForm s0 s) : keepsForm s0 (dropLines s ctx) := .congr h rfl rfl

theorem drainEnding_keeps {s0 s : State} {ctx : Nat} (h : keepsForm s0 s) : keepsForm s0 (drainEnding s ctx) := by
  unfold drainEnding
  split
  · split
    · exact h
    · extract_lets mine own es s1
      refine .foldl (fun s x h => ?_) h
      split
      · next hx2 => exact (drainOne_keeps h).done hx2
      · next hx2 => exact (drainOne_keeps h).sent hx2
      · next hx2 => exact (drainOne_keeps h).posted hx2
      · exact h
  · split
    · exact h
    · extract_lets mine own es s1
      refine .foldl (fun s x h => ?_) h
      split
      · next hx2 => exact (drainOne_keeps h).done hx2
      · next hx2 => exact (drainOne_keeps h).sent hx2
      · next hx2 => exact (drainOne_keeps h).posted hx2
      · exact h

theorem dropContext_keeps {s0 s : State} {ctx : Nat} (h : keepsForm s0 s) : keepsForm s0 (dropContext s ctx) := by
  unfold dropContext
  extract_lets t
  have ht : keepsForm s0 t := settleFrames_keeps (drainEnding_keeps (dropLines_keeps h))
  exact .filterTeams ht rfl rfl

theorem leaveCore_keeps {s0 : State} {ctx : Nat} {old s : State} {core : Nat} (hs : keepsForm s0 s) :
    keepsForm s0 (leaveCore ctx old s core) := by
  unfold leaveCore
  extract_lets c s1
  have hs1 : keepsForm s0 s1 := by
    unfold s1
    split
    · split
      · exact wakeGroups_keeps hs
      · exact hs
    · exact hs
  exact nextActive_keeps hs1

theorem endContext_keeps {s0 s : State} {ctx : Nat} (h : keepsForm s0 s) :
    keepsForm s0 (endContext s ctx) := .foldl (fun _ _ h => leaveCore_keeps h) (dropContext_keeps h)

theorem execCtxend_keeps {s0 : State} {c : MCmd} {s : State} (h : keepsForm s0 s) : nextForm s0 (execCtxend c s) := by
  unfold execCtxend
  refine asCommand_keeps h ?_
  exact endContext_keeps h

/-! ### Switch -/

theorem startSwitch_keeps {s0 : State} {inc outg : Nat} {s : State} {core : Nat} (h : keepsForm s0 s) :
    keepsForm s0 (startSwitch inc outg s core) := by
  unfold startSwitch
  extract_lets c
  split
  · exact h
  · exact h

theorem execCtxsw_keeps {s0 : State} {c : MCmd} {s : State} (h : keepsForm s0 s) : nextForm s0 (execCtxsw c s) := by
  unfold execCtxsw
  extract_lets outg cores
  split
  · exact .next (queueCommand_keeps h)
  · split
    · exact .next (reply_keeps h)
    · split
      · exact .next (reply_keeps h)
      · split
        · exact .next (reply_keeps h)
        · split
          · exact .next (holdCommand_keeps h)
          · exact .next (holdCommand_keeps (.foldl (fun _ _ h => startSwitch_keeps h) h))

theorem endCtxsw_keeps {s0 : State} {c : MCmd} {s : State} (h : keepsForm s0 s) : nextForm s0 (endCtxsw c s) := by
  unfold endCtxsw
  split
  · exact .next (reply_keeps h)
  · exact .next h

theorem execContextSwitchDone_keeps {s0 : State} {core : Nat} {s : State} (h : keepsForm s0 s) :
    nextForm s0 (execContextSwitchDone core s) := by
  unfold execContextSwitchDone
  extract_lets c
  split
  · split
    · exact .next h
    · extract_lets swap s1 s2
      have hs1 : keepsForm s0 s1 := by
        unfold s1
        split
        · exact h
        · split
          · split
            · exact spillCore_keeps h
            · exact h
          · exact spillCore_keeps h
      exact .next (nextActive_keeps (wakeGroups_keeps hs1))
  · exact .next (nextActive_keeps (wakeGroups_keeps h))
  · exact .next h

theorem stopTeam_keeps {s0 s : State} {tid : Nat} {on : Bool} (h : keepsForm s0 s) :
    keepsForm s0 (stopTeam s tid on) := .congr h rfl rfl

theorem execMigrate_keeps {s0 : State} {f : SFmt} {s : State} (h : keepsForm s0 s) : nextForm s0 (execMigrate f s) := by
  unfold execMigrate
  refine asOnce_keeps h fun c => ?_
  split
  · exact .ok (Iss.done_keeps h)
  · next t ht =>
    extract_lets x g1 g2 r s1
    split
    · exact .ok (Iss.done_keeps h)
    · refine .ok (stopTeam_keeps (.putTeams h rfl rfl fun hs => ?_))
      exact (memWf_of_find hs ht :)

theorem fillMine_keeps {s0 s : State} {tid : Nat} (h : keepsForm s0 s) : keepsForm s0 (fillMine s tid) := by
  unfold fillMine
  refine .foldl (fun s x h => ?_) ?_
  · split
    · exact fillGroup_keeps h
    · exact h
  · split
    · next hx =>
      split
      · exact fillTeam_keeps h fun h0 => memWf_of_find (h h0) hx
      · exact h
    · exact h

theorem moveOps_keeps {s0 s : State} {gids : List Nat} {core0 core : Nat} (h : keepsForm s0 s) :
    keepsForm s0 (moveOps s gids core0 core) := .congr h rfl rfl

theorem moveTeam_keeps {s0 s : State} {tid : Nat} {t : Team} {core : Nat} (h : keepsForm s0 s) :
    keepsForm s0 (moveTeam s tid t core) := by
  unfold moveTeam
  extract_lets s p gs slots bank wasOn isOn put s1 s2
  have h0 : keepsForm s0 s := fillMine_keeps h
  have h1 : keepsForm s0 s1 := moveOps_keeps (.foldl (fun _ _ h => State.putG_keeps h) (State.putCore_keeps h0))
  have h2 : keepsForm s0 s2 := .modTeams h1 rfl rfl fun _ ht => ht
  exact nextActive_keeps (refreshAt_keeps (saveNew_keeps h2))

theorem relinkAll_keeps {s0 s : State} {ctx : Nat} {moved : List (Nat × Nat × Nat × Nat)} (h : keepsForm s0 s) :
    keepsForm s0 (relinkAll s ctx moved) := .congr h rfl rfl

theorem endMigrate_keeps {s0 s : State} {tid : Nat} {r : MigrateReq} {status : Nat} (h : keepsForm s0 s) :
    keepsForm s0 (endMigrate s tid r status) := by
  unfold endMigrate
  extract_lets s1
  have h1 : keepsForm s0 s1 := .modTeams h rfl rfl fun _ ht => ht
  split
  · split
    · exact stopTeam_keeps h1
    · exact h1
  · exact h1

theorem execMigrateMove_keeps {s0 : State} {team : Nat} {s : State} (h : keepsForm s0 s) : nextForm s0 (execMigrateMove team s) := by
  unfold execMigrateMove
  split
  · exact .next h
  · split
    · exact .next h
    · split
      · exact .next (endMigrate_keeps h)
      · split
        · exact .next h
        · exact .next (endMigrate_keeps (relinkAll_keeps (moveTeam_keeps h)))

/-! ### ScribeCmd -/

theorem putHookStatus_keeps {s0 s : State} {addr : DWord} {status word : Nat} (h : keepsForm s0 s) :
    keepsForm s0 (putHookStatus s addr status word) := State.wr_keeps (State.wr_keeps h)

theorem installJob_keeps {s0 s : State} {proc : Nat} {j : ScribeJob} {code : Nat → Nat} (h : keepsForm s0 s) :
    keepsForm s0 (installJob s proc j code) := State.putScribe_keeps h

theorem unbindJob_keeps {s0 : State} {proc : Nat} {j : ScribeJob} {s : State} (h : keepsForm s0 s) :
    keepsForm s0 (unbindJob proc j s) := .foldl (fun _ _ h => forward_keeps h) h

theorem bindJob_keeps {s0 : State} {c : MCmd} {s : State} (h : keepsForm s0 s) : keepsForm s0 (bindJob c s).1 := by
  unfold bindJob
  extract_lets proc entry j x others head n hooks job bytes code s1
  have h1 : keepsForm s0 s1 := by
    refine installJob_keeps ?_
    split
    · exact unbindJob_keeps h
    · exact h
  clear_value s1
  split
  · exact h
  · split
    · exact h
    · split
      · exact h
      · split
        · exact h
        · split
          · exact h
          · split
            · exact h
            · split
              · exact putHookStatus_keeps h
              · exact putHookStatus_keeps (.congr h1 rfl rfl)

theorem asBetween_keeps {s0 s : State} {op : Nat} {c : MCmd} {f : ScribeJob → State → State × Nat} (h : keepsForm s0 s)
    (hf : ∀ j, keepsForm s0 (f j s).1) : nextForm s0 (asBetween op c s f) := by
  unfold asBetween
  split
  · exact .next h
  · refine asCommand_keeps h ?_
    split
    · exact h
    · exact hf _

theorem openGate_keeps {s0 s : State} {proc job : Nat} (h : keepsForm s0 s) : keepsForm s0 (openGate s proc job) := by
  unfold openGate
  split
  · exact h
  · exact h

theorem closeGate_keeps {s0 s : State} {proc job : Nat} (h : keepsForm s0 s) : keepsForm s0 (closeGate s proc job) := .congr h rfl rfl

theorem execScribebind_keeps {s0 : State} {c : MCmd} {s : State} (h : keepsForm s0 s) : nextForm s0 (execScribebind c s) := by
  unfold execScribebind
  split
  · exact .next h
  · refine asCommand_keeps h ?_
    exact bindJob_keeps h

theorem execScribeunbind_keeps {s0 : State} {c : MCmd} {s : State} (h : keepsForm s0 s) : nextForm s0 (execScribeunbind c s) := by
  unfold execScribeunbind
  exact asBetween_keeps h fun j => unbindJob_keeps h

theorem execScriberead_keeps {s0 : State} {c : MCmd} {s : State} (h : keepsForm s0 s) : nextForm s0 (execScriberead c s) := by
  unfold execScriberead
  refine asBetween_keeps h fun j => ?_
  split
  · exact h
  · exact State.wr_keeps h

theorem execScribewrite_keeps {s0 : State} {c : MCmd} {s : State} (h : keepsForm s0 s) : nextForm s0 (execScribewrite c s) := by
  unfold execScribewrite
  refine asBetween_keeps h fun j => ?_
  split
  · exact h
  · exact h

theorem snapJob_keeps {s0 : State} {c : MCmd} {s : State} (h : keepsForm s0 s) : keepsForm s0 (snapJob c s).1 := by
  unfold snapJob
  split
  · exact h
  · exact State.wr_keeps h

theorem execScribesnap_keeps {s0 : State} {c : MCmd} {s : State} (h : keepsForm s0 s) : nextForm s0 (execScribesnap c s) := by
  unfold execScribesnap
  split
  · exact .next (holdCommand_keeps (openGate_keeps h))
  · refine asCommand_keeps h ?_
    exact snapJob_keeps h

theorem execDrainMarker_keeps {s0 : State} {p : Packet} {s : State} (h : keepsForm s0 s) : nextForm s0 (execDrainMarker p s) := by
  unfold execDrainMarker
  extract_lets q
  split
  · exact .next h
  · split
    · exact .next (.congr h rfl rfl)
    · split
      · exact .next (returnMarker_keeps h)
      · exact .next ((enqueue_keeps h).getD h)

theorem execScribeControl_keeps {s0 : State} {c : MCmd} {kind : ScribeCtl} {s : State} (h : keepsForm s0 s) :
    nextForm s0 (execScribeControl c kind s) := by
  unfold execScribeControl
  split
  · exact .next h
  · split
    · split
      · exact .next (.congr h rfl rfl)
      · exact execScribebind_keeps h
    · split
      · exact .next (.congr h rfl rfl)
      · exact asBetween_keeps h fun j => unbindJob_keeps h
    · split
      · exact .next (.congr h rfl rfl)
      · split
        · refine asCommand_keeps h ?_
          exact snapJob_keeps h
        · exact .next (.congr (openGate_keeps h) rfl rfl)
    · split
      · exact .next (.congr h rfl rfl)
      · split
        · exact .next h
        · exact .next (.congr h rfl rfl)

/-! ### Loader -/

theorem loadPage_keeps {s0 s : State} {root va : Nat} {bs : List Byte} (h : keepsForm s0 s) :
    keepsForm s0 (loadPage s root va bs) := by
  unfold loadPage
  split
  · exact h
  · exact .putByte (.foldl (fun _ _ h => wrFrame_keeps h) h) _ _

theorem loadBytes_keeps {s0 s : State} {root va : Nat} {bs : List Byte} (h : keepsForm s0 s) :
    keepsForm s0 (loadBytes s root va bs) := .foldl (fun _ _ h => loadPage_keeps h) h

theorem refuseLoad_keeps {s0 s : State} {c : MCmd} {status w10 w18 : Nat} (h : keepsForm s0 s) :
    keepsForm s0 (refuseLoad s c status w10 w18).1 := State.wr_keeps h

theorem placeObject_keeps {s0 s : State} {c : MCmd} {x : Ctx} {b : List Byte} {form base : Nat} {code : List Byte}
    {entry : Nat → Nat} {images : List (Nat × List Byte)} {region : Nat × Nat} (h : keepsForm s0 s) :
    keepsForm s0 (placeObject s c x b form base code entry images region) :=
  State.cmdWrite_keeps (.congr (.foldl (fun _ _ h => loadBytes_keeps h) (loadBytes_keeps h)) rfl rfl)

theorem finishLoad_keeps {s0 s : State} {c : MCmd} {x : Ctx} {b : List Byte} {form status : Nat} (h : keepsForm s0 s) :
    keepsForm s0 (finishLoad s c x b form status).1 := by
  unfold finishLoad
  split
  · dsimp only
    split
    · exact refuseLoad_keeps h
    · exact placeObject_keeps h

theorem loadObject_keeps {s0 s : State} {c : MCmd} {x : Ctx} {b : List Byte} (h : keepsForm s0 s) :
    keepsForm s0 (loadObject s c x b).1 := by
  unfold loadObject
  split
  · dsimp only
    split
    · exact refuseLoad_keeps h
    · split
      · exact refuseLoad_keeps h
      · split
        · exact refuseLoad_keeps h
        · split
          · exact refuseLoad_keeps h
          · exact refuseLoad_keeps h
  · split
    · dsimp only
      split
      · exact refuseLoad_keeps h
      · split
        · exact refuseLoad_keeps h
        · split
          · exact refuseLoad_keeps h
          · split
            · exact refuseLoad_keeps h
            · exact refuseLoad_keeps h
    · dsimp only
      split
      · exact refuseLoad_keeps h
      · split
        · exact refuseLoad_keeps h
        · split
          · exact refuseLoad_keeps h
          · split
            · exact refuseLoad_keeps h
            · exact finishLoad_keeps h
  · dsimp only
    split
    · exact refuseLoad_keeps h
    · split
      · exact refuseLoad_keeps h
      · split
        · exact refuseLoad_keeps h
        · split
          · exact refuseLoad_keeps h
          · exact finishLoad_keeps h

theorem execLoad_keeps {s0 : State} {c : MCmd} {s : State} (h : keepsForm s0 s) : nextForm s0 (execLoad c s) := by
  unfold execLoad
  refine asCommand_keeps h ?_
  split
  · exact h
  · exact loadObject_keeps h

theorem rechoose_keeps {s0 : State} {ctx : Nat} {p : Partition} {s : State} {a3 : Nat} {o : Obj} (h : keepsForm s0 s) :
    keepsForm s0 (rechoose ctx p s a3 o) := by
  unfold rechoose
  split
  · exact h
  · extract_lets q dir
    split
    · exact h
    · split
      · exact h
      · split
        · split
          · exact h
          · exact .congr (loadBytes_keeps h) rfl rfl

/-! ### Atlas -/

theorem scanLeaf_keeps {s0 : State} {root lo n bitmap : Nat} {s : State} {l : Leaf} (h : keepsForm s0 s) :
    keepsForm s0 (scanLeaf root lo n bitmap s l) := by
  unfold scanLeaf
  extract_lets t t1
  have ht : keepsForm s0 t := h.putByte _ _
  refine .foldl (fun s x h => h.putByte _ _) ?_
  unfold t1
  split
  · exact .congr ht rfl rfl
  · exact h

theorem execDirtyscan_keeps {s0 : State} {c : MCmd} {s : State} (h : keepsForm s0 s) : nextForm s0 (execDirtyscan c s) := by
  unfold execDirtyscan
  split
  · exact .next h
  · refine asCommand_keeps h ?_
    split
    · exact h
    · split
      · exact h
      · exact .foldl (fun _ _ h => scanLeaf_keeps h) h

theorem unholdOps_keeps {s0 s : State} {ctx : Nat} (h : keepsForm s0 s) : keepsForm s0 (unholdOps s ctx) := .congr h rfl rfl

theorem sendMarkers_keeps {s0 s : State} {ctx : Nat} (h : keepsForm s0 s) : keepsForm s0 (sendMarkers s ctx).1 := by
  unfold sendMarkers
  refine List.foldlRecOn (motive := fun r : State × List Nat => keepsForm s0 r.1) _ _ h fun acc hacc x _ => ?_
  exact sendOut_keeps (State.takeId_keeps hacc)

theorem endFreeze_keeps {s0 s : State} {f : FreezeJob} {status len : Nat} (h : keepsForm s0 s) :
    keepsForm s0 (endFreeze s f status len) := by
  unfold endFreeze
  extract_lets s1
  have h1 : keepsForm s0 s1 := h
  split
  · exact reply_keeps h1
  · split
    · exact h1
    · exact .congr (reply_keeps h1) rfl rfl

theorem writeImage_keeps {s0 s : State} {f : FreezeJob} (h : keepsForm s0 s) : keepsForm s0 (writeImage s f) := by
  unfold writeImage
  extract_lets s
  have h1 : keepsForm s0 s := settleFrames_keeps h
  clear_value s
  split
  · exact endFreeze_keeps h1
  · extract_lets a body len
    clear_value body
    split
    · exact endFreeze_keeps (modCtx_keeps h1)
    · have h2 : keepsForm s0 (s.cmdWrite (BitVec.ofNat 64 f.buf) (body ++ identitySign body)) := State.cmdWrite_keeps h1
      exact endFreeze_keeps (.congr h2 rfl rfl)

theorem beginStep_keeps {s0 s : State} {f : FreezeJob} (h : keepsForm s0 s) : keepsForm s0 (beginStep s f) := by
  unfold beginStep
  split
  · extract_lets s1
    have h1 : keepsForm s0 s1 := .congr h rfl rfl
    split
    next s2 n hx =>
    have h2 : keepsForm s0 s2 := .fst (sendMarkers_keeps (unholdOps_keeps h1)) hx
    exact .congr h2 rfl rfl
  · exact .congr (.foldl (fun _ _ h => openGate_keeps h) h) rfl rfl
  · extract_lets snaps s1
    have h1 : keepsForm s0 s1 := .foldl (fun _ _ h => closeGate_keeps h) h
    exact .congr (.foldl (fun _ _ h => flushPoint_keeps h) h1) rfl rfl
  · exact h

theorem execFreeze_keeps {s0 : State} {c : MCmd} {s : State} (h : keepsForm s0 s) : nextForm s0 (execFreeze c s) := by
  unfold execFreeze
  split
  · exact .next (queueCommand_keeps h)
  · split
    · exact .next (reply_keeps h)
    · split
      · exact .next (reply_keeps h)
      · extract_lets f cores s1
        have hs1 : keepsForm s0 s1 := by
          unfold s1
          split
          · exact h
          · exact .foldl (fun _ _ h => h) h
        exact .next hs1

theorem execFreezeStepEnd_keeps {s0 s : State} (h : keepsForm s0 s) : nextForm s0 (execFreezeStepEnd s) := by
  unfold execFreezeStepEnd
  split
  · exact .next h
  · split
    · exact .next h
    · split
      · exact .next (writeImage_keeps h)
      · exact .next (beginStep_keeps h)

theorem execFreezeDrainTimeout_keeps {s0 s : State} (h : keepsForm s0 s) : nextForm s0 (execFreezeDrainTimeout s) := by
  unfold execFreezeDrainTimeout
  split
  · exact .next h
  · split
    · exact .next h
    · exact .next h

/-! ### Control -/

theorem Iss.transfer_keeps {s0 : State} {c : Iss} {s : State} {g : Group} {pc : Nat} (h : keepsForm s0 s) :
    okForm s0 (fun t => t) (Iss.transfer c s g pc) := by
  unfold Iss.transfer
  refine .bind fun a ha => ?_
  split
  · next s1 =>
    have hs1 : keepsForm s0 s1 := targetLine_keeps h _ ha
    exact .ok (State.putG_keeps hs1)

theorem diverge_keeps {s0 s : State} {c : Iss} {kind target reconv : Nat} (h : keepsForm s0 s) :
    okForm s0 (fun t => t) (diverge s c kind target reconv) := by
  unfold diverge
  extract_lets t n s21 fall s41
  split
  · exact .ok (Iss.done_keeps h)
  · split
    · exact Iss.transfer_keeps h
    · refine .bind fun a ha => ?_
      split
      · next s1 =>
        have hs1 : keepsForm s0 s1 := targetLine_keeps h _ ha
        extract_lets s01 taken
        split
        · split
          · exact .error
          · exact .ok (State.putG_keeps hs1)
        · split
          · exact .error
          · exact .ok (State.putG_keeps hs1)

theorem loopEdge_keeps {s0 s : State} {c : Iss} {j : JoinRec} {target : Nat} (h : keepsForm s0 s) :
    okForm s0 (fun t => t) (loopEdge s c j target) := by
  unfold loopEdge
  extract_lets n g
  split
  · exact .ok (State.putG_keeps h)
  · refine .bind fun a ha => ?_
    split
    · next s1 =>
      have hs1 : keepsForm s0 s1 := targetLine_keeps h _ ha
      exact .ok (State.putG_keeps hs1)

theorem openRegion_keeps {s0 s : State} {c : Iss} {kind reconv : Nat} (h : keepsForm s0 s) :
    okForm s0 (fun t => t) (openRegion s c kind reconv) := by
  unfold openRegion
  split
  · exact .ok h
  · split
    · exact .error
    · exact .ok h

theorem execBra_keeps {s0 : State} {f : BFmt} {s : State} (h : keepsForm s0 s) : nextForm s0 (execBra f s) := by
  unfold execBra
  exact asOnce_keeps h fun c => Iss.transfer_keeps h

theorem execBrc_keeps {s0 : State} {f : BFmt} {s : State} (h : keepsForm s0 s) : nextForm s0 (execBrc f s) := by
  unfold execBrc
  refine asGroup_keeps h fun c => ?_
  split
  · exact diverge_keeps h
  · split
    · split
      · exact loopEdge_keeps h
      · exact diverge_keeps h
    · exact diverge_keeps h
  · exact openRegion_keeps h
  · exact openRegion_keeps h

theorem execBrk_keeps {s0 : State} {f : BFmt} {s : State} (h : keepsForm s0 s) : nextForm s0 (execBrk f s) := by
  unfold execBrk
  refine asGroup_keeps h fun c => ?_
  extract_lets n es g g1 left s51
  split
  · exact .ok h
  · split
    · exact .error
    · exact .ok h

theorem execCont_keeps {s0 : State} {f : BFmt} {s : State} (h : keepsForm s0 s) : nextForm s0 (execCont f s) := by
  unfold execCont
  refine asOnce_keeps h fun c => ?_
  extract_lets n es g
  split
  · exact .error
  · split
    · exact .error
    · refine .bind fun a ha => ?_
      split
      · next s1 =>
        have hs1 : keepsForm s0 s1 := targetLine_keeps h _ ha
        exact .ok (State.putG_keeps hs1)

theorem execLoop_keeps {s0 : State} {f : BFmt} {s : State} (h : keepsForm s0 s) : nextForm s0 (execLoop f s) := by
  unfold execLoop
  refine asOnce_keeps h fun c => ?_
  extract_lets x g
  split
  · exact .ok h
  · exact Iss.transfer_keeps h

theorem execJmpi_keeps {s0 : State} {f : BFmt} {s : State} (h : keepsForm s0 s) : nextForm s0 (execJmpi f s) := by
  unfold execJmpi
  exact asOnce_keeps h fun c => .bind fun a ha => Iss.transfer_keeps h

theorem execCall_keeps {s0 : State} {f : BFmt} {s : State} (h : keepsForm s0 s) : nextForm s0 (execCall f s) := by
  unfold execCall
  exact asOnce_keeps h fun c => Iss.transfer_keeps h

theorem execCalli_keeps {s0 : State} {f : BFmt} {s : State} (h : keepsForm s0 s) : nextForm s0 (execCalli f s) := by
  unfold execCalli
  exact asOnce_keeps h fun c => .bind fun a ha => Iss.transfer_keeps h

theorem execRet_keeps {s0 : State} {f : BFmt} {s : State} (h : keepsForm s0 s) : nextForm s0 (execRet f s) := by
  unfold execRet
  exact asOnce_keeps h fun c => .bind fun a ha => Iss.transfer_keeps h

theorem execExit_keeps {s0 : State} {f : BFmt} {s : State} (h : keepsForm s0 s) : nextForm s0 (execExit f s) := by
  unfold execExit
  exact asGroup_keeps h fun c => .ok h

theorem execYield_keeps {s0 : State} {f : BFmt} {s : State} (h : keepsForm s0 s) : nextForm s0 (execYield f s) := by
  unfold execYield
  exact asOnce_keeps h fun c => .ok h

/-! ### Thaw -/

theorem Memory.wf_foldl_put {α : Type} {m : Memory} (h : m.wf = true) (l : List α) (a : α → Nat) (b : α → Byte) :
    (l.foldl (fun (m : Memory) x => m.put (a x) (b x)) m).wf = true :=
  List.foldlRecOn (motive := fun m : Memory => m.wf = true) l _ h fun _ hm x _ => Memory.wf_put hm (a x) (b x)

theorem installPage_keeps {s0 : State} {root : Nat} {s : State} {g : APage} {f : Nat} (h : keepsForm s0 s) :
    keepsForm s0 (installPage root s g f) := by
  unfold installPage
  extract_lets old inPage s1
  have h1 : keepsForm s0 s1 := .setMem h rfl rfl fun hs => Memory.wf_foldl_put (Memory.wf_filter hs _) _ _ _
  split
  · exact State.wr_keeps h1
  · exact h1

theorem installTeam_keeps {s0 : State} {ctx : Nat} {r : Ren} {a : Atlas} {s : State} {x : (Nat × Team) × Option Nat}
    (h : keepsForm s0 s) : keepsForm s0 (installTeam ctx r a s x) := by
  unfold installTeam
  extract_lets core s1 t p gs slots bank on put s2
  have h2 : keepsForm s0 { s2 with teams := Map.put s.teams (r.id x.1.1) t } :=
    .putTeams h rfl rfl fun _ => Memory.wf_store Memory.wf_nil _ _
  exact refreshAt_keeps (saveNew_keeps (.foldl (fun _ _ h => h) h2))

theorem installAccs_keeps {s0 : State} {ctx : Nat} {a : Atlas} {plan : List ((Nat × Team) × Option Nat)} {s : State}
    (h : keepsForm s0 s) :
    keepsForm s0 (installAccs ctx a plan s) := by
  unfold installAccs
  refine .foldl (fun s x h => ?_) h
  split
  · exact h
  · exact .foldl (fun _ _ h => State.wr_keeps h) (State.wr_keeps h)

theorem installResvs_keeps {s0 : State} {ctx : Nat} {p : Partition} {a : Atlas} {plan : List ((Nat × Team) × Option Nat)} {s : State}
    (h : keepsForm s0 s) :
    keepsForm s0 (installResvs ctx p a plan s) := .foldl (fun _ _ h => h) h

theorem installLinks_keeps {s0 : State} {ctx : Nat} {r : Ren} {s : State} {m : Nat × List (Nat × Nat × Option Nat)}
    (h : keepsForm s0 s) :
    keepsForm s0 (installLinks ctx r s m) := storeMq_keeps h

theorem installBlock_keeps {s0 : State} {ctx : Nat} {s : State} {b : List Byte} (h : keepsForm s0 s) :
    keepsForm s0 (installBlock ctx s b) := by
  unfold installBlock
  split
  next proc j hj =>
  exact .congr h rfl rfl

theorem installOps_keeps {s0 : State} {ctx : Nat} {r : Ren} {a : Atlas} {plan : List ((Nat × Team) × Option Nat)} {s : State}
    (h : keepsForm s0 s) :
    keepsForm s0 (installOps ctx r a plan s) := .foldl (fun _ _ h => h) (.foldl (fun _ _ h => h) (.foldl (fun _ _ h => h) h))

theorem install_keeps {s0 s : State} {a : Atlas} {ctx part cred : Nat} {p : Partition} {plan : List ((Nat × Team) × Option Nat)}
    {places : List (Option Nat)} (h : keepsForm s0 s) : keepsForm s0 (install s a ctx part cred p plan places) := by
  unfold install
  extract_lets off ds r x s1 s2 s3 s4 s5 s6 s7 s8
  have h2 : keepsForm s0 s2 := by
    refine .foldl (fun t g ht => ?_) (show keepsForm s0 s1 from h)
    split
    · exact installPage_keeps ht
    · exact ht
  have h3 : keepsForm s0 s3 := .foldl (fun _ _ h => installTeam_keeps h) h2
  have h4 : keepsForm s0 s4 := .congr h3 rfl rfl
  have h5 : keepsForm s0 s5 := .foldl (fun _ _ h => installLinks_keeps h) h4
  have h6 : keepsForm s0 s6 := installResvs_keeps (installAccs_keeps (.foldl (fun _ _ h => installBlock_keeps h) h5))
  have h7 : keepsForm s0 s7 := installOps_keeps (.congr h6 rfl rfl)
  have h8 : keepsForm s0 s8 := .foldl (fun _ _ h => serveOrFault_keeps h) h7
  exact .foldl (fun _ _ h => rechoose_keeps h) h8

theorem leavePlaceFor_keeps {s0 s : State} {ctx : Nat} (h : keepsForm s0 s) :
    keepsForm s0 (leavePlaceFor s ctx) := dropContext_keeps (.congr (.foldl (fun _ _ h => unbindJob_keeps h) h) rfl rfl)

theorem thawImage_keeps {s0 s : State} {c : MCmd} {b : List Byte} (h : keepsForm s0 s) : keepsForm s0 (thawImage s c b).1 := by
  unfold thawImage
  split
  · exact h
  · split
    · exact h
    · split
      · exact h
      · dsimp only
        split
        · exact h
        · split
          · split
            · exact h
            · split
              · exact h
              · split
                · exact install_keeps (leavePlaceFor_keeps h)
                · exact install_keeps h
          · split
            · exact h
            · split
              · exact h
              · split
                · exact install_keeps (leavePlaceFor_keeps h)
                · exact install_keeps h

theorem execThaw_keeps {s0 : State} {c : MCmd} {s : State} (h : keepsForm s0 s) : nextForm s0 (execThaw c s) := by
  unfold execThaw
  refine asCommand_keeps h ?_
  extract_lets b
  split
  next s1 st dt hx =>
  have h1 : keepsForm s0 s1 := .fst (thawImage_keeps h) hx
  dsimp only
  split
  · exact .congr h1 rfl rfl
  · exact h1

/-! ### Manage -/

theorem execSurvey_keeps {s0 : State} {c : MCmd} {s : State} (h : keepsForm s0 s) : nextForm s0 (execSurvey c s) := by
  unfold execSurvey
  refine asCommand_keeps h ?_
  split
  · exact State.wr_keeps h
  · exact State.wr_keeps h
  · exact h

theorem setMasks_keeps {s0 s : State} {tbl : DWord} {qs : List Nat} (h : keepsForm s0 s) :
    keepsForm s0 (setMasks s tbl qs) := .foldl (fun _ _ h => h) h

theorem execPartcfg_keeps {s0 : State} {c : MCmd} {s : State} (h : keepsForm s0 s) : nextForm s0 (execPartcfg c s) := by
  unfold execPartcfg
  refine asCommand_keeps h ?_
  split
  · exact h
  · dsimp only
    split
    · exact h
    · split
      · exact h
      · exact setMasks_keeps h

theorem execModeset_keeps {s0 : State} {c : MCmd} {s : State} (h : keepsForm s0 s) : nextForm s0 (execModeset c s) := by
  unfold execModeset
  refine asCommand_keeps h ?_
  split
  · exact h
  · exact h

theorem execRouteset_keeps {s0 : State} {c : MCmd} {s : State} (h : keepsForm s0 s) : nextForm s0 (execRouteset c s) := by
  unfold execRouteset
  refine asCommand_keeps h ?_
  dsimp only
  split
  · exact h
  · exact h

theorem execCtxcreate_keeps {s0 : State} {c : MCmd} {s : State} (h : keepsForm s0 s) : nextForm s0 (execCtxcreate c s) := by
  unfold execCtxcreate
  refine asCommand_keeps h ?_
  split
  · exact h
  · split
    · exact h
    · exact h

theorem execJobbind_keeps {s0 : State} {c : MCmd} {s : State} (h : keepsForm s0 s) : nextForm s0 (execJobbind c s) := by
  unfold execJobbind
  refine asCommand_keeps h ?_
  dsimp only
  split
  · exact h
  · split
    · exact h
    · split
      · exact h
      · exact h

theorem execKeyenrol_keeps {s0 : State} {c : MCmd} {s : State} (h : keepsForm s0 s) : nextForm s0 (execKeyenrol c s) := by
  unfold execKeyenrol
  refine asCommand_keeps h ?_
  split
  · exact h
  · split
    · dsimp only
      split
      · exact h
      · exact h
    · dsimp only
      split
      · exact h
      · exact h

theorem execCfgwrite_keeps {s0 : State} {c : MCmd} {s : State} (h : keepsForm s0 s) : nextForm s0 (execCfgwrite c s) := by
  unfold execCfgwrite
  refine asCommand_keeps h ?_
  dsimp only
  split
  · exact h
  · split
    · exact h
    · exact h

theorem applyRecord_keeps {s0 s : State} {r : List Byte} (h : keepsForm s0 s) : keepsForm s0 (applyRecord s r) := by
  unfold applyRecord
  extract_lets b v
  split
  · exact h
  · exact h
  · exact h
  · exact h
  · exact h

theorem bootRecord_keeps {s0 s : State} {r : List Byte} (h : keepsForm s0 s) : keepsForm s0 (bootRecord s r) := by
  unfold bootRecord
  split
  · exact applyRecord_keeps h
  · exact h

theorem execPowerOn_keeps {s0 : State} {fit : Fitted} {s : State} (h : keepsForm s0 s) : nextForm s0 (execPowerOn fit s) := by
  unfold execPowerOn
  split
  · exact .next h
  · exact .next (.foldl (fun _ _ h => bootRecord_keeps h) reset_keeps)

theorem execPowerRemoved_keeps {s0 s : State} : nextForm s0 (execPowerRemoved s) := .next reset_keeps

theorem execTrainingComplete_keeps {s0 s : State} (h : keepsForm s0 s) : nextForm s0 (execTrainingComplete s) := by
  unfold execTrainingComplete
  refine .next ?_
  split
  · exact h
  · exact h

theorem execThermalSample_keeps {s0 : State} {tj hottest : Nat} {s : State} (h : keepsForm s0 s) :
    nextForm s0 (execThermalSample tj hottest s) := .next h

theorem execThermalShutdown_keeps {s0 s : State} (h : keepsForm s0 s) : nextForm s0 (execThermalShutdown s) := by
  unfold execThermalShutdown
  split
  · exact .next h
  · split
    · exact .next h
    · extract_lets s1 s11
      have hs1 : keepsForm s0 s1 := by
        unfold s1
        split
        · exact endFreeze_keeps h
        · exact h
      exact .next (.congr (.foldl (fun _ _ h => endContext_keeps h) hs1) rfl rfl)

theorem execThermalRecover_keeps {s0 s : State} (h : keepsForm s0 s) : nextForm s0 (execThermalRecover s) := by
  unfold execThermalRecover
  split
  · exact .next h
  · split
    · exact .next h
    · exact .next h

theorem execPackagePowerLimit_keeps {s0 : State} {reached : Bool} {s : State} (h : keepsForm s0 s) :
    nextForm s0 (execPackagePowerLimit reached s) := .next h

theorem execFabricPortStateChange_keeps {s0 : State} {port st peer : Nat} {s : State} (h : keepsForm s0 s) :
    nextForm s0 (execFabricPortStateChange port st peer s) := by
  unfold execFabricPortStateChange
  split
  · exact .next h
  · exact .next h

theorem execGetMeasurements_keeps {s0 : State} {index : Nat} {s : State} (h : keepsForm s0 s) :
    nextForm s0 (execGetMeasurements index s) := by
  unfold execGetMeasurements
  split
  · exact .next h
  · exact .next h

theorem execHostMemAccess_keeps {s0 : State} {wr : Bool} {addr : Nat} {val : Byte} {s : State} (h : keepsForm s0 s) :
    nextForm s0 (execHostMemAccess wr addr val s) := by
  unfold execHostMemAccess
  split
  · exact .next h
  · split
    · exact .next (State.wr_keeps h)
    · exact .next h

theorem markPoison_keeps {s0 s : State} {loc : EccLoc} (h : keepsForm s0 s) : keepsForm s0 (markPoison s loc) := by
  unfold markPoison
  split
  · exact h
  · exact .modTeams h rfl rfl fun _ ht => ht
  · exact h
  · exact h

theorem execEccScrub_keeps {s0 : State} {loc : EccLoc} {uncorrectable : Bool} {s : State} (h : keepsForm s0 s) :
    nextForm s0 (execEccScrub loc uncorrectable s) := by
  unfold execEccScrub
  refine .next ?_
  split
  · exact .congr (markPoison_keeps h) rfl rfl
  · exact .congr h rfl rfl

theorem execCommand_keeps {s0 : State} {op : Nat} {c : MCmd} {s : State} (h : keepsForm s0 s) : nextForm s0 (execCommand op c s) := by
  unfold execCommand
  split
  · exact execSurvey_keeps h
  · exact execLoad_keeps h
  · exact execPartcfg_keeps h
  · exact execModeset_keeps h
  · exact execCtxsw_keeps h
  · exact execFreeze_keeps h
  · exact execThaw_keeps h
  · exact execDirtyscan_keeps h
  · exact execScribebind_keeps h
  · exact execRouteset_keeps h
  · exact execCtxend_keeps h
  · exact execCtxcreate_keeps h
  · exact execJobbind_keeps h
  · exact execKeyenrol_keeps h
  · exact execCfgwrite_keeps h
  · exact execScribeunbind_keeps h
  · exact execScriberead_keeps h
  · exact execScribewrite_keeps h
  · exact execScribesnap_keeps h
  · exact endCtxsw_keeps h
  · exact .next (reply_keeps h)

/-! ### Plane -/

theorem putPlaneOp_keeps {s0 s : State} {team k : Nat} {o : PlaneOp} (h : keepsForm s0 s) : keepsForm s0 (putPlaneOp s team k o) := by
  unfold putPlaneOp
  refine h.modTeam _ fun t ht => ?_
  split
  · exact ht
  · exact ht

theorem planeTrap_keeps {s0 s : State} {k : Nat} {a : PlaneArrival} (h : keepsForm s0 s) : keepsForm s0 (planeTrap s k a) := by
  unfold planeTrap
  split
  · exact h
  · exact raiseTrap_keeps h

theorem planeArrive_keeps {s0 s : State} {c : Iss} {i : Instr} {f : PFmt} {t : Team} {pd : SMap DWord} {regs : List Nat}
    (h : keepsForm s0 s) :
    keepsForm s0 (planeArrive s c i f t pd regs) := by
  unfold planeArrive
  extract_lets k new o0 live bad s1 o1 s71 s81 g1
  split
  · exact raiseTrap_keeps (putPlaneOp_keeps h)
  · split
    · exact raiseTrap_keeps (.foldl (fun _ _ h => planeTrap_keeps h) (putPlaneOp_keeps h))
    · exact putPlaneOp_keeps h

theorem planeInstr_keeps {s0 : State} {i : Instr} {f : PFmt} {s : State} (h : keepsForm s0 s) : nextForm s0 (planeInstr i f s) := by
  unfold planeInstr
  refine asGroup_keeps h fun c => ?_
  split
  · extract_lets h1 w fields pd desc held vs
    split
    · exact .ok h
    · refine .bind fun a ha => ?_
      split
      · exact .error
      · split
        · exact .error
        · split
          · exact .ok (planeArrive_keeps h)
          · exact .ok h
  · exact .ok h

theorem execPshift_keeps {s0 : State} {f : PFmt} {s : State} (h : keepsForm s0 s) : nextForm s0 (execPshift f s) := planeInstr_keeps h

theorem execProt_keeps {s0 : State} {f : PFmt} {s : State} (h : keepsForm s0 s) : nextForm s0 (execProt f s) := planeInstr_keeps h

theorem execPspread_keeps {s0 : State} {f : PFmt} {s : State} (h : keepsForm s0 s) :
    nextForm s0 (execPspread f s) := planeInstr_keeps h

theorem execPfold_keeps {s0 : State} {f : PFmt} {s : State} (h : keepsForm s0 s) : nextForm s0 (execPfold f s) := planeInstr_keeps h

theorem execPrefold_keeps {s0 : State} {f : PFmt} {s : State} (h : keepsForm s0 s) :
    nextForm s0 (execPrefold f s) := planeInstr_keeps h

theorem execPtrans_keeps {s0 : State} {f : PFmt} {s : State} (h : keepsForm s0 s) : nextForm s0 (execPtrans f s) := planeInstr_keeps h

theorem execPew2_keeps {s0 : State} {f : PFmt} {s : State} (h : keepsForm s0 s) : nextForm s0 (execPew2 f s) := planeInstr_keeps h

theorem execPew3_keeps {s0 : State} {f : PFmt} {s : State} (h : keepsForm s0 s) : nextForm s0 (execPew3 f s) := planeInstr_keeps h

theorem execPewc_keeps {s0 : State} {f : PFmt} {s : State} (h : keepsForm s0 s) : nextForm s0 (execPewc f s) := planeInstr_keeps h

theorem execPiota_keeps {s0 : State} {f : PFmt} {s : State} (h : keepsForm s0 s) : nextForm s0 (execPiota f s) := planeInstr_keeps h

theorem execPscan_keeps {s0 : State} {f : PFmt} {s : State} (h : keepsForm s0 s) : nextForm s0 (execPscan f s) := planeInstr_keeps h

theorem execPsel_keeps {s0 : State} {f : PFmt} {s : State} (h : keepsForm s0 s) : nextForm s0 (execPsel f s) := planeInstr_keeps h

theorem execPcmp_keeps {s0 : State} {f : PFmt} {s : State} (h : keepsForm s0 s) : nextForm s0 (execPcmp f s) := planeInstr_keeps h

theorem execPpshift_keeps {s0 : State} {f : PFmt} {s : State} (h : keepsForm s0 s) :
    nextForm s0 (execPpshift f s) := planeInstr_keeps h

theorem execPprot_keeps {s0 : State} {f : PFmt} {s : State} (h : keepsForm s0 s) : nextForm s0 (execPprot f s) := planeInstr_keeps h

theorem execPpspread_keeps {s0 : State} {f : PFmt} {s : State} (h : keepsForm s0 s) :
    nextForm s0 (execPpspread f s) := planeInstr_keeps h

theorem execPpfold_keeps {s0 : State} {f : PFmt} {s : State} (h : keepsForm s0 s) : nextForm s0 (execPpfold f s) := planeInstr_keeps h

theorem execPplog_keeps {s0 : State} {f : PFmt} {s : State} (h : keepsForm s0 s) : nextForm s0 (execPplog f s) := planeInstr_keeps h

theorem execPfill_keeps {s0 : State} {f : PFmt} {s : State} (h : keepsForm s0 s) : nextForm s0 (execPfill f s) := planeInstr_keeps h

theorem pdOnce_keeps {s0 : State} {f : PFmt} {s : State} {fn : Iss → Group} (h : keepsForm s0 s) : nextForm s0 (pdOnce f s fn) := by
  unfold pdOnce
  refine asOnce_keeps h fun c => ?_
  split
  · exact .ok h
  · exact .ok h

theorem execPdset_keeps {s0 : State} {f : PFmt} {s : State} (h : keepsForm s0 s) : nextForm s0 (execPdset f s) := pdOnce_keeps h

theorem execPdsetEdge_keeps {s0 : State} {f : PFmt} {s : State} (h : keepsForm s0 s) :
    nextForm s0 (execPdsetEdge f s) := pdOnce_keeps h

theorem execPdsetDim_keeps {s0 : State} {f : PFmt} {s : State} (h : keepsForm s0 s) : nextForm s0 (execPdsetDim f s) := pdOnce_keeps h

theorem execPdsetLike_keeps {s0 : State} {f : PFmt} {s : State} (h : keepsForm s0 s) :
    nextForm s0 (execPdsetLike f s) := pdOnce_keeps h

theorem execPdget_keeps {s0 : State} {f : PFmt} {s : State} (h : keepsForm s0 s) : nextForm s0 (execPdget f s) := pdOnce_keeps h

theorem execPextr_keeps {s0 : State} {f : PFmt} {s : State} (h : keepsForm s0 s) : nextForm s0 (execPextr f s) := by
  unfold execPextr
  refine asGroup_keeps h fun c => ?_
  split
  · exact .ok h
  · extract_lets fields desc d i j v key
    refine .bind fun a ha => ?_
    split
    · exact .ok h
    · split
      · exact .ok h
      · split
        · exact .error
        · split
          · exact .error
          · exact .ok h

theorem execCollectivePlaneComplete_keeps {s0 : State} {team seq : Nat} {s : State} (h : keepsForm s0 s) :
    nextForm s0 (execCollectivePlaneComplete team seq s) := by
  unfold execCollectivePlaneComplete
  split
  · exact .next h
  · split
    · exact .next h
    · extract_lets here
      split
      · exact .next h
      · split
        · exact .next (putPlaneOp_keeps (.foldl (fun _ _ h => h) h))
        · exact .next h

/-! ### Scalar -/

theorem scalarOp_keeps {s0 : State} {f : SFmt} {s : State} {fn : Iss → DWord} (h : keepsForm s0 s) :
    nextForm s0 (scalarOp f s fn) := by
  unfold scalarOp
  exact asOnce_keeps h fun c => .ok h

theorem execScalarAdd_keeps {s0 : State} {f : SFmt} {s : State} (h : keepsForm s0 s) :
    nextForm s0 (execScalarAdd f s) := scalarOp_keeps h

theorem execScalarSub_keeps {s0 : State} {f : SFmt} {s : State} (h : keepsForm s0 s) :
    nextForm s0 (execScalarSub f s) := scalarOp_keeps h

theorem execScalarMul_keeps {s0 : State} {f : SFmt} {s : State} (h : keepsForm s0 s) :
    nextForm s0 (execScalarMul f s) := scalarOp_keeps h

theorem execScalarMulhi_keeps {s0 : State} {f : SFmt} {s : State} (h : keepsForm s0 s) :
    nextForm s0 (execScalarMulhi f s) := scalarOp_keeps h

theorem execDiv_keeps {s0 : State} {f : SFmt} {s : State} (h : keepsForm s0 s) : nextForm s0 (execDiv f s) := scalarOp_keeps h

theorem execRem_keeps {s0 : State} {f : SFmt} {s : State} (h : keepsForm s0 s) : nextForm s0 (execRem f s) := scalarOp_keeps h

theorem execScalarMin_keeps {s0 : State} {f : SFmt} {s : State} (h : keepsForm s0 s) :
    nextForm s0 (execScalarMin f s) := scalarOp_keeps h

theorem execScalarMax_keeps {s0 : State} {f : SFmt} {s : State} (h : keepsForm s0 s) :
    nextForm s0 (execScalarMax f s) := scalarOp_keeps h

theorem execScalarAnd_keeps {s0 : State} {f : SFmt} {s : State} (h : keepsForm s0 s) :
    nextForm s0 (execScalarAnd f s) := scalarOp_keeps h

theorem execScalarOr_keeps {s0 : State} {f : SFmt} {s : State} (h : keepsForm s0 s) :
    nextForm s0 (execScalarOr f s) := scalarOp_keeps h

theorem execScalarXor_keeps {s0 : State} {f : SFmt} {s : State} (h : keepsForm s0 s) :
    nextForm s0 (execScalarXor f s) := scalarOp_keeps h

theorem execScalarNot_keeps {s0 : State} {f : SFmt} {s : State} (h : keepsForm s0 s) :
    nextForm s0 (execScalarNot f s) := scalarOp_keeps h

theorem execScalarShl_keeps {s0 : State} {f : SFmt} {s : State} (h : keepsForm s0 s) :
    nextForm s0 (execScalarShl f s) := scalarOp_keeps h

theorem execScalarShr_keeps {s0 : State} {f : SFmt} {s : State} (h : keepsForm s0 s) :
    nextForm s0 (execScalarShr f s) := scalarOp_keeps h

theorem execScalarSar_keeps {s0 : State} {f : SFmt} {s : State} (h : keepsForm s0 s) :
    nextForm s0 (execScalarSar f s) := scalarOp_keeps h

theorem execScalarCmp_keeps {s0 : State} {f : SFmt} {s : State} (h : keepsForm s0 s) :
    nextForm s0 (execScalarCmp f s) := scalarOp_keeps h

theorem execScalarSel_keeps {s0 : State} {f : SFmt} {s : State} (h : keepsForm s0 s) :
    nextForm s0 (execScalarSel f s) := scalarOp_keeps h

theorem execScalarMov_keeps {s0 : State} {f : SFmt} {s : State} (h : keepsForm s0 s) :
    nextForm s0 (execScalarMov f s) := scalarOp_keeps h

theorem execScalarPopc_keeps {s0 : State} {f : SFmt} {s : State} (h : keepsForm s0 s) :
    nextForm s0 (execScalarPopc f s) := scalarOp_keeps h

theorem execScalarClz_keeps {s0 : State} {f : SFmt} {s : State} (h : keepsForm s0 s) :
    nextForm s0 (execScalarClz f s) := scalarOp_keeps h

theorem execScalarBfx_keeps {s0 : State} {f : SFmt} {s : State} (h : keepsForm s0 s) :
    nextForm s0 (execScalarBfx f s) := scalarOp_keeps h

theorem execScalarBfi_keeps {s0 : State} {f : SFmt} {s : State} (h : keepsForm s0 s) :
    nextForm s0 (execScalarBfi f s) := scalarOp_keeps h

theorem execMovp_keeps {s0 : State} {f : SFmt} {s : State} (h : keepsForm s0 s) : nextForm s0 (execMovp f s) := scalarOp_keeps h

theorem execMovps_keeps {s0 : State} {f : SFmt} {s : State} (h : keepsForm s0 s) : nextForm s0 (execMovps f s) := by
  unfold execMovps
  exact asGroup_keeps h fun c => .ok h

/-! ### Sched -/

theorem heldAct_keeps {s0 : State} {i : Instr} {s1 s : State} (hs : keepsForm s0 s) : keepsForm s0 (heldAct i s1 s) := by
  unfold heldAct
  split
  · split
    · exact flushPoint_keeps hs
    · exact hs
  · exact hs

theorem passOver_keeps {s0 before s : State} {gid pos : Nat} (hs : keepsForm s0 s) : keepsForm s0 (passOver before s gid pos) := by
  unfold passOver
  split
  · exact hs
  · split
    · exact hs
    · exact hs

theorem demotions_keeps {s0 s : State} (h : keepsForm s0 s) : keepsForm s0 (demotions s) := by
  unfold demotions
  split
  · exact h
  · exact h

theorem endStep_keeps {s0 before s : State} (h : keepsForm s0 before) (hs : keepsForm s0 s) :
    keepsForm s0 (endStep before s) := demotions_keeps (finish_keeps h hs)

theorem issuedState_keeps {s0 s s1 : State} {gid pos : Nat} (h : keepsForm s0 s) (hs1 : keepsForm s0 s1) :
    keepsForm s0 (issuedState s s1 gid pos) := by
  unfold issuedState
  split
  · exact endStep_keeps h h
  · exact demotions_keeps (passOver_keeps hs1)

theorem nextAct_keeps {s0 s : State} (h : keepsForm s0 s) : keepsForm s0 (nextAct s).2 := by
  unfold nextAct
  split
  · exact h
  · exact h

/-! ### The step -/

theorem exec_keeps {s0 : State} (i : Instr) {s : State} (h : keepsForm s0 s) : nextForm s0 (exec i s) := by
  unfold exec
  split
  · exact execAdd_keeps h
  · exact execSub_keeps h
  · exact execMul_keeps h
  · exact execMulhi_keeps h
  · exact execMad_keeps h
  · exact execFma_keeps h
  · exact execMin_keeps h
  · exact execMax_keeps h
  · exact execAbs_keeps h
  · exact execNeg_keeps h
  · exact execClamp_keeps h
  · exact execAddmin_keeps h
  · exact execDot2_keeps h
  · exact execFrnd_keeps h
  · exact execMov_keeps h
  · exact execAnd_keeps h
  · exact execOr_keeps h
  · exact execXor_keeps h
  · exact execNot_keeps h
  · exact execShl_keeps h
  · exact execShr_keeps h
  · exact execSar_keeps h
  · exact execBfx_keeps h
  · exact execBfi_keeps h
  · exact execPopc_keeps h
  · exact execClz_keeps h
  · exact execBrev_keeps h
  · exact execPack_keeps h
  · exact execCmp_keeps h
  · exact execSel_keeps h
  · exact execBallot_keeps h
  · exact execLshf_keeps h
  · exact execPand_keeps h
  · exact execPor_keeps h
  · exact execPxor_keeps h
  · exact execPnot_keeps h
  · exact execRand_keeps h
  · exact execCvt_keeps h
  · exact execRcp_keeps h
  · exact execRsq_keeps h
  · exact execExp2_keeps h
  · exact execLog2_keeps h
  · exact execSin_keeps h
  · exact execCos_keeps h
  · exact execPdset_keeps h
  · exact execPdsetEdge_keeps h
  · exact execPdsetDim_keeps h
  · exact execPdsetLike_keeps h
  · exact execPdget_keeps h
  · exact execPshift_keeps h
  · exact execProt_keeps h
  · exact execPspread_keeps h
  · exact execPfold_keeps h
  · exact execPrefold_keeps h
  · exact execPtrans_keeps h
  · exact execPew2_keeps h
  · exact execPew3_keeps h
  · exact execPewc_keeps h
  · exact execPiota_keeps h
  · exact execPscan_keeps h
  · exact execPsel_keeps h
  · exact execPcmp_keeps h
  · exact execPpshift_keeps h
  · exact execPprot_keeps h
  · exact execPpspread_keeps h
  · exact execPpfold_keeps h
  · exact execPplog_keeps h
  · exact execPfill_keeps h
  · exact execPextr_keeps h
  · exact execCollectivePlaneComplete_keeps h
  · exact execMres_keeps h
  · exact execMrel_keeps h
  · exact execMrelRelease_keeps h
  · exact execMmaQ_keeps h
  · exact execMmaS_keeps h
  · exact execMspmm_keeps h
  · exact execMzero_keeps h
  · exact execMfill_keeps h
  · exact execMdrain_keeps h
  · exact execMbypass_keeps h
  · exact execAccalloc_keeps h
  · exact execAccfree_keeps h
  · exact execMstat_keeps h
  · exact execMatrixGrant_keeps h
  · exact execMatrixRequestUrgent_keeps h
  · exact execMatrixRequestComplete_keeps h
  · exact execScalarAdd_keeps h
  · exact execScalarSub_keeps h
  · exact execScalarMul_keeps h
  · exact execScalarMulhi_keeps h
  · exact execDiv_keeps h
  · exact execRem_keeps h
  · exact execScalarMin_keeps h
  · exact execScalarMax_keeps h
  · exact execScalarAnd_keeps h
  · exact execScalarOr_keeps h
  · exact execScalarXor_keeps h
  · exact execScalarNot_keeps h
  · exact execScalarShl_keeps h
  · exact execScalarShr_keeps h
  · exact execScalarSar_keeps h
  · exact execScalarCmp_keeps h
  · exact execScalarSel_keeps h
  · exact execScalarMov_keeps h
  · exact execScalarPopc_keeps h
  · exact execScalarClz_keeps h
  · exact execScalarBfx_keeps h
  · exact execScalarBfi_keeps h
  · exact execMovp_keeps h
  · exact execMovps_keeps h
  · exact execBra_keeps h
  · exact execBrc_keeps h
  · exact execBrk_keeps h
  · exact execCont_keeps h
  · exact execLoop_keeps h
  · exact execJmpi_keeps h
  · exact execCall_keeps h
  · exact execCalli_keeps h
  · exact execRet_keeps h
  · exact execExit_keeps h
  · exact execYield_keeps h
  · exact execSrd_keeps h
  · exact execSwr_keeps h
  · exact execLaunch_keeps h
  · exact execLd_keeps h
  · exact execSt_keeps h
  · exact execLdf_keeps h
  · exact execStf_keeps h
  · exact execAtom_keeps h
  · exact execRed_keeps h
  · exact execFlushred_keeps h
  · exact execThld_keeps h
  · exact execThst_keeps h
  · exact execPresclr_keeps h
  · exact execPresclrSet_keeps h
  · exact execPrestest_keeps h
  · exact execCpyt_keeps h
  · exact execGath_keeps h
  · exact execGathTh_keeps h
  · exact execScat_keeps h
  · exact execWaitcnt_keeps h
  · exact execCopyAccept_keeps h
  · exact execCopyLineLanded_keeps h
  · exact execCopyComplete_keeps h
  · exact execBarinit_keeps h
  · exact execBarfree_keeps h
  · exact execBararr_keeps h
  · exact execBarwait_keeps h
  · exact execBartest_keeps h
  · exact execMortinit_keeps h
  · exact execMortinitFree_keeps h
  · exact execMortacq_keeps h
  · exact execPegwait_keeps h
  · exact execPeggive_keeps h
  · exact execPegswap_keeps h
  · exact execPegdrop_keeps h
  · exact execMortrel_keeps h
  · exact execMortiseSkipStep_keeps h
  · exact execPublish_keeps h
  · exact execRefresh_keeps h
  · exact execIfence_keeps h
  · exact execGridarr_keeps h
  · exact execMigrate_keeps h
  · exact execMigrateMove_keeps h
  · exact execTrig_keeps h
  · exact execTrigcan_keeps h
  · exact execTriggerFire_keeps h
  · exact execGtcUpdate_keeps h
  · exact execTrap_keeps h
  · exact execSyscall_keeps h
  · exact execTrapret_keeps h
  · exact execHandlerGroupStart_keeps h
  · exact execFetchLine_keeps h
  · exact execFlaggedComplete_keeps h
  · exact execGroupUrgent_keeps h
  · exact execThrottleReselect_keeps h
  · exact execCongestionWindow_keeps h
  · exact execMemoryAccessPerformed_keeps h
  · exact execGroupExitRelease_keeps h
  · exact execPlaceCluster_keeps h
  · exact execLaunchComplete_keeps h
  · exact execShootdownComplete_keeps h
  · exact execRemoteRequestTimeout_keeps h
  · exact execRemoteOriginTimeout_keeps h
  · exact execCollectiveAccept_keeps h
  · exact execScribeDispatch_keeps h
  · exact execVadd_keeps h
  · exact execVsub_keeps h
  · exact execVmul_keeps h
  · exact execVmin_keeps h
  · exact execVmax_keeps h
  · exact execVand_keeps h
  · exact execVor_keeps h
  · exact execVxor_keeps h
  · exact execVshl_keeps h
  · exact execVshr_keeps h
  · exact execVsar_keeps h
  · exact execVsel_keeps h
  · exact execVcmp_keeps h
  · exact execVbc_keeps h
  · exact execVext_keeps h
  · exact execVins_keeps h
  · exact execSadd_keeps h
  · exact execSsub_keeps h
  · exact execSand_keeps h
  · exact execSor_keeps h
  · exact execSxor_keeps h
  · exact execSshl_keeps h
  · exact execSshr_keeps h
  · exact execSaddi_keeps h
  · exact execSmovi_keeps h
  · exact execSmovh_keeps h
  · exact execScmp_keeps h
  · exact execHrd_keeps h
  · exact execHwr_keeps h
  · exact execPld_keeps h
  · exact execPst_keeps h
  · exact execFld_keeps h
  · exact execFst_keeps h
  · exact execRacc_keeps h
  · exact execEmit_keeps h
  · exact execBnz_keeps h
  · exact execBz_keeps h
  · exact execJmp_keeps h
  · exact execScribeRepeat_keeps h
  · exact execPass_keeps h
  · exact execDrop_keeps h
  · exact execTrapk_keeps h
  · exact execContextSwitchDone_keeps h
  · exact execFreezeStepEnd_keeps h
  · exact execFreezeDrainTimeout_keeps h
  · exact execDomainBarrierStep_keeps h
  · exact execPtpMessage_keeps h
  · exact execLqtailWrite_keeps h
  · exact execLqctlWrite_keeps h
  · exact execLqstatErrClear_keeps h
  · exact execTlbictlGo_keeps h
  · exact execCtxsaveWrite_keeps h
  · exact execRegisterWrite_keeps h
  · exact execRemoteRead_keeps h
  · exact execRemoteWrite_keeps h
  · exact execRemoteAtomic_keeps h
  · exact execAckReceived_keeps h
  · exact execNackReceived_keeps h
  · exact execCollectiveStep_keeps h
  · exact execDrainMarker_keeps h
  · exact execScribeControl_keeps h
  · exact execPacketAccept_keeps h
  · exact execSurvey_keeps h
  · exact execLoad_keeps h
  · exact execPartcfg_keeps h
  · exact execModeset_keeps h
  · exact execCtxsw_keeps h
  · exact execFreeze_keeps h
  · exact execThaw_keeps h
  · exact execDirtyscan_keeps h
  · exact execScribebind_keeps h
  · exact execRouteset_keeps h
  · exact execCtxend_keeps h
  · exact execCtxcreate_keeps h
  · exact execJobbind_keeps h
  · exact execKeyenrol_keeps h
  · exact execCfgwrite_keeps h
  · exact execScribeunbind_keeps h
  · exact execScriberead_keeps h
  · exact execScribewrite_keeps h
  · exact execScribesnap_keeps h
  · exact execGetMeasurements_keeps h
  · exact execHostMemAccess_keeps h
  · exact execEccScrub_keeps h
  · exact execPowerOn_keeps h
  · exact execTrainingComplete_keeps h
  · exact execThermalSample_keeps h
  · exact execThermalShutdown_keeps h
  · exact execThermalRecover_keeps h
  · exact execPowerRemoved_keeps
  · exact execFabricPortStateChange_keeps h
  · exact execPackagePowerLimit_keeps h

theorem issueOne_keeps {s0 : State} {first : Bool} {gid pos : Nat} {back s : State} (hb : keepsForm s0 back) (hs : keepsForm s0 s) :
    (issueOne first gid pos back s).keeps s0 := by
  unfold issueOne
  split
  · trivial
  · next hp => exact finish_keeps hs ((prepareAt_keeps hs).done hp)
  · next hp =>
    have h1 := (prepareAt_keeps hs).go hp
    split
    · next hx =>
      split
      · exact heldAct_keeps hb
      · exact finish_keeps h1 (exec_keeps _ h1 _ hx)
    · exact .fault
    · exact .refused

theorem tryIssue_keeps {s0 : State} {gid pos : Nat} {s : State} (h : keepsForm s0 s) : (tryIssue gid pos s).keeps s0 := by
  unfold tryIssue
  split
  · next hx =>
    split
    · exact issueOne_keeps h ((issueOne_keeps h h).next hx)
    · exact (issueOne_keeps h h).next hx
  · exact issueOne_keeps h h

theorem runIssue_keeps {s0 : State} {gid pos : Nat} {s : State} (h : keepsForm s0 s) : nextForm s0 (runIssue gid pos s) := by
  unfold runIssue
  split
  · exact .next (endStep_keeps h h)
  · next hx => exact .next (endStep_keeps h ((tryIssue_keeps h).held hx))
  · next hx => exact (tryIssue_keeps h).stop hx
  · next hx => exact .next (issuedState_keeps h ((tryIssue_keeps h).next hx))

theorem runInstr_keeps {s0 : State} {i : Instr} {s : State} (h : keepsForm s0 s) : nextForm s0 (runInstr i s) := by
  unfold runInstr
  split
  · next hx => exact .next (endStep_keeps h (exec_keeps i h _ hx))
  · exact .fault
  · exact .refused

/-- The state that a Scribe word's fetch leaves, by its two outcomes. -/
theorem scribeWord_error_keeps {s0 s t : State} {proc : Nat} (h : keepsForm s0 s) (hx : scribeWord s proc = some (.error t)) :
    keepsForm s0 t := by
  unfold scribeWord at hx
  split at hx
  · cases hx
  · split at hx
    · cases hx; exact scribeTrap_keeps h
    · cases hx

theorem scribeWord_ok_keeps {s0 s t : State} {proc : Nat} {i : Option Instr} (h : keepsForm s0 s)
    (hx : scribeWord s proc = some (.ok (i, t))) : keepsForm s0 t := by
  unfold scribeWord at hx
  split at hx
  · cases hx
  · split at hx
    · cases hx
    · cases hx; exact h

theorem runScribe_keeps {s0 : State} {proc : Nat} {s : State} (h : keepsForm s0 s) : nextForm s0 (runScribe proc s) := by
  unfold runScribe
  split
  · exact .next (endStep_keeps h h)
  · next hx => exact .next (endStep_keeps h (scribeWord_error_keeps h hx))
  · exact .next (endStep_keeps h h)
  · next hx => exact runInstr_keeps (scribeWord_ok_keeps h hx)

theorem nextCommand_keeps {s0 s : State} (h : keepsForm s0 s) : nextForm s0 (nextCommand s) := by
  unfold nextCommand
  split
  · split
    · next op c rest _ s1 hx =>
      have h1 : keepsForm s0 { s with cmdq := [] } := h
      exact .next (.congr (execCommand_keeps h1 _ hx) rfl rfl)
    · exact .fault
    · exact .refused
  · exact .next h

theorem runAct_keeps {s0 : State} {a : Act} {s : State} (h : keepsForm s0 s) : nextForm s0 (runAct a s) := by
  unfold runAct
  split
  · exact runIssue_keeps h
  · split
    · exact runIssue_keeps h
    · exact .next (endStep_keeps h h)
  · exact runScribe_keeps h
  · split
    · next hx => exact .next (endStep_keeps h (nextCommand_keeps h _ hx))
    · exact .fault
    · exact .refused
  · exact runInstr_keeps h

theorem step_keeps {s0 s : State} (h : keepsForm s0 s) : nextForm s0 (step s) := by
  unfold step
  split
  next a s1 hx =>
  have h1 : keepsForm s0 s1 := .snd (nextAct_keeps h) hx
  split
  · exact runAct_keeps h1
  · split
    · exact runInstr_keeps h1
    · exact .fault

end Sys2Proof.Machine
open Sys2Proof Sys2Proof.Machine Sys2Proof.Claims

/-- Settles O60: one lemma a function of the state, from the memories' own rules up to the step. -/
theorem stepKeepsMemoryForm : Obligations.StepKeepsMemoryForm := by
  unfold Obligations.StepKeepsMemoryForm
  intro s t hs hstep
  exact step_keeps (.refl s) t hstep hs
end

section
/-!
PROOFS. Lanes of logged accesses, performed: what the step makes of the group's entry and of the rest of the state (R55, R320), and
accesses of team memory (O17).
-/
namespace Sys2Proof.Machine
open Sys2Proof.Claims

/-! ### Lanes of an entry are performed (R55, R320) -/

/-- What a refresh learns does not read the groups' entries. -/
theorem learn_withGroups {s : State} {gid : Nat} {g g' : Group} {gs : SMap Group} (scope : Nat) (hg : Map.find s.groups gid = some g)
    (hg' : Map.find gs gid = some g') (he : { g' with entries := g.entries } = g) :
    learn { s with groups := gs } gid scope = { learn s gid scope with groups := gs } := by
  have hmark : pubMark { s with groups := gs } gid g' scope = pubMark s gid g scope := by rw [← he]; rfl
  unfold learn
  simp only [hg, hg', hmark]
  split <;> rfl

theorem refreshAt_withGroups (s : State) (gs : SMap Group) (core scope : Nat) :
    refreshAt { s with groups := gs } core scope = { refreshAt s core scope with groups := gs } := by
  unfold refreshAt
  split <;> rfl

/-- A refresh and a change of a group's entries commute. -/
theorem refreshed_withGroups {s : State} {gid : Nat} {g g' : Group} {gs : SMap Group} (core scope : Nat)
    (hg : Map.find s.groups gid = some g) (hg' : Map.find gs gid = some g') (he : { g' with entries := g.entries } = g) :
    learn (refreshAt { s with groups := gs } core scope) gid scope = { learn (refreshAt s core scope) gid scope with groups := gs } := by
  rw [refreshAt_withGroups, learn_withGroups scope (by simpa using hg) hg' he]

/-- The refresh of an entry whose lanes are all performed (R320). -/
def acquired (e : Entry) (gid core : Nat) (t : State) : State :=
  match e.ref with
  | some scope => learn (refreshAt t core scope) gid scope
  | none => t

theorem afterAcquire_last {e : Entry} {m : Mask} (h : maskMinus e.mask (e.done ||| m) = 0) (gid core : Nat) (t : State) :
    afterAcquire e m gid core t = acquired e gid core t := by
  unfold afterAcquire acquired
  cases e.ref with
  | none => rfl
  | some scope => exact if_pos h

theorem afterAcquire_left {e : Entry} {m : Mask} (h : maskMinus e.mask (e.done ||| m) ≠ 0) (gid core : Nat) (t : State) :
    afterAcquire e m gid core t = t := by
  unfold afterAcquire
  cases e.ref with
  | none => rfl
  | some scope => exact if_neg h

theorem acquired_withGroups {s : State} {gid : Nat} {g g' : Group} {gs : SMap Group} (e : Entry) (core : Nat)
    (hg : Map.find s.groups gid = some g) (hg' : Map.find gs gid = some g') (he : { g' with entries := g.entries } = g) :
    acquired e gid core { s with groups := gs } = { (acquired e gid core s) with groups := gs } := by
  unfold acquired
  split
  · exact refreshed_withGroups core _ hg hg' he
  · rfl

@[simp] theorem acquired_groups (e : Entry) (gid core : Nat) (t : State) : (acquired e gid core t).groups = t.groups := by
  unfold acquired
  split
  · simp
  · rfl

/-- R55: an entry whose lanes are all performed is ready where it chose a flag, and is freed where it chose none. -/
theorem entryOver_acquired {s : State} {gid id : Nat} {g : Group} {e : Entry} (hg : Map.find s.groups gid = some g)
    (he : g.entries.find? (fun x => x.id == id) = some e) (ho : e.over = true) : entryOver s gid id =
      if e.flag.isSome then modEntry (acquired e gid g.core s) gid id (fun x => { x with ready := true })
      else { (acquired e gid g.core s) with
        groups := Map.modify s.groups gid (fun g => { g with entries := g.entries.filter (fun x => x.id != id) }) } := by
  unfold entryOver
  simp only [hg, he, ho, Bool.not_true, Bool.false_eq_true, ↓reduceIte]
  split
  · rfl
  · rw [← acquired_groups e gid g.core s]
    rfl

/-- R55, R320, R380: after lanes of an entry are performed, its refresh is made over a state whose group is as `entryAfter` says and
that is else as it was. -/
theorem entryOver_afterAcquire {s : State} {gid : Nat} {g : Group} {e : Entry} (hg : Map.find s.groups gid = some g)
    (he : g.entries.find? (fun x => x.id == e.id) = some e) (m : Mask) (outs : List RegWrite) (fails : Bool) :
    ∃ gs g', entryOver (laneDone s gid e m outs fails) gid e.id = afterAcquire e m gid g.core { s with groups := gs } ∧
      Map.find gs gid = some g' ∧ entryAfter g g' (afterLanes e m outs fails) ∧
      ∀ k, k ≠ gid → Map.find gs k = Map.find s.groups k := by
  obtain ⟨g1, hg1, hold⟩ := modEntry_entryIs hg he (fn := fun x => lanesOver x m outs fails) (fun _ => rfl)
  have hothers := fun k hk => modEntry_others s gid e.id (fun x => lanesOver x m outs fails) (k := k) hk
  rw [← laneDone_eq] at hg1 hothers
  obtain ⟨hfind, hmem, hframe⟩ := id hold
  have hover : (lanesOver e m outs fails).over = true ↔ maskMinus e.mask (e.done ||| m) = 0 := over_iff _
  have hcore : g1.core = g.core := (congrArg Group.core hframe :)
  have hacq : ∀ {gs g'}, Map.find gs gid = some g' → { g' with entries := g1.entries } = g1 →
      { (acquired (lanesOver e m outs fails) gid g1.core (laneDone s gid e m outs fails)) with groups := gs } =
        acquired e gid g.core { s with groups := gs } := fun hf hx => by
    rw [← acquired_withGroups _ _ hg1 hf hx, hcore]; rfl
  by_cases hz : maskMinus e.mask (e.done ||| m) = 0
  · have heq := entryOver_acquired hg1 hfind (hover.mpr hz)
    simp only [afterAcquire_last hz]
    cases hf : e.flag with
    | none =>
      rw [if_neg (by simp [lanesOver, hf])] at heq
      refine ⟨_, _, heq.trans (hacq (Map.find_modify_some hg1 _) rfl), Map.find_modify_some hg1 _,
        ⟨?_, fun _ _ => ⟨fun x => ?_, hframe⟩⟩, ?_⟩
      · rintro (h | h)
        · exact absurd hf h
        · exact absurd hz h
      · simp only [List.mem_filter, bne_iff_ne]
        exact and_congr_left (hmem x)
      · intro k hk
        rw [Map.find_modify, if_neg hk]
        exact hothers k hk
    | some fl =>
      rw [if_pos (by simp [lanesOver, hf])] at heq
      obtain ⟨g2, hg2, hnew⟩ := modEntry_entryIs hg1 hfind (fn := fun x => { x with ready := true }) (fun _ => rfl)
      have hafter : { lanesOver e m outs fails with ready := true } = afterLanes e m outs fails := by
        unfold afterLanes
        rw [if_pos hz]
        rfl
      refine ⟨_, g2, (heq.trans ?_).trans (hacq hg2 hnew.2.2), hg2,
        ⟨fun _ => hafter ▸ entryIs_trans hold hnew rfl, fun h => absurd (hf ▸ h) (by simp)⟩, ?_⟩
      · unfold modEntry
        rw [acquired_groups]
      · exact fun k hk => (modEntry_others _ _ _ _ hk).trans (hothers k hk)
  · have hafter : lanesOver e m outs fails = afterLanes e m outs fails := by
      unfold afterLanes
      rw [if_neg hz]
      rfl
    refine ⟨_, g1, ?_, hg1, ⟨fun _ => hafter ▸ hold, fun _ h => absurd h hz⟩, hothers⟩
    rw [afterAcquire_left hz]
    exact entryOver_left hg1 hfind (Bool.not_eq_true _ ▸ fun h => hz (hover.mp h))

/-- A pending lane whose access is performed over a state with the same groups. -/
theorem lane_performed {s s1 : State} {gid l : Nat} {g : Group} {e : Entry} (h : lanePending s gid g e l) (resp : Line)
    {outs : List RegWrite} {fails : Bool} (hp : performLane s gid g e l (Map.get 0 e.addr l) = .done s1 outs fails)
    (hs : s1.groups = s.groups) :
    ∃ gs g', exec (.memoryAccessPerformed (.lane gid e.id l) resp) s =
        .next (afterAcquire e (laneBit l) gid g.core { s1 with groups := gs }) ∧
      Map.find gs gid = some g' ∧ entryAfter g g' (afterLane e l outs fails) ∧
      ∀ k, k ≠ gid → Map.find gs k = Map.find s.groups k := by
  obtain ⟨gs, g', heq, hfind, hafter, hothers⟩ := entryOver_afterAcquire (hs ▸ h.1) h.2.1 (laneBit l) outs fails
  exact ⟨gs, g', (lane_done h resp hp).trans (congrArg _ heq), hfind, hafter, fun k hk => (hothers k hk).trans (hs ▸ rfl)⟩

/-! ### Team memory (R262) -/

theorem getD_leBytes_sub {a k n w : Nat} (h : a ≤ k ∧ k < a + n) : (leBytes n w).getD (k - a) 0 = BitVec.ofNat 8 (w / 256 ^ (k - a)) :=
  getD_leBytes (by omega) w

/-- A store of the bytes of a number, least significant first. -/
theorem Memory.byte_store_leBytes (m : Memory) (a n w k : Nat) :
    (m.store a (leBytes n w)).byte k = if a ≤ k ∧ k < a + n then BitVec.ofNat 8 (w / 256 ^ (k - a)) else m.byte k := by
  rw [Memory.byte_store, length_leBytes]
  split
  · next h => exact getD_leBytes_sub h
  · rfl

theorem length_loadOuts (r l : Nat) (bs : List Byte) : (loadOuts r l bs).length = (bs.length + 3) / 4 := by simp [loadOuts]

@[simp] theorem leNat_append_zeros (bs : List Byte) (n : Nat) : leNat (bs ++ List.replicate n 0#8) = leNat bs := by
  induction bs with
  | nil =>
    induction n with
    | zero => rfl
    | succ n ih => simpa [leNat, List.replicate_succ] using ih
  | cons b bs ih => simp [leNat, ih]

/-- A slice of a load: the bytes it has, padded with zeros. -/
theorem sliceB_load (m : Memory) (a n lo w : Nat) : sliceB (m.load a n) lo w =
    (List.range (min w (n - lo))).map (fun b => m.byte (a + lo + b)) ++ List.replicate (w - (n - lo)) 0 := by
  refine List.ext_getElem (by simp [sliceB]; omega) fun j hj _ => ?_
  by_cases h : lo + j < n
  · have hin : j < min w (n - lo) := by simp [sliceB] at hj; omega
    simp [sliceB, Memory.load, hin, h, Nat.add_assoc]
  · have hout : ¬ j < min w (n - lo) := by omega
    simp [sliceB, Memory.load, List.getElem_append, hout, h]

/-- R262: the k-th register of a load takes up to four bytes from byte 4k on. -/
theorem getElem?_loadOuts_load (r l : Nat) (m : Memory) (a : Nat) {n k : Nat} (h : k < (n + 3) / 4) :
    (loadOuts r l (m.load a n))[k]? = some (.v (r + k) l (BitVec.ofNat 32
      (leNat ((List.range (min 4 (n - 4 * k))).map (fun b => m.byte (a + 4 * k + b)))))) := by
  simp [loadOuts, leAt, sliceB_load, h]

theorem performLane_st_team {s : State} {gid l : Nat} {g : Group} {e : Entry} {f : MFmt} {t : Team} {va : DWord}
    (hi : e.instr = .st f) (hspc : f.spc = .tm) (ht : Map.find s.teams g.team = some t)
    (htag : taggedIn t.tags va.toNat f.wid.bytes = false) : performLane s gid g e l va =
      .done { s with teams := Map.put s.teams g.team (t.wr va.toNat (storeBytes e l f.wid.bytes)) } [] false := by
  simp [performLane, hi, hspc, teamPerf, ht, htag]

theorem performLane_ld_team {s : State} {gid l : Nat} {g : Group} {e : Entry} {f : MFmt} {t : Team} {va : DWord}
    (hi : e.instr = .ld f) (hspc : f.spc = .tm) (ht : Map.find s.teams g.team = some t)
    (hp : poisoned t.poison va.toNat f.wid.bytes = false) : performLane s gid g e l va =
      .done { s with teams := Map.put s.teams g.team t } (loadOuts f.r.dst.toNat l (t.rd va.toNat f.wid.bytes)) false := by
  simp [performLane, hi, hspc, teamPerf, ht, hp]

end Sys2Proof.Machine
open Sys2Proof Sys2Proof.Machine Sys2Proof.Claims

/-- Settles O17: a lane's access changes only its team's memory, and `entryOver_afterAcquire` says what becomes of its entry. -/
theorem teamAccesses : Obligations.TeamAccesses := by
  unfold Obligations.TeamAccesses
  refine ⟨?_, ?_⟩
  · intro s gid l g e f t resp h hi hspc ht _ va htag
    obtain ⟨gs, g', hex, hfind, hafter, hothers⟩ := lane_performed h resp (performLane_st_team hi hspc ht htag) rfl
    refine ⟨_, t.wr va (storeBytes e l f.wid.bytes), g', hex, Map.find_put_self .., hfind, fun a => ?_, hafter, rfl, rfl,
      fun k hk => Map.find_put_ne _ _ hk, hothers⟩
    exact Memory.byte_store_leBytes ..
  · intro s gid l g e f t resp h hi hspc ht va hp
    obtain ⟨gs, g', hex, hfind, hafter, hothers⟩ := lane_performed h resp (performLane_ld_team hi hspc ht hp) rfl
    have hlen : (loadOuts f.r.dst.toNat l (t.rd va f.wid.bytes)).length = (f.wid.bytes + 3) / 4 := by
      simp [length_loadOuts, Team.rd]
    refine ⟨_, g', _, hex, hfind, hafter, hlen, fun k hk => ?_, fun k => ?_, rfl, hothers⟩
    · exact getElem?_loadOuts_load _ _ _ _ (hlen ▸ hk)
    · by_cases hk : k = g.team
      · rw [hk, ht]; exact Map.find_put_self ..
      · exact Map.find_put_ne _ _ hk
end

section
/-!
PROOFS. RED entries: their issue, their flush points and their drain (R266, R267), and the obligation ReductionIssues. What a
translation and a write of an unreplicated page leave alone (R249 to R251, R327).
-/
namespace Sys2Proof.Machine
open Sys2Proof.Claims

/-! ### What a translation and a write at home leave alone (R249 to R251, R327) -/

/-- A translation changes the held leaves, and the DIRTY bit in memory (R251). -/
theorem xlate_frame {s t : State} {core ctx root : Nat} {va : DWord} {a : Acc} {tg : Tgt}
    (h : xlate s core ctx root va a = .ok (tg, t)) : { t with mem := s.mem, tlb := s.tlb } = s := by
  obtain ⟨l, -, -, -, rfl⟩ := xlate_ok h
  unfold holdLeaf
  dsimp only
  split <;> rfl

theorem applyFrames_frame (s : State) (pa n : Nat) :
    { applyFrames s pa n with mem := s.mem, poison := s.poison, frameQ := s.frameQ } = s :=
  List.foldlRecOn (motive := fun t : State => { t with mem := s.mem, poison := s.poison, frameQ := s.frameQ } = s) _
    (fun s (u : FrameUpd) => s.wr u.pa u.bytes) rfl (fun _ h _ _ => h)

@[simp] theorem applyFrames_groups (s : State) (pa n : Nat) : (applyFrames s pa n).groups = s.groups :=
  (congrArg State.groups (applyFrames_frame s pa n) :)

theorem xlate_groups {s t : State} {core ctx root : Nat} {va : DWord} {a : Acc} {tg : Tgt}
    (h : xlate s core ctx root va a = .ok (tg, t)) : t.groups = s.groups := (congrArg State.groups (xlate_frame h) :)

/-- A write of an unreplicated page comes after the updates of its bytes that are still queued (R327). -/
theorem wrTgt_home (s : State) (w : Writer) (pa size : Nat) (prop : Bool) (bs : List Byte) :
    wrTgt s w pa size false prop bs = (applyFrames s pa bs.length).wr pa bs := rfl

theorem framesOf_home (pa size : Nat) : framesOf pa size false = [pa] := rfl

/-! ### The lines of peers that are on their way (R248) -/

/-- The requests of `t` are those of `s`, but for which of them fill the cache. -/
def sameFills (s t : State) : Prop :=
  t.fabReqs.map (fun r => (r.1, { r.2 with fresh := false })) = s.fabReqs.map (fun r => (r.1, { r.2 with fresh := false }))

theorem staleFills_sameFills (s : State) (core key : Nat) : sameFills s (staleFills s core key) := by
  simp only [sameFills, staleFills, List.map_map]
  refine List.map_congr_left fun r _ => ?_
  simp only [Function.comp_apply]
  split <;> rfl

theorem farRed_frame (s : State) (gid core key : Nat) : { farRed s gid core key with cores := s.cores, fabReqs := s.fabReqs } = s := by
  unfold farRed staleFills
  dsimp only
  split <;> rfl

theorem farRed_sameFills (s : State) (gid core key : Nat) : sameFills s (farRed s gid core key) := by
  unfold farRed
  dsimp only
  split
  · exact staleFills_sameFills _ core key
  · exact staleFills_sameFills s core key

@[simp] theorem farRed_groups (s : State) (gid core key : Nat) : (farRed s gid core key).groups = s.groups :=
  (congrArg State.groups (farRed_frame s gid core key) :)

@[simp] theorem farRed_mem (s : State) (gid core key : Nat) : (farRed s gid core key).mem = s.mem :=
  (congrArg State.mem (farRed_frame s gid core key) :)

/-- A RED that is drained changes its bytes, what its group reads in the cache, and which requests fill it (R248). -/
theorem farRed_sameButFills (s : State) (pa : Nat) (bs : List Byte) (gid core key : Nat) :
    sameButFills s { farRed (s.wr pa bs) gid core key with mem := s.mem, poison := s.poison, cores := s.cores } :=
  ⟨(congrArg (fun y : State => { y with mem := s.mem, poison := s.poison }) (farRed_frame (s.wr pa bs) gid core key) :),
    farRed_sameFills (s.wr pa bs) gid core key⟩

/-- A request stays, but for whether it fills the cache. -/
theorem find_staleFills {s : State} {tag : Nat} {r : FabReq} (h : Map.find s.fabReqs tag = some r) (core key : Nat) :
    ∃ fresh, Map.find (staleFills s core key).fabReqs tag = some { r with fresh := fresh } := by
  have hfind := Map.find_map_values s.fabReqs (fun r =>
    (r.1, if r.2.core == core && farKeyPeer r.2.pkt.dest r.2.pkt.addr.toNat == key then { r.2 with fresh := false } else r.2)) (fun _ => rfl) tag
  rw [h] at hfind
  dsimp only [Option.map_some] at hfind
  split at hfind
  · exact ⟨false, hfind⟩
  · exact ⟨r.fresh, hfind⟩

theorem find_farRed {s : State} {tag : Nat} {r : FabReq} (h : Map.find s.fabReqs tag = some r) (gid core key : Nat) :
    ∃ fresh, Map.find (farRed s gid core key).fabReqs tag = some { r with fresh := fresh } := by
  unfold farRed
  dsimp only
  split
  · exact find_staleFills h core key
  · exact find_staleFills h core key

/-! ### The drain of one entry (R266) -/

theorem exec_drain (s : State) (gid : Nat) (resp : Line) :
    exec (.memoryAccessPerformed (.drain gid) resp) s = .next (drainGroup s gid) := rfl

section Drain
variable {s : State} {gid : Nat} {g : Group} {r : RedEntry} {rest : List RedEntry}

/-- The first entry of a group is the one that a flush point has reached. -/
structure DrainsFirst (s : State) (gid : Nat) (g : Group) (r : RedEntry) (rest : List RedEntry) : Prop where
  find : Map.find s.groups gid = some g
  red : g.red = r :: rest
  reached : r.id < g.redUpTo
  later : ∀ x ∈ rest, g.redUpTo ≤ x.id

theorem drainGroup_first (h : DrainsFirst s gid g r rest) : drainGroup s gid =
    { (drainList s [r]).2 with
      groups := Map.modify (drainList s [r]).2.groups gid (fun g => { g with red := (drainList s [r]).1 ++ rest }) } := by
  obtain ⟨hg, hred, hr, hlater⟩ := h
  have hnow : (r :: rest).filter (fun x => decide (x.id < g.redUpTo)) = [r] := by
    rw [List.filter_cons_of_pos (by simpa using hr), List.filter_eq_nil_iff.mpr fun x hx => by simpa using hlater x hx]
  have hrest : (r :: rest).filter (fun x => !decide (x.id < g.redUpTo)) = rest := by
    rw [List.filter_cons_of_neg (by simpa using hr), List.filter_eq_self.mpr fun x hx => by simpa using hlater x hx]
  simp only [drainGroup, hg, hred, hnow, hrest]

theorem drain_done (h : DrainsFirst s gid g r rest) (resp : Line) {t : State} {o : List RegWrite} {b : Bool}
    (hd : drainOne s r = .done t o b) : exec (.memoryAccessPerformed (.drain gid) resp) s =
      .next { t with groups := Map.modify t.groups gid (fun g => { g with red := rest }) } := by
  rw [exec_drain, drainGroup_first h]
  simp [drainList, hd]

/-- R378: the origin of an entry that a tagged line refuses. -/
theorem drainFault_tagged (s : State) (r : RedEntry) : drainFault s r cBarOverwrite 0 0 =
    raiseTrap s { gid := r.gid, pos := r.pos, pc := r.pc, act := r.mask, kind := 2, ref := r.id }
      { cause := cBarOverwrite, addr := [(lowLane r.mask, r.addr)] } := by
  simp [drainFault]

/-- R266: the origin of an entry whose address does not translate. -/
theorem drainFault_replayed (s : State) (r : RedEntry) {c : Nat} (hc : c ≠ cBarOverwrite) (d : Nat) : drainFault s r c d 0 =
    raiseTrap s { gid := r.gid, pos := r.pos, pc := r.pc, act := laneBit r.lane, kind := 1, ref := r.id }
      { cause := c, detail := d, lanes := laneBit r.lane, addr := [(r.lane, r.addr)] } := by
  simp [drainFault, hc]

/-- R247: a tagged line refuses the entry, which is over. -/
theorem drain_refused (h : DrainsFirst s gid g r rest) (resp : Line) {t : State} (hd : drainOne s r = .fault t cBarOverwrite 0 0) :
    exec (.memoryAccessPerformed (.drain gid) resp) s = .next { drainFault t r cBarOverwrite 0 0 with
      groups := Map.modify (drainFault t r cBarOverwrite 0 0).groups gid (fun g => { g with red := rest }) } := by
  rw [exec_drain, drainGroup_first h]
  simp [drainList, hd]

/-- R266: an entry whose address does not translate stays. -/
theorem drain_faulted (h : DrainsFirst s gid g r rest) (resp : Line) {t : State} {c d aux : Nat} (hd : drainOne s r = .fault t c d aux)
    (hc : c ≠ cBarOverwrite) (hfull : faultsFull s r.gid = false) : exec (.memoryAccessPerformed (.drain gid) resp) s =
      .next { drainFault t r c d aux with
        groups := Map.modify (drainFault t r c d aux).groups gid (fun g => { g with red := { r with faulted := true } :: rest }) } := by
  rw [exec_drain, drainGroup_first h]
  simp [drainList, hd, hc, hfull]

end Drain

/-- The request that takes an entry to a peer: an atomic that returns nothing (R266, R346). -/
def redRequest (s : State) (g : Group) (r : RedEntry) (rank : Nat) : FabReq :=
  { pkt := { mkPacket s.takeId.2 g.ctx 2 rank r.addr.toNat s.nextId with
      addr := r.addr, plen := r.wid, payload := r.data.setWidth 512, aop := r.fn, aty := r.ty, awid := r.wid, lane := r.lane },
    gid := r.gid, core := g.core, entry := r.id, lanes := laneBit r.lane, posted := true, fresh := false, seen := [], va := r.addr,
    copy := none, scribe := none, pc := r.pc, pos := r.pos, mask := r.mask, sent := 0 }

section Homes
variable {s s1 : State} {g : Group} {r : RedEntry} (hg : Map.find s.groups r.gid = some g) (hf : r.faulted = false)
  (hb : redBehind s g r = false)
include hg hf hb

theorem drainOne_fault {c d : Nat} (hx : xlate s g.core g.ctx (rootOf s g) r.addr .w = .error (c, d)) :
    drainOne s r = .fault s c d 0 := by
  simp [drainOne, hg, hf, hb, hx]

theorem drainOne_peer {rank : Nat} (hx : xlate s g.core g.ctx (rootOf s g) r.addr .w = .ok (.peer rank, s1))
    (hl : lineHeld s r.gid g rank r.addr.toNat = false) (hp : postFull g = false) : drainOne s r =
      .done (farRed (postWrite s1.takeId.2 r.gid (redRequest s1 g r rank)) r.gid g.core (farKeyPeer rank r.addr.toNat)) [] false := by
  simp [drainOne, hg, hf, hb, hx, hl, hp, redRequest, State.takeId]

variable {pa size : Nat} {prop : Bool} (hx : xlate s g.core g.ctx (rootOf s g) r.addr .w = .ok (.loc pa size false prop, s1))
include hx

theorem drainOne_tagged (ht : taggedIn s1.tags pa r.wid = true) : drainOne s r = .fault s1 cBarOverwrite 0 0 := by
  simp [drainOne, hg, hf, hb, hx, atomAt, framesOf_home, ht]

theorem drainOne_home (ht : taggedIn s1.tags pa r.wid = false) (hpres : presentIn s1 pa r.wid = true)
    (hpois : poisoned s1.poison pa r.wid = false) : drainOne s r =
      .done (farRed ((applyFrames s1 pa r.wid).wr pa
        (leBytes r.wid (atomNew r.fn r.ty r.wid (leNat (s1.mem.load pa r.wid)) r.data.toNat 0))) r.gid g.core (farKeyLoc pa)) [] false := by
  simp [drainOne, hg, hf, hb, hx, atomAt, framesOf_home, frameFor, ht, hpres, hpois, rdHome, rdTgt, State.rd, wrTgt_home, length_leBytes]

end Homes

/-! ### The post to a peer (R346) -/

theorem sendOut_groups (s : State) (p : Packet) (m : OutMsg) : (sendOut s p m).groups = s.groups := by
  unfold sendOut
  split
  · unfold State.send
    split <;> rfl
  · split
    · next hs =>
      unfold enqueue at hs
      dsimp only at hs
      split at hs
      · cases hs
      · cases hs; rfl
    · rfl

/-- R346: a posted write of a rank that has a device is a request, and its group waits for one acknowledgement more. -/
theorem postWrite_sent {s : State} {gid : Nat} {g : Group} (hg : Map.find s.groups gid = some g) {r : FabReq}
    (hm : rankMapped s g.ctx r.pkt.dest = true) : (postWrite s gid r).mem = s.mem ∧
      Map.find (postWrite s gid r).groups gid = some { g with acks := g.acks + 1 } ∧
      Map.find (postWrite s gid r).fabReqs r.pkt.tag = some { r with sent := s.tick } := by
  have heq : postWrite s gid r = sendReq { s with groups := Map.modify s.groups gid (fun g => { g with acks := g.acks + 1 }) } r := by
    simp only [postWrite, hg, hm, if_true]
  obtain ⟨-, hmem, hreq⟩ := sendOut_frame { s with
    groups := Map.modify s.groups gid (fun g => { g with acks := g.acks + 1 }), fabReqs := Map.put s.fabReqs r.pkt.tag { r with sent := s.tick } }
    r.pkt (.request r.pkt)
  rw [heq]
  refine ⟨hmem, ?_, ?_⟩
  · exact (congrArg (fun m => Map.find m gid) (sendOut_groups _ r.pkt (.request r.pkt))).trans (Map.find_modify_some hg _)
  · exact (congrArg (fun m => Map.find m r.pkt.tag) hreq).trans (Map.find_put_self ..)

/-! ### RED and FLUSHRED at issue (R266, R267) -/

theorem redEntries_lanes (c : Iss) (f : MFmt) (id : Nat) : (redEntries c f id).map RedEntry.lane = lanesOf c.on := by
  simp [redEntries, Function.comp_def]

theorem misaligned_eq_zero {c : Iss} {f : MFmt} {atomic : Bool} (h : lanesAligned c f atomic) :
    misaligned (c.laneAddr f atomic) c.on f.wid.bytes = 0 := by
  refine BitVec.eq_of_getLsbD_eq fun l hl => ?_
  rw [misaligned, getLsbD_maskOf]
  cases hon : c.on.getLsbD l with
  | false => simp
  | true => simp [h l hl hon]

theorem takesEntry_post (s : State) (c : Iss) (i : Instr) (op : HomeOp) (r : AccReq) :
    takesEntry i s c (mkEntry s.nextId i c op r) (post s c i op r) := by
  have hmark := Group.markFlag_frame { (c.g.advance c.pos) with entries := c.g.entries ++ [mkEntry s.nextId i c op r] } (c.flag i)
  refine ⟨_, rfl, ?_, rfl, rfl, rfl, rfl, rfl, rfl, rfl, flagMarked_markFlag c i _ (c.g.advance_cf c.pos), ?_, ?_⟩
  · exact (congrArg Group.entries hmark :)
  · exact (congrArg Group.splits hmark :)
  · refine Eq.trans ?_ (c.g.advance_frame c.pos)
    have h := (congrArg (fun y : Group => { y with entries := c.g.entries, cf := c.g.cf, splits := c.g.splits }) hmark :)
    refine h.trans ?_
    have h1 : (c.g.advance c.pos).cf = c.g.cf := c.g.advance_cf c.pos
    have h2 : (c.g.advance c.pos).entries = c.g.entries := (congrArg Group.entries (c.g.advance_frame c.pos) :)
    rw [← h1, ← h2]

section Issue
variable {s : State} {f : MFmt} {c : Iss} (hc : issuer s f.r.g = some c)
include hc

theorem red_off (h0 : c.on = 0) : completesAs (.red f) s c c.g := by
  show execRed f s = _
  rw [execRed, asGroup_eq hc, if_pos (by simpa using h0)]
  rfl

theorem red_holds (h0 : c.on ≠ 0) (hal : lanesAligned c f true) (hhold : c.g.holds c.sp.word (.red f) = false)
    (hroom : c.g.red.length + laneCount c.on ≤ 64) : exec (.red f) s = .next
      { s.putG c.gid ({ c.g with red := c.g.red ++ redEntries c f s.nextId }.advance c.pos) with nextId := s.nextId + 1 } := by
  have hover : c.g.redOver (laneCount c.on) = false := by simpa [Group.redOver] using hroom
  show execRed f s = _
  rw [execRed, asGroup_eq hc, if_neg (by simpa using h0), misaligned_eq_zero hal, holdAtIssue_ok hhold, hover]
  rfl

theorem flushred_none (h0 : c.g.red = []) (hhold : c.g.holds c.sp.word (.flushred f) = false) : completesAs (.flushred f) s c c.g := by
  by_cases hon : c.on = 0
  · exact asOnce_off hc hon _
  · show execFlushred f s = _
    rw [execFlushred, asOnce_on hc hon, holdAtIssue_ok hhold, h0]
    rfl

theorem flushred_points (hon : c.on ≠ 0) (h0 : c.g.red ≠ []) (hhold : c.g.holds c.sp.word (.flushred f) = false) :
    exec (.flushred f) s = .next (flushPoint
      (post s c (.flushred f) .flush { on := laneBit (lowLane c.act), addr := [], data := [], cmp := [] }) c.gid) := by
  show execFlushred f s = _
  rw [execFlushred, asOnce_on hc hon, holdAtIssue_ok hhold]
  simp [h0, finishGroup, bind, Except.bind, pure, Except.pure]

end Issue

/-! ### The entry of a FLUSHRED (R267) -/

theorem exec_flush {s : State} {gid l : Nat} {g : Group} {e : Entry} (resp : Line) (hg : Map.find s.groups gid = some g)
    (he : g.entries.find? (fun x => x.id == e.id) = some e) (hop : e.op = .flush) (hopen : maskMinus e.mask e.done ≠ 0) :
    exec (.memoryAccessPerformed (.lane gid e.id l) resp) s =
      .next (if redApplied s gid g e.id then entryOver (laneDone s gid e e.mask [] false) gid e.id else s) := by
  have hover : e.over = false := Bool.eq_false_iff.mpr (mt (over_iff e).mp hopen)
  rw [exec_memoryAccessPerformed]
  simp [performRef, hg, he, hop, hover]

end Sys2Proof.Machine
open Sys2Proof Sys2Proof.Machine Sys2Proof.Claims

/-- Settles O20: the entry that a flush point has reached is drained by `drainOne`, whose outcome at each home decides what the group
keeps. -/
theorem reductionIssues : Obligations.ReductionIssues := by
  unfold Obligations.ReductionIssues
  refine ⟨fun s f c hc => ⟨red_off hc, ?red, fun h0 hhold => flushred_none hc h0 hhold, fun h0 => asOnce_off hc h0 _, ?point⟩, ?flush,
    ?order, ?drain⟩
  case red =>
    intro h0 hal hhold hroom
    refine ⟨_, red_holds hc h0 hal hhold hroom, redEntries_lanes c f s.nextId, fun r hr => ?_⟩
    obtain ⟨l, -, rfl⟩ := List.mem_map.mp hr
    exact ⟨rfl, rfl, rfl, rfl, rfl, rfl, rfl⟩
  case point =>
    exact fun hon h0 hhold => ⟨_, _, flushred_points hc hon h0 hhold, takesEntry_post .., rfl, rfl, rfl⟩
  case flush =>
    intro s gid l g e resp hg he hop hopen
    have hex := exec_flush (l := l) resp hg he hop hopen
    refine ⟨fun h => by rw [hex, h]; rfl, fun h => ?_⟩
    obtain ⟨gs, g', heq, hfind, hafter, -⟩ := entryOver_afterAcquire hg he e.mask [] false
    exact ⟨{ s with groups := gs }, g', hfind, hafter, by rw [hex, if_pos h, heq], rfl⟩
  case order =>
    intro s s1 r rest
    exact ⟨fun h => by simp only [drainList, h], fun o b h => by simp only [drainList, h]⟩
  case drain =>
    intro s gid g r rest resp hg hred hgid hr hlater hf hb
    subst hgid
    have hfirst : DrainsFirst s r.gid g r rest := ⟨hg, hred, hr, hlater⟩
    refine ⟨fun pa size prop s1 hx => ⟨fun ht => ?_, fun ht hpres hpois => ?_⟩, fun rank s1 hx hl hp hm => ?_, fun c d hx hc hfull => ?_⟩
    · rw [← drainFault_tagged]
      exact drain_refused hfirst resp (drainOne_tagged hg hf hb hx ht)
    · have hd := drainOne_home hg hf hb hx ht hpres hpois
      refine ⟨_, drain_done hfirst resp hd, fun a => ?_, ?_⟩
      · rw [farRed_mem]
        exact Memory.byte_store_leBytes ..
      · exact farRed_sameButFills ..
    · have hd := drainOne_peer hg hf hb hx hl hp
      have hgt : Map.find s1.takeId.2.groups r.gid = some g := (xlate_groups hx).symm ▸ hg
      obtain ⟨hmem, hgr, hreq⟩ := postWrite_sent hgt (r := redRequest s1 g r rank) hm
      obtain ⟨fresh, hq⟩ := find_farRed hreq r.gid g.core (farKeyPeer rank r.addr.toNat)
      refine ⟨_, { g with acks := g.acks + 1 }, _, drain_done hfirst resp hd, ?_, ?_, rfl, hq, rfl, rfl, rfl, rfl, rfl, rfl, rfl, rfl, rfl⟩
      · rw [farRed_mem, hmem]; rfl
      · rw [farRed_groups]; exact hgr
    · rw [← drainFault_replayed s r hc d]
      exact drain_faulted hfirst resp (drainOne_fault hg hf hb hx) hc hfull
end

section
/-!
PROOFS. Far accesses and presence operations, performed at home, and a peer's answer to a far load (R248, R262 to R268, R345), and the
obligation FarAccessesPerformed.
-/
namespace Sys2Proof.Machine
open Sys2Proof.Claims

/-! ### The cached line of an own store or atomic (R248) -/

theorem farPatch_frame (s : State) (core key o : Nat) (bs : List Byte) : { farPatch s core key o bs with cores := s.cores } = s := by
  unfold farPatch
  dsimp only
  split <;> rfl

theorem farUpdate_frame (s : State) (core key o : Nat) (bs : List Byte) :
    { farUpdate s core key o bs with cores := s.cores, fabReqs := s.fabReqs } = s :=
  (congrArg (fun y : State => { y with fabReqs := s.fabReqs }) (farPatch_frame s core key o bs) :)

theorem farUpdate_sameFills (s : State) (core key o : Nat) (bs : List Byte) : sameFills s (farUpdate s core key o bs) := by
  have h := staleFills_sameFills (farPatch s core key o bs) core key
  have hreqs : (farPatch s core key o bs).fabReqs = s.fabReqs := (congrArg State.fabReqs (farPatch_frame s core key o bs) :)
  unfold sameFills at h ⊢
  rw [← hreqs]
  exact h

theorem farDrop_frame (s : State) (core key : Nat) : { farDrop s core key with cores := s.cores, fabReqs := s.fabReqs } = s := rfl

theorem farDrop_sameFills (s : State) (core key : Nat) : sameFills s (farDrop s core key) :=
  staleFills_sameFills (s.putCore core _) core key

@[simp] theorem farUpdate_groups (s : State) (core key o : Nat) (bs : List Byte) : (farUpdate s core key o bs).groups = s.groups :=
  (congrArg State.groups (farUpdate_frame s core key o bs) :)

@[simp] theorem farUpdate_mem (s : State) (core key o : Nat) (bs : List Byte) : (farUpdate s core key o bs).mem = s.mem :=
  (congrArg State.mem (farUpdate_frame s core key o bs) :)

/-- A write at home that leaves what is cached and what will be: all else of the state, but its group's entries, is as it was. -/
theorem sameButFills_wr {s t : State} {pa : Nat} {bs : List Byte} (gs : SMap Group)
    (hframe : { t with cores := (s.wr pa bs).cores, fabReqs := (s.wr pa bs).fabReqs } = s.wr pa bs) (hfills : sameFills (s.wr pa bs) t) :
    sameButFills s { { t with groups := gs } with mem := s.mem, poison := s.poison, groups := s.groups, cores := s.cores } :=
  ⟨(congrArg (fun y : State => { y with mem := s.mem, poison := s.poison, groups := s.groups }) hframe :), hfills⟩

/-! ### Stores at home (R262, R263) -/

section Stores
variable {s s1 : State} {gid l : Nat} {g : Group} {e : Entry} {va : DWord} {pa size : Nat} {prop : Bool}

theorem writeAt_home {w : Writer} {bs : List Byte} (ht : taggedIn s.tags pa bs.length = false) (hp : presentIn s pa bs.length = true) :
    writeAt s w pa size false prop bs = .done ((applyFrames s pa bs.length).wr pa bs) [] false := by
  simp [writeAt, framesOf_home, ht, hp, wrTgt_home]

theorem vaWrite_home (hx : xlate s g.core g.ctx (rootOf s g) va .w = .ok (.loc pa size false prop, s1)) {own : Bool}
    (ho : own = true → spDie pa = some (coreDie g.core)) {bs : List Byte} (mates : List (Nat × DWord × List Byte))
    (ht : taggedIn s1.tags pa bs.length = false) (hp : presentIn s1 pa bs.length = true) : vaWrite s gid g e l va own bs mates =
      .done (farUpdate ((applyFrames s1 pa bs.length).wr pa bs) g.core (farKeyLoc pa) (pa % 64) bs) [] false := by
  have hown : (own && spDie pa != some (coreDie g.core)) = false := by
    cases own with
    | false => rfl
    | true => simp [ho rfl]
  simp [vaWrite, hx, frameFor, hown, writeAt_home ht hp]

/-- A store of the issuer's own scratchpad, or a far store, at home. -/
theorem performLane_store {f : MFmt} (hi : e.instr = .stf f ∨ e.instr = .st f ∧ f.spc ≠ .tm ∧ spDie pa = some (coreDie g.core))
    (hx : xlate s g.core g.ctx (rootOf s g) va .w = .ok (.loc pa size false prop, s1))
    (ht : taggedIn s1.tags pa f.wid.bytes = false) (hp : presentIn s1 pa f.wid.bytes = true) : performLane s gid g e l va =
      .done (farUpdate ((applyFrames s1 pa f.wid.bytes).wr pa (storeBytes e l f.wid.bytes)) g.core (farKeyLoc pa) (pa % 64)
        (storeBytes e l f.wid.bytes)) [] false := by
  have hlen : (storeBytes e l f.wid.bytes).length = f.wid.bytes := length_leBytes ..
  rw [← hlen] at ht hp
  obtain hi | ⟨hi, hspc, hdie⟩ := hi
  · simp only [performLane, hi]
    rw [vaWrite_home hx (fun h => absurd h (by simp)) _ ht hp, hlen]
  · simp only [performLane, hi, beq_iff_eq, hspc, if_false]
    rw [vaWrite_home hx (fun _ => hdie) [] ht hp, hlen]

/-- R265: an atomic at home. -/
theorem performLane_atom {f : MFmt} (hi : e.instr = .atom f)
    (hx : xlate s g.core g.ctx (rootOf s g) va .w = .ok (.loc pa size false prop, s1)) (ht : taggedIn s1.tags pa f.wid.bytes = false)
    (hp : presentIn s1 pa f.wid.bytes = true) (hpois : poisoned s1.poison pa f.wid.bytes = false) {old new : Nat}
    (hold : leNat (s1.mem.load pa f.wid.bytes) = old)
    (hnew : atomNew f.mfn.toNat (f.ofs.toNat / 2 ^ 28) f.wid.bytes old ((Map.get 0 e.data l).toNat % 2 ^ (8 * f.wid.bytes))
      ((Map.get 0 e.cmp l).toNat % 2 ^ (8 * f.wid.bytes)) = new) : performLane s gid g e l va =
      .done (farDrop ((applyFrames s1 pa f.wid.bytes).wr pa (leBytes f.wid.bytes new)) g.core (farKeyLoc pa))
        (loadOuts f.r.dst.toNat l (leBytes f.wid.bytes old)) (f.mfn == 7 && old != (Map.get 0 e.cmp l).toNat % 2 ^ (8 * f.wid.bytes)) := by
  subst hnew hold
  simp [performLane, hi, atomLane, hx, atomAt, framesOf_home, frameFor, ht, hp, hpois, rdHome, rdTgt, State.rd, wrTgt_home, length_leBytes]

/-! ### Loads at home (R248, R262, R263) -/

/-- The cached line that a read of a local line takes; own-die scratchpad is read directly. -/
def homeLine (s : State) (gid : Nat) (g : Group) (pa : Nat) : Option Line :=
  if spDie pa = some (coreDie g.core) then none else farLine s gid g.core (farKeyLoc pa)

/-- R248: a read at home: the bytes of the cached line, or of memory; a line that is not of the own scratchpad then fills the cache. -/
theorem farRead_home {n : Nat} (h : homeLine s gid g pa = none → presentIn s pa n = true ∧ poisoned s.poison pa n = false) :
    ∃ bs t, farRead s gid g pa size false n = .ok (bs, t) ∧ { t with cores := s.cores } = s ∧
      (∀ line, homeLine s gid g pa = some line → bs = lineBytes line (pa % 64) n) ∧ (homeLine s gid g pa = none → bs = s.rd pa n) ∧
      (spDie pa = some (coreDie g.core) ∨ homeLine s gid g pa ≠ none → t.cores = s.cores) ∧
      (spDie pa ≠ some (coreDie g.core) → homeLine s gid g pa = none →
        t.cores = (farFill s g.core (farKeyLoc pa) (lineOf (s.rd (pa / 64 * 64) 64))).cores) := by
  by_cases hown : spDie pa = some (coreDie g.core)
  · have hline : homeLine s gid g pa = none := if_pos hown
    obtain ⟨hpres, hpois⟩ := h hline
    refine ⟨s.rd pa n, s, by simp [farRead, frameFor, hown, hpres, hpois], rfl, by simp [hline], fun _ => rfl, fun _ => rfl, fun h => absurd hown h⟩
  · have hline : homeLine s gid g pa = farLine s gid g.core (farKeyLoc pa) := if_neg hown
    cases hf : farLine s gid g.core (farKeyLoc pa) with
    | some line =>
      refine ⟨lineBytes line (pa % 64) n, s, by simp [farRead, frameFor, hown, hf], rfl, ?_, by simp [hline, hf], fun _ => rfl,
        fun _ h => by simp [hline, hf] at h⟩
      intro line' h
      rw [hline, hf] at h
      cases h
      rfl
    | none =>
      obtain ⟨hpres, hpois⟩ := h (hline.trans hf)
      exact ⟨s.rd pa n, farFill s g.core (farKeyLoc pa) (lineOf (s.rd (pa / 64 * 64) 64)), by simp [farRead, frameFor, hown, hf, hpres, hpois],
        rfl, by simp [hline, hf], fun _ => rfl, fun h => by simp [hown, hline, hf] at h, fun _ _ => rfl⟩

theorem vaRead_home (hx : xlate s g.core g.ctx (rootOf s g) va .r = .ok (.loc pa size false prop, s1)) {own : Bool}
    (ho : own = true → spDie pa = some (coreDie g.core)) {n : Nat} (outs : List Byte → List RegWrite) {bs : List Byte} {t : State}
    (hr : farRead s1 gid g pa size false n = .ok (bs, t)) : vaRead s gid g e l va n own outs = .done t (outs bs) false := by
  have hown : (own && spDie pa != some (coreDie g.core)) = false := by
    cases own with
    | false => rfl
    | true => simp [ho rfl]
  simp [vaRead, hx, frameFor, hown, hr]

/-- A load of the issuer's own scratchpad, or a far load, at home. -/
theorem performLane_load {f : MFmt} (hi : e.instr = .ldf f ∨ e.instr = .ld f ∧ f.spc ≠ .tm ∧ spDie pa = some (coreDie g.core))
    (hx : xlate s g.core g.ctx (rootOf s g) va .r = .ok (.loc pa size false prop, s1)) {bs : List Byte} {t : State}
    (hr : farRead s1 gid g pa size false f.wid.bytes = .ok (bs, t)) :
    performLane s gid g e l va = .done t (loadOuts f.r.dst.toNat l bs) false := by
  obtain hi | ⟨hi, hspc, hdie⟩ := hi
  · simp only [performLane, hi]
    exact vaRead_home hx (fun h => absurd h (by simp)) _ hr
  · simp only [performLane, hi, beq_iff_eq, hspc, if_false]
    exact vaRead_home hx (fun _ => hdie) _ hr

/-! ### Presence operations (R268) -/

theorem presenceLane_home (hx : xlate s g.core g.ctx (rootOf s g) va .r = .ok (.loc pa size false prop, s1))
    (hdie : spDie pa = some (coreDie g.core)) (fn : State → Nat → Perf) : presenceLane s g va fn = fn s1 (pa / 64) := by
  simp [presenceLane, hx, frameFor, hdie]

end Stores

theorem mem_insNat (l : List Nat) (k n : Nat) : n ∈ insNat l k ↔ n = k ∨ n ∈ l := by
  simp only [insNat, List.mem_append, List.mem_cons, List.mem_filter, decide_eq_true_eq]
  by_cases h : n = k
  · simp [h]
  · have : n < k ∨ k < n := by omega
    tauto

/-- A translation for a read leaves memory as it was (R251). -/
theorem xlate_read_mem {s t : State} {core ctx root : Nat} {va : DWord} {tg : Tgt}
    (h : xlate s core ctx root va .r = .ok (tg, t)) : t.mem = s.mem := by
  obtain ⟨l, -, -, -, rfl⟩ := xlate_ok h
  rfl

theorem afterAcquire_frame (e : Entry) (m : Mask) (gid core : Nat) (t : State) :
    { afterAcquire e m gid core t with cores := t.cores, fabReqs := t.fabReqs, frameQ := t.frameQ } = t := by
  unfold afterAcquire
  cases e.ref with
  | none => rfl
  | some scope =>
    dsimp only
    split
    · have h := (congrArg (fun y : State => { y with cores := t.cores, fabReqs := t.fabReqs, frameQ := t.frameQ })
        (learn_frame (refreshAt t core scope) gid scope) :)
      exact h.trans (congrArg (fun y : State => { y with frameQ := t.frameQ }) (refreshAt_frame t core scope) :)
    · rfl

@[simp] theorem afterAcquire_mem (e : Entry) (m : Mask) (gid core : Nat) (t : State) : (afterAcquire e m gid core t).mem = t.mem :=
  (congrArg State.mem (afterAcquire_frame e m gid core t) :)

@[simp] theorem afterAcquire_absent (e : Entry) (m : Mask) (gid core : Nat) (t : State) :
    (afterAcquire e m gid core t).absent = t.absent := (congrArg State.absent (afterAcquire_frame e m gid core t) :)

@[simp] theorem afterAcquire_groups (e : Entry) (m : Mask) (gid core : Nat) (t : State) :
    (afterAcquire e m gid core t).groups = t.groups := (congrArg State.groups (afterAcquire_frame e m gid core t) :)

/-- R268: a lane whose access changes which lines are present, and no byte of memory. -/
theorem lane_presence {s s1 : State} {gid l : Nat} {g : Group} {e : Entry} (h : lanePending s gid g e l) (resp : Line)
    {outs : List RegWrite} {absent : List Nat} {core ctx root : Nat} {va : DWord} {tg : Tgt}
    (hx : xlate s core ctx root va .r = .ok (tg, s1))
    (hp : performLane s gid g e l (Map.get 0 e.addr l) = .done { s1 with absent := absent } outs false) :
    ∃ s' g', exec (.memoryAccessPerformed (.lane gid e.id l) resp) s = .next s' ∧ Map.find s'.groups gid = some g' ∧
      entryAfter g g' (afterLane e l outs false) ∧ s'.absent = absent ∧ s'.mem = s.mem := by
  have hgroups : s1.groups = s.groups := xlate_groups hx
  obtain ⟨gs, g', hex, hfind, hafter, -⟩ := lane_performed h resp hp hgroups
  exact ⟨_, g', hex, by simpa using hfind, hafter, by simp, by simpa using xlate_read_mem hx⟩

/-! ### A peer's answer to a far load (R345) -/

theorem answerLine_asked {s : State} {gid core : Nat} {r : FabReq} (h : farLine s gid core (farKeyPeer r.pkt.dest r.pkt.addr.toNat) = none)
    (resp : Line) : ∃ t, answerLine s gid core r resp = (resp, t) ∧ { t with cores := s.cores } = s := by
  unfold answerLine
  simp only [h]
  exact ⟨_, rfl, by split <;> rfl⟩

theorem exec_answer {s : State} {gid l tag : Nat} {g : Group} {e : Entry} {r : FabReq} (resp : Line)
    (hg : Map.find s.groups gid = some g) (he : g.entries.find? (fun x => x.id == e.id) = some e) (hop : e.op = .access)
    (hm : e.mask.getLsbD l = true) (hd : e.done.getLsbD l = false) (hf : e.fault.getLsbD l = false) (hs : e.sent.getLsbD l = true)
    (hlink : linked s = true) (hcls : r.pkt.cls = 0)
    (hr : s.fabReqs.find? (fun r => r.2.gid == gid && r.2.entry == e.id && r.2.lanes.getLsbD l) = some (tag, r)) :
    exec (.memoryAccessPerformed (.lane gid e.id l) resp) s = .next (answerEntry s gid g e tag r resp) := by
  rw [exec_memoryAccessPerformed]
  simp [performRef, performEntry, hg, he, hop, hm, hd, hf, hs, hlink, hr, hcls]

/-- R345: the answer to a far load performs every lane its request covers, and ends the request. -/
theorem answerEntry_ldf {s : State} {gid tag : Nat} {g : Group} {e : Entry} {f : MFmt} {r : FabReq} (hi : e.instr = .ldf f)
    (h : farLine s gid g.core (farKeyPeer r.pkt.dest r.pkt.addr.toNat) = none) (resp : Line) :
    ∃ t, answerEntry s gid g e tag r resp = entryOver (laneDone t gid e r.lanes ((lanesOf r.lanes).flatMap (fun k =>
        loadOuts f.r.dst.toNat k (lineBytes resp ((Map.get 0 e.addr k).toNat % 64) f.wid.bytes))) false) gid e.id ∧
      { t with cores := s.cores } = { s with fabReqs := Map.del s.fabReqs tag } := by
  obtain ⟨t, ht, hframe⟩ := answerLine_asked (s := { s with fabReqs := Map.del s.fabReqs tag }) h resp
  refine ⟨t, ?_, hframe⟩
  simp [answerEntry, hi, ht, answerLane]

end Sys2Proof.Machine
open Sys2Proof Sys2Proof.Machine Sys2Proof.Claims

/-- Settles O18: `performLane` at a page here makes each access as its lemma says, and `lane_performed` says what becomes of the entry. -/
theorem farAccessesPerformed : Obligations.FarAccessesPerformed := by
  unfold Obligations.FarAccessesPerformed
  refine ⟨?presence, ⟨?store, ?atomic⟩, ?load, ?answer⟩
  case presence =>
    intro s s1 gid l g e f pa size prop resp hp hx hdie
    have hlane := fun fn => presenceLane_home hx hdie fn
    refine ⟨fun hi => ?_, fun hi => ?_, fun hi => ?_⟩
    · obtain ⟨s', -, hex, -, -, habs, hmem⟩ := lane_presence hp resp hx (outs := []) (absent := insNat s1.absent (pa / 64)) (by
        simp only [performLane, hi, hlane])
      refine ⟨s', hex, fun n => ?_, hmem⟩
      rw [habs, mem_insNat, (congrArg State.absent (xlate_frame hx) :)]
    · obtain ⟨s', -, hex, -, -, habs, hmem⟩ := lane_presence hp resp hx (outs := []) (absent := s1.absent.filter (· != pa / 64)) (by
        simp only [performLane, hi, hlane])
      refine ⟨s', hex, fun n => ?_, hmem⟩
      rw [habs, List.mem_filter, (congrArg State.absent (xlate_frame hx) :), bne_iff_ne, and_comm]
    · have habs1 : s1.absent = s.absent := (congrArg State.absent (xlate_frame hx) :)
      obtain ⟨s', g', hex, hfind, hafter, habs, hmem⟩ := lane_presence hp resp hx
        (outs := [.p f.r.dst.toNat l (!s.absent.contains (pa / 64))]) (absent := s1.absent) (by
        simp only [performLane, hi, hlane, ← habs1])
      exact ⟨s', g', hex, hfind, hafter, habs.trans habs1, hmem⟩
  case store =>
    intro s s1 gid l g e f pa size prop resp hp hi hx ht hpres s2
    have hgroups : s2.groups = s.groups := (applyFrames_groups ..).trans (xlate_groups hx)
    obtain ⟨gs, g', hex, hfind, hafter, hothers⟩ := lane_performed hp resp (performLane_store hi hx ht hpres)
      ((farUpdate_groups ..).trans hgroups)
    refine ⟨_, g', hex, hfind, fun a => ?_, hafter, sameButFills_wr gs (farUpdate_frame ..) (farUpdate_sameFills ..), hothers⟩
    have hmem := congrArg (fun m : Memory => m.byte a) (farUpdate_mem (s2.wr pa (storeBytes e l f.wid.bytes)) g.core (farKeyLoc pa) (pa % 64)
      (storeBytes e l f.wid.bytes))
    exact hmem.trans (Memory.byte_store_leBytes ..)
  case atomic =>
    intro s s1 gid l g e f pa size prop resp hp hi hx ht hpres hpois n old new s2
    have hgroups : s2.groups = s.groups := (applyFrames_groups ..).trans (xlate_groups hx)
    obtain ⟨gs, g', hex, hfind, hafter, -⟩ := lane_performed hp resp (performLane_atom hi hx ht hpres hpois (old := old) (new := new) rfl rfl)
      hgroups
    exact ⟨_, g', hex, hfind, fun a => Memory.byte_store_leBytes .., hafter,
      sameButFills_wr gs (farDrop_frame ..) (farDrop_sameFills ..)⟩
  case load =>
    intro s s1 gid l g e f pa size prop resp hp hi hx n far hhome
    obtain ⟨bs, t, hr, hframe, hcached, hread, hkeep, hfill⟩ := farRead_home (s := s1) (gid := gid) hhome
    have hgroups : t.groups = s1.groups := (congrArg State.groups hframe :)
    obtain ⟨gs, g', hex, hfind, hafter, hothers⟩ := lane_performed hp resp (performLane_load hi hx hr) (hgroups.trans (xlate_groups hx))
    exact ⟨_, g', bs, hex, hfind, hcached, hread, hafter, (congrArg (fun y : State => { y with groups := s1.groups }) hframe :), hothers,
      hkeep, hfill⟩
  case answer =>
    intro s gid l tag g e f r resp hg he hop hi hm hd hf hs hlink hcls hr hline
    obtain ⟨t, heq, hframe⟩ := answerEntry_ldf (tag := tag) hi hline resp
    have hgt : Map.find t.groups gid = some g := (congrArg State.groups hframe :) ▸ hg
    obtain ⟨gs, g', hover, hfind, hafter, -⟩ := entryOver_afterAcquire hgt he r.lanes _ false
    exact ⟨_, g', (exec_answer resp hg he hop hm hd hf hs hlink hcls hr).trans (congrArg _ (heq.trans hover)), hfind, hafter,
      (congrArg State.fabReqs hframe :), (congrArg (fun y : State => { y with fabReqs := s.fabReqs, groups := s.groups }) hframe :)⟩
end

section
/-!
PROOFS. A landing writes its group's log entries back unchanged, which puts a list of groups that does not rise into order: the obligation
CopyEngine.
-/
namespace Sys2Proof.Machine

/-- A linear load of four bytes from team memory 0 to 64, accepted by the engine of core 0. -/
def landOp : CopyOp :=
  { id := 10, gid := 2, ctx := 5, pc := 0x1000, pos := 0, mask := 1, stamp := 1, cls := .copy, instr := .cpyt default, word0 := 0, word1 := 0,
    idx := [], handle := 0, window := 0, bar := none, flag := none, known := [], held := false, accepted := true, srcSp := .team 0,
    dstSps := [.team 0], rows := [(0, 64)], srcLen := 4, dstLen := 4, conv := 0, cfmt := 0, rm := 0, sat := false, landed := [], flight := [],
    skips := [], lines := [], got := [], far := [], post := [], coll := none, stopped := false, finished := false, abandon := false }

/-- The group that issued it. -/
def landGroup : Group := Group.fresh 5 0 0 0 64 0x1000 1

/-- A team with 256 bytes of memory. -/
def landTeamOf : Team :=
  { ctx := 5, launch := 0, cluster := 0, lcore := 0, core := 0, nGroups := 2, gridH := 1, gridW := 1, memSize := 256, mem := [], saved := none,
    tags := [], poison := [], planeOps := [], migrate := [] }

/-- A device that lists its groups 2 and 1 in that order. -/
def landDevice : State :=
  { State.reset with
    groups := [(2, landGroup), (1, landGroup)], teams := [(0, landTeamOf)], cores := [(0, { Core.reset with ops := [landOp] })] }

/-- The operation's four bytes may land, and are read from team memory as it is. -/
theorem landDevice_ready : landOp.pieceOk landDevice 0 0 4 = true ∧
    sourceRead landDevice landGroup 0 landOp 0 4 = .ok ([0, 0, 0, 0], landDevice) := ⟨by decide +kernel, rfl⟩

/-- Once they have landed, the groups are listed 1 and 2. -/
theorem landDevice_reorders {t : State} (h : exec (.copyLineLanded 0 10 0 4 []) landDevice = .next t) : Map.keys t.groups = [1, 2] := by
  have hkeys : (match exec (.copyLineLanded 0 10 0 4 []) landDevice with | .next t => Map.keys t.groups | _ => []) = [1, 2] := by
    decide +kernel
  rwa [h] at hkeys

end Sys2Proof.Machine

open Sys2Proof Sys2Proof.Machine Sys2Proof.Claims

/-- Refutes O36: its clause on landing says that the list of groups is as it was, of any state. A landing adds its register writes (here
none) to its group's log entry with `Map.modify`, which lists the keys in rising order: a device that lists its groups 2 and 1 lists them
1 and 2 after it. No group itself has changed, and a list that rises already stays as it is. -/
theorem not_copyEngine : ¬ Obligations.CopyEngine := by
  unfold Obligations.CopyEngine
  rintro ⟨-, hland, -⟩
  obtain ⟨hok, hread⟩ := landDevice_ready
  have hactive : opActive landDevice 0 10 landOp landGroup := ⟨rfl, rfl, rfl, rfl, rfl, rfl⟩
  obtain ⟨t, -, -, ht, -, -, -, -, hgroups, -⟩ := hland landDevice landDevice 0 10 0 4 landOp landGroup default 0 landTeamOf [0, 0, 0, 0]
    hactive rfl rfl rfl rfl rfl rfl hok hread rfl rfl rfl
  have hkeys := landDevice_reorders ht
  rw [hgroups] at hkeys
  exact absurd hkeys (by decide)
end

section
/-!
PROOFS. A line that a peer writes (R345, R346): its enabled bytes in each frame, and the updates that are still queued (R251, R327).
-/
namespace Sys2Proof.Machine
open Sys2Proof.Claims

/-! ### Updates that are queued for frames (R327) -/

/-- Address `a` is one of the update's. -/
def FrameUpd.covers (u : FrameUpd) (a : Nat) : Prop := u.pa ≤ a ∧ a < u.pa + u.bytes.length

theorem FrameUpd.meets_of_covers {u : FrameUpd} {a pa n : Nat} (h : u.covers a) (ha : pa ≤ a ∧ a < pa + n) : u.meets pa n = true := by
  obtain ⟨h1, h2⟩ := h
  simp only [FrameUpd.meets, Bool.and_eq_true, decide_eq_true_eq]
  omega

/-- Of a queue, what is needed first and what stays, which meets no range. -/
theorem frameNeeds_spec (us : List FrameUpd) (rs : List (Nat × Nat)) (need rest : List FrameUpd) :
    (∃ l, (frameNeeds us rs need rest).2 = l ++ rest ∧ ∀ u ∈ l, u ∈ us ∧ ∀ r ∈ rs, u.meets r.1 r.2 = false) ∧
    ∀ u ∈ (frameNeeds us rs need rest).1, u ∈ us ∨ u ∈ need := by
  induction us generalizing rs need rest with
  | nil => exact ⟨⟨[], rfl, by simp⟩, fun u h => .inr h⟩
  | cons v us ih =>
    unfold frameNeeds
    split
    · obtain ⟨⟨l, heq, hl⟩, hneed⟩ := ih ((v.pa, v.bytes.length) :: rs) (v :: need) rest
      refine ⟨⟨l, heq, fun u hu => ⟨.tail _ (hl u hu).1, fun r hr => (hl u hu).2 r (.tail _ hr)⟩⟩, fun u hu => ?_⟩
      obtain h | h := hneed u hu
      · exact .inl (.tail _ h)
      · obtain rfl | h := List.mem_cons.mp h
        · exact .inl (.head _)
        · exact .inr h
    · next hv =>
      obtain ⟨⟨l, heq, hl⟩, hneed⟩ := ih rs need (v :: rest)
      refine ⟨⟨l ++ [v], by simpa using heq, fun u hu => ?_⟩, fun u hu => (hneed u hu).imp_left (.tail _)⟩
      obtain hu | hu := List.mem_append.mp hu
      · exact ⟨.tail _ (hl u hu).1, (hl u hu).2⟩
      · obtain rfl := List.mem_singleton.mp hu
        exact ⟨.head _, fun r hr => Bool.eq_false_iff.mpr fun hm => hv (List.any_eq_true.mpr ⟨r, hr, hm⟩)⟩

/-- Newer updates that meet no range stay. -/
theorem frameNeeds_newer {us : List FrameUpd} {rs : List (Nat × Nat)} (h : ∀ u ∈ us, ∀ r ∈ rs, u.meets r.1 r.2 = false)
    (older need rest : List FrameUpd) : frameNeeds (us ++ older) rs need rest = frameNeeds older rs need (us.reverse ++ rest) := by
  induction us generalizing rest with
  | nil => rfl
  | cons u us ih =>
    have hu : rs.any (fun r => u.meets r.1 r.2) = false :=
      List.any_eq_false.mpr fun r hr => by simpa using h u (.head _) r hr
    rw [List.cons_append, frameNeeds, hu, if_neg (by simp), ih (fun v hv => h v (.tail _ hv))]
    simp

/-- Updates that are applied change no byte that none of them has. -/
theorem foldl_wr_outside (us : List FrameUpd) (s : State) {a : Nat} (h : ∀ u ∈ us, ¬ u.covers a) :
    (us.foldl (fun s u => s.wr u.pa u.bytes) s).mem.byte a = s.mem.byte a := by
  induction us generalizing s with
  | nil => rfl
  | cons u us ih =>
    rw [List.foldl_cons, ih _ fun v hv => h v (.tail _ hv)]
    exact (Memory.byte_store ..).trans (if_neg (h u (.head _)))

/-- Before a range of a frame is written, older updates of its bytes are applied and leave the queue; those of `new`, which do not
meet the range, stay where they are. -/
theorem applyFrames_queue {s : State} {old new : List FrameUpd} (hq : s.frameQ = old ++ new) {pa n : Nat}
    (hnew : ∀ u ∈ new, u.meets pa n = false) :
    (∃ l, (applyFrames s pa n).frameQ = l ++ new ∧ ∀ u ∈ l, u ∈ old ∧ u.meets pa n = false) ∧
    ∀ a, (∀ u ∈ old, ¬ u.covers a) → (applyFrames s pa n).mem.byte a = s.mem.byte a := by
  have heq : frameNeeds s.frameQ.reverse [(pa, n)] [] [] = frameNeeds old.reverse [(pa, n)] [] new := by
    rw [hq, List.reverse_append, frameNeeds_newer (fun u hu r hr => List.mem_singleton.mp hr ▸ hnew u (List.mem_reverse.mp hu))]
    simp
  obtain ⟨⟨l, hrest, hl⟩, hneed⟩ := frameNeeds_spec old.reverse [(pa, n)] [] new
  refine ⟨⟨l, (congrArg Prod.snd heq).trans hrest, fun u hu => ?_⟩, fun a ha => ?_⟩
  · exact ⟨List.mem_reverse.mp (hl u hu).1, (hl u hu).2 _ (.head _)⟩
  · refine foldl_wr_outside _ s fun u hu => ?_
    rw [heq] at hu
    exact ha u (List.mem_reverse.mp ((hneed u hu).resolve_right (by simp)))

/-! ### A line whose bytes are written one run after another -/

/-- From `s0`, the addresses of `W` hold the bytes `val`, no queued update has any of them, `new` are the updates queued since, and
nothing else has changed but by updates that were queued before. -/
structure LineWritten (s0 s : State) (W : Nat → Prop) (val : Nat → Byte) (new : List FrameUpd) : Prop where
  bytes : ∀ a, W a → s.mem.byte a = val a
  settled : ∀ u ∈ s.frameQ, ∀ a, W a → ¬ u.covers a
  kept : ∀ a, ¬ W a → (∀ u ∈ s0.frameQ, ¬ u.covers a) → s.mem.byte a = s0.mem.byte a
  queue : ∃ old, s.frameQ = old ++ new ∧ ∀ u ∈ old, u ∈ s0.frameQ
  frame : { s with mem := s0.mem, poison := s0.poison, frameQ := s0.frameQ } = s0

theorem LineWritten.none (s : State) (val : Nat → Byte) : LineWritten s s (fun _ => False) val [] where
  bytes _ h := h.elim
  settled _ _ _ h := h.elim
  kept _ _ _ := rfl
  queue := ⟨s.frameQ, by simp, fun _ h => h⟩
  frame := rfl

theorem LineWritten.congr {s0 s : State} {W W' : Nat → Prop} {val : Nat → Byte} {new : List FrameUpd} (h : LineWritten s0 s W val new)
    (hw : ∀ a, W a ↔ W' a) : LineWritten s0 s W' val new := funext (fun a => propext (hw a)) ▸ h

/-- One more range of a frame. -/
theorem LineWritten.wrFrame {s0 s : State} {W : Nat → Prop} {val : Nat → Byte} {new : List FrameUpd} (h : LineWritten s0 s W val new)
    {pa : Nat} {bs : List Byte} (hnew : ∀ u ∈ new, u.meets pa bs.length = false)
    (hval : ∀ a, pa ≤ a ∧ a < pa + bs.length → bs.getD (a - pa) 0 = val a) :
    LineWritten s0 (wrFrame s pa bs) (fun a => W a ∨ pa ≤ a ∧ a < pa + bs.length) val new := by
  obtain ⟨old, hq, hold⟩ := h.queue
  obtain ⟨⟨l, hrest, hl⟩, houtside⟩ := applyFrames_queue hq hnew
  have hmem (a : Nat) : (Machine.wrFrame s pa bs).mem.byte a =
      if pa ≤ a ∧ a < pa + bs.length then bs.getD (a - pa) 0 else (applyFrames s pa bs.length).mem.byte a := Memory.byte_store ..
  have hfree (a : Nat) (ha : W a) : (applyFrames s pa bs.length).mem.byte a = s.mem.byte a :=
    houtside a fun u hu => h.settled u (hq ▸ List.mem_append_left _ hu) a ha
  have hqueue : (Machine.wrFrame s pa bs).frameQ = l ++ new := hrest
  refine ⟨fun a ha => ?_, fun u hu a ha hc => ?_, fun a ha hc => ?_, ⟨l, hrest, fun u hu => hold u (hl u hu).1⟩, ?_⟩
  · rw [hmem]
    split
    · next hin => exact hval a hin
    · next hout => rw [hfree a (ha.resolve_right hout), h.bytes a (ha.resolve_right hout)]
  · have hleft : u ∈ s.frameQ ∧ u.meets pa bs.length = false := by
      rw [hqueue] at hu
      obtain hu | hu := List.mem_append.mp hu
      · exact ⟨hq ▸ List.mem_append_left _ (hl u hu).1, (hl u hu).2⟩
      · exact ⟨hq ▸ List.mem_append_right _ hu, hnew u hu⟩
    obtain ha | hin := ha
    · exact h.settled u hleft.1 a ha hc
    · exact absurd (FrameUpd.meets_of_covers hc hin) (by simp [hleft.2])
  · obtain ⟨hW, hout⟩ := not_or.mp ha
    rw [hmem, if_neg hout, houtside a fun u hu => hc u (hold u hu), h.kept a hW hc]
  · exact (congrArg (fun y : State => { y with mem := s0.mem, poison := s0.poison, frameQ := s0.frameQ })
      (applyFrames_frame s pa bs.length) :).trans h.frame

/-- Updates are queued for other frames. -/
theorem LineWritten.append {s0 s : State} {W : Nat → Prop} {val : Nat → Byte} {new : List FrameUpd} (h : LineWritten s0 s W val new)
    {us : List FrameUpd} (hus : ∀ u ∈ us, ∀ a, W a → ¬ u.covers a) :
    LineWritten s0 { s with frameQ := s.frameQ ++ us } W val (new ++ us) where
  bytes := h.bytes
  settled u hu := (List.mem_append.mp hu).elim (h.settled u) (hus u)
  kept := h.kept
  queue := by
    obtain ⟨old, hq, hold⟩ := h.queue
    exact ⟨old, by simp [hq], hold⟩
  frame := h.frame

/-! ### The line in every frame (R251, R323) -/

/-- The update lies in the line at `pa` of another frame than the first. -/
def FrameUpd.inOtherFrame (u : FrameUpd) (pa size : Nat) : Prop :=
  ∃ d, d < 4 ∧ d ≠ 0 ∧ pa + d * size ≤ u.pa ∧ u.pa + u.bytes.length ≤ pa + d * size + 64

/-- It does not meet the first frame's line. -/
theorem FrameUpd.inOtherFrame_apart {u : FrameUpd} {pa size : Nat} (h : u.inOtherFrame pa size) (hs : 64 ≤ size) {o n : Nat}
    (ho : o + n ≤ 64) : u.meets (pa + o) n = false := by
  obtain ⟨d, -, hd, hpa, -⟩ := h
  have : size ≤ d * size := Nat.le_mul_of_pos_left size (Nat.pos_of_ne_zero hd)
  simp only [FrameUpd.meets, Bool.and_eq_false_iff, decide_eq_false_iff_not]
  omega

/-- The frames of a line that a write by a peer reaches at once: of a replicated page with PROP 0 only the first. -/
def lineNow (pa size : Nat) (repl prop : Bool) : List Nat := if repl = true ∧ prop = false then [pa] else framesOf pa size repl

/-- The dies of these frames. -/
def lineDies (repl prop : Bool) : List Nat := if repl = true ∧ prop = true then List.range 4 else [0]

theorem lineNow_eq (pa size : Nat) (repl prop : Bool) : lineNow pa size repl prop = (lineDies repl prop).map (fun d => pa + d * size) := by
  cases repl <;> cases prop <;> simp [lineNow, lineDies, framesOf]

/-- The addresses at offsets of `D` in these frames. -/
def lineAddrs (fs : List Nat) (D : Nat → Prop) (a : Nat) : Prop := ∃ f ∈ fs, ∃ k, D k ∧ a = f + k

/-- The byte at an offset of a line's frames; a frame is at least a line long. -/
def lineVal (v : Nat → Byte) (pa size a : Nat) : Byte := v ((a - pa) % size)

theorem lineVal_frame (v : Nat → Byte) (pa d : Nat) {size k : Nat} (h : k < size) : lineVal v pa size (pa + d * size + k) = v k := by
  unfold lineVal
  rw [show pa + d * size + k - pa = k + d * size by omega, Nat.add_mul_mod_self_right, Nat.mod_eq_of_lt h]

/-- The updates that a write of bytes by a peer leaves in the queue (R323). -/
def lineUpdates (ctx n a size : Nat) (repl prop : Bool) (bs : List Byte) : List FrameUpd :=
  if repl = true ∧ prop = false then
    ((List.range 4).filter (· != 0)).map (fun d => { ctx, owner := .job n, pa := a + d * size, bytes := bs, pub := [], knows := [] })
  else []

theorem mem_lineUpdates {ctx n a size : Nat} {repl prop : Bool} {bs : List Byte} {u : FrameUpd}
    (h : u ∈ lineUpdates ctx n a size repl prop bs) : (repl = true ∧ prop = false) ∧
      ∃ d, d < 4 ∧ d ≠ 0 ∧ u.owner = .job n ∧ u.pa = a + d * size ∧ u.bytes = bs := by
  unfold lineUpdates at h
  split at h
  · next hq =>
    obtain ⟨d, hd, rfl⟩ := List.mem_map.mp h
    obtain ⟨h4, h0⟩ := List.mem_filter.mp hd
    exact ⟨hq, d, List.mem_range.mp h4, by simpa using h0, rfl, rfl, rfl⟩
  · simp at h

/-- A write of bytes by a peer (R323): the frames it reaches at once, and what it queues for the others. -/
theorem wrTgt_line (s : State) (ctx n a size : Nat) (repl prop : Bool) (bs : List Byte) :
    wrTgt s { gid := 0, ctx, die := 0, owner := .job n } a size repl prop bs =
      let s1 := ((lineDies repl prop).map (fun d => a + d * size)).foldl (fun s f => wrFrame s f bs) s
      { s1 with frameQ := s1.frameQ ++ lineUpdates ctx n a size repl prop bs } := by
  cases repl <;> cases prop <;> simp [wrTgt, lineDies, lineUpdates, framesOf]

section Runs
variable {s0 s : State} {v : Nat → Byte} {pa size : Nat}

/-- The addresses of a run in several frames. -/
theorem lineAddrs_run (D : Nat → Prop) (o n : Nat) (ds : List Nat) (a : Nat) :
    (lineAddrs (ds.map (fun d => pa + d * size)) D a ∨ ∃ d ∈ ds, pa + o + d * size ≤ a ∧ a < pa + o + d * size + n) ↔
      lineAddrs (ds.map (fun d => pa + d * size)) (fun k => D k ∨ o ≤ k ∧ k < o + n) a := by
  simp only [lineAddrs, List.mem_map, exists_exists_and_eq_and]
  constructor
  · rintro (⟨d, hd, k, hk, rfl⟩ | ⟨d, hd, h1, h2⟩)
    · exact ⟨d, hd, k, .inl hk, rfl⟩
    · exact ⟨d, hd, a - (pa + d * size), .inr (by omega), by omega⟩
  · rintro ⟨d, hd, k, hk | hk, rfl⟩
    · exact .inl ⟨d, hd, k, hk, rfl⟩
    · exact .inr ⟨d, hd, by omega⟩

/-- A run at an offset of a frame. -/
theorem LineWritten.run (hs : 64 ≤ size) {W : Nat → Prop} {new : List FrameUpd} (h : LineWritten s0 s W (lineVal v pa size) new) (d : Nat)
    {o : Nat} {bs : List Byte} (ho : o + bs.length ≤ 64) (hv : ∀ i, i < bs.length → bs.getD i 0 = v (o + i))
    (hnew : ∀ u ∈ new, u.meets (pa + o + d * size) bs.length = false) :
    LineWritten s0 (Machine.wrFrame s (pa + o + d * size) bs)
      (fun a => W a ∨ pa + o + d * size ≤ a ∧ a < pa + o + d * size + bs.length) (lineVal v pa size) new := by
  refine h.wrFrame hnew fun a ha => ?_
  obtain ⟨i, rfl⟩ := Nat.exists_eq_add_of_le ha.1
  have hi : i < bs.length := by omega
  rw [Nat.add_sub_cancel_left, hv i hi, show pa + o + d * size + i = pa + d * size + (o + i) by omega, lineVal_frame v pa d (by omega)]

/-- A run in several frames at once (R323). -/
theorem LineWritten.runs (hs : 64 ≤ size) {o : Nat} {bs : List Byte} (ho : o + bs.length ≤ 64)
    (hv : ∀ i, i < bs.length → bs.getD i 0 = v (o + i)) (ds : List Nat) {W : Nat → Prop} {new : List FrameUpd}
    (hnew : ∀ u ∈ new, ∀ d ∈ ds, u.meets (pa + o + d * size) bs.length = false) (h : LineWritten s0 s W (lineVal v pa size) new) :
    LineWritten s0 ((ds.map (fun d => pa + o + d * size)).foldl (fun s a => Machine.wrFrame s a bs) s)
      (fun a => W a ∨ ∃ d ∈ ds, pa + o + d * size ≤ a ∧ a < pa + o + d * size + bs.length) (lineVal v pa size) new := by
  induction ds generalizing s W with
  | nil => exact h.congr fun a => by simp
  | cons d ds ih =>
    refine (ih (fun u hu e he => hnew u hu e (.tail _ he)) (h.run hs d ho hv fun u hu => hnew u hu d (.head _))).congr fun a => ?_
    simp only [List.mem_cons, exists_eq_or_imp, or_assoc]

/-- One run of a line's bytes, written as a peer's write writes it: in the frames it reaches at once, and queued for the others. -/
theorem LineWritten.wrTgt (hs : 64 ≤ size) {D : Nat → Prop} {new : List FrameUpd} {repl prop : Bool}
    (h : LineWritten s0 s (lineAddrs (lineNow pa size repl prop) D) (lineVal v pa size) new) (hD : ∀ k, D k → k < 64)
    (hnew : ∀ u ∈ new, (repl = true ∧ prop = false) ∧ u.inOtherFrame pa size) {o : Nat} {bs : List Byte} (ho : o + bs.length ≤ 64)
    (hv : ∀ i, i < bs.length → bs.getD i 0 = v (o + i)) (ctx n : Nat) :
    LineWritten s0 (Machine.wrTgt s { gid := 0, ctx, die := 0, owner := .job n } (pa + o) size repl prop bs)
      (lineAddrs (lineNow pa size repl prop) (fun k => D k ∨ o ≤ k ∧ k < o + bs.length)) (lineVal v pa size)
      (new ++ lineUpdates ctx n (pa + o) size repl prop bs) := by
  have hfirst : repl = true ∧ prop = false → lineDies repl prop = [0] := by rintro ⟨rfl, rfl⟩; rfl
  have hmeets : ∀ u ∈ new, ∀ d ∈ lineDies repl prop, u.meets (pa + o + d * size) bs.length = false := fun u hu d hd => by
    obtain ⟨hq, hapart⟩ := hnew u hu
    obtain rfl : d = 0 := by simpa [hfirst hq] using hd
    simpa using FrameUpd.inOtherFrame_apart hapart hs ho
  rw [lineNow_eq] at h ⊢
  rw [wrTgt_line]
  refine ((h.runs hs ho hv _ hmeets).congr (lineAddrs_run D o bs.length _)).append fun u hu a ha hc => ?_
  obtain ⟨hq, d, -, hd, -, hpa, -⟩ := mem_lineUpdates hu
  obtain ⟨f, hf, k, hk, rfl⟩ := ha
  obtain rfl : f = pa := by simpa [hfirst hq] using hf
  have hk64 : k < 64 := hk.elim (hD k) fun h => by omega
  have hsize : size ≤ d * size := Nat.le_mul_of_pos_left size (Nat.pos_of_ne_zero hd)
  obtain ⟨hlow, -⟩ := hc
  omega

/-- All runs of a line, one after another. -/
theorem LineWritten.line (hs : 64 ≤ size) {repl prop : Bool} (ctx n : Nat) (rs : List (Nat × List Byte))
    (hrs : ∀ r ∈ rs, r.1 % 64 + r.2.length ≤ 64 ∧ ∀ i, i < r.2.length → r.2.getD i 0 = v (r.1 % 64 + i)) {D : Nat → Prop}
    {new : List FrameUpd} (h : LineWritten s0 s (lineAddrs (lineNow pa size repl prop) D) (lineVal v pa size) new)
    (hD : ∀ k, D k → k < 64) (hnew : ∀ u ∈ new, (repl = true ∧ prop = false) ∧ u.inOtherFrame pa size) :
    LineWritten s0
      (rs.foldl (fun s b => Machine.wrTgt s { gid := 0, ctx, die := 0, owner := .job n } (pa + b.1 % 64) size repl prop b.2) s)
      (lineAddrs (lineNow pa size repl prop) (fun k => D k ∨ ∃ r ∈ rs, r.1 % 64 ≤ k ∧ k < r.1 % 64 + r.2.length)) (lineVal v pa size)
      (new ++ rs.flatMap (fun r => lineUpdates ctx n (pa + r.1 % 64) size repl prop r.2)) := by
  induction rs generalizing s D new with
  | nil => simpa using h
  | cons r rs ih =>
    obtain ⟨ho, hv⟩ := hrs r (.head _)
    have hnext := ih (fun q hq => hrs q (.tail _ hq)) (h.wrTgt hs hD hnew ho hv ctx n)
      (fun k hk => hk.elim (hD k) fun hk => by omega) fun u hu => ?_
    · simpa only [List.foldl_cons, List.flatMap_cons, List.append_assoc, List.mem_cons, exists_eq_or_imp, or_assoc] using hnext
    · obtain hu | hu := List.mem_append.mp hu
      · exact hnew u hu
      · obtain ⟨hq, d, hd4, hd, -, hpa, hbs⟩ := mem_lineUpdates hu
        exact ⟨hq, d, hd4, hd, by omega, by rw [hbs]; omega⟩

end Runs

/-! ### The bytes of a peer's write and their runs (R345) -/

theorem mem_beBytes {p : Packet} {x : Nat × Byte} : x ∈ beBytes p ↔ ∃ k, k < 64 ∧ p.be.getLsbD k = true ∧
    x = (p.addr.toNat / 64 * 64 + k, BitVec.ofNat 8 (p.payload.toNat / 2 ^ (8 * k))) := by
  simp only [beBytes, List.mem_filterMap, List.mem_range]
  refine exists_congr fun k => and_congr_right fun _ => ?_
  split
  · next h => simp [h, eq_comm]
  · next h => simp [h]

/-- The bytes of a run with their addresses. -/
def runBytes (r : Nat × List Byte) : List (Nat × Byte) := r.2.mapIdx (fun i b => (r.1 + i, b))

/-- The runs hold the bytes in their order. -/
theorem runsOf_bytes (bs : List (Nat × Byte)) : (runsOf bs).flatMap runBytes = bs := by
  induction bs with
  | nil => rfl
  | cons y bs ih =>
    obtain ⟨a, b⟩ := y
    unfold runsOf
    split
    · next a2 ls rs hr =>
      rw [hr] at ih
      split
      · next hnext =>
        obtain rfl : a2 = a + 1 := by simpa using hnext
        rw [← ih]
        simp [runBytes, List.mapIdx_cons, Nat.add_assoc, Nat.add_comm 1]
      · rw [← ih]
        simp [runBytes]
    · next hr =>
      rw [hr] at ih
      simp [← ih, runBytes]

theorem runsOf_length {bs : List (Nat × Byte)} {r : Nat × List Byte} (h : r ∈ runsOf bs) : 0 < r.2.length := by
  induction bs generalizing r with
  | nil => simp [runsOf] at h
  | cons y bs ih =>
    obtain ⟨a, b⟩ := y
    unfold runsOf at h
    split at h
    · next a2 ls rs hr =>
      split at h
      · obtain rfl | h := List.mem_cons.mp h
        · simp
        · exact ih (hr ▸ .tail _ h)
      · obtain rfl | h := List.mem_cons.mp h
        · simp
        · exact ih (hr ▸ h)
    · obtain rfl := List.mem_singleton.mp h
      simp

theorem mem_runBytes {r : Nat × List Byte} {x : Nat × Byte} : x ∈ runBytes r ↔ ∃ i, i < r.2.length ∧ x = (r.1 + i, r.2.getD i 0) := by
  simp only [runBytes, List.mem_mapIdx]
  refine exists_congr fun i => ⟨?_, ?_⟩
  · rintro ⟨hi, rfl⟩
    exact ⟨hi, by simp [hi]⟩
  · rintro ⟨hi, rfl⟩
    exact ⟨hi, by simp [hi]⟩

/-- The byte at an offset of a packet's payload. -/
def payloadByte (p : Packet) (k : Nat) : Byte := BitVec.ofNat 8 (p.payload.toNat / 2 ^ (8 * k))

/-- A run of a write's bytes lies in its line, holds the payload's bytes, and those that are enabled. -/
theorem run_of_write {p : Packet} {r : Nat × List Byte} (h : r ∈ runsOf (beBytes p)) : r.1 % 64 + r.2.length ≤ 64 ∧
    ∀ i, i < r.2.length → p.be.getLsbD (r.1 % 64 + i) = true ∧ r.2.getD i 0 = payloadByte p (r.1 % 64 + i) := by
  have hbyte (i : Nat) (hi : i < r.2.length) : ∃ k, k < 64 ∧ p.be.getLsbD k = true ∧ r.1 + i = p.addr.toNat / 64 * 64 + k ∧
      r.2.getD i 0 = payloadByte p k := by
    have hmem : (r.1 + i, r.2.getD i 0) ∈ beBytes p := by
      rw [← runsOf_bytes (beBytes p)]
      exact List.mem_flatMap.mpr ⟨r, h, mem_runBytes.mpr ⟨i, hi, rfl⟩⟩
    obtain ⟨k, hk, hbe, heq⟩ := mem_beBytes.mp hmem
    exact ⟨k, hk, hbe, congrArg Prod.fst heq, congrArg Prod.snd heq⟩
  have hlen := runsOf_length h
  obtain ⟨k0, hk0, -, h0, -⟩ := hbyte 0 hlen
  obtain ⟨k1, hk1, -, h1, -⟩ := hbyte (r.2.length - 1) (by omega)
  refine ⟨by omega, fun i hi => ?_⟩
  obtain ⟨k, -, hbe, hk, hval⟩ := hbyte i hi
  obtain rfl : k = r.1 % 64 + i := by omega
  exact ⟨hbe, hval⟩

/-- The offsets that the runs of a write reach are those that it enables. -/
theorem runs_reach (p : Packet) (k : Nat) :
    (∃ r ∈ runsOf (beBytes p), r.1 % 64 ≤ k ∧ k < r.1 % 64 + r.2.length) ↔ k < 64 ∧ p.be.getLsbD k = true := by
  constructor
  · rintro ⟨r, hr, h1, h2⟩
    obtain ⟨hlen, hbytes⟩ := run_of_write hr
    obtain ⟨hbe, -⟩ := hbytes (k - r.1 % 64) (by omega)
    rw [show r.1 % 64 + (k - r.1 % 64) = k by omega] at hbe
    exact ⟨by omega, hbe⟩
  · rintro ⟨hk, hbe⟩
    have hmem : (p.addr.toNat / 64 * 64 + k, payloadByte p k) ∈ (runsOf (beBytes p)).flatMap runBytes := by
      rw [runsOf_bytes]
      exact mem_beBytes.mpr ⟨k, hk, hbe, rfl⟩
    obtain ⟨r, hr, hx⟩ := List.mem_flatMap.mp hmem
    obtain ⟨i, hi, heq⟩ := mem_runBytes.mp hx
    have haddr : p.addr.toNat / 64 * 64 + k = r.1 + i := congrArg Prod.fst heq
    obtain ⟨hlen, -⟩ := run_of_write hr
    exact ⟨r, hr, by omega, by omega⟩

/-- The updates that a write by a peer leaves in the queue. -/
def writeUpdates (ctx n pa size : Nat) (repl prop : Bool) (p : Packet) : List FrameUpd :=
  (runsOf (beBytes p)).flatMap (fun r => lineUpdates ctx n (pa + r.1 % 64) size repl prop r.2)

theorem mem_writeUpdates {ctx n pa size : Nat} {repl prop : Bool} {p : Packet} {u : FrameUpd}
    (h : u ∈ writeUpdates ctx n pa size repl prop p) : u.owner = .job n ∧ u.inOtherFrame pa size := by
  obtain ⟨r, hr, hu⟩ := List.mem_flatMap.mp h
  obtain ⟨-, d, hd4, hd, howner, hpa, hbs⟩ := mem_lineUpdates hu
  obtain ⟨hlen, -⟩ := run_of_write hr
  exact ⟨howner, d, hd4, hd, by omega, by rw [hbs]; omega⟩

theorem writeUpdates_nil (ctx n pa size : Nat) {repl prop : Bool} (h : ¬ (repl = true ∧ prop = false)) (p : Packet) :
    writeUpdates ctx n pa size repl prop p = [] := by simp [writeUpdates, lineUpdates, h]

/-- R323: of a replicated page with PROP 0, a write of any byte leaves an update. -/
theorem writeUpdates_ne_nil (ctx n pa size : Nat) {p : Packet} (h : p.be ≠ 0) : ∃ u, u ∈ writeUpdates ctx n pa size true false p := by
  have hbit : ∃ k, k < 64 ∧ p.be.getLsbD k = true := by
    by_contra hnone
    exact h (BitVec.eq_of_getLsbD_eq fun k hk => by simpa using fun hb => hnone ⟨k, hk, hb⟩)
  obtain ⟨k, hk⟩ := hbit
  obtain ⟨r, hr, -⟩ := (runs_reach p k).mpr hk
  exact ⟨_, List.mem_flatMap.mpr ⟨r, hr, List.mem_map.mpr ⟨1, by decide, rfl⟩⟩⟩

/-- R345: the bytes of a peer's write are written where it enables them, in each frame it reaches at once, and nowhere else. -/
theorem peerWrite_written (s : State) (p : Packet) (ctx n pa : Nat) {size : Nat} (hs : 64 ≤ size) (repl prop : Bool) :
    LineWritten s ((runsOf (beBytes p)).foldl (fun s b =>
        wrTgt s { gid := 0, ctx, die := 0, owner := .job n } (pa + b.1 % 64) size repl prop b.2) s)
      (lineAddrs (lineNow pa size repl prop) (fun k => k < 64 ∧ p.be.getLsbD k = true)) (lineVal (payloadByte p) pa size)
      (writeUpdates ctx n pa size repl prop p) := by
  have hstart : LineWritten s s (lineAddrs (lineNow pa size repl prop) (fun _ => False)) (lineVal (payloadByte p) pa size) [] :=
    (LineWritten.none s _).congr fun a => by simp [lineAddrs]
  have h := hstart.line hs ctx n (runsOf (beBytes p)) (fun r hr => ⟨(run_of_write hr).1, fun i hi => ((run_of_write hr).2 i hi).2⟩)
    (by simp) (by simp)
  simp only [false_or, runs_reach] at h
  exact h

end Sys2Proof.Machine
end

section
/-!
PROOFS. Requests of peers and the answers to this device's (R341, R344 to R347, R401, R438), and the obligation Peers.
-/
namespace Sys2Proof.Machine
open Sys2Proof.Claims

/-! ### Messages -/

theorem State.send_linked {s : State} (h : linked s = true) (m : OutMsg) : s.send m = { s with out := s.out ++ [m] } := if_pos h

theorem State.send_unlinked {s : State} (h : linked s = false) (m : OutMsg) : s.send m = s := by
  unfold State.send
  rw [h]
  rfl

theorem State.send_frame (s : State) (m : OutMsg) : { s.send m with out := s.out } = s := by
  unfold State.send
  split <;> rfl

theorem State.nack_frame (s : State) (p : Packet) (d c sub : Nat) : { s.nack p d c sub with out := s.out } = s := by
  unfold State.nack
  split
  · rfl
  · exact s.send_frame _

theorem linked_congr {s t : State} (hsvc : t.svclevel = s.svclevel) (hports : t.ports = s.ports) : linked t = linked s := by
  unfold linked
  rw [hsvc, hports]

/-! ### A request that arrives -/

/-- The instructions of requests, with what arrives; a write of the message window is none. -/
theorem exec_request {p q : Packet} {i : Instr} (h : (i, q) ∈ requestRows p) (hw : i = .remoteWrite p → inWindow p.addr = false) :
    (∀ s, exec i s = .next (arrive s q)) ∧ ∃ cls, q = { p with cls := cls } := by
  simp only [requestRows, List.mem_cons, Prod.mk.injEq, List.not_mem_nil, or_false] at h
  obtain ⟨rfl, rfl⟩ | ⟨rfl, rfl⟩ | ⟨rfl, rfl⟩ := h
  · exact ⟨fun _ => rfl, 0, rfl⟩
  · refine ⟨fun s => ?_, 1, rfl⟩
    show execRemoteWrite p s = _
    simp [execRemoteWrite, hw rfl]
  · exact ⟨fun _ => rfl, 2, rfl⟩

section Arrive
variable {s : State} {q : Packet} (h : requestNew s q)
include h

theorem arrive_foreign (hf : foreign s q.job q.src = true) : arrive s q = s.nack q 4 0 0 := by
  obtain ⟨hlink, hack, -, hrem, -⟩ := h
  have hq : { q with acked := false } = q := by rw [← hack]
  have hnone : s.remotes.find? (fun r => r.is q) = none := List.find?_eq_none.mpr fun r hr => by simp [hrem r hr]
  simp [arrive, hnone, hq, hlink, hf]

theorem arrive_requests (hf : foreign s q.job q.src = false) : arrive s q = remoteRequest s q := by
  obtain ⟨hlink, hack, hhook, hrem, -⟩ := h
  have hq : { q with acked := false } = q := by rw [← hack]
  have hnone : s.remotes.find? (fun r => r.is q) = none := List.find?_eq_none.mpr fun r hr => by simp [hrem r hr]
  simp [arrive, hnone, hq, hlink, hf, hhook]

/-- Nothing like it waits here. -/
theorem remoteRequest_fresh : (s.remotes.any (fun r => r.is q && r.origin != 0) || s.frameJobs.any (fun j => j.2.answers q)) = false ∧
    s.remotes.filter (fun r => !r.is q) = s.remotes ∧ { s with remotes := s.remotes.filter (fun r => !r.is q) } = s := by
  obtain ⟨-, -, -, hrem, hjobs⟩ := h
  have hall : s.remotes.filter (fun r => !r.is q) = s.remotes := List.filter_eq_self.mpr fun r hr => by simp [hrem r hr]
  refine ⟨?_, hall, by rw [hall]⟩
  · rw [Bool.or_eq_false_iff, List.any_eq_false, List.any_eq_false]
    exact ⟨fun r hr => by simp [hrem r hr], fun j hj => by simp [hjobs j hj]⟩

/-- R344: of a job that is not bound here. -/
theorem arrive_unbound (hc : ctxOfJob s q.job = none) : arrive s q = s.nack q 4 0 0 := by
  obtain ⟨hfresh, -, hs⟩ := remoteRequest_fresh h
  rw [arrive_requests h (by simp [foreign, hc]), remoteRequest, if_neg (by simp [hfresh])]
  simp only [hs, hc]

variable {ctx : Nat} {x : Ctx} (hc : ctxOfJob s q.job = some ctx) (hx : Map.find s.ctxs ctx = some x)
include hc hx

/-- R340: of a sender that is no device of the job. -/
theorem arrive_unmapped (hm : x.mapsRank q.src = false) : arrive s q = s.nack q 4 0 0 :=
  arrive_foreign h (by simp [foreign, hc, hx, hm])

variable (hm : x.mapsRank q.src = true)
include hm

/-- R401: of a closed context. -/
theorem arrive_closed (hl : x.lateClosed = true) : arrive s q = s.nack q 3 0 0 := by
  obtain ⟨hfresh, -, hs⟩ := remoteRequest_fresh h
  rw [arrive_requests h (by simp [foreign, hc, hx, hm]), remoteRequest, if_neg (by simp [hfresh])]
  simp only [hs, hc, hx, hm, hl, Bool.not_true, Bool.false_eq_true, if_false, if_true]

variable (hl : x.lateClosed = false)
include hl

/-- R401: while late packets are buffered, what needs an answer is refused, and a write is acknowledged and kept. -/
theorem arrive_late (hb : x.lateStart = true) : arrive s q = if q.cls == 0 || q.returning then s.nack q 3 0 0
    else ({ s with ctxs := Map.put s.ctxs ctx { x with late := x.late ++ [q] } } : State).send (.ack q.src q.tag) := by
  obtain ⟨hfresh, hall, -⟩ := remoteRequest_fresh h
  rw [arrive_requests h (by simp [foreign, hc, hx, hm]), remoteRequest, if_neg (by simp [hfresh])]
  simp only [hall, hc, hx, hm, hl, hb, Bool.not_true, Bool.false_eq_true, if_false, if_true]

theorem arrive_served (hb : x.lateStart = false) : arrive s q = serveOrFault s ctx q := by
  obtain ⟨hfresh, -, hs⟩ := remoteRequest_fresh h
  rw [arrive_requests h (by simp [foreign, hc, hx, hm]), remoteRequest, if_neg (by simp [hfresh])]
  simp only [hs, hc, hx, hm, hl, hb, Bool.not_true, Bool.false_eq_true, if_false]

end Arrive

theorem arrive_open {s : State} {q : Packet} {ctx : Nat} {x : Ctx} (h : requestOpen s q ctx x) : arrive s q = serveOrFault s ctx q := by
  obtain ⟨hnew, hc, hx, hm, hb, hl⟩ := h
  exact arrive_served hnew hc hx hm hl hb

/-- R341: a message of an unknown class, or of a job not held here. -/
theorem window_counted {s : State} {p : Packet} (hlink : linked s = true) (hw : inWindow p.addr = true)
    (h : bits p.addr 15 12 = 0 ∨ 4 < bits p.addr 15 12 ∨ ctxOfJob s p.job = none) :
    exec (.remoteWrite p) s = .next { s with fabErrs := s.fabErrs + 1 } := by
  show execRemoteWrite p s = _
  have hcount : (bits p.addr 15 12 == 0 || decide (4 < bits p.addr 15 12) || (ctxOfJob s p.job).isNone) = true := by
    simpa [or_assoc] using h
  simp [execRemoteWrite, hw, hlink, windowWrite, hcount]

/-! ### Reads (R345) -/

theorem remoteXlate_ok {s s1 : State} {ctx pa size : Nat} {repl prop : Bool} {va : DWord} {a : Acc}
    (h : remoteXlate s ctx va a = .ok (pa, size, repl, prop, s1)) :
    xlate s hubCore ctx (ctxRoot s ctx) va a = .ok (.loc pa size repl prop, s1) := by
  unfold remoteXlate at h
  cases hx : xlate s hubCore ctx (ctxRoot s ctx) va a with
  | error e =>
    unfold ctxRoot at hx
    simp [hx, bind, Except.bind] at h
  | ok r =>
    obtain ⟨tg, t⟩ := r
    unfold ctxRoot at hx
    simp only [hx, bind, Except.bind] at h
    cases tg with
    | peer rank => cases h
    | loc => cases h; rfl

section Read
variable {s s1 : State} {p : Packet} {ctx pa size : Nat} {repl prop : Bool}
variable (hx : remoteXlate s ctx (BitVec.ofNat 64 (p.addr.toNat / 64 * 64)) .r = .ok (pa, size, repl, prop, s1))
  (hpres : presentIn s1 pa 64 = true)
include hx hpres

theorem serveRead_answers (hpois : poisoned s1.poison pa 64 = false) :
    serveRead s ctx p = .done (s1.send (.response p.src p.tag (lineOf (s1.rd pa 64)))) := by
  simp [serveRead, hx, hpres, hpois]

theorem serveRead_poisoned (hpois : poisoned s1.poison pa 64 = true) : serveRead s ctx p = .fault cMachine 2 := by
  simp [serveRead, hx, hpres, hpois]

end Read

section Machine
variable (s : State) (ctx : Nat) (p : Packet) (d : Nat)

/-- The state in which a machine check is counted. -/
def machineChecked : State := { s with machChk := s.machChk + 1 }

theorem remoteFault_refused (h : lowestTeamCore s ctx = none ∨ trapsOn s ctx = false) : remoteFault s ctx p cMachine d =
    (machineChecked s).nack p (nackDetail cMachine) cMachine d := by
  have hteam : lowestTeamCore { s with machChk := s.machChk + 1 } ctx = lowestTeamCore s ctx := rfl
  have htraps : trapsOn { s with machChk := s.machChk + 1 } ctx = trapsOn s ctx := rfl
  simp only [remoteFault, beq_self_eq_true, if_true, hteam, htraps]
  obtain h | h := h
  · rw [h]
    rfl
  · rw [h]
    split <;> rfl

/-- R438: the origin of a request's fault. -/
theorem remoteFault_queued {core : Nat} (hl : lowestTeamCore s ctx = some core) (ht : trapsOn s ctx = true) : ∃ o rs,
    remoteFault s ctx p cMachine d = { (machineChecked s).takeId.2.putCore core
      { s.coreAt core with trapq := queueOrigin (s.coreAt core).trapq o } with remotes := rs } ∧
    o.cause = cMachine ∧ o.detail = d ∧ o.remote = some p.src ∧ o.ctx = ctx := by
  have hteam : lowestTeamCore { s with machChk := s.machChk + 1 } ctx = lowestTeamCore s ctx := rfl
  have htraps : trapsOn { s with machChk := s.machChk + 1 } ctx = trapsOn s ctx := rfl
  simp only [remoteFault, beq_self_eq_true, if_true, hteam, htraps, hl, ht]
  exact ⟨_, _, rfl, rfl, rfl, rfl, rfl⟩

/-- R438: a poisoned byte that a request meets is counted, and becomes an origin of its context where that takes traps. -/
theorem remoteFault_machine :
    (remoteFault s ctx p cMachine d).machChk = s.machChk + 1 ∧ (remoteFault s ctx p cMachine d).mem = s.mem ∧
    ∀ core, lowestTeamCore s ctx = some core → trapsOn s ctx = true → ∃ o, o ∈ ((remoteFault s ctx p cMachine d).coreAt core).trapq ∧
      o.cause = cMachine ∧ o.detail = d ∧ o.remote = some p.src ∧ o.ctx = ctx := by
  by_cases h : lowestTeamCore s ctx = none ∨ trapsOn s ctx = false
  · rw [remoteFault_refused s ctx p d h]
    have hframe := (machineChecked s).nack_frame p (nackDetail cMachine) cMachine d
    refine ⟨(congrArg State.machChk hframe :), (congrArg State.mem hframe :), fun core hl ht => ?_⟩
    simp [hl, ht] at h
  · obtain ⟨hl, ht⟩ := not_or.mp h
    obtain ⟨core, hcore⟩ := Option.ne_none_iff_exists'.mp hl
    obtain ⟨o, rs, heq, horigin⟩ := remoteFault_queued s ctx p d hcore (by simpa using ht)
    rw [heq]
    refine ⟨rfl, rfl, fun core' hl' _ => ⟨o, ?_, horigin⟩⟩
    obtain rfl : core = core' := Option.some.inj (hcore.symm.trans hl')
    show o ∈ (State.coreAt ((machineChecked s).takeId.2.putCore core _) core).trapq
    rw [coreAt_putCore, if_pos rfl]
    exact mem_queueOrigin _ o

end Machine

/-! ### Writes (R345, R346) -/

section Write
variable {s s1 : State} {p : Packet} {ctx pa size : Nat} {repl prop : Bool}

/-- The line of a write, in the state that has taken a number for it. -/
def peerWritten (s1 : State) (p : Packet) (ctx pa size : Nat) (repl prop : Bool) : State :=
  (runsOf (beBytes p)).foldl (fun s b =>
    wrTgt s { gid := 0, ctx, die := 0, owner := .job s1.nextId } (pa + b.1 % 64) size repl prop b.2) s1.takeId.2

theorem serveWrite_performed (hx : remoteXlate s ctx (BitVec.ofNat 64 (p.addr.toNat / 64 * 64)) .w = .ok (pa, size, repl, prop, s1))
    (hf : ∀ f, f ∈ framesOf pa size repl → presentIn s1 f 64 = true ∧ taggedIn s1.tags f 64 = false) :
    serveWrite s ctx p = .done (afterFrames (peerWritten s1 p ctx pa size repl prop) s1.nextId (.reply p (.ack p.src p.tag))
      (fun s => replyTo s ctx p (.ack p.src p.tag))) := by
  have htag : (framesOf pa size repl).any (fun a => taggedIn s1.tags a 64) = false :=
    List.any_eq_false.mpr fun f h => by simp [(hf f h).2]
  have hpres : (framesOf pa size repl).all (fun a => presentIn s1 a 64) = true := List.all_eq_true.mpr fun f h => (hf f h).1
  simp only [serveWrite, hx, htag, hpres, Bool.not_true, Bool.false_eq_true, if_false]
  rfl

end Write

theorem afterFrames_none {s : State} {n : Nat} (h : ∀ u, u ∈ s.frameQ → u.owner ≠ .job n) (j : FrameJob) (now : State → State) :
    afterFrames s n j now = now s := by
  have hany : s.frameQ.any (fun u => u.owner == .job n) = false := List.any_eq_false.mpr fun u hu => by simpa using h u hu
  simp [afterFrames, hany]

theorem afterFrames_some {s : State} {n : Nat} (h : ∃ u, u ∈ s.frameQ ∧ u.owner = .job n) (j : FrameJob) (now : State → State) :
    afterFrames s n j now = { s with frameJobs := Map.put s.frameJobs n j } := by
  have hany : s.frameQ.any (fun u => u.owner == .job n) = true := List.any_eq_true.mpr (by simpa using h)
  simp [afterFrames, hany]

/-- The answer to a request that has had none, and brings no credit. -/
theorem replyTo_sends {p : Packet} (hc : p.credit = none) (ha : p.acked = false) (s : State) (ctx : Nat) (m : OutMsg) :
    replyTo s ctx p m = s.send m := by
  simp [replyTo, hc, ha]

/-- What follows a write that only sends its answer leaves memory and the queue of updates as they are. -/
theorem afterFrames_reply_frame (s : State) (n : Nat) (j : FrameJob) (m : OutMsg) :
    { afterFrames s n j (fun s => s.send m) with out := s.out, frameJobs := s.frameJobs } = s := by
  unfold afterFrames
  split
  · rfl
  · exact (congrArg (fun y : State => { y with frameJobs := s.frameJobs }) (s.send_frame m) :)

/-! ### Atomics (R264, R265, R345) -/

theorem serveAtomic_performed {s s1 s2 : State} {p : Packet} {ctx pa size old : Nat} {repl prop : Bool} (hok : atomicOk p = true)
    (hx : remoteXlate s ctx p.addr .w = .ok (pa, size, repl, prop, s1))
    (ha : atomAt { s1 with nextId := s1.nextId + 1 } { gid := 0, ctx, die := 0, owner := .job s1.nextId } pa size repl prop p.aop p.aty p.awid
      (p.payload.toNat % 2 ^ (8 * p.awid)) (p.cmp.toNat % 2 ^ (8 * p.awid)) = .ok (old, s2)) {m : OutMsg}
    (hm : m = if p.returning then .response p.src p.tag (BitVec.ofNat 512 old) else .ack p.src p.tag) :
    serveAtomic s ctx p = .done (afterFrames s2 s1.nextId (.reply p m) (fun s => replyTo s ctx p m)) := by
  subst hm
  simp only [serveAtomic, hok, hx, Bool.not_true, Bool.false_eq_true, if_false, State.takeId]
  rw [ha]

/-! ### Answers to this device's requests (R346, R347) -/

section Answers
variable {s : State} {tag : Nat} {r : FabReq} {g : Group}

/-- The state whose request `tag` is over and whose group `gid` has changed. -/
def requestOver (s : State) (tag gid : Nat) (f : Group → Group) : State :=
  { s with fabReqs := Map.del s.fabReqs tag, groups := Map.modify s.groups gid f }

theorem requestOver_spec {gid : Nat} (hg : Map.find s.groups gid = some g) (f : Group → Group) :
    Map.find (requestOver s tag gid f).fabReqs tag = none ∧ Map.find (requestOver s tag gid f).groups gid = some (f g) ∧
    { requestOver s tag gid f with groups := s.groups, fabReqs := s.fabReqs } = s ∧
    (∀ k, k ≠ tag → Map.find (requestOver s tag gid f).fabReqs k = Map.find s.fabReqs k) ∧
    ∀ k, k ≠ gid → Map.find (requestOver s tag gid f).groups k = Map.find s.groups k := by
  refine ⟨?_, Map.find_modify_some hg f, rfl, fun k hk => ?_, fun k hk => ?_⟩
  · simp [requestOver]
  · exact Map.find_del_ne _ hk
  · simp [requestOver, Map.find_modify, hk]

variable (hlink : linked s = true) (hr : Map.find s.fabReqs tag = some r) (hpost : r.posted = true) (hcopy : r.copy = none)
  (hscribe : r.scribe = none)
include hlink hr hpost hcopy hscribe

theorem ack_posted : exec (.ackReceived tag) s = .next (requestOver s tag r.gid (fun g => { g with acks := g.acks - 1 })) := by
  show execAckReceived tag s = _
  simp [execAckReceived, hr, hlink, hpost, ackReq, hcopy, hscribe, requestOver]

/-- The write that a peer has refused. -/
def refusedWrite (tag detail : Nat) (r : FabReq) : HeldWrite :=
  { tag, pkt := r.pkt, va := r.va, detail, pc := r.pc, pos := r.pos, lane := lowLane r.lanes, mask := r.mask, raised := false, seen := r.seen }

theorem nack_posted (hg : Map.find s.groups r.gid = some g) (hroom : g.held.length < 16) (detail : Nat) :
    exec (.nackReceived tag detail) s = .next (requestOver s tag r.gid (fun g => { g with held := g.held ++ [refusedWrite tag detail r] })) := by
  have hfull : heldFull { s with fabReqs := Map.del s.fabReqs tag } r.gid = false := by simpa [heldFull, hg] using hroom
  show execNackReceived tag detail s = _
  simp only [execNackReceived, hr, hlink, nackReq, hcopy, hscribe, hpost, hfull]
  rfl

end Answers

theorem timeout_early {s : State} {tag : Nat} {r : FabReq} (hr : Map.find s.fabReqs tag = some r) (h : s.tick < r.sent + 4000000) :
    exec (.remoteRequestTimeout tag) s = .next s := by
  show execRemoteRequestTimeout tag s = _
  simp [execRemoteRequestTimeout, hr, h]

theorem timeout_late {s : State} {tag : Nat} {r : FabReq} (hr : Map.find s.fabReqs tag = some r) (h : r.sent + 4000000 ≤ s.tick)
    (hlink : linked s = true) : exec (.remoteRequestTimeout tag) s = exec (.nackReceived tag 3) s := by
  show execRemoteRequestTimeout tag s = execNackReceived tag 3 s
  simp [execRemoteRequestTimeout, execNackReceived, hr, hlink, Nat.not_lt.mpr h]

/-! ### No port is up (log entry 109) -/

theorem arrive_unlinked {s : State} {q : Packet} (hlink : linked s = false) (h : ∀ r, r ∈ s.remotes → r.is q = false) : arrive s q = s := by
  have hnone : s.remotes.find? (fun r => r.is q) = none := List.find?_eq_none.mpr fun r hr => by simp [h r hr]
  simp [arrive, hnone, hlink]

theorem request_unlinked {s : State} {p : Packet} (hlink : linked s = false) (h : ∀ r, r ∈ s.remotes → r.is p = false) :
    ∀ x, x ∈ requestRows p → exec x.1 s = .next s := by
  intro x hx
  simp only [requestRows, List.mem_cons, List.not_mem_nil, or_false] at hx
  obtain rfl | rfl | rfl := hx
  · exact congrArg _ (arrive_unlinked (q := { p with cls := 0 }) hlink h)
  · show execRemoteWrite p s = _
    simp only [execRemoteWrite, hlink, Bool.false_eq_true, if_false]
    split
    · rfl
    · exact congrArg _ (arrive_unlinked (q := { p with cls := 1 }) hlink h)
  · exact congrArg _ (arrive_unlinked (q := { p with cls := 2 }) hlink h)

theorem answers_unlinked {s : State} (hlink : linked s = false) (tag d : Nat) :
    exec (.ackReceived tag) s = .next s ∧ exec (.nackReceived tag d) s = .next s := by
  constructor
  · show execAckReceived tag s = _
    unfold execAckReceived
    simp only [hlink, Bool.not_false, if_true]
    split <;> rfl
  · show execNackReceived tag d s = _
    unfold execNackReceived
    simp only [hlink, Bool.not_false, if_true]
    split <;> rfl

/-! ### Origins for peers (R438) -/

section Origins
variable {s : State} {tag : Nat} {r : RemoteWait} (h0 : tag ≠ 0) (hr : s.remotes.find? (fun r => r.origin == tag) = some r)
include h0 hr

theorem exec_originTimeout : exec (.remoteOriginTimeout tag) s =
    .next (if s.tick < r.since + 2000000 then s else resolveRemote s tag 2) := by
  have hnamed : s.remotes.find? (fun r => r.origin == tag && tag != 0) = some r := by
    rw [← hr]
    exact congrArg (fun p => s.remotes.find? p) (funext fun r => by simp [h0])
  show execRemoteOriginTimeout tag s = _
  simp only [execRemoteOriginTimeout, hnamed]
  split <;> rfl

/-- R438: an origin that has waited is answered with the detail of its cause. -/
theorem origin_answered (h : r.since + 2000000 ≤ s.tick) : exec (.remoteOriginTimeout tag) s =
    .next (({ s with remotes := s.remotes.filter (fun q => q.origin != tag) } : State).nack r.pkt (nackDetail r.cause) r.cause r.detail) := by
  rw [exec_originTimeout h0 hr, if_neg (Nat.not_lt.mpr h)]
  simp [resolveRemote, hr]

end Origins

theorem nack_out_congr {s t : State} (hlink : linked t = linked s) (hout : t.out = s.out) (p : Packet) (d c sub : Nat) :
    (t.nack p d c sub).out = (s.nack p d c sub).out := by
  unfold State.nack State.send
  rw [hlink]
  split
  · exact hout
  · split
    · exact congrArg (· ++ _) hout
    · exact hout

/-! ### The write of a line, with its answer (R345, R346) -/

section WriteAnswer
variable {s1 s : State} {p : Packet} {ctx pa size : Nat} {repl prop : Bool} (hsize : 64 ≤ size)
include hsize

theorem peerWritten_spec (s1 : State) (p : Packet) (ctx pa : Nat) (repl prop : Bool) :
    LineWritten s1.takeId.2 (peerWritten s1 p ctx pa size repl prop)
      (lineAddrs (lineNow pa size repl prop) (fun k => k < 64 ∧ p.be.getLsbD k = true)) (lineVal (payloadByte p) pa size)
      (writeUpdates ctx s1.nextId pa size repl prop p) := peerWrite_written s1.takeId.2 p ctx s1.nextId pa hsize repl prop

/-- The enabled bytes of each frame that the write reaches at once. -/
theorem peerWritten_enabled {f k : Nat} (hf : f ∈ lineNow pa size repl prop) (hk : k < 64) (hbe : p.be.getLsbD k = true) :
    (peerWritten s1 p ctx pa size repl prop).mem.byte (f + k) = payloadByte p k := by
  rw [(peerWritten_spec hsize s1 p ctx pa repl prop).bytes (f + k) ⟨f, hf, k, ⟨hk, hbe⟩, rfl⟩]
  rw [lineNow_eq] at hf
  obtain ⟨d, -, rfl⟩ := List.mem_map.mp hf
  exact lineVal_frame _ pa d (by omega)

/-- No other byte, but for updates that were queued before. -/
theorem peerWritten_kept {a : Nat} (ha : ∀ f, f ∈ lineNow pa size repl prop → ¬ (f ≤ a ∧ a < f + 64 ∧ p.be.getLsbD (a - f) = true))
    (hq : ∀ u, u ∈ s1.frameQ → ¬ u.covers a) : (peerWritten s1 p ctx pa size repl prop).mem.byte a = s1.mem.byte a := by
  refine (peerWritten_spec hsize s1 p ctx pa repl prop).kept a ?_ hq
  rintro ⟨f, hf, k, ⟨hk, hbe⟩, rfl⟩
  exact ha f hf ⟨by omega, by omega, by rwa [Nat.add_sub_cancel_left]⟩

/-- An update that is queued under the write's number is one of the write's. -/
theorem peerWritten_owned (hown : ∀ u, u ∈ s1.frameQ → u.owner ≠ .job s1.nextId) {u : FrameUpd}
    (hu : u ∈ (peerWritten s1 p ctx pa size repl prop).frameQ) (ho : u.owner = .job s1.nextId) :
    u ∈ writeUpdates ctx s1.nextId pa size repl prop p := by
  obtain ⟨old, hq, hold⟩ := (peerWritten_spec hsize s1 p ctx pa repl prop).queue
  rw [hq] at hu
  exact (List.mem_append.mp hu).resolve_left fun h => hown u (hold u h) ho

theorem peerWritten_queued {u : FrameUpd} (hu : u ∈ writeUpdates ctx s1.nextId pa size repl prop p) :
    u ∈ (peerWritten s1 p ctx pa size repl prop).frameQ := by
  obtain ⟨old, hq, -⟩ := (peerWritten_spec hsize s1 p ctx pa repl prop).queue
  exact hq ▸ List.mem_append_right _ hu

theorem peerWritten_out : (peerWritten s1 p ctx pa size repl prop).out = s1.out :=
  (congrArg State.out (peerWritten_spec hsize s1 p ctx pa repl prop).frame :)

theorem peerWritten_linked : linked (peerWritten s1 p ctx pa size repl prop) = linked s1 :=
  linked_congr (congrArg State.svclevel (peerWritten_spec hsize s1 p ctx pa repl prop).frame :)
    (congrArg State.ports (peerWritten_spec hsize s1 p ctx pa repl prop).frame :)

end WriteAnswer

theorem xlate_linked {s t : State} {core ctx root : Nat} {va : DWord} {a : Acc} {tg : Tgt}
    (h : xlate s core ctx root va a = .ok (tg, t)) : linked t = linked s :=
  linked_congr (congrArg State.svclevel (xlate_frame h) :) (congrArg State.ports (xlate_frame h) :)

/-- R346: the write is answered once every frame holds it. -/
theorem exec_peerWrite {s s1 : State} {p : Packet} {ctx pa size : Nat} {repl prop : Bool} {x : Ctx}
    (ho : requestOpen s { p with cls := 1 } ctx x) (hw : inWindow p.addr = false) (hcredit : p.credit = none)
    (hx : remoteXlate s ctx (BitVec.ofNat 64 (p.addr.toNat / 64 * 64)) .w = .ok (pa, size, repl, prop, s1))
    (hf : ∀ f, f ∈ framesOf pa size repl → presentIn s1 f 64 = true ∧ taggedIn s1.tags f 64 = false) :
    exec (.remoteWrite p) s = .next (afterFrames (peerWritten s1 p ctx pa size repl prop) s1.nextId
      (.reply { p with cls := 1 } (.ack p.src p.tag)) (fun s => s.send (.ack p.src p.tag))) := by
  obtain ⟨hexec, -⟩ := exec_request (p := p) (i := .remoteWrite p) (q := { p with cls := 1 }) (by simp [requestRows]) (fun _ => hw)
  rw [hexec, arrive_open ho]
  have hserve := serveWrite_performed (p := { p with cls := 1 }) hx hf
  have hsend : (fun s => replyTo s ctx { p with cls := 1 } (.ack p.src p.tag)) = fun s => s.send (.ack p.src p.tag) :=
    funext fun s => replyTo_sends (p := { p with cls := 1 }) hcredit ho.1.2.1 s ctx _
  simp only [serveOrFault, serve, hserve]
  rw [hsend]
  rfl

end Sys2Proof.Machine
open Sys2Proof Sys2Proof.Machine Sys2Proof.Claims

/-- Settles O45: requests by what `arrive` and `serve` make of them; a write by the runs of its bytes (`LineWritten`); answers by what
becomes of their request. -/
theorem peers : Obligations.Peers := by
  unfold Obligations.Peers
  refine ⟨⟨?refused, ?window, ?read, ?write, ?atomic⟩, ?answers, ?timeout, ?unlinked, ?origins⟩
  case refused =>
    intro s p i q hi hnew hw
    obtain ⟨hexec, cls, rfl⟩ := exec_request hi hw
    refine ⟨fun hc => ?_, fun ctx x hc hx hm => ?_, fun ctx x hc hx hm => ⟨fun hl => ?_, fun hl hb hq => ?_, fun hl hb h0 hret => ?_⟩⟩
    · rw [hexec, arrive_unbound hnew hc]; rfl
    · rw [hexec, arrive_unmapped hnew hc hx hm]; rfl
    · rw [hexec, arrive_closed hnew hc hx hm hl]; rfl
    · rw [hexec, arrive_late hnew hc hx hm hl hb, if_pos (by simpa using hq)]; rfl
    · rw [hexec, arrive_late hnew hc hx hm hl hb, if_neg (by simpa [show cls ≠ 0 from h0] using hret)]
  case window => exact fun s p hlink hw h => window_counted hlink hw h
  case read =>
    intro s s1 p ctx pa size repl prop x ho hx hpres
    have hexec : exec (.remoteRead p) s = .next (serveOrFault s ctx { p with cls := 0 }) := congrArg _ (arrive_open ho)
    refine ⟨fun hpois => ⟨?_, xlate_read_mem (remoteXlate_ok hx)⟩, fun hpois => ?_⟩
    · have hserve := serveRead_answers (p := { p with cls := 0 }) hx hpres hpois
      rw [hexec]
      simp only [serveOrFault, serve, hserve]
      rfl
    · have hserve := serveRead_poisoned (p := { p with cls := 0 }) hx hpres hpois
      obtain ⟨hcount, hmem, horigin⟩ := remoteFault_machine s ctx { p with cls := 0 } 2
      refine ⟨_, hexec.trans ?_, hcount, hmem, horigin⟩
      simp only [serveOrFault, serve, hserve]
  case write =>
    intro s s1 p ctx pa size repl prop x ho hw hcredit howner hsize hx hf now
    have hframe := xlate_frame (remoteXlate_ok hx)
    have hid : s1.nextId = s.nextId := (congrArg State.nextId hframe :)
    have hq1 : s1.frameQ = s.frameQ := (congrArg State.frameQ hframe :)
    have hout1 : s1.out = s.out := (congrArg State.out hframe :)
    have hlink : linked s1 = true := (xlate_linked (remoteXlate_ok hx)).trans ho.1.1
    have hown1 : ∀ u, u ∈ s1.frameQ → u.owner ≠ .job s1.nextId := by rwa [hq1, hid]
    have hdone := afterFrames_reply_frame (peerWritten s1 p ctx pa size repl prop) s1.nextId (.reply { p with cls := 1 } (.ack p.src p.tag))
      (.ack p.src p.tag)
    have hmem := (congrArg State.mem hdone :)
    refine ⟨_, exec_peerWrite ho hw hcredit hx hf, fun f k hf hk hbe => ?_, fun a ha hq => ?_, fun hrep => ?_, fun hr hp hbe => ?_⟩
    · rw [hmem]
      exact peerWritten_enabled hsize hf hk hbe
    · rw [hmem]
      exact peerWritten_kept hsize ha (hq1 ▸ hq)
    · rw [afterFrames_none, State.send_linked ((peerWritten_linked hsize).trans hlink)]
      · exact congrArg (· ++ [OutMsg.ack p.src p.tag]) ((peerWritten_out hsize).trans hout1)
      · intro u hu how
        have hnil := writeUpdates_nil ctx s1.nextId pa size (repl := repl) (prop := prop) (by rintro ⟨rfl, rfl⟩; simp at hrep) p
        have hmine := peerWritten_owned hsize hown1 hu how
        rw [hnil] at hmine
        simp at hmine
    · subst hr hp
      obtain ⟨u, hu⟩ := writeUpdates_ne_nil ctx s1.nextId pa size hbe
      have hwaits := afterFrames_some ⟨u, peerWritten_queued hsize hu, (mem_writeUpdates hu).1⟩ (.reply { p with cls := 1 } (.ack p.src p.tag))
        (fun s => s.send (.ack p.src p.tag))
      rw [hwaits, ← hid]
      exact ⟨(peerWritten_out hsize).trans hout1, Map.find_put_self .., fun u hu how => (mem_writeUpdates (peerWritten_owned hsize hown1 hu how)).2⟩
  case atomic =>
    intro s s1 s2 p ctx pa size old repl prop x ho hok hcredit hx ha m
    have hserve := serveAtomic_performed (p := { p with cls := 2 }) hok hx ha (m := m) rfl
    have hexec : exec (.remoteAtomic p) s = .next (afterFrames s2 s1.nextId (.reply { p with cls := 2 } m)
        (fun s => replyTo s ctx { p with cls := 2 } m)) := by
      refine (congrArg _ (arrive_open ho) : exec (.remoteAtomic p) s = .next (serveOrFault s ctx { p with cls := 2 })).trans ?_
      simp only [serveOrFault, serve, hserve]
    refine ⟨fun h => ?_, fun h => ?_⟩
    · rw [hexec, afterFrames_none h, replyTo_sends (p := { p with cls := 2 }) hcredit ho.1.2.1]
    · rw [hexec, afterFrames_some h]
  case answers =>
    intro s tag r g hlink hr hpost hcopy hscribe hg
    refine ⟨?_, fun detail hroom => ?_⟩
    · obtain ⟨hreq, hgr, hframe, hreqs, hgrs⟩ := requestOver_spec (tag := tag) hg (fun g => { g with acks := g.acks - 1 })
      exact ⟨_, _, ack_posted hlink hr hpost hcopy hscribe, hreq, hgr, rfl, hframe, hreqs, hgrs⟩
    · obtain ⟨hreq, hgr, hframe, hreqs, hgrs⟩ :=
        requestOver_spec (tag := tag) hg (fun g => { g with held := g.held ++ [refusedWrite tag detail r] })
      exact ⟨_, _, nack_posted hlink hr hpost hcopy hscribe hg hroom detail, hreq, hgr, rfl, hframe, hreqs, hgrs⟩
  case timeout => exact fun s tag r hr => ⟨timeout_early hr, timeout_late hr⟩
  case unlinked =>
    intro s p tag d hlink
    exact ⟨s.send_unlinked hlink, request_unlinked hlink, answers_unlinked hlink tag d⟩
  case origins =>
    intro s tag r h0 hr
    refine ⟨fun h => by rw [exec_originTimeout h0 hr, if_pos h], fun h => ⟨_, origin_answered h0 hr h, ?_, ?_, ?_⟩⟩
    · exact nack_out_congr (s := s) (t := { s with remotes := s.remotes.filter (fun q => q.origin != tag) }) rfl rfl ..
    · exact (congrArg State.remotes (State.nack_frame _ r.pkt (nackDetail r.cause) r.cause r.detail) :)
    · exact (congrArg (fun y : State => { y with remotes := s.remotes })
        (State.nack_frame { s with remotes := s.remotes.filter (fun q => q.origin != tag) } r.pkt (nackDetail r.cause) r.cause r.detail) :)
end
